-- ==== Sys2Proof/Word.lean ====
section
/-! DEFINITION. The plain types of the model: bytes, words, and the sparse map that registers and
buffers are held in. -/

namespace Sys2Proof

/-- One byte. -/
abbrev Byte := BitVec 8

/-- One 32-bit lane of a vector register or one word of the operand cache. -/
abbrev Word := BitVec 32

/-- A sparse map from numbers: pairs in strictly rising order of key, none holding the value an
unlisted key reads as. -/
abbrev SMap (α : Type) := List (Nat × α)

/-- The number formats of 02 R38 but for the scale format E8M0. -/
inductive Fmt where
  | ternary | e2m1 | int4 | e2m3 | e3m2 | e4m3 | e5m2 | int8 | bf16 | fp16 | fp32 | int32
  deriving DecidableEq, Repr

/-- Rounding modes of 04 R103. -/
inductive RMode where
  | rne | rtz | rdn | rup
  deriving DecidableEq, Repr

/-- Comparison conditions of VCMP and ICMP (04 R98 R102). -/
inductive Cc where
  | eq | ne | lt | le | gt | ge
  deriving DecidableEq, Repr

end Sys2Proof
end

