-- ==== Sys2Proof/Syntax.lean ====
section
/-! DEFINITION. The commands of the module: one constructor of `Instr` for each row of the table of
operations and events. -/

namespace Sys2Proof

/-- What the sequencer of a die delivers with a stream instruction: the die, the tile mask selector and the wait count
(05 R117 R124), and the loop counters c0 to c3 of its program at issue (05 R118). -/
structure Issue where
  die : Fin 4
  sel : Fin 16
  wait : Nat
  c0 : Nat
  c1 : Nat
  c2 : Nat
  c3 : Nat
  deriving DecidableEq, Repr

/-- The governing predicate register of a vector instruction and its mode, zero or merge (04 R93). -/
structure Gov where
  p : Fin 8
  zero : Bool
  deriving DecidableEq, Repr

/-- A source register, or the broadcast of its lane 0, marked .B (04 R98). -/
structure Src where
  r : Fin 64
  b : Bool
  deriving DecidableEq, Repr

/-- A line address expression (05 R130). -/
structure LineAddr where
  base : Int
  sT : Int
  s0 : Int
  s1 : Int
  s2 : Int
  s3 : Int
  bp : Option (Fin 64)
  deriving DecidableEq, Repr

/-- The tile operand of MVT and MRX (05 R132): a logical tile, or TI plus a constant modulo 4 Tpd. -/
inductive TileRef where
  | abs (n : Nat)
  | rel (k : Int)
  deriving DecidableEq, Repr

/-- What an MLD or MST names: a region of the plan (05 R131) or the weight view of a directory entry
(09 R292). -/
inductive RegionRef where
  | region (n : Nat)
  | view (e : Nat)
  deriving DecidableEq, Repr

/-- Where the queue bytes of activation vectors come from: one queue or a pair (03 R74). -/
inductive QSrc where
  | one (q : Fin 8)
  | pair (q : Fin 8)
  deriving DecidableEq, Repr

/-- The scale operand of VQNT (04 R104). -/
inductive QScale where
  | computed | given | unscaled
  deriving DecidableEq, Repr

/-- What VCVT converts to or from (04 R103): FP32 to INT32, BF16 or FP16, and back. -/
inductive Cvt where
  | toInt | toBf16 | toFp16 | fromInt | fromBf16 | fromFp16
  deriving DecidableEq, Repr

/-- The counter operand of VSLMSK (04 R110): an immediate or an address register. -/
inductive SlotSel where
  | imm (e : Fin 256)
  | areg (a : Fin 8)
  deriving DecidableEq, Repr

/-- A request on one of the two paths into the dictionary (15 R457 R458). -/
structure Request where
  path : Fin 2
  tag : BitVec 8
  index : BitVec 16
  sub : BitVec 8
  flags : BitVec 8
  len : BitVec 8
  data : List Byte
  deriving DecidableEq, Repr

/-- The codewords of a port's direction that a carriage has bits in (11 R325): of each that no carriage before it showed, in
order, the symbols received wrong; and whether the carriage begins in the last one that an earlier carriage showed. One that
shows no new codeword lies in that one whole. -/
structure FecInfo where
  words : List (List (Fin 544))
  tail : Bool
  deriving DecidableEq, Repr

/-- Why a receiving lane fails (11 R354). -/
inductive LaneLoss where
  | lock
  | symbols (n : Nat)
  deriving DecidableEq, Repr

/-- What a host access to BAR 0 does (17 R503): a read of n bytes, or a write of bytes. The table gives no row to the writes of
configuration space that place BAR 0 and enable it, that enable and mask MSI-X, and that clear AER status bits (17 R513 R516
R518): they ride here, whatever the offset (log 29). -/
inductive BarOp where
  | read (n : Nat)
  | write (bytes : List Byte)
  | place (base : Nat) (mse : Bool)
  | msixControl (enable funcMask : Bool)
  | aerClear (bits : Nat)
  deriving DecidableEq, Repr

/-- What the boot ROM meets at reset release (18 R523 R525 R526): the flash answers; its bytes from
000000h, 400000h and 800000h; the fuse parity and the ROM's own checksum hold; a die whose copy
differs. -/
structure BootInput where
  answers : Bool
  imageA : List Byte
  imageB : List Byte
  certs : List Byte
  fusesOk : Bool
  romOk : Bool
  copyBad : Option (Fin 4)
  deriving DecidableEq, Repr

/-- What self-test finds (18 R528 R529): failed tests with their unit, failed primitives of test
0001h in its order, fitted MRDIMM capacities in GiB, and the dies' temperatures (FP32 codes). -/
structure SelfTestInput where
  failures : List (BitVec 16 × BitVec 32)
  primitives : List (Fin 7)
  dimms : List Nat
  temps : List (BitVec 32)
  deriving DecidableEq, Repr

/-- The fault that ends a step routine (16 R492). -/
inductive StewardCause where
  | protection | alignment | illegal | poison
  deriving DecidableEq, Repr

/-- What the placer or the board does not decide but the memory finds: a read of the medium
(07 R191 R194). -/
inductive EccKind where
  | correctable | uncorrectable
  deriving DecidableEq, Repr

/-- The commands. The comments name the chapter of the spec. -/
inductive Instr where
  -- 03: the matrix array
  | mpre (i : Issue) (f : Fmt) (qp : Fin 8) (qs : Option (Fin 8))
  | mstr (i : Issue) (f : Fmt) (qa : QSrc) (qs : Option (Fin 8)) (e : Fin 256) (n : Nat) (fresh swap mask : Bool)
  | mdrn (i : Issue) (e : Fin 256) (h : Fin 2) (v : Fin 64) (clear : Bool)
  | mskl (i : Issue) (v : Fin 64)
  -- 04: the vector engine
  | vadd (i : Issue) (g : Gov) (vd a : Fin 64) (b : Src)
  | vsub (i : Issue) (g : Gov) (vd a : Fin 64) (b : Src)
  | vmul (i : Issue) (g : Gov) (vd a : Fin 64) (b : Src)
  | vfma (i : Issue) (g : Gov) (vd a : Fin 64) (b c : Src)
  | vmin (i : Issue) (g : Gov) (vd a : Fin 64) (b : Src)
  | vmax (i : Issue) (g : Gov) (vd a : Fin 64) (b : Src)
  | vabs (i : Issue) (g : Gov) (vd a : Fin 64)
  | vneg (i : Issue) (g : Gov) (vd a : Fin 64)
  | vcmp (i : Issue) (g : Gov) (cc : Cc) (pd : Fin 8) (a : Fin 64) (b : Src)
  | vsel (i : Issue) (g : Gov) (vd a : Fin 64) (b : Src) (ps : Fin 8)
  | vrsum (i : Issue) (g : Gov) (vd a : Fin 64)
  | vrmax (i : Issue) (g : Gov) (vd a : Fin 64)
  | vrmaxi (i : Issue) (g : Gov) (vd a : Fin 64)
  | vexp2 (i : Issue) (g : Gov) (vd a : Fin 64)
  | vlog2 (i : Issue) (g : Gov) (vd a : Fin 64)
  | vrcp (i : Issue) (g : Gov) (vd a : Fin 64)
  | vrsq (i : Issue) (g : Gov) (vd a : Fin 64)
  | vdiv (i : Issue) (g : Gov) (vd a b : Fin 64)
  | iadd (i : Issue) (g : Gov) (vd a b : Fin 64)
  | isub (i : Issue) (g : Gov) (vd a b : Fin 64)
  | iadds (i : Issue) (g : Gov) (vd a b : Fin 64)
  | isubs (i : Issue) (g : Gov) (vd a b : Fin 64)
  | imul (i : Issue) (g : Gov) (vd a b : Fin 64)
  | imulh (i : Issue) (g : Gov) (u : Bool) (vd a b : Fin 64)
  | imad (i : Issue) (g : Gov) (vd a b c : Fin 64)
  | imin (i : Issue) (g : Gov) (u : Bool) (vd a b : Fin 64)
  | imax (i : Issue) (g : Gov) (u : Bool) (vd a b : Fin 64)
  | vand (i : Issue) (g : Gov) (vd a b : Fin 64)
  | vor (i : Issue) (g : Gov) (vd a b : Fin 64)
  | vxor (i : Issue) (g : Gov) (vd a b : Fin 64)
  | vnot (i : Issue) (g : Gov) (vd a : Fin 64)
  | vshl (i : Issue) (g : Gov) (vd a b : Fin 64)
  | vshr (i : Issue) (g : Gov) (vd a b : Fin 64)
  | vsra (i : Issue) (g : Gov) (vd a b : Fin 64)
  | icmp (i : Issue) (g : Gov) (cc : Cc) (u : Bool) (pd : Fin 8) (a b : Fin 64)
  | vmov (i : Issue) (g : Gov) (vd a : Fin 64)
  | vmovi (i : Issue) (g : Gov) (vd : Fin 64) (imm : BitVec 32)
  | vperm (i : Issue) (g : Gov) (vd a vi : Fin 64)
  | pand (i : Issue) (g : Gov) (pd a b : Fin 8)
  | por (i : Issue) (g : Gov) (pd a b : Fin 8)
  | pxor (i : Issue) (g : Gov) (pd a b : Fin 8)
  | pnot (i : Issue) (g : Gov) (pd a : Fin 8)
  | pfrom (i : Issue) (g : Gov) (pd : Fin 8) (a : Fin 64)
  | vpcnt (i : Issue) (g : Gov) (vd : Fin 64) (ps : Fin 8)
  | vcvt (i : Issue) (g : Gov) (dir : Cvt) (m : RMode) (vd a : Fin 64)
  | vrnd (i : Issue) (g : Gov) (m : RMode) (vd a : Fin 64)
  | vqnt (i : Issue) (g : Gov) (vd a vk : Fin 64) (f : Fmt) (sc : QScale) (o : Fin 256)
  | vdq (i : Issue) (g : Gov) (vd a vk : Fin 64) (f : Fmt) (scaled : Bool) (o : Fin 256)
  | vlane (i : Issue) (g : Gov) (vd : Fin 64)
  | vtid (i : Issue) (g : Gov) (vd : Fin 64)
  | amov (i : Issue) (g : Gov) (ad : Fin 8) (imm : BitVec 16)
  | aadd (i : Issue) (g : Gov) (ad : Fin 8) (imm : BitVec 16)
  | afrom (i : Issue) (g : Gov) (ad : Fin 8) (a : Fin 64)
  | vld (i : Issue) (g : Gov) (v : Fin 64) (ad : Fin 8) (imm : BitVec 16)
  | vst (i : Issue) (g : Gov) (v : Fin 64) (ad : Fin 8) (imm : BitVec 16)
  | vldb (i : Issue) (g : Gov) (v : Fin 64) (ad : Fin 8) (imm : BitVec 16)
  | vgath (i : Issue) (g : Gov) (vd vi : Fin 64) (ad : Fin 8) (b : Nat)
  | vscat (i : Issue) (g : Gov) (vs vi : Fin 64) (ad : Fin 8) (b : Nat)
  | vpop (i : Issue) (g : Gov) (vd : Fin 64) (q : Fin 8)
  | vpush (i : Issue) (g : Gov) (vs : Fin 64) (q : Fin 8)
  | vslot (i : Issue) (g : Gov) (vd : Fin 64) (pd : Fin 8) (ve : Fin 64) (c : Nat)
  | vslmsk (i : Issue) (g : Gov) (vd : Fin 64) (e : SlotSel)
  | vslrd (i : Issue) (g : Gov) (vd : Fin 64) (grp : Fin 4)
  | vslset (i : Issue) (g : Gov) (vs : Fin 64) (grp : Fin 4)
  | vslclr (i : Issue) (g : Gov)
  -- 05: the access stream
  | tql (i : Issue) (q : Fin 8) (src : LineAddr) (n : Nat)
  | tqp (i : Issue) (qp : Fin 8) (src : LineAddr) (n : Nat)
  | bpq (i : Issue) (q : Fin 8) (j : Fin 4)
  | qts (i : Issue) (dst : LineAddr) (q : Fin 8) (n : Nat)
  | ocfl (i : Issue) (oc ts : LineAddr) (n : Nat)
  | ocwb (i : Issue) (oc ts : LineAddr) (n : Nat)
  | oczr (i : Issue) (oc : LineAddr) (n : Nat)
  | mld (i : Issue) (dst : LineAddr) (r : RegionRef) (off : LineAddr) (n : Nat) (late : List Nat)
  | mst (i : Issue) (r : RegionRef) (off src : LineAddr) (n : Nat) (late : List Nat)
  | mvt (i : Issue) (t : TileRef) (dst src : LineAddr) (n : Nat)
  | mrx (i : Issue) (t : TileRef) (dst : LineAddr) (n : Nat)
  | csnd (i : Issue) (coach : Nat) (src : LineAddr)
  | crcv (i : Issue) (coach : Nat) (dst : LineAddr)
  | swr (i : Issue) (off src : LineAddr) (n : Nat)
  | xbar (i : Issue) (exe : Bool) (k : Fin 8)
  | ends (i : Issue) (exe : Bool)
  -- 07, 08: late writes, sampler, admission
  | lateWritePerform (unit : Fin 16)
  | samplerJobPost (die : Fin 4)
  | samplerJobStart (die : Fin 4)
  | samplerJobEnd (die : Fin 4)
  | admissionRead
  -- 01: cut-off and boundary
  | stepCutOff
  | stepBoundary
  -- 16: the stewards
  | boundaryInterrupt
  | routineEcall (die : Fin 4) (a7 : BitVec 64)
  | stewardAccessFault (die : Fin 4) (cause : StewardCause)
  | variantPost (target : BitVec 64) (variant : BitVec 8) (params : List (BitVec 32))
  | waitForCycle (die : Fin 4) (v : BitVec 64)
  | waitForCycleWake (die : Fin 4)
  | waitForDies (die : Fin 4) (mask : BitVec 64)
  | waitForDiesWake (die : Fin 4)
  | messagePop (die : Fin 4) (v : BitVec 64)
  | messageSend (die : Fin 4) (v : BitVec 64) (page : List Byte)
  | messageInject (die : Fin 4)
  -- 07: migration, ECC, scrub
  | migrationCopyDone (pool page : Nat)
  | eccWriteback (addr : Nat)
  | scrubPass (start count : Nat)
  -- 13: mirror, checkpoint, import
  | mirrorBatchSend
  | checkpointWrite
  | checkpointDone
  | importStart (v : BitVec 8)
  | importRequestAnswer
  | importComplete
  | importTimeout
  | fullBatchRequest (v : BitVec 8)
  | checkpointSchedule (t : BitVec 64)
  | resumeArm (l : BitVec 64)
  -- 10: launch and time
  | arm (l : BitVec 64)
  | launchReceive (p : Fin 32)
  | alignmentStampReceive (p : Fin 32)
  | alignmentEchoReceive (p : Fin 32)
  | freqChangeSchedule (c : BitVec 64)
  -- 11: links
  | superframeStart (p : Fin 32)
  | slotTransmit (p : Fin 32) (a : Nat)
  | replayBurst (p : Fin 32)
  | carriageReceive (p : Fin 32) (bytes : List Byte) (t16 : Nat) (fec : FecInfo)
  | throughHandover (p : Fin 32)
  | replayTimeout (p : Fin 32) (tx : Bool)
  | laneFail (p : Fin 32) (lane : Fin 5) (why : LaneLoss)
  | spareRequest (p : Fin 32)
  | spareAcknowledgement (p : Fin 32)
  | laneSwitch (p : Fin 32) (tx : Bool)
  | trainingRecordReceive (p : Fin 32)
  | detectDone (p : Fin 32)
  | equalizeDone (p : Fin 32) (lanes : BitVec 5)
  | alignDone (p : Fin 32)
  | exchangeDone (p : Fin 32)
  | measureDone (p : Fin 32) (results : List Nat)
  | trainingTimeout (p : Fin 32)
  | lockLost (p : Fin 32)
  | retrainRequestReceive (p : Fin 32)
  | retrainAcceptReceive (p : Fin 32)
  | retrainStart (p : Fin 32)
  | digestNoticeReceive (p : Fin 32)
  | stepStartStampReceive (p : Fin 32)
  | portEnable (p : Fin 32)
  | portRetrain (p : Fin 32)
  | portNarrow (p : Fin 32)
  | deferredNarrow (p : Fin 32)
  | portWiden (p : Fin 32)
  | portDisable (p : Fin 32)
  | fenceOpen (p : Fin 32)
  | logicalFence (p : Fin 32)
  | electricalFence (p : Fin 32)
  -- 12: carts and routes
  | cartDispatch (die : Fin 4)
  | cartInject
  | cartEscape (p : Fin 32)
  | pressureCartSend
  | pressureExpire
  | routeTableWrite (v : Fin 2) (bytes : List Byte)
  | deviceIdWrite (v : BitVec 32)
  | deviceIdUnassign
  | port31RoleWrite (v : BitVec 8)
  | port31SubstituteWrite (v : BitVec 8)
  -- 06: plans
  | planLoad
  | loadComplete
  | planUnload
  | replace
  | haltAtStep (n : BitVec 64)
  -- 15: the dictionary
  | commitSchedule (t : BitVec 64)
  | commitCancel
  | commitNow
  | discardShadows (v : BitVec 8)
  | entryWrite (index : BitVec 16) (sub : BitVec 8) (bytes : List Byte)
  | read (r : Request)
  | write (r : Request)
  | readStart (r : Request)
  | readSegment (r : Request)
  | writeStart (r : Request)
  | writeSegment (r : Request)
  | describe (r : Request)
  | closeTransfer (r : Request)
  | transferTimeout
  | canRequestFrame (id : BitVec 11) (data : List Byte)
  | submit
  -- 08, 09: serving, weights
  | servingEnable
  | servingDisable
  | recordsConsumed (n : BitVec 32)
  | buildOpen
  | buildOpenAtOnce
  | buildFeed
  | buildFeedDone
  | buildFinish
  | buildAbandon
  | switchSchedule (e : Fin 66) (t : BitVec 64)
  | switchAtOnce (e : Fin 66)
  | switchCancel (e : Fin 66)
  -- 14: errors
  | clearCapture (v : BitVec 8)
  | removeOldestRecord (v : BitVec 8)
  | eventFrameSend
  | startInjection (v : BitVec 8)
  | injectionApply (place : Nat)
  | thermalWarning (die : Fin 4) (t : BitVec 32)
  | thermalTrip (die : Fin 4) (t : BitVec 32)
  -- 18: power, boot, attestation
  | powerGoodRise
  | powerGoodFall
  | resetAssert (ns : Nat)
  | resetRelease (straps : BitVec 4) (b : BootInput)
  | bootFailureFrame
  | selfTest (r : SelfTestInput)
  | selfTestComplete
  | securityVersionBurn
  | getCertificates
  | getReport (object : List Byte)
  | openSession (ct key : List Byte)
  | closeSession (n : BitVec 32)
  | ownerClaim (keys signer : List Byte)
  | ownerGrant (grant : List Byte)
  | keySlotWrite (index : BitVec 16) (sub : BitVec 8) (value : List Byte)
  | ideKmMessage (session : BitVec 32) (seq : BitVec 64) (ct : List Byte)
  | doeDiscovery (index : BitVec 8)
  | doeAbort
  -- 17: the host
  | bar0Access (offset : Nat) (op : BarOp)
  | hdmDecoderCommit (d : Fin 2) (base size skip ways : Nat)
  | cxlMemRead (hpa : Nat)
  | cxlMemWrite (hpa : Nat) (enables : BitVec 64) (data : List Byte) (poison : Bool)
  | h2dSnoop (addr : Nat)
  | cxlLinkTraining (rate width : Nat)
  | perst
  | functionLevelReset
  | surpriseLinkDown
  | powerStateChange (d3 : Bool)
  | hostWritesUnblock
  | msixUnmask (v : Fin 64)
  | peerTrainingPatternSeen (p : Fin 32)
  | codewordRelock (p : Fin 32)
  | ideIntegrityFailure
  | canResponseSend
  | temperatureFall (die : Fin 4) (t : BitVec 32)
  | busMasterEnableClear
  | boundaryScan (extest : Bool)
  -- 10, without operands: Lean's compiled code bounds the place of a constructor with operands
  | disarm
  | qz5Arm
  | launchEmit
  | qz5LaunchEmit
  | launchDeadline
  | launchStart
  | qz5LaunchStart
  | alignmentCheck
  | countSourceLost
  | freqChangeCancel
  | freqChangeStop
  | freqChangeRestart
  | referenceLoss
  | referenceReturn
  | referenceRelock
  deriving DecidableEq, Repr

/-- A piece of a stream program (05 R117 R118): an instruction with its selector and wait count, the head of a loop with its
iteration count, or the end of the innermost loop. -/
inductive StreamTok where
  | instr (i : Issue) (x : Instr)
  | loop (n : Nat)
  | done
  deriving DecidableEq, Repr

end Sys2Proof
end

