-- ==== Sys2Proof/Decode.lean ====
section
/-! DEFINITION. The command that a word of the table spells. The table gives no bits to any row
(the encodings are private to each stepping, 05 R149, and events have none), so no word spells one. -/

namespace Sys2Proof

/-- The command that nbits of w spell by the table's bits: none, as no row has bits. -/
def decodeTableWord (nbits w : Nat) : Option Instr :=
  match nbits, w with
  | _, _ => none

end Sys2Proof
end

