-- ==== Sys2Proof/Machine/Parts.lean ====
section
/-! DEFINITION. The parts of the machine's state that belong to one unit: tile, sequencer, port,
fabric, dictionary engine, error log, steward, host interface, start-up and security. Every part is
plain data. -/

namespace Sys2Proof.Machine

/-! ## Tiles (03, 04, 05) -/

/-- An entry of a data queue: its tag, the cycle in which it was written, its 64 bytes, its poison bit (05 R126
R128). -/
structure DEntry where
  tag : Nat
  wrote : Nat
  data : List Byte
  poison : Bool
  deriving DecidableEq, Repr

/-- A data queue (05 R126 R128): the entries held, oldest first, and the two counts modulo 2^16. -/
structure DQueue where
  entries : List DEntry
  push : Nat
  pop : Nat
  deriving DecidableEq, Repr

/-- An empty queue, both counts 0. -/
def DQueue.empty : DQueue := ⟨[], 0, 0⟩

/-- A vector register: 64 lanes and the poison bits of its four granules (04 R92). Fewer than 64
lanes listed read +0. -/
structure VReg where
  lanes : List Word
  poison : List Bool
  deriving DecidableEq, Repr

/-- A register of zeros. -/
def VReg.zero : VReg := ⟨[], []⟩

/-- A predicate register: 64 bits and its taint (04 R92 R114). -/
structure PReg where
  val : Nat
  taint : Bool
  deriving DecidableEq, Repr

/-- A weight tile in the registers of the array (03 R67 R69 R70): its format, none where plan load
left it; the bytes of its 64 rows and its scale bytes, whether it is scaled; the accumulator granules
it poisons in every entry streamed against it (R83 R89). Missing bytes read 00h. `flips` are the upsets of its registers
since they were loaded, each a row, a column and the bits inverted: the residues were formed before them, and they stay
until the registers are loaded again (R87). -/
structure WTile where
  fmt : Option Fmt
  cells : List Byte
  scales : List Byte
  scaled : Bool
  bad : List Nat
  flips : List (Nat × Nat × Nat)
  deriving DecidableEq, Repr

/-- The registers as plan load leaves them (03 R569). -/
def WTile.none : WTile := ⟨.none, [], [], false, [], []⟩

/-- An MPRE in the preload port: its operands, the array cycle in which it takes its first row, and the row entries and
scale entries taken so far, none for a missing one (03 R81 R83). -/
structure PreCmd where
  f : Fmt
  qp : Nat
  qs : Option Nat
  start : Nat
  rows : List (Option DEntry)
  scs : List (Option DEntry)
  deriving DecidableEq, Repr

/-- An MSTR in the stream port: its operands, the array cycle in which it presents its first vector, the vectors done, and
the data and scale entries taken for the vector in hand (03 R75 R78). -/
structure MStr where
  f : Fmt
  qa : QSrc
  qs : Option Nat
  e : Nat
  n : Nat
  fresh : Bool
  swap : Bool
  mask : Bool
  start : Nat
  done : Nat
  got : List (Option DEntry)
  sc : List (Option DEntry)
  deriving DecidableEq, Repr

/-- A command of the stream port: an MSTR, or an MSKL with the array cycle and the mask it loads. -/
inductive StrCmd where
  | mstr (m : MStr)
  | mskl (start v : Nat) (taint : Bool)
  deriving DecidableEq, Repr

/-- An upset of an accumulator addition (03 R87): the column, the row group whose sum is added, by how many units of its last
place the aligned sum comes out too large, and the bits that its rounding inverts. -/
structure AddUpset where
  col : Nat
  row : Nat
  more : Nat
  mask : Nat
  deriving DecidableEq, Repr

/-- What reaches the columns of an accumulator entry and is not yet seen by every later read (03 R78 R79): a vector, by the
array cycle that presents it, with the values its row groups add in each column (none for a vector that forms no product),
whether it starts from −0, the policy of 3001h:01 under which it is added (02 R63), the granules it poisons and the upsets
of its additions; a drain with clear, by the cycle it is issued in, and its half; or an uncorrectable error of a column, by
the cycle in which it is found, and the bits it inverts (03 R88). -/
inductive AccOp where
  | vec (t e : Nat) (wide fresh ie : Bool) (sums : Option (List (List Word))) (bad : List Nat) (ups : List AddUpset)
  | clear (t e h : Nat)
  | flip (t e col mask : Nat)
  deriving DecidableEq, Repr

/-- The matrix array of a tile (03 R67). The accumulator is keyed by 128 × entry + column, its poison by 8 × entry +
granule; `ops` holds what is on its way to it. `preFree` and `strFree` are the array cycles from which the ports take the
next command, `loaded` the one from which a swap may present, `swapped` the one from which a preload may begin (03 R78
R81). Array cycles are the tile's own: cycles less the tile's lag (03 R84). -/
structure Arr where
  active : WTile
  shadow : WTile
  acc : SMap Word
  accPoison : List Nat
  ops : List AccOp
  mask : Nat
  maskTaint : Bool
  pre : List PreCmd
  str : List StrCmd
  preFree : Nat
  strFree : Nat
  loaded : Nat
  swapped : Nat
  deriving DecidableEq, Repr

/-- The array as plan load leaves it (03 R569). -/
def Arr.reset : Arr := ⟨.none, .none, [], [], [], 0, false, [], [], 0, 0, 0, 0⟩

/-- A VPOP that reads its four entries, one a cycle (04 R96): its governing predicate as it stood at issue, its mode, its
operands and how many entries it has read. -/
structure Popping where
  gov : PReg
  zero : Bool
  vd : Nat
  q : Nat
  i : Nat
  deriving DecidableEq, Repr

/-- A VGATH that reads the words of its rounds, one round a cycle (04 R107): its governing predicate as it stood at issue, its
mode and destination, the rounds still to come as lanes with their words and the taint of their indices, and the lanes that
have theirs, with their taint. -/
structure Gathering where
  gov : PReg
  zero : Bool
  vd : Nat
  rounds : List (List (Nat × Nat × Bool))
  got : List (Nat × Word × Bool)
  deriving DecidableEq, Repr

/-- What a store writes to the operand cache at the end of one cycle (04 R105 R107): words with their values and taint,
the granules it poisons, and the words that its earlier rounds wrote, with their taint: the poison of a granule is that of
the whole store (04 R114). -/
structure StoreRound where
  words : List (Nat × Word × Bool)
  hurt : List Nat
  before : List (Nat × Bool)
  deriving DecidableEq, Repr

/-- One tile site (04 R92, 05 R123 R124 R126). `buf` holds the execute instructions that an elastic stall keeps waiting,
each with the cycle of its broadcast, `lag` the tile's lag in core cycles, `stalled` the queues whose missing entries it has
stalled for and counted (03 R84), `pop` the VPOP in progress, `gath` the VGATH in progress, `stores` the rounds of a store
still to be written. -/
structure Tile where
  ti : Nat
  mask : Nat
  v : SMap VReg
  p : SMap PReg
  a : SMap Nat
  slots : SMap Nat
  slotTaint : Bool
  q : SMap DQueue
  arr : Arr
  buf : List (Nat × Instr)
  lag : Nat
  stalled : List Nat
  pop : Option Popping
  gath : Option Gathering
  stores : List StoreRound
  deriving DecidableEq, Repr

/-- A parked tile with everything zero (04 R92, 05 R123). -/
def Tile.reset : Tile :=
  ⟨0xFFFF, 0, [], [], [], [], false, [], Arr.reset, [], 0, [], none, none, []⟩

/-- A register that an instruction of the execute stream reads or writes (04 R92 R95). -/
inductive Reg where
  | v (n : Nat)
  | p (n : Nat)
  | a (n : Nat)
  deriving DecidableEq, Repr

/-- The units that instructions occupy (04 R96, 05 R127): of the execute stream the lane ALU, the lane FPU, the crossbar,
the reduction tree, the quantiser, the special-function unit, the operand cache, the queue port and the slot unit; of the
access stream the write port and the read port of each queue, the operand cache port and the two sides of the mortar
stop. -/
inductive HwUnit where
  | alu | fpu | cross | tree | quant | special | cache | qport | slot
  | writePort (q : Nat)
  | readPort (q : Nat)
  | cachePort | inbound | outbound
  deriving DecidableEq, Repr

/-- What decides the holds of a die's execute stream (04 R95, 03 R76): from which cycle each register written can be used
and each unit is free, the cycles at which the commands in the two waiting ports of the array are over, from which cycle a
swap may present and a preload may begin, from which cycle every instruction so far has retired (05 R135), and the cycles
before which the operand cache is still read or written (04 R109). -/
structure Clock where
  ready : List (Reg × Nat)
  busy : List (HwUnit × Nat)
  pre : List Nat
  str : List Nat
  loaded : Nat
  swapped : Nat
  retired : Nat
  reads : Nat
  writes : Nat
  deriving DecidableEq, Repr

/-- Nothing pending, nothing occupied. -/
def Clock.reset : Clock := ⟨[], [], [], [], 0, 0, 0, 0, 0⟩

/-- A die's sequencer between two issues: which program has issued ENDS, and the XBAR each waits at
(05 R136 R139), and the loop counters of each program (05 R118). `dead` marks a program that a plan-cache error stopped for the step (14 R432), `past` one
whose next instruction is held beyond the step (05 R139).
`lastA` and `lastX` are the cycles of the last issue of each program in the step, `issuedA` and `issuedX` the numbers of
instructions issued in it. -/
structure Seq where
  endA : Bool
  endX : Bool
  barA : Option Nat
  barX : Option Nat
  deadA : Bool
  deadX : Bool
  pastA : Bool
  pastX : Bool
  ctrA : List Nat
  ctrX : List Nat
  lastA : Option Nat
  lastX : Option Nat
  issuedA : Nat
  issuedX : Nat
  clock : Clock
  deriving DecidableEq, Repr

/-- A sequencer at the start of a step in which nothing is pending. -/
def Seq.start : Seq :=
  ⟨false, false, none, none, false, false, false, false, [0, 0, 0, 0], [0, 0, 0, 0], none, none, 0, 0, Clock.reset⟩

/-- The pool line that a line of a KV pool comes to: region, pool line, whether it is served from its slot. -/
structure PageRef where
  region : Nat
  line : Nat
  slot : Bool
  deriving DecidableEq, Repr

/-- What a line operand comes to: module addresses (where a migration is in flight a write goes to
both); a page that sessions share, which no write may touch; an unallocated line of a session; an
absent weight copy; or nothing, out of range. -/
inductive LineAt where
  | at (addrs : List Nat) (page : Option PageRef)
  | shared (addrs : List Nat) (page : Option PageRef) (die sess : Nat)
  | unallocated (die sess : Nat)
  | absent
  | out
  deriving DecidableEq, Repr

/-- The lines of an access instruction in one tile: the first tile-store line and the first line of its other address
operand (05 R130), for a region line by line where it lies (07 R199) and the sampler command line it is (08 R245), and
the entries or lines read and not yet written. -/
structure ActTile where
  site : Nat
  ti : Nat
  line : Int
  other : Int
  target : List (LineAt × Option (Nat × Nat))
  held : List (List Byte × Bool)
  deriving DecidableEq, Repr

/-- An access instruction in progress on a die (05 R131 R133): its issue cycle and step, the cycles its lines have waited
for their banks, the lines that have met theirs, of how many, the bank of line 0, and its tiles. -/
structure Act where
  die : Nat
  x : Instr
  s : Nat
  step : Nat
  slip : Nat
  k : Nat
  n : Nat
  bank : Nat
  lead : Nat
  tiles : List ActTile
  deriving DecidableEq, Repr

/-! ## Ports (11) -/

/-- The states of R357. -/
inductive PState where
  | disabled | detect | equalize | align | exchange | measure | active | down | fenced
  deriving DecidableEq, Repr

/-- A carriage: kind, granule poison bits, kind fields [79:42], 256 payload bytes (11 R329 R330). -/
structure Carriage where
  kind : Nat
  poison : Nat
  fields : Nat
  payload : List Byte
  deriving DecidableEq, Repr

/-- A carriage of the replay buffer, with its sequence number and the time of its last sending in
sixteenths of a tick (11 R334 R338). -/
structure Stored where
  seq : Nat
  car : Carriage
  sent : Nat
  deriving DecidableEq, Repr

/-- A control carriage accepted and not yet acted on: kind, type, payload, arrival in sixteenths of
a tick. -/
structure Ctl where
  kind : Nat
  type : Nat
  payload : List Byte
  at16 : Nat
  deriving DecidableEq, Repr

/-- A coach carriage: the absolute slot of its port that is scheduled for it (12 R372), slot number,
parity, poison bits, payload. -/
structure Coach where
  abs : Nat
  slot : Nat
  parity : Nat
  poison : Nat
  payload : List Byte
  deriving DecidableEq, Repr

/-- What is on its way and arrives in a cycle: an entry of a queue, a region line at its memory point with the logical
tile that wrote it, a line of a tile at another tile's stop, a carriage at its port, or a line at a steward's exchange
area (05 R131 R134). -/
inductive Landing where
  | entry (site q : Nat) (data : List Byte) (poison : Bool)
  | region (site ti : Nat) (target : LineAt) (cmd : Option (Nat × Nat)) (data : List Byte) (poison late : Bool)
  | stop (site src : Nat) (data : List Byte) (poison : Bool)
  | coach (port : Nat) (x : Coach)
  | exchange (site : Nat) (line : Int) (data : List Byte) (poison : Bool)
  deriving DecidableEq, Repr

/-- What lands in a cycle. -/
structure Flying where
  cycle : Nat
  what : Landing
  deriving DecidableEq, Repr

/-- A place of the yard that holds a carriage, with the step that reads it. -/
structure Held where
  payload : List Byte
  poison : Nat
  deriving DecidableEq, Repr

/-- A cart (11 R331, 12 R382): header fields and the 256 payload bytes; header poison bits. -/
structure Cart where
  epoch : Nat
  escape : Bool
  tag : Nat
  dst : Nat
  poison : Nat
  payload : List Byte
  deriving DecidableEq, Repr

/-- A link port. -/
structure Port where
  st : PState
  fullRate : Bool                 -- Equalize and Align at full rate (11 R357)
  reqWidth : Nat                  -- width requested at the next training (11 R358)
  lanes : Nat                     -- working lanes, bit per physical lane (11 R354 R358)
  txMap : Nat                     -- lane map of the sending direction, as the entry :06 is laid out
  entered : Nat                   -- count at which the training state in hand was entered (11 R357)
  record : List (List Byte)       -- training records received in Exchange (11 R358)
  peerLanes : Nat                 -- lanes that work at the peer's receivers, from its record (11 R358)
  stamps : Nat                    -- stamps sent in Measure (11 R349)
  results : List Nat              -- own results of Measure: round trips less holds, 1/16 tick (11 R360)
  nextSeq : Nat                   -- next sequence number to be assigned (11 R334)
  replay : List Stored            -- replay buffer, oldest first
  burst : List (Nat × Carriage)   -- carriages of the burst in progress still to send (11 R337)
  acked : Nat                     -- highest acknowledgement received
  nakAck : Option (Nat × Nat)     -- a received NAK waiting to start a burst: its acknowledgement, its arrival in 1/16 tick
  heldNak : Bool                  -- a NAK received during the burst
  backlog : List Coach            -- coach carriages that missed their slot (11 R340)
  atPort : List Coach             -- coach carriages handed to the port before their slot
  msgs : List Carriage            -- message control carriages waiting
  timed : List Carriage           -- timed control carriages due
  expect : Nat                    -- E (11 R335)
  nakDue : Bool                   -- NAK to set in the next carriage that starts a tick after it was raised (11 R336)
  nakOut : Option Nat             -- time the outstanding NAK was raised, in 1/16 tick
  ctl : List Ctl                  -- control carriages received
  through : List (Nat × Coach × Nat) -- through carriages: outbound port, carriage, handover time
  yard : SMap (Option Held)
  yardRead : List Nat             -- places whose CRCV has begun in this step (11 R347)
  slotNext : Nat                  -- next absolute slot (12 R372)
  superframe : Nat                -- start count of the superframe in progress (11 R326)
  spareTx : Option (Nat × Nat)    -- transmitter's lane switch: logical lane, F' (11 R355)
  spareRx : Option (Nat × Option Nat) -- receiver's: logical lane, F' once acknowledged
  retrainOut : Option Nat         -- own retrain request outstanding, with its width (11 R366)
  acceptW : Option Nat            -- width of a retrain whose accept waits for its slot (11 R366)
  retrainAt : Option (Nat × Nat)  -- agreed start count and width
  fwdAt : List (Option Nat)       -- of each type 21h message that waits for its slot: when it was received, none of the root's own (10 R321)
  widen : Bool                    -- the last retrain asked for is a widening (11 R367)
  deferred : Bool                 -- a narrowing waits for Halted or Empty (11 R367)
  stamp : Option (Nat × Nat)      -- the peer's stamp of the check in hand: its arrival and its count, in 1/16 tick
  trip : Option Nat               -- one-way latency of the check in hand, in 1/16 tick (11 R350)
  echoed : Bool                   -- the last check was completed
  digest : List Byte              -- peer settings digest (5100h:0C)
  mismatch : Bool                 -- digest mismatch at the last check (13 R410)
  reportedDigest : List Byte      -- peer digest already reported
  rxAlign : Nat                   -- start count of the superframe the receiver is aligned to (11 R326 R328)
  recv : List (Cart × Nat)        -- receive queue (12 R391), with the count the head began to wait
  egress : List Cart              -- normal egress queue (12 R393)
  escq : List Cart                -- escape egress queue
  fecBad : Bool                   -- the last codeword that a carriage showed is uncorrectable (11 R325)
  badCrc : Nat                    -- carriages an injection of kind 7 still corrupts (14 R444)
  badLane : Option (Nat × Nat)    -- injection of kind 8: lane and superframes left
  deriving DecidableEq, Repr

/-- A port after module reset (18 R522): Disabled, empty. -/
def Port.reset : Port :=
  { st := .disabled, fullRate := false, reqWidth := 4, lanes := 31, txMap := 0x7000, entered := 0, record := [],
    peerLanes := 31, stamps := 0, results := [], nextSeq := 0,
    replay := [], burst := [], acked := 0xFFFF, nakAck := none, heldNak := false, backlog := [],
    atPort := [], msgs := [], timed := [], expect := 0, nakDue := false, nakOut := none, ctl := [],
    through := [], yard := [], yardRead := [], slotNext := 0, superframe := 0, spareTx := none,
    spareRx := none, retrainOut := none, acceptW := none, retrainAt := none, fwdAt := [], widen := false, deferred := false,
    stamp := none, trip := none, echoed := true, digest := [], mismatch := false, reportedDigest := [],
    rxAlign := 0, recv := [], egress := [], escq := [], fecBad := false, badCrc := 0, badLane := none }

/-- The fabric of the module (12): carts waiting for injection, levels throttled by their own
occupancy, pressure ends per level (group, system) as counts, the count of the last pressure cart
sent for each level (none before the first of a throttle), and the source sequence per destination and type (12 R382 R396 R397). -/
structure Fabric where
  waiting : List Cart
  own : List Bool
  pressure : List (Option Nat)
  pressureSent : List (Option Nat)
  seqs : SMap Nat
  overrun : SMap Nat
  deriving DecidableEq, Repr

/-- No cart waits, no level is throttled. -/
def Fabric.reset : Fabric := ⟨[], [false, false, false], [none, none], [none, none, none], [], []⟩

/-! ## Dictionary engine (15) -/

/-- An open segmented transfer (15 R462); `since` is the count of its start or of its last segment. -/
structure Transfer where
  write : Bool
  index : Nat
  sub : Nat
  total : Nat
  done : Nat
  data : List Byte
  since : Nat
  deriving DecidableEq, Repr

/-- The transaction engine and its two paths (15 R458 R464 R466). -/
structure Eng where
  transfer : Option Transfer
  canResp : Option (List Byte)
  canId : Nat
  canHigh : Option Nat
  winReq : List Byte
  winResp : List Byte
  winStatus : Nat
  winCount : Nat
  deriving DecidableEq, Repr

/-- Nothing open, the window all zero. -/
def Eng.reset : Eng :=
  ⟨none, none, 0, none, List.replicate 64 0, List.replicate 64 0, 0, 0⟩

/-! ## Errors (14) -/

/-- A record of the log (14 R434). -/
structure Rec where
  seq : Nat
  cls : Nat
  flags : Nat
  code : Nat
  loc : Nat
  nest : Nat
  step : Nat
  cycle : Nat
  rep : Nat
  count : Nat
  detail : List Nat
  deriving DecidableEq, Repr

/-- An injection (14 R444): kind, location, opportunities left, from step and cycle or none,
parameter and module address. -/
structure Inject where
  kind : Nat
  loc : Nat
  left : Nat
  from? : Option (Nat × Nat)
  param : Nat
  addr : Nat
  applied : Bool
  deriving DecidableEq, Repr

/-- Where an error strikes that no command makes (14 R432): a lane of a vector register, a slot counter, a column of an
accumulator entry, a granule of a memory of the address map, a stack that corrects on its die, a granule of a yard place, a
word of a Belriaz engine (its store of 08 R218 and the index), a steward's instruction (0) or data (1) memory, the plan cache
of a die (program, variant, offset), the control logic of a unit, the dictionary engine's own storage, the row-group adder of
an array column, the accumulator addition of its sum, the rounding of the sum (step 0) or of the addition (step 1), a weight
register, a lane of a vector unit. -/
inductive Spot where
  | vreg (site reg lane : Nat)
  | counter (site n : Nat)
  | column (site e col : Nat)
  | granule (g : Nat)
  | onDie (stack : Nat)
  | yard (port place g : Nat)
  | engine (die store index : Nat)
  | steward (die mem addr : Nat)
  | cache (die : Nat) (exe : Bool) (variant offset : Nat)
  | control (die unit : Nat)
  | dictionary
  | cell (site col row : Nat)
  | adder (site col row : Nat)
  | rounder (site col row step : Nat)
  | weight (site row col : Nat)
  | lane (site unit lane : Nat)
  deriving DecidableEq, Repr

/-- An error that strikes a spot at a count: whether it can be corrected, and the bits it inverts (log 37). -/
structure Flaw where
  spot : Spot
  since : Nat
  unc : Bool
  mask : Nat
  deriving DecidableEq, Repr

/-- An occurrence found by the command in hand, before it reaches the log (14 R437 R438). -/
structure Occ where
  code : Nat
  loc : Nat
  step : Nat
  cycle : Nat
  count : Nat
  flags : Nat
  detail : List Nat
  deriving DecidableEq, Repr

/-- The error log, the capture, the notification latch, the CAN event queue, the injection, and the
occurrences of the command in hand. -/
structure Err where
  pend : List Occ
  log : List Rec
  cap : Option Rec
  lostSince : Bool
  latch : Bool
  canq : List (List Byte)
  inj : Option Inject
  deriving DecidableEq, Repr

/-- Empty. -/
def Err.reset : Err := ⟨[], [], none, false, false, [], none⟩

/-! ## Stewards (16) -/

/-- What the step routine of a die does (16 R487 R489). -/
inductive Routine where
  | none
  | running
  | waitCycle (c : Nat)
  | waitDies (m : Nat)
  deriving DecidableEq, Repr

/-- A message of the inbound queue: its payload and the poison of its granules (16 R495, 12 R382). -/
structure Message where
  payload : List Byte
  poison : Nat
  deriving DecidableEq, Repr

/-- The steward of a die: what its routine does; the integer registers x1 to x31, the pc, the reservation of a load-reserved
and the instructions retired; the entry point of its firmware (18 R525); its memories (16 R482): firmware code and data, plan code, plan data area, exchange area with
its poisoned lines; the inbound messages, the outbound page, and the sends that wait (16 R495). -/
structure Steward where
  routine : Routine
  x : SMap Nat
  pc : Nat
  reserve : Option Nat
  instret : Nat
  fwPc : Nat
  fwCode : List Byte
  fwData : SMap Byte
  code : List Byte
  data : SMap Byte
  exchange : SMap Byte
  exPoison : List Nat
  inbound : List Message
  page : SMap Byte
  waiting : List (Nat × List Byte)
  deriving DecidableEq, Repr

/-- A steward with no plan code and no routine. -/
def Steward.reset : Steward := ⟨.none, [], 0, none, 0, 0, [], [], [], [], [], [], [], [], []⟩

/-- The next-step mailbox (05 R141): the bytes of the record as they stand, and the outcome of the last post. -/
structure Mailbox where
  bytes : SMap Byte
  status : Nat
  deriving DecidableEq, Repr

/-- The mailbox at reset. -/
def Mailbox.reset : Mailbox := ⟨[], 0⟩

/-! ## Host interface (17) -/

/-- An HDM decoder (17 R506): what the host programmed, Committed and Error Not Committed; `ways` is its interleave. -/
structure Hdm where
  base : Nat
  size : Nat
  skip : Nat
  committed : Bool
  error : Bool
  ways : Nat
  deriving DecidableEq, Repr

/-- A decoder that nothing has programmed. -/
def Hdm.reset : Hdm := ⟨0, 0, 0, false, false, 1⟩

/-- The host port: Bus Master Enable, D3hot, the decoders, the MSI-X table and pending bits, the IDE
sub-streams that a K_SET_GO took to the secure state as bits, their keys, a mirror write owed, `fired` (0 from a
firing of the ring's interrupt on), and traffic stopped by an IDE integrity failure (17 R514). Then what else the host
programs and reads (17 R502 R513 R514 R516 R518): Memory Space Enable, the base of BAR 0, MSI-X Enable and Function Mask, the
key set in use of each IDE sub-stream as bits, the AER uncorrectable status, the RAS status words, and the words of the
component registers that take what is written to them. -/
structure HostIf where
  bme : Bool
  d3 : Bool
  hdm : List Hdm
  msix : SMap (List Byte)
  msixPend : List Nat
  ideGo : Nat
  ideKeys : List (Nat × List Byte)
  mirrorOwed : Bool
  fired : List Nat
  ideHalt : Bool
  mse : Bool
  bar0 : Nat
  msixOn : Bool
  funcMask : Bool
  ideSet : Nat
  aerUnc : Nat
  rasUnc : Nat
  rasCor : Nat
  comp : SMap Nat
  deriving DecidableEq, Repr

/-- The host port after its reset: Bus Master Enable and Memory Space Enable 0, D0, no decoder committed, MSI-X off and every
vector masked, no error shown. PRESUMED the PCI Express reset values (log 9). -/
def HostIf.reset : HostIf :=
  { bme := false, d3 := false, hdm := [Hdm.reset, Hdm.reset], msix := [], msixPend := [], ideGo := 0, ideKeys := [],
    mirrorOwed := false, fired := [], ideHalt := false, mse := false, bar0 := 0, msixOn := false, funcMask := false,
    ideSet := 0, aerUnc := 0, rasUnc := 0, rasCor := 0, comp := [] }

/-! ## Start-up and security (18) -/

/-- The state of power and reset (18 R520 R525 R526). -/
inductive Phase where
  | off | held | bootFailed | running
  deriving DecidableEq, Repr

/-- What the boot ROM found (18 R525 R526 R533). -/
structure Boot where
  image : Nat
  causeA : Nat
  causeB : Nat
  status : Nat
  badDie : Nat
  hash : List Byte
  build : Nat
  secVersion : Nat
  raise : Bool
  nonce : List Byte
  certBad : Bool
  certs : List Byte
  deriving DecidableEq, Repr

/-- Power, reset, straps, temperature and what start-up has found. -/
structure Power where
  good : Bool
  phase : Phase
  straps : Nat
  temps : List Nat
  warned : List Bool
  trip : Bool
  tripped : List Bool
  scan : Bool
  boot : Boot
  badPrims : List Nat
  rngBad : Bool
  tested : Bool
  deriving DecidableEq, Repr

/-- An attestation session (18 R537): number, key, next sequence numbers toward and from the
module. -/
structure Session where
  num : Nat
  key : List Byte
  rx : Nat
  tx : Nat
  deriving DecidableEq, Repr

/-- An owner claim whose fuses are being burned (18 R539): the identifier, and the count at which the burn began. -/
structure Claiming where
  root : List Byte
  since : Nat
  deriving DecidableEq, Repr

/-- The security state that module reset clears (18 R522): the grant, the session, the random draws so far, and the burns in
progress, of the security version up to a count (18 R527) and of an owner claim. -/
structure Sec where
  grant : List (Nat × List Byte)
  session : Option Session
  draws : Nat
  burnTo : Option Nat
  claim : Option Claiming
  deriving DecidableEq, Repr

/-- No grant, no session, no burn. -/
def Sec.reset : Sec := ⟨[], none, 0, none, none⟩

/-- The fuses (18 R530), which alone outlive reset. -/
structure Fuses where
  tiles : Nat
  stepping : Nat
  maps : List Nat
  unique : Nat
  secret : Nat
  agree : List Byte
  ownerRoot : List Byte
  ownerBegun : Bool
  ownerValid : Bool
  secMin : Nat
  deriving DecidableEq, Repr

/-! ## Determinism and repair (13) -/

/-- A line of a mirror batch or an import (13 R420): number, part, poison, bytes. -/
structure PartLine where
  line : Nat
  part : Nat
  poison : Bool
  data : List Byte
  deriving DecidableEq, Repr

/-- A batch (13 R420): step, whether its start and its end have come, whether full, digests, the line
count, its lines. -/
structure Batch where
  step : Nat
  started : Bool
  ended : Bool
  full : Bool
  settings : List Byte
  digest : List Byte
  count : Nat
  lines : List PartLine
  deriving DecidableEq, Repr

/-- An import in progress (13 R425): when it was requested, and what has arrived. -/
structure Import where
  since : Nat
  got : Batch
  deriving DecidableEq, Repr

/-- Mirror, checkpoint, import, record and replay (13). -/
structure Det where
  stage : Option (List Byte)         -- stage latched at the last cut-off (R418)
  written : List Nat                 -- pool lines written by scheduled accesses in the step (R420): pool × 2^32 + line
  send : List Batch                  -- batches captured at boundaries and not yet sent, oldest first
  fullDue : Bool                     -- the next batch is full (R422)
  log : List Batch                   -- received complete batches (R421), in step order
  incoming : List Batch              -- batches being received
  image : SMap PartLine              -- the mirror image, keyed by part × 2^32 + line
  imaged : Bool                      -- the image holds a step, B020h:03
  ckpt : Option (List Byte)          -- copy of the replicated part for the checkpoint (R423)
  ckptStep : Option Nat
  ckptNext : List (Nat × List Byte)  -- checkpoints of later steps, captured while that one waits or is written
  ckptWriting : Bool
  importing : Option Import
  request : List (Nat × List Byte)   -- import requests received: the requester and the cart's data
  imported : Bool                    -- the pending boundary came from a partner mirror (R427)
  recSeq : Nat                       -- record sequence (R415)
  digests : List (Nat × List Byte × List Byte) -- step, state and settings digests of boundaries, newest first
  diverged : Bool                    -- replay divergence has been reported (R416)
  shown : Nat × List Byte            -- step and state digest of the last boundary (R419)
  deriving DecidableEq, Repr

/-- Nothing mirrored, written or imported. -/
def Det.reset : Det :=
  ⟨none, [], [], false, [], [], [], false, none, none, [], false, none, [], false, 0, [], false, (0, List.replicate 16 0)⟩

/-! ## Time (10) -/

/-- Time, launch and frequency change beyond their entries. -/
structure Time where
  refLost : Bool
  changing : Bool                    -- core clock stopped between C and C + 64 (R317)
  copy : Option (List Byte)          -- first launch copy received (R310)
  copyEnd : Nat                      -- the count at which the launch of that copy is over
  emitted : Bool
  qz5Start : Option Nat              -- count at which step 0 starts (R321)
  qz5Emit : Option Nat               -- count of the root's emission (R323)
  qz5Adjust : Int                    -- tick pairs the step just begun is lengthened by (R321)
  parentStep : Option (Nat × Nat)    -- the step of the parent's last stamp and its start, 1/16 tick (R352)
  silent : Nat                       -- periods without a check on port A (R306)
  good : Nat                         -- consecutive checks within 1/8 tick (R303)
  lastCheck : Nat                    -- the multiple of 65,536 whose check has begun (R301)
  freqNext : Nat                     -- core frequency that the last accepted change count schedules (R316)
  deriving DecidableEq, Repr

/-- After module reset: locked, nothing heard. -/
def Time.reset : Time := ⟨false, false, none, 0, false, none, none, 0, none, 0, 0, 0, 0⟩

/-- The DevLoad field of a CXL.mem response; the module sends Light Load only (17 R507). -/
inductive DevLoad where
  | light | optimal | moderate | severe
  deriving DecidableEq, Repr

/-- What leaves the module through its pins, newest first (log 11). -/
inductive Out where
  | carriage (port : Nat) (slot : Nat) (bytes : List Byte)
  | marker (port : Nat) (bytes : List Byte)
  | laneSymbols (port lane symbols : Nat)
  | canFrame (id : Nat) (bytes : List Byte)
  | hostWrite (addr : Nat) (bytes : List Byte)
  | hostRead (addr len : Nat)
  | msix (vector : Nat)
  | barData (bytes : List Byte)
  | unsupported
  | memData (bytes : List Byte) (poison : Bool) (load : DevLoad)
  | cmp (load : DevLoad)
  | snoopResp
  | doe (type : Nat) (bytes : List Byte)
  | request (path : Nat) (bytes : List Byte)
  deriving DecidableEq, Repr

end Sys2Proof.Machine
end

