-- ==== Sys2Proof/Machine/PartsPlan.lean ====
section
/-! DEFINITION. The loaded plan and its placement (06), and the memory tiers beyond their bytes
(07). -/

namespace Sys2Proof.Machine

/-- The plan states of R27. -/
inductive PlanState where
  | empty | loaded | armed | running | halted
  deriving DecidableEq, Repr

/-- The plan header (06 R158). -/
structure PlanHdr where
  stepLen : Nat
  variants : Nat
  dflt : Nat
  tpd : Nat
  freq : Nat
  devices : Nat
  slack : Nat
  regions : Nat
  coachRows : Nat
  deriving DecidableEq, Repr

/-- A logical region (06 R160). -/
structure Region where
  num : Nat
  tier : Nat
  home : Nat
  cls : Nat
  striped : Bool
  zero : Bool
  size : Nat
  working : Nat
  deriving DecidableEq, Repr

/-- A coach row (06 R161). -/
structure CoachRow where
  src : Nat
  sendNo : Nat
  recvNo : Nat
  send : Nat
  release : Nat
  vmask : Nat
  k : Nat
  hops : Nat
  path : List Nat
  deriving DecidableEq, Repr

/-- A slot table record (12 R376). -/
structure SlotRec where
  row : Nat
  hop : Nat
  next : Bool
  relNext : Bool
  stride : Nat
  first : Nat
  even : Nat
  odd : Nat
  deriving DecidableEq, Repr

/-- Initial data of a region (06 R163). -/
structure InitData where
  region : Nat
  off : Nat
  data : List Byte
  deriving DecidableEq, Repr

/-- The sections of a plan, read (06 R158 to R163, 16 R497). The stream code of the own stepping is
kept as its private bytes (05 R149) and as the programs they spell: `progs` lists, for each variant in turn and in it for
each logical die, the access program and the execute program (05 R117). -/
structure PlanImage where
  hash : List Byte
  hdr : PlanHdr
  tmasks : List Nat
  regions : List Region
  coaches : List CoachRow
  slotVersion : Nat
  slots : List SlotRec
  tag : Nat
  devIds : List Nat
  weights : List Nat
  code : List Byte
  data : List Byte
  entry : Nat
  init : List InitData
  stream : List Byte
  progs : List (List StreamTok)
  deriving DecidableEq, Repr

/-- A binding of a region in one tier (06 R175 R177): the unit (stack or channel), the second unit
of a striped binding, the quarter (FFh for a channel), the offset. -/
structure Bind where
  region : Nat
  tier : Nat
  unit : Nat
  unit2 : Option Nat
  quarter : Nat
  off : Nat
  deriving DecidableEq, Repr

/-- What the placer put out (06 R177). -/
structure Place where
  own : Nat
  sites : List Nat
  hbm : List Bind
  mrd : List Bind
  hops : List (Nat × Nat × Nat)
  hash : List Byte
  deriving DecidableEq, Repr

/-- An entry of the section table, with its index (06 R153). -/
structure SecEnt where
  idx : Nat
  type : Nat
  flags : Nat
  stepping : Nat
  off : Nat
  stored : Nat
  plain : Nat
  hash : List Byte
  deriving DecidableEq, Repr

/-- A section with its plain bytes. -/
abbrev Plain := SecEnt × List Byte

/-- A load or re-place in progress (06 R165): the command, the phase in hand, the private copy, its sections in the clear,
and the plan and its placement once the phases that make them are over. -/
structure Loading where
  cmd : Nat
  phase : Nat
  copy : List Byte
  secs : List Plain
  image : Option PlanImage
  place : Option Place
  deriving DecidableEq, Repr

/-- What the module is performing, which decides how an occurrence is dated (14 R434): nothing but the command in hand, a
cycle of the plan, or a step boundary. -/
inductive Moment where
  | command | cycle | boundary
  deriving DecidableEq, Repr

/-- The plan and its run. -/
structure Plan where
  state : PlanState
  fromHalted : Bool
  loading : Option Loading
  image : Option PlanImage
  place : Option Place
  base : Nat                     -- L of the last launch or resume (01 R22, 13 R426)
  baseStep : Nat                 -- the step that begins at L
  step : Nat                     -- 2010h:02
  stepStart : Nat                -- count at which the step began
  cyc : Nat                      -- cycle reached, of the cycles in which the plan has run since it was loaded
  cyc0 : Nat                     -- the first cycle of the step
  moment : Moment                -- what is being performed
  cut : Bool                     -- the cut-off of the step has passed
  cutHalt : Nat                  -- 2010h:03 at the cut-off (15 R453)
  cutCkpt : Nat                  -- B030h:01 at the cut-off
  fresh : Bool                   -- the step's boundary interrupt has been raised (16 R488)
  variant : Nat                  -- 2012h:01
  params : List Nat              -- bp0 to bp63 of the step
  accepted : Option (Nat × List Nat)
  latched : Nat × List Nat
  pendingBoundary : Bool         -- a halted boundary whose actions 2 to 8 wait (01 R29)
  launched : Bool
  done : Nat                     -- routines-done bits (16 R487)
  mailbox : Mailbox
  deriving DecidableEq, Repr

/-- No plan. -/
def Plan.reset : Plan :=
  { state := .empty, fromHalted := false, loading := none, image := none, place := none, base := 0,
    baseStep := 0, step := 0, stepStart := 0, cyc := 0, cyc0 := 0, moment := .command, cut := false,
    cutHalt := 0xFFFFFFFFFFFFFFFF, cutCkpt := 0xFFFFFFFFFFFFFFFF, fresh := false, variant := 0,
    params := [], accepted := none, latched := (0, []), pendingBoundary := false, launched := false,
    done := 0, mailbox := Mailbox.reset }

/-- An error stored with a granule (07 R188 R191 R194): uncorrectable or not, the bits inverted as a
number over the granule's 512 bits, whether an injection made it. -/
structure EccMark where
  unc : Bool
  mask : Nat
  injected : Bool
  deriving DecidableEq, Repr

/-- A late write that waits for its tier (07 R198): the stack or channel, where its line lay at its memory point, and the
line of a KV pool that it is, whose residence decides where it goes (07 R209); where it goes to a sampler command line, the
die and the line (08 R246). -/
structure LateWrite where
  unit : Nat
  addrs : List Nat
  page : Option PageRef
  data : List Byte
  poison : Bool
  cmd : Option (Nat × Nat)
  deriving DecidableEq, Repr

/-- A page of a KV pool (07 R208). -/
structure PageSt where
  frame : Option Nat
  dirty : Bool
  heat : Nat
  count : Nat
  deriving DecidableEq, Repr

/-- A page at plan load. -/
def PageSt.reset : PageSt := ⟨none, false, 0, 0⟩

/-- A migration in flight (07 R212): page, frame, promotion or demotion, whether its copy is done,
whether it was done by the last cut-off, whether it has been deferred before. -/
structure Flight where
  page : Nat
  frame : Nat
  promote : Bool
  done : Bool
  ready : Bool
  deriving DecidableEq, Repr

/-- A KV pool's residence (07 R208). -/
structure Pool where
  pages : SMap PageSt
  flights : List Flight
  deriving DecidableEq, Repr

/-- A pool at plan load. -/
def Pool.reset : Pool := ⟨[], []⟩

/-- What a step adds up for its boundary (01 R24 action 1; 02 R64, 03 R91, 04 R115, 05 R148): counter
increments by entry key, conversion and vector event bits, and the plan faults reported in the step
(kind, unit). -/
structure Acc where
  counts : SMap Nat
  conv : Nat
  vec : Nat
  reported : List (Nat × Nat)
  deriving DecidableEq, Repr

/-- Nothing added up. -/
def Acc.reset : Acc := ⟨[], 0, 0, []⟩

end Sys2Proof.Machine
end

