-- ==== Sys2Proof/Machine/Bits.lean ====
section
/-! DEFINITION. Bit fields, byte order, and the operations of the sparse map. -/

namespace Sys2Proof.Machine

/-- Bits [hi:lo] of x (00 R5). -/
def bits (x hi lo : Nat) : Nat := (x >>> lo) % 2 ^ (hi - lo + 1)

/-- Bit n of x. -/
def bit (x n : Nat) : Bool := x.testBit n

/-- x with bit n set. -/
def setBit (x n : Nat) : Nat := x ||| 2 ^ n

/-- x with bit n clear. -/
def clearBit (x n : Nat) : Nat := if x.testBit n then x - 2 ^ n else x

/-- Little-endian bytes to a number (00 R5). -/
def leNat : List Byte → Nat
  | [] => 0
  | b :: bs => b.toNat + 256 * leNat bs

/-- The n low bytes of x, little-endian (00 R5). -/
def leBytes : Nat → Nat → List Byte
  | 0, _ => []
  | n + 1, x => BitVec.ofNat 8 x :: leBytes n (x / 256)

/-- n bytes from offset o, zeros beyond the end. -/
def slice (bs : List Byte) (o n : Nat) : List Byte :=
  let t := (bs.drop o).take n
  t ++ List.replicate (n - t.length) 0

/-- The little-endian field of n bytes at offset o. -/
def field (bs : List Byte) (o n : Nat) : Nat := leNat ((bs.drop o).take n)

/-- bs with the bytes v put at offset o (bs is long enough, or is padded with zeros). -/
def splice (bs : List Byte) (o : Nat) (v : List Byte) : List Byte :=
  slice bs 0 o ++ v ++ bs.drop (o + v.length)

/-- All bytes zero. -/
def allZero (bs : List Byte) : Bool := bs.all (· == 0)

/-- The ASCII bytes of a text. -/
def ascii (t : String) : List Byte := t.toList.map (fun c => BitVec.ofNat 8 c.toNat)

/-- Two's complement of width w read as an integer. -/
def signed (w x : Nat) : Int :=
  let y := x % 2 ^ w
  if y < 2 ^ (w - 1) then (y : Int) else (y : Int) - (2 ^ w : Nat)

/-- An integer as a two's complement number of width w. -/
def unsigned (w : Nat) (x : Int) : Nat := (x % ((2 ^ w : Nat) : Int)).toNat

/-- Ceiling division. -/
def cdiv (a b : Nat) : Nat := (a + b - 1) / b

/-- x rounded up to a multiple of b. -/
def roundUp (x b : Nat) : Nat := cdiv x b * b

/-- Number of bits of x. -/
def bitLen (x : Nat) : Nat := if x = 0 then 0 else Nat.log2 x + 1

/-- Modulo 2^64. -/
def m64 (x : Nat) : Nat := x % 18446744073709551616

/-- The 64-bit value of all ones. -/
def ones64 : Nat := 0xFFFFFFFFFFFFFFFF

/-- The step value that means "at once". -/
def atOnce64 : Nat := 0xFFFFFFFFFFFFFFFE

/-- The 32-bit value of all ones. -/
def ones32 : Nat := 0xFFFFFFFF

/-- Read a key of a sparse map; d is what an unlisted key reads as. -/
def smGet {α : Type} (d : α) : SMap α → Nat → α
  | [], _ => d
  | (k, v) :: t, i => if k = i then v else smGet d t i

/-- Take a key out. -/
def smErase {α : Type} (m : SMap α) (i : Nat) : SMap α := m.filter (fun e => e.1 != i)

/-- Put a key that is not listed before the first greater one. -/
def smPut {α : Type} : SMap α → Nat → α → SMap α
  | [], i, x => [(i, x)]
  | (k, v) :: t, i, x => if i < k then (i, x) :: (k, v) :: t else (k, v) :: smPut t i x

/-- Put a listed value, keeping the keys rising. -/
def smInsert {α : Type} (m : SMap α) (i : Nat) (x : α) : SMap α := smPut (smErase m i) i x

/-- Write a key: the value an unlisted key reads as takes the entry out. -/
def smSet {α : Type} [DecidableEq α] (d : α) (m : SMap α) (i : Nat) (x : α) : SMap α :=
  if x = d then smErase m i else smInsert m i x

/-- Change a key's value. -/
def smMod {α : Type} [DecidableEq α] (d : α) (m : SMap α) (i : Nat) (f : α → α) : SMap α :=
  smSet d m i (f (smGet d m i))

/-- The canonical form: keys strictly rising, no entry equal to the default. -/
def smWf {α : Type} [DecidableEq α] (d : α) : SMap α → Bool
  | [] => true
  | [(_, v)] => decide (v ≠ d)
  | (k, v) :: (k', v') :: t => decide (v ≠ d) && decide (k < k') && smWf d ((k', v') :: t)

/-- Membership in a rising list of numbers (a set). -/
def nsMem (s : List Nat) (i : Nat) : Bool := s.contains i

/-- Take a number out of a rising list. -/
def nsErase (s : List Nat) (i : Nat) : List Nat := s.filter (fun k => k != i)

/-- Put a number that is not listed before the first greater one. -/
def nsAdd : List Nat → Nat → List Nat
  | [], i => [i]
  | k :: t, i => if i < k then i :: k :: t else k :: nsAdd t i

/-- Put a number into a rising list. -/
def nsInsert (s : List Nat) (i : Nat) : List Nat := nsAdd (nsErase s i) i

/-- Put in or take out. -/
def nsPut (s : List Nat) (i : Nat) (b : Bool) : List Nat := if b then nsInsert s i else nsErase s i

/-- Replace element i of a list. -/
def listSet {α : Type} (l : List α) (i : Nat) (x : α) : List α := l.set i x

/-- Insert into a list sorted by a strict order, after equal elements. -/
def sortIns {α : Type} (lt : α → α → Bool) (x : α) : List α → List α
  | [] => [x]
  | y :: t => if lt x y then x :: y :: t else y :: sortIns lt x t

/-- Stable insertion sort by a strict order. -/
def sortBy {α : Type} (lt : α → α → Bool) (l : List α) : List α :=
  l.foldl (fun acc x => sortIns lt x acc) []

end Sys2Proof.Machine
end

