-- ==== Sys2Proof/Machine/PartsServe.lean ====
section
/-! DEFINITION. The Belriaz serving engines and samplers (08), and the model directory with the open
build (09). -/

namespace Sys2Proof.Machine

/-- A session entry (08 R222). -/
structure Sess where
  st : Nat
  flags : Nat
  gram : Nat
  mask : Nat
  origin : Nat
  tag : Nat
  seed : Nat
  admSeq : Nat
  len : Nat                -- L
  plen : Nat               -- P
  pline : Nat
  gen : Nat
  maxNew : Nat
  cur : Nat
  temp : Nat
  topp : Nat
  topk : Nat
  gstate : Nat
  gdepth : Nat
  adapter : Nat
  gens : Nat
  stops : List Nat
  node : Nat
  reused : Nat
  gstack : List Nat
  admStep : Nat
  binds : Nat              -- which copies it bound: [0] base, [1] draft, [2] adapter (09 R230)
  keys : List (List Byte)  -- prefix keys of its prompt's whole pages (R239 R241)
  deriving DecidableEq, Repr

/-- A free entry (08 R222, values on reset). -/
def Sess.free : Sess :=
  { st := 0, flags := 0, gram := 0xFF, mask := 0xFF, origin := 0, tag := 0, seed := 0, admSeq := 0,
    len := 0, plen := 0, pline := 0, gen := 0, maxNew := 0, cur := 0, temp := 0, topp := 0, topk := 0,
    gstate := 0, gdepth := 0, adapter := 0xFF, gens := 0,
    stops := [0xFFFFFFFF, 0xFFFFFFFF, 0xFFFFFFFF, 0xFFFFFFFF], node := 0xFFFFFFFF, reused := 0,
    gstack := [], admStep := 0, binds := 0, keys := [] }

/-- A prefix node (08 R240). -/
structure Node where
  key : List Byte
  parent : Nat
  child : Nat
  sibling : Nat
  sharing : Nat
  used : Nat
  pages : List Nat
  bad : Bool
  deriving DecidableEq, Repr

/-- The root at reset. -/
def Node.root : Node := ⟨[], 0xFFFFFFFF, 0xFFFFFFFF, 0xFFFFFFFF, 0, 0, [], false⟩

/-- The work of a session in the step (08 R232): kind, tokens c, depth k', whether the chunk is
final, whether it is the first step after admission. -/
structure Work where
  kind : Nat
  c : Nat
  k : Nat
  final : Bool
  first : Bool
  deriving DecidableEq, Repr

/-- Idle. -/
def Work.idle : Work := ⟨0, 0, 0, false, false⟩

/-- Granules as an engine has read them, with their poison: granule number, bytes, poison. -/
abbrev HeldLines := List (Nat × List Byte × Bool)

/-- A sampler job (08 R245 R246): the command line it was posted on, its 64 bytes, the count and the cycle at which it
started (0 while it waits), its session's entry as it stood at the last boundary before, and the granules written since in
which it still sees what they held. -/
structure Job where
  line : Nat
  bytes : List Byte
  start : Nat
  cyc : Nat
  sess : Sess
  held : HeldLines
  deriving DecidableEq, Repr

/-- A stage that the engine read from the admission region (08 R228 R229): its origin, its records
with whether a cancellation removed each, its word area. -/
structure Stage where
  origin : Nat
  recs : List (List Byte)
  removed : List Bool
  words : List Byte
  deriving DecidableEq, Repr

/-- The serving state of the module. Keys: sessions 0 to 4,095; directories by
(session * 4 + pool of the die) * 64 + slot; blocks by die * 16,384 + block, each 64 page numbers as
a sparse map; reference counts and nodes by pool or die and number. -/
structure Serving where
  sess : SMap Sess
  snap : Option (SMap Sess)        -- as they stood at the last boundary, none before the first (R223)
  dir : SMap Nat
  blocks : SMap (SMap Nat)
  refs : SMap Nat
  nodes : SMap Node
  prompts : List (Nat × Nat)       -- used runs of the prompt store: first line, lines
  admSeq : Nat
  tables : List Nat                -- installed tables: g, or 256 + m
  window : SMap Byte               -- intake window
  region : List Stage              -- stages read from the admission region
  readDone : Bool
  work : SMap Work
  backlog : List (List Byte)
  cmdDue : List (Nat × Nat × List Byte) -- command lines written by a scheduled access: die, line, bytes
  jobs : List (List Job)           -- waiting jobs of the four samplers
  job : List (Option Job)          -- running job
  tablesHeld : HeldLines           -- granules of the serving tables written since the last boundary, as they stood at it (R246)
  deriving DecidableEq, Repr

/-- The serving state at module reset and plan load (08 R221). -/
def Serving.reset : Serving :=
  { sess := [], snap := none, dir := [], blocks := [], refs := [], nodes := [], prompts := [],
    admSeq := 0, tables := [], window := [], region := [], readDone := false,
    work := [], backlog := [], cmdDue := [], jobs := [[], [], [], []],
    job := [none, none, none, none], tablesHeld := [] }

/-! ## Weights (09) -/

/-- The states of a copy in the directory (09 R266). -/
inductive CopySt where
  | free | opening | building | ready | live | draining
  deriving DecidableEq, Repr

/-- A copy position of a directory entry (09 R266 R268 R281). -/
structure WCopy where
  st : CopySt
  gen : Nat
  tier : Nat
  len : Nat
  off : Nat
  hash : List Byte
  deriving DecidableEq, Repr

/-- A position that holds nothing. -/
def WCopy.none : WCopy := ⟨.free, 0, 0, 0, 0, []⟩

/-- A directory entry: its two copy positions, the generation last assigned, the use count. -/
structure WEntry where
  a : WCopy
  b : WCopy
  last : Nat
  uses : Nat
  deriving DecidableEq, Repr

/-- An entry at module reset: nothing held, so that the first generation is 0 (09 R267). -/
def WEntry.reset : WEntry := ⟨.none, .none, 3, 0⟩

/-- A chunk that a build still expects (09 R271 R273): record, section index, chunk index, its
plaintext offset in the copy, its plaintext length. -/
structure WChunk where
  record : Nat
  sec : Nat
  chunk : Nat
  off : Nat
  len : Nat
  deriving DecidableEq, Repr

/-- The open build (09 R277 R278): target entry or FFh, position once known, generation asked for,
open step, tier, copy length, manifest hash, container ID, content key, the chunks still expected
with their section's type and plain length, and a feed in hand: its chunks and stored bytes. -/
structure Build where
  target : Nat
  second : Bool
  building : Bool
  genAsk : Nat
  openAt : Nat
  tier : Nat
  len : Nat
  mhash : List Byte
  cid : List Byte
  key : List Byte
  plain : List Nat
  chunks : List WChunk
  feeding : Option (List WChunk × List Byte)
  deriving DecidableEq, Repr

/-- The directory, the open build, the switches that a cut-off kept (entry numbers, 09 R286), space
freed at the last boundary and not to be written before the next but one (R293): tier, offset,
length, the step whose boundary freed it. -/
structure Weights where
  dir : SMap WEntry
  build : Option Build
  kept : List Nat
  freed : List (Nat × Nat × Nat × Nat)
  deriving DecidableEq, Repr

/-- Nothing built. -/
def Weights.reset : Weights := ⟨[], none, [], []⟩

end Sys2Proof.Machine
end

