-- ==== Sys2Proof/Machine/State.lean ====
section
/-! DEFINITION. The whole state of the module, the reasons a step stops for, and the state after
reset. -/

namespace Sys2Proof.Machine

/-- Reasons for a fault. No command of this block ends in one: an access to an address that does not
exist is refused by the module itself, counted and recorded (07 R202), and every command goes on. -/
inductive Fault where
  /-- Raised by no meaning. Safe. -/
  | unused
  deriving DecidableEq, Repr

/-- Reasons for a refusal. -/
inductive Refusal where
  /-- Raised by an arm of Dispatch.lean whose command has no meaning yet. Safe. -/
  | notModelled (mnemonic : String)
  /-- Raised by a meaning whose operands break a bound that the spec sets on them, so that no such
  instruction exists (`Instr.wf`). Safe. -/
  | illFormed
  /-- Raised by RESET_ASSERT for an assertion from 1 µs to less than 10 µs, the response to which the spec
  says is not specified (18 R521). Safe. -/
  | resetPulse
  deriving DecidableEq, Repr

/-- Everything a module reset returns to its reset value (18 R522). -/
structure Chip where
  power : Power
  count : Nat                      -- the Farak count (10 R299)
  regs : SMap Nat                  -- scalar dictionary entries, key 256 * index + subindex
  shadow : SMap Nat                -- shadows written since the last commit or discard (15 R451)
  blobs : SMap (List Byte)         -- rw DOMAIN entries: route tables and key slots
  commitCopy : Option (SMap Nat)   -- shadows copied at a cut-off (15 R455)
  eng : Eng
  err : Err
  plan : Plan
  seqs : SMap Seq                  -- by die
  tiles : SMap Tile                -- by site
  acts : List Act                  -- access instructions in progress, in order of issue
  flying : List Flying             -- lines and entries on their way
  mem : List Host.Cell             -- by module address (07 R200)
  poison : List Nat                -- poisoned granules: module address / 64 (07 R204)
  ecc : SMap EccMark               -- granules stored with an error
  flaws : List Flaw                -- errors that strike at their counts, whichever they are (log 37)
  wbDue : List Nat                 -- write-backs due (07 R188 R205)
  late : List LateWrite
  pools : SMap Pool                -- by region number
  acc : Acc
  srv : Serving
  wts : Weights
  time : Time
  ports : SMap Port                -- by port
  fab : Fabric
  det : Det
  stew : SMap Steward              -- by die
  host : HostIf
  sec : Sec
  out : List Out
  free : Nat
  deriving DecidableEq, Repr

/-- The state of the block: the fuses, which outlive reset; everything else; and the commands that
wait, first in, first out. -/
structure State where
  fuses : Fuses
  chip : Chip
  pending : List Instr
  deriving DecidableEq, Repr

/-- The ECC mark of a granule without an error. -/
def EccMark.none : EccMark := ⟨false, 0, false⟩

/-- The fuses the model starts from: a QZ7-192 of stepping B1 with every tile enabled, unique number
1, unowned, minimum security version 0. DESIGN CHOICE (log 7). -/
def Fuses.reset : Fuses :=
  { tiles := 192, stepping := 0xB1,
    maps := [0xFFFFFFFFFFFF, 0xFFFFFFFFFFFF, 0xFFFFFFFFFFFF, 0xFFFFFFFFFFFF],
    unique := 1, secret := 0, agree := List.replicate 32 0, ownerRoot := List.replicate 32 0, ownerBegun := false,
    ownerValid := false, secMin := 0 }

/-- What the boot ROM left where firmware has just started from image A. DESIGN CHOICE (log 8). -/
def Boot.reset : Boot :=
  { image := 0, causeA := 0, causeB := 0, status := 0, badDie := 0, hash := List.replicate 48 0,
    build := 0, secVersion := 0, raise := false, nonce := List.replicate 32 0, certBad := false,
    certs := [] }

/-- Power good, reset released, firmware running, self-test still ahead (18 R528). Straps 1111b are
DESIGN CHOICE (log 7). -/
def Power.reset : Power :=
  { good := true, phase := .running, straps := 15, temps := [0, 0, 0, 0],
    warned := [false, false, false, false], trip := false,
    tripped := [false, false, false, false], scan := false, boot := Boot.reset,
    badPrims := [], rngBad := false, tested := false }

/-- Everything at its reset value, in the moment firmware starts (log 8). -/
def Chip.reset : Chip :=
  { power := Power.reset, count := 0, regs := [], shadow := [], blobs := [], commitCopy := none,
    eng := Eng.reset, err := Err.reset, plan := Plan.reset, seqs := [], tiles := [], acts := [], flying := [], mem := [],
    poison := [], ecc := [], flaws := [], wbDue := [], late := [], pools := [], acc := Acc.reset,
    srv := Serving.reset, wts := Weights.reset, time := Time.reset, ports := [],
    fab := Fabric.reset, det := Det.reset, stew := [], host := HostIf.reset, sec := Sec.reset,
    out := [], free := 0 }

/-- The module right after reset (18 R522 R528), nothing commanded. -/
def State.reset : State := { fuses := Fuses.reset, chip := Chip.reset, pending := [] }

end Sys2Proof.Machine
end

