-- ==== Sys2Proof/WellFormed.lean ====
section
/-! DEFINITION. The bounds the spec sets on the operands of a command, beyond what the types say. A
command that breaks one is no command of the machine. -/

namespace Sys2Proof

/-- A count of an access-stream instruction: 1 to 4,096 (05 R131). -/
def countOk (n : Nat) : Bool := decide (1 ≤ n) && decide (n ≤ 4096)

/-- A queue pair names an even-numbered queue (03 R74). -/
def pairOk (q : Fin 8) : Bool := q.val % 2 == 0

/-- The bound of a gather or scatter (04 R107). -/
def boundOk (b : Nat) : Bool := [1, 2, 4, 8, 16, 32, 64].contains b

/-- The formats an array operand may have (03 R68). -/
def arrayFmt : Fmt → Bool
  | .fp32 | .int32 => false
  | _ => true

/-- The bytes 64 elements of a format fill (04 R104). -/
def packedBytes : Fmt → Nat
  | .ternary => 16
  | .e2m1 | .int4 => 32
  | .e2m3 | .e3m2 => 48
  | .e4m3 | .e5m2 | .int8 => 64
  | .bf16 | .fp16 => 128
  | .fp32 | .int32 => 0

/-- The valid byte offsets of VQNT and VDQ (04 R104). -/
def offsetOk (f : Fmt) (o : Nat) : Bool :=
  packedBytes f != 0 && o % packedBytes f == 0 && decide (o + packedBytes f ≤ 256)

/-- BF16 and FP16 carry no scale (04 R104, 03 R70). -/
def noScale : Fmt → Bool
  | .bf16 | .fp16 => true
  | _ => false

/-- The queue operand of an MSTR: one queue or an even pair (03 R74). -/
def qsrcOk : QSrc → Bool
  | .one _ => true
  | .pair q => pairOk q

/-- The wait count and the loop counters of an issue: a count runs to 1,048,575 and a counter stays below an iteration
count of at most 2^24 (05 R117 R118). -/
def Issue.ok (i : Issue) : Bool :=
  decide (i.wait ≤ 1048575) && decide (i.c0 < 16777216) && decide (i.c1 < 16777216) && decide (i.c2 < 16777216) &&
    decide (i.c3 < 16777216)

/-- A line address: a stride of TI that is a multiple of 16 lines (05 R130). -/
def LineAddr.ok (a : LineAddr) : Bool := a.sT % 16 == 0

/-- The operands of a command lie within the bounds the spec sets. -/
def Instr.wf : Instr → Bool
  | .mpre i f qp qs => i.ok && arrayFmt f && pairOk qp && (qs.isNone || !noScale f)
  | .mstr i f qa qs _ n _ _ _ =>
    i.ok && arrayFmt f && f != .ternary && qsrcOk qa && (qs.isNone || !noScale f) &&
      decide (1 ≤ n) && decide (n ≤ 256)
  | .mdrn i _ _ _ _ => i.ok
  | .mskl i _ => i.ok
  | .vadd i _ _ _ _ => i.ok
  | .vsub i _ _ _ _ => i.ok
  | .vmul i _ _ _ _ => i.ok
  | .vfma i _ _ _ _ _ => i.ok
  | .vmin i _ _ _ _ => i.ok
  | .vmax i _ _ _ _ => i.ok
  | .vabs i _ _ _ => i.ok
  | .vneg i _ _ _ => i.ok
  | .vcmp i _ _ _ _ _ => i.ok
  | .vsel i _ _ _ _ _ => i.ok
  | .vrsum i _ _ _ => i.ok
  | .vrmax i _ _ _ => i.ok
  | .vrmaxi i _ vd _ => i.ok && vd.val % 2 == 0
  | .vexp2 i _ _ _ => i.ok
  | .vlog2 i _ _ _ => i.ok
  | .vrcp i _ _ _ => i.ok
  | .vrsq i _ _ _ => i.ok
  | .vdiv i _ _ _ _ => i.ok
  | .iadd i _ _ _ _ => i.ok
  | .isub i _ _ _ _ => i.ok
  | .iadds i _ _ _ _ => i.ok
  | .isubs i _ _ _ _ => i.ok
  | .imul i _ _ _ _ => i.ok
  | .imulh i _ _ _ _ _ => i.ok
  | .imad i _ _ _ _ _ => i.ok
  | .imin i _ _ _ _ _ => i.ok
  | .imax i _ _ _ _ _ => i.ok
  | .vand i _ _ _ _ => i.ok
  | .vor i _ _ _ _ => i.ok
  | .vxor i _ _ _ _ => i.ok
  | .vnot i _ _ _ => i.ok
  | .vshl i _ _ _ _ => i.ok
  | .vshr i _ _ _ _ => i.ok
  | .vsra i _ _ _ _ => i.ok
  | .icmp i _ _ _ _ _ _ => i.ok
  | .vmov i _ _ _ => i.ok
  | .vmovi i _ _ _ => i.ok
  | .vperm i _ _ _ _ => i.ok
  | .pand i _ _ _ _ => i.ok
  | .por i _ _ _ _ => i.ok
  | .pxor i _ _ _ _ => i.ok
  | .pnot i _ _ _ => i.ok
  | .pfrom i _ _ _ => i.ok
  | .vpcnt i _ _ _ => i.ok
  | .vcvt i _ _ _ _ _ => i.ok
  | .vrnd i _ _ _ _ => i.ok
  | .vqnt i _ _ _ _ f sc o => i.ok && offsetOk f o.val && (!noScale f || sc == .unscaled)
  | .vdq i _ _ _ _ f scaled o => i.ok && offsetOk f o.val && (!noScale f || !scaled)
  | .vlane i _ _ => i.ok
  | .vtid i _ _ => i.ok
  | .amov i _ _ _ => i.ok
  | .aadd i _ _ _ => i.ok
  | .afrom i _ _ _ => i.ok
  | .vld i _ _ _ _ => i.ok
  | .vst i _ _ _ _ => i.ok
  | .vldb i _ _ _ _ => i.ok
  | .vgath i _ _ _ _ b => i.ok && boundOk b
  | .vscat i _ _ _ _ b => i.ok && boundOk b
  | .vpop i _ _ _ => i.ok
  | .vpush i _ _ _ => i.ok
  | .vslot i _ _ _ _ c => i.ok && decide (1 ≤ c) && decide (c ≤ 256)
  | .vslmsk i _ _ _ => i.ok
  | .vslrd i _ _ _ => i.ok
  | .vslset i _ _ _ => i.ok
  | .vslclr i _ => i.ok
  | .tql i _ src n => i.ok && src.ok && countOk n
  | .tqp i qp src n => i.ok && pairOk qp && src.ok && countOk n
  | .bpq i _ _ => i.ok
  | .qts i dst _ n => i.ok && dst.ok && countOk n
  | .ocfl i oc ts n => i.ok && oc.ok && ts.ok && countOk n
  | .ocwb i oc ts n => i.ok && oc.ok && ts.ok && countOk n
  | .oczr i oc n => i.ok && oc.ok && countOk n
  | .mld i dst _ off n _ => i.ok && dst.ok && off.ok && countOk n
  | .mst i _ off src n _ => i.ok && off.ok && src.ok && countOk n
  | .mvt i _ dst src n => i.ok && dst.ok && src.ok && countOk n
  | .mrx i _ dst n => i.ok && dst.ok && countOk n
  | .csnd i _ src => i.ok && src.ok
  | .crcv i _ dst => i.ok && dst.ok
  | .swr i off src n => i.ok && off.ok && src.ok && countOk n
  | .xbar i _ _ => i.ok
  | .ends i _ => i.ok
  | _ => true

end Sys2Proof
end

