-- ==== Sys2Proof/Machine/Holds.lean ====
section
/-! DEFINITION. When an instruction of a stream issues (05 R120 R127, 04 R95 R96, 03 R76 R81), and which lines of the
access instructions in progress move in a cycle (05 R131 R133). Nothing here depends on data, on a tile or on its lag: the
sequencer and the load checks of 06 R167 both reckon with it. -/

namespace Sys2Proof.Machine

/-! ## The execute stream -/

/-- What an instruction of the execute stream needs: its unit, its latency and the cycles it occupies the unit, and the
registers it reads, the governing predicate first, and writes, and whether inactive lanes take zero. -/
structure Need where
  unit : HwUnit
  lat : Nat
  occ : Nat
  src : List Reg
  dst : List Reg
  zero : Bool := false

/-- The register an instruction on slot counters takes its counter from. -/
def slotSrc : SlotSel → List Reg
  | .areg a => [.a a.val]
  | .imm _ => []

/-- The table of 04 R96, and 03 R79 for MDRN. A store has no latency there: it counts as done after its rounds, and a VPUSH
once its last entry is written (05 R135): DEDUCED (log 3). -/
def needOf : Instr → Need
  | .vadd _ g vd a b => ⟨.fpu, 4, 1, [.p g.p.val, .v a.val, .v b.r.val], [.v vd.val], g.zero⟩
  | .vsub _ g vd a b => ⟨.fpu, 4, 1, [.p g.p.val, .v a.val, .v b.r.val], [.v vd.val], g.zero⟩
  | .vmul _ g vd a b => ⟨.fpu, 4, 1, [.p g.p.val, .v a.val, .v b.r.val], [.v vd.val], g.zero⟩
  | .vfma _ g vd a b c => ⟨.fpu, 4, 1, [.p g.p.val, .v a.val, .v b.r.val, .v c.r.val], [.v vd.val], g.zero⟩
  | .vmin _ g vd a b => ⟨.fpu, 4, 1, [.p g.p.val, .v a.val, .v b.r.val], [.v vd.val], g.zero⟩
  | .vmax _ g vd a b => ⟨.fpu, 4, 1, [.p g.p.val, .v a.val, .v b.r.val], [.v vd.val], g.zero⟩
  | .vabs _ g vd a => ⟨.fpu, 4, 1, [.p g.p.val, .v a.val], [.v vd.val], g.zero⟩
  | .vneg _ g vd a => ⟨.fpu, 4, 1, [.p g.p.val, .v a.val], [.v vd.val], g.zero⟩
  | .vcmp _ g _ pd a b => ⟨.alu, 2, 1, [.p g.p.val, .v a.val, .v b.r.val], [.p pd.val], g.zero⟩
  | .vsel _ g vd a b ps => ⟨.alu, 2, 1, [.p g.p.val, .v a.val, .v b.r.val, .p ps.val], [.v vd.val], g.zero⟩
  | .vrsum _ g vd a => ⟨.tree, 12, 1, [.p g.p.val, .v a.val], [.v vd.val], g.zero⟩
  | .vrmax _ g vd a => ⟨.tree, 12, 1, [.p g.p.val, .v a.val], [.v vd.val], g.zero⟩
  | .vrmaxi _ g vd a => ⟨.tree, 12, 1, [.p g.p.val, .v a.val], [.v vd.val, .v (vd.val + 1)], g.zero⟩
  | .vexp2 _ g vd a => ⟨.special, 14, 4, [.p g.p.val, .v a.val], [.v vd.val], g.zero⟩
  | .vlog2 _ g vd a => ⟨.special, 14, 4, [.p g.p.val, .v a.val], [.v vd.val], g.zero⟩
  | .vrcp _ g vd a => ⟨.special, 14, 4, [.p g.p.val, .v a.val], [.v vd.val], g.zero⟩
  | .vrsq _ g vd a => ⟨.special, 14, 4, [.p g.p.val, .v a.val], [.v vd.val], g.zero⟩
  | .vdiv _ g vd a b => ⟨.special, 20, 8, [.p g.p.val, .v a.val, .v b.val], [.v vd.val], g.zero⟩
  | .iadd _ g vd a b => ⟨.alu, 2, 1, [.p g.p.val, .v a.val, .v b.val], [.v vd.val], g.zero⟩
  | .isub _ g vd a b => ⟨.alu, 2, 1, [.p g.p.val, .v a.val, .v b.val], [.v vd.val], g.zero⟩
  | .iadds _ g vd a b => ⟨.alu, 2, 1, [.p g.p.val, .v a.val, .v b.val], [.v vd.val], g.zero⟩
  | .isubs _ g vd a b => ⟨.alu, 2, 1, [.p g.p.val, .v a.val, .v b.val], [.v vd.val], g.zero⟩
  | .imul _ g vd a b => ⟨.alu, 2, 1, [.p g.p.val, .v a.val, .v b.val], [.v vd.val], g.zero⟩
  | .imulh _ g _ vd a b => ⟨.alu, 2, 1, [.p g.p.val, .v a.val, .v b.val], [.v vd.val], g.zero⟩
  | .imad _ g vd a b c => ⟨.alu, 2, 1, [.p g.p.val, .v a.val, .v b.val, .v c.val], [.v vd.val], g.zero⟩
  | .imin _ g _ vd a b => ⟨.alu, 2, 1, [.p g.p.val, .v a.val, .v b.val], [.v vd.val], g.zero⟩
  | .imax _ g _ vd a b => ⟨.alu, 2, 1, [.p g.p.val, .v a.val, .v b.val], [.v vd.val], g.zero⟩
  | .vand _ g vd a b => ⟨.alu, 2, 1, [.p g.p.val, .v a.val, .v b.val], [.v vd.val], g.zero⟩
  | .vor _ g vd a b => ⟨.alu, 2, 1, [.p g.p.val, .v a.val, .v b.val], [.v vd.val], g.zero⟩
  | .vxor _ g vd a b => ⟨.alu, 2, 1, [.p g.p.val, .v a.val, .v b.val], [.v vd.val], g.zero⟩
  | .vnot _ g vd a => ⟨.alu, 2, 1, [.p g.p.val, .v a.val], [.v vd.val], g.zero⟩
  | .vshl _ g vd a b => ⟨.alu, 2, 1, [.p g.p.val, .v a.val, .v b.val], [.v vd.val], g.zero⟩
  | .vshr _ g vd a b => ⟨.alu, 2, 1, [.p g.p.val, .v a.val, .v b.val], [.v vd.val], g.zero⟩
  | .vsra _ g vd a b => ⟨.alu, 2, 1, [.p g.p.val, .v a.val, .v b.val], [.v vd.val], g.zero⟩
  | .icmp _ g _ _ pd a b => ⟨.alu, 2, 1, [.p g.p.val, .v a.val, .v b.val], [.p pd.val], g.zero⟩
  | .vmov _ g vd a => ⟨.alu, 2, 1, [.p g.p.val, .v a.val], [.v vd.val], g.zero⟩
  | .vmovi _ g vd _ => ⟨.alu, 2, 1, [.p g.p.val], [.v vd.val], g.zero⟩
  | .vperm _ g vd a vi => ⟨.cross, 3, 1, [.p g.p.val, .v a.val, .v vi.val], [.v vd.val], g.zero⟩
  | .pand _ g pd a b => ⟨.alu, 2, 1, [.p g.p.val, .p a.val, .p b.val], [.p pd.val], g.zero⟩
  | .por _ g pd a b => ⟨.alu, 2, 1, [.p g.p.val, .p a.val, .p b.val], [.p pd.val], g.zero⟩
  | .pxor _ g pd a b => ⟨.alu, 2, 1, [.p g.p.val, .p a.val, .p b.val], [.p pd.val], g.zero⟩
  | .pnot _ g pd a => ⟨.alu, 2, 1, [.p g.p.val, .p a.val], [.p pd.val], g.zero⟩
  | .pfrom _ g pd a => ⟨.alu, 2, 1, [.p g.p.val, .v a.val], [.p pd.val], g.zero⟩
  | .vpcnt _ g vd ps => ⟨.alu, 2, 1, [.p g.p.val, .p ps.val], [.v vd.val], g.zero⟩
  | .vcvt _ g _ _ vd a => ⟨.fpu, 3, 1, [.p g.p.val, .v a.val], [.v vd.val], g.zero⟩
  | .vrnd _ g _ vd a => ⟨.fpu, 3, 1, [.p g.p.val, .v a.val], [.v vd.val], g.zero⟩
  | .vqnt _ g vd a vk _ sc _ =>
    ⟨.quant, 8, 1, [.p g.p.val, .v a.val] ++ (if sc = .given then [.v vk.val] else []),
      [.v vd.val] ++ (if sc = .computed then [.v vk.val] else []), g.zero⟩
  | .vdq _ g vd a vk _ scaled _ => ⟨.quant, 4, 1, [.p g.p.val, .v a.val] ++ (if scaled then [.v vk.val] else []), [.v vd.val], g.zero⟩
  | .vlane _ g vd => ⟨.alu, 2, 1, [.p g.p.val], [.v vd.val], g.zero⟩
  | .vtid _ g vd => ⟨.alu, 2, 1, [.p g.p.val], [.v vd.val], g.zero⟩
  | .amov _ g ad _ => ⟨.alu, 2, 1, [.p g.p.val], [.a ad.val], g.zero⟩
  | .aadd _ g ad _ => ⟨.alu, 2, 1, [.p g.p.val, .a ad.val], [.a ad.val], g.zero⟩
  | .afrom _ g ad a => ⟨.alu, 2, 1, [.p g.p.val, .v a.val], [.a ad.val], g.zero⟩
  | .vld _ g v ad _ => ⟨.cache, 6, 1, [.p g.p.val, .a ad.val], [.v v.val], g.zero⟩
  | .vst _ g v ad _ => ⟨.cache, 1, 1, [.p g.p.val, .v v.val, .a ad.val], [], g.zero⟩
  | .vldb _ g v ad _ => ⟨.cache, 6, 1, [.p g.p.val, .a ad.val], [.v v.val], g.zero⟩
  | .vgath _ g vd vi ad b => ⟨.cache, 5 + b, b, [.p g.p.val, .v vi.val, .a ad.val], [.v vd.val], g.zero⟩
  | .vscat _ g vs vi ad b => ⟨.cache, b, b, [.p g.p.val, .v vs.val, .v vi.val, .a ad.val], [], g.zero⟩
  | .vpop _ g vd _ => ⟨.qport, 6, 4, [.p g.p.val], [.v vd.val], g.zero⟩
  | .vpush _ g vs _ => ⟨.qport, 5, 4, [.p g.p.val, .v vs.val], [], g.zero⟩
  | .vslot _ g vd pd ve _ => ⟨.slot, 4, 1, [.p g.p.val, .v ve.val], [.v vd.val, .p pd.val], g.zero⟩
  | .vslmsk _ g vd e => ⟨.slot, 3, 1, (.p g.p.val :: slotSrc e), [.v vd.val], g.zero⟩
  | .vslrd _ g vd _ => ⟨.slot, 3, 1, [.p g.p.val], [.v vd.val], g.zero⟩
  | .vslset _ g vs _ => ⟨.slot, 3, 1, [.p g.p.val, .v vs.val], [], g.zero⟩
  | .vslclr _ g => ⟨.slot, 3, 1, [.p g.p.val], [], g.zero⟩
  | .mdrn _ _ _ v _ => ⟨.alu, 5, 0, [], [.v v.val], false⟩
  | .mskl _ v => ⟨.alu, 1, 0, [.v v.val], [], false⟩
  | _ => ⟨.alu, 1, 0, [], [], false⟩

/-- The value of a key of a list, else 0. -/
def lookupNat {α : Type} [DecidableEq α] (l : List (α × Nat)) (k : α) : Nat :=
  match l.find? (fun x => decide (x.1 = k)) with
  | some x => x.2
  | none => 0

/-- Put the value of a key. -/
def putNat {α : Type} [DecidableEq α] (l : List (α × Nat)) (k : α) (n : Nat) : List (α × Nat) :=
  (k, n) :: l.filter (fun x => !decide (x.1 = k))

/-- The largest of a list. -/
def maxNat (l : List Nat) : Nat := l.foldl max 0

/-- The cycle from which a port of the array, latest command first, has a place: one of two is over (03 R76). -/
def placeFrom : List Nat → Nat
  | _ :: e :: _ => e
  | _ => 0

/-- The cycle from which no hold of 04 R95 and 03 R76 keeps an instruction. -/
def execFrom (k : Clock) (x : Instr) : Nat :=
  let n := needOf x
  let regs := maxNat ((n.src ++ n.dst).map (lookupNat k.ready))
  let port := match x with
    | .mpre .. => placeFrom k.pre
    | .mstr .. => placeFrom k.str
    | .mskl .. => placeFrom k.str
    | _ => 0
  max (max regs (lookupNat k.busy n.unit)) port

/-- The cycles of one vector in the stream port: 2 in BF16 and FP16 (03 R78). -/
def vecCycles (f : Fmt) : Nat := if noScale f then 2 else 1

/-- The cycle in which a preload issued in cycle t takes its first row (03 R81). -/
def preStart (t free swapped : Nat) : Nat := max (max t free) swapped

/-- The cycle in which an MSTR issued in cycle t presents its first vector (03 R78 R81). -/
def strStart (t free loaded : Nat) (swap : Bool) : Nat := if swap then max (max t free) loaded else max t free

/-- The ports of the array after an instruction that issues in cycle t. -/
def portsAfter (k : Clock) (x : Instr) (t : Nat) : Clock :=
  match x with
  | .mpre .. =>
    let s := preStart t (k.pre.headD 0) k.swapped
    { k with pre := (s + 64) :: k.pre.take 1, loaded := s + 64 }
  | .mstr _ f _ _ _ n _ swap _ =>
    let s := strStart t (k.str.headD 0) k.loaded swap
    { k with str := (s + n * vecCycles f) :: k.str.take 1, swapped := if swap then s + 1 else k.swapped }
  | .mskl .. => { k with str := (max t (k.str.headD 0) + 1) :: k.str.take 1 }
  | _ => k

/-- The operand cache is read, or written, until a cycle (04 R109). -/
def cacheAfter (k : Clock) (x : Instr) (till : Nat) : Clock :=
  match x with
  | .vld .. => { k with reads := till }
  | .vldb .. => { k with reads := till }
  | .vgath .. => { k with reads := till }
  | .vst .. => { k with writes := till }
  | .vscat .. => { k with writes := till }
  | _ => k

/-- The cycle from which an instruction that issues in cycle t has completed: an array instruction when its port accepts
it (03 R76, 05 R135). -/
def completes (x : Instr) (t : Nat) : Nat :=
  match x with
  | .mdrn .. => t + 1
  | x => t + (needOf x).lat

/-- The clock after an instruction of the execute stream that issues in cycle t. A write to p0, which 04 R92 discards, is a
pending write like any other to the instructions after it: DESIGN CHOICE, as 04 R95 does not except it (log 3). -/
def execAfter (k : Clock) (x : Instr) (t : Nat) : Clock :=
  let n := needOf x
  let k := { k with ready := n.dst.foldl (fun l r => putNat l r (t + n.lat)) k.ready,
                    busy := putNat k.busy n.unit (t + n.occ), retired := max k.retired (completes x t) }
  cacheAfter (portsAfter k x t) x (t + n.occ)

/-! ## The access stream -/

/-- Lines of an access instruction that may move in one cycle (05 R131, 04 R108). -/
def lineRate : Instr → Nat
  | .tqp .. => 2
  | .ocfl .. => 4
  | .ocwb .. => 4
  | .oczr .. => 4
  | _ => 1

/-- The units it needs (05 R127 R131). -/
def accessUnits : Instr → List HwUnit
  | .tql _ q _ _ => [.writePort q.val]
  | .tqp _ q _ _ => [.writePort q.val, .writePort (q.val + 1)]
  | .bpq _ q _ => [.writePort q.val]
  | .qts _ _ q _ => [.readPort q.val]
  | .ocfl .. => [.cachePort]
  | .ocwb .. => [.cachePort]
  | .oczr .. => [.cachePort]
  | .mld .. => [.inbound]
  | .mrx .. => [.inbound]
  | .crcv .. => [.inbound]
  | .mst .. => [.outbound]
  | .mvt .. => [.outbound]
  | .csnd .. => [.outbound]
  | .swr .. => [.outbound]
  | _ => []

/-- Its lines come through the stop inbound: they take their banks first (05 R133). -/
def inboundAct (x : Instr) : Bool := (accessUnits x).contains .inbound

/-- Its lines need a bank of the tile store. -/
def banked : Instr → Bool
  | .bpq .. => false
  | .oczr .. => false
  | _ => true

/-- Cycles between the access of a line to the tile store and the end of its last effect (05 R131): the entry written in
the next cycle, the memory point, the arrival at a tile, at a port or at the steward's memory. -/
def lineTail (x : Instr) (far : Bool) : Nat :=
  match x with
  | .tql .. => 1
  | .tqp .. => 1
  | .bpq .. => 1
  | .mst .. => 40
  | .mvt .. => if far then 39 else 15
  | .csnd .. => 39
  | .swr .. => 16
  | _ => 0

/-- The cycle in which line j of an act meets its bank, if it loses none from now on. -/
def Act.due (a : Act) (j : Nat) : Nat := a.s + a.lead + j / lineRate a.x + a.slip

/-- The cycle from which the units of an act are free (05 R127). -/
def Act.freeFrom (a : Act) : Nat := a.s + (a.n + lineRate a.x - 1) / lineRate a.x + a.slip

/-- Every line has met its bank, and its last effect is over by the end of a cycle: it retires (05 R131 R135). -/
def Act.over (a : Act) (far : Bool) (t : Nat) : Bool :=
  decide (a.n ≤ a.k) && decide (a.due (a.n - 1) + lineTail a.x far ≤ t)

/-- The cycle from which no unit of the access stream keeps an instruction (05 R127). -/
def accessFrom (acts : List Act) (x : Instr) : Nat :=
  maxNat ((acts.filter (fun a => (accessUnits a.x).any ((accessUnits x).contains ·))).map Act.freeFrom)

/-- The operand cache keeps an act waiting for a whole cycle (04 R109). -/
def cacheHolds (k : Clock) (x : Instr) (t : Nat) : Bool :=
  match x with
  | .ocfl .. => decide (t < k.writes)
  | .oczr .. => decide (t < k.writes)
  | .ocwb .. => decide (t < k.reads)
  | _ => false

/-- Up to r lines of an act meet their banks in cycle t, of which some are taken: the first that loses makes all later
ones wait a cycle (05 R133). -/
def serveLines (t : Nat) : Nat → Act → List Nat → Act × List Nat
  | 0, a, taken => (a, taken)
  | r + 1, a, taken =>
    if a.k < a.n ∧ a.due a.k ≤ t then
      let b := (a.bank + a.k) % 16
      if banked a.x && taken.contains b then ({ a with slip := a.slip + 1 }, taken)
      else serveLines t r { a with k := a.k + 1 } (if banked a.x then b :: taken else taken)
    else (a, taken)

/-- An act in cycle t. -/
def serveAct (k : Clock) (t : Nat) (a : Act) (taken : List Nat) : Act × List Nat :=
  if cacheHolds k a.x t && decide (a.k < a.n) && decide (a.due a.k ≤ t) then ({ a with slip := a.slip + 1 }, taken)
  else serveLines t (lineRate a.x) a taken

/-- The acts of a die in cycle t, in a given order. -/
def serveAll (k : Clock) (t : Nat) : List Act → List Nat → List Act
  | [], _ => []
  | a :: rest, taken =>
    let r := serveAct k t a taken
    r.1 :: serveAll k t rest r.2

/-- The acts of a die in cycle t, lines through the stop inbound first, then in the order of issue (05 R133). -/
def serveDie (k : Clock) (t : Nat) (acts : List Act) : List Act :=
  serveAll k t (acts.filter (fun a => inboundAct a.x) ++ acts.filter (fun a => !inboundAct a.x)) []

end Sys2Proof.Machine
end

