-- ==== Sys2Proof/Machine/Float.lean ====
section
/-! DEFINITION. Number formats (02): values, decoding, rounding, conversion, block scales. -/

namespace Sys2Proof.Machine

/-- The value of a code: NaN, an infinity, or sign and m × 2^e. -/
inductive FVal where
  | nan
  | inf (neg : Bool)
  | fin (neg : Bool) (m : Nat) (e : Int)
  deriving DecidableEq, Repr

/-- Width in bits (02 R38). -/
def fmtWidth : Fmt → Nat
  | .ternary => 2 | .e2m1 => 4 | .int4 => 4 | .e2m3 => 6 | .e3m2 => 6 | .e4m3 => 8 | .e5m2 => 8
  | .int8 => 8 | .bf16 => 16 | .fp16 => 16 | .fp32 => 32 | .int32 => 32

/-- Mantissa bits, exponent bits, bias of a float format (02 R39). -/
def fmtShape : Fmt → Option (Nat × Nat × Nat)
  | .e2m1 => some (1, 2, 1) | .e2m3 => some (3, 2, 1) | .e3m2 => some (2, 3, 3)
  | .e4m3 => some (3, 4, 7) | .e5m2 => some (2, 5, 15) | .bf16 => some (7, 8, 127)
  | .fp16 => some (10, 5, 15) | .fp32 => some (23, 8, 127)
  | _ => none

/-- Code of the largest finite magnitude (02 R39 R41). -/
def fmtMaxCode : Fmt → Nat
  | .e2m1 => 0x7 | .e2m3 => 0x1F | .e3m2 => 0x1F | .e4m3 => 0x7E | .e5m2 => 0x7B
  | .bf16 => 0x7F7F | .fp16 => 0x7BFF | .fp32 => 0x7F7FFFFF
  | .ternary => 1 | .int4 => 7 | .int8 => 127 | .int32 => 0x7FFFFFFF

/-- The canonical NaN, where the format has one (02 R41). -/
def fmtNaN : Fmt → Option Nat
  | .e4m3 => some 0x7F | .e5m2 => some 0x7E | .bf16 => some 0x7FC0 | .fp16 => some 0x7E00
  | .fp32 => some 0x7FC00000 | _ => none

/-- The code of +infinity, where the format has one (02 R41). -/
def fmtInf : Fmt → Option Nat
  | .e5m2 => some 0x7C | .bf16 => some 0x7F80 | .fp16 => some 0x7C00 | .fp32 => some 0x7F800000
  | _ => none

/-- An integer as a value; integers have one zero, +0 (03 R72). -/
def intVal (x : Int) : FVal := .fin (x < 0) x.natAbs 0

/-- The value of a code (02 R39 R40 R41). -/
def decodeFmt (f : Fmt) (code : Nat) : FVal :=
  match f with
  | .ternary => match code % 4 with
    | 1 => .fin false 1 0
    | 3 => .fin true 1 0
    | _ => .fin false 0 0
  | .int4 => intVal (signed 4 code)
  | .int8 => intVal (signed 8 code)
  | .int32 => intVal (signed 32 code)
  | _ => match fmtShape f with
    | none => .fin false 0 0
    | some (mb, eb, bias) =>
      let neg := bit code (mb + eb)
      let mag := code % 2 ^ (mb + eb)
      if f = .e4m3 ∧ mag = 0x7F then .nan
      else if (fmtInf f).any (fun i => decide (mag > i)) then .nan
      else if fmtInf f = some mag then .inf neg
      else
        let e := mag / 2 ^ mb
        let m := mag % 2 ^ mb
        if e = 0 then .fin neg m (1 - (bias : Int) - mb)
        else .fin neg (m + 2 ^ mb) ((e : Int) - bias - mb)

/-- Compare m × 2^e with m' × 2^e'. -/
def magLt (m : Nat) (e : Int) (m' : Nat) (e' : Int) : Bool :=
  let lo := min e e'
  decide (m * 2 ^ (e - lo).toNat < m' * 2 ^ (e' - lo).toNat)

/-- Round a magnitude to an integer number of units 2^q. The exact magnitude is m × 2^e, and a
little more, below the next unit of m, where `more` says so (02 R51, 04 R103). -/
def roundUnits (mode : RMode) (neg : Bool) (m : Nat) (e : Int) (more : Bool) (q : Int) : Nat :=
  if q ≤ e then m * 2 ^ (e - q).toNat
  else
    let sh := (q - e).toNat
    let kept := m / 2 ^ sh
    let rem := m % 2 ^ sh
    let half := 2 ^ (sh - 1)
    let inexact := more || rem != 0
    let up := match mode with
      | .rne => decide (rem > half) || (decide (rem = half) && (more || kept % 2 = 1))
      | .rtz => false
      | .rdn => neg && inexact
      | .rup => !neg && inexact
    if up then kept + 1 else kept

/-- The code of a magnitude rounded into a float format, without regard to overflow: a number that
goes on beyond the largest finite code. -/
def roundCode (mb bias : Nat) (mode : RMode) (neg : Bool) (m : Nat) (e : Int) (more : Bool) : Nat :=
  if m = 0 ∧ !more then 0
  else
    let top : Int := (bitLen m : Int) - 1 + e
    let emin : Int := 1 - (bias : Int)
    let q := max top emin - mb
    let units := roundUnits mode neg m e more q
    -- q = exponent of the unit; a carry into the next binade is carried by the addition
    units + (q + mb - emin).toNat * 2 ^ mb

/-- Event bits of 02 R64. -/
def evNaN : Nat := 1
/-- Finite saturated. -/
def evSat : Nat := 2
/-- Infinity saturated. -/
def evInfSat : Nat := 4
/-- Overflow to infinity or NaN. -/
def evOvf : Nat := 8
/-- NaN scale. -/
def evScale : Nat := 16

/-- The value of the largest finite code of a float format: mantissa and exponent. -/
def maxParts (f : Fmt) : Nat × Int :=
  match decodeFmt f (fmtMaxCode f) with
  | .fin _ m e => (m, e)
  | _ => (0, 0)

/-- A code with its sign bit. -/
def withSign (f : Fmt) (neg : Bool) (mag : Nat) : Nat :=
  if neg then mag + 2 ^ (fmtWidth f - 1) else mag

/-- Does the magnitude exceed the largest finite value (02 R55)? -/
def beyond (f : Fmt) (m : Nat) (e : Int) (more : Bool) : Bool :=
  let (mm, me) := maxParts f
  magLt mm me m e || (more && !magLt m e mm me)

/-- Is the magnitude at least the largest finite value plus half a unit of it (02 R55)? -/
def atOverflow (f : Fmt) (m : Nat) (e : Int) : Bool :=
  let (mm, me) := maxParts f
  !magLt m e (2 * mm + 1) (me - 1)

/-- Rounding of a finite exact value into a float format with overflow (02 R51 R52 R55, 04 R103).
`ieee` is entry 3001h:01. Answers the code and the event bits. -/
def encodeFin (f : Fmt) (ieee : Bool) (mode : RMode) (neg : Bool) (m : Nat) (e : Int) (more : Bool) :
    Nat × Nat :=
  match fmtShape f with
  | none => (0, 0)
  | some (mb, _, bias) =>
    let maxc := withSign f neg (fmtMaxCode f)
    if beyond f m e more then
      let toInf := match mode with
        | .rne => atOverflow f m e
        | .rtz => false
        | .rup => !neg
        | .rdn => neg
      if ieee && toInf then
        match fmtInf f, fmtNaN f with
        | some i, _ => (withSign f neg i, evOvf)
        | none, some n => (n, evOvf)
        | none, none => (maxc, evSat)
      else (maxc, evSat)
    else (withSign f neg (roundCode mb bias mode neg m e more), 0)

/-- Rounding of a finite exact value into an integer or ternary format (02 R51 R52 R55). -/
def encodeInt (f : Fmt) (mode : RMode) (neg : Bool) (m : Nat) (e : Int) (more : Bool) : Nat × Nat :=
  let u := roundUnits mode neg m e more 0
  let w := fmtWidth f
  let hi := fmtMaxCode f
  let lo := if f = .ternary then 1 else hi + 1
  let lim := if neg then lo else hi
  let past := magLt lim 0 m e || (more && !magLt m e lim 0)
  let v := min u lim
  (unsigned w (if neg then -(v : Int) else v), if past then evSat else 0)

/-- Is the format an integer or ternary format? -/
def fmtIsInt : Fmt → Bool
  | .ternary | .int4 | .int8 | .int32 => true
  | _ => false

/-- Conversion of an exact value into a format (02 R51 to R55). Answers the code and the event bits
of 02 R64. -/
def convert (f : Fmt) (ieee : Bool) (mode : RMode) (v : FVal) : Nat × Nat :=
  match v with
  | .nan => match fmtNaN f with
    | some n => (n, 0)
    | none => (0, evNaN)
  | .inf neg =>
    if fmtIsInt f then
      let hi := fmtMaxCode f
      let lim : Int := if neg then (if f = .ternary then -1 else -((hi : Int) + 1)) else hi
      (unsigned (fmtWidth f) lim, evInfSat)
    else match fmtInf f with
      | some i => (withSign f neg i, 0)
      | none =>
        if f = .e4m3 ∧ ieee then (0x7F, 0)
        else (withSign f neg (fmtMaxCode f), evInfSat)
  | .fin neg m e =>
    if fmtIsInt f then encodeInt f mode neg m e false else encodeFin f ieee mode neg m e false

/-- Multiply a value exactly by 2^k. -/
def scaleBy (v : FVal) (k : Int) : FVal :=
  match v with
  | .fin n m e => .fin n m (e + k)
  | v => v

/-- The exponent of an E8M0 scale code, none for the NaN scale (02 R46). -/
def scaleExp (k : Nat) : Option Int := if k % 256 = 255 then none else some ((k % 256 : Nat) - 127)

/-- The value of an element under its block's scale code (02 R47). -/
def elemVal (f : Fmt) (code k : Nat) : FVal :=
  match scaleExp k with
  | none => .nan
  | some x => scaleBy (decodeFmt f code) x

/-- The value of an FP32 lane. -/
def f32 (w : Word) : FVal := decodeFmt .fp32 w.toNat

/-- Bound(F) of 02 R57 as mantissa and exponent. -/
def blockBound (f : Fmt) : Nat × Int :=
  if fmtIsInt f then (fmtMaxCode f, 0) else maxParts f

/-- The larger of two magnitudes. -/
def magMax (a b : Nat × Int) : Nat × Int := if magLt a.1 a.2 b.1 b.2 then b else a

/-- The smallest integer x with m × 2^e ≤ bound × 2^x, for m not 0. -/
def smallestExp (m : Nat) (e : Int) (bm : Nat) (be : Int) : Int :=
  -- m·2^e ≤ bm·2^(be+x); start from the bit lengths, which differ from the answer by at most one
  let x0 : Int := (bitLen m : Int) + e - ((bitLen bm : Int) + be)
  if !magLt bm (be + x0) m e then x0 else x0 + 1

/-- The block-computed scale code (02 R57). -/
def blockScale (f : Fmt) (xs : List FVal) : Nat :=
  let m := xs.foldl (fun acc v => match v with
    | .fin _ m e => magMax acc (m, e)
    | _ => acc) ((0 : Nat), (0 : Int))
  let b := blockBound f
  let x : Int := if m.1 = 0 then 0 else smallestExp m.1 m.2 b.1 b.2
  (max (-127) (min 127 x) + 127).toNat

/-- Conversion of an FP32 value into E8M0 (02 R58). No command performs it: 04 names none that converts into E8M0, since
R104 gives VQNT no such format; whether one should is left open, and the model gives it to none: DESIGN CHOICE
(log 36). -/
def toE8M0 (v : FVal) : Nat :=
  match v with
  | .nan => 0xFF
  | .inf _ => 0xFE
  | .fin _ m e =>
    if m = 0 then 0
    else (max 0 (min 254 ((bitLen m : Int) - 1 + e + 127))).toNat

/-- One element of a conversion from FP32 into a small format under scale code k (02 R56). -/
def quantElem (f : Fmt) (ieee : Bool) (k : Nat) (v : FVal) : Nat × Nat :=
  match scaleExp k with
  | none =>
    let r := convert f ieee .rne .nan
    (r.1, r.2 ||| evScale)
  | some x => convert f ieee .rne (scaleBy v (-x))

/-- A scaled decode into FP32 (02 R53 R55): code of the FP32 result and event bits. -/
def dequantElem (f : Fmt) (ieee : Bool) (k : Nat) (code : Nat) : Nat × Nat :=
  match scaleExp k with
  | none => (0x7FC00000, evScale)
  | some x => convert .fp32 ieee .rne (scaleBy (decodeFmt f code) x)

/-- Element i of a packed stream of width w (02 R49), from the number the bytes spell. -/
def packedElem (w stream i : Nat) : Nat := (stream >>> (w * i)) % 2 ^ w

/-- Pack elements of width w into the number of a bit stream (02 R49). -/
def packElems (w : Nat) : List Nat → Nat
  | [] => 0
  | x :: t => x % 2 ^ w + 2 ^ w * packElems w t

/-! ## FP32 arithmetic (04 R97, 03 R72) -/

/-- Signed dyadic: an integer times a power of two. -/
structure Dyad where
  m : Int
  e : Int
  deriving DecidableEq, Repr

/-- The dyadic of sign and magnitude. -/
def dyad (neg : Bool) (m : Nat) (e : Int) : Dyad := ⟨if neg then -(m : Int) else m, e⟩

/-- Exact sum. -/
def dyadAdd (a b : Dyad) : Dyad :=
  let lo := min a.e b.e
  ⟨a.m * (2 ^ (a.e - lo).toNat : Nat) + b.m * (2 ^ (b.e - lo).toNat : Nat), lo⟩

/-- Vector event bits [3] and [4] of 04 R115 from the conversion event bits of a rounding. -/
def arithEv (e : Nat) : Nat := (if bit e 1 then 8 else 0) + (if bit e 3 then 16 else 0)

/-- Round a finite exact result to FP32 under entry 3001h:01 (04 R97); zero results take sign z. -/
def roundF32 (ieee : Bool) (d : Dyad) (z : Bool) : Word × Nat :=
  if d.m = 0 then (BitVec.ofNat 32 (if z then 0x80000000 else 0), 0)
  else
    let r := encodeFin .fp32 ieee .rne (d.m < 0) d.m.natAbs d.e false
    (BitVec.ofNat 32 r.1, arithEv r.2)

/-- The canonical FP32 NaN (02 R42). -/
def f32NaN : Word := 0x7FC00000

/-- An FP32 infinity. -/
def f32Inf (neg : Bool) : Word := if neg then 0xFF800000 else 0x7F800000

/-- An FP32 zero. -/
def f32Zero (neg : Bool) : Word := if neg then 0x80000000 else 0

/-- FP32 addition of two values (04 R97). -/
def addVal (ieee : Bool) (a b : FVal) : Word × Nat :=
  match a, b with
  | .nan, _ => (f32NaN, 0)
  | _, .nan => (f32NaN, 0)
  | .inf n, .inf n' => (if n = n' then f32Inf n else f32NaN, 0)
  | .inf n, _ => (f32Inf n, 0)
  | _, .inf n => (f32Inf n, 0)
  | .fin n m e, .fin n' m' e' =>
    roundF32 ieee (dyadAdd (dyad n m e) (dyad n' m' e')) (m == 0 && m' == 0 && n && n')

/-- The negated value. -/
def negVal : FVal → FVal
  | .nan => .nan
  | .inf n => .inf (!n)
  | .fin n m e => .fin (!n) m e

/-- The exact product of two values (03 R72, 04 R97). -/
def mulVal (a b : FVal) : FVal :=
  match a, b with
  | .nan, _ => .nan
  | _, .nan => .nan
  | .inf n, .inf n' => .inf (n != n')
  | .inf n, .fin n' m _ => if m = 0 then .nan else .inf (n != n')
  | .fin n m _, .inf n' => if m = 0 then .nan else .inf (n != n')
  | .fin n m e, .fin n' m' e' => .fin (n != n') (m * m') (e + e')

/-- Round an exact value to FP32. -/
def valF32 (ieee : Bool) (v : FVal) : Word × Nat :=
  match v with
  | .nan => (f32NaN, 0)
  | .inf n => (f32Inf n, 0)
  | .fin n m e => roundF32 ieee (dyad n m e) n

/-- FP32 addition. -/
def fadd (ieee : Bool) (a b : Word) : Word × Nat := addVal ieee (f32 a) (f32 b)

/-- FP32 subtraction. -/
def fsub (ieee : Bool) (a b : Word) : Word × Nat := addVal ieee (f32 a) (negVal (f32 b))

/-- FP32 multiplication. -/
def fmul (ieee : Bool) (a b : Word) : Word × Nat := valF32 ieee (mulVal (f32 a) (f32 b))

/-- Fused multiply-add, one rounding; 0 × infinity + x is the canonical NaN (04 R98). -/
def ffma (ieee : Bool) (a b c : Word) : Word × Nat :=
  addVal ieee (mulVal (f32 a) (f32 b)) (f32 c)

/-- The order key of a finite or infinite FP32 code: −0 below +0 (04 R98). -/
def f32Key (w : Word) : Int :=
  let mag : Int := (w.toNat % 2 ^ 31 : Nat)
  if bit w.toNat 31 then -mag - 1 else mag

/-- Is the code a NaN? -/
def isNaN32 (w : Word) : Bool := decide (f32 w = .nan)

/-- VMIN of two lanes. -/
def fmin (a b : Word) : Word :=
  if isNaN32 a || isNaN32 b then f32NaN else if f32Key b < f32Key a then b else a

/-- VMAX of two lanes. -/
def fmax (a b : Word) : Word :=
  if isNaN32 a || isNaN32 b then f32NaN else if f32Key a < f32Key b then b else a

/-- A comparison of two integers. -/
def ccInt (c : Cc) (a b : Int) : Bool :=
  match c with
  | .eq => a == b
  | .ne => a != b
  | .lt => decide (a < b)
  | .le => decide (a ≤ b)
  | .gt => decide (b < a)
  | .ge => decide (b ≤ a)

/-- The numeric order key: −0 equals +0. -/
def f32Num (w : Word) : Int :=
  let mag : Int := (w.toNat % 2 ^ 31 : Nat)
  if bit w.toNat 31 then -mag else mag

/-- VCMP of one lane (04 R98). -/
def fcmp (c : Cc) (a b : Word) : Bool :=
  if isNaN32 a || isNaN32 b then decide (c = .ne) else ccInt c (f32Num a) (f32Num b)

/-- FP32 of an exact quotient a / b times 2^k, for b not 0: 64 bits of quotient and whether more
follows. -/
def quotF32 (ieee neg : Bool) (a b : Nat) (k : Int) : Word × Nat :=
  if a = 0 then (f32Zero neg, 0)
  else
    let sh := 64 + bitLen b - min (bitLen a) (64 + bitLen b)
    let q := a * 2 ^ sh / b
    let more := a * 2 ^ sh % b != 0
    let r := encodeFin .fp32 ieee .rne neg q (k - sh) more
    (BitVec.ofNat 32 r.1, arithEv r.2)

/-- VDIV of one lane (04 R100 R101). -/
def fdiv (ieee : Bool) (x y : Word) : Word × Nat :=
  match f32 x, f32 y with
  | .nan, _ => (f32NaN, 0)
  | _, .nan => (f32NaN, 0)
  | .inf _, .inf _ => (f32NaN, 0)
  | .inf n, .fin n' _ _ => (f32Inf (n != n'), 0)
  | .fin n _ _, .inf n' => (f32Zero (n != n'), 0)
  | .fin n m e, .fin n' m' e' =>
    if m' = 0 then (if m = 0 then f32NaN else f32Inf (n != n'), 0)
    else quotF32 ieee (n != n') m m' (e - e')

/-- VRCP of one lane (04 R100 R101). -/
def frcp (ieee : Bool) (x : Word) : Word × Nat :=
  match f32 x with
  | .nan => (f32NaN, 0)
  | .inf n => (f32Zero n, 0)
  | .fin n m e => if m = 0 then (f32Inf n, 0) else quotF32 ieee n 1 m (-e)

/-- One step of Newton's iteration for the integer square root. -/
def sqrtStep (n x : Nat) : Nat := (x + n / x) / 2

/-- Newton's iteration with fuel, from above; stops when it no longer falls. -/
def sqrtIter (n : Nat) : Nat → Nat → Nat
  | 0, x => x
  | k + 1, x => let y := sqrtStep n x; if y < x then sqrtIter n k y else x

/-- Integer square root (floor). The start is above the root and the fuel exceeds what halving the
error bit by bit could need. -/
def isqrt (n : Nat) : Nat :=
  if n = 0 then 0 else sqrtIter n (bitLen n + 8) (2 ^ ((bitLen n + 1) / 2))

/-- VRSQ of one lane (04 R100 R101). -/
def frsq (ieee : Bool) (x : Word) : Word × Nat :=
  match f32 x with
  | .nan => (f32NaN, 0)
  | .inf true => (f32NaN, 0)
  | .inf false => (0, 0)
  | .fin n m e =>
    if m = 0 then (f32Inf n, 0)
    else if n then (f32NaN, 0)
    else
      -- 1/sqrt(m·2^e): make the exponent even, then the root of 2^(2s)/m'
      let odd := e % 2 != 0
      let m' := if odd then 2 * m else m
      let e' := if odd then e - 1 else e
      let num := 2 ^ (2 * 96)
      let t := num / m'
      let r := isqrt t
      let more := !(r * r == t && num % m' == 0)
      let c := encodeFin .fp32 ieee .rne false r (-96 - e' / 2) more
      (BitVec.ofNat 32 c.1, arithEv c.2)

/-! Base-2 exponential and logarithm (04 R100 R101), to 2^-200 below the leading bit: far below the
nearest any binary32 argument brings the exact value to a rounding boundary (log 15). -/

/-- Fraction bits of the fixed-point work. -/
def fxBits : Nat := 200

/-- Product over the set bits of f (a fraction of n bits, high bit first) of the successive square
roots of 2, in fixed point. -/
def exp2Bits : Nat → Nat → Nat → Nat → Nat
  | 0, _, _, acc => acc
  | n + 1, f, root, acc =>
    let root' := isqrt (root * 2 ^ fxBits)
    let acc' := if bit f n then acc * root' / 2 ^ fxBits else acc
    exp2Bits n f root' acc'

/-- 2^x of a finite x for |x| below 256, where the fraction has at most 64 bits: mantissa and
exponent, floor. -/
def exp2Core (neg : Bool) (m : Nat) (e : Int) : Nat × Int :=
  -- x in units of 2^-64
  let units : Int := if e + 64 ≥ 0 then (m : Int) * (2 ^ (e + 64).toNat : Nat)
    else (m / 2 ^ (-(e + 64)).toNat : Nat)
  let u := if neg then -units else units
  let ip := u / (2 ^ 64 : Nat)
  let fp := (u % (2 ^ 64 : Nat)).toNat
  (exp2Bits 64 fp (2 * 2 ^ fxBits) (2 ^ fxBits), ip - fxBits)

/-- VEXP2 of one lane. -/
def fexp2 (ieee : Bool) (x : Word) : Word × Nat :=
  match f32 x with
  | .nan => (f32NaN, 0)
  | .inf true => (0, 0)
  | .inf false => (f32Inf false, 0)
  | .fin n m e =>
    if m = 0 then (0x3F800000, 0)
    else if !magLt m e 128 0 then
      if n then
        if !magLt m e 150 0 then (0, 0)
        else
          let r := exp2Core n m e
          let c := encodeFin .fp32 ieee .rne false r.1 r.2 (m % 2 ^ (-e).toNat != 0)
          (BitVec.ofNat 32 c.1, arithEv c.2)
      else
        -- x at least 128: overflow
        let c := encodeFin .fp32 ieee .rne false 1 128 false
        (BitVec.ofNat 32 c.1, arithEv c.2)
    else if magLt m e 1 (-27) then (0x3F800000, 0)   -- rounds to 1 from either side
    else
      let r := exp2Core n m e
      let whole := decide (e ≥ 0) || m % 2 ^ (-e).toNat == 0
      let c := encodeFin .fp32 ieee .rne false r.1 r.2 (!whole)
      (BitVec.ofNat 32 c.1, arithEv c.2)

/-- Bits of log2 of y in [1, 2) (fixed point), by repeated squaring. -/
def log2Bits : Nat → Nat → Nat → Nat
  | 0, _, acc => acc
  | n + 1, y, acc =>
    let sq := y * y / 2 ^ (2 * fxBits)
    if sq ≥ 2 * 2 ^ (2 * fxBits) then log2Bits n (sq / 2) (2 * acc + 1)
    else log2Bits n sq (2 * acc)

/-- VLOG2 of one lane. -/
def flog2 (ieee : Bool) (x : Word) : Word × Nat :=
  match f32 x with
  | .nan => (f32NaN, 0)
  | .inf true => (f32NaN, 0)
  | .inf false => (f32Inf false, 0)
  | .fin n m e =>
    if m = 0 then (f32Inf true, 0)
    else if n then (f32NaN, 0)
    else
      let top : Int := (bitLen m : Int) - 1
      let y := m * 2 ^ (2 * fxBits) / 2 ^ (bitLen m - 1)
      let k := 120
      let frac := log2Bits k y 0
      let whole := y == 2 ^ (2 * fxBits)
      let v : Int := (e + top) * (2 ^ k : Nat) + frac
      -- v is a floor: for a negative result the magnitude is one unit less and a little more
      let neg := decide (v < 0)
      let mag := if neg && !whole then v.natAbs - 1 else v.natAbs
      let c := encodeFin .fp32 ieee .rne neg mag (-(k : Int)) (!whole)
      if v = 0 ∧ whole then (0, 0) else (BitVec.ofNat 32 c.1, arithEv c.2)

/-- VRND of one lane: FP32 rounded to an integral FP32 value (04 R103). -/
def frnd (mode : RMode) (x : Word) : Word :=
  match f32 x with
  | .nan => f32NaN
  | .inf n => f32Inf n
  | .fin n m e =>
    if e ≥ 0 then x
    else
      let u := roundUnits mode n m e false 0
      BitVec.ofNat 32 (withSign .fp32 n (roundCode 23 127 .rne n u 0 false))

end Sys2Proof.Machine
end

