-- ==== Sys2Proof/Config.lean ====
section
/-! DEFINITION. What the spec leaves to the part or to a standard it only names: free values and
uninterpreted functions. None has a body, so no proof can see a value. -/

namespace Sys2Proof.Config

/-- A byte the spec leaves open, drawn with the model's own counter `free`.
DESIGN CHOICE (log 12). -/
opaque freeByte : Nat → BitVec 8

/-- A number the spec leaves open, drawn with the model's own counter `free`. Log 12. -/
opaque freeNat : Nat → Nat

/-! The cryptographic primitives the spec names by their standards (06 R156, 09 R273 R274, 18 R529
R531 R537) and does not define. Uninterpreted: log 5. -/

/-- Ed25519 verification: public key, message, signature. -/
opaque ed25519Verify : List Byte → List Byte → List Byte → Bool

/-- ML-DSA-65 verification: public key, message, context, signature. -/
opaque mlDsaVerify : List Byte → List Byte → List Byte → List Byte → Bool

/-- Ed25519 signature by the identity key made from a seed: seed, message. -/
opaque ed25519Sign : List Byte → List Byte → List Byte

/-- ML-DSA-65 signature by the identity key made from a seed: seed, message, context. -/
opaque mlDsaSign : List Byte → List Byte → List Byte → List Byte

/-- The identity public keys made from a seed, Ed25519 then ML-DSA-65. -/
opaque identityKeys : List Byte → List Byte

/-- The key-agreement X25519 public key made from a seed (A000h:01). -/
opaque agreeX25519 : List Byte → List Byte

/-- The key-agreement ML-KEM-768 encapsulation key made from a seed (A000h:02). -/
opaque agreeMlKem : List Byte → List Byte

/-- X25519 of the private key made from a seed with a peer key. -/
opaque x25519Shared : List Byte → List Byte → List Byte

/-- ML-KEM-768 decapsulation of a ciphertext by the key made from a seed. -/
opaque mlKemDecaps : List Byte → List Byte → List Byte

/-- AES-256-GCM opening: key, nonce, additional data, ciphertext with its tag; none where the tag
fails. -/
opaque aesGcmOpen : List Byte → List Byte → List Byte → List Byte → Option (List Byte)

/-- AES-256-GCM sealing: key, nonce, additional data, plaintext. -/
opaque aesGcmSeal : List Byte → List Byte → List Byte → List Byte → List Byte

/-- The two firmware signing keys, 0 and 1, Ed25519 then ML-DSA-65, whose identifiers the boot ROM holds
(18 R524). -/
opaque firmwareKey : Nat → List Byte

/-- Wenneyr's PCI-SIG vendor ID, which the spec names and does not give (17 R501 R515). -/
opaque vendorId : Nat

/-- The random bit generator (18 R528 R536): the n-th 32-byte draw. -/
opaque randomBytes : Nat → List Byte

/-- A word of the CXL link structure of the component registers, by its offset: CXL 3.1 governs it and the spec states no value
(17 R502, log 29). -/
opaque linkWord : Nat → BitVec 32

/-- The status word of the CXL IDE structure, by whether the receiving and the sending side are secure; its codes stand in
CXL 3.1 alone (17 R514, log 29). -/
opaque ideStatusWord : Bool → Bool → BitVec 32

/-! Stream code is private to each stepping (05 R149): which program its bytes spell and how many bytes of a plan cache it
takes is open (log 10). Everything the spec says of programs is defined over what these answer. -/

/-- The program of a variant and a logical die in the stream code of a plan, access or execute (true). -/
opaque streamCode : List Byte → Nat → Nat → Bool → List StreamTok

/-- The bytes that the code of all variants takes in the plan cache of a die. -/
opaque streamSize : List Byte → Nat → Nat

end Sys2Proof.Config
end

