-- ==== Sys2Proof/Machine/Entries.lean ====
section
/-! DEFINITION. The entry map of the dictionary (15 R446 to R450 R469 to R481): every entry with its
type, access, application class, default and listed flag. -/

namespace Sys2Proof.Machine

/-- Types of R447; BITS with its container's bytes and the bits it defines, DOMAIN with its size or,
where variable, its maximum. -/
inductive ETy where
  | u8 | u16 | u32 | u64 | i32 | f32
  | bits (bytes mask : Nat)
  | str
  | dom (n : Nat)
  | domv (max : Nat)
  deriving DecidableEq, Repr

/-- Access rights of R448. -/
inductive EAcc where
  | ro | rw | wo | w1c
  deriving DecidableEq, Repr

/-- Application classes of R450 to R452. -/
inductive EApp where
  | immediate | staged | halted
  deriving DecidableEq, Repr

/-- A row of the entry map: indices i0 to i1, subindices s0 to s1, and the attributes of R446.
`made` marks an entry set at manufacture (R463). -/
structure Ent where
  i0 : Nat
  i1 : Nat
  s0 : Nat
  s1 : Nat
  ty : ETy
  acc : EAcc
  app : EApp
  dflt : Nat
  listed : Bool
  made : Bool
  deriving DecidableEq, Repr

/-- Rows of the entry map, part 1 (R470 to R481). -/
def entRows1 : List Ent :=
  [⟨0x1001, 0x1001, 0x1, 0x1, .str, .ro, .immediate, 0x0, false, true⟩,
   ⟨0x1001, 0x1001, 0x2, 0x2, .u16, .ro, .immediate, 0x0, false, true⟩,
   ⟨0x1001, 0x1001, 0x3, 0x3, .u8, .ro, .immediate, 0x0, false, true⟩,
   ⟨0x1002, 0x1002, 0x0, 0x3, (.bits 8 0xFFFFFFFFFFFF), .ro, .immediate, 0x0, false, true⟩,
   ⟨0x1003, 0x1003, 0x1, 0x1, .u64, .ro, .immediate, 0x0, false, true⟩,
   ⟨0x1004, 0x1004, 0x1, 0x1, .u64, .ro, .immediate, 0x0, false, false⟩,
   ⟨0x1010, 0x1010, 0x1, 0x1, .u8, .rw, .immediate, 0x0, false, false⟩,
   ⟨0x1010, 0x1010, 0x2, 0x2, .u8, .ro, .immediate, 0x0, false, false⟩,
   ⟨0x1020, 0x1020, 0x1, 0x1, .u32, .rw, .halted, 0xFFFFFFFF, false, false⟩,
   ⟨0x2000, 0x2000, 0x1, 0x1, .u64, .wo, .immediate, 0x0, false, false⟩,
   ⟨0x2000, 0x2000, 0x2, 0x2, .u64, .ro, .immediate, 0xFFFFFFFFFFFFFFFF, false, false⟩,
   ⟨0x2000, 0x2000, 0x3, 0x3, .u16, .ro, .immediate, 0x0, false, false⟩,
   ⟨0x2000, 0x2000, 0x4, 0x4, .u8, .wo, .immediate, 0x0, false, false⟩,
   ⟨0x2000, 0x2000, 0x5, 0x5, .u64, .ro, .immediate, 0x0, false, false⟩,
   ⟨0x2001, 0x2001, 0x1, 0x1, .u8, .ro, .immediate, 0x0, false, false⟩,
   ⟨0x2001, 0x2001, 0x2, 0x2, .u16, .ro, .immediate, 0x0, false, false⟩,
   ⟨0x2002, 0x2002, 0x1, 0x1, .u64, .ro, .immediate, 0x0, false, false⟩,
   ⟨0x2002, 0x2002, 0x2, 0x2, .u64, .ro, .immediate, 0x0, false, false⟩,
   ⟨0x2002, 0x2002, 0x3, 0x3, .u32, .ro, .immediate, 0x0, false, false⟩,
   ⟨0x2002, 0x2002, 0x4, 0x4, .u32, .ro, .immediate, 0x0, false, false⟩,
   ⟨0x2002, 0x2002, 0x5, 0x5, .u64, .ro, .immediate, 0x0, false, false⟩,
   ⟨0x2010, 0x2010, 0x1, 0x1, .u8, .ro, .immediate, 0x0, false, false⟩,
   ⟨0x2010, 0x2010, 0x2, 0x2, .u64, .ro, .immediate, 0x0, false, false⟩,
   ⟨0x2010, 0x2010, 0x3, 0x3, .u64, .rw, .immediate, 0xFFFFFFFFFFFFFFFF, false, false⟩]

/-- Rows of the entry map, part 2 (R470 to R481). -/
def entRows2 : List Ent :=
  [⟨0x2010, 0x2010, 0x4, 0x4, .u32, .ro, .immediate, 0x0, false, false⟩,
   ⟨0x2012, 0x2012, 0x1, 0x1, .u8, .ro, .immediate, 0x0, false, false⟩,
   ⟨0x2012, 0x2012, 0x2, 0x2, .u32, .ro, .immediate, 0x0, false, false⟩,
   ⟨0x2012, 0x2012, 0x3, 0x3, .u32, .ro, .immediate, 0x0, false, false⟩,
   ⟨0x2020, 0x2020, 0x1, 0x1, .u8, .wo, .halted, 0x0, false, false⟩,
   ⟨0x2020, 0x2020, 0x2, 0x2, .u64, .rw, .halted, 0x0, false, false⟩,
   ⟨0x2020, 0x2020, 0x3, 0x3, .u64, .rw, .halted, 0x0, false, false⟩,
   ⟨0x2020, 0x2020, 0x4, 0x4, .u16, .ro, .immediate, 0x0, false, false⟩,
   ⟨0x2020, 0x2020, 0x5, 0x5, .u32, .ro, .immediate, 0x0, false, false⟩,
   ⟨0x2020, 0x2020, 0x6, 0x6, (.dom 48), .ro, .immediate, 0x0, false, false⟩,
   ⟨0x2020, 0x2020, 0x7, 0x7, .u8, .ro, .immediate, 0x0, false, false⟩,
   ⟨0x2030, 0x2030, 0x1, 0x4, .u64, .ro, .immediate, 0x0, false, false⟩,
   ⟨0x2040, 0x2040, 0x1, 0x1, .u8, .ro, .immediate, 0x0, false, false⟩,
   ⟨0x2040, 0x2040, 0x2, 0x2, .u8, .ro, .immediate, 0x0, false, false⟩,
   ⟨0x2040, 0x2040, 0x3, 0x3, .u8, .ro, .immediate, 0x0, false, false⟩,
   ⟨0x3001, 0x3001, 0x1, 0x1, .u8, .rw, .halted, 0x0, true, false⟩,
   ⟨0x3002, 0x3002, 0x1, 0x1, (.bits 4 0x1F), .w1c, .immediate, 0x0, false, false⟩,
   ⟨0x3003, 0x3003, 0x1, 0x1, (.bits 4 0x3F), .w1c, .immediate, 0x0, false, false⟩,
   ⟨0x3010, 0x3010, 0x1, 0x1, .u8, .rw, .halted, 0x0, true, false⟩,
   ⟨0x3030, 0x3030, 0x1, 0x5, .u64, .ro, .immediate, 0x0, false, false⟩,
   ⟨0x3030, 0x3030, 0x6, 0x6, .u32, .ro, .immediate, 0x0, false, false⟩,
   ⟨0x3040, 0x3040, 0x1, 0x3, .u64, .ro, .immediate, 0x0, false, false⟩,
   ⟨0x3040, 0x3040, 0x4, 0x4, .u32, .ro, .immediate, 0x0, false, false⟩,
   ⟨0x3050, 0x3050, 0x1, 0x6, .u64, .ro, .immediate, 0x0, false, false⟩]

/-- Rows of the entry map, part 3 (R470 to R481). -/
def entRows3 : List Ent :=
  [⟨0x4000, 0x4000, 0x1, 0x1, .u64, .rw, .halted, 0x0, false, false⟩,
   ⟨0x4000, 0x4000, 0x2, 0x2, .u64, .rw, .halted, 0x0, false, false⟩,
   ⟨0x4001, 0x4001, 0x1, 0x1, (.domv 384), .ro, .immediate, 0x0, false, false⟩,
   ⟨0x4001, 0x4001, 0x2, 0x2, (.domv 2097152), .ro, .immediate, 0x0, false, false⟩,
   ⟨0x4001, 0x4001, 0x3, 0x3, (.domv 8388608), .ro, .immediate, 0x0, false, false⟩,
   ⟨0x4001, 0x4001, 0x4, 0x4, (.dom 32), .ro, .immediate, 0x0, false, false⟩,
   ⟨0x4001, 0x4001, 0x5, 0x5, .u32, .ro, .immediate, 0xFFFFFFFF, false, false⟩,
   ⟨0x4002, 0x4002, 0x1, 0x3, .u64, .rw, .halted, 0x0, false, false⟩,
   ⟨0x4010, 0x4010, 0x1, 0x8, .u64, .ro, .immediate, 0x0, false, false⟩,
   ⟨0x4011, 0x4011, 0x1, 0x8, .u8, .ro, .immediate, 0x0, false, false⟩,
   ⟨0x4012, 0x4012, 0x1, 0x8, .u8, .ro, .immediate, 0x0, false, false⟩,
   ⟨0x4020, 0x4020, 0x1, 0x1, .u8, .rw, .staged, 0x1, true, false⟩,
   ⟨0x4020, 0x4020, 0x2, 0x2, .u16, .rw, .staged, 0x20, true, false⟩,
   ⟨0x4021, 0x4021, 0x1, 0x5, .u64, .ro, .immediate, 0x0, false, false⟩,
   ⟨0x4030, 0x4030, 0x1, 0x1, .u16, .rw, .immediate, 0x18, false, false⟩,
   ⟨0x4031, 0x4031, 0x1, 0x8, .u64, .ro, .immediate, 0x0, false, false⟩,
   ⟨0x4032, 0x4032, 0x1, 0x2, .u64, .ro, .immediate, 0x0, false, false⟩,
   ⟨0x4033, 0x4033, 0x1, 0x1, .u64, .ro, .immediate, 0x0, false, false⟩,
   ⟨0x5000, 0x5000, 0x1, 0x1, .u8, .rw, .halted, 0x3, false, false⟩,
   ⟨0x5000, 0x5000, 0x2, 0x2, .u8, .rw, .immediate, 0x1, false, false⟩,
   ⟨0x5000, 0x5000, 0x3, 0x3, .u32, .rw, .immediate, 0x200, false, false⟩,
   ⟨0x5010, 0x5010, 0x1, 0x1, .u8, .rw, .halted, 0x0, false, false⟩,
   ⟨0x5010, 0x5010, 0x2, 0x2, .u8, .rw, .halted, 0xFF, false, false⟩,
   ⟨0x5100, 0x511F, 0x1, 0x1, .u8, .wo, .immediate, 0x0, false, false⟩]

/-- Rows of the entry map, part 4 (R470 to R481). -/
def entRows4 : List Ent :=
  [⟨0x5100, 0x511F, 0x2, 0x2, .u8, .ro, .immediate, 0x0, false, false⟩,
   ⟨0x5100, 0x511F, 0x3, 0x3, .u8, .ro, .immediate, 0x0, false, false⟩,
   ⟨0x5100, 0x511F, 0x4, 0x4, .u8, .ro, .immediate, 0x0, false, false⟩,
   ⟨0x5100, 0x511F, 0x5, 0x5, .u8, .ro, .immediate, 0x0, false, false⟩,
   ⟨0x5100, 0x511F, 0x6, 0x6, .u16, .ro, .immediate, 0x7000, false, false⟩,
   ⟨0x5100, 0x511F, 0x7, 0x8, .u32, .ro, .immediate, 0x0, false, false⟩,
   ⟨0x5100, 0x511F, 0x9, 0x9, .u32, .ro, .immediate, 0xFFFFFFFF, false, false⟩,
   ⟨0x5100, 0x511F, 0xA, 0xA, .u8, .ro, .immediate, 0xFF, false, false⟩,
   ⟨0x5100, 0x511F, 0xB, 0xB, .u64, .ro, .immediate, 0x0, false, false⟩,
   ⟨0x5100, 0x511F, 0xC, 0xC, (.dom 16), .ro, .immediate, 0x0, false, false⟩,
   ⟨0x5100, 0x511F, 0xD, 0xD, .u8, .rw, .immediate, 0x0, false, false⟩,
   ⟨0x5200, 0x521F, 0x1, 0x12, .u64, .ro, .immediate, 0x0, false, false⟩,
   ⟨0x5200, 0x521F, 0x13, 0x17, .u64, .ro, .immediate, 0x0, false, false⟩,
   ⟨0x5300, 0x5300, 0x1, 0x2, (.dom 528), .rw, .immediate, 0x0, false, false⟩,
   ⟨0x5301, 0x5301, 0x1, 0x1, .u8, .ro, .immediate, 0x0, false, false⟩,
   ⟨0x5301, 0x5301, 0x2, 0x2, .u8, .rw, .staged, 0x0, false, false⟩,
   ⟨0x5310, 0x5310, 0x1, 0x3, .u16, .rw, .immediate, 0xC0, false, false⟩,
   ⟨0x5310, 0x5310, 0x4, 0x4, .u16, .rw, .immediate, 0x80, false, false⟩,
   ⟨0x5310, 0x5310, 0x5, 0x5, .u32, .rw, .immediate, 0x800, false, false⟩,
   ⟨0x5310, 0x5310, 0x6, 0x6, .u16, .rw, .immediate, 0x20, false, false⟩,
   ⟨0x5311, 0x5311, 0x1, 0x1, (.bits 1 0x67), .ro, .immediate, 0x0, false, false⟩,
   ⟨0x5320, 0x5320, 0x1, 0x1, .u16, .rw, .halted, 0x0, false, false⟩,
   ⟨0x5320, 0x5320, 0x2, 0x2, .u16, .ro, .immediate, 0x0, false, false⟩,
   ⟨0x5400, 0x5402, 0x1, 0x5, .u64, .ro, .immediate, 0x0, false, false⟩]

/-- Rows of the entry map, part 5 (R470 to R481). -/
def entRows5 : List Ent :=
  [⟨0x5410, 0x5410, 0x1, 0x4, .u64, .ro, .immediate, 0x0, false, false⟩,
   ⟨0x5411, 0x5411, 0x1, 0x2, .u32, .ro, .immediate, 0x0, false, false⟩,
   ⟨0x6000, 0x6000, 0x1, 0x1, .u8, .rw, .halted, 0x0, true, false⟩,
   ⟨0x6000, 0x6000, 0x2, 0x2, .u32, .rw, .halted, 0x0, true, false⟩,
   ⟨0x6000, 0x6000, 0x3, 0x3, .u8, .rw, .halted, 0x0, true, false⟩,
   ⟨0x6000, 0x6000, 0x4, 0x4, .u32, .rw, .halted, 0x0, true, false⟩,
   ⟨0x6000, 0x6000, 0x5, 0x6, .u32, .rw, .halted, 0x0, true, false⟩,
   ⟨0x6000, 0x6000, 0x7, 0x7, .u8, .rw, .halted, 0x0, true, false⟩,
   ⟨0x6000, 0x6000, 0x8, 0xA, .u32, .rw, .halted, 0x0, true, false⟩,
   ⟨0x6000, 0x6000, 0xB, 0xB, .u16, .rw, .halted, 0x0, true, false⟩,
   ⟨0x6000, 0x6000, 0xC, 0xC, .u16, .rw, .halted, 0xFFFF, false, false⟩,
   ⟨0x6001, 0x6001, 0x1, 0x6, .u32, .rw, .halted, 0xFFFFFFFF, true, false⟩,
   ⟨0x6001, 0x6001, 0x7, 0x7, .u32, .rw, .halted, 0x0, true, false⟩,
   ⟨0x6002, 0x6002, 0x1, 0x8, .u32, .rw, .halted, 0xFFFFFFFF, true, false⟩,
   ⟨0x6003, 0x6003, 0x1, 0x4, .u32, .rw, .halted, 0xFFFFFFFF, true, false⟩,
   ⟨0x6020, 0x6020, 0x1, 0x1, .u16, .rw, .immediate, 0x0, false, false⟩,
   ⟨0x6020, 0x6020, 0x2, 0x2, (.dom 256), .ro, .immediate, 0x0, false, false⟩,
   ⟨0x6040, 0x6040, 0x1, 0x1, .u64, .rw, .halted, 0x0, false, false⟩,
   ⟨0x6040, 0x6040, 0x2, 0x2, .u32, .rw, .halted, 0x0, false, false⟩,
   ⟨0x6040, 0x6040, 0x3, 0x4, .u32, .rw, .immediate, 0x0, false, false⟩,
   ⟨0x6040, 0x6040, 0x5, 0x5, .u32, .ro, .immediate, 0x0, false, false⟩,
   ⟨0x6040, 0x6040, 0x6, 0x6, .u64, .rw, .halted, 0x0, false, false⟩,
   ⟨0x6040, 0x6040, 0x7, 0x7, .u8, .rw, .halted, 0x1, false, false⟩,
   ⟨0x6040, 0x6040, 0x8, 0x8, .u16, .ro, .immediate, 0x0, false, false⟩]

/-- Rows of the entry map, part 6 (R470 to R481). -/
def entRows6 : List Ent :=
  [⟨0x6050, 0x6050, 0x1, 0x11, .u64, .ro, .immediate, 0x0, false, false⟩,
   ⟨0x7001, 0x7001, 0x1, 0x3, .u8, .rw, .staged, 0x0, true, false⟩,
   ⟨0x7001, 0x7001, 0x4, 0x4, .u8, .rw, .staged, 0x2, true, false⟩,
   ⟨0x7010, 0x7010, 0x1, 0x1, .u8, .wo, .immediate, 0x0, false, false⟩,
   ⟨0x7010, 0x7010, 0x2, 0x2, .u8, .rw, .immediate, 0x0, false, false⟩,
   ⟨0x7010, 0x7010, 0x3, 0x3, .u32, .rw, .immediate, 0x0, false, false⟩,
   ⟨0x7010, 0x7010, 0x4, 0x4, .u8, .rw, .immediate, 0x0, false, false⟩,
   ⟨0x7010, 0x7010, 0x5, 0x7, .u64, .rw, .immediate, 0x0, false, false⟩,
   ⟨0x7010, 0x7010, 0x8, 0x8, .u16, .rw, .immediate, 0x0, false, false⟩,
   ⟨0x7010, 0x7010, 0x9, 0x9, .u64, .rw, .immediate, 0x0, false, false⟩,
   ⟨0x7010, 0x7010, 0xA, 0xA, .u16, .ro, .immediate, 0x0, false, false⟩,
   ⟨0x7010, 0x7010, 0xB, 0xB, .u32, .ro, .immediate, 0x0, false, false⟩,
   ⟨0x7010, 0x7010, 0xC, 0xC, .u8, .ro, .immediate, 0xFF, false, false⟩,
   ⟨0x7010, 0x7010, 0xD, 0xD, .u64, .ro, .immediate, 0x0, false, false⟩,
   ⟨0x7010, 0x7010, 0xE, 0xE, .u8, .rw, .immediate, 0xFF, false, false⟩,
   ⟨0x7020, 0x7020, 0x1, 0x42, .u64, .rw, .immediate, 0xFFFFFFFFFFFFFFFF, false, false⟩,
   ⟨0x7030, 0x7030, 0x1, 0x1, .u8, .rw, .immediate, 0x0, false, false⟩,
   ⟨0x7030, 0x7030, 0x2, 0x2, (.dom 128), .ro, .immediate, 0x0, false, false⟩,
   ⟨0x7040, 0x7040, 0x1, 0x7, .u64, .ro, .immediate, 0x0, false, false⟩,
   ⟨0x8000, 0x8000, 0x1, 0x1, .u8, .ro, .immediate, 0x0, false, false⟩,
   ⟨0x8000, 0x8000, 0x2, 0x2, .u8, .rw, .halted, 0x0, false, false⟩,
   ⟨0x8000, 0x8000, 0x3, 0x3, .u64, .rw, .halted, 0xFFFFFFFFFFFFFFFF, false, false⟩,
   ⟨0x8000, 0x8000, 0x4, 0x4, .u8, .ro, .immediate, 0x0, false, false⟩,
   ⟨0x8000, 0x8000, 0x5, 0x5, .u32, .ro, .immediate, 0x0, false, false⟩]

/-- Rows of the entry map, part 7 (R470 to R481). -/
def entRows7 : List Ent :=
  [⟨0x8010, 0x8010, 0x1, 0x1, .u32, .rw, .halted, 0xFFFFFFFF, false, false⟩,
   ⟨0x8010, 0x8010, 0x2, 0x2, .u64, .ro, .immediate, 0x0, false, false⟩,
   ⟨0x8010, 0x8010, 0x3, 0x3, .u8, .ro, .immediate, 0x0, false, false⟩,
   ⟨0x8010, 0x8010, 0x4, 0x4, .i32, .ro, .immediate, 0x0, false, false⟩,
   ⟨0x8010, 0x8010, 0x5, 0x5, .u32, .ro, .immediate, 0x0, false, false⟩,
   ⟨0x8030, 0x8030, 0x1, 0x1, .u64, .rw, .immediate, 0xFFFFFFFFFFFFFFFF, false, false⟩,
   ⟨0x8030, 0x8030, 0x2, 0x2, .u32, .rw, .halted, 0x1000, false, false⟩,
   ⟨0x8030, 0x8030, 0x3, 0x3, .u32, .rw, .halted, 0x4000, false, false⟩,
   ⟨0x8030, 0x8030, 0x4, 0x4, .u16, .ro, .immediate, 0x0, false, false⟩,
   ⟨0x8030, 0x8030, 0x5, 0x6, .u8, .rw, .halted, 0xFF, false, false⟩,
   ⟨0x8030, 0x8030, 0x7, 0x7, (.bits 4 0xFFFFFFFF), .rw, .halted, 0x0, false, false⟩,
   ⟨0x8040, 0x8040, 0x1, 0x1, .u8, .rw, .halted, 0x0, true, false⟩,
   ⟨0x9000, 0x9000, 0x1, 0x1, (.dom 64), .ro, .immediate, 0x0, false, false⟩,
   ⟨0x9000, 0x9000, 0x2, 0x2, .u8, .ro, .immediate, 0x0, false, false⟩,
   ⟨0x9000, 0x9000, 0x3, 0x3, .u8, .wo, .immediate, 0x0, false, false⟩,
   ⟨0x9000, 0x9000, 0x4, 0x4, (.bits 1 0xFF), .rw, .immediate, 0xF8, false, false⟩,
   ⟨0x9001, 0x9001, 0x1, 0x1, .u8, .ro, .immediate, 0x0, false, false⟩,
   ⟨0x9001, 0x9001, 0x2, 0x2, (.dom 64), .ro, .immediate, 0x0, false, false⟩,
   ⟨0x9001, 0x9001, 0x3, 0x3, .u8, .wo, .immediate, 0x0, false, false⟩,
   ⟨0x9001, 0x9001, 0x4, 0x4, .u64, .ro, .immediate, 0x0, false, false⟩,
   ⟨0x9001, 0x9001, 0x5, 0x5, .u64, .ro, .immediate, 0x0, false, false⟩,
   ⟨0x9002, 0x9002, 0x1, 0x8, .u64, .ro, .immediate, 0x0, false, false⟩,
   ⟨0x9010, 0x9010, 0x1, 0x1, (.bits 1 0xFF), .rw, .immediate, 0xFD, false, false⟩,
   ⟨0x9010, 0x9010, 0x2, 0x2, .u8, .rw, .halted, 0x0, false, false⟩]

/-- Rows of the entry map, part 8 (R470 to R481). -/
def entRows8 : List Ent :=
  [⟨0x9010, 0x9010, 0x3, 0x3, (.bits 1 0xFF), .rw, .immediate, 0xF0, false, false⟩,
   ⟨0x9010, 0x9010, 0x4, 0x4, (.bits 1 0xFF), .rw, .immediate, 0xF0, false, false⟩,
   ⟨0x9010, 0x9010, 0x5, 0x5, .u16, .rw, .halted, 0x80, false, false⟩,
   ⟨0x9010, 0x9010, 0x6, 0x6, .u64, .ro, .immediate, 0x0, false, false⟩,
   ⟨0x9020, 0x9020, 0x1, 0x1, .f32, .rw, .immediate, 0x42C80000, false, false⟩,
   ⟨0x9020, 0x9020, 0x2, 0x2, .f32, .ro, .immediate, 0x0, false, false⟩,
   ⟨0xA000, 0xA000, 0x1, 0x1, (.dom 32), .ro, .immediate, 0x0, false, true⟩,
   ⟨0xA000, 0xA000, 0x2, 0x2, (.dom 1184), .ro, .immediate, 0x0, false, true⟩,
   ⟨0xA000, 0xA000, 0x3, 0x3, (.dom 32), .ro, .immediate, 0x0, false, true⟩,
   ⟨0xA010, 0xA010, 0x1, 0x8, (.dom 1984), .rw, .halted, 0x0, false, false⟩,
   ⟨0xA020, 0xA020, 0x1, 0x4, (.dom 1984), .rw, .halted, 0x0, false, false⟩,
   ⟨0xB000, 0xB000, 0x1, 0x1, (.dom 16), .ro, .immediate, 0x0, false, false⟩,
   ⟨0xB000, 0xB000, 0x2, 0x2, (.dom 4928), .ro, .immediate, 0x0, false, false⟩,
   ⟨0xB000, 0xB000, 0x3, 0x3, (.dom 16), .ro, .immediate, 0x0, false, false⟩,
   ⟨0xB000, 0xB000, 0x4, 0x4, .u64, .ro, .immediate, 0x0, false, false⟩,
   ⟨0xB010, 0xB010, 0x1, 0x1, .u8, .rw, .staged, 0x0, false, false⟩,
   ⟨0xB010, 0xB010, 0x2, 0x2, .u64, .rw, .halted, 0x0, false, false⟩,
   ⟨0xB010, 0xB010, 0x3, 0x3, .u32, .rw, .halted, 0x0, false, false⟩,
   ⟨0xB010, 0xB010, 0x4, 0x4, .u64, .rw, .immediate, 0x0, false, false⟩,
   ⟨0xB010, 0xB010, 0x5, 0x5, .u64, .ro, .immediate, 0x0, false, false⟩,
   ⟨0xB010, 0xB010, 0x6, 0x6, .u64, .ro, .immediate, 0x0, false, false⟩,
   ⟨0xB011, 0xB011, 0x1, 0x1, .u8, .rw, .halted, 0x0, false, false⟩,
   ⟨0xB011, 0xB011, 0x2, 0x2, .u64, .rw, .halted, 0x0, false, false⟩,
   ⟨0xB011, 0xB011, 0x3, 0x3, .u32, .rw, .halted, 0x0, false, false⟩]

/-- Rows of the entry map, part 9 (R470 to R481). -/
def entRows9 : List Ent :=
  [⟨0xB011, 0xB011, 0x4, 0x4, .u64, .rw, .immediate, 0x0, false, false⟩,
   ⟨0xB011, 0xB011, 0x5, 0x5, .u64, .ro, .immediate, 0x0, false, false⟩,
   ⟨0xB011, 0xB011, 0x6, 0x6, .u64, .rw, .halted, 0x0, false, false⟩,
   ⟨0xB011, 0xB011, 0x7, 0x7, .u64, .rw, .halted, 0x0, false, false⟩,
   ⟨0xB020, 0xB020, 0x1, 0x1, .u32, .rw, .halted, 0xFFFFFFFF, false, false⟩,
   ⟨0xB020, 0xB020, 0x2, 0x2, .u32, .rw, .halted, 0xFFFFFFFF, false, false⟩,
   ⟨0xB020, 0xB020, 0x3, 0x3, .u64, .ro, .immediate, 0x0, false, false⟩,
   ⟨0xB020, 0xB020, 0x4, 0x4, .u8, .ro, .immediate, 0x0, false, false⟩,
   ⟨0xB020, 0xB020, 0x5, 0x5, .u8, .wo, .immediate, 0x0, false, false⟩,
   ⟨0xB030, 0xB030, 0x1, 0x1, .u64, .rw, .immediate, 0xFFFFFFFFFFFFFFFF, false, false⟩,
   ⟨0xB030, 0xB030, 0x2, 0x2, .u32, .rw, .immediate, 0xFFFFFFFF, false, false⟩,
   ⟨0xB030, 0xB030, 0x3, 0x3, .u64, .rw, .immediate, 0x0, false, false⟩,
   ⟨0xB030, 0xB030, 0x4, 0x4, .u64, .ro, .immediate, 0x0, false, false⟩,
   ⟨0xB030, 0xB030, 0x5, 0x5, .u16, .ro, .immediate, 0x0, false, false⟩,
   ⟨0xB040, 0xB040, 0x1, 0x1, .u8, .rw, .halted, 0x0, false, false⟩,
   ⟨0xB040, 0xB040, 0x2, 0x2, .u32, .rw, .halted, 0xFFFFFFFF, false, false⟩,
   ⟨0xB040, 0xB040, 0x3, 0x3, .u64, .rw, .halted, 0x0, false, false⟩,
   ⟨0xB040, 0xB040, 0x4, 0x4, .u64, .rw, .halted, 0x0, false, false⟩,
   ⟨0xB040, 0xB040, 0x5, 0x5, .u8, .wo, .halted, 0x0, false, false⟩,
   ⟨0xB040, 0xB040, 0x6, 0x6, .u16, .ro, .immediate, 0x0, false, false⟩,
   ⟨0xB050, 0xB050, 0x1, 0x1, .u64, .rw, .halted, 0xFFFFFFFFFFFFFFFF, false, false⟩,
   ⟨0xB050, 0xB050, 0x2, 0x2, .u8, .rw, .halted, 0xFF, false, false⟩,
   ⟨0xB050, 0xB050, 0x3, 0x3, .u64, .ro, .immediate, 0x0, false, false⟩,
   ⟨0xF000, 0xF000, 0x1, 0x1, .u8, .rw, .halted, 0x0, false, false⟩]

/-- Rows of the entry map, part 10 (R470 to R481). -/
def entRows10 : List Ent :=
  [⟨0xF010, 0xF010, 0x1, 0x1, .u8, .rw, .immediate, 0x0, false, false⟩,
   ⟨0xF010, 0xF010, 0x2, 0x2, .u32, .rw, .immediate, 0x0, false, false⟩,
   ⟨0xF010, 0xF010, 0x3, 0x3, .u16, .rw, .immediate, 0x1, false, false⟩,
   ⟨0xF010, 0xF010, 0x4, 0x4, .u64, .rw, .immediate, 0xFFFFFFFFFFFFFFFF, false, false⟩,
   ⟨0xF010, 0xF010, 0x5, 0x5, .u64, .rw, .immediate, 0x0, false, false⟩,
   ⟨0xF010, 0xF010, 0x6, 0x6, .u8, .wo, .immediate, 0x0, false, false⟩,
   ⟨0xF010, 0xF010, 0x7, 0x7, .u8, .ro, .immediate, 0x0, false, false⟩]

/-- The entry map (R469). -/
def entTable : List Ent :=
  entRows1 ++ entRows2 ++ entRows3 ++ entRows4 ++ entRows5 ++ entRows6 ++ entRows7 ++ entRows8 ++ entRows9 ++ entRows10

/-- The row that names an entry. -/
def entOf (i s : Nat) : Option Ent :=
  entTable.find? (fun e => decide (e.i0 ≤ i) && decide (i ≤ e.i1) && decide (e.s0 ≤ s) && decide (s ≤ e.s1))

/-- The key of a scalar entry in the register map. -/
def key (i s : Nat) : Nat := 256 * i + s

/-- The default of a scalar entry (R449); every scalar entry holds it at module reset. -/
def dfltOf (k : Nat) : Nat :=
  match entOf (k / 256) (k % 256) with
  | some e => e.dflt
  | none => 0

/-- Bytes of a scalar type (R447); of a DOMAIN its size or maximum. -/
def tySize : ETy → Nat
  | .u8 => 1
  | .u16 => 2
  | .u32 => 4
  | .u64 => 8
  | .i32 => 4
  | .f32 => 4
  | .bits n _ => n
  | .str => 7
  | .dom n => n
  | .domv n => n

/-- The type code of R447. -/
def tyCode : ETy → Nat
  | .u8 => 1
  | .u16 => 2
  | .u32 => 3
  | .u64 => 4
  | .i32 => 5
  | .f32 => 6
  | .bits _ _ => 7
  | .str => 8
  | .dom _ => 9
  | .domv _ => 9

/-- Scalar types are those of a fixed small size that hold a number. -/
def tyScalar : ETy → Bool
  | .str | .dom _ | .domv _ => false
  | _ => true

/-- A scalar entry's value in force. -/
def reg (c : Chip) (k : Nat) : Nat := smGet (dfltOf k) c.regs k

/-- Set a scalar entry's value in force; the default takes the key out of the map. -/
def setReg (c : Chip) (k v : Nat) : Chip := { c with regs := smSet (dfltOf k) c.regs k v }

/-- Add to a U64 counter, modulo 2^64. -/
def addReg (c : Chip) (k n : Nat) : Chip := setReg c k (m64 (reg c k + n))

/-- Add to a U32 counter, modulo 2^32. -/
def addReg32 (c : Chip) (k n : Nat) : Chip := setReg c k ((reg c k + n) % 4294967296)

/-- The shadow of a staged entry (R451): what was written since, or the value in force. -/
def shadowOf (c : Chip) (k : Nat) : Nat := smGet (reg c k) c.shadow k

end Sys2Proof.Machine
end

