-- ==== Sys2Proof/Machine/Hash.lean ====
section
/-! DEFINITION. SHA3-256 and SHA3-384 (FIPS 202, which the spec names), CRC-32C (11 R332) and
Philox-4×32-10 (08 R248). -/

namespace Sys2Proof.Machine

/-- Rotate a 64-bit lane left. -/
def rotl64 (x n : Nat) : Nat := (x <<< n % 2 ^ 64) ||| (x >>> (64 - n))

/-- Round constants of Keccak-f[1600]. -/
def keccakRC : List Nat :=
  [0x1, 0x8082, 0x800000000000808A, 0x8000000080008000, 0x808B, 0x80000001, 0x8000000080008081,
   0x8000000000008009, 0x8A, 0x88, 0x80008009, 0x8000000A] ++
  [0x8000808B, 0x800000000000008B, 0x8000000000008089, 0x8000000000008003, 0x8000000000008002,
   0x8000000000000080, 0x800A, 0x800000008000000A, 0x8000000080008081, 0x8000000000008080,
   0x80000001, 0x8000000080008008]

/-- Rotation of lane x + 5y. -/
def keccakRot : List Nat :=
  [0, 1, 62, 28, 27, 36, 44, 6, 55, 20, 3, 10, 43, 25, 39, 41, 45, 15, 21, 8, 18, 2, 61, 56, 14]

/-- One round: theta, rho, pi, chi, iota. -/
def keccakRound (a : List Nat) (rc : Nat) : List Nat :=
  let g := fun i => a.getD i 0
  let c := (List.range 5).map fun x => g x ^^^ g (x + 5) ^^^ g (x + 10) ^^^ g (x + 15) ^^^ g (x + 20)
  let d := (List.range 5).map fun x => c.getD ((x + 4) % 5) 0 ^^^ rotl64 (c.getD ((x + 1) % 5) 0) 1
  let t := (List.range 25).map fun i => rotl64 (g i ^^^ d.getD (i % 5) 0) (keccakRot.getD i 0)
  -- pi: lane (x, y) of the result is lane (x + 3y, x) of t
  let b := (List.range 25).map fun i => let x := i % 5; let y := i / 5; t.getD ((x + 3 * y) % 5 + 5 * x) 0
  let e := (List.range 25).map fun i =>
    let x := i % 5
    let y := i / 5
    let n := b.getD ((x + 1) % 5 + 5 * y) 0 ^^^ 0xFFFFFFFFFFFFFFFF
    b.getD i 0 ^^^ (n &&& b.getD ((x + 2) % 5 + 5 * y) 0)
  match e with
  | [] => []
  | h :: r => (h ^^^ rc) :: r

/-- Keccak-f[1600]. -/
def keccakF (a : List Nat) : List Nat := keccakRC.foldl keccakRound a

/-- Lanes of a block of bytes. -/
def lanesOf (bs : List Byte) : Nat → List Nat
  | 0 => []
  | n + 1 => leNat (bs.take 8) :: lanesOf (bs.drop 8) n

/-- Absorb blocks of `rate` bytes; `n` counts them. -/
def keccakAbsorb (rate : Nat) : Nat → List Byte → List Nat → List Nat
  | 0, _, a => a
  | n + 1, bs, a =>
    let l := lanesOf (bs.take rate) (rate / 8)
    let a' := (List.range 25).map fun i => a.getD i 0 ^^^ l.getD i 0
    keccakAbsorb rate n (bs.drop rate) (keccakF a')

/-- The SHA3 padding to whole blocks. -/
def sha3Pad (rate : Nat) (bs : List Byte) : List Byte :=
  let p := rate - bs.length % rate
  if p = 1 then bs ++ [0x86] else bs ++ [0x06] ++ List.replicate (p - 2) 0 ++ [0x80]

/-- SHA3 with an output of n bytes. -/
def sha3 (n : Nat) (bs : List Byte) : List Byte :=
  let rate := 200 - 2 * n
  let m := sha3Pad rate bs
  let a := keccakAbsorb rate (m.length / rate) m (List.replicate 25 0)
  (a.flatMap (leBytes 8)).take n

/-- SHA3-256. -/
def sha3_256 (bs : List Byte) : List Byte := sha3 32 bs

/-- SHA3-384. -/
def sha3_384 (bs : List Byte) : List Byte := sha3 48 bs

/-- One bit of the reflected CRC-32C (polynomial 1EDC6F41h, reflected 82F63B78h). -/
def crcBit (c : Nat) : Nat := if c % 2 = 1 then (c / 2) ^^^ 0x82F63B78 else c / 2

/-- One byte of the CRC. -/
def crcByte (c : Nat) (b : Byte) : Nat :=
  crcBit (crcBit (crcBit (crcBit (crcBit (crcBit (crcBit (crcBit (c ^^^ b.toNat))))))))

/-- CRC-32C of bytes in order (11 R332). -/
def crc32c (bs : List Byte) : Nat := bs.foldl crcByte 0xFFFFFFFF ^^^ 0xFFFFFFFF

/-- One round of Philox-4×32 (08 R248). -/
def philoxRound (c : Nat × Nat × Nat × Nat) (k : Nat × Nat) : Nat × Nat × Nat × Nat :=
  let (c0, c1, c2, c3) := c
  let p0 := 0xD2511F53 * c0
  let p1 := 0xCD9E8D57 * c2
  ((p1 / 2 ^ 32) ^^^ c1 ^^^ k.1, p1 % 2 ^ 32, (p0 / 2 ^ 32) ^^^ c3 ^^^ k.2, p0 % 2 ^ 32)

/-- n rounds with the key schedule. -/
def philoxRounds : Nat → Nat × Nat × Nat × Nat → Nat × Nat → Nat × Nat × Nat × Nat
  | 0, c, _ => c
  | n + 1, c, k =>
    philoxRounds n (philoxRound c k) ((k.1 + 0x9E3779B9) % 2 ^ 32, (k.2 + 0xBB67AE85) % 2 ^ 32)

/-- The first output word of Philox-4×32-10 for position p and purpose f under a 64-bit seed. -/
def philox (seed p f : Nat) : Nat :=
  (philoxRounds 10 (p % 2 ^ 32, f, 0, 0) (seed % 2 ^ 32, seed / 2 ^ 32 % 2 ^ 32)).1

end Sys2Proof.Machine
end

