-- ==== Sys2Proof/Machine/Errors.lean ====
section
/-! DEFINITION. Reporting: classes and records (14 R431 to R438), the paths that announce them
(R440), and the MSI-X table and host writes they use (17 R512 R513). -/

namespace Sys2Proof.Machine

/-! ## Time within the step -/

/-- Core cycles per tick pair at a frequency code (01 R21). -/
def ccPerPair (f : Nat) : Nat :=
  match f with
  | 0 => 7
  | 1 => 6
  | 2 => 4
  | _ => 2

/-- Core cycles per tick pair at the frequency in force (10 R315). -/
def ccNow (c : Chip) : Nat := ccPerPair (reg c (key 0x8000 1))

/-- The plan state Armed or Running, in which a plan runs (01 R28). -/
def runs (c : Chip) : Bool := c.plan.state == .armed || c.plan.state == .running

/-- A plan is held: Loaded, Armed, Running or Halted. -/
def planHeld (c : Chip) : Bool := c.plan.state != .empty

/-- The plan cycle of the step that a count reaches (01 R22). -/
def countCycle (c : Chip) : Nat := (c.count - c.plan.stepStart) * ccNow c / 2

/-- The plan cycle of the step (01 R22 R31): the one that is performed, and between cycles the one the sequencers have
reached, or the one of the present count where that is later; FFFFFFFFh while no plan runs. -/
def planCycle (c : Chip) : Nat :=
  if c.plan.state = .running then
    if c.plan.moment = .cycle then c.plan.cyc - c.plan.cyc0 else max (c.plan.cyc - c.plan.cyc0) (countCycle c)
  else ones32

/-- The count of what is performed: the one at which its cycle begins, and between cycles the present one (01 R22). -/
def nowCount (c : Chip) : Nat :=
  if c.plan.moment = .cycle then c.plan.stepStart + 2 * (c.plan.cyc - c.plan.cyc0) / ccNow c else c.count

/-- Step length in ticks: twice 2010h:04. -/
def stepTicks (c : Chip) : Nat := 2 * reg c (key 0x2010 4)

/-- A count moved by an adjustment of whole tick pairs (10 R321). -/
def adjusted (t : Nat) (pairs : Int) : Nat := ((t : Int) + 2 * pairs).toNat

/-- The count at which the step ends (01 R22); in QZ5 time mode the step may be adjusted (10 R321). -/
def boundaryAt (c : Chip) : Nat := adjusted (c.plan.stepStart + stepTicks c) c.time.qz5Adjust

/-- The core cycles of the step in hand. -/
def stepCycles (c : Chip) : Nat := (boundaryAt c - c.plan.stepStart) * ccNow c / 2

/-- The count of the step's cut-off, 256 ticks before (01 R23). -/
def cutoffAt (c : Chip) : Nat := boundaryAt c - 256

/-- The cut-off of the step in hand has passed: what it fixes is fixed, or its count is reached (01 R23). -/
def pastCut (c : Chip) : Bool := c.plan.cut || (c.plan.state == .running && decide (cutoffAt c ≤ c.count))

/-! ## Host writes and MSI-X (17) -/

/-- Host writes are blocked (17 R512); an IDE integrity failure stops traffic as well (17 R514). -/
def hostBlocked (c : Chip) : Bool :=
  !c.host.bme || c.host.d3 || c.host.ideHalt || reg c (key 0x2040 1) == 0

/-- Something leaves through a pin. -/
def emit (c : Chip) (o : Out) : Chip := { c with out := o :: c.out }

/-- An entry of the MSI-X table; masked at reset. PRESUMED the PCI Express reset value (log 9). -/
def msixEntry (c : Chip) (v : Nat) : List Byte :=
  smGet ([0, 0, 0, 0, 0, 0, 0, 0, 0, 0, 0, 0, 1, 0, 0, 0] : List Byte) c.host.msix v

/-- The vector is masked: by its own bit, by the Function Mask, or while MSI-X is not enabled (17 R513). That a firing with MSI-X
off waits like a masked one is PRESUMED (log 29). -/
def msixMasked (c : Chip) (v : Nat) : Bool :=
  !c.host.msixOn || c.host.funcMask || bit (field (msixEntry c v) 12 4) 0

/-- A source fires a vector (17 R512 R513): the message leaves, or the pending bit is set. -/
def fireMsix (c : Chip) (v : Nat) : Chip :=
  if hostBlocked c || msixMasked c v then
    { c with host := { c.host with msixPend := nsInsert c.host.msixPend v } }
  else emit c (.msix v)

/-- Send every pending message that nothing holds back any more. -/
def sendPending (c : Chip) : Chip :=
  c.host.msixPend.foldl
    (fun c v =>
      if hostBlocked c || msixMasked c v then c
      else emit { c with host := { c.host with msixPend := nsErase c.host.msixPend v } } (.msix v)) c

/-! ## Records (14) -/

/-- The class of a source's code (14 R432). -/
def classOf (code : Nat) : Nat :=
  match code with
  | 0x0101 | 0x0102 => 4
  | 0x0201 | 0x0203 | 0x0205 | 0x0207 | 0x0209 | 0x020B => 1
  | 0x0202 | 0x0204 | 0x0206 | 0x0208 | 0x020A => 4
  | 0x020C => 7
  | 0x0301 | 0x0303 | 0x0304 => 1
  | 0x0302 | 0x0305 => 4
  | 0x0306 => 3
  | 0x0307 => 2
  | 0x0308 => 0
  | 0x0309 => 6
  | 0x0400 => 3  -- the coach checks of 11 R362, for which R432 gives no code: log 18
  | 0x0401 => 1
  | 0x0402 => 0
  | 0x0403 | 0x0404 => 6
  | 0x0405 => 0
  | 0x0406 | 0x0407 => 5
  | 0x0408 => 3
  | 0x0409 | 0x040A => 0
  | 0x0501 => 2
  | 0x0502 | 0x0503 => 0
  | 0x0601 | 0x0602 | 0x0603 | 0x0701 => 3
  | 0x0702 => 0
  | 0x0703 => 2
  | 0x0704 => 5
  | 0x0801 | 0x0802 => 0
  | 0x0803 => 5
  | 0x0901 => 5
  | 0x0902 | 0x0903 => 6
  | 0x0904 => 5
  | 0x0905 => 0
  | 0x0A01 => 5
  | 0x0A02 | 0x0A03 => 6
  | 0x0A04 => 0
  | 0x0B01 | 0x0B02 | 0x0B03 => 6
  | 0x0C01 => 7
  | _ => 0

/-- Location kinds of R434. -/
inductive Loc where
  | modl
  | tile (n : Nat)
  | port (n : Nat)
  | stack (n : Nat)
  | channel (n : Nat)
  | die (n : Nat)
  deriving DecidableEq, Repr

/-- The location field of a record (14 R434). -/
def locCode : Loc → Nat
  | .modl => 0
  | .tile n => 0x1000 + n % 4096
  | .port n => 0x2000 + n % 4096
  | .stack n => 0x3000 + n % 4096
  | .channel n => 0x4000 + n % 4096
  | .die n => 0x5000 + n % 4096

/-- The die of a location (14 R438). -/
def locDie (loc : Nat) : Nat :=
  let n := loc % 4096
  match loc / 4096 with
  | 1 => n / 48
  | 2 => n / 8
  | 3 => n / 2
  | 4 => n / 2
  | 5 => n
  | _ => 0

/-- When an occurrence is detected (14 R434): at a plan cycle, at a boundary, or apart from both. -/
inductive When where
  | cycle
  | boundary
  | apart
  deriving DecidableEq, Repr

/-- The step field (14 R434). -/
def recStep (c : Chip) : Nat :=
  if c.plan.state = .empty ∨ c.plan.state = .loaded then ones64 else c.plan.step

/-- What is detected in a cycle while a boundary is performed is detected at the boundary. -/
def whenNow (c : Chip) (w : When) : When := if w = .cycle ∧ c.plan.moment = .boundary then .boundary else w

/-- An occurrence of a source, put by for the end of the command (14 R437 R438). -/
def reportI (injected : Bool) (c : Chip) (code : Nat) (loc : Loc) (w : When) (detail : List Nat) : Chip :=
  let w := whenNow c w
  let cy := match w with
    | .cycle => planCycle c % 4294967296
    | .boundary => 0xFFFFFFFE
    | .apart => ones32
  let fl := (if injected then 2 else 0) + (match w with | .boundary => 8 | _ => 0)
  let o : Occ := { code := code, loc := locCode loc, step := recStep c, cycle := cy, count := nowCount c,
                   flags := fl, detail := detail.map (· % 4294967296) }
  { c with err := { c.err with pend := c.err.pend ++ [o] } }

/-- An occurrence that no injection caused. -/
def report (c : Chip) (code : Nat) (loc : Loc) (w : When) (detail : List Nat) : Chip :=
  reportI false c code loc w detail

/-- A plan fault, at most once for each kind, unit and step (05 R147, 11 R371). -/
def reportOnce (c : Chip) (kind unit code : Nat) (loc : Loc) (w : When) (detail : List Nat) : Chip :=
  if c.acc.reported.contains (kind, unit) then c
  else report { c with acc := { c.acc with reported := (kind, unit) :: c.acc.reported } } code loc w detail

/-- The 64 bytes of a record (14 R434). -/
def recBytes (r : Rec) : List Byte :=
  leBytes 8 r.seq ++ leBytes 1 r.cls ++ leBytes 1 r.flags ++ leBytes 2 r.code ++ leBytes 2 r.loc ++
    leBytes 2 r.nest ++ leBytes 8 r.step ++ leBytes 4 r.cycle ++ leBytes 4 r.rep ++
    leBytes 8 r.count ++ leBytes 4 0 ++ slice (r.detail.flatMap (leBytes 4)) 0 20

/-- A stored record of a selected class fires the vector, unless the latch is set (14 R440). -/
def announceMsix (c : Chip) (cls : Nat) : Chip :=
  if bit (reg c (key 0x9010 1)) cls && !c.err.latch then
    fireMsix { c with err := { c.err with latch := true } } (reg c (key 0x9010 2))
  else c

/-- A stored record of a selected class becomes a CAN FD event, or is counted lost (14 R440). -/
def announceCan (c : Chip) (r : Rec) : Chip :=
  if bit (reg c (key 0x9010 4)) r.cls then
    if c.err.canq.length < 16 then
      { c with err := { c.err with canq := c.err.canq ++ [recBytes r] } }
    else addReg c (key 0x9010 6) 1
  else c

/-- Announce a stored record: MSI-X under the latch, CAN FD under its mask (14 R440). -/
def announce (c : Chip) (r : Rec) : Chip := announceCan (announceMsix c r.cls) r

/-- The first unread record with the same code, location and step gains a repeat (14 R437). -/
def mergeRec (o : Occ) : List Rec → Option (List Rec)
  | [] => none
  | r :: t =>
    if r.code = o.code ∧ r.loc = o.loc ∧ r.step = o.step then
      some ({ r with rep := min ones32 (r.rep + 1) } :: t)
    else (mergeRec o t).map (r :: ·)

/-- An occurrence is counted by its class, and a capture held counts it as nested (14 R436 R437). -/
def countOcc (c : Chip) (cls : Nat) : Chip :=
  let c := addReg c (key 0x9002 (cls + 1)) 1
  let cap := c.err.cap.map (fun r => { r with nest := min 0xFFFF (r.nest + 1) })
  { c with err := { c.err with cap := cap } }

/-- The record of an occurrence, with the next sequence number. -/
def newRec (c : Chip) (o : Occ) (takes : Bool) : Rec :=
  { seq := reg c (key 0x9001 5), cls := classOf o.code, flags := o.flags + (if takes then 1 else 0),
    code := o.code, loc := o.loc, nest := (match c.err.cap with | some r => r.nest | none => 0),
    step := o.step, cycle := o.cycle, rep := 1, count := o.count, detail := o.detail }

/-- The capture takes a record. -/
def takeCap (c : Chip) (r : Rec) (takes : Bool) : Chip :=
  if takes then { c with err := { c.err with cap := some r } } else c

/-- A new record enters the log, or is lost where 128 stand in it; a record after a loss says so
(14 R437). -/
def storeRec (c : Chip) (r : Rec) (takes : Bool) : Chip :=
  if c.err.log.length < 128 then
    let r := if c.err.lostSince then { r with flags := r.flags + 4 } else r
    announce (takeCap { c with err := { c.err with log := c.err.log ++ [r], lostSince := false } } r takes) r
  else takeCap (addReg { c with err := { c.err with lostSince := true } } (key 0x9001 4) 1) r takes

/-- One occurrence reaches capture and log (14 R435 to R437). -/
def occur (c : Chip) (o : Occ) : Chip :=
  let takes := c.err.cap.isNone && bit (reg c (key 0x9000 4)) (classOf o.code)
  let c := countOcc c (classOf o.code)
  match (if takes then none else mergeRec o c.err.log) with
  | some l => { c with err := { c.err with log := l } }
  | none =>
    let r := newRec c o takes
    storeRec (setReg c (key 0x9001 5) (m64 (reg c (key 0x9001 5) + 1))) r takes

/-- The first of a list of pairs that differ decides. -/
def lexLt : List (Nat × Nat) → Bool
  | [] => false
  | (a, b) :: rest => decide (a < b) || (a == b && lexLt rest)

/-- The order of occurrences: by the count and the cycle in which they were detected, and of one cycle or boundary by die,
code, location number (14 R438). -/
def occLt (a b : Occ) : Bool :=
  lexLt [(a.count, b.count), (a.cycle, b.cycle), (locDie a.loc, locDie b.loc), (a.code, b.code),
    (a.loc % 4096, b.loc % 4096)]

/-- Take the occurrences of a command to capture and log, in the order of R438. -/
def flush (c : Chip) : Chip :=
  match c.err.pend with
  | [] => c
  | l => (sortBy occLt l).foldl occur { c with err := { c.err with pend := [] } }

/-- A removal or a capture clear: the latch clears, and fires again where a record of a selected
class is still unread (14 R440). -/
def unlatch (c : Chip) : Chip :=
  let c := { c with err := { c.err with latch := false } }
  if c.err.log.any (fun r => bit (reg c (key 0x9010 1)) r.cls) then
    fireMsix { c with err := { c.err with latch := true } } (reg c (key 0x9010 2))
  else c

/-- The event output ball is driven low (14 R440, 18 R526). -/
def eventBall (c : Chip) : Bool :=
  c.power.phase == .bootFailed ||
    c.err.log.any (fun r => bit (reg c (key 0x9010 3)) r.cls) ||
    (match c.err.cap with
      | some r => bit (reg c (key 0x9010 3)) r.cls
      | none => false)

/-! ## Running a command -/

/-- Add to a counter of the step (05 R148): it reaches its entry at the boundary. -/
def bump (c : Chip) (k n : Nat) : Chip :=
  { c with acc := { c.acc with counts := smMod 0 c.acc.counts k (· + n) } }

/-- The effect of a command on the chip, its occurrences then taken to the log. -/
def onChip (s : State) (f : Chip → Chip) : Host.Outcome State Fault Refusal :=
  .next { s with chip := flush (f s.chip) }

/-- The same where the command is served only by a running module: in power-off, held reset or a
failed boot nothing runs (18 R520 R521 R526), and the command changes nothing. -/
def onRunning (s : State) (f : Chip → Chip) : Host.Outcome State Fault Refusal :=
  if s.chip.power.phase = .running then onChip s f else .next s

/-- The same for a command that needs no firmware: it is served from reset release on, in a failed boot as well
(18 R522 R526). -/
def onPowered (s : State) (f : Chip → Chip) : Host.Outcome State Fault Refusal :=
  if s.chip.power.phase = .running ∨ s.chip.power.phase = .bootFailed then onChip s f else .next s

/-- The ticks after the present count, up to t, in which a level (0 node, 1 group, 2 system) is throttled: by its own
occupancy throughout, by a pressure cart until its end (12 R396 R397). -/
def throttledTicks (c : Chip) (t lv : Nat) : Nat :=
  if c.fab.own.getD lv false then t - c.count
  else match (if lv = 0 then none else c.fab.pressure.getD (lv - 1) none) with
    | some e => min t (e - 1) - c.count
    | none => 0

/-- The throttled ticks of each level reach their counters, 5400h:03 to 5402h:03 (12 R406). -/
def countThrottled (c : Chip) (t : Nat) : Chip :=
  (List.range 3).foldl (fun d lv =>
    if throttledTicks c t lv = 0 then d else addReg d (key (0x5400 + lv) 3) (throttledTicks c t lv)) c

/-- The count is to be acquired from its source anew: unsynchronised, unless the reference is lost (10 R303). -/
def acquireAnew (c : Chip) : Chip :=
  let c := { c with time := { c.time with good := 0, silent := 0 } }
  if reg c (key 0x8010 3) = 2 then c else setReg c (key 0x8010 3) 0

/-- The count reaches an instant: it only moves forward (log 1), and the ticks that pass are counted. -/
def reach (c : Chip) (t : Nat) : Chip := if c.count < t then { countThrottled c t with count := t } else c

end Sys2Proof.Machine
end

