-- ==== Sys2Proof/Machine/Opportunity.lean ====
section
/-! DEFINITION. The opportunities of an armed error injection (14 R444): whether it is armed, and what taking one
does to its count and its status. The operations that bring an opportunity call these. -/

namespace Sys2Proof.Machine

/-- Set the status of an injection, F010h:07. -/
def setInj (c : Chip) (st : Nat) : Chip := setReg c (key 0xF010 7) st

/-- The injection is armed: from its start, or from the plan cycle it names. -/
def injArmed (c : Chip) (j : Inject) : Bool :=
  match j.from? with
  | none => true
  | some (st, cy) =>
    c.plan.state == .running && (decide (st < c.plan.step) || (st == c.plan.step && decide (cy ≤ planCycle c)))

/-- The armed injection, where it is of the kind and location asked for. -/
def injFor (c : Chip) (mine : Inject → Bool) : Option Inject :=
  match c.err.inj with
  | some j => if mine j && injArmed c j then some j else none
  | none => none

/-- One opportunity of an injection is taken: the last one ends it. -/
def spendInj (c : Chip) (j : Inject) : Chip :=
  if j.left ≤ 1 then setInj { c with err := { c.err with inj := none } } 3
  else setInj { c with err := { c.err with inj := some { j with left := j.left - 1, applied := true } } } 2

/-! ## Errors that no command makes (log 37) -/

/-- The error that has struck a spot. -/
def flawAt (c : Chip) (x : Spot) : Option Flaw :=
  c.flaws.find? (fun f => decide (f.spot = x) && decide (f.since ≤ nowCount c))

/-- The errors that have struck a spot are gone. -/
def dropFlaw (c : Chip) (x : Spot) : Chip :=
  { c with flaws := c.flaws.filter (fun f => !(decide (f.spot = x) && decide (f.since ≤ nowCount c))) }

/-- The errors that have struck spots of a kind. -/
def flawsOf (c : Chip) (p : Spot → Bool) : List Flaw :=
  c.flaws.filter (fun f => p f.spot && decide (f.since ≤ nowCount c))

/-- What stands in spots of a kind is written anew: the errors that have struck them are gone. -/
def dropFlaws (c : Chip) (p : Spot → Bool) : Chip :=
  { c with flaws := c.flaws.filter (fun f => !(p f.spot && decide (f.since ≤ nowCount c))) }

/-- A control check of a unit of a die fails: reported, once (14 R432). The units: sequencer, mortar, Belriaz engine,
sampler. -/
def controlCheck (c : Chip) (die unit : Nat) (w : When) : Chip :=
  if (flawAt c (.control die unit)).isSome then
    report (dropFlaw c (.control die unit)) 0x0C01 (.die die) w [unit]
  else c

/-! ## Values the spec leaves open -/

/-- n free bytes: the bytes at the model's counter, which moves on (log 12). -/
def freeBytes (c : Chip) (n : Nat) : Chip × List Byte :=
  ({ c with free := c.free + n }, (List.range n).map (fun i => Config.freeByte (c.free + i)))

/-- A free number (log 12). -/
def freeNumber (c : Chip) : Chip × Nat := ({ c with free := c.free + 1 }, Config.freeNat c.free)

end Sys2Proof.Machine
end

