-- ==== Sys2Proof/Machine/Mem.lean ====
section
/-! DEFINITION. Memory by module address (07 R200): bytes, granules with their poison and stored
errors (R188 R191 R194 R204 R205), and the limits of background accesses (R202). -/

namespace Sys2Proof.Machine

/-! ## Bytes -/

/-- What an unlisted address reads as. The spec gives memory no contents after power-on.
DESIGN CHOICE (log 4). -/
def unlisted : Byte := 0

/-- The canonical form of memory: addresses strictly rising, no byte that an unlisted address reads
as. -/
def Memory.wf (m : List Host.Cell) : Bool := smWf unlisted m

/-- Read one byte. -/
def memByte (m : List Host.Cell) (a : Nat) : Byte := smGet unlisted m a

/-- Write one byte. -/
def setByte (m : List Host.Cell) (a : Nat) (b : Byte) : List Host.Cell := smSet unlisted m a b

/-- Read n bytes from address a. -/
def memBytes (m : List Host.Cell) (a : Nat) : Nat → List Byte
  | 0 => []
  | n + 1 => memByte m a :: memBytes m (a + 1) n

/-- Write bytes from address a. -/
def setBytes (m : List Host.Cell) (a : Nat) : List Byte → List Host.Cell
  | [] => m
  | b :: t => setBytes (setByte m a b) (a + 1) t

/-! ## The address map -/

/-- What lies at a module address (07 R200): a byte of an HBM stack, of an MRDIMM channel's window,
of a tile's store or operand cache, or nothing. -/
inductive Area where
  | hbm (stack off : Nat)
  | mrdimm (channel off : Nat)
  | store (site off : Nat)
  | opc (site off : Nat)
  | unmapped
  deriving DecidableEq, Repr

/-- The address map. -/
def areaOf (a : Nat) : Area :=
  if a < 0xA000000000 then .hbm (a / 0x1400000000) (a % 0x1400000000)
  else if 0x10000000000 ≤ a ∧ a < 0x30000000000 then
    .mrdimm ((a - 0x10000000000) / 0x4000000000) ((a - 0x10000000000) % 0x4000000000)
  else if 0x30000000000 ≤ a ∧ a < 0x30030000000 then
    let o := (a - 0x30000000000) % 0x400000
    let site := (a - 0x30000000000) / 0x400000
    if o < 0x300000 then .store site o
    else if o < 0x340000 then .opc site (o - 0x300000)
    else .unmapped
  else .unmapped

/-- Module address of a stack's byte. -/
def hbmAddr (stack off : Nat) : Nat := stack * 0x1400000000 + off

/-- Module address of a channel's byte. -/
def mrdAddr (ch off : Nat) : Nat := 0x10000000000 + ch * 0x4000000000 + off

/-- Module address of tile-store line n of a site. -/
def lineAddr (site n : Nat) : Nat := 0x30000000000 + site * 0x400000 + 64 * n

/-- Module address of operand cache word w of a site. -/
def wordAddr (site w : Nat) : Nat := 0x30000000000 + site * 0x400000 + 0x300000 + 4 * w

/-- The tile site is enabled (01 R11). -/
def siteEnabled (f : Fuses) (site : Nat) : Bool := bit (f.maps.getD (site / 48) 0) (site % 48)

/-! ## Granules -/

/-- The granule of an address is poisoned. -/
def granPoison (c : Chip) (a : Nat) : Bool := nsMem c.poison (a / 64)

/-- The lowest word of a granule that a mask of inverted bits touches. -/
def firstWord (mask : Nat) : Nat := ((List.range 16).find? (fun i => (mask >>> (32 * i)) % 4294967296 != 0)).getD 0

/-- Code of a corrected error, location, counter and detail of the granule at an address with inverted bits
(14 R432, 07 R216). -/
def eccSource (a mask : Nat) (scrub : Bool) : Nat × Loc × Nat × List Nat :=
  let d := [a % 4294967296, a / 4294967296, if scrub then 1 else 0]
  match areaOf a with
  | .hbm s _ => (0x0301, .stack s, key 0x4031 3, d)
  | .mrdimm ch _ => (0x0304, .channel ch, key 0x4031 5, d)
  | .store s o => (0x0201, .tile s, key 0x4031 1, [o / 64])
  | .opc s o => (0x0203, .tile s, key 0x4031 7, [0, o / 4 + firstWord mask])
  | .unmapped => (0x0301, .modl, key 0x4031 3, d)

/-- The error a granule is stored with: one that was written with it, or one that has struck it. -/
def markAt (c : Chip) (g : Nat) : EccMark :=
  let m := smGet EccMark.none c.ecc g
  if m = EccMark.none then
    match flawAt c (.granule g) with
    | some f => ⟨f.unc, f.mask, false⟩
    | none => EccMark.none
  else m

/-- A granule is stored without an error. -/
def clearMark (c : Chip) (g : Nat) : Chip := dropFlaw { c with ecc := smErase c.ecc g, wbDue := nsErase c.wbDue g } (.granule g)

/-- A read of a stack reports the corrections that the stack's own on-die code has made (07 R191). -/
def onDieCheck (c : Chip) (a : Nat) (w : When) : Chip :=
  match areaOf a with
  | .hbm s _ =>
    if (flawAt c (.onDie s)).isSome then report (addReg (dropFlaw c (.onDie s)) (key 0x4031 3) 1) 0x0303 (.stack s) w [] else c
  | _ => c

/-- XOR a 64-byte granule with a 512-bit mask. -/
def xorMask : List Byte → Nat → List Byte
  | [], _ => []
  | b :: t, m => (b ^^^ BitVec.ofNat 8 m) :: xorMask t (m / 256)

/-- Read the granule at a (a multiple of 64). A stored correctable error is corrected, counted and
logged; an uncorrectable one delivers the data as stored, marked poisoned, and is counted and logged,
by every read until its write-back has stored the poison. Either way a write-back falls due (07 R188
R191 R194 R204 R205). -/
def readGran (c : Chip) (a : Nat) (w : When) (scrub : Bool) : Chip × List Byte × Bool :=
  let d := memBytes c.mem a 64
  let m := markAt c (a / 64)
  let c := onDieCheck c a w
  if m = EccMark.none then (c, d, granPoison c a)
  else
    let (code, loc, k, det) := eccSource a m.mask scrub
    let due := fun c : Chip => { c with wbDue := nsInsert c.wbDue (a / 64) }
    if m.unc then
      (due (reportI m.injected (addReg c (k + 1) 1) (code + 1) loc w det), xorMask d m.mask, true)
    else (due (reportI m.injected (addReg c k 1) code loc w det), d, granPoison c a)

/-- The write-back of granule g: a corrected granule is stored without its error, an uncorrectable one
as read with its poison (07 R188 R204 R205). -/
def writeBack (c : Chip) (g : Nat) : Chip :=
  let m := markAt c g
  let c := clearMark c g
  if m.unc then
    { c with mem := setBytes c.mem (64 * g) (xorMask (memBytes c.mem (64 * g) 64) m.mask),
             poison := nsInsert c.poison g }
  else c

/-- Store a whole granule: its poison becomes the data's, and a stored error is gone (07 R204). -/
def storeGran (c : Chip) (a : Nat) (d : List Byte) (p : Bool) : Chip :=
  clearMark { c with mem := setBytes c.mem a (slice d 0 64), poison := nsPut c.poison (a / 64) p } (a / 64)

/-- The granule at an address is stored with inverted bits. -/
def markGran (c : Chip) (a mask : Nat) (unc : Bool) : Chip :=
  { c with ecc := smSet EccMark.none c.ecc (a / 64) ⟨unc, mask, true⟩ }

/-- The data bits that x4 device 0, or devices 0 and 1, hold of a granule: DQ[3:0] or DQ[7:0] of each of its
16 beats of 32 bits. PRESUMED the DDR5 layout (log 26). -/
def deviceMask (two : Bool) : Nat :=
  (List.range 16).foldl (fun m k => m + (if two then 0xFF else 0xF) * 2 ^ (32 * k)) 0

/-- The granule that an injection of kind 3 to 6 waits for a write of (14 R444). -/
def injGran (j : Inject) : Option Nat :=
  match j.kind with
  | 3 => some (lineAddr (bits j.loc 7 0) (bits j.loc 31 16) / 64)
  | 4 => some (lineAddr (bits j.loc 7 0) (bits j.loc 31 16) / 64)
  | 5 => some (j.addr / 64)
  | 6 => some (j.addr / 64)
  | _ => none

/-- A write of its granule stores the bits of an injection inverted (14 R444). -/
def markInjected (c : Chip) (a : Nat) (j : Inject) : Chip :=
  match j.kind with
  | 3 => markGran c a 1 false
  | 4 => markGran c a 3 true
  | 5 => if j.param = 1 then markGran c a 0xFFFF false else markGran c a 0xFFFFFFFF true
  | _ => markGran c a (deviceMask (j.param != 1)) (j.param != 1)

/-- The opportunity that a write of the granule at an address is for an armed injection. -/
def injectWrite (c : Chip) (a : Nat) : Chip :=
  match injFor c (fun j => injGran j == some (a / 64)) with
  | some j => markInjected (spendInj c j) a j
  | none => c

/-- Write a whole granule. -/
def writeGran (c : Chip) (a : Nat) (d : List Byte) (p : Bool) : Chip := injectWrite (storeGran c a d p) a

/-- Put bytes over part of a granule where the enable bits say so. -/
def mergeBytes (old new : List Byte) (en : Nat) : List Byte :=
  (List.range 64).map (fun i => if en.testBit i then new.getD i 0 else old.getD i 0)

/-- A background write of less than a granule: a read-modify-write that keeps or gains poison
(07 R204). -/
def writePart (c : Chip) (a : Nat) (d : List Byte) (en : Nat) (p : Bool) : Chip :=
  if en % 2 ^ 64 = 2 ^ 64 - 1 then writeGran c a d p
  else
    let (c, old, q) := readGran c a .apart false
    writeGran c a (mergeBytes old d en) (p || q)

/-! ## The weight store reservation and the system areas (07 R201) -/

/-- A quarter of a stack's reservation. -/
def resQuarter (c : Chip) : Nat := reg c (key 0x4000 1) / 4

/-- Bytes of a stack's first system area: the load staging window on stack 0, the private plan store on stack 1. -/
def windowBytes (c : Chip) (stack : Nat) : Nat := if stack < 2 then reg c (key 0x4002 1) else 0

/-- Bytes of the system areas of a stack: staging window or plan store, four receive queues, mirror
area. -/
def systemBytes (c : Chip) (stack : Nat) : Nat :=
  windowBytes c stack + 4 * reg c (key 0x4002 2) + reg c (key 0x4002 3)

/-- The stack that holds a port's receive queue. -/
def queueStack (port : Nat) : Nat := 2 * (port / 8) + port % 2

/-- Module address of a port's receive queue: below the first system area of its stack, downward in ascending port
order. -/
def queueBase (c : Chip) (port : Nat) : Nat :=
  let k := port % 8 / 2
  hbmAddr (queueStack port)
    (0x1400000000 - windowBytes c (queueStack port) - (k + 1) * reg c (key 0x4002 2))

/-- Module address of a stack's partner mirror area, the lowest of its system areas. -/
def mirrorBase (c : Chip) (stack : Nat) : Nat := hbmAddr stack (0x1400000000 - systemBytes c stack)

/-- The byte lies in a port's receive queue or in the partner mirror area. What the module keeps there has no layout in
the spec (logs 21 and 32). -/
def inWork (c : Chip) (a : Nat) : Bool :=
  (List.range 32).any (fun p => decide (queueBase c p ≤ a) && decide (a < queueBase c p + reg c (key 0x4002 2))) ||
    (List.range 8).any (fun s => decide (mirrorBase c s ≤ a) && decide (a < mirrorBase c s + reg c (key 0x4002 3)))

/-- The byte of a stack lies in the weight store or the private plan store, which no background
access reaches (07 R202). -/
def inSealed (c : Chip) (stack off : Nat) : Bool :=
  let q := off / 0x500000000
  let o := off % 0x500000000
  let top := 0x500000000
  if o < top - resQuarter c then false
  else if q = 3 then
    if stack = 1 ∧ top - reg c (key 0x4002 1) ≤ o then true
    else decide (o < top - systemBytes c stack)
  else true

/-- The bytes a binding of a region takes in each of its units. -/
def bindBytes (r : Region) (b : Bind) : Nat :=
  let n := if b.tier = 2 ∧ b.quarter ≠ 0xFF then r.working * 65536 else r.size
  if b.unit2.isSome then n / 2 else n

/-- The bound regions of the placement with their regions of the plan. -/
def bindings (c : Chip) : List (Region × Bind) :=
  match c.plan.image, c.plan.place with
  | some im, some pl =>
    (pl.hbm ++ pl.mrd).filterMap
      (fun b => (im.regions.find? (fun r => r.num == b.region)).map (fun r => (r, b)))
  | _, _ => []

/-- A byte of a stack or channel lies in a bound region. -/
def inBound (c : Chip) (hbm : Bool) (unit off : Nat) : Bool :=
  (bindings c).any (fun (r, b) =>
    (b.unit == unit || b.unit2 == some unit) && (hbm == (b.quarter != 0xFF)) &&
      (let base := (if hbm then b.quarter * 0x500000000 else 0) + b.off
       decide (base ≤ off) && decide (off < base + bindBytes r b)))

/-- The line of a binding that byte `off` of stack `unit` is, for an offset within the binding (07 R199). -/
def lineWithin (b : Bind) (unit off : Nat) : Nat :=
  let rel := off - (b.quarter * 0x500000000 + b.off)
  if b.unit2.isNone then rel / 64
  else 64 * (2 * (rel / 4096) + (if unit = b.unit then 0 else 1)) + rel % 4096 / 64

/-- A page that is resident becomes dirty (07 R208). -/
def soilPage (c : Chip) (rn page : Nat) : Chip :=
  let pl := smGet Pool.reset c.pools rn
  let pg := smGet PageSt.reset pl.pages page
  if pg.frame.isSome then
    let pgs := smSet PageSt.reset pl.pages page { pg with dirty := true }
    { c with pools := smSet Pool.reset c.pools rn { pl with pages := pgs } }
  else c

/-- The pages whose frame holds byte `off` of a stack, by region number (07 R208): any write to them makes them
dirty. -/
def framePages (c : Chip) (unit off : Nat) : List (Nat × Nat) :=
  (bindings c).flatMap (fun (r, b) =>
    let base := b.quarter * 0x500000000 + b.off
    if r.tier = 2 ∧ b.quarter ≠ 0xFF ∧ (b.unit = unit ∨ b.unit2 = some unit) ∧ base ≤ off ∧ off < base + bindBytes r b then
      ((smGet Pool.reset c.pools r.num).pages.filter (fun x => x.2.frame == some (lineWithin b unit off / 1024))).map
        (fun x => (r.num, x.1))
    else [])

/-- A background write to an address: the page whose frame it lies in becomes dirty (07 R208). -/
def soilFrame (c : Chip) (a : Nat) : Chip :=
  match areaOf a with
  | .hbm s o => (framePages c s o).foldl (fun c x => soilPage c x.1 x.2) c
  | _ => c

/-- The tile site holds a logical tile of the loaded plan. -/
def siteBound (c : Chip) (site : Nat) : Bool := (smGet Tile.reset c.tiles site).ti != 0xFFFF

/-- A background access of a steward, the host or a cart reaches the granule at an address
(07 R202 R215). A stack or channel in state 0, not yet trained, is refused as one in state 2 is, of which alone R215
speaks: DESIGN CHOICE (log 35). -/
def reachable (f : Fuses) (c : Chip) (a : Nat) : Bool :=
  match areaOf a with
  | .hbm s o =>
    reg c (key 0x4011 (s + 1)) == 1 && !inSealed c s o && !(runs c && inBound c true s o)
  | .mrdimm ch o =>
    let fit := reg c (key 0x4010 (ch + 1))
    decide (o < fit) && !(decide (fit - reg c (key 0x4000 2) ≤ o)) &&
      !(runs c && inBound c false ch o)
  | .store s _ => siteEnabled f s && siteBound c s && !runs c
  | .opc s _ => siteEnabled f s && siteBound c s && !runs c
  | .unmapped => false

/-- The die whose memory an address falls in; where unmapped, the requester's (14 R432, 0307h). -/
def addrDie (a req : Nat) : Nat :=
  match areaOf a with
  | .hbm s _ => s / 2
  | .mrdimm ch _ => ch / 2
  | .store s _ => s / 48
  | .opc s _ => s / 48
  | .unmapped => req

/-- A refused background access is counted and recorded (07 R202). Requesters: 0 steward, 1 host,
2 cart, 3 engine. -/
def refuseAccess (c : Chip) (a who die : Nat) : Chip :=
  report (addReg c (key 0x4033 1) 1) 0x0307 (.die (addrDie a die)) .apart
    [a % 4294967296, a / 4294967296, who]

/-- A background read of one granule. -/
def bgRead (f : Fuses) (c : Chip) (a who die : Nat) : Chip × List Byte × Bool :=
  let a := a / 64 * 64
  if reachable f c a then
    let r := readGran c a .apart false
    if inWork c a then
      let b := freeBytes r.1 64
      (b.1, b.2, r.2.2)
    else r
  else (refuseAccess c a who die, List.replicate 64 0, true)

/-- A background write within one granule. -/
def bgWrite (f : Fuses) (c : Chip) (a : Nat) (d : List Byte) (en : Nat) (p : Bool) (who die : Nat) : Chip :=
  let a := a / 64 * 64
  if reachable f c a then soilFrame (writePart c a d en p) a
  else refuseAccess c a who die

/-- A background write of a run of bytes, granule by granule from the lowest; `fuel` bounds the
granules. -/
def bgWriteRun (f : Fuses) (who die : Nat) : Nat → Chip → Nat → List Byte → (Nat → Bool) → Chip
  | 0, c, _, _, _ => c
  | fuel + 1, c, a, d, pz =>
    if d.isEmpty then c
    else
      let o := a % 64
      let n := min (64 - o) d.length
      let g := List.replicate o 0 ++ d.take n
      let en := (2 ^ n - 1) * 2 ^ o
      let c := bgWrite f c a g en (pz a) who die
      bgWriteRun f who die fuel c (a + n) (d.drop n) pz

end Sys2Proof.Machine
end

