-- ==== Sys2Proof/Machine/Ops.lean ====
section
/-! DEFINITION. Named operations over tiles: registers, predicate registers, address registers, slot
counters and data queues (04 R92 R114, 05 R123 to R128). The block takes no exception: where the spec
raises an error or an interrupt, `report` and `fireMsix` of Errors.lean are the shared operations. -/

namespace Sys2Proof.Machine

/-- The tile at a site. -/
def tileAt (c : Chip) (site : Nat) : Tile := smGet Tile.reset c.tiles site

/-- Put a tile. -/
def setTile (c : Chip) (site : Nat) (t : Tile) : Chip :=
  { c with tiles := smSet Tile.reset c.tiles site t }

/-- Change a tile. -/
def modTile (c : Chip) (site : Nat) (f : Tile → Tile) : Chip := setTile c site (f (tileAt c site))

/-- The sequencer of a die. -/
def seqAt (c : Chip) (d : Nat) : Seq := smGet Seq.start c.seqs d

/-- Put a sequencer. -/
def setSeq (c : Chip) (d : Nat) (q : Seq) : Chip := { c with seqs := smSet Seq.start c.seqs d q }

/-- A vector register (04 R92). -/
def vreg (t : Tile) (r : Nat) : VReg := smGet VReg.zero t.v r

/-- Put a vector register. -/
def setVreg (t : Tile) (r : Nat) (v : VReg) : Tile := { t with v := smSet VReg.zero t.v r v }

/-- A lane of a register. -/
def lane (v : VReg) (l : Nat) : Word := v.lanes.getD l 0

/-- Poison of the granule a lane lies in. -/
def laneBad (v : VReg) (l : Nat) : Bool := v.poison.getD (l / 16) false

/-- A predicate register; p0 reads as all ones and carries no taint (04 R92). -/
def preg (t : Tile) (p : Nat) : PReg :=
  if p = 0 then ⟨ones64, false⟩ else smGet ⟨0, false⟩ t.p p

/-- Write a predicate register; writes to p0 are discarded (04 R92). -/
def setPreg (t : Tile) (p : Nat) (x : PReg) : Tile :=
  if p = 0 then t else { t with p := smSet ⟨0, false⟩ t.p p x }

/-- An address register; a0 reads as 0 (04 R92). -/
def areg (t : Tile) (a : Nat) : Nat := if a = 0 then 0 else smGet 0 t.a a

/-- Write an address register, modulo 2^16; writes to a0 are discarded. -/
def setAreg (t : Tile) (a x : Nat) : Tile :=
  if a = 0 then t else { t with a := smSet 0 t.a a (x % 65536) }

/-- A slot counter (04 R110). -/
def slotCtr (t : Tile) (e : Nat) : Nat := smGet 0 t.slots e

/-- Write a slot counter, 16 bits. -/
def setSlotCtr (t : Tile) (e x : Nat) : Tile := { t with slots := smSet 0 t.slots e (x % 65536) }

/-- A lane value with its taint (04 R114). -/
abbrev TW := Word × Bool

/-- A source lane: of the register, or lane 0 where broadcast (04 R98). -/
def srcLane (t : Tile) (s : Src) (l : Nat) : TW :=
  let v := vreg t s.r.val
  let l := if s.b then 0 else l
  (lane v l, laneBad v l)

/-- A lane of a plain source register. -/
def regLane (t : Tile) (r l : Nat) : TW := (lane (vreg t r) l, laneBad (vreg t r) l)

/-- A register after lanes are written. `f l` is what is written to lane l with its taint, none where
the lane stays. A granule is poisoned when a written lane is tainted, or when it was poisoned and a
lane of it stays (04 R114). -/
def writeLanes (old : VReg) (f : Nat → Option TW) : VReg :=
  { lanes := (List.range 64).map (fun l => match f l with
      | some w => w.1
      | none => lane old l),
    poison := (List.range 4).map (fun g =>
      (List.range 16).any (fun i => match f (16 * g + i) with
        | some w => w.2
        | none => old.poison.getD g false)) }

/-- Write a result under the governing predicate: active lanes take their value, inactive ones stay
or take +0 by the mode; a tainted governing predicate, or a tainted one that selects, taints every lane
(04 R93 R114). -/
def writeVecUnder (bad : Bool) (t : Tile) (g : Gov) (vd : Nat) (f : Nat → TW) : Tile :=
  let p := preg t g.p.val
  let old := vreg t vd
  let bad := p.taint || bad
  setVreg t vd (writeLanes old (fun l =>
    if p.val.testBit l then some ((f l).1, (f l).2 || bad)
    else if g.zero then some (0, bad)
    else if bad then some (lane old l, true)
    else none))

/-- The same where only the governing predicate can taint every lane. -/
def writeVec (t : Tile) (g : Gov) (vd : Nat) (f : Nat → TW) : Tile := writeVecUnder false t g vd f

/-- Write every lane whatever the predicate; taint from the predicate as well. -/
def writeAll (t : Tile) (g : Gov) (vd : Nat) (f : Nat → TW) : Tile :=
  let p := preg t g.p.val
  setVreg t vd (writeLanes (vreg t vd) (fun l => some ((f l).1, (f l).2 || p.taint)))

/-- The number whose bit l is f l, for 64 lanes. -/
def laneBits (f : Nat → Bool) : Nat :=
  (List.range 64).foldl (fun n l => if f l then n + 2 ^ l else n) 0

/-- Write a comparison or slot outcome: active lanes give their bit, inactive ones 0 (04 R98 R110). -/
def writeCmp (t : Tile) (g : Gov) (pd : Nat) (f : Nat → Bool × Bool) : Tile :=
  let p := preg t g.p.val
  setPreg t pd
    ⟨laneBits (fun l => p.val.testBit l && (f l).1),
     p.taint || (List.range 64).any (fun l => p.val.testBit l && (f l).2)⟩

/-- Write a predicate operation's result under merge or zero (04 R93). -/
def writePred (t : Tile) (g : Gov) (pd : Nat) (f : Nat → Bool × Bool) : Tile :=
  let p := preg t g.p.val
  let old := preg t pd
  setPreg t pd
    ⟨laneBits (fun l => if p.val.testBit l then (f l).1 else if g.zero then false else old.val.testBit l),
     p.taint || (List.range 64).any (fun l => p.val.testBit l && (f l).2)⟩

/-! ## Data queues (05 R126 to R128) -/

/-- A queue of the tile. -/
def queueAt (t : Tile) (q : Nat) : DQueue := smGet DQueue.empty t.q q

/-- Put a queue. -/
def setQueue (t : Tile) (q : Nat) (x : DQueue) : Tile := { t with q := smSet DQueue.empty t.q q x }

/-- a is earlier than b by 16-bit serial arithmetic (05 R128). -/
def serialLt (a b : Nat) : Bool :=
  let d := (b + 65536 - a) % 65536
  decide (0 < d) && decide (d < 32768)

/-- What becomes of a pushed entry (05 R128): held, lost to a full queue, or late. -/
inductive Pushed where
  | held | lost | late
  deriving DecidableEq, Repr

/-- A push in a cycle: the entry takes the push count as its tag. A full queue loses it; one whose tag is earlier than the
pop count is late (05 R128). -/
def qPush (q : DQueue) (now : Nat) (data : List Byte) (poison : Bool) : DQueue × Pushed :=
  let e : DEntry := ⟨q.push, now, data, poison⟩
  let q' := { q with push := (q.push + 1) % 65536 }
  if 32 ≤ q.entries.length then (q', .lost)
  else if serialLt e.tag q.pop then (q', .late)
  else ({ q' with entries := q'.entries ++ [e] }, .held)

/-- What a read finds (05 R128): the entry, an empty queue, or a head with a later tag. -/
inductive QRead where
  | got (e : DEntry)
  | empty
  | later
  deriving DecidableEq, Repr

/-- Look at the head in a cycle: an entry can be read from two cycles after it was written (05 R126). -/
def qPeek (q : DQueue) (now : Nat) : QRead :=
  match q.entries with
  | [] => .empty
  | e :: _ => if now < e.wrote + 2 then .empty else if e.tag = q.pop then .got e else .later

/-- Take the head entry. -/
def qTake (q : DQueue) : DQueue := { q with entries := q.entries.drop 1, pop := (q.pop + 1) % 65536 }

/-- Pass a missing entry: the pop count advances, and entries whose tags it passes are discarded.
Answers the queue and the entries discarded late (05 R128 R129). -/
def qSkip (q : DQueue) : DQueue × Nat :=
  let pop := (q.pop + 1) % 65536
  let keep := q.entries.filter (fun e => !serialLt e.tag pop)
  ({ q with entries := keep, pop := pop }, q.entries.length - keep.length)

/-- A site issues an instruction: it is bound, with the mask bit the selector names (05 R123 R124). -/
def siteIssues (c : Chip) (i : Issue) (site : Nat) : Bool :=
  (tileAt c site).ti != 0xFFFF && (tileAt c site).mask.testBit i.sel.val

/-- The tile sites of a die, in order. -/
def dieSites (d : Nat) : List Nat := (List.range 48).map (fun n => 48 * d + n)

/-- The tile sites of a die that issue an instruction. -/
def issueSites (c : Chip) (i : Issue) : List Nat := (dieSites i.die.val).filter (siteIssues c i)

/-- Apply an effect to each issuing tile, in site order. -/
def onSites (c : Chip) (i : Issue) (f : Chip → Nat → Chip) : Chip := (issueSites c i).foldl f c

end Sys2Proof.Machine
end

