-- ==== Sys2Proof/Machine/Flags.lean ====
section
/-! DEFINITION. Event bits, stream faults and their counters (02 R64, 04 R115 R116, 05 R147 R148). -/

namespace Sys2Proof.Machine

/-- Collect vector event bits (04 R115). -/
def vecEv (c : Chip) (b : Nat) : Chip := { c with acc := { c.acc with vec := c.acc.vec ||| b } }

/-- Collect conversion event bits (02 R64). -/
def convEv (c : Chip) (b : Nat) : Chip := { c with acc := { c.acc with conv := c.acc.conv ||| b } }

/-- The IEEE policy is in force (02 R54). -/
def ieee (c : Chip) : Bool := reg c (key 0x3001 1) == 1

/-- Elastic stall mode is in force (03 R82). -/
def elastic (c : Chip) : Bool := reg c (key 0x3010 1) == 1

/-- OR of a lane's events over the active lanes (04 R93). -/
def laneEv (t : Tile) (g : Gov) (f : Nat → Nat) : Nat :=
  let p := preg t g.p.val
  (List.range 64).foldl (fun b l => if p.val.testBit l then b ||| f l else b) 0

/-- The number of active lanes with a property. -/
def laneCount (t : Tile) (g : Gov) (f : Nat → Bool) : Nat :=
  let p := preg t g.p.val
  ((List.range 64).filter (fun l => p.val.testBit l && f l)).length

/-- A stream fault of row `row` of R147 in a tile: counted at the boundary, reported once for each
kind, tile and step. -/
def streamFault (c : Chip) (row site n : Nat) : Chip :=
  if n = 0 then c
  else
    reportOnce (bump c (key 0x3050 row) n) row site 0x0601 (.tile site) .cycle [row, n]

/-- Push an entry to a queue of a tile in the present cycle (05 R128 R147). -/
def pushTo (c : Chip) (site q : Nat) (data : List Byte) (poison : Bool) : Chip :=
  let r := qPush (queueAt (tileAt c site) q) c.plan.cyc data poison
  let c := modTile c site (fun t => setQueue t q r.1)
  match r.2 with
  | .held => c
  | .lost => streamFault c 1 site 1
  | .late => streamFault c 3 site 1

/-- Read a queue of a tile: answers the entry, none where it is missing, which is counted but where the tile has stalled for
it and counted it already (05 R129 R147). -/
def readQueue (counted : List Nat) (c : Chip) (site q : Nat) : Chip × Option DEntry :=
  let dq := queueAt (tileAt c site) q
  match qPeek dq c.plan.cyc with
  | .got e => (modTile c site (fun t => setQueue t q (qTake dq)), some e)
  | _ =>
    let r := qSkip dq
    let known := counted.contains q
    let c := modTile c site (fun t => setQueue { t with stalled := if known then t.stalled.erase q else t.stalled } q r.1)
    (streamFault (if known then c else streamFault c 2 site 1) 3 site r.2, none)

/-- Read a queue of a tile where a missing entry is met at once. -/
def readFrom (c : Chip) (site q : Nat) : Chip × Option DEntry := readQueue [] c site q

/-- What leaves now lands in a later cycle. -/
def launch (c : Chip) (cycle : Nat) (x : Landing) : Chip := { c with flying := c.flying ++ [⟨cycle, x⟩] }

end Sys2Proof.Machine
end

