-- ==== Sys2Proof/Machine/Operands.lean ====
section
/-! DEFINITION. Operand forms of the access stream: line address expressions and tile-store lines
(05 R130, 07 R186), the tile operand of MVT and MRX (05 R132), and region lines (07 R199 R209,
08 R235). -/

namespace Sys2Proof.Machine

/-- The value of a line address expression, exactly (05 R130). -/
def lineVal (c : Chip) (i : Issue) (t : Tile) (a : LineAddr) : Int :=
  a.base + (t.ti : Int) * a.sT + (i.c0 : Int) * a.s0 + (i.c1 : Int) * a.s1 + (i.c2 : Int) * a.s2 +
    (i.c3 : Int) * a.s3 +
    (match a.bp with
      | some j => signed 32 (c.plan.params.getD j.val 0)
      | none => 0)

/-- A line number below a bound, none where out of range (05 R130). -/
def inRange (x : Int) (n : Nat) : Option Nat :=
  if 0 ≤ x ∧ x < (n : Int) then some x.toNat else none

/-- A line address out of range (05 R130 R147). -/
def lineFault (c : Chip) (site : Nat) : Chip := streamFault c 6 site 1

/-- Read a tile-store line by its signed number (05 R130, 07 R186). -/
def readLine (c : Chip) (site : Nat) (x : Int) : Chip × List Byte × Bool :=
  match inRange x 49152 with
  | some n => readGran c (lineAddr site n) .cycle false
  | none => (lineFault c site, List.replicate 64 0, true)

/-- Write a tile-store line. -/
def writeLine (c : Chip) (site : Nat) (x : Int) (d : List Byte) (p : Bool) : Chip :=
  match inRange x 49152 with
  | some n => writeGran c (lineAddr site n) d p
  | none => lineFault c site

/-- The logical tile a tile operand names (05 R132). -/
def tileNum (c : Chip) (t : Tile) (r : TileRef) : Nat :=
  match r, c.plan.image with
  | .abs n, _ => n
  | .rel k, some im => (((t.ti : Int) + k) % ((4 * im.hdr.tpd : Nat) : Int)).toNat
  | .rel k, none => ((t.ti : Int) + k).toNat

/-- The site of a logical tile. -/
def siteOf (c : Chip) (n : Nat) : Option Nat :=
  match c.plan.place with
  | some pl => pl.sites[n]?
  | none => none

/-- A region of the plan by number. -/
def regionOf (c : Chip) (n : Nat) : Option Region :=
  match c.plan.image with
  | some im => im.regions.find? (fun r => r.num == n)
  | none => none

/-- Where a binding puts line l: unit and byte offset within stack or channel (07 R199). -/
def bindLine (b : Bind) (l : Nat) : Nat × Nat :=
  let base := if b.quarter = 0xFF then b.off else b.quarter * 0x500000000 + b.off
  match b.unit2 with
  | none => (b.unit, base + 64 * l)
  | some u2 =>
    let k := l / 64
    (if k % 2 = 0 then b.unit else u2, base + 4096 * (k / 2) + 64 * (l % 64))

/-- Module address of line l of a binding. -/
def bindAddr (b : Bind) (l : Nat) : Nat :=
  let (u, o) := bindLine b l
  if b.quarter = 0xFF then mrdAddr u o else hbmAddr u o

/-- The HBM binding of a region. -/
def hbmBind (c : Chip) (n : Nat) : Option Bind :=
  match c.plan.place with
  | some pl => pl.hbm.find? (fun b => b.region == n)
  | none => none

/-- The MRDIMM binding of a region. -/
def mrdBind (c : Chip) (n : Nat) : Option Bind :=
  match c.plan.place with
  | some pl => pl.mrd.find? (fun b => b.region == n)
  | none => none

/-- A pool's residence state, by region number (07 R208). -/
def poolAt (c : Chip) (n : Nat) : Pool := smGet Pool.reset c.pools n

/-- Put a pool. -/
def setPool (c : Chip) (n : Nat) (p : Pool) : Chip := { c with pools := smSet Pool.reset c.pools n p }

/-- A page of a pool. -/
def pageAt (p : Pool) (n : Nat) : PageSt := smGet PageSt.reset p.pages n

/-- Module address of line l of a region of tier 0 or 1 (07 R199). -/
def regionAddr (c : Chip) (r : Region) (l : Nat) : Nat :=
  if r.tier = 0 then
    match hbmBind c r.num with
    | some b => bindAddr b l
    | none => 0
  else
    match mrdBind c r.num with
    | some b => bindAddr b l
    | none => 0

/-- Module address of pool line l in its slot (07 R208). -/
def slotAddr (c : Chip) (n l : Nat) : Nat :=
  match mrdBind c n with
  | some b => bindAddr b l
  | none => 0

/-- Module address of line l of a frame (07 R208). -/
def frameAddr (c : Chip) (n f l : Nat) : Nat :=
  match hbmBind c n with
  | some b => bindAddr b (1024 * f + l)
  | none => 0

/-- The unit number of R203 that serves an address: 0 to 7 the stacks, 8 to 15 the channels. -/
def unitOf (a : Nat) : Nat :=
  match areaOf a with
  | .hbm s _ => s
  | .mrdimm ch _ => 8 + ch
  | _ => 0

end Sys2Proof.Machine
end

