-- ==== Sys2Proof/Machine/Lanes.lean ====
section
/-! DEFINITION. What each vector instruction does in one tile that issues it (04). Every definition
takes the operands, the chip and the tile's site. -/

namespace Sys2Proof.Machine

/-! ## Floating point (04 R97 to R101) -/

/-- A two-operand FP32 operation with its arithmetic events (04 R98 R115). -/
def tFp2 (op : Bool → Word → Word → Word × Nat) (g : Gov) (vd a : Nat) (b : Src) (c : Chip) (site : Nat) : Chip :=
  let t := tileAt c site
  let r := fun l => op (ieee c) (regLane t a l).1 (srcLane t b l).1
  let c := vecEv c (laneEv t g (fun l => (r l).2))
  setTile c site (writeVec t g vd (fun l => ((r l).1, (regLane t a l).2 || (srcLane t b l).2)))

/-- The fused multiply-add (04 R98). -/
def tFma (g : Gov) (vd a : Nat) (b d : Src) (c : Chip) (site : Nat) : Chip :=
  let t := tileAt c site
  let r := fun l => ffma (ieee c) (regLane t a l).1 (srcLane t b l).1 (srcLane t d l).1
  let c := vecEv c (laneEv t g (fun l => (r l).2))
  setTile c site (writeVec t g vd
    (fun l => ((r l).1, (regLane t a l).2 || (srcLane t b l).2 || (srcLane t d l).2)))

/-- A one-operand FP32 operation with its arithmetic events (04 R98 R100). -/
def tFp1 (op : Bool → Word → Word × Nat) (g : Gov) (vd a : Nat) (c : Chip) (site : Nat) : Chip :=
  let t := tileAt c site
  let r := fun l => op (ieee c) (regLane t a l).1
  let c := vecEv c (laneEv t g (fun l => (r l).2))
  setTile c site (writeVec t g vd (fun l => ((r l).1, (regLane t a l).2)))

/-- VABS of one lane (04 R98). -/
def fabs (w : Word) : Word := if isNaN32 w then f32NaN else w &&& 0x7FFFFFFF

/-- VNEG of one lane (04 R98). -/
def fneg (w : Word) : Word := if isNaN32 w then f32NaN else w ^^^ 0x80000000

/-- A comparison into a predicate register (04 R98 R102). -/
def tCmp (op : Word → Word → Bool) (g : Gov) (pd a : Nat) (b : Src) (c : Chip) (site : Nat) : Chip :=
  modTile c site (fun t => writeCmp t g pd
    (fun l => (op (regLane t a l).1 (srcLane t b l).1, (regLane t a l).2 || (srcLane t b l).2)))

/-- VSEL: lane select under ps, whose taint taints every lane (04 R98 R114). -/
def tSel (g : Gov) (vd a : Nat) (b : Src) (ps : Nat) (c : Chip) (site : Nat) : Chip :=
  modTile c site (fun t =>
    let s := preg t ps
    writeVecUnder s.taint t g vd (fun l => if s.val.testBit l then regLane t a l else srcLane t b l))

/-- One level of the pairwise tree: n sums from 2n values, with the events (04 R99). -/
def sumLevel (ie : Bool) : List Word → List Word × Nat
  | x :: y :: t =>
    let s := fadd ie x y
    let r := sumLevel ie t
    (s.1 :: r.1, s.2 ||| r.2)
  | l => (l, 0)

/-- The tree of R99 with fuel for its levels. -/
def sumTree (ie : Bool) : Nat → List Word → Nat → List Word × Nat
  | 0, l, e => (l, e)
  | k + 1, l, e =>
    let r := sumLevel ie l
    sumTree ie k r.1 (e ||| r.2)

/-- The active lanes' values, inactive ones replaced. -/
def activeOr (t : Tile) (g : Gov) (a : Nat) (d : Word) : List Word :=
  let p := preg t g.p.val
  (List.range 64).map (fun l => if p.val.testBit l then lane (vreg t a) l else d)

/-- Some active lane is tainted (04 R114). -/
def anyTaint (t : Tile) (g : Gov) (a : Nat) : Bool :=
  let p := preg t g.p.val
  (List.range 64).any (fun l => p.val.testBit l && laneBad (vreg t a) l)

/-- VRSUM (04 R99). -/
def tRsum (g : Gov) (vd a : Nat) (c : Chip) (site : Nat) : Chip :=
  let t := tileAt c site
  let r := sumTree (ieee c) 6 (activeOr t g a 0x80000000) 0
  let w := r.1.getD 0 0
  setTile (vecEv c r.2) site (writeAll t g vd (fun _ => (w, anyTaint t g a)))

/-- The maximum over the lanes under the ordering of VMAX, NaN where any is (04 R99). -/
def maxLanes (l : List Word) : Word :=
  match l with
  | [] => 0xFF800000
  | x :: t => t.foldl fmax (if isNaN32 x then f32NaN else x)

/-- VRMAX (04 R99). -/
def tRmax (g : Gov) (vd a : Nat) (c : Chip) (site : Nat) : Chip :=
  modTile c site (fun t =>
    let m := maxLanes (activeOr t g a 0xFF800000)
    writeAll t g vd (fun _ => (m, anyTaint t g a)))

/-- VRMAXI: the maximum, and the lowest lane that holds it in lane 0 of the next register (04 R99). -/
def tRmaxi (g : Gov) (vd a : Nat) (c : Chip) (site : Nat) : Chip :=
  modTile c site (fun t =>
    let l := activeOr t g a 0xFF800000
    let m := maxLanes l
    let hit := fun w => if isNaN32 m then isNaN32 w else w == m
    let ix := (l.findIdx? hit).getD 0
    let bad := anyTaint t g a || (preg t g.p.val).taint
    let t := writeAll t g vd (fun _ => (m, bad))
    setVreg t (vd + 1) (writeLanes (vreg t (vd + 1))
      (fun k => if k = 0 then some (BitVec.ofNat 32 ix, bad) else none)))

/-! ## Integer, moves and predicates (04 R102 R94) -/

/-- A two-operand lane operation without events (04 R102). -/
def tInt2 (op : Word → Word → Word) (g : Gov) (vd a b : Nat) (c : Chip) (site : Nat) : Chip :=
  modTile c site (fun t => writeVec t g vd
    (fun l => (op (regLane t a l).1 (regLane t b l).1, (regLane t a l).2 || (regLane t b l).2)))

/-- A one-operand lane operation without events. -/
def tInt1 (op : Word → Word) (g : Gov) (vd a : Nat) (c : Chip) (site : Nat) : Chip :=
  modTile c site (fun t => writeVec t g vd (fun l => (op (regLane t a l).1, (regLane t a l).2)))

/-- Clamp to INT32 (04 R102). -/
def satInt (x : Int) : Word :=
  BitVec.ofInt 32 (max (-2147483648) (min 2147483647 x))

/-- IADDS of one lane. -/
def iadds (a b : Word) : Word := satInt (a.toInt + b.toInt)

/-- ISUBS of one lane. -/
def isubs (a b : Word) : Word := satInt (a.toInt - b.toInt)

/-- IMULH of one lane: the high 32 bits of the 64-bit product. -/
def imulh (u : Bool) (a b : Word) : Word :=
  if u then BitVec.ofNat 32 (a.toNat * b.toNat / 4294967296)
  else BitVec.ofInt 32 ((a.toInt * b.toInt) / 4294967296)

/-- IMIN of one lane. -/
def imin (u : Bool) (a b : Word) : Word :=
  if u then (if b.toNat < a.toNat then b else a) else (if b.toInt < a.toInt then b else a)

/-- IMAX of one lane. -/
def imax (u : Bool) (a b : Word) : Word :=
  if u then (if a.toNat < b.toNat then b else a) else (if a.toInt < b.toInt then b else a)

/-- VSHL of one lane: amounts of 32 or more give 0. -/
def ishl (a b : Word) : Word := if b.toNat < 32 then a <<< b.toNat else 0

/-- VSHR of one lane. -/
def ishr (a b : Word) : Word := if b.toNat < 32 then a >>> b.toNat else 0

/-- VSRA of one lane: amounts of 32 or more give copies of the sign bit. -/
def isra (a b : Word) : Word := a.sshiftRight (min 31 b.toNat)

/-- ICMP of one lane. -/
def icmpLane (cc : Cc) (u : Bool) (a b : Word) : Bool :=
  if u then ccInt cc (a.toNat : Int) (b.toNat : Int) else ccInt cc a.toInt b.toInt

/-- IMAD (04 R102). -/
def tImad (g : Gov) (vd a b d : Nat) (c : Chip) (site : Nat) : Chip :=
  modTile c site (fun t => writeVec t g vd
    (fun l => ((regLane t a l).1 * (regLane t b l).1 + (regLane t d l).1,
      (regLane t a l).2 || (regLane t b l).2 || (regLane t d l).2)))

/-- A value that depends on the lane number alone. -/
def tConst (f : Tile → Nat → Word) (g : Gov) (vd : Nat) (c : Chip) (site : Nat) : Chip :=
  modTile c site (fun t => writeVec t g vd (fun l => (f t l, false)))

/-- VPERM: lane l takes lane vi[l]; an index outside 0 to 63 gives +0 and event bit [0] (04 R102). -/
def tPerm (g : Gov) (vd a vi : Nat) (c : Chip) (site : Nat) : Chip :=
  let t := tileAt c site
  let ix := fun l => (regLane t vi l).1.toNat
  let c := vecEv c (laneEv t g (fun l => if ix l < 64 then 0 else 1))
  setTile c site (writeVec t g vd (fun l =>
    if ix l < 64 then ((regLane t a (ix l)).1, (regLane t a (ix l)).2 || (regLane t vi l).2)
    else (0, (regLane t vi l).2)))

/-- A two-operand predicate operation (04 R102). -/
def tPred2 (op : Bool → Bool → Bool) (g : Gov) (pd a b : Nat) (c : Chip) (site : Nat) : Chip :=
  modTile c site (fun t =>
    let x := preg t a
    let y := preg t b
    writePred t g pd (fun l => (op (x.val.testBit l) (y.val.testBit l), x.taint || y.taint)))

/-- PNOT. -/
def tPnot (g : Gov) (pd a : Nat) (c : Chip) (site : Nat) : Chip :=
  modTile c site (fun t =>
    let x := preg t a
    writePred t g pd (fun l => (!x.val.testBit l, x.taint)))

/-- PFROM: bit l is 1 where lane l is not 00000000h. -/
def tPfrom (g : Gov) (pd a : Nat) (c : Chip) (site : Nat) : Chip :=
  modTile c site (fun t => writePred t g pd (fun l => ((regLane t a l).1 != 0, (regLane t a l).2)))

/-- VPCNT: the number of 1 bits of ps in every active lane. -/
def tPcnt (g : Gov) (vd ps : Nat) (c : Chip) (site : Nat) : Chip :=
  modTile c site (fun t =>
    let x := preg t ps
    let n := ((List.range 64).filter (fun l => x.val.testBit l)).length
    writeVec t g vd (fun _ => (BitVec.ofNat 32 n, x.taint)))

/-- AMOV. -/
def tAmov (ad imm : Nat) (c : Chip) (site : Nat) : Chip :=
  modTile c site (fun t => setAreg t ad imm)

/-- AADD, modulo 2^16. -/
def tAadd (ad imm : Nat) (c : Chip) (site : Nat) : Chip :=
  modTile c site (fun t => setAreg t ad (areg t ad + imm))

/-- AFROM: bits [15:0] of lane 0. -/
def tAfrom (ad a : Nat) (c : Chip) (site : Nat) : Chip :=
  modTile c site (fun t => setAreg t ad (lane (vreg t a) 0).toNat)

/-! ## Conversions (04 R103 R104) -/

/-- VCVT of one lane: result and conversion events. -/
def cvtLane (ie : Bool) (d : Cvt) (m : RMode) (w : Word) : Word × Nat :=
  match d with
  | .toInt =>
    let r := convert .int32 ie m (f32 w)
    (BitVec.ofNat 32 r.1, r.2)
  | .toBf16 =>
    let r := convert .bf16 ie m (f32 w)
    (BitVec.ofNat 32 r.1, r.2)
  | .toFp16 =>
    let r := convert .fp16 ie m (f32 w)
    (BitVec.ofNat 32 r.1, r.2)
  | .fromInt =>
    let r := convert .fp32 ie .rne (intVal w.toInt)
    (BitVec.ofNat 32 r.1, r.2)
  | .fromBf16 =>
    let r := convert .fp32 ie m (decodeFmt .bf16 (w.toNat % 65536))
    (BitVec.ofNat 32 r.1, r.2)
  | .fromFp16 =>
    let r := convert .fp32 ie m (decodeFmt .fp16 (w.toNat % 65536))
    (BitVec.ofNat 32 r.1, r.2)

/-- VCVT. -/
def tCvt (g : Gov) (d : Cvt) (m : RMode) (vd a : Nat) (c : Chip) (site : Nat) : Chip :=
  let t := tileAt c site
  let r := fun l => cvtLane (ieee c) d m (regLane t a l).1
  let c := convEv c (laneEv t g (fun l => (r l).2))
  setTile c site (writeVec t g vd (fun l => ((r l).1, (regLane t a l).2)))

/-- The 256-byte image of a register (04 R92). -/
def vregBytes (v : VReg) : List Byte := (List.range 64).flatMap (fun l => leBytes 4 (lane v l).toNat)

/-- A lane of a 256-byte image. -/
def imageLane (bs : List Byte) (l : Nat) : Word := BitVec.ofNat 32 (field bs (4 * l) 4)

/-- The lanes of one block of VQNT, inactive ones as +0 (04 R104). -/
def quantBlock (t : Tile) (g : Gov) (a b : Nat) : List FVal :=
  let p := preg t g.p.val
  (List.range 32).map (fun i =>
    let l := 32 * b + i
    f32 (if p.val.testBit l then lane (vreg t a) l else 0))

/-- The values of a block a result is computed from are tainted: its 32 lanes, active or not (04 R114). -/
def blockTaint (t : Tile) (g : Gov) (a b : Nat) : Bool :=
  (preg t g.p.val).taint || (List.range 32).any (fun i => laneBad (vreg t a) (32 * b + i))

/-- VQNT (04 R104, 02 R49 R56 R57). Where vk is also vd the scale codes are written last, over the packed elements in
lanes 0 and 1: DESIGN CHOICE, as R104 gives no order (log 36). -/
def tQnt (g : Gov) (vd a vk : Nat) (f : Fmt) (sc : QScale) (o : Nat) (c : Chip) (site : Nat) : Chip :=
  let t := tileAt c site
  let w := fmtWidth f
  let k := fun b => match sc with
    | .computed => blockScale f (quantBlock t g a b)
    | .given => (lane (vreg t vk) b).toNat % 256
    | .unscaled => 127
  let kBad := fun b => match sc with
    | .given => laneBad (vreg t vk) b
    | _ => false
  let q := fun b => (quantBlock t g a b).map (quantElem f (ieee c) (k b))
  let codes := (q 0 ++ q 1).map (·.1)
  let p := preg t g.p.val
  let ev := ((q 0 ++ q 1).zipIdx).foldl
    (fun e (x, l) => if p.val.testBit l then e ||| x.2 else e) 0
  let n := 8 * w
  let bytes := leBytes n (packElems w codes)
  let old := vreg t vd
  let img := splice (vregBytes old) o bytes
  let bad := fun b => blockTaint t g a b || kBad b
  -- bytes of block b lie at o + 4 w b for 4 w bytes; a lane is written where one of them falls in it
  let hit := fun b l => decide (4 * l < o + 4 * w * (b + 1)) && decide (o + 4 * w * b < 4 * l + 4)
  let t := setVreg t vd (writeLanes old (fun l =>
    if hit 0 l || hit 1 l then
      some (imageLane img l, (hit 0 l && bad 0) || (hit 1 l && bad 1) ||
        -- a lane written in part keeps the poison of the part that stays
        (laneBad old l && !(decide (o ≤ 4 * l) && decide (4 * l + 4 ≤ o + n))))
    else none))
  let t := match sc with
    | .computed =>
      setVreg t vk (writeLanes (vreg t vk) (fun l =>
        if l < 2 then some (BitVec.ofNat 32 (k l), blockTaint t g a l) else none))
    | _ => t
  setTile (convEv c ev) site t

/-- VDQ (04 R104, 02 R53). -/
def tDq (g : Gov) (vd a vk : Nat) (f : Fmt) (scaled : Bool) (o : Nat) (c : Chip) (site : Nat) : Chip :=
  let t := tileAt c site
  let w := fmtWidth f
  let src := vregBytes (vreg t a)
  let stream := leNat (slice src o (8 * w))
  let k := fun b => if scaled then (lane (vreg t vk) b).toNat % 256 else 127
  let r := fun l => dequantElem f (ieee c) (k (l / 32)) (packedElem w stream l)
  let bad := fun l =>
    let lo := (8 * o + w * l) / 32
    let hi := (8 * o + w * l + w - 1) / 32
    laneBad (vreg t a) lo || laneBad (vreg t a) hi || (scaled && laneBad (vreg t vk) (l / 32))
  let c := convEv c (laneEv t g (fun l => (r l).2))
  setTile c site (writeVec t g vd (fun l => (BitVec.ofNat 32 (r l).1, bad l)))

end Sys2Proof.Machine
end

