-- ==== Sys2Proof/Machine/Cache.lean ====
section
/-! DEFINITION. Operand cache, data queues and slot counters of the execute stream (04 R105 to R111
R114). Every definition takes the operands, the chip and the tile's site. -/

namespace Sys2Proof.Machine

/-! ## Words of the operand cache -/

/-- The bits of word w of the operand cache that a stored error inverts. -/
def wordMask (m : EccMark) (w : Nat) : Nat := (m.mask >>> (32 * (w % 16))) % 4294967296

/-- A read of word w: an error in it is corrected and logged, or taints the lane, poisons the word's granule and is logged;
the other words of the granule are as they were (04 R112). -/
def readWord (c : Chip) (site w : Nat) : Chip × TW :=
  let a := wordAddr site (w / 16 * 16)
  let m := markAt c (a / 64)
  let k := wordMask m w
  let v := field (memBytes c.mem (wordAddr site w) 4) 0 4
  if k = 0 then (c, BitVec.ofNat 32 v, granPoison c a)
  else if m.unc then
    (reportI m.injected (addReg { c with poison := nsInsert c.poison (a / 64) } (key 0x4031 8) 1) 0x0204 (.tile site) .cycle
      [0, w], BitVec.ofNat 32 (v ^^^ k), true)
  else (reportI m.injected (addReg c (key 0x4031 7) 1) 0x0203 (.tile site) .cycle [0, w], BitVec.ofNat 32 v, granPoison c a)

/-- Read each of a list of words once. -/
def readEach (c : Chip) (site : Nat) (ws : List Nat) : Chip × SMap TW :=
  ws.foldl (fun (c, m) w =>
    let r := readWord c site w
    (r.1, smInsert m w r.2)) (c, [])

/-- Read the words the lanes name (04 R105). -/
def readWords (c : Chip) (site : Nat) (ws : List Nat) : Chip × (Nat → TW) :=
  let r := readEach c site (ws.foldl nsInsert [])
  (r.1, fun w => smGet ((0 : Word), false) r.2 w)

/-- The bits of a granule's words, as a mask over 512 bits. -/
def wordsMask (ws : List Nat) : Nat := ws.foldl (fun m i => m ||| (0xFFFFFFFF <<< (32 * i))) 0

/-- Write words into one granule: value and taint by place; `before` are those that earlier rounds of the store wrote. The
granule is poisoned where a word written is tainted or `hurt`, or where it was poisoned and a word stays (04 R114); a stored
error of the words written is gone. -/
def writeGranWords (c : Chip) (site g : Nat) (ws : List (Nat × TW)) (hurt : Bool) (before : List (Nat × Bool)) : Chip :=
  let a := wordAddr site (16 * g)
  let old := memBytes c.mem a 64
  let d := ws.foldl (fun d (i, v, _) => splice d (4 * i) (leBytes 4 v.toNat)) old
  let places := ws.foldl (fun s (i, _) => nsInsert s i) []
  let whole := before.foldl (fun s x => nsInsert s x.1) places
  let p := hurt || ws.any (fun (_, _, t) => t) || before.any (·.2) || (granPoison c a && decide (whole.length < 16))
  let m := markAt c (a / 64)
  let k := m.mask &&& ((2 ^ 512 - 1) ^^^ wordsMask places)
  let mark := if k = 0 then EccMark.none else { m with mask := k }
  let c := dropFlaw c (.granule (a / 64))
  { c with mem := setBytes c.mem a d, poison := nsPut c.poison (a / 64) p,
           ecc := smSet EccMark.none c.ecc (a / 64) mark }

/-- Write words (a later one over an earlier one) and poison granules outright. -/
def writeWords (c : Chip) (site : Nat) (ws : List (Nat × TW)) (hurt : List Nat) (before : List (Nat × Bool)) : Chip :=
  let gs := ws.foldl (fun s (w, _) => nsInsert s (w / 16)) hurt
  gs.foldl (fun c g =>
    writeGranWords c site g
      ((ws.filter (fun (w, _) => w / 16 == g)).map (fun (w, v) => (w % 16, v))) (nsMem hurt g)
      ((before.filter (fun x => x.1 / 16 == g)).map (fun x => (x.1 % 16, x.2)))) c

/-! ## Loads and stores (04 R106) -/

/-- The word a lane addresses, none where out of range. -/
def wordOf (x : Int) : Option Nat := inRange x 65536

/-- The address of a contiguous operation: a plus the signed immediate. -/
def contAddr (t : Tile) (ad : Nat) (imm : BitVec 16) : Int := (areg t ad : Int) + imm.toInt

/-- The lanes active under the governing predicate, rising. -/
def activeLanes (t : Tile) (g : Gov) : List Nat :=
  let p := preg t g.p.val
  (List.range 64).filter (fun l => p.val.testBit l)

/-- Load lanes from the words `f` addresses (04 R106): out of range gives +0 and event bit [0]. -/
def loadLanes (g : Gov) (v : Nat) (f : Nat → Option Nat) (c : Chip) (site : Nat) : Chip :=
  let t := tileAt c site
  let c := vecEv c (laneEv t g (fun l => if (f l).isSome then 0 else 1))
  let r := readWords c site ((activeLanes t g).filterMap f)
  modTile r.1 site (fun t => writeVec t g v (fun l => match f l with
    | some w => r.2 w
    | none => (0, false)))

/-- VLD. -/
def tVld (g : Gov) (v ad : Nat) (imm : BitVec 16) (c : Chip) (site : Nat) : Chip :=
  let a := contAddr (tileAt c site) ad imm
  loadLanes g v (fun l => wordOf (a + l)) c site

/-- VLDB. -/
def tVldb (g : Gov) (v ad : Nat) (imm : BitVec 16) (c : Chip) (site : Nat) : Chip :=
  let a := contAddr (tileAt c site) ad imm
  loadLanes g v (fun _ => wordOf a) c site

/-- A store enters its rounds: each is written at the end of its cycle, so that a line of the access stream read in it
finds what stood there before (04 R105 R107). -/
def putStores (c : Chip) (site : Nat) (rounds : List StoreRound) : Chip :=
  modTile c site (fun t => { t with stores := t.stores ++ rounds })

/-- The end of a cycle: the round of the store in progress is written. -/
def storeCycle (c : Chip) (site : Nat) : Chip :=
  match (tileAt c site).stores with
  | [] => c
  | r :: rest =>
    writeWords (modTile c site (fun t => { t with stores := rest })) site r.words r.hurt r.before

/-- VST: out of range writes nothing and sets event bit [0]. -/
def tVst (g : Gov) (v ad : Nat) (imm : BitVec 16) (c : Chip) (site : Nat) : Chip :=
  let t := tileAt c site
  let a := contAddr t ad imm
  let p := preg t g.p.val
  let f := fun l : Nat => wordOf (a + l)
  let c := vecEv c (laneEv t g (fun l => if (f l).isSome then 0 else 1))
  putStores c site
    [⟨(activeLanes t g).filterMap (fun l =>
      (f l).map (fun w => (w, lane (vreg t v) l, laneBad (vreg t v) l || p.taint))), [], []⟩]

/-! ## Gather and scatter (04 R107) -/

/-- The word of each active lane of a gather or scatter, in lane order; none where out of range. -/
def gathWords (t : Tile) (g : Gov) (vi ad : Nat) : List (Nat × Option Nat) :=
  (activeLanes t g).map (fun l => (l, wordOf ((areg t ad : Int) + (lane (vreg t vi) l).toInt)))

/-- The distinct words of a list of lanes, in lane order. -/
def distinctWords (ls : List (Nat × Option Nat)) : List Nat :=
  (ls.foldl (fun acc (_, w) => match w with
    | some w => if acc.contains w then acc else w :: acc
    | none => acc) []).reverse

/-- The round of each distinct word: how many distinct words of its bank come before it in lane order, as 04 R107 has it for
a gather; for a scatter it gives no order, and the model keeps the same one: DESIGN CHOICE (log 36). -/
def wordRounds (ls : List (Nat × Option Nat)) : List (Nat × Nat) :=
  let ws := distinctWords ls
  ws.zipIdx.map (fun (w, i) => (w, ((ws.take i).filter (fun x => x % 64 == w % 64)).length))

/-- The words served in b rounds. -/
def servedWords (ls : List (Nat × Option Nat)) (b : Nat) : List Nat :=
  ((wordRounds ls).filter (fun x => decide (x.2 < b))).map (·.1)

/-- The words of each of the b rounds, as far as there are any. -/
def roundWords (ls : List (Nat × Option Nat)) (b : Nat) : List (List Nat) :=
  let ws := wordRounds ls
  ((List.range b).map (fun k => (ws.filter (fun x => x.2 == k)).map (·.1))).filter (fun l => !l.isEmpty)

/-- The lanes left unserved are counted, set event bit [1], and the first instruction of the step is
reported (04 R107, 14 R432). -/
def unserved (c : Chip) (site n : Nat) : Chip :=
  if n = 0 then c
  else
    reportOnce (bump (vecEv c 2) (key 0x3040 1) n) 8 site 0x0603 (.tile site) .cycle [n]

/-- The register of a VGATH whose words are read: active lanes take what they got, inactive ones stay or take +0 by the
mode (04 R93 R107 R114). -/
def gathered (p : Gathering) (t : Tile) : Tile :=
  setVreg t p.vd (writeLanes (vreg t p.vd) (fun l =>
    if p.gov.val.testBit l then
      match p.got.find? (fun x => x.1 == l) with
      | some x => some (x.2.1, x.2.2 || p.gov.taint)
      | none => some (0, true)
    else if p.zero then some (0, p.gov.taint)
    else if p.gov.taint then some (lane (vreg t p.vd) l, true) else none))

/-- A round of a VGATH: its words are read; after the last round the register is written. -/
def gathRound (c : Chip) (site : Nat) : Chip :=
  match (tileAt c site).gath with
  | none => c
  | some p =>
    let now := p.rounds.headD []
    let r := readWords c site (now.map (fun x => x.2.1))
    let p := { p with rounds := p.rounds.drop 1,
                      got := p.got ++ now.map (fun x => (x.1, (r.2 x.2.1).1, (r.2 x.2.1).2 || x.2.2)) }
    modTile r.1 site (fun t =>
      if p.rounds.isEmpty then { gathered p t with gath := none } else { t with gath := some p })

/-- VGATH: its first round reads in the cycle of issue, each later one in the cycle after. -/
def tVgath (g : Gov) (vd vi ad b : Nat) (c : Chip) (site : Nat) : Chip :=
  let t := tileAt c site
  let ls := gathWords t g vi ad
  let ok := servedWords ls b
  let served := fun (w : Option Nat) => match w with
    | some w => ok.contains w
    | none => false
  let c := vecEv c (if ls.any (fun x => x.2.isNone) then 1 else 0)
  let c := unserved c site (ls.filter (fun x => x.2.isSome && !served x.2)).length
  -- lanes out of range, and lanes left unserved, which are tainted
  let other := (ls.filter (fun x => !served x.2)).map (fun x =>
    (x.1, (0 : Word), if x.2.isSome then true else laneBad (vreg t vi) x.1))
  let rounds := (roundWords ls b).map (fun ws => ls.filterMap (fun x => match x.2 with
    | some w => if ws.contains w then some (x.1, w, laneBad (vreg t vi) x.1) else none
    | none => none))
  gathRound (modTile c site (fun t => { t with gath := some ⟨preg t g.p.val, g.zero, vd, rounds, other⟩ })) site

/-- VSCAT: each round writes its words at the end of its cycle; the last one poisons the granules of words left
unserved. -/
def tVscat (g : Gov) (vs vi ad b : Nat) (c : Chip) (site : Nat) : Chip :=
  let t := tileAt c site
  let p := preg t g.p.val
  let ls := gathWords t g vi ad
  let ok := servedWords ls b
  let c := vecEv c (if ls.any (fun (_, w) => w.isNone) then 1 else 0)
  let lanesOf := fun w => (ls.filter (fun (_, x) => x == some w)).map (·.1)
  let c := vecEv c (if (distinctWords ls).any (fun w => decide (1 < (lanesOf w).length)) then 4 else 0)
  let bad := (distinctWords ls).filter (fun w => !ok.contains w)
  let miss := bad.foldl (fun n w => n + (lanesOf w).length) 0
  let c := unserved c site miss
  let hurt := bad.foldl (fun s w => nsInsert s (w / 16)) []
  let taint := fun w => p.taint || (lanesOf w).any (fun l => laneBad (vreg t vs) l || laneBad (vreg t vi) l)
  let rounds := roundWords ls b
  putStores c site (rounds.zipIdx.map (fun (ws, k) => StoreRound.mk
    (ws.map (fun w => (w, lane (vreg t vs) ((lanesOf w).getLastD 0), taint w)))
    (if k + 1 = b then hurt else []) ((rounds.take k).flatten.map (fun w => (w, taint w)))))

/-! ## Queues (04 R94 R96, 05 R128 R129) -/

/-- VPOP begins: it reads an entry in this cycle and in each of the next three. -/
def tVpop (g : Gov) (vd q : Nat) (c : Chip) (site : Nat) : Chip :=
  modTile c site (fun t => { t with pop := some ⟨preg t g.p.val, g.zero, vd, q, 0⟩ })

/-- Lanes 16 i to 16 i + 15 of the register of a VPOP from entry i; a missing entry gives +0, tainted. -/
def popLanes (p : Popping) (e : Option DEntry) (t : Tile) : Tile :=
  let val : Nat → TW := fun l => match e with
    | some e => (BitVec.ofNat 32 (field e.data (4 * (l % 16)) 4), e.poison)
    | none => (0, true)
  setVreg t p.vd (writeLanes (vreg t p.vd) (fun l =>
    if l / 16 ≠ p.i then none
    else if p.gov.val.testBit l then some ((val l).1, (val l).2 || p.gov.taint)
    else if p.zero then some (0, p.gov.taint)
    else if p.gov.taint then some (lane (vreg t p.vd) l, true) else none))

/-- A cycle of a VPOP: one entry. -/
def popCycle (c : Chip) (site : Nat) : Chip :=
  match (tileAt c site).pop with
  | none => c
  | some p =>
    let r := readQueue (tileAt c site).stalled c site p.q
    modTile r.1 site (fun t =>
      { popLanes p r.2 t with pop := if p.i < 3 then some { p with i := p.i + 1 } else none })

/-- The cycle from which a queue of a tile may be given a new entry by a VPUSH: entries on their way to it come first. Only
in a tile that catches up can one be that late. -/
def pushFrom (c : Chip) (site q : Nat) : Nat :=
  maxNat ((c.flying.filter (fun f => match f.what with
    | .entry s p _ _ => s == site && p == q
    | _ => false)).map (fun f => f.cycle + 1))

/-- VPUSH: the register leaves as four entries, one a cycle from the next, whatever the predicate. DESIGN CHOICE
(log 16). -/
def tVpush (g : Gov) (vs q : Nat) (c : Chip) (site : Nat) : Chip :=
  let t := tileAt c site
  let p := preg t g.p.val
  let v := vreg t vs
  let at' := max (c.plan.cyc + 1) (if t.lag = 0 then 0 else pushFrom c site q)
  (List.range 4).foldl (fun c (i : Nat) =>
    launch c (at' + i)
      (.entry site q ((List.range 16).flatMap (fun k => leBytes 4 (lane v (16 * i + k)).toNat))
        (v.poison.getD i false || p.taint))) c

/-! ## Slot counters (04 R110) -/

/-- The state a VSLOT carries from lane to lane: the tile, what the lanes receive and their bits,
the lanes assigned and dropped, the events. -/
structure SlotRun where
  t : Tile
  out : List (Nat × Word)
  bits : Nat
  assigned : Nat
  dropped : Nat
  ev : Nat

/-- One active lane of VSLOT. -/
def slotLane (ve cap : Nat) (r : SlotRun) (l : Nat) : SlotRun :=
  let e := (lane (vreg r.t ve) l).toInt
  match inRange e 256 with
  | none => { r with out := (l, 0xFFFFFFFF) :: r.out, ev := 32 }
  | some n =>
    let k := slotCtr r.t n
    if k < cap then
      { r with t := setSlotCtr r.t n (k + 1), out := (l, BitVec.ofNat 32 k) :: r.out,
               bits := setBit r.bits l, assigned := r.assigned + 1 }
    else { r with out := (l, 0xFFFFFFFF) :: r.out, dropped := r.dropped + 1 }

/-- VSLOT. -/
def tVslot (g : Gov) (vd pd ve cap : Nat) (c : Chip) (site : Nat) : Chip :=
  let t := tileAt c site
  let p := preg t g.p.val
  let taint := t.slotTaint || p.taint || anyTaint t g ve
  let r := (activeLanes t g).foldl (slotLane ve cap)
    { t := { t with slotTaint := taint }, out := [], bits := 0, assigned := 0, dropped := 0, ev := 0 }
  let val := fun l => match r.out.find? (fun x => x.1 == l) with
    | some x => x.2
    | none => 0
  let t := writeVecUnder (taint && g.zero) r.t g vd (fun l => (val l, taint))
  let t := setPreg t pd ⟨r.bits, taint⟩
  let c := vecEv (bump (bump c (key 0x3040 2) r.assigned) (key 0x3040 3) r.dropped) r.ev
  setTile c site t

/-- VSLMSK. With the slot counter file tainted every lane written is tainted, in zero mode the inactive ones as well
(04 R114). -/
def tVslmsk (g : Gov) (vd : Nat) (e : SlotSel) (c : Chip) (site : Nat) : Chip :=
  modTile c site (fun t =>
    let n := match e with
      | .imm e => e.val
      | .areg a => areg t a.val % 256
    let m := 2 ^ min (slotCtr t n) 256 - 1
    writeVecUnder (t.slotTaint && g.zero) t g vd (fun l =>
      (if l < 8 then BitVec.ofNat 32 (m >>> (32 * l)) else 0, t.slotTaint)))

/-- VSLRD. -/
def tVslrd (g : Gov) (vd grp : Nat) (c : Chip) (site : Nat) : Chip :=
  modTile c site (fun t =>
    writeVecUnder (t.slotTaint && g.zero) t g vd
      (fun l => (BitVec.ofNat 32 (slotCtr t (64 * grp + l)), t.slotTaint)))

/-- VSLSET. -/
def tVslset (g : Gov) (vs grp : Nat) (c : Chip) (site : Nat) : Chip :=
  modTile c site (fun t =>
    let p := preg t g.p.val
    let ls := activeLanes t g
    let t' := ls.foldl (fun t l => setSlotCtr t (64 * grp + l) (lane (vreg t vs) l).toNat) t
    { t' with slotTaint := t.slotTaint ||
                ls.any (fun l => laneBad (vreg t vs) l || p.taint) })

/-- VSLCLR. -/
def tVslclr (c : Chip) (site : Nat) : Chip :=
  modTile c site (fun t => { t with slots := [], slotTaint := false })

end Sys2Proof.Machine
end

