-- ==== Sys2Proof/Machine/Array.lean ====
section
/-! DEFINITION. The matrix array of a tile (03): weight tiles, streamed vectors, the two ports that
wait for operands, and the drain. -/

namespace Sys2Proof.Machine

/-! ## Geometry (03 R68 to R70 R75) -/

/-- A 6-bit format. -/
def sixBit : Fmt → Bool
  | .e2m3 | .e3m2 => true
  | _ => false

/-- Elements of one cell: P of R69. -/
def cellElems : Fmt → Nat
  | .ternary => 4
  | .e2m1 | .int4 => 2
  | _ => 1

/-- Bytes of a weight row, which is also the number of data entries of a weight tile. -/
def rowBytes (f : Fmt) : Nat := if sixBit f then 96 else 128

/-- Output columns. -/
def outCols (f : Fmt) : Nat := if noScale f then 64 else 128

/-- Scale entries of a weight tile: 4, 8 or 16. -/
def scaleEntries (f : Fmt) : Nat := if noScale f then 0 else 4 * cellElems f

/-- The pairings of R68: the weight format and the activation operand of an MSTR. -/
def pairing (w : Option Fmt) (f : Fmt) (qa : QSrc) : Bool :=
  let pair := match qa with
    | .pair _ => true
    | .one _ => false
  let four := f == .e2m1 || f == .int4
  match w with
  | none => false
  | some .ternary => four && pair
  | some .e2m1 => four && !pair
  | some .int4 => four && !pair
  | some .bf16 => noScale f && !pair
  | some .fp16 => noScale f && !pair
  | some .fp32 => false
  | some .int32 => false
  | some _ => !four && !noScale f && arrayFmt f && f != .ternary && !pair

/-! ## Weight tiles -/

/-- The bytes of an entry taken, d for a missing one. -/
def entryBytes (d : Byte) (e : Option DEntry) : List Byte :=
  match e with
  | some e => slice e.data 0 64
  | none => List.replicate 64 d

/-- An entry is poisoned. -/
def entryBad (l : List (Option DEntry)) (i : Nat) : Bool :=
  match l.getD i none with
  | some e => e.poison
  | none => false

/-- Some bit of column col of the weights lies in a poisoned entry (03 R89). -/
def colBad (f : Fmt) (rows : List (Option DEntry)) (col : Nat) : Bool :=
  let w := cellElems f * fmtWidth f
  (List.range 64).any (fun r =>
    let o := rowBytes f * r
    entryBad rows ((o + col * w / 8) / 64) || entryBad rows ((o + (col * w + w - 1) / 8) / 64))

/-- The weight tile that a finished MPRE loads (03 R69 R70 R83 R89). Of a row that spans queue entries of which only some
are missing, the bytes of the missing ones are zero and the others stay: DESIGN CHOICE (log 36). -/
def buildTile (p : PreCmd) : WTile :=
  let bad :=
    if (p.rows ++ p.scs).any (·.isNone) then List.range 8
    else (List.range 8).filter (fun g =>
      (List.range 16).any (fun k =>
        let col := 16 * g + k
        decide (col < outCols p.f) &&
          (colBad p.f p.rows col || entryBad p.scs (col * 2 * cellElems p.f / 64))))
  { fmt := some p.f, cells := p.rows.flatMap (entryBytes 0), scales := p.scs.flatMap (entryBytes 0x7F),
    scaled := p.qs.isSome, bad := bad, flips := [] }

/-- The scale code of block b of column col (03 R70). -/
def tileScale (w : WTile) (f : Fmt) (col b : Nat) : Nat :=
  if w.scaled then (w.scales.getD (col * (2 * cellElems f) + b) 0x7F).toNat else 0x7F

/-- The elements of each column, row group by row group: for group g of column col its 16 P values
(03 R69 R71). -/
def tileGroup (w : WTile) (f : Fmt) (rows : List Nat) (col g : Nat) : List FVal :=
  let p := cellElems f
  (List.range 16).flatMap (fun i =>
    let r := 16 * g + i
    (List.range p).map (fun k =>
      elemVal f (packedElem (fmtWidth f) (rows.getD r 0) (col * p + k))
        (tileScale w f col ((p * r + k) / 32))))

/-- The rows of a weight tile as they were loaded, as numbers. -/
def loadedRows (w : WTile) (f : Fmt) : List Nat :=
  (List.range 64).map (fun r => leNat (slice w.cells (rowBytes f * r) (rowBytes f)))

/-- A row with the upsets of its weight registers. -/
def upsetRow (w : WTile) (f : Fmt) (r x : Nat) : Nat :=
  let n := cellElems f * fmtWidth f
  w.flips.foldl (fun x u => if u.1 = r then x ^^^ ((u.2.2 % 2 ^ n) <<< (u.2.1 * n)) else x) x

/-- The rows of a weight tile as its registers hold them, as numbers. -/
def tileRows (w : WTile) (f : Fmt) : List Nat :=
  if w.flips.isEmpty then loadedRows w f else (loadedRows w f).zipIdx.map (fun (x, r) => upsetRow w f r x)

/-! ## One vector through one column (03 R71 R72) -/

/-- The exact sum of a group's products, with the special values of R72. -/
structure GSum where
  nan : Bool
  pinf : Bool
  ninf : Bool
  allNeg : Bool
  sum : Dyad

/-- One more product. -/
def gsumAdd (s : GSum) (v : FVal) : GSum :=
  match v with
  | .nan => { s with nan := true }
  | .inf n => if n then { s with ninf := true } else { s with pinf := true }
  | .fin n m e =>
    { s with allNeg := s.allNeg && (m == 0 && n),
             sum := if m = 0 then s.sum else dyadAdd s.sum (dyad n m e) }

/-- The group sum of the products of two lists of values, as a value. -/
def groupSum (ws as : List FVal) : FVal :=
  let s := ((ws.zip as).map (fun (w, a) => mulVal w a)).foldl gsumAdd ⟨false, false, false, true, ⟨0, 0⟩⟩
  if s.nan || (s.pinf && s.ninf) then .nan
  else if s.pinf then .inf false
  else if s.ninf then .inf true
  else .fin (if s.sum.m = 0 then s.allNeg else s.sum.m < 0) s.sum.m.natAbs s.sum.e

/-- The four group sums of a column, rounded (03 R71). -/
def columnSums (ie : Bool) (ws as : List (List FVal)) : List Word :=
  (ws.zip as).map (fun (w, a) => (valF32 ie (groupSum w a)).1)

/-- Group sums added in order to a column's value (03 R71). -/
def columnAdd (ie : Bool) (acc : Word) (sums : List Word) : Word :=
  sums.foldl (fun acc x => (addVal ie (f32 acc) (f32 x)).1) acc

/-! ## The accumulator (03 R67 R78 to R80) -/

/-- A column of an entry as the file holds it, without what is on its way. -/
def accAt (a : Arr) (e col : Nat) : Word := smGet 0 a.acc (128 * e + col)

/-- Write a column of the file. -/
def setAcc (a : Arr) (e col : Nat) (w : Word) : Arr :=
  { a with acc := smSet 0 a.acc (128 * e + col) w }

/-- Poison or clear a granule of an entry of the file. -/
def setAccPoison (a : Arr) (e g : Nat) (b : Bool) : Arr :=
  { a with accPoison := nsPut a.accPoison (8 * e + g) b }

/-- The value −0. -/
def negZero : Word := 0x80000000

/-- An FP32 addition whose aligned sum comes out `more` units of its last place too large (03 R87). -/
def addUpset (ie : Bool) (more : Nat) (a b : Word) : Word :=
  match f32 a, f32 b with
  | .fin n m e, .fin n' m' e' =>
    let s := dyadAdd (dyad n m e) (dyad n' m' e')
    let s : Dyad := ⟨s.m + more, s.e⟩
    (valF32 ie (.fin (decide (s.m < 0)) s.m.natAbs s.e)).1
  | x, y => (addVal ie x y).1

/-- Group sums added in order to a column's value, with the upsets of its additions (03 R87). -/
def columnUpset (ie : Bool) (ups : List AddUpset) (acc : Word) (sums : List Word) : Word :=
  sums.zipIdx.foldl (fun acc (x, r) =>
    let mine := ups.filter (fun u => u.row == r)
    let more := mine.foldl (fun n u => n + u.more) 0
    let mask := mine.foldl (fun n u => n ^^^ u.mask) 0
    (if more = 0 then (addVal ie (f32 acc) (f32 x)).1 else addUpset ie more acc x) ^^^ BitVec.ofNat 32 mask) acc

/-- What a vector makes of a column: its row groups added in order. -/
def vecColumn (ie : Bool) (ups : List AddUpset) (col : Nat) (acc : Word) (sums : List Word) : Word :=
  let mine := ups.filter (fun u => u.col == col)
  if mine.isEmpty then columnAdd ie acc sums else columnUpset ie mine acc sums

/-- The array cycle in which a vector reads column col of its entry, and the one in which it writes it (03 R78). -/
def vecReads (t : Nat) (wide : Bool) (col : Nat) : Nat := t + if wide then 7 + 2 * (col % 64) else 6 + col

/-- See `vecReads`. -/
def vecWrites (t : Nat) (wide : Bool) (col : Nat) : Nat := t + if wide then 11 + 2 * (col % 64) else 10 + col

/-- When what is on its way changes the value of a column of an entry: twice the array cycle at whose end it is written, and
one more where an error is found in a cycle. A wide vector writes columns 0 to 63 alone (03 R75), and one that forms no
product and is not fresh writes none (03 R77 R83). The write of −0 by a drain with clear falls at the end of the cycle in
which it reads, the one after its issue: DESIGN CHOICE, as 03 R79 says no more than after the read (log 36). -/
def opWrites (op : AccOp) (e col : Nat) : Option Nat :=
  match op with
  | .vec t e' wide fresh _ sums _ _ =>
    if e' = e ∧ (!wide || decide (col < 64)) ∧ (fresh || sums.isSome) then some (2 * vecWrites t wide col) else none
  | .clear t e' h => if e' = e ∧ col / 64 = h then some (2 * (t + 1)) else none
  | .flip t e' k _ => if e' = e ∧ k = col then some (2 * t + 1) else none

/-- A drain with clear. -/
def isClear : AccOp → Bool
  | .clear .. => true
  | _ => false

/-- What of two changes of a column is kept: the later; of two of one cycle the stream's over the clear (03 R79). -/
def laterOp (best : Option (Nat × AccOp)) (w : Nat) (op : AccOp) : Option (Nat × AccOp) :=
  match best with
  | none => some (w, op)
  | some b => if b.1 < w ∨ (b.1 = w ∧ !isClear op) then some (w, op) else best

/-- The last change of a column before an instant. -/
def lastWrite (ops : List AccOp) (e col at' : Nat) : Option AccOp :=
  (ops.foldl (fun best op => match opWrites op e col with
    | some w => if w < at' then laterOp best w op else best
    | none => best) none).map (·.2)

/-- The value of a column and its poison as a read at an instant (twice the array cycle) finds them: the file's, after the
changes before. A vector adds to what stands there in the cycle of its own read, 4 cycles before it writes (03 R78), so of
two vectors less than 5 cycles apart the later one loses the earlier one's contribution (03 R80). `fuel` bounds the
changes. -/
def accSeen (a : Arr) (e col : Nat) : Nat → Nat → Word × Bool
  | 0, _ => (accAt a e col, nsMem a.accPoison (8 * e + col / 16))
  | fuel + 1, at' =>
    match lastWrite a.ops e col at' with
    | none => (accAt a e col, nsMem a.accPoison (8 * e + col / 16))
    | some (.clear ..) => (negZero, false)
    | some (.flip t _ _ mask) => ((accSeen a e col fuel (2 * t + 1)).1 ^^^ BitVec.ofNat 32 mask, true)
    | some (.vec t _ wide fresh ie sums bad ups) =>
      let old := if fresh then (negZero, false) else accSeen a e col fuel (2 * vecReads t wide col)
      (match sums with
        | some s => vecColumn ie ups col old.1 (s.getD col [])
        | none => old.1, old.2 || bad.contains (col / 16))

/-- When what is on its way poisons the granule of a column of an entry: a vector as it passes the column (of the columns
that a wide vector does not write, the one 64 before), an error found as it is found (03 R83 R88 R89). -/
def opPoisons (op : AccOp) (e col : Nat) : Option Nat :=
  match op with
  | .vec t e' wide _ _ _ bad _ => if e' = e ∧ bad.contains (col / 16) then some (2 * vecWrites t wide col) else none
  | .clear .. => none
  | .flip t e' k _ => if e' = e ∧ k / 16 = col / 16 then some (2 * t + 1) else none

/-- When what is on its way clears the poison of a column: a fresh vector, or a drain with clear (03 R89). -/
def opCleans (op : AccOp) (e col : Nat) : Option Nat :=
  match op with
  | .vec _ _ _ fresh .. => if fresh then opWrites op e col else none
  | .clear .. => opWrites op e col
  | .flip .. => none

/-- The last clearing of a column's poison before an instant. -/
def lastClean (ops : List AccOp) (e col at' : Nat) : Option Nat :=
  ((ops.filterMap (fun op => opCleans op e col)).filter (fun w => decide (w < at'))).foldl
    (fun b w => some (max w (b.getD 0))) none

/-- The granule of a column is poisoned at an instant: something poisoned it and no fresh vector and no clear has come
since (03 R89). -/
def stickyBad (a : Arr) (e col at' : Nat) : Bool :=
  let clean := lastClean a.ops e col at'
  (clean.isNone && nsMem a.accPoison (8 * e + col / 16)) ||
    (a.ops.filterMap (fun op => opPoisons op e col)).any (fun w => decide (w < at') && decide (clean.getD 0 ≤ w))

/-- A column and its poison as a read in an array cycle finds them: after the changes of earlier cycles. -/
def accRead (a : Arr) (e col cycle : Nat) : Word × Bool :=
  let r := accSeen a e col (a.ops.length + 1) (2 * cycle)
  (r.1, r.2 || stickyBad a e col (2 * cycle))

/-- A column with its granule's poison: a granule is poisoned where a column of it is. -/
def granRead (a : Arr) (e g cycle : Nat) : Bool :=
  (List.range 16).any (fun k => (accRead a e (16 * g + k) cycle).2)

/-- Every column of an entry that an op concerns is changed before an array cycle. -/
def opDone (now : Nat) : AccOp → Bool
  | .vec t .. => decide (t + 138 ≤ now)
  | .clear t _ _ => decide (t + 2 ≤ now)
  | .flip t _ _ _ => decide (t + 1 ≤ now)

/-- The entry that an op concerns. -/
def opEntry : AccOp → Nat
  | .vec _ e .. => e
  | .clear _ e _ => e
  | .flip _ e _ _ => e

/-- An entry on the way to which nothing is any more enters the file. -/
def foldEntry (now : Nat) (a : Arr) (e : Nat) : Arr :=
  let mine := a.ops.filter (fun op => opEntry op == e)
  if !mine.isEmpty && mine.all (opDone now) then
    let b := (List.range 128).foldl (fun b col => setAcc b e col (accRead a e col now).1) a
    let b := (List.range 8).foldl (fun b g => setAccPoison b e g (granRead a e g now)) b
    { b with ops := a.ops.filter (fun op => opEntry op != e) }
  else a

/-! ## Streaming a vector (03 R71 R75 R77 R83 R89 R111) -/

/-- The data entries a vector's bytes lie in, from the entries held. -/
def vecEntries (m : MStr) : List (Option DEntry) :=
  if sixBit m.f then
    let j := m.done % 4
    (m.got.drop (48 * j / 64)).take ((48 * j + 47) / 64 + 1 - 48 * j / 64)
  else m.got

/-- The bytes of the vector. -/
def vecBytes (m : MStr) : List Byte :=
  if sixBit m.f then slice (m.got.flatMap (entryBytes 0)) (48 * (m.done % 4)) 48
  else m.got.flatMap (entryBytes 0)

/-- The activation elements by row group. -/
def actGroups (m : MStr) (p : Nat) : List (List FVal) :=
  let s := leNat (vecBytes m)
  let sc := m.sc.flatMap (entryBytes 0x7F)
  (List.range 4).map (fun g =>
    (List.range (16 * p)).map (fun i =>
      let k := 16 * p * g + i
      elemVal m.f (packedElem (fmtWidth m.f) s k)
        (if m.qs.isSome then (sc.getD (k / 32) 0x7F).toNat else 0x7F)))

/-- A value is a zero: the operand is gated (03 R86). -/
def isZeroVal : FVal → Bool
  | .fin _ m _ => m == 0
  | _ => false

/-- Zero-gated cell-cycles of a valid vector: cells each of whose multiplies has a zero operand, four
for each logical column of a 16-bit pairing (03 R86 R91). DEDUCED (log 17). -/
def gatedCells (f wf : Fmt) (m : MStr) (rows : List Nat) : Nat :=
  let p := cellElems wf
  let s := leNat (vecBytes m)
  let az := fun k => isZeroVal (decodeFmt f (packedElem (fmtWidth f) s k))
  let n := (List.range 64).foldl (fun n r =>
    n + ((List.range (outCols wf)).filter (fun col =>
      (List.range p).all (fun k => az (p * r + k) ||
        isZeroVal (decodeFmt wf (packedElem (fmtWidth wf) (rows.getD r 0) (col * p + k)))))).length) 0
  if noScale wf then 4 * n else n

/-- The exact sum of a row group of a column, the rows given (03 R71). -/
def groupAt (w : WTile) (wf : Fmt) (rows : List Nat) (acts : List (List FVal)) (col g : Nat) : FVal :=
  groupSum (tileGroup w wf rows col g) (acts.getD g [])

/-- The values that a valid vector's row groups add, column by column. -/
def streamSums (ie : Bool) (a : Arr) (wf : Fmt) (m : MStr) : List (List Word) :=
  let rows := tileRows a.active wf
  let acts := actGroups m (cellElems wf)
  (List.range (outCols wf)).map (fun col => columnSums ie ((List.range 4).map (tileGroup a.active wf rows col)) acts)

/-- A valid vector against weights of no pairing of R68: the load checks leave no such plan, and it adds free values.
Log 12. -/
def straySums (c : Chip) (m : MStr) : List (List Word) :=
  (List.range (outCols m.f)).map (fun col => [BitVec.ofNat 32 (Config.freeNat (c.free + col))])

/-- The array cycle of a tile: the cycles that have passed less the tile's lag. A lagging tile performs the cycles of its
schedule that much later, and one more of them in a cycle that catches up (03 R84): DESIGN CHOICE (log 36). -/
def arrClock (c : Chip) (t : Tile) : Nat := c.plan.cyc - t.lag

/-- Change the array of a tile. -/
def modArr (c : Chip) (site : Nat) (f : Arr → Arr) : Chip :=
  modTile c site (fun t => { t with arr := f t.arr })

/-! ## ECC of the accumulator file (03 R67 R88) -/

/-- The error strikes an entry's column of a tile's accumulator file, one of columns lo to hi − 1. -/
def inColumns (site e lo hi : Nat) : Spot → Bool
  | .column s e' col => s == site && e' == e && decide (lo ≤ col) && decide (col < hi)
  | _ => false

/-- A read of the accumulator file finds an error: corrected and logged, or the value stays as stored and its granule is
poisoned (03 R88, 14 R432). -/
def accFound (c : Chip) (site : Nat) (f : Flaw) : Chip :=
  match f.spot with
  | .column _ e col =>
    let c := dropFlaw c f.spot
    if f.unc then
      report (modTile c site (fun t =>
        { t with arr := { t.arr with ops := t.arr.ops ++ [.flip (arrClock c t) e col (f.mask % 2 ^ 32)] } })) 0x0204
        (.tile site) .cycle [3, e]
    else report c 0x0203 (.tile site) .cycle [3, e]
  | _ => c

/-- Columns lo to hi − 1 of an entry are read. -/
def accCheck (c : Chip) (site e lo hi : Nat) : Chip :=
  (flawsOf c (inColumns site e lo hi)).foldl (fun c f => accFound c site f) c

/-- They are written without being read. -/
def accFresh (c : Chip) (site e lo hi : Nat) : Chip :=
  (flawsOf c (inColumns site e lo hi)).foldl (fun c f => dropFlaw c f.spot) c

/-- A vector is on its way to its entry, the array cycle `t` having presented it. -/
def putVector (c : Chip) (site t : Nat) (m : MStr) (sums : Option (List (List Word))) (bad : List Nat)
    (ups : List AddUpset) : Chip :=
  let e := (m.e + m.done) % 256
  let c := if m.fresh then accFresh c site e 0 (outCols m.f)
    else if sums.isSome then accCheck c site e 0 (outCols m.f) else c
  modArr c site (fun a =>
    let a := foldEntry t a e
    { a with ops := a.ops ++ [.vec t e (noScale m.f) m.fresh (ieee c) sums bad ups] })

/-- The sums of a valid vector and its counts: of a pairing of R68, or free. -/
def validSums (c : Chip) (a : Arr) (m : MStr) : Chip × List (List Word) :=
  match a.active.fmt with
  | some wf =>
    if pairing a.active.fmt m.f m.qa then
      (bump (bump c (key 0x3030 1) 1) (key 0x3030 5) (gatedCells m.f wf m (tileRows a.active wf)), streamSums (ieee c) a wf m)
    else ({ bump c (key 0x3030 1) 1 with free := c.free + 128 }, straySums c m)
  | none => ({ bump c (key 0x3030 1) 1 with free := c.free + 128 }, straySums c m)

/-! ## Residue checks (03 R87 R88) -/

/-- The residue check of a column and row group fails: the value stays, its granule is poisoned, and the mismatch is
reported and counted (03 R88 R91). -/
def residueFails (injected : Bool) (c : Chip) (site col row e : Nat) : Chip :=
  reportI injected (bump c (key 0x3030 6) 1) 0x0101 (.tile site) .cycle [col, row, e]

/-- An injection of kind 1 that waits for a valid vector at this tile (14 R444). -/
def injArray (c : Chip) (site : Nat) : Option Inject :=
  injFor c (fun j => j.kind == 1 && bits j.loc 7 0 == site)

/-- The residues modulo 3 of two exact sums differ. A power of two is no multiple of 3, so the place of the last bit does not
matter. A sum that is infinite or NaN has no residue, and differs from every other: DESIGN CHOICE (log 37). -/
def residueDiffers (p s : FVal) : Bool :=
  match p, s with
  | .fin n m e, .fin n' m' e' => (dyadAdd (dyad n m e) (dyad (!n') m' e')).m % 3 != 0
  | p, s => p != s

/-- An upset of a row-group adder inverts bits of its output (03 R87). -/
def upsetSum (mask : Nat) (v : FVal) : FVal :=
  match v with
  | .fin n m e => .fin n (m ^^^ mask) e
  | v => v

/-- An upset strikes the sums of a tile's array in one of its columns. -/
def inCells (site cols : Nat) : Spot → Bool
  | .cell s col _ => s == site && decide (col < cols)
  | .adder s col _ => s == site && decide (col < cols)
  | .rounder s col _ _ => s == site && decide (col < cols)
  | _ => false

/-- An upset strikes a weight register of a tile. -/
def inWeights (site : Nat) : Spot → Bool
  | .weight s _ _ => s == site
  | _ => false

/-- Upsets of weight registers enter the active tile, where they stay until it is loaded again (03 R87). -/
def upsetWeights (c : Chip) (site : Nat) : Chip :=
  (flawsOf c (inWeights site)).foldl (fun c f => match f.spot with
    | .weight _ row col =>
      modArr (dropFlaw c f.spot) site (fun a =>
        { a with active := { a.active with flips := a.active.flips ++ [(row, col, f.mask)] } })
    | _ => c) c

/-- What the checks of one vector leave: the chip, the values that the row groups add, the granules poisoned, the upsets of
its additions. -/
structure Checked where
  chip : Chip
  sums : List (List Word)
  bad : List Nat
  ups : List AddUpset

/-- A value of the row groups is changed. -/
def setSum (sums : List (List Word)) (col row : Nat) (f : Word → Word) : List (List Word) :=
  sums.zipIdx.map (fun (s, k) => if k = col then s.zipIdx.map (fun (w, r) => if r = row then f w else w) else s)

/-- A check of a vector for its entry fails. -/
def Checked.fail (injected : Bool) (x : Checked) (site col row e : Nat) : Checked :=
  { x with chip := residueFails injected x.chip site col row e, bad := (col / 16) :: x.bad }

/-- An upset of a vector's sums is met: the value computed is kept, and the check finds it where the residue of the sum
differs from the predicted one, or the two roundings differ (03 R87 R88). `v` is the exact sum of a row group. -/
def cellFails (ie : Bool) (site e : Nat) (v : Nat → Nat → FVal) (x : Checked) (f : Flaw) : Checked :=
  let x := { x with chip := dropFlaw x.chip f.spot }
  match f.spot with
  | .cell _ col row =>
    let s := upsetSum f.mask (v col row)
    let x := { x with sums := setSum x.sums col row (fun _ => (valF32 ie s).1) }
    if residueDiffers (v col row) s then x.fail false site col row e else x
  | .adder _ col row =>
    let x := { x with ups := x.ups ++ [⟨col, row, f.mask, 0⟩] }
    if f.mask % 3 = 0 then x else x.fail false site col row e
  | .rounder _ col row step =>
    let k := f.mask % 2 ^ 32
    let x := if step = 0 then { x with sums := setSum x.sums col row (· ^^^ BitVec.ofNat 32 k) }
      else { x with ups := x.ups ++ [⟨col, row, 0, k⟩] }
    if k = 0 then x else x.fail false site col row e
  | _ => x

/-- The row groups of columns whose weight registers an upset has struck, each once. -/
def upsetGroups (w : WTile) (cols : Nat) : List (Nat × Nat) :=
  ((w.flips.filter (fun u => decide (u.2.1 < cols) && decide (u.1 < 64))).map (fun u => (u.2.1, u.1 / 16))).eraseDups

/-- The check of a row group of a column whose weights an upset has struck: the residue was formed of the weights as they
were loaded (03 R87). -/
def weightFails (w : WTile) (wf : Fmt) (acts : List (List FVal)) (site e : Nat) (x : Checked) (g : Nat × Nat) : Checked :=
  if residueDiffers (groupAt w wf (loadedRows w wf) acts g.1 g.2) (groupAt w wf (tileRows w wf) acts g.1 g.2) then
    x.fail false site g.1 g.2 e
  else x

/-- The upsets that a valid vector meets, where its weights pair with it. -/
def meetUpsets (c : Chip) (site : Nat) (a : Arr) (m : MStr) (sums : List (List Word)) : Checked :=
  let e := (m.e + m.done) % 256
  match a.active.fmt with
  | some wf =>
    let acts := actGroups m (cellElems wf)
    let x := (upsetGroups a.active (outCols m.f)).foldl (weightFails a.active wf acts site e) ⟨c, sums, [], []⟩
    (flawsOf c (inCells site (outCols m.f))).foldl
      (cellFails (ieee c) site e (groupAt a.active wf (tileRows a.active wf) acts)) x
  | none => ⟨c, sums, [], []⟩

/-- The checks of a valid vector of a format at its entry (03 R87): each row group of each column, which an upset may fail,
or an injection that alters the predicted residue (14 R444). -/
def checkVector (c : Chip) (site : Nat) (a : Arr) (m : MStr) (sums : List (List Word)) : Checked :=
  let x := meetUpsets c site a m sums
  match injArray c site with
  | some j =>
    let col := bits j.loc 14 8
    if col < outCols m.f then
      let x := x.fail true site col (bits j.loc 17 16) ((m.e + m.done) % 256)
      { x with chip := spendInj x.chip j }
    else x
  | none => x

/-- The vector in hand, whose entries are all taken or missing, is presented in array cycle t (03 R77 R83 R89 R111). What
its checks and its reads find is recorded in the cycle of its presentation: DESIGN CHOICE, as 03 R88 does not say in which
cycle of its passage a check finds something (log 36). -/
def streamVector (c : Chip) (site t : Nat) (m : MStr) : Chip :=
  let miss := (vecEntries m).any (·.isNone) || m.sc.any (·.isNone)
  let hurt := (vecEntries m ++ m.sc).any (fun x => match x with
    | some x => x.poison
    | none => false)
  let mask := (tileAt c site).arr.mask
  let taint := hurt || miss || (m.mask && (tileAt c site).arr.maskTaint)
  let valid := !miss && (!m.mask || mask.testBit m.done)
  let all := List.range 8
  if valid then
    let c := upsetWeights c site
    let a := (tileAt c site).arr
    let r := validSums c a m
    let k := checkVector r.1 site a m r.2
    putVector k.chip site t m (some k.sums) (if taint then all else a.active.bad ++ k.bad) k.ups
  else
    let c := bump c (key 0x3030 5) (if noScale m.f then 16384 else 8192)
    let c := if miss then c else bump c (key 0x3030 2) 1
    if m.fresh || miss then putVector c site t m none (if taint then all else []) [] else c

/-! ## Operands (03 R75 R81 R83 R84) -/

/-- A missing operand of the array (03 R83, 05 R128 R148): counted, reported once for the tile and step, its tag passed. An
operand that the tile has stalled for is counted already. -/
def arrayMiss (c : Chip) (site q : Nat) : Chip :=
  let r := qSkip (queueAt (tileAt c site) q)
  let known := (tileAt c site).stalled.contains q
  let c := modTile c site (fun t => setQueue { t with stalled := t.stalled.erase q } q r.1)
  let c := streamFault c 3 site r.2
  let c := bump (if known then c else bump c (key 0x3050 2) 1) (key 0x3030 3) 1
  reportOnce c 9 site 0x0602 (.tile site) .cycle [0, 0]

/-- Take an operand from a queue in the present cycle: none where it is missing. -/
def takeOperand (c : Chip) (site q : Nat) : Chip × Option DEntry :=
  let dq := queueAt (tileAt c site) q
  match qPeek dq c.plan.cyc with
  | .got e => (modTile c site (fun t => setQueue t q (qTake dq)), some e)
  | _ => (arrayMiss c site q, none)

/-- Take an operand from each of a list of queues. -/
def takeOperands (site : Nat) : List Nat → Chip → Chip × List (Option DEntry)
  | [], c => (c, [])
  | q :: rest, c =>
    let r := takeOperand c site q
    let s := takeOperands site rest r.1
    (s.1, r.2 :: s.2)

/-- The queues that give a preload its row entries in an array cycle: of the rows up to the cycle's, those not taken yet,
alternately from the pair (03 R69 R74 R81). -/
def rowQueues (p : PreCmd) (now : Nat) : List Nat :=
  if now < p.start then []
  else
    let want := min (cdiv (rowBytes p.f * (now - p.start + 1)) 64) (rowBytes p.f)
    (List.range (want - p.rows.length)).map (fun i => p.qp + (p.rows.length + i) % 2)

/-- The queue that gives its scale entries in an array cycle: all of them in the cycle after the 64th row (03 R74), the first
in which a swap may use the tile (03 R81). That they come in one cycle is a DESIGN CHOICE: the rule gives them no rate
(log 3). -/
def scaleQueues (p : PreCmd) (now : Nat) : List Nat :=
  match p.qs with
  | some q => if p.start + 64 ≤ now then List.replicate (scaleEntries p.f - p.scs.length) q else []
  | none => []

/-- The queue that gives data entry i of a vector (03 R74). -/
def vecQueue (m : MStr) (i : Nat) : Nat :=
  match m.qa with
  | .one q => q.val
  | .pair q => q.val + i % 2

/-- The array cycle in which the vector in hand of an MSTR is presented (03 R78). -/
def presentAt (m : MStr) : Nat := m.start + m.done * vecCycles m.f

/-- The queues that give the vector in hand its data entries in an array cycle (03 R75): the second half of a BF16 or FP16
vector comes one cycle later. -/
def dataQueues (m : MStr) (now : Nat) : List Nat :=
  if now < presentAt m then []
  else if sixBit m.f then (if m.done % 4 = 3 ∨ m.done % 4 < m.got.length then [] else [vecQueue m 0])
  else if noScale m.f then (if m.got.length ≤ now - presentAt m then [vecQueue m 0] else [])
  else match m.qa with
    | .pair _ => if m.got.isEmpty then [vecQueue m 0, vecQueue m 1] else []
    | .one _ => if m.got.isEmpty then [vecQueue m 0] else []

/-- The queue that gives its scale entry. -/
def vecScaleQueues (m : MStr) (now : Nat) : List Nat :=
  match m.qs with
  | some q => if presentAt m ≤ now ∧ m.sc.isEmpty then [q] else []
  | none => []

/-- The queues that the preload port is given operands by in an array cycle: a command whose rows are all in takes its
scale entries and makes way for the next. -/
def preNeeds (now : Nat) : List PreCmd → List Nat
  | [] => []
  | p :: rest =>
    if p.start + 64 ≤ now then scaleQueues p now ++ (match rest with
      | q :: _ => rowQueues q now
      | [] => [])
    else rowQueues p now

/-- The queues that the command at the head of each port must be given an operand by in the present cycle. -/
def arrNeeds (c : Chip) (t : Tile) : List Nat :=
  let now := arrClock c t
  preNeeds now t.arr.pre ++
  (match t.arr.str with
    | .mstr m :: _ => dataQueues m now ++ vecScaleQueues m now
    | _ => [])

/-- An entry asked of a queue is not there, `ahead` of the entries before it being asked for as well. -/
def qLacks (q : DQueue) (now ahead : Nat) : Bool :=
  if ahead = 0 then qPeek q now == .empty
  else match q.entries.drop ahead with
    | [] => true
    | e :: _ => decide (now < e.wrote + 2)

/-- Of the entries that a list of queues is asked for, the queues of those that are not there. -/
def lacking (t : Tile) (now : Nat) (needs : List Nat) : List Nat :=
  needs.zipIdx.filterMap (fun (q, i) =>
    if qLacks (queueAt t q) now ((needs.take i).count q) then some q else none)

/-- The queues that the execute side of a tile reads in the present cycle and finds empty: none where a later tag shows
that the entry can never arrive (05 R129). A VPOP is one of the readers: it holds the execute stream under the rules of 03
R84, and so freezes the array with it and counts in 3030h:04. DESIGN CHOICE (log 36). -/
def starvedOf (c : Chip) (t : Tile) : List Nat :=
  lacking t c.plan.cyc (arrNeeds c t ++ (match t.pop with
    | some p => [p.q]
    | none => []))

/-! ## A cycle of the ports -/

/-- A swap: the active and shadow registers change places (03 R74 R81). -/
def doSwap (a : Arr) : Arr := { a with active := a.shadow, shadow := a.active }

/-- The MSTR in hand is done with a vector. -/
def nextVector (m : MStr) : List StrCmd :=
  let got := if sixBit m.f ∧ m.done % 4 ≠ 3 then m.got else []
  if m.done + 1 < m.n then [.mstr { m with done := m.done + 1, got := got, sc := [] }] else []

/-- Every operand of the vector in hand has been asked for. -/
def vecWhole (m : MStr) (now : Nat) : Bool :=
  decide (presentAt m ≤ now) && (dataQueues m now).isEmpty && (vecScaleQueues m now).isEmpty &&
    (!noScale m.f || decide (2 ≤ m.got.length))

/-- A cycle of the stream port: the head command takes its operands, and a vector that has all of them goes on its way; an
MSKL loads the mask. -/
def strCycle (c : Chip) (site : Nat) : Chip :=
  let t := tileAt c site
  let now := arrClock c t
  match t.arr.str with
  | .mskl s v taint :: rest =>
    if s ≤ now then modArr c site (fun a => { a with mask := v, maskTaint := taint, str := rest }) else c
  | .mstr m :: rest =>
    if now < presentAt m then c
    else
      let c := if m.swap ∧ m.done = 0 ∧ m.got.isEmpty ∧ m.sc.isEmpty then modArr c site doSwap else c
      let x := takeOperands site (dataQueues m now) c
      let y := takeOperands site (vecScaleQueues m now) x.1
      let m := { m with got := m.got ++ x.2, sc := m.sc ++ y.2 }
      if vecWhole m now then
        modArr (streamVector y.1 site (presentAt m) m) site (fun a => { a with str := nextVector m ++ rest })
      else modArr y.1 site (fun a => { a with str := .mstr m :: rest })
  | [] => c

/-- The tile of a preload whose 64 rows are in takes its scale entries and stands in the shadow registers. -/
def preDone (c : Chip) (site : Nat) : Chip :=
  let t := tileAt c site
  match t.arr.pre with
  | p :: rest =>
    if p.start + 64 ≤ arrClock c t then
      let y := takeOperands site (scaleQueues p (arrClock c t)) c
      modArr y.1 site (fun a => { a with shadow := buildTile { p with scs := p.scs ++ y.2 }, pre := rest })
    else c
  | [] => c

/-- A cycle of the preload port: the head command takes a row. -/
def preCycle (c : Chip) (site : Nat) : Chip :=
  let t := tileAt c site
  let now := arrClock c t
  match t.arr.pre with
  | p :: rest =>
    if now < p.start then c
    else
      let x := takeOperands site (rowQueues p now) c
      modArr x.1 site (fun a => { a with pre := { p with rows := p.rows ++ x.2 } :: rest })
  | [] => c

/-- A cycle of the array that is not frozen: the tile of a finished preload is whole before a swap may use it. -/
def arrCycle (c : Chip) (site : Nat) : Chip := preCycle (strCycle (preDone c site) site) site

/-! ## The instructions (03 R74) -/

/-- MPRE enters the preload port. -/
def tMpre (f : Fmt) (qp : Fin 8) (qs : Option (Fin 8)) (c : Chip) (site : Nat) : Chip :=
  let now := arrClock c (tileAt c site)
  modArr c site (fun a =>
    let s := preStart now a.preFree a.swapped
    { a with pre := a.pre ++ [⟨f, qp.val, qs.map (·.val), s, [], []⟩], preFree := s + 64, loaded := s + 64 })

/-- MSTR enters the stream port. -/
def tMstr (f : Fmt) (qa : QSrc) (qs : Option (Fin 8)) (e : Fin 256) (n : Nat) (fresh swap mask : Bool)
    (c : Chip) (site : Nat) : Chip :=
  let now := arrClock c (tileAt c site)
  modArr c site (fun a =>
    let s := strStart now a.strFree a.loaded swap
    { a with str := a.str ++ [.mstr ⟨f, qa, qs.map (·.val), e.val, n, fresh, swap, mask, s, 0, [], []⟩],
             strFree := s + n * vecCycles f, swapped := if swap then s + 1 else a.swapped })

/-- MSKL enters the stream port with lanes 0 to 7 of v as they stand at its issue; it takes one cycle of the port. Both are
DESIGN CHOICES: 03 R74 says neither how long an MSKL occupies the port nor when one that waits reads v (log 36). -/
def tMskl (v : Fin 64) (c : Chip) (site : Nat) : Chip :=
  let now := arrClock c (tileAt c site)
  let r := vreg (tileAt c site) v.val
  let m := (List.range 8).foldl (fun m l => m + (lane r l).toNat * 2 ^ (32 * l)) 0
  modArr c site (fun a =>
    let s := max now a.strFree
    { a with str := a.str ++ [.mskl s m (laneBad r 0)], strFree := s + 1 })

/-- MDRN: columns 64 h to 64 h + 63 of the entry to v as they stand in the next cycle, final or not; with clear they
become −0 (03 R74 R79 R89). The register may be used no sooner than the fifth cycle (04 R95). -/
def tMdrn (e : Fin 256) (h : Fin 2) (v : Fin 64) (clear : Bool) (c : Chip) (site : Nat) : Chip :=
  let c := accCheck c site e.val (64 * h.val) (64 * h.val + 64)
  modTile c site (fun t =>
    let now := c.plan.cyc - t.lag
    let a := foldEntry now t.arr e.val
    let t := setVreg { t with arr := a } v.val
      { lanes := (List.range 64).map (fun l => (accRead a e.val (64 * h.val + l) (now + 1)).1),
        poison := (List.range 4).map (fun g => granRead a e.val (4 * h.val + g) (now + 1)) }
    if clear then { t with arr := { a with ops := a.ops ++ [.clear now e.val h.val] } } else t)

end Sys2Proof.Machine
end

