-- ==== Sys2Proof/Machine/Issue.lean ====
section
/-! DEFINITION. What an execute instruction does in a tile, and the cycles of a tile with its elastic lag (03 R84). -/

namespace Sys2Proof.Machine

/-- What an execute instruction does in a tile that issues it: one arm for each instruction of the
execute stream (03 R74, 04). -/
def tileExec (x : Instr) (c : Chip) (site : Nat) : Chip :=
  match x with
  | .mpre _ f qp qs => tMpre f qp qs c site
  | .mstr _ f qa qs e n fresh swap mask => tMstr f qa qs e n fresh swap mask c site
  | .mdrn _ e h v clear => tMdrn e h v clear c site
  | .mskl _ v => tMskl v c site
  | .vadd _ g vd a b => tFp2 fadd g vd.val a.val b c site
  | .vsub _ g vd a b => tFp2 fsub g vd.val a.val b c site
  | .vmul _ g vd a b => tFp2 fmul g vd.val a.val b c site
  | .vfma _ g vd a b d => tFma g vd.val a.val b d c site
  | .vmin _ g vd a b => tFp2 (fun _ x y => (fmin x y, 0)) g vd.val a.val b c site
  | .vmax _ g vd a b => tFp2 (fun _ x y => (fmax x y, 0)) g vd.val a.val b c site
  | .vabs _ g vd a => tFp1 (fun _ x => (fabs x, 0)) g vd.val a.val c site
  | .vneg _ g vd a => tFp1 (fun _ x => (fneg x, 0)) g vd.val a.val c site
  | .vcmp _ g cc pd a b => tCmp (fcmp cc) g pd.val a.val b c site
  | .vsel _ g vd a b ps => tSel g vd.val a.val b ps.val c site
  | .vrsum _ g vd a => tRsum g vd.val a.val c site
  | .vrmax _ g vd a => tRmax g vd.val a.val c site
  | .vrmaxi _ g vd a => tRmaxi g vd.val a.val c site
  | .vexp2 _ g vd a => tFp1 fexp2 g vd.val a.val c site
  | .vlog2 _ g vd a => tFp1 flog2 g vd.val a.val c site
  | .vrcp _ g vd a => tFp1 frcp g vd.val a.val c site
  | .vrsq _ g vd a => tFp1 frsq g vd.val a.val c site
  | .vdiv _ g vd a b => tFp2 fdiv g vd.val a.val ⟨b, false⟩ c site
  | .iadd _ g vd a b => tInt2 (· + ·) g vd.val a.val b.val c site
  | .isub _ g vd a b => tInt2 (· - ·) g vd.val a.val b.val c site
  | .iadds _ g vd a b => tInt2 iadds g vd.val a.val b.val c site
  | .isubs _ g vd a b => tInt2 isubs g vd.val a.val b.val c site
  | .imul _ g vd a b => tInt2 (· * ·) g vd.val a.val b.val c site
  | .imulh _ g u vd a b => tInt2 (imulh u) g vd.val a.val b.val c site
  | .imad _ g vd a b d => tImad g vd.val a.val b.val d.val c site
  | .imin _ g u vd a b => tInt2 (imin u) g vd.val a.val b.val c site
  | .imax _ g u vd a b => tInt2 (imax u) g vd.val a.val b.val c site
  | .vand _ g vd a b => tInt2 (· &&& ·) g vd.val a.val b.val c site
  | .vor _ g vd a b => tInt2 (· ||| ·) g vd.val a.val b.val c site
  | .vxor _ g vd a b => tInt2 (· ^^^ ·) g vd.val a.val b.val c site
  | .vnot _ g vd a => tInt1 (fun x => ~~~x) g vd.val a.val c site
  | .vshl _ g vd a b => tInt2 ishl g vd.val a.val b.val c site
  | .vshr _ g vd a b => tInt2 ishr g vd.val a.val b.val c site
  | .vsra _ g vd a b => tInt2 isra g vd.val a.val b.val c site
  | .icmp _ g cc u pd a b => tCmp (icmpLane cc u) g pd.val a.val ⟨b, false⟩ c site
  | .vmov _ g vd a => tInt1 id g vd.val a.val c site
  | .vmovi _ g vd imm => tConst (fun _ _ => imm) g vd.val c site
  | .vperm _ g vd a vi => tPerm g vd.val a.val vi.val c site
  | .pand _ g pd a b => tPred2 and g pd.val a.val b.val c site
  | .por _ g pd a b => tPred2 or g pd.val a.val b.val c site
  | .pxor _ g pd a b => tPred2 xor g pd.val a.val b.val c site
  | .pnot _ g pd a => tPnot g pd.val a.val c site
  | .pfrom _ g pd a => tPfrom g pd.val a.val c site
  | .vpcnt _ g vd ps => tPcnt g vd.val ps.val c site
  | .vcvt _ g dir m vd a => tCvt g dir m vd.val a.val c site
  | .vrnd _ g m vd a => tInt1 (frnd m) g vd.val a.val c site
  | .vqnt _ g vd a vk f sc o => tQnt g vd.val a.val vk.val f sc o.val c site
  | .vdq _ g vd a vk f scaled o => tDq g vd.val a.val vk.val f scaled o.val c site
  | .vlane _ g vd => tConst (fun _ l => BitVec.ofNat 32 l) g vd.val c site
  | .vtid _ g vd => tConst (fun t _ => BitVec.ofNat 32 t.ti) g vd.val c site
  | .amov _ _ ad imm => tAmov ad.val imm.toNat c site
  | .aadd _ _ ad imm => tAadd ad.val imm.toNat c site
  | .afrom _ _ ad a => tAfrom ad.val a.val c site
  | .vld _ g v ad imm => tVld g v.val ad.val imm c site
  | .vst _ g v ad imm => tVst g v.val ad.val imm c site
  | .vldb _ g v ad imm => tVldb g v.val ad.val imm c site
  | .vgath _ g vd vi ad b => tVgath g vd.val vi.val ad.val b c site
  | .vscat _ g vs vi ad b => tVscat g vs.val vi.val ad.val b c site
  | .vpop _ g vd q => tVpop g vd.val q.val c site
  | .vpush _ g vs q => tVpush g vs.val q.val c site
  | .vslot _ g vd pd ve cap => tVslot g vd.val pd.val ve.val cap c site
  | .vslmsk _ g vd e => tVslmsk g vd.val e c site
  | .vslrd _ g vd grp => tVslrd g vd.val grp.val c site
  | .vslset _ g vs grp => tVslset g vs.val grp.val c site
  | .vslclr _ _ => tVslclr c site
  | _ => c

/-! ## ECC of the vector register file and the slot counters (04 R112) -/

/-- The vector registers among a list of registers. -/
def vecRegs (l : List Reg) : List Nat :=
  l.filterMap (fun r => match r with
    | .v n => some n
    | _ => none)

/-- The predicate that governs an instruction. -/
def govOf (x : Instr) : Option Nat :=
  match (needOf x).src.head? with
  | some (.p p) => some p
  | _ => none

/-- A lane is active under the governing predicate; an instruction without one has no active lane. -/
def laneActive (t : Tile) (x : Instr) (l : Nat) : Bool :=
  match govOf x with
  | some p => (preg t p).val.testBit l
  | none => false

/-- A lane of a register holds bytes o to o + n − 1 of its image, or some of them. -/
def holdsBytes (o n l : Nat) : Bool := decide (4 * l < o + n) && decide (o < 4 * l + 4)

/-- An instruction writes a lane of register r, one of its destinations (04 R93 R99 R104): an active one, an inactive one in
zero mode, or every lane without a governing predicate; every lane of a reduction's result, of VRMAXI's index lane 0 alone;
of VQNT the lanes that its packed elements reach, and the two of a computed scale. -/
def laneWritten (t : Tile) (x : Instr) (r l : Nat) : Bool :=
  match x with
  | .vrsum .. => true
  | .vrmax .. => true
  | .vrmaxi _ _ vd _ => r == vd.val || l == 0
  | .vqnt _ _ vd _ vk f sc o =>
    (r == vd.val && holdsBytes o.val (8 * fmtWidth f) l) || (sc == .computed && r == vk.val && decide (l < 2))
  | x => (needOf x).zero || (govOf x).isNone || laneActive t x l

/-- The slot counters that an instruction reads in a tile. -/
def countersRead (t : Tile) : Instr → List Nat
  | .vslot _ g _ _ ve _ => (activeLanes t g).filterMap (fun l => inRange (lane (vreg t ve.val) l).toInt 256)
  | .vslmsk _ _ _ e => [match e with
      | .imm e => e.val
      | .areg a => areg t a.val % 256]
  | .vslrd _ _ _ grp => (List.range 64).map (64 * grp.val + ·)
  | _ => []

/-- The slot counters that it writes without reading them. -/
def countersSet (t : Tile) : Instr → List Nat
  | .vslset _ g _ grp => (activeLanes t g).map (64 * grp.val + ·)
  | .vslclr _ _ => List.range 256
  | _ => []

/-- An instruction meets the error of a spot: a lane of a register that it reads, a counter that it reads. -/
def meets (t : Tile) (x : Instr) (site : Nat) : Spot → Bool
  | .vreg s r _ => s == site && (vecRegs (needOf x).src).contains r
  | .counter s n => s == site && (countersRead t x).contains n
  | _ => false

/-- A read finds an error: corrected and logged, or the word stays as stored, its granule is poisoned, and it is logged
(04 R112). A slot counter has no granule: its error taints the slot counter file. DESIGN CHOICE (log 37). -/
def wordFound (c : Chip) (site : Nat) (f : Flaw) : Chip :=
  let c := dropFlaw c f.spot
  match f.spot with
  | .vreg _ r l =>
    if f.unc then
      report (addReg (modTile c site (fun t => setVreg t r (writeLanes (vreg t r) (fun k =>
        if k = l then some (lane (vreg t r) l ^^^ BitVec.ofNat 32 f.mask, true) else none)))) (key 0x4031 8) 1) 0x0204
        (.tile site) .cycle [1, 64 * r + l]
    else report (addReg c (key 0x4031 7) 1) 0x0203 (.tile site) .cycle [1, 64 * r + l]
  | .counter _ n =>
    if f.unc then
      report (modTile c site (fun t => { setSlotCtr t n (slotCtr t n ^^^ f.mask) with slotTaint := true })) 0x0204
        (.tile site) .cycle [2, n]
    else report c 0x0203 (.tile site) .cycle [2, n]
  | _ => c

/-- An instruction overwrites the spot: a lane that it writes, a counter that it sets. -/
def overwrites (t : Tile) (x : Instr) (site : Nat) : Spot → Bool
  | .vreg s r l => s == site && (vecRegs (needOf x).dst).contains r && laneWritten t x r l
  | .counter s n => s == site && (countersSet t x).contains n
  | _ => false

/-! ## Residue checks of the lanes (04 R113) -/

/-- The number of a unit that is checked (14 R432); the instructions of the array and of the address registers use
none. -/
def unitNumber (x : Instr) : Option Nat :=
  if (govOf x).isNone then none
  else if (needOf x).dst.any (fun r => match r with
    | .a _ => true
    | _ => false) then none
  else match (needOf x).unit with
    | .alu => some 0
    | .fpu => some 1
    | .tree => some 2
    | .quant => some 3
    | .special => some 4
    | _ => none

/-- What lane l of an instruction computes stands in lane k of its destination r: the lane itself; of VQNT the lanes that
element l reaches, and the scale of its block; of VRMAXI's index lane 0. -/
def laneOutput (x : Instr) (r l k : Nat) : Bool :=
  match x with
  | .vrmaxi _ _ vd _ => if r = vd.val then k == l else k == 0
  | .vqnt _ _ vd _ vk f sc o =>
    let w := fmtWidth f
    (r == vd.val && decide (32 * k < 8 * o.val + w * (l + 1)) && decide (8 * o.val + w * l < 32 * k + 32)) ||
      (sc == .computed && r == vk.val && k == l / 32)
  | _ => k == l

/-- A mismatch in a lane: the computed value, of which an upset inverts bits, is kept and tainted, reported and
counted. The record names the unit, as 14 R432 lays it out, and not the mnemonic of 04 R113, for which it has no word. -/
def laneFails (injected : Bool) (x : Instr) (c : Chip) (site l unit mask : Nat) : Chip :=
  let c := modTile c site (fun t => (needOf x).dst.foldl (fun t r => match r with
    | .v n => setVreg t n (writeLanes (vreg t n) (fun k =>
        if laneOutput x n l k then some (lane (vreg t n) k ^^^ BitVec.ofNat 32 mask, true) else none))
    | .p n => setPreg t n { preg t n with taint := true }
    | .a _ => t) t)
  reportI injected (bump c (key 0x3040 4) 1) 0x0102 (.tile site) .cycle [l, unit]

/-- The upset strikes an active lane of the unit of an instruction. -/
def strikes (t : Tile) (x : Instr) (site : Nat) : Spot → Bool
  | .lane s u l => s == site && unitNumber x == some u && laneActive t x l
  | _ => false

/-- The checks of an instruction in a tile, `t` being the tile before it: upsets, and an injection of kind 2. -/
def checkLanes (t : Tile) (x : Instr) (c : Chip) (site : Nat) : Chip :=
  let c := (flawsOf c (strikes t x site)).foldl (fun c f => match f.spot with
    | .lane _ u l => laneFails false x (dropFlaw c f.spot) site l u f.mask
    | _ => c) c
  match injFor c (fun j => j.kind == 2 && strikes t x site (.lane (bits j.loc 7 0) (bits j.loc 18 16) (bits j.loc 13 8))) with
  | some j => spendInj (laneFails true x c site (bits j.loc 13 8) (bits j.loc 18 16) 0) j
  | none => c

/-- An execute instruction issues in a tile: the words that it reads are checked, it has its effect, and its lanes are
checked. -/
def tileIssue (x : Instr) (c : Chip) (site : Nat) : Chip :=
  let c := (flawsOf c (meets (tileAt c site) x site)).foldl (fun c f => wordFound c site f) c
  let t := tileAt c site
  let gone := (flawsOf c (overwrites t x site)).map (·.spot)
  checkLanes t x (gone.foldl dropFlaw (tileExec x c site)) site

/-! ## Elastic stall (03 R84, 05 R129)

A tile that lags performs the cycles of its schedule later by its lag: what the sequencer broadcasts waits in the execute
buffer for that long. A cycle in which the broadcast carries nothing lets it perform one more of them, so that results stay
what the schedule gives: DESIGN CHOICE, as 03 R84 lets one waiting instruction issue in such a cycle and does not say what
the array does meanwhile (log 36). -/

/-- The array and the execute stream of a tile are frozen in the present cycle: elastic stall mode, a lag below 64, and an
operand that has not arrived. -/
def frozen (c : Chip) (t : Tile) : Bool := elastic c && decide (t.lag < 64) && !(starvedOf c t).isEmpty

/-- The oldest waiting instruction issues in the cycle that was its own. -/
def issueHead (c : Chip) (site : Nat) : Chip :=
  let t := tileAt c site
  match t.buf with
  | [] => c
  | x :: rest => if x.1 ≤ arrClock c t then tileIssue x.2 (setTile c site { t with buf := rest }) site else c

/-- A broadcast execute instruction reaches a tile that issues it: it goes ahead, or waits in the execute buffer while the
tile lags or is frozen. -/
def arrive (x : Instr) (c : Chip) (site : Nat) : Chip :=
  let t := tileAt c site
  if frozen c t || t.lag != 0 then setTile c site { t with buf := t.buf ++ [(c.plan.cyc, x)] }
  else tileIssue x c site

/-- A frozen cycle: the lag grows, and each operand that the tile begins to wait for is a missing entry that it stalls for
(05 R129 R147). It is counted in 3050h:02 for the array's operands too, as 05 R147 has it, though 05 R148 says that what
3050h:02 counts beyond 3030h:03 is what VPOP and QTS met: DESIGN CHOICE between the two (log 36). -/
def frozenCycle (c : Chip) (site : Nat) : Chip :=
  let t := tileAt c site
  let new := t.stalled.foldl (fun l q => l.erase q) (starvedOf c t)
  let c := bump (streamFault c 2 site new.length) (key 0x3030 4) 1
  modTile c site (fun t => { t with lag := t.lag + 1, stalled := t.stalled ++ new })

/-- The array, the VPOP and the operand cache of a tile perform a cycle. -/
def unitCycle (c : Chip) (site : Nat) : Chip := gathRound (storeCycle (popCycle (arrCycle c site) site) site) site

/-- A cycle of a tile that is not frozen: an instruction that has waited for it issues, and the units perform it. -/
def playCycle (c : Chip) (site : Nat) : Chip :=
  modTile (unitCycle (issueHead c site) site) site (fun t => { t with stalled := [] })

/-- One cycle of the tile's schedule, or a frozen one. -/
def runTile (c : Chip) (site : Nat) : Chip :=
  if frozen c (tileAt c site) then frozenCycle c site else playCycle c site

/-- The end of a cycle in a tile: `heard` says that the broadcast carried an execute instruction. A lagging tile that is not
frozen performs one more cycle of its schedule where it did not, and its lag falls (03 R84). Where the broadcast is silent
and nothing waits the lag falls all the same: DESIGN CHOICE (log 36). -/
def tileCycle (heard : Bool) (c : Chip) (site : Nat) : Chip :=
  let t := tileAt c site
  if heard || t.lag == 0 || frozen c t then runTile c site
  else runTile (modTile (playCycle c site) site (fun t => { t with lag := t.lag - 1 })) site

/-- Nothing is under way in a tile. -/
def Tile.still (t : Tile) : Bool :=
  t.arr.pre.isEmpty && t.arr.str.isEmpty && t.pop.isNone && t.buf.isEmpty && t.lag == 0 && t.stalled.isEmpty &&
    t.gath.isNone && t.stores.isEmpty

end Sys2Proof.Machine
end

