-- ==== Sys2Proof/Machine/KvPages.lean ====
section
/-! DEFINITION. Where a region line lies: KV pools and their pages (07 R208 R209, 08 R234 to R236),
weight views (09 R281 R292), and the scheduled access to one line (07 R195 R198). -/

namespace Sys2Proof.Machine

/-! ## Pools of the serving engine -/

/-- Serving is enabled. -/
def serving (c : Chip) : Bool := reg c (key 0x6000 1) == 1

/-- The region that a KV pool entry names (6002h). -/
def poolRegion (c : Chip) (p : Nat) : Option Region :=
  let n := reg c (key 0x6002 (p + 1))
  if n = ones32 then none else regionOf c n

/-- The pool numbers of a die, rising (08 R217). -/
def diePools (c : Chip) (d : Nat) : List Nat :=
  (List.range 8).filter (fun p => match poolRegion c p with
    | some r => r.home == d
    | none => false)

/-- The pool that a region is, while serving is enabled. -/
def poolOf (c : Chip) (r : Region) : Option Nat :=
  if serving c then (List.range 8).find? (fun p => reg c (key 0x6002 (p + 1)) == r.num) else none

/-- The pool number that 6002h gives a region, whether serving is enabled or not (13 R418 R420). -/
def namedPool (c : Chip) (rn : Nat) : Option Nat := (List.range 8).find? (fun p => reg c (key 0x6002 (p + 1)) == rn)

/-- The ordinal of a pool among those of its die. -/
def poolRank (c : Chip) (d p : Nat) : Nat := (diePools c d).findIdx (· == p)

/-- Key of a directory slot: session, ordinal of the pool, slot (08 R218). -/
def dirKey (s rank slot : Nat) : Nat := (4 * s + rank) * 64 + slot

/-- The block of a directory slot; FFFFh is none. -/
def dirSlot (c : Chip) (s rank slot : Nat) : Option Nat :=
  let b := smGet 0xFFFF c.srv.dir (dirKey s rank slot)
  if b = 0xFFFF then none else some b

/-- A session's entry. -/
def sessAt (c : Chip) (s : Nat) : Sess := smGet Sess.free c.srv.sess s

/-- Put a session's entry. -/
def setSess (c : Chip) (s : Nat) (x : Sess) : Chip :=
  { c with srv := { c.srv with sess := smSet Sess.free c.srv.sess s x } }

/-- The pool page of page index `pi` of a session (08 R235). -/
def kvPage (c : Chip) (d p s pi : Nat) : Option Nat :=
  match dirSlot c s (poolRank c d p) (pi / 64) with
  | none => none
  | some b =>
    let g := smGet ones32 (smGet ([] : SMap Nat) c.srv.blocks (d * 16384 + b)) (pi % 64)
    if g = ones32 then none else some g

/-- The reference count of a pool page (08 R218). -/
def pageRefs (c : Chip) (p page : Nat) : Nat := smGet 0 c.srv.refs (p * 1048576 + page)

/-! ## Weight views (09) -/

/-- The usable weight store of a stack (09 R281). -/
def usableHbm (c : Chip) : Nat :=
  (List.range 8).foldl (fun m s => min m ((reg c (key 0x4000 1) - systemBytes c s) / 4096 * 4096))
    (reg c (key 0x4000 1))

/-- Module address of weight store byte w of a stack or channel: the reserved parts of quarters 0 to
3 in order (09 R281), or the channel's reservation. -/
def storeAddr (c : Chip) (tier unit w : Nat) : Nat :=
  if tier = 0 then
    let r := resQuarter c
    hbmAddr unit (w / r * 0x500000000 + (0x500000000 - r) + w % r)
  else
    mrdAddr unit (reg c (key 0x4010 (unit + 1)) - reg c (key 0x4000 2) + w)

/-- Module address of line m of a copy (09 R281). -/
def copyLine (c : Chip) (x : WCopy) (m : Nat) : Nat :=
  let k := m / 64
  storeAddr c x.tier (k % 8) (x.off + 4096 * (k / 8) + 64 * (m % 64))

/-- A directory entry. -/
def wentry (c : Chip) (e : Nat) : WEntry := smGet WEntry.reset c.wts.dir e

/-- Put a directory entry. -/
def setWentry (c : Chip) (e : Nat) (x : WEntry) : Chip :=
  { c with wts := { c.wts with dir := smSet WEntry.reset c.wts.dir e x } }

/-- The copy of an entry in a state. -/
def copyIn (x : WEntry) (st : CopySt) : Option WCopy :=
  if x.a.st = st then some x.a else if x.b.st = st then some x.b else none

/-! ## One line of a region -/

/-- Pool line l under its residence (07 R209 R212): its addresses, the one that reads use first. -/
def poolLine (c : Chip) (r : Region) (l : Nat) : List Nat × PageRef :=
  let pl := poolAt c r.num
  let o := l % 1024
  let home := slotAddr c r.num l
  let fr := (pageAt pl (l / 1024)).frame
  let fl := pl.flights.find? (fun x => x.page == l / 1024)
  let ref : PageRef := ⟨r.num, l, fr.isNone⟩
  match fr, fl with
  | none, none => ([home], ref)
  | none, some x => ([home, frameAddr c r.num x.frame o], ref)
  | some f, none => ([frameAddr c r.num f o], ref)
  | some f, some _ => ([frameAddr c r.num f o, home], ref)

/-- Where a line resolved at issue lies at its memory point: a line of a KV pool under the residence of that moment, so that
no result depends on residence (07 R209 R212); any other where it lay at issue (07 R199). -/
def placed (c : Chip) (as : List Nat) (pg : Option PageRef) : List Nat × Option PageRef :=
  match pg with
  | none => (as, none)
  | some x =>
    match regionOf c x.region with
    | some r => let y := poolLine c r x.line; (y.1, some y.2)
    | none => (as, pg)

/-- Where line l of a region lies. -/
def regionLine (c : Chip) (r : Region) (l : Int) : LineAt :=
  if r.tier = 2 then
    match poolOf c r with
    | some p =>
      match inRange l 4294967296 with
      | none => .out
      | some l =>
        let s := 1024 * r.home + l / 4194304
        let pi := l / 1024 % 4096
        if (sessAt c s).st = 0 then .unallocated r.home s
        else
          match kvPage c r.home p s pi with
          | none => .unallocated r.home s
          | some page =>
            let x := poolLine c r (1024 * page + l % 1024)
            if 1 < pageRefs c p page then .shared x.1 (some x.2) r.home s else .at x.1 (some x.2)
    | none =>
      match inRange l (r.size / 64) with
      | none => .out
      | some l =>
        let x := poolLine c r l
        .at x.1 (some x.2)
  else
    match inRange l (r.size / 64) with
    | none => .out
    | some l => .at [regionAddr c r l] none

/-- Where a line of weight view e lies (09 R292). -/
def viewLine (c : Chip) (e : Nat) (l : Int) : LineAt :=
  match inRange l 4294967296 with
  | none => .out
  | some l =>
    let m := l % 1073741824
    let pick := fun st => match copyIn (wentry c e) st with
      | none => LineAt.absent
      | some x => if 64 * m < x.len then .at [copyLine c x m] none else .out
    match l / 1073741824 with
    | 0 => pick .live
    | 1 => if (copyIn (wentry c e) .live).isNone then .absent else pick .draining
    | _ => .out

/-- Where a line of what an MLD or MST names lies; a region the plan does not hold has no line. -/
def lineAt (c : Chip) (r : RegionRef) (l : Int) : LineAt :=
  match r with
  | .view e => viewLine c e l
  | .region n => match regionOf c n with
    | some r => regionLine c r l
    | none => .out

/-- Where a line that an MST names lies: a view has none (09 R292). -/
def storeAt (c : Chip) (r : RegionRef) (l : Int) : LineAt :=
  match r with
  | .view _ => .out
  | .region _ => lineAt c r l

/-- A scheduled line addresses a pool page: its count rises, saturating (07 R208); a line read from the
slot counts in 4021h:05 (07 R209); a line written is one the next mirror batch carries (13 R420). The line counts at its
memory point, in the step that holds it: DESIGN CHOICE where its instruction issued in the step before (log 35). -/
def countPage (c : Chip) (page : Option PageRef) (write : Bool) : Chip :=
  match page with
  | none => c
  | some x =>
    let pl := poolAt c x.region
    let pg := pageAt pl (x.line / 1024)
    let pg := { pg with count := min 65535 (pg.count + 1),
                        dirty := pg.dirty || (write && pg.frame.isSome) }
    let c := setPool c x.region { pl with pages := smSet PageSt.reset pl.pages (x.line / 1024) pg }
    let c := if x.slot && !write then bump c (key 0x4021 5) 1 else c
    match namedPool c x.region with
    | some p =>
      if write then { c with det := { c.det with written := nsInsert c.det.written (p * 4294967296 + x.line) } }
      else c
    | none => c

/-- A late scheduled line: counted, and reported once for the stack or channel and step (07 R198). -/
def lateLine (c : Chip) (a : Nat) (write : Bool) : Chip :=
  let u := unitOf a
  let c := bump c (key 0x4032 (if write then 2 else 1)) 1
  reportOnce c 10 u 0x0306 (if u < 8 then .stack u else .channel (u - 8)) .cycle
    [if write then 1 else 0, 1]

/-- 64 zero bytes. -/
def zeroLine : List Byte := List.replicate 64 0

/-- Read a line of the scheduled plane. `late` says that the tier misses it. -/
def loadLine (c : Chip) (site : Nat) (w : LineAt) (late : Bool) : Chip × List Byte × Bool :=
  match w with
  | .out => (lineFault c site, zeroLine, true)
  | .unallocated _ _ => (bump c (key 0x6050 15) 1, zeroLine, false)
  | .absent => (bump c (key 0x7040 6) 1, zeroLine, false)
  | .at as pg | .shared as pg _ _ =>
    let w := placed c as pg
    let c := countPage c w.2 false
    match w.1 with
    | [] => (c, zeroLine, true)
    | a :: _ => if late then (lateLine c a false, zeroLine, true) else readGran c a .cycle false

/-- A KV write that may not be made: discarded, counted and reported, each one (08 R236, 14 R432). -/
def kvDiscard (c : Chip) (die sess : Nat) : Chip :=
  report (bump c (key 0x6050 16) 1) 0x0701 (.die die) .cycle [1, sess]

/-- The command line of a sampler that a region line is: die and line (08 R245 R246). -/
def cmdLine (c : Chip) (r : RegionRef) (l : Int) : Option (Nat × Nat) :=
  match r with
  | .view _ => none
  | .region n =>
    if serving c then
      match (List.range 4).find? (fun d => reg c (key 0x6003 (d + 1)) == n), inRange l 256 with
      | some d, some k => some (d, k)
      | _, _ => none
    else none

/-- A write arrives at a sampler command line: the job it posts falls due (08 R246). -/
def cmdArrives (c : Chip) (cmd : Option (Nat × Nat)) (d : List Byte) : Chip :=
  match cmd with
  | none => c
  | some (die, l) => { c with srv := { c.srv with cmdDue := c.srv.cmdDue ++ [(die, l, d)] } }

/-! ## What a running sampler job has read (08 R246) -/

/-- The granule at an address is one of a region's, in a unit of its binding. -/
def inRegion (c : Chip) (n a : Nat) : Bool :=
  (bindings c).any (fun (r, b) =>
    let base := if b.quarter = 0xFF then b.off else b.quarter * 0x500000000 + b.off
    let at_ := fun u => if b.quarter = 0xFF then mrdAddr u base else hbmAddr u base
    let inside := fun u => decide (at_ u ≤ a) && decide (a < at_ u + bindBytes r b)
    r.num == n && (inside b.unit || (match b.unit2 with
      | some u => inside u
      | none => false)))

/-- Lines of a job's row of logits, Λ (08 R245). -/
def jobRow (c : Chip) (b : List Byte) : Nat :=
  if field b 4 1 = 1 then reg c (key 0x6000 2) / 32 else reg c (key 0x6000 2) / 16

/-- A job has read the granule at an address: it reads its rows' lines four a cycle from its start, each row after the
cycles of the one before it (08 R246; the place of a row's 256 further cycles is DEDUCED, log 36). -/
def jobHasRead (c : Chip) (j : Job) (a : Nat) : Bool :=
  let n := jobRow c j.bytes
  let cyc := max ((nowCount c - j.start) * ccNow c / 2) (c.plan.cyc - j.cyc)
  (List.range (field j.bytes 3 1)).any (fun i => (List.range n).any (fun k =>
    decide (i * (n / 4 + 256) + k / 4 < cyc) &&
      (match lineAt c (.region (field j.bytes 8 4)) (field j.bytes 0xC 4 + n * i + k : Nat) with
        | .at (x :: _) _ => x == a
        | .shared (x :: _) _ _ _ => x == a
        | _ => false)))

/-- The granule at an address is kept as it stands, unless an earlier state of it is kept already. -/
def keepGran (c : Chip) (h : HeldLines) (a : Nat) : HeldLines :=
  if h.any (fun x => x.1 == a / 64) then h else (a / 64, memBytes c.mem (a / 64 * 64) 64, granPoison c a) :: h

/-- A running job that keeps what the granule at an address holds, before a write to it: a line of logits that it has
read, and the serving tables, which it reads as they stood. -/
def holdJob (c : Chip) (a : Nat) (j : Job) : Job :=
  if jobHasRead c j a || inRegion c (reg c (key 0x6001 6)) a then { j with held := keepGran c j.held a } else j

/-- Before a write to the granule at an address: the running jobs keep what they have read or read as it stood, and the
serving tables stand as at the last boundary for the jobs that start before the next (08 R246). -/
def holdGran (c : Chip) (a : Nat) : Chip :=
  { c with srv := { c.srv with
      job := c.srv.job.map (fun x => x.map (holdJob c (a / 64 * 64))),
      tablesHeld := if c.srv.snap.isSome && inRegion c (reg c (key 0x6001 6)) (a / 64 * 64) then
        keepGran c c.srv.tablesHeld a else c.srv.tablesHeld } }

/-- Before a write of n bytes from an address. -/
def holdSpan (c : Chip) (a n : Nat) : Chip :=
  (List.range (cdiv (a % 64 + n) 64)).foldl (fun c i => holdGran c (a / 64 * 64 + 64 * i)) c

/-! ## Writes at their memory points -/

/-- A line of the scheduled plane is written where it lies; a page that is resident is dirty from it on (07 R208). -/
def putLine (c : Chip) (as : List Nat) (pg : Option PageRef) (cmd : Option (Nat × Nat)) (d : List Byte) (p : Bool) : Chip :=
  let w := placed c as pg
  let c := w.1.foldl (fun c a => writeGran (holdGran c a) a d p) c
  let c := match w.2 with
    | some x => soilPage c x.region (x.line / 1024)
    | none => c
  cmdArrives c cmd d

/-- A late write is performed. -/
def performLate (c : Chip) (x : LateWrite) : Chip := putLine c x.addrs x.page x.cmd x.data x.poison

/-- The late writes that a write performed at its memory point comes after: those of its stacks and channels, which serve in
order of memory point (07 R198), and those of its own line. They have been performed by then. -/
def lateBefore (c : Chip) (as : List Nat) (pg : Option PageRef) : Chip :=
  let mine := fun (x : LateWrite) => (as.map unitOf).contains x.unit ||
    (match x.page, pg with
      | some a, some b => a.region == b.region && a.line == b.line
      | _, _ => false)
  (c.late.filter mine).foldl performLate { c with late := c.late.filter (fun x => !mine x) }

/-- Write a line of the scheduled plane. -/
def storeLine (c : Chip) (site : Nat) (w : LineAt) (cmd : Option (Nat × Nat)) (d : List Byte) (p late : Bool) : Chip :=
  match w with
  | .out => lineFault c site
  | .absent => lineFault c site
  | .unallocated die s => kvDiscard c die s
  | .shared _ _ die s => kvDiscard c die s
  | .at as pg =>
    let w := placed c as pg
    let c := countPage c w.2 true
    if late then
      let c := lateLine c (w.1.headD 0) true
      { c with late := c.late ++ [⟨unitOf (w.1.headD 0), w.1, w.2, d, p, cmd⟩] }
    else putLine (lateBefore c w.1 w.2) w.1 w.2 cmd d p

end Sys2Proof.Machine
end

