-- ==== Sys2Proof/Machine/Lines.lean ====
section
/-! DEFINITION. What the lines of an access instruction do in their cycles (05 R130 to R134 R146, 04 R108, 07 R195 R196,
11 R340 R346, 12 R376 R377): moves between tile store, queues, operand cache, regions, tiles, coaches and the steward's
exchange area. -/

namespace Sys2Proof.Machine

/-! ## Ports, coaches and the yard (05 R134, 06 R161, 12 R372 R376 R377) -/

/-- The port of a link. -/
def portAt (c : Chip) (p : Nat) : Port := smGet Port.reset c.ports p

/-- Put a port. -/
def setPort (c : Chip) (p : Nat) (x : Port) : Chip := { c with ports := smSet Port.reset c.ports p x }

/-- Change a port. -/
def modPort (c : Chip) (p : Nat) (f : Port → Port) : Chip := setPort c p (f (portAt c p))

/-- The version whose lengths a port's lanes run by: at base rate version 2, at full rate version 3 (11 R357
R369), and the negotiated one where neither training rate is in force. -/
def lineVersion (c : Chip) (p : Nat) : Nat :=
  match (portAt c p).st with
  | .align | .exchange => if (portAt c p).fullRate then 3 else 2
  | _ => reg c (key (0x5100 + p) 4)

/-- Slot length of a port in hundredths of a tick: 128 times 1, 2 or 4 (11 R327 R369). -/
def slotUnits (c : Chip) (p : Nat) : Nat :=
  (if lineVersion c p = 2 then 2 else 1) * (if reg c (key (0x5100 + p) 5) = 2 then 2 else 1)

/-- The first absolute slot that begins at or after a count (12 R372). -/
def firstSlot (c : Chip) (p count : Nat) : Nat := cdiv (100 * count) (128 * slotUnits c p)

/-- The count at which absolute slot a begins, in sixteenths of a tick (12 R372, 10 R300). -/
def slotStart16 (c : Chip) (p a : Nat) : Nat := 2048 * slotUnits c p * a / 100

/-- The count at which step m of the run begins (01 R22, 13 R426): the adjustments of earlier steps are in
the base, that of the step in hand moves the steps after it (10 R321). -/
def stepCount (c : Chip) (m : Nat) : Nat :=
  let t := c.plan.base + (m - c.plan.baseStep) * stepTicks c
  if c.plan.step < m then adjusted t c.time.qz5Adjust else t

/-- The slot record of a coach row's hop. -/
def slotRec (c : Chip) (row hop : Nat) : Option SlotRec :=
  match c.plan.image with
  | some im => im.slots.find? (fun r => r.row == row && r.hop == hop)
  | none => none

/-- The port bound to a coach row's hop. -/
def hopPort (c : Chip) (row hop : Nat) : Option Nat :=
  match c.plan.place with
  | some pl => (pl.hops.find? (fun x => x.1 == row && x.2.1 == hop)).map (·.2.2)
  | none => none

/-- The own logical device. -/
def ownDev (c : Chip) : Nat :=
  match c.plan.place with
  | some pl => pl.own
  | none => 0

/-- The row of the coach table that a CSND names. -/
def sendRow (c : Chip) (n : Nat) : Option (Nat × CoachRow) :=
  match c.plan.image with
  | some im => (im.coaches.zipIdx.find? (fun (r, _) => r.src == ownDev c && r.sendNo == n)).map (fun (r, i) => (i, r))
  | none => none

/-- The row of the coach table that a CRCV names. -/
def recvRow (c : Chip) (n : Nat) : Option (Nat × CoachRow) :=
  match c.plan.image with
  | some im => (im.coaches.zipIdx.find? (fun (r, _) =>
      r.path.getD (r.hops - 1) ones32 == ownDev c && r.recvNo == n)).map (fun (r, i) => (i, r))
  | none => none

/-- The absolute slot of slot number s of the step after `next` steps from the one running. -/
def absSlot (c : Chip) (p step s : Nat) : Nat := firstSlot c p (stepCount c step) + s

/-- The port carries coaches and carts: port 31 only in a role (12 R388). -/
def portOpen (c : Chip) (p : Nat) : Bool := p != 31 || reg c (key 0x5010 1) != 0

/-- Hand a coach carriage to its port: it waits for its slot, or in the backlog where that slot has
begun (11 R340). A port without a role carries none (12 R388): what is handed to it goes nowhere. -/
def handCoach (c : Chip) (p : Nat) (x : Coach) : Chip :=
  if portOpen c p then
    modPort c p (fun q => if x.abs < q.slotNext then { q with backlog := q.backlog ++ [x] }
      else { q with atPort := q.atPort ++ [x] })
  else c

/-- The yard place of carriage k of a coach released in a step, and the parity of its slots (12 R377). -/
def yardPlace (step : Nat) (sr : SlotRec) (k : Nat) : Nat × Nat :=
  let send := step - (if sr.relNext then 1 else 0)
  let par := (send + (if sr.next then 1 else 0)) % 2
  ((if par = 0 then sr.even else sr.odd) + k, par)

/-- Carriage k of a coach sent in a step: the slot it goes in. -/
def coachOf (c : Chip) (sr : SlotRec) (step p k : Nat) (lines : List (List Byte × Bool)) : Coach :=
  let step := step + (if sr.next then 1 else 0)
  let s := sr.first + k * sr.stride
  ⟨absSlot c p step s, s, step % 2, (lines.zipIdx).foldl (fun n (x, g) => if x.2 then n + 2 ^ g else n) 0,
    lines.flatMap (fun x => slice x.1 0 64)⟩

/-! ## The steward's exchange area (05 R146) -/

/-- The steward of a die. -/
def stewAt (c : Chip) (d : Nat) : Steward := smGet Steward.reset c.stew d

/-- Put a steward. -/
def setStew (c : Chip) (d : Nat) (x : Steward) : Chip := { c with stew := smSet Steward.reset c.stew d x }

/-- Write bytes into a sparse byte memory. -/
def putBytes (m : SMap Byte) (a : Nat) : List Byte → SMap Byte
  | [] => m
  | b :: t => putBytes (smSet 0 m a b) (a + 1) t

/-- Read bytes of a sparse byte memory. -/
def getBytes (m : SMap Byte) (a : Nat) : Nat → List Byte
  | 0 => []
  | n + 1 => smGet 0 m a :: getBytes m (a + 1) n

/-- A line lands in the exchange area of a die's steward, over whatever errors stood there; its poison goes with it
(16 R486). -/
def landExchange (c : Chip) (site : Nat) (line : Int) (d : List Byte) (p : Bool) : Chip :=
  match inRange line 1024 with
  | some l =>
    let w := stewAt c (site / 48)
    let c := dropFlaws c (fun x => match x with
      | .steward e m a => e == site / 48 && m == 1 && a / 64 == 0x10070000 / 64 + l
      | _ => false)
    setStew c (site / 48) { w with exchange := putBytes w.exchange (64 * l) (slice d 0 64), exPoison := nsPut w.exPoison l p }
  | none => lineFault c site

/-! ## The start of an access instruction -/

/-- The tiles that issue, in ascending logical tile number (07 R196). -/
def orderedSites (c : Chip) (i : Issue) : List Nat :=
  sortBy (fun a b => decide ((tileAt c a).ti < (tileAt c b).ti)) (issueSites c i)

/-- The bank of the first tile-store line, the same in every tile (05 R130 R133). -/
def firstBank (c : Chip) (i : Issue) (a : LineAddr) : Nat :=
  (lineVal c i { Tile.reset with ti := 0 } a % 16).toNat

/-- No operand. -/
def noLine : LineAddr := ⟨0, 0, 0, 0, 0, 0, none⟩

/-- The lines of an access instruction in a tile, the two addresses given. -/
def actTile (c : Chip) (i : Issue) (line other : LineAddr) (site : Nat) : ActTile :=
  let t := tileAt c site
  ⟨site, t.ti, lineVal c i t line, lineVal c i t other, [], []⟩

/-- The latency L of a tier in core cycles (07 R195). -/
def tierLatency (c : Chip) (hbm : Bool) : Nat := (if hbm then 64 else 160) * ccNow c

/-- What an MLD names lies in HBM: a region of tier 0, or the copy of a weight view that its first line names. -/
def inHbm (c : Chip) (r : RegionRef) (l : Int) : Bool :=
  match r with
  | .region n => match regionOf c n with
    | some r => r.tier == 0
    | none => true
  | .view e =>
    match copyIn (wentry c e) (if l < 1073741824 then .live else .draining) with
    | some x => x.tier == 0
    | none => true

/-- The line that a line address gives in the first tile that issues. -/
def firstLine (c : Chip) (i : Issue) (a : LineAddr) : Int :=
  lineVal c i (((orderedSites c i).head?.map (tileAt c)).getD { Tile.reset with ti := 0 }) a

/-- An act that begins in the present cycle. -/
def newAct (c : Chip) (i : Issue) (x : Instr) (n lead : Nat) (ts : LineAddr) (tiles : List ActTile) : Act :=
  ⟨i.die.val, x, c.plan.cyc, c.plan.step, 0, 0, n, firstBank c i ts, lead, tiles⟩

/-- Parameters bp[16 j] to bp[16 j + 15] as an entry. -/
def bpEntry (c : Chip) (j : Nat) : List Byte :=
  (List.range 16).flatMap (fun k => leBytes 4 (c.plan.params.getD (16 * j + k) 0))

/-- The carriages of a coach that this module sends, or receives. -/
def coachSize (r : Option (Nat × CoachRow)) : Nat :=
  match r with
  | some x => x.2.k
  | none => 0

/-- The act of an access instruction, addresses and regions resolved at issue (05 R130, 07 R199). -/
def actOf (c : Chip) (x : Instr) : Option Act :=
  match x with
  | .tql i _ src n => some (newAct c i x n 1 src ((orderedSites c i).map (actTile c i src noLine)))
  | .tqp i _ src n => some (newAct c i x n 1 src ((orderedSites c i).map (actTile c i src noLine)))
  | .bpq i _ j => some (newAct c i x 1 1 noLine ((orderedSites c i).map (fun s =>
      { actTile c i noLine noLine s with held := [(bpEntry c j.val, false)] })))
  | .qts i dst _ n => some (newAct c i x n 1 dst ((orderedSites c i).map (actTile c i dst noLine)))
  | .ocfl i oc ts n => some (newAct c i x n 1 ts ((orderedSites c i).map (actTile c i ts oc)))
  | .ocwb i oc ts n => some (newAct c i x n 1 ts ((orderedSites c i).map (actTile c i ts oc)))
  | .oczr i oc n => some (newAct c i x n 1 noLine ((orderedSites c i).map (actTile c i noLine oc)))
  | .mld i dst r off n _ =>
    some (newAct c i x n (tierLatency c (inHbm c r (firstLine c i off))) dst ((orderedSites c i).map (fun s =>
      let u := actTile c i dst off s
      { u with target := (List.range n).map (fun (k : Nat) => (lineAt c r (u.other + k), none)) })))
  | .mst i r off src n _ => some (newAct c i x n 1 src ((orderedSites c i).map (fun s =>
      let u := actTile c i src off s
      { u with target := (List.range n).map (fun (k : Nat) =>
          (storeAt c r (u.other + k), cmdLine c r (u.other + k))) })))
  | .mvt i t _ src n => some (newAct c i x n 1 src ((orderedSites c i).map (fun s =>
      { actTile c i src noLine s with other := tileNum c (tileAt c s) t })))
  | .mrx i t dst n => some (newAct c i x n 0 dst ((orderedSites c i).map (fun s =>
      { actTile c i dst noLine s with other := tileNum c (tileAt c s) t })))
  | .csnd i coach src =>
    some (newAct c i x (4 * coachSize (sendRow c coach)) 1 src ((orderedSites c i).map (fun s =>
      { actTile c i src noLine s with other := c.plan.step })))
  | .crcv i coach dst =>
    some (newAct c i x (4 * coachSize (recvRow c coach)) 40 dst ((orderedSites c i).map (actTile c i dst noLine)))
  | .swr i off src n => some (newAct c i x n 1 src ((orderedSites c i).map (actTile c i src off)))
  | _ => none

/-- A read of a weight view has the latency of the tier of each tile's copy (09 R292): the tiles whose copies lie in HBM and
those whose copies lie in MRDIMM part. -/
def tierParts (c : Chip) (x : Instr) (a : Act) : List Act :=
  match x with
  | .mld _ _ (.view e) _ _ _ =>
    let p := a.tiles.partition (fun u => inHbm c (.view e) u.other)
    if p.1.isEmpty ∨ p.2.isEmpty then [a]
    else [{ a with lead := tierLatency c true, tiles := p.1 }, { a with lead := tierLatency c false, tiles := p.2 }]
  | _ => [a]

/-! ## One line in one tile -/

/-- A scheduled-plane line with no receiver, or a receiver with no line (05 R134 R147). -/
def mismatch (c : Chip) (site : Nat) : Chip := streamFault c 5 site 1

/-- Module address of an operand cache line, taken modulo 4,096. -/
def cacheLine (site : Nat) (x : Int) : Nat := wordAddr site (16 * (x % 4096).toNat)

/-- Logical tiles per die of the plan. -/
def planTpd (c : Chip) : Nat :=
  match c.plan.image with
  | some im => im.hdr.tpd
  | none => 48

/-- Two logical tiles lie on different logical dies (05 R131 R132). -/
def farTiles (c : Chip) (a b : Nat) : Bool := a / planTpd c != b / planTpd c

/-- A line on its way to a stop: from a logical tile to the site of another, seen in the present cycle. -/
def isArrival (now site src : Nat) (f : Flying) : Bool :=
  match f.what with
  | .stop s t _ _ => decide (f.cycle ≤ now) && s == site && t == src
  | _ => false

/-- The data of an arrival. -/
def arrivalData (f : Flying) : List Byte × Bool :=
  match f.what with
  | .stop _ _ d p => (d, p)
  | _ => (zeroLine, true)

/-- Line k of an MRX in a tile: the line of the named source that reaches the stop in this cycle; without one 64 zero
bytes, poisoned (05 R131 R134). -/
def receiveLine (c : Chip) (u : ActTile) (k : Nat) : Chip :=
  let mine := isArrival c.plan.cyc u.site u.other.toNat
  match c.flying.find? mine with
  | some f =>
    let d := arrivalData f
    writeLine { c with flying := c.flying.eraseP mine } u.site (u.line + k) d.1 d.2
  | none => writeLine (mismatch c u.site) u.site (u.line + k) zeroLine true

/-- Line k of an MVT leaves for the destination tile; where no tile has that number it has no receiver. -/
def sendLine (c : Chip) (u : ActTile) (k : Nat) : Chip :=
  let r := readLine c u.site (u.line + k)
  match siteOf c u.other.toNat with
  | some d =>
    launch r.1 (c.plan.cyc + (if farTiles c u.ti u.other.toNat then 39 else 15)) (.stop d u.ti r.2.1 r.2.2)
  | none => mismatch r.1 u.site

/-- Line k of a CSND is read; the fourth of a carriage completes it, and it reaches the port of hop 1 39 cycles later. -/
def sendCoach (c : Chip) (coach : Nat) (u : ActTile) (k : Nat) : Chip × ActTile :=
  let r := readLine c u.site (u.line + k)
  let held := u.held ++ [(r.2.1, r.2.2)]
  if k % 4 < 3 then (r.1, { u with held := held })
  else
    (match sendRow c coach with
      | some (row, _) =>
        match hopPort c row 1, slotRec c row 1 with
        | some p, some sr => launch r.1 (c.plan.cyc + 39) (.coach p (coachOf c sr u.other.toNat p (k / 4) held))
        | _, _ => r.1
      | none => r.1, { u with held := [] })

/-- Write the line held for a tile. -/
def writeHeld (c : Chip) (u : ActTile) (k : Nat) : Chip × ActTile :=
  let x := u.held.headD (zeroLine, true)
  (writeLine c u.site (u.line + k) (slice x.1 0 64) x.2, { u with held := u.held.drop 1 })

/-- What line k of an access instruction does in a tile in the cycle of its bank (05 R131). -/
def moveLine (x : Instr) (k : Nat) (c : Chip) (u : ActTile) : Chip × ActTile :=
  let now := c.plan.cyc
  match x with
  | .tql _ q _ _ =>
    let r := readLine c u.site (u.line + k)
    (launch r.1 (now + 1) (.entry u.site q.val r.2.1 r.2.2), u)
  | .tqp _ qp _ _ =>
    let r := readLine c u.site (u.line + k)
    (launch r.1 (now + 1) (.entry u.site (qp.val + k % 2) r.2.1 r.2.2), u)
  | .bpq _ q _ =>
    let e := u.held.headD (zeroLine, true)
    (launch c (now + 1) (.entry u.site q.val e.1 e.2), u)
  | .qts .. => writeHeld c u k
  | .ocfl .. =>
    let r := readLine c u.site (u.line + k)
    (writeGran r.1 (cacheLine u.site (u.other + k)) r.2.1 r.2.2, u)
  | .ocwb .. =>
    let r := readGran c (cacheLine u.site (u.other + k)) .cycle false
    (writeLine r.1 u.site (u.line + k) r.2.1 r.2.2, u)
  | .oczr .. => (writeGran c (cacheLine u.site (u.other + k)) zeroLine false, u)
  | .mld .. => writeHeld c u k
  | .mst _ _ _ _ _ late =>
    let r := readLine c u.site (u.line + k)
    let w := u.target.getD k (.out, none)
    (launch r.1 (now + 40) (.region u.site u.ti w.1 w.2 r.2.1 r.2.2 (late.contains k)), u)
  | .mvt .. => (sendLine c u k, u)
  | .mrx .. => (receiveLine c u k, u)
  | .csnd _ coach _ => sendCoach c coach u k
  | .crcv .. => writeHeld c u k
  | .swr .. =>
    let r := readLine c u.site (u.line + k)
    (launch r.1 (now + 16) (.exchange u.site (u.other + k) r.2.1 r.2.2), u)
  | _ => (c, u)

/-- An effect in every tile of an act, in order. -/
def inTiles (f : Chip → ActTile → Chip × ActTile) : Chip → List ActTile → Chip × List ActTile
  | c, [] => (c, [])
  | c, u :: rest =>
    let r := f c u
    let s := inTiles f r.1 rest
    (s.1, r.2 :: s.2)

/-- Lines k to k + n − 1 of an act, line by line. -/
def moveLines (x : Instr) : Nat → Nat → Chip → List ActTile → Chip × List ActTile
  | 0, _, c, us => (c, us)
  | n + 1, k, c, us =>
    let r := inTiles (moveLine x k) c us
    moveLines x n (k + 1) r.1 r.2

/-! ## What a line reads before its bank's cycle -/

/-- QTS reads an entry in each cycle, a cycle before it is written (05 R131); a missing one gives 64 zero bytes, poisoned
(05 R129). -/
def queueStage (a : Act) (c : Chip) (u : ActTile) : Chip × ActTile :=
  match a.x with
  | .qts _ _ q _ =>
    let j := a.k + u.held.length
    if j < a.n ∧ a.s + j + a.slip ≤ c.plan.cyc then
      let r := readFrom c u.site q.val
      (r.1, { u with held := u.held ++ [match r.2 with
        | some e => (slice e.data 0 64, e.poison)
        | none => (zeroLine, true)] })
    else (c, u)
  | _ => (c, u)

/-- The line of an MLD whose memory point is the present cycle (07 R195). -/
def memoryStage (a : Act) (c : Chip) (u : ActTile) : Chip × ActTile :=
  match a.x with
  | .mld _ _ _ _ _ late =>
    let k := c.plan.cyc - (a.s + 41)
    if a.s + 41 ≤ c.plan.cyc ∧ k < a.n then
      let r := loadLine c u.site (u.target.getD k (.out, none)).1 (late.contains k)
      (r.1, { u with held := u.held ++ [(r.2.1, r.2.2)] })
    else (c, u)
  | _ => (c, u)

/-- The four lines of a carriage out of the yard; what is not there is 64 zero bytes, poisoned, in each tile counted and
reported (05 R134). -/
def carriageLines (held : Option Held) (c : Chip) (u : ActTile) : Chip × ActTile :=
  match held with
  | some h =>
    (c, { u with held := u.held ++ (List.range 4).map (fun g => (slice h.payload (64 * g) 64, h.poison.testBit g)) })
  | none =>
    (streamFault c 5 u.site 4, { u with held := u.held ++ List.replicate 4 (zeroLine, true) })

/-- The error strikes a granule of a place of a port's yard. -/
def inPlace (p place : Nat) : Spot → Bool
  | .yard q n _ => q == p && n == place
  | _ => false

/-- The carriage in a place of a yard as it is read: an error is corrected, or its granule comes as stored and poisoned;
each is reported (11 R345, 14 R432). -/
def takePlace (c : Chip) (p place : Nat) : Chip × Option Held :=
  (flawsOf c (inPlace p place)).foldl (fun r f => match f.spot, r.2 with
    | .yard _ _ g, some h =>
      let c := dropFlaw r.1 f.spot
      if f.unc then
        (report c 0x0206 (.port p) .cycle [place],
          some ⟨splice h.payload (64 * g) (xorMask (slice h.payload (64 * g) 64) f.mask), h.poison ||| 2 ^ g⟩)
      else (report c 0x0205 (.port p) .cycle [place], some h)
    | _, _ => r) (c, smGet none (portAt c p).yard place)

/-- CRCV takes a carriage from the yard in every fourth cycle from its issue, 40 cycles before it is written; its place
becomes free (05 R134, 11 R346). -/
def yardStage (a : Act) (c : Chip) : Chip × List ActTile :=
  match a.x with
  | .crcv _ coach _ =>
    let k := (c.plan.cyc - a.s) / 4
    if (c.plan.cyc - a.s) % 4 = 0 ∧ 4 * k < a.n then
      match recvRow c coach with
      | some (row, r) =>
        match hopPort c row r.hops, slotRec c row r.hops with
        | some p, some sr =>
          let pl := yardPlace a.step sr k
          let r := takePlace c p pl.1
          let held := r.2
          let c := modPort r.1 p (fun q => { q with
            yard := smSet none q.yard pl.1 none,
            yardRead := nsInsert q.yardRead (2 * pl.1 + pl.2) })
          inTiles (carriageLines held) c a.tiles
        | _, _ => (c, a.tiles)
      | none => (c, a.tiles)
    else (c, a.tiles)
  | _ => (c, a.tiles)

/-! ## Memory points -/

/-- The command lines that arrived at one memory point stand in ascending line order (08 R246). -/
def sortDue (before : Nat) (c : Chip) : Chip :=
  let l := c.srv.cmdDue
  let r := sortBy (fun (a b : Nat × Nat × List Byte) => decide (a.2.1 < b.2.1)) (l.drop before)
  { c with srv := { c.srv with cmdDue := l.take before ++ r } }

end Sys2Proof.Machine
end

