-- ==== Sys2Proof/Machine/Cycles.lean ====
section
/-! DEFINITION. The cycles of the plan: what lands, what the access instructions in progress and the tiles do in one
cycle, and the issue of an instruction in its cycle (05 R120 R121 R131 R133 R136, 07 R196). -/

namespace Sys2Proof.Machine

/-! ## One cycle -/

/-- What lands in the present cycle, or should have. -/
def landing (c : Chip) : List Landing := (c.flying.filter (fun f => decide (f.cycle ≤ c.plan.cyc))).map (·.what)

/-- It lies in the cycle to be met by an MRX. -/
def atStop : Landing → Bool
  | .stop .. => true
  | _ => false

/-- What lands leaves the air, but for the lines that wait at a stop for an MRX of this cycle. -/
def landed (c : Chip) : Chip :=
  { c with flying := c.flying.filter (fun f => decide (c.plan.cyc < f.cycle) || atStop f.what) }

/-- An entry reaches its queue. -/
def landEntry (c : Chip) (x : Landing) : Chip :=
  match x with
  | .entry site q d p => pushTo c site q d p
  | _ => c

/-- A write meets its memory point (07 R195 R196 R198). -/
def landRegion (c : Chip) (x : Landing) : Chip :=
  match x with
  | .region site _ target cmd d p late => storeLine c site target cmd d p late
  | _ => c

/-- A line reaches a steward's exchange area, a carriage its port. -/
def landOther (c : Chip) (x : Landing) : Chip :=
  match x with
  | .exchange site line d p => landExchange c site line d p
  | .coach p x => handCoach c p x
  | _ => c

/-- The logical tile that a region line comes from; other landings stand before them. -/
def writerTile : Landing → Nat
  | .region _ ti _ _ _ _ _ => ti + 1
  | _ => 0

/-- A stage of every act in its tiles. -/
def stageActs (f : Act → Chip → ActTile → Chip × ActTile) : List Act → Chip → Chip × List Act
  | [], c => (c, [])
  | a :: rest, c =>
    let r := inTiles (f a) c a.tiles
    let s := stageActs f rest r.1
    (s.1, { a with tiles := r.2 } :: s.2)

/-- Apply a stage to the acts that the chip holds. -/
def withStage (f : Act → Chip → ActTile → Chip × ActTile) (c : Chip) : Chip :=
  let r := stageActs f c.acts c
  { r.1 with acts := r.2 }

/-- The yard stage of every act. -/
def yardActs : List Act → Chip → Chip × List Act
  | [], c => (c, [])
  | a :: rest, c =>
    let r := yardStage a c
    let s := yardActs rest r.1
    (s.1, { a with tiles := r.2 } :: s.2)

/-- The lines that an act moves in this cycle: `new` is the act after its banks were dealt out. -/
def moveAct (old : List Act) (c : Chip) (new : Act) : Chip × Act :=
  match old.find? (fun a => a.s == new.s && a.die == new.die && a.x == new.x && a.lead == new.lead) with
  | some a =>
    let r := moveLines new.x (new.k - a.k) a.k c new.tiles
    (r.1, { new with tiles := r.2 })
  | none => (c, new)

/-- The same for each of a list. -/
def moveActs (old : List Act) : List Act → Chip → Chip × List Act
  | [], c => (c, [])
  | a :: rest, c =>
    let r := moveAct old c a
    let s := moveActs old rest r.1
    (s.1, r.2 :: s.2)

/-- The routing of a die's mortar is checked while lines move there (14 R432). -/
def mortarChecks (c : Chip) : Chip :=
  (List.range 4).foldl (fun c d => if c.acts.any (fun a => a.die == d) then controlCheck c d 1 .cycle else c) c

/-- Banks are dealt out on every die, and the lines that have theirs move: those through the stops inbound first. -/
def moveDies (c : Chip) : Chip :=
  let new := (List.range 4).flatMap (fun d => serveDie (seqAt c d).clock c.plan.cyc (c.acts.filter (fun a => a.die == d)))
  let out := moveActs c.acts (new.filter (fun a => !inboundAct a.x)) c
  let inb := moveActs c.acts (new.filter (fun a => inboundAct a.x)) out.1
  { inb.1 with acts := inb.2 ++ out.2 }

/-- Lines that no MRX of this cycle received are dropped (05 R134 R147). -/
def dropLines (c : Chip) : Chip :=
  let lost := c.flying.filter (fun f => decide (f.cycle ≤ c.plan.cyc) && atStop f.what)
  lost.foldl (fun c f => match f.what with
    | .stop site _ _ _ => mismatch c site
    | _ => c) { c with flying := c.flying.filter (fun f => !(decide (f.cycle ≤ c.plan.cyc) && atStop f.what)) }

/-- The broadcast of a die carried an execute instruction in the present cycle. -/
def heardX (c : Chip) (d : Nat) : Bool := (seqAt c d).lastX == some c.plan.cyc

/-- The end of the cycle in every tile. -/
def tileCycles (c : Chip) : Chip :=
  (c.tiles.map (·.1)).foldl (fun c site => tileCycle (heardX c (site / 48)) c site) c

/-- Lines of an act cross to another die. -/
def farAct (c : Chip) (a : Act) : Bool :=
  match a.x with
  | .mvt .. => a.tiles.any (fun u => farTiles c u.ti u.other.toNat)
  | _ => false

/-- The count at which the cycle in hand begins (01 R22). -/
def syncCount (c : Chip) : Chip := reach c (c.plan.stepStart + 2 * (c.plan.cyc - c.plan.cyc0) / ccNow c)

/-- Cycles pass. -/
def passCycles (n : Nat) (c : Chip) : Chip := syncCount { c with plan := { c.plan with cyc := c.plan.cyc + n } }

/-- The lines and entries of the present cycle: what was written lands before anything reads; reads of a memory point come
before its writes, and of these the higher logical tile's is last (05 R126, 07 R196). -/
def lineCycle (c : Chip) : Chip :=
  let now := landing c
  let c := withStage memoryStage (now.foldl landEntry (landed c))
  let before := c.srv.cmdDue.length
  let c := (sortBy (fun a b => decide (writerTile a < writerTile b)) now).foldl landRegion c
  let c := now.foldl landOther (sortDue before c)
  let y := yardActs c.acts c
  withStage queueStage (moveDies (mortarChecks { y.1 with acts := y.2 }))

/-- What is performed from now on. -/
def atMoment (m : Moment) (c : Chip) : Chip := { c with plan := { c.plan with moment := m } }

/-- One cycle of the module's plan. -/
def engineCycle (c : Chip) : Chip :=
  let c := atMoment .command (tileCycles (dropLines (lineCycle (atMoment .cycle c))))
  passCycles 1 { c with acts := c.acts.filter (fun a => !a.over (farAct c a) c.plan.cyc) }

/-- Nothing is under way: no access instruction in progress, nothing in the air, every tile still. -/
def still (c : Chip) : Bool := c.acts.isEmpty && c.flying.isEmpty && c.tiles.all (fun x => x.2.still)

/-- n cycles. -/
def advance : Nat → Chip → Chip
  | 0, c => c
  | n + 1, c => if still c then passCycles (n + 1) c else advance n (engineCycle c)

/-- The cycle that follows the last of the step. -/
def stepEnd (c : Chip) : Nat := c.plan.cyc0 + stepCycles c

/-- The cycles that the count has passed, up to the end of the step. -/
def passed (c : Chip) : Chip :=
  if c.plan.state = .running then
    advance (min (c.plan.cyc0 + countCycle c) (stepEnd c) - c.plan.cyc) c
  else c

/-- The cycles to the end of the step. -/
def finishStep (c : Chip) : Chip := advance (stepEnd c - c.plan.cyc) c

/-! ## The gate of a program -/

/-- The program may issue: the plan runs, and it has neither ended, nor waits at an XBAR, nor was stopped for the step, nor
is held beyond it (05 R120 R136 R139, 14 R432). -/
def mayIssue (c : Chip) (d : Nat) (exe : Bool) : Bool :=
  let q := seqAt c d
  c.plan.state == .running &&
    (if exe then !q.endX && !q.deadX && !q.pastX && q.barX.isNone else !q.endA && !q.deadA && !q.pastA && q.barA.isNone)

/-- The acts of a die. -/
def dieActs (c : Chip) (d : Nat) : List Act := c.acts.filter (fun a => a.die == d)

/-- The cycle in which an instruction becomes eligible: its wait count after the last issue of its program, which issues
one instruction a cycle; the first one of a step counts from the step's first cycle (05 R117 R120). -/
def eligible (c : Chip) (i : Issue) (exe : Bool) : Nat :=
  let q := seqAt c i.die.val
  match (if exe then q.lastX else q.lastA) with
  | some l => l + max 1 i.wait
  | none => c.plan.cyc0 + i.wait

/-- The cycle from which no hold of its stream keeps it (05 R120 R127 R136). An XBAR waits until every earlier instruction
of its stream has retired. -/
def heldTo (c : Chip) (d : Nat) (exe : Bool) (x : Instr) : Nat :=
  let k := (seqAt c d).clock
  match x with
  | .xbar .. => if exe then k.retired else if (dieActs c d).isEmpty then 0 else c.plan.cyc + 1
  | .ends .. => 0
  | x => if exe then execFrom k x else accessFrom (dieActs c d) x

/-- The cycle in which it issues, as far as can be said in the present one. -/
def issueCycle (c : Chip) (i : Issue) (exe : Bool) (x : Instr) : Nat :=
  max (eligible c i exe) (heldTo c i.die.val exe x)

/-- Cycles pass until it can issue, or the step is over; `fuel` bounds the trials. -/
def awaitIssue (i : Issue) (exe : Bool) (x : Instr) : Nat → Chip → Chip
  | 0, c => c
  | n + 1, c =>
    let t := issueCycle c i exe x
    if t ≤ c.plan.cyc ∨ stepEnd c ≤ t then c else awaitIssue i exe x n (advance (t - c.plan.cyc) c)

/-- The loop counters of an issue (05 R118). -/
def issueCtr (i : Issue) : List Nat := [i.c0, i.c1, i.c2, i.c3]

/-- The sequencer notes an issue in the present cycle: the loop counters, the cycle, the number of instructions issued, and
what the instruction holds (05 R118 R120 R125). -/
def noteIssue (c : Chip) (i : Issue) (exe : Bool) (x : Instr) : Chip :=
  let q := seqAt c i.die.val
  setSeq c i.die.val (if exe then
    { q with ctrX := issueCtr i, lastX := some c.plan.cyc, issuedX := q.issuedX + 1,
             clock := execAfter q.clock x c.plan.cyc }
    else { q with ctrA := issueCtr i, lastA := some c.plan.cyc, issuedA := q.issuedA + 1 })

/-- An error in the plan cache strikes a word of a program and variant of a die. -/
def inProgram (die variant : Nat) (exe : Bool) : Spot → Bool
  | .cache d x v _ => d == die && x == exe && v == variant
  | _ => false

/-- A program is stopped for the step (14 R432). -/
def stopProgram (c : Chip) (d : Nat) (exe : Bool) : Chip :=
  let q := seqAt c d
  setSeq c d (if exe then { q with deadX := true } else { q with deadA := true })

/-- The word of an instruction comes from the plan cache: a corrected error is logged; an uncorrectable one, logged,
delivers an instruction that changes nothing and stops its program for the step (14 R432). An error of a program's words is
met by the next word that the program fetches: DESIGN CHOICE (log 37). -/
def fetchWord (c : Chip) (i : Issue) (exe : Bool) (f : Chip → Chip) : Chip :=
  let d := i.die.val
  match (flawsOf c (inProgram d c.plan.variant exe)).head? with
  | none => f c
  | some x =>
    let det := match x.spot with
      | .cache _ _ v o => [if exe then 1 else 0, v, o]
      | _ => []
    let c := dropFlaw c x.spot
    if x.unc then stopProgram (report c 0x020C (.die d) .cycle det) d exe else f (report c 0x020B (.die d) .cycle det)

/-- An instruction is held beyond the step, and with it all that its program still has to issue in it (05 R120 R139). -/
def holdOver (c : Chip) (d : Nat) (exe : Bool) : Chip :=
  if c.plan.cyc < stepEnd c then
    setSeq c d (if exe then { seqAt c d with pastX := true } else { seqAt c d with pastA := true })
  else c

/-- Issue an instruction in its cycle, `f` being its effect: what cannot issue before the step is over does not, and has no
effect (05 R139). -/
def issueWith (s : State) (i : Issue) (exe : Bool) (x : Instr) (f : Chip → Chip) : Host.Outcome State Fault Refusal :=
  if x.wf then
    onRunning s (fun c =>
      let c := passed c
      if mayIssue c i.die.val exe then
        let w := awaitIssue i exe x (stepEnd c - c.plan.cyc) c
        if issueCycle w i exe x ≤ w.plan.cyc ∧ w.plan.cyc < stepEnd w then
          fetchWord (controlCheck w i.die.val 0 .cycle) i exe (fun c => f (noteIssue c i exe x))
        else holdOver c i.die.val exe
      else c)
  else .refused .illFormed

/-- Issue an instruction of the execute stream: in every tile of the die whose mask bit is set. -/
def issueX (s : State) (i : Issue) (x : Instr) : Host.Outcome State Fault Refusal :=
  issueWith s i true x (fun c => onSites c i (arrive x))

/-- An access instruction begins. -/
def beginAct (x : Instr) (c : Chip) : Chip :=
  match actOf c x with
  | some a => if a.n = 0 then c else { c with acts := c.acts ++ tierParts c x a }
  | none => c

/-- Issue an instruction of the access stream: its lines move in the cycles that follow. -/
def issueA (s : State) (i : Issue) (x : Instr) : Host.Outcome State Fault Refusal :=
  issueWith s i false x (beginAct x)

/-! ## Control (05 R136 R139) -/

/-- XBAR k of a program: the first to come holds; when the other program's XBAR of the same k comes both issue in its cycle. -/
def doXbar (exe : Bool) (k now : Nat) (q : Seq) : Seq :=
  if exe then
    if q.barA = some k then { q with barA := none, lastA := some now, issuedA := q.issuedA + 1 }
    else { q with barX := some k, issuedX := q.issuedX - 1 }
  else
    if q.barX = some k then { q with barX := none, lastX := some now, issuedX := q.issuedX + 1 }
    else { q with barA := some k, issuedA := q.issuedA - 1 }

/-- ENDS of a program. -/
def doEnds (exe : Bool) (q : Seq) : Seq := if exe then { q with endX := true } else { q with endA := true }

/-- Issue a control instruction of either program. -/
def issueCtl (s : State) (i : Issue) (exe : Bool) (x : Instr) (f : Nat → Seq → Seq) : Host.Outcome State Fault Refusal :=
  issueWith s i exe x (fun c => setSeq c i.die.val (f c.plan.cyc (seqAt c i.die.val)))

end Sys2Proof.Machine
end

