-- ==== Sys2Proof/Machine/Access.lean ====
section
/-! DEFINITION. Meanings of the access stream and of the control instructions (05 R131 R136 R139): each issues in its cycle
under the gate of its program; Lines.lean says what its lines do in theirs. -/

namespace Sys2Proof.Machine

/-- TQL. -/
def execTql (i : Issue) (q : Fin 8) (src : LineAddr) (n : Nat) (s : State) : Host.Outcome State Fault Refusal :=
  issueA s i (.tql i q src n)

/-- TQP. -/
def execTqp (i : Issue) (qp : Fin 8) (src : LineAddr) (n : Nat) (s : State) : Host.Outcome State Fault Refusal :=
  issueA s i (.tqp i qp src n)

/-- BPQ. -/
def execBpq (i : Issue) (q : Fin 8) (j : Fin 4) (s : State) : Host.Outcome State Fault Refusal :=
  issueA s i (.bpq i q j)

/-- QTS. -/
def execQts (i : Issue) (dst : LineAddr) (q : Fin 8) (n : Nat) (s : State) : Host.Outcome State Fault Refusal :=
  issueA s i (.qts i dst q n)

/-- OCFL. -/
def execOcfl (i : Issue) (oc ts : LineAddr) (n : Nat) (s : State) : Host.Outcome State Fault Refusal :=
  issueA s i (.ocfl i oc ts n)

/-- OCWB. -/
def execOcwb (i : Issue) (oc ts : LineAddr) (n : Nat) (s : State) : Host.Outcome State Fault Refusal :=
  issueA s i (.ocwb i oc ts n)

/-- OCZR. -/
def execOczr (i : Issue) (oc : LineAddr) (n : Nat) (s : State) : Host.Outcome State Fault Refusal :=
  issueA s i (.oczr i oc n)

/-- MLD. -/
def execMld (i : Issue) (dst : LineAddr) (r : RegionRef) (off : LineAddr) (n : Nat) (late : List Nat)
    (s : State) : Host.Outcome State Fault Refusal :=
  issueA s i (.mld i dst r off n late)

/-- MST. -/
def execMst (i : Issue) (r : RegionRef) (off src : LineAddr) (n : Nat) (late : List Nat)
    (s : State) : Host.Outcome State Fault Refusal :=
  issueA s i (.mst i r off src n late)

/-- MVT. Its destination line is the MRX's (05 R131: the matching MRX writes the line). -/
def execMvt (i : Issue) (t : TileRef) (dst src : LineAddr) (n : Nat) (s : State) : Host.Outcome State Fault Refusal :=
  issueA s i (.mvt i t dst src n)

/-- MRX. -/
def execMrx (i : Issue) (t : TileRef) (dst : LineAddr) (n : Nat) (s : State) : Host.Outcome State Fault Refusal :=
  issueA s i (.mrx i t dst n)

/-- CSND. -/
def execCsnd (i : Issue) (coach : Nat) (src : LineAddr) (s : State) : Host.Outcome State Fault Refusal :=
  issueA s i (.csnd i coach src)

/-- CRCV. -/
def execCrcv (i : Issue) (coach : Nat) (dst : LineAddr) (s : State) : Host.Outcome State Fault Refusal :=
  issueA s i (.crcv i coach dst)

/-- SWR. -/
def execSwr (i : Issue) (off src : LineAddr) (n : Nat) (s : State) : Host.Outcome State Fault Refusal :=
  issueA s i (.swr i off src n)

/-- XBAR. -/
def execXbar (i : Issue) (exe : Bool) (k : Fin 8) (s : State) : Host.Outcome State Fault Refusal :=
  issueCtl s i exe (.xbar i exe k) (doXbar exe k.val)

/-- ENDS. -/
def execEnds (i : Issue) (exe : Bool) (s : State) : Host.Outcome State Fault Refusal :=
  issueCtl s i exe (.ends i exe) (fun _ => doEnds exe)

end Sys2Proof.Machine
end

