-- ==== Sys2Proof/Machine/ArrayMeanings.lean ====
section
/-! DEFINITION. Meanings of the array instructions (03 R74): each issues under the gate of
its program in every tile its mask selects (05 R120 R124); `tileExec` says what it does there. -/

namespace Sys2Proof.Machine

/-- MPRE. -/
def execMpre (i : Issue) (f : Fmt) (qp : Fin 8) (qs : Option (Fin 8)) (s : State) : Host.Outcome State Fault Refusal :=
  issueX s i (.mpre i f qp qs)

/-- MSTR. -/
def execMstr (i : Issue) (f : Fmt) (qa : QSrc) (qs : Option (Fin 8)) (e : Fin 256) (n : Nat) (fresh swap mask : Bool) (s : State) : Host.Outcome State Fault Refusal :=
  issueX s i (.mstr i f qa qs e n fresh swap mask)

/-- MDRN. -/
def execMdrn (i : Issue) (e : Fin 256) (h : Fin 2) (v : Fin 64) (clear : Bool) (s : State) : Host.Outcome State Fault Refusal :=
  issueX s i (.mdrn i e h v clear)

/-- MSKL. -/
def execMskl (i : Issue) (v : Fin 64) (s : State) : Host.Outcome State Fault Refusal :=
  issueX s i (.mskl i v)

end Sys2Proof.Machine
end

