-- ==== Sys2Proof/Machine/EngineMem.lean ====
section
/-! DEFINITION. How the serving engines reach regions of the plan (08 R229 R232 R246 R251): whole
granules of a region, without the limits of R202, which bind stewards, host and carts only. -/

namespace Sys2Proof.Machine

/-- A granule as an engine sees it that holds some from earlier: what it holds, else the memory's. -/
def seenGran (h : HeldLines) (c : Chip) (a : Nat) : Chip × List Byte × Bool :=
  match h.find? (fun x => x.1 == a / 64) with
  | some x => (c, x.2.1, x.2.2)
  | none => readGran c a .cycle false

/-- An engine that holds some granules reads line l of region n. A line out of range, and an absent region, gives
zeros, poisoned; a line of no page gives zeros (08 R236). -/
def seenLine (h : HeldLines) (c : Chip) (n l : Nat) : Chip × List Byte × Bool :=
  match lineAt c (.region n) l with
  | .at (a :: _) _ => seenGran h c a
  | .shared (a :: _) _ _ _ => seenGran h c a
  | .unallocated _ _ => (c, zeroLine, false)
  | _ => (c, zeroLine, true)

/-- It reads k lines from line l: the bytes, and whether any line was poisoned. -/
def seenLines (h : HeldLines) (c : Chip) (n l k : Nat) : Chip × List Byte × Bool :=
  (List.range k).foldl (fun (x : Chip × List Byte × Bool) (i : Nat) =>
    let r := seenLine h x.1 n (l + i)
    (r.1, x.2.1 ++ r.2.1, x.2.2 || r.2.2)) (c, [], false)

/-- It reads len bytes from byte off of a region. -/
def seenRead (h : HeldLines) (c : Chip) (n off len : Nat) : Chip × List Byte × Bool :=
  if len = 0 then (c, [], false)
  else
    let l0 := off / 64
    let r := seenLines h c n l0 ((off + len - 1) / 64 - l0 + 1)
    (r.1, (r.2.1.drop (off % 64)).take len, r.2.2)

/-- An engine reads a line, lines or bytes of a region as they stand. -/
def engLine (c : Chip) (n l : Nat) : Chip × List Byte × Bool := seenLine [] c n l

/-- See `engLine`. -/
def engLines (c : Chip) (n l k : Nat) : Chip × List Byte × Bool := seenLines [] c n l k

/-- See `engLine`. -/
def engRead (c : Chip) (n off len : Nat) : Chip × List Byte × Bool := seenRead [] c n off len

/-- An engine writes one line of a region. -/
def engPut (c : Chip) (n l : Nat) (d : List Byte) (p : Bool) : Chip :=
  match lineAt c (.region n) l with
  | .at as pg =>
    let c := as.foldl (fun c a => writeGran (holdGran c a) a d p) c
    match pg with
    | some x => soilPage c x.region (x.line / 1024)
    | none => c
  | _ => c

/-- An engine writes bytes, a whole number of lines, from line l. -/
def engWrite (c : Chip) (n l : Nat) (d : List Byte) : Chip :=
  (List.range (cdiv d.length 64)).foldl (fun c (i : Nat) => engPut c n (l + i) (slice d (64 * i) 64) false) c

/-- An engine writes bytes from any byte of a region: the rest of a line stays. -/
def engPatch (c : Chip) (n off : Nat) (d : List Byte) : Chip :=
  if d.isEmpty then c
  else
    let l0 := off / 64
    let k := (off + d.length - 1) / 64 - l0 + 1
    (List.range k).foldl (fun c (i : Nat) =>
      let r := engLine c n (l0 + i)
      let lo := 64 * (l0 + i)
      let new := (List.range 64).map (fun j =>
        if off ≤ lo + j ∧ lo + j < off + d.length then d.getD (lo + j - off) 0 else r.2.1.getD j 0)
      let whole := decide (off ≤ lo) && decide (lo + 64 ≤ off + d.length)
      engPut r.1 n (l0 + i) new (r.2.2 && !whole)) c

/-! ## Serving settings (08 R220) -/

/-- Entry 6000h of a subindex. -/
def sv (c : Chip) (s : Nat) : Nat := reg c (key 0x6000 s)

/-- Region entry 6001h of a subindex. -/
def svRegion (c : Chip) (s : Nat) : Nat := reg c (key 0x6001 s)

/-- Tokens per page, τ (08 R234). -/
def tau (c : Chip) : Nat := 65536 / max 1 (sv c 8)

/-- Bytes of an intake stage, Z (08 R228). -/
def stageBytes (c : Chip) : Nat := roundUp (64 + 256 * sv c 3 + 4 * sv c 4) 64

/-- Bytes of a half of the step table, H (08 R232). -/
def tableHalf (c : Chip) : Nat := roundUp (131072 + 64 * sv c 10) 4096

/-- Lines of a logit row, Λ (08 R245). -/
def rowLines (c : Chip) (bf16 : Bool) : Nat := if bf16 then sv c 2 / 32 else sv c 2 / 16

end Sys2Proof.Machine
end

