-- ==== Sys2Proof/Machine/Pages.lean ====
section
/-! DEFINITION. Pages, page-table blocks and the prefix tree of a die (08 R234 to R244), with what a
page's allocation and return do to its residence (07 R213). -/

namespace Sys2Proof.Machine

/-! ## Pages of a pool -/

/-- Pages of pool p. -/
def poolPages (c : Chip) (p : Nat) : Nat :=
  match poolRegion c p with
  | some r => r.size / 65536
  | none => 0

/-- Region number of pool p. -/
def poolNum (c : Chip) (p : Nat) : Nat := reg c (key 0x6002 (p + 1))

/-- Set a reference count. -/
def setRefs (c : Chip) (p page n : Nat) : Chip :=
  { c with srv := { c.srv with refs := smSet 0 c.srv.refs (p * 1048576 + page) n } }

/-- Set the residence state of a page of a region. -/
def setPage (c : Chip) (rn page : Nat) (x : PageSt) : Chip :=
  let pl := poolAt c rn
  setPool c rn { pl with pages := smSet PageSt.reset pl.pages page x }

/-- Frames of a region's working set. -/
def frameCount (c : Chip) (rn : Nat) : Nat :=
  match regionOf c rn with
  | some r => r.working
  | none => 0

/-- No page holds the frame or awaits it (07 R211). -/
def frameFree (pl : Pool) (f : Nat) : Bool :=
  !(pl.pages.any (fun x => x.2.frame == some f)) && !(pl.flights.any (fun x => x.promote && x.frame == f))

/-- The free frames, ascending. -/
def freeFrames (c : Chip) (rn : Nat) : List Nat :=
  (List.range (frameCount c rn)).filter (frameFree (poolAt c rn))

/-- A page returns to the free pages: it gives up its frame without a write-back and its heat becomes 0 (07 R213). What
becomes of a migration of it in flight the spec leaves open; the model drops it: DESIGN CHOICE (log 35). -/
def returnPage (c : Chip) (p page : Nat) : Chip :=
  let rn := poolNum c p
  let c := setPage c rn page { pageAt (poolAt c rn) page with frame := none, dirty := false, heat := 0 }
  let pl := poolAt c rn
  setPool c rn { pl with flights := pl.flights.filter (fun x => x.page != page) }

/-- A page loses one reference. -/
def dropRef (c : Chip) (p page : Nat) : Chip :=
  let n := pageRefs c p page
  if n ≤ 1 then returnPage (setRefs c p page 0) p page else setRefs c p page (n - 1)

/-- A page gains one reference; the count has 16 bits. -/
def addRef (c : Chip) (p page : Nat) : Chip := setRefs c p page ((pageRefs c p page + 1) % 65536)

/-- The lowest free page of a pool. -/
def freePage (c : Chip) (p : Nat) : Option Nat :=
  (List.range (poolPages c p)).find? (fun n => pageRefs c p n == 0)

/-- A page is taken: one reference, and the lowest free frame where there is one (07 R213). -/
def takePage (c : Chip) (p page : Nat) : Chip :=
  let rn := poolNum c p
  let c := setRefs c p page 1
  match freeFrames c rn with
  | f :: _ => setPage c rn page { pageAt (poolAt c rn) page with frame := some f, dirty := false, heat := 0 }
  | [] => c

/-! ## Directories and blocks -/

/-- Put a directory slot; FFFFh takes the block out. -/
def setDir (c : Chip) (s rank slot b : Nat) : Chip :=
  { c with srv := { c.srv with dir := smSet 0xFFFF c.srv.dir (dirKey s rank slot) b } }

/-- A block of a die is in some directory. -/
def blockUsed (c : Chip) (d b : Nat) : Bool := c.srv.dir.any (fun x => x.1 / 262144 == d && x.2 == b)

/-- The lowest free block of a die. -/
def freeBlock (c : Chip) (d : Nat) : Option Nat := (List.range 16384).find? (fun b => !blockUsed c d b)

/-- A block's entries. -/
def blockAt (c : Chip) (d b : Nat) : SMap Nat := smGet ([] : SMap Nat) c.srv.blocks (d * 16384 + b)

/-- Put an entry of a block. -/
def setEntry (c : Chip) (d b i g : Nat) : Chip :=
  let m := smSet ones32 (blockAt c d b) i g
  { c with srv := { c.srv with blocks := smSet ([] : SMap Nat) c.srv.blocks (d * 16384 + b) m } }

/-- Put the pool page of page index pi of a session whose slot holds a block. -/
def setKvPage (c : Chip) (d p s pi g : Nat) : Chip :=
  match dirSlot c s (poolRank c d p) (pi / 64) with
  | some b => setEntry c d b (pi % 64) g
  | none => c

/-- Pages from index `first` on lose the session's reference; a block left with no page is free
(08 R238). -/
def releasePages (c : Chip) (s first : Nat) : Chip :=
  let d := s / 1024
  (diePools c d).foldl (fun c p =>
    let rank := poolRank c d p
    (List.range 64).foldl (fun c slot =>
      match dirSlot c s rank slot with
      | none => c
      | some b =>
        let c := (blockAt c d b).foldl (fun c (i, g) =>
          if first ≤ 64 * slot + i then setEntry (dropRef c p g) d b i ones32 else c) c
        if (blockAt c d b).isEmpty then setDir c s rank slot 0xFFFF else c) c) c

/-- A session's KV length becomes L′. -/
def truncateKv (c : Chip) (s l : Nat) : Chip := releasePages c s (cdiv l (tau c))

/-! ## The prefix tree (08 R239 to R244) -/

/-- A node. -/
def nodeAt (c : Chip) (d n : Nat) : Node := smGet Node.root c.srv.nodes (d * 65536 + n)

/-- Put a node. -/
def setNode (c : Chip) (d n : Nat) (x : Node) : Chip :=
  { c with srv := { c.srv with nodes := smSet Node.root c.srv.nodes (d * 65536 + n) x } }

/-- A node in use: the root, or one that holds a key. -/
def nodeUsed (c : Chip) (d n : Nat) : Bool := n == 0 || !(nodeAt c d n).key.isEmpty

/-- The lowest free node of a die. -/
def freeNode (c : Chip) (d : Nat) : Option Nat := (List.range 65536).find? (fun n => !nodeUsed c d n)

/-- The nodes of a die in use but the root. -/
def treeNodes (c : Chip) (d : Nat) : List Nat :=
  (c.srv.nodes.filter (fun x => x.1 / 65536 == d && x.1 % 65536 != 0)).map (fun x => x.1 % 65536)

/-- A node is cached (08 R243). -/
def nodeCached (c : Chip) (d n : Nat) : Bool :=
  n != 0 && (nodeAt c d n).child == ones32 && (nodeAt c d n).sharing == 0

/-- Take a node out of the list of its parent's children. -/
def unlinkNode (c : Chip) (d n : Nat) : Chip :=
  let x := nodeAt c d n
  let p := nodeAt c d x.parent
  if p.child = n then setNode c d x.parent { p with child := x.sibling }
  else
    match (treeNodes c d).find? (fun k => (nodeAt c d k).sibling == n) with
    | some k => setNode c d k { nodeAt c d k with sibling := x.sibling }
    | none => c

/-- An eviction is counted: at a boundary with the boundary's counters, at rest at the next one, as the serving counters rise
at boundaries and at a halt (08 R264). -/
def countEvicted (c : Chip) : Chip :=
  if c.plan.moment = .boundary then addReg c (key 0x6050 8) 1 else bump c (key 0x6050 8) 1

/-- Remove a node: the tree's reference on each of its pages goes (08 R243). -/
def removeNode (c : Chip) (d n : Nat) : Chip :=
  let pages := (nodeAt c d n).pages
  let c := setNode (unlinkNode c d n) d n Node.root
  let c := ((diePools c d).zip pages).foldl (fun c (p, g) => if g = ones32 then c else dropRef c p g) c
  countEvicted c

/-- The node that eviction removes next (08 R243): cached and not `keep`, lowest step of last use,
then lowest number. -/
def victim (c : Chip) (d : Nat) (keep : Option Nat) : Option Nat :=
  (treeNodes c d).foldl (fun (best : Option Nat) n =>
    if nodeCached c d n ∧ keep ≠ some n then
      match best with
      | none => some n
      | some m => if (nodeAt c d n).used < (nodeAt c d m).used then some n else best
    else best) none

/-- Find something free, evicting cached nodes one at a time while there is none. -/
def orEvict (find : Chip → Option Nat) (d : Nat) (keep : Option Nat) : Nat → Chip → Chip × Option Nat
  | 0, c => (c, find c)
  | fuel + 1, c =>
    match find c with
    | some n => (c, some n)
    | none =>
      match victim c d keep with
      | some v => orEvict find d keep fuel (removeNode c d v)
      | none => (c, none)

/-- The same, with every node of the die as the bound of the evictions. -/
def findOrEvict (find : Chip → Option Nat) (d : Nat) (keep : Option Nat) (c : Chip) : Chip × Option Nat :=
  orEvict find d keep (c.srv.nodes.length + 1) c

/-- Evict every cached node of a die, repeatedly (09 R279 step 4). -/
def evictAll (d : Nat) (c : Chip) : Chip :=
  (orEvict (fun _ => none) d none (c.srv.nodes.length + 1) c).1

/-- A block for a directory slot that holds none: answers the chip, whether the slot now holds a block,
and whether it was taken. -/
def needBlock (c : Chip) (d s rank slot : Nat) (keep : Option Nat) : Chip × Bool × Bool :=
  match dirSlot c s rank slot with
  | some _ => (c, true, false)
  | none =>
    let r := findOrEvict (fun c => freeBlock c d) d keep c
    match r.2 with
    | some b => (setDir r.1 s rank slot b, true, true)
    | none => (r.1, false, false)

/-- What an allocation has taken: pages as pool and page index, blocks as rank and slot. -/
structure Took where
  pages : List (Nat × Nat)
  blocks : List (Nat × Nat)
  ok : Bool
  deriving DecidableEq, Repr

/-- Nothing taken. -/
def Took.none : Took := ⟨[], [], true⟩

/-- Give back what an allocation took (08 R237). -/
def giveBack (c : Chip) (d s : Nat) (t : Took) : Chip :=
  let c := t.pages.foldl (fun c (p, pi) =>
    match kvPage c d p s pi with
    | some g => setKvPage (dropRef c p g) d p s pi ones32
    | none => c) c
  t.blocks.foldl (fun c (rank, slot) => setDir c s rank slot 0xFFFF) c

/-- One page of a session where it lacks it (08 R237). -/
def needPage (c : Chip) (d s p pi : Nat) (t : Took) : Chip × Took :=
  if !t.ok ∨ (kvPage c d p s pi).isSome then (c, t)
  else
    let rank := poolRank c d p
    let b := needBlock c d s rank (pi / 64) none
    let t := if b.2.2 then { t with blocks := (rank, pi / 64) :: t.blocks } else t
    if !b.2.1 then (b.1, { t with ok := false })
    else
      let r := findOrEvict (fun c => freePage c p) d none b.1
      match r.2 with
      | some g => (setKvPage (takePage r.1 p g) d p s pi g, { t with pages := (p, pi) :: t.pages })
      | none => (r.1, { t with ok := false })

/-- A session that took t at this boundary gets pages for positions 0 to n − 1 in every pool of its die: answers all it
has taken, or none where it gave back everything it took at this boundary (08 R237). -/
def ensurePages (c : Chip) (s n : Nat) (t : Took) : Chip × Option Took :=
  let d := s / 1024
  let r := (List.range (cdiv n (tau c))).foldl (fun (x : Chip × Took) pi =>
    (diePools c d).foldl (fun (x : Chip × Took) p => needPage x.1 d s p pi x.2) x) (c, t)
  if r.2.ok then (r.1, some r.2) else (giveBack r.1 d s r.2, Option.none)

/-- Prefix keys K_0 to K_{m−1} of a prompt's tokens (08 R239). -/
def prefixKeys (t : Nat) (gen adapter : Nat) (toks : List Byte) (m : Nat) : List (List Byte) :=
  let k0 := (sha3_256 (leBytes 1 gen ++ leBytes 1 adapter ++ List.replicate 14 0)).take 16
  ((List.range m).foldl (fun (x : List Byte × List (List Byte)) i =>
    let k := (sha3_256 (x.1 ++ slice toks (4 * t * i) (4 * t))).take 16
    (k, x.2 ++ [k])) (k0, [])).2

/-- The child of a node that holds a key, in sibling order. -/
def childWith (c : Chip) (d : Nat) (k : List Byte) : Nat → Nat → Option Nat
  | 0, _ => none
  | fuel + 1, n =>
    if n = ones32 then none
    else if (nodeAt c d n).key = k then some n
    else childWith c d k fuel (nodeAt c d n).sibling

/-- The child of node n that holds key k. -/
def findChild (c : Chip) (d n : Nat) (k : List Byte) : Option Nat :=
  childWith c d k (c.srv.nodes.length + 1) (nodeAt c d n).child

/-- Blocks for directory slot `slot` of every pool of a die, or none where one cannot be had, what was
taken given back (08 R241). -/
def blocksFor (c : Chip) (d s slot : Nat) (keep : Nat) : Chip × Bool :=
  let r := (diePools c d).foldl (fun (x : Chip × Took) p =>
    if !x.2.ok then x
    else
      let rank := poolRank c d p
      let b := needBlock x.1 d s rank slot (some keep)
      (b.1, { x.2 with blocks := if b.2.2 then (rank, slot) :: x.2.blocks else x.2.blocks, ok := b.2.1 }))
    (c, Took.none)
  if r.2.ok then (r.1, true) else (giveBack r.1 d s r.2, false)

/-- The walk of an admission (08 R241): answers the chip, the deepest node and the nodes found. -/
def prefixWalk (d s step : Nat) : List (List Byte) → Nat → Nat → Chip → Chip × Nat × Nat
  | [], cur, i, c => (c, cur, i)
  | k :: ks, cur, i, c =>
    match findChild c d cur k with
    | none => (c, cur, i)
    | some n =>
      let b := blocksFor c d s (i / 64) n
      if !b.2 then (b.1, cur, i)
      else
        let x := nodeAt b.1 d n
        let c := setNode b.1 d n { x with sharing := x.sharing + 1, used := step }
        let c := ((diePools c d).zip x.pages).foldl (fun c (p, g) =>
          if g = ones32 then c else setKvPage (addRef c p g) d p s i g) c
        prefixWalk d s step ks n (i + 1) c

/-- The nodes from n up to the root, without it. -/
def pathUp (c : Chip) (d : Nat) : Nat → Nat → List Nat
  | 0, _ => []
  | fuel + 1, n => if n = 0 ∨ n = ones32 then [] else n :: pathUp c d fuel (nodeAt c d n).parent

/-- A node of the path is poisoned: the session that uses it carries the poison (08 R218). -/
def pathBad (c : Chip) (d n : Nat) : Bool := (pathUp c d (c.srv.nodes.length + 1) n).any (fun k => (nodeAt c d k).bad)

/-- Depth of a node: −1 for the root (as 0), 0 for its children (as 1). -/
def nodeDepth (c : Chip) (d n : Nat) : Nat := (pathUp c d (c.srv.nodes.length + 1) n).length

/-- A session that ends leaves its path (08 R244). -/
def leavePath (c : Chip) (s : Nat) : Chip :=
  let d := s / 1024
  (pathUp c d (c.srv.nodes.length + 1) (sessAt c s).node).foldl (fun c n =>
    let x := nodeAt c d n
    setNode c d n { x with sharing := x.sharing - 1 }) c

/-- Insert page i of a session into the tree (08 R242); false where nothing is inserted. -/
def insertPage (c : Chip) (s i step : Nat) : Chip × Bool :=
  let d := s / 1024
  let x := sessAt c s
  match x.keys[i]? with
  | none => (c, false)
  | some k =>
    let pages := (diePools c d).map (fun p => kvPage c d p s i)
    if !bit x.flags 0 ∨ x.len < tau c * (i + 1) ∨ nodeDepth c d x.node ≠ i then (c, false)
    else if pages.isEmpty ∨ pages.any (·.isNone) ∨ (findChild c d x.node k).isSome then (c, false)
    else
      let r := findOrEvict (fun c => freeNode c d) d none c
      match r.2 with
      | none => (r.1, false)
      | some n =>
        let c := r.1
        let par := nodeAt c d x.node
        let gs := pages.map (·.getD ones32)
        let c := setNode c d n ⟨k, x.node, ones32, par.child, 1, step, gs, false⟩
        let c := setNode c d x.node { nodeAt c d x.node with child := n }
        let c := ((diePools c d).zip gs).foldl (fun c (p, g) => addRef c p g) c
        (setSess c s { sessAt c s with node := n }, true)

/-- Insert the pages that a session has completed, in order, from the one after its deepest node. -/
def insertPages (s step : Nat) : Nat → Chip → Chip
  | 0, c => c
  | fuel + 1, c =>
    let r := insertPage c s (nodeDepth c (s / 1024) (sessAt c s).node) step
    if r.2 then insertPages s step fuel r.1 else r.1

end Sys2Proof.Machine
end

