-- ==== Sys2Proof/Machine/Settings.lean ====
section
/-! DEFINITION. The settings record and digest (13 R408 R409) and the notices that a change sends
(11 R353). -/

namespace Sys2Proof.Machine

/-- The numeric control entries of the record, rising (13 R408). -/
def listedEntries : List (Nat × Nat) :=
  [(0x3001, 1), (0x3010, 1), (0x4020, 1), (0x4020, 2)] ++
    (List.range 11).map (fun k => (0x6000, k + 1)) ++ (List.range 7).map (fun k => (0x6001, k + 1)) ++
    (List.range 8).map (fun k => (0x6002, k + 1)) ++ (List.range 4).map (fun k => (0x6003, k + 1)) ++
    (List.range 4).map (fun k => (0x7001, k + 1)) ++ [(0x8040, 1)]

/-- The plan hash, 2020h:06. -/
def planHash (c : Chip) : List Byte :=
  match c.plan.image with
  | some im => slice im.hash 0 48
  | none => List.replicate 48 0

/-- Logical tiles in use. -/
def planTiles (c : Chip) : Nat :=
  match c.plan.image with
  | some im => 4 * im.hdr.tpd
  | none => 0

/-- The hash of a copy of a directory entry in a state, zero where there is none (09 R283). -/
def copyHash (c : Chip) (e : Nat) (st : CopySt) : List Byte :=
  match copyIn (wentry c e) st with
  | some x => slice x.hash 0 32
  | none => List.replicate 32 0

/-- The settings record (13 R408). -/
def settingsRecord (c : Chip) : List Byte :=
  leBytes 4 1 ++ leBytes 1 1 ++ leBytes 1 0 ++ leBytes 2 (planTiles c) ++
    leBytes 8 c.power.boot.build ++ leBytes 1 (reg c (key 0x8000 1)) ++ leBytes 1 (reg c (key 0x5000 1)) ++
    leBytes 2 39 ++ leBytes 12 0 ++ planHash c ++
    (List.range 66).flatMap (fun e => copyHash c e .live ++ copyHash c e .draining) ++
    listedEntries.flatMap (fun (i, s) => leBytes 2 i ++ leBytes 1 s ++ leBytes 5 0 ++ leBytes 8 (reg c (key i s)))

/-- The settings digest (13 R409). -/
def settingsDigest (c : Chip) : List Byte := (sha3_256 (settingsRecord c)).take 16

/-- A message control carriage joins the queue of a port (11 R349). -/
def sendMsg (c : Chip) (p type : Nat) (payload : List Byte) : Chip :=
  modPort c p (fun q => { q with msgs := q.msgs ++ [⟨4, 0, type, slice payload 0 256⟩] })

/-- A timed control carriage falls due on a port. -/
def sendTimed (c : Chip) (p type : Nat) (payload : List Byte) : Chip :=
  modPort c p (fun q => { q with timed := q.timed ++ [⟨3, 0, type, slice payload 0 256⟩] })

/-- The ports in state Active. -/
def activePorts (c : Chip) : List Nat := (List.range 32).filter (fun p => (portAt c p).st == .active)

/-- After a change: where the digest differs from the one before, a notice goes to every Active port
(13 R409). -/
def noticeDigest (before : Chip) (c : Chip) : Chip :=
  let d := settingsDigest c
  if settingsDigest before = d then c
  else (activePorts c).foldl (fun c p => sendMsg c p 0x26 d) c

/-! ## The device ID (01 R34 R35) -/

/-- Group, node and local position of a device ID. -/
def devParts (d : Nat) : Nat × Nat × Nat := (d / 2048 % 128, d / 16 % 128, d % 16)

/-- A device ID from its parts. -/
def devOf (g n l : Nat) : Nat := g * 2048 + n * 16 + l

/-- The own device ID. -/
def devId (c : Chip) : Nat := reg c (key 0x1020 1)

/-- The device that R35 gives a port; none for a port the map leaves out. Port 31 has none of its
own: in the role of another port it takes that port's. -/
def wiredPeer (d p : Nat) : Option Nat :=
  let (g, n, l) := devParts d
  if d = ones32 then none
  else if p < 15 then some (devOf g n ((l + 1 + p) % 16))
  else if p < 23 then
    let s := 8 * l + (p - 15)
    if s < 127 then
      let s' := 126 - s
      some (devOf g ((n + 1 + s) % 128) (s' / 8))
    else none
  else if p < 31 then
    let s := 8 * l + (p - 23)
    if s < 127 then
      let s' := 126 - s
      some (devOf ((g + 1 + s) % 128) n (s' / 8))
    else none
  else none

/-- The peer that R35 gives a port of this module, with port 31 in the place it stands in for. R35 gives none where port
31 substitutes for no port, for the spare port of slot 127, and while no device ID is assigned; no device is then the
one R35 gives, so that any peer is reported: DESIGN CHOICE (log 35). -/
def expectedPeer (c : Chip) (p : Nat) : Option Nat :=
  if p = 31 then
    let q := reg c (key 0x5010 2)
    if q < 31 then wiredPeer (devId c) q else none
  else wiredPeer (devId c) p

end Sys2Proof.Machine
end

