-- ==== Sys2Proof/Machine/Commit.lean ====
section
/-! DEFINITION. Staged entries and their commit (15 R451 R454 R455), the epoch flip (12 R389), and the
adding up of a step's counters. -/

namespace Sys2Proof.Machine

/-- The staged entries in ascending index and subindex (15 R469 to R481). -/
def stagedKeys : List Nat :=
  [key 0x4020 1, key 0x4020 2, key 0x5301 2, key 0x7001 1, key 0x7001 2, key 0x7001 3, key 0x7001 4, key 0xB010 1]

/-- Staged entries whose shadow differs from the value in force (2000h:03). -/
def shadowsDiffering (c : Chip) : Nat := (stagedKeys.filter (fun k => shadowOf c k != reg c k)).length

/-- A requested flip takes effect: the other epoch is active, and the request and its shadow return to 0
(12 R389); a shadow written since the copy of the cut-off stays (15 R455). -/
def flipEpoch (late : Bool) (w : When) (c : Chip) : Chip :=
  if reg c (key 0x5301 2) = 1 then
    let e := 1 - reg c (key 0x5301 1)
    let c := setReg (setReg c (key 0x5301 1) e) (key 0x5301 2) 0
    let c := if late then c else { c with shadow := smErase c.shadow (key 0x5301 2) }
    report c 0x0503 .modl w [e]
  else c

/-- The copied shadows become the values in force (15 R455 step 2). Key 0 of the copy marks a flip request
written since. -/
def applyShadows (copy : SMap Nat) (w : When) (c : Chip) : Chip :=
  let before := c
  let c := stagedKeys.foldl (fun c k => setReg c k (smGet (reg c k) copy k)) c
  noticeDigest before (addReg (flipEpoch (smGet 0 copy 0 == 1) w c) (key 0x2000 5) 1)

/-- COMMIT_SNAPSHOT at the cut-off of a step (15 R455 step 1). -/
def snapshotCommit (step : Nat) (c : Chip) : Chip :=
  if reg c (key 0x2000 2) = step then { c with commitCopy := some c.shadow } else c

/-- Action 5 of the boundary that ends a step; answers whether a commit was applied. A commit scheduled
since the cut-off stays pending. -/
def action5 (step : Nat) (c : Chip) : Chip × Bool :=
  match c.commitCopy with
  | none => (c, false)
  | some m =>
    let c := applyShadows m .boundary { c with commitCopy := none }
    (if reg c (key 0x2000 2) = step then setReg c (key 0x2000 2) ones64 else c, true)

/-- A commit at once, which cancels a pending one (15 R454). -/
def commitAtOnce (c : Chip) : Chip :=
  setReg (applyShadows c.shadow .apart { c with commitCopy := none }) (key 0x2000 2) ones64

/-- A pending commit is cancelled (15 R454 R455). -/
def cancelCommit (c : Chip) : Chip := setReg { c with commitCopy := none } (key 0x2000 2) ones64

/-- Every shadow returns to its value in force (2000h:04). -/
def dropShadows (c : Chip) : Chip :=
  { c with shadow := stagedKeys.foldl (fun m k => smInsert m k (reg c k)) [] }

/-! ## A step's counters -/

/-- Bits of a scalar entry. -/
def entBits (k : Nat) : Nat :=
  match entOf (k / 256) (k % 256) with
  | some e => 8 * tySize e.ty
  | none => 64

/-- Add to a counter, which wraps at its width. -/
def addCounter (c : Chip) (k n : Nat) : Chip := setReg c k ((reg c k + n) % 2 ^ entBits k)

/-- The step's counts and events reach their entries (02 R64, 03 R91, 04 R115 R116, 05 R148). -/
def flushCounts (c : Chip) : Chip :=
  let c := c.acc.counts.foldl (fun c (k, n) => addCounter c k n) c
  let c := setReg c (key 0x3002 1) (reg c (key 0x3002 1) ||| c.acc.conv)
  let c := setReg c (key 0x3003 1) (reg c (key 0x3003 1) ||| c.acc.vec)
  { c with acc := { c.acc with counts := [], conv := 0, vec := 0 } }

end Sys2Proof.Machine
end

