-- ==== Sys2Proof/Machine/Directory.lean ====
section
/-! DEFINITION. The model directory (09 R265 to R269 R281), generation switches and what action 4 of a
boundary does with them (R279 R285 to R291). -/

namespace Sys2Proof.Machine

/-- The live sessions of a module with their numbers. -/
def liveSessions (c : Chip) : List (Nat × Sess) := c.srv.sess.filter (fun x => x.2.st != 0)

/-- The two bits of the generations byte that belong to a directory entry (08 R222). -/
def genShift (e : Nat) : Nat := if e = 0 then 0 else if e = 1 then 2 else 4

/-- The session bound a copy of directory entry e at admission, with this generation (08 R230). -/
def bindsGen (e g : Nat) (x : Sess) : Bool :=
  (if e = 0 then bit x.binds 0 else if e = 1 then bit x.binds 1 else bit x.binds 2 && x.adapter == e - 2) &&
    x.gens / 2 ^ genShift e % 4 == g

/-- Sessions bound to the copy of generation g of entry e. -/
def boundTo (c : Chip) (e g : Nat) : Nat := ((liveSessions c).filter (fun x => bindsGen e g x.2)).length

/-- Number of a copy state in a directory record. -/
def otherCode : CopySt → Nat
  | .opening => 1
  | .building => 2
  | .ready => 3
  | .draining => 4
  | _ => 0

/-- The copy beside the Live one. -/
def otherCopy (x : WEntry) : WCopy :=
  if x.a.st = .live then x.b
  else if x.b.st = .live then x.a
  else if x.a.st = .free then x.b
  else x.a

/-- A directory record (09 R268). -/
def dirRecord (c : Chip) (e : Nat) : List Byte :=
  let x := wentry c e
  let live := copyIn x .live
  let o := otherCopy x
  let l := live.getD WCopy.none
  leBytes 1 (if live.isSome then 1 else 0) ++
    leBytes 1 (if live.isSome then l.gen else x.last) ++ leBytes 1 l.tier ++ leBytes 1 (otherCode o.st) ++
    leBytes 1 o.gen ++ leBytes 1 o.tier ++ leBytes 2 0 ++
    leBytes 4 (match live with
      | some l => boundTo c e l.gen
      | none => 0) ++
    leBytes 4 (match copyIn x .draining with
      | some d => boundTo c e d.gen
      | none => 0) ++
    leBytes 4 x.uses ++ leBytes 4 0 ++ leBytes 8 l.len ++ leBytes 8 o.len ++
    leBytes 8 (reg c (key 0x7020 (e + 1))) ++ slice l.hash 0 32 ++
    (match o.st with
      | .ready | .draining => slice o.hash 0 32
      | _ => List.replicate 32 0) ++ List.replicate 16 0

/-- The copy positions of an entry, changed. -/
def mapCopies (x : WEntry) (f : WCopy → WCopy) : WEntry := { x with a := f x.a, b := f x.b }

/-- Change the copies of a directory entry. -/
def modCopies (c : Chip) (e : Nat) (f : WCopy → WCopy) : Chip := setWentry c e (mapCopies (wentry c e) f)

/-- Bytes a copy takes on each stack or channel (09 R281). -/
def copySpan (n : Nat) : Nat := cdiv n 32768 * 4096

/-- The copies that take space in a tier, as offset and length. -/
def takenSpans (c : Chip) (tier : Nat) : List (Nat × Nat) :=
  (List.range 66).flatMap (fun e =>
    let x := wentry c e
    [x.a, x.b].filterMap (fun k => match k.st with
      | .free | .opening => none
      | _ => if k.tier = tier then some (k.off, copySpan k.len) else none))

/-- Usable weight store of a stack or channel. -/
def usableStore (c : Chip) (tier : Nat) : Nat := if tier = 0 then usableHbm c else reg c (key 0x4000 2)

/-- The lowest multiple of 4,096 with n bytes free: 0 or the end of a span (09 R281). -/
def placeCopy (c : Chip) (tier n : Nat) : Option Nat :=
  let t := takenSpans c tier
  let ok := fun o => decide (o + n ≤ usableStore c tier) && t.all (fun (a, l) => decide (o + n ≤ a) || decide (a + l ≤ o))
  (sortBy (fun a b => decide (a < b)) (0 :: t.map (fun x => x.1 + x.2))).find? ok

/-- Space is freed at the boundary that ends a step; `step` none where no plan runs (09 R293). -/
def noteFreed (c : Chip) (k : WCopy) (step : Option Nat) : Chip :=
  match step with
  | none => c
  | some m => { c with wts := { c.wts with freed := c.wts.freed ++ [(k.tier, k.off, copySpan k.len, m)] } }

/-- Free the copies of an entry in a state. -/
def freeCopies (c : Chip) (e : Nat) (st : CopySt) (step : Option Nat) : Chip :=
  let x := wentry c e
  let c := [x.a, x.b].foldl (fun c k => if k.st = st then noteFreed c k step else c) c
  modCopies c e (fun k => if k.st = st then WCopy.none else k)

/-- The generation policy entry of a directory entry (09 R287). -/
def genPolicy (c : Chip) (e : Nat) : Nat := reg c (key 0x7001 (if e = 0 then 1 else if e = 1 then 2 else 3))

/-- Set the generation field of the sessions bound to a copy (09 R289). -/
def rebind (c : Chip) (e old new : Nat) : Chip :=
  (liveSessions c).foldl (fun c (s, x) =>
    if bindsGen e old x then
      setSess c s { x with gens := x.gens - old * 2 ^ genShift e + new * 2 ^ genShift e }
    else c) c

/-- The Ready copy of an entry becomes Live; the former Live copy follows the policy (09 R286 to R289).
Answers whether there was a Ready copy. -/
def applySwitch (c : Chip) (e : Nat) (step : Option Nat) : Chip × Bool :=
  let x := wentry c e
  match copyIn x .ready with
  | none => (c, false)
  | some r =>
    let c := match copyIn x .live with
      | none => c
      | some l =>
        if genPolicy c e = 1 then
          let c := noteFreed (rebind c e l.gen r.gen) l step
          modCopies c e (fun k => if k.st = .live then WCopy.none else k)
        else modCopies c e (fun k => if k.st = .live then { k with st := .draining } else k)
    let c := modCopies c e (fun k => if k.st = .ready then { k with st := .live } else k)
    let c := setWentry c e { wentry c e with uses := 0 }
    (setReg (addReg c (key 0x7040 3) 1) (key 0x7020 (e + 1)) ones64, true)

/-- Free every Draining copy that no session binds, of the entries given (09 R279 step 2). -/
def freeDrained (c : Chip) (es : List Nat) (step : Option Nat) : Chip :=
  es.foldl (fun c e =>
    match copyIn (wentry c e) .draining with
    | some d => if boundTo c e d.gen = 0 then freeCopies c e .draining step else c
    | none => c) c

/-- Every engine evicts its cached nodes (09 R279 step 4). -/
def evictEverywhere (c : Chip) : Chip := (List.range 4).foldl (fun c d => evictAll d c) c

/-! ## Builds -/

/-- Set the build status and its detail (09 R276 R294). -/
def setBuild (c : Chip) (status detail : Nat) : Chip :=
  setReg (setReg c (key 0x7010 10) status) (key 0x7010 11) detail

/-- The open build closes, failed or abandoned, with a status: counted and reported (09 R295, 14 R432). -/
def failBuild (c : Chip) (w : When) (status detail target : Nat) : Chip :=
  let c := setBuild { c with wts := { c.wts with build := none } } status detail
  let c := setReg (setReg (addReg c (key 0x7040 2) 1) (key 0x7010 12) 0xFF) (key 0x7010 13) 0
  report c 0x0802 .modl w [status, target]

/-- The copy position of the open build returns to Free. -/
def freeBuildCopy (c : Chip) (b : Build) : Chip :=
  if b.target = 0xFF then c
  else modCopies c b.target (fun k => if k.st = .building ∨ k.st = .opening then WCopy.none else k)

/-- The lowest adapter slot whose entry holds nothing (09 R279). -/
def freeSlot (c : Chip) : Option Nat :=
  ((List.range 64).map (· + 2)).find? (fun e =>
    let x := wentry c e
    x.a.st == .free && x.b.st == .free)

/-- The policy that a shortage of slots meets (09 R291): true for evict-least-used. -/
def evictPolicy (c : Chip) : Bool :=
  match reg c (key 0x7001 4) with
  | 1 => true
  | 2 => (match c.plan.image with
    | some im => decide (2048 < im.hdr.devices)
    | none => false)
  | _ => false

/-- An adapter entry may be evicted (09 R291). -/
def evictable (c : Chip) (e : Nat) : Bool :=
  let x := wentry c e
  (copyIn x .live).isSome &&
    (liveSessions c).all (fun s => !(bit s.2.binds 2 && s.2.adapter == e - 2)) &&
    x.a.st != .building && x.b.st != .building && x.a.st != .opening && x.b.st != .opening &&
    reg c (key 0x7020 (e + 1)) == ones64 && !c.wts.kept.contains e &&
    (match c.plan.image with
      | some im => !im.weights.contains e
      | none => true)

/-- The candidate with the lowest use count, then the lowest number. -/
def evictPick (c : Chip) : Option Nat :=
  ((List.range 64).map (· + 2)).foldl (fun (best : Option Nat) e =>
    if evictable c e then
      match best with
      | none => some e
      | some b => if (wentry c e).uses < (wentry c b).uses then some e else best
    else best) none

/-- All copies of an entry become Free (09 R291). -/
def evictEntry (c : Chip) (e : Nat) (step : Option Nat) : Chip :=
  let x := wentry c e
  let c := [x.a, x.b].foldl (fun c k => if k.st = .free then c else noteFreed c k step) c
  addReg (setWentry c e { wentry c e with a := WCopy.none, b := WCopy.none, uses := 0 }) (key 0x7040 5) 1

/-- The target that an Opening build takes (09 R279 R280 R291): the slot, or the status it fails with;
whether an entry was evicted. -/
def takeTarget (c : Chip) (b : Build) (step : Option Nat) : Chip × Option Nat × Bool :=
  if b.target ≠ 0xFF then (c, some b.target, false)
  else
    match freeSlot c with
    | some e => (c, some e, false)
    | none =>
      if evictPolicy c then
        match evictPick c with
        | some e => (evictEntry c e step, some e, true)
        | none => (c, none, false)
      else (c, none, false)

/-- Apply an Opening build (09 R279 R280); answers whether an entry was evicted. -/
def applyOpening (c : Chip) (b : Build) (step : Option Nat) : Chip × Bool :=
  let t := takeTarget c b step
  let w : When := if step.isSome then .boundary else .apart
  match t.2.1 with
  | none => (failBuild (freeBuildCopy t.1 b) w 0x0403 b.target b.target, t.2.2)
  | some e =>
    let c := freeBuildCopy t.1 b
    let x := wentry c e
    if x.a.st ≠ .free ∧ x.b.st ≠ .free then (failBuild c w 0x0402 e e, t.2.2)
    else
      match placeCopy c b.tier (copySpan b.len) with
      | none => (failBuild c w 0x0404 e e, t.2.2)
      | some o =>
        let g := if b.genAsk = 0xFF then (x.last + 1) % 4 else b.genAsk
        let k : WCopy := ⟨.building, g, b.tier, b.len, o, []⟩
        let second := decide (x.a.st ≠ .free)
        let c := setWentry c e { (if second then { x with b := k } else { x with a := k }) with last := g }
        let b := { b with target := e, second := second, building := true }
        let c := setReg (setBuild { c with wts := { c.wts with build := some b } } 3 0) (key 0x7010 12) e
        (c, t.2.2)

/-! ## Cut-off and boundary -/

/-- SWITCH_CHECK at the cut-off of step T (09 R286). -/
def switchCheck (t : Nat) (c : Chip) : Chip :=
  (List.range 66).foldl (fun c e =>
    if reg c (key 0x7020 (e + 1)) ≠ t then c
    else if (copyIn (wentry c e) .ready).isSome then
      { c with wts := { c.wts with kept := c.wts.kept ++ [e] } }
    else
      let c := setReg (setBuild c 0x0602 e) (key 0x7020 (e + 1)) ones64
      report (addReg c (key 0x7040 4) 1) 0x0803 .modl .cycle [e]) c

/-- The boundary that ends a step lets builds write what an earlier boundary freed, whether it halts or not (09 R293). -/
def dropFreed (step : Nat) (c : Chip) : Chip :=
  { c with wts := { c.wts with freed := c.wts.freed.filter (fun x => decide (step ≤ x.2.2.2)) } }

/-- Switches that a cut-off kept and whose boundary never came end with their plan; their entries return to all ones
(09 R286; DEDUCED, log 33). -/
def dropKept (c : Chip) : Chip :=
  c.wts.kept.foldl (fun c e => setReg c (key 0x7020 (e + 1)) ones64)
    { c with wts := { c.wts with kept := [], freed := [] } }

/-- Action 4 of the boundary that ends a step (09 R279); answers the entries switched. -/
def action4 (step : Nat) (c : Chip) : Chip × List Nat :=
  let r := c.wts.kept.foldl (fun (x : Chip × List Nat) e =>
    let y := applySwitch x.1 e (some step)
    (y.1, if y.2 then x.2 ++ [e] else x.2)) ({ c with wts := { c.wts with kept := [] } }, [])
  let c := freeDrained r.1 (List.range 66) (some step)
  let o := match c.wts.build with
    | some b => if !b.building ∧ b.openAt = step then applyOpening c b (some step) else (c, false)
    | none => (c, false)
  (if r.2.isEmpty && !o.2 then o.1 else evictEverywhere o.1, r.2)

end Sys2Proof.Machine
end

