-- ==== Sys2Proof/Machine/Output.lean ====
section
/-! DEFINITION. What the module writes to host memory: output ring, backlog and written-count mirror
(08 R259 to R263), and the record ring (13 R414 R415); and the replay ring it reads (13 R416). -/

namespace Sys2Proof.Machine

/-! ## The output ring -/

/-- An output record before it is laid out (08 R260). -/
structure OutRec where
  origin : Nat
  tag : Nat
  s : Nat
  kind : Nat
  toks : List Nat
  pos : Nat
  status : Nat
  poison : Bool
  deriving DecidableEq, Repr

/-- The 64 bytes of an output record (08 R260). -/
def outBytes (step : Nat) (r : OutRec) : List Byte :=
  leBytes 8 r.tag ++ leBytes 2 r.s ++ leBytes 1 r.kind ++ leBytes 1 r.toks.length ++ leBytes 4 r.pos ++
    leBytes 8 step ++ slice (r.toks.flatMap (leBytes 4)) 0 36 ++ leBytes 2 r.status ++
    leBytes 1 (if r.poison then 1 else 0) ++ leBytes 1 0

/-- Written less consumed, modulo 2^32 (08 R262). -/
def ringFill (c : Chip) : Nat := (reg c (key 0x6040 5) + 4294967296 - reg c (key 0x6040 4)) % 4294967296

/-- The ring takes a record: it has a free place and host writes are not blocked (08 R263, 17 R512). -/
def ringRoom (c : Chip) : Bool := !hostBlocked c && decide (ringFill c < reg c (key 0x6040 2))

/-- One record goes to the ring (08 R261 R262): `fired` holds 0 from a firing until a write of the
consumed count takes the fill below the threshold. The count of records written follows at a boundary, and
otherwise with the next boundary or halt (08 R264). -/
def ringWrite (atBoundary : Bool) (c : Chip) (r : List Byte) : Chip :=
  let before := ringFill c
  let w := reg c (key 0x6040 5)
  let c := emit c (.hostWrite (reg c (key 0x6040 1) + 64 * (w % reg c (key 0x6040 2))) r)
  let c := setReg c (key 0x6040 5) ((w + 1) % 4294967296)
  let c := if atBoundary then addReg c (key 0x6050 13) 1 else bump c (key 0x6050 13) 1
  let t := reg c (key 0x6040 3)
  if t ≠ 0 ∧ before < t ∧ t ≤ ringFill c ∧ !nsMem c.host.fired 0 then
    fireMsix { c with host := { c.host with fired := nsInsert c.host.fired 0 } } (reg c (key 0x6040 7))
  else c

/-- A record of the own origin: to the ring, to the backlog behind others, or discarded (08 R263). -/
def outPut (c : Chip) (r : List Byte) : Chip :=
  if c.srv.backlog.isEmpty && ringRoom c then ringWrite true c r
  else if c.srv.backlog.length < 4096 then
    { c with srv := { c.srv with backlog := c.srv.backlog ++ [r] } }
  else report (addReg c (key 0x6050 14) 1) 0x0703 .modl .boundary [0, 1]

/-- The backlog drains into the ring; answers whether any record moved. -/
def drainBacklog : Nat → Chip → Chip × Bool
  | 0, c => (c, false)
  | fuel + 1, c =>
    match c.srv.backlog with
    | r :: t =>
      if ringRoom c then
        ((drainBacklog fuel (ringWrite false { c with srv := { c.srv with backlog := t } } r)).1, true)
      else (c, false)
    | [] => (c, false)

/-- Drain what the ring takes. -/
def drain (c : Chip) : Chip × Bool := drainBacklog c.srv.backlog.length c

/-- Host writes may have become free: pending messages leave, and the backlog drains into the ring (08 R263,
17 R512). -/
def freeWrites (c : Chip) : Chip := if hostBlocked c then c else (drain (sendPending c)).1

/-- The written-count mirror (08 R261): left out where host writes are blocked, so that the next one carries
the count then in force; `mirrorOwed` says that one was left out (17 R512). -/
def writeMirror (c : Chip) : Chip :=
  let a := reg c (key 0x6040 6)
  if a = 0 then c
  else if hostBlocked c then { c with host := { c.host with mirrorOwed := true } }
  else
    emit { c with host := { c.host with mirrorOwed := false } } (.hostWrite a (leBytes 4 (reg c (key 0x6040 5))))

/-- The own logical device as 4001h:05 shows it. -/
def ownLogical (c : Chip) : Nat :=
  match c.plan.place with
  | some pl => pl.own
  | none => ones32

/-- The records of a boundary that ends a step, in order: those of the own origin, but for the steps
that R417 keeps from the ring; then the mirror (08 R261). -/
def flushOutputs (step : Nat) (l : List OutRec) (c : Chip) : Chip :=
  let c := if step < reg c (key 0xB011 6) then c
    else (l.filter (fun r => r.origin == ownLogical c)).foldl (fun c r => outPut c (outBytes step r)) c
  writeMirror c

/-! ## The record ring (13 R414 R415) -/

/-- A record with its header. -/
def ringRecord (len kind seq step : Nat) (payload : List Byte) : List Byte :=
  slice (leBytes 4 len ++ leBytes 1 kind ++ leBytes 3 0 ++ leBytes 8 seq ++ leBytes 8 step ++ leBytes 8 0 ++ payload)
    0 len

/-- A record that is discarded: counted, and the overrun reported once for each boundary. -/
def recordLost (c : Chip) : Chip :=
  let c := { c with det := { c.det with recSeq := m64 (c.det.recSeq + 1) } }
  let c := addReg c (key 0xB010 6) 1
  reportOnce c 30 0 0x0703 .modl .boundary [1, 1]

/-- Write a record while recording is enabled. -/
def recordWrite (c : Chip) (kind step : Nat) (payload : List Byte) : Chip :=
  if reg c (key 0xB010 1) ≠ 1 then c
  else
    let size := reg c (key 0xB010 3)
    let base := reg c (key 0xB010 2)
    let w := reg c (key 0xB010 5)
    let len := roundUp (32 + payload.length) 64
    let used := (w + 18446744073709551616 - reg c (key 0xB010 4)) % 18446744073709551616
    let o := if size = 0 then 0 else w % size
    let pad := if size < o + len then size - o else 0
    if size = 0 ∨ size < len ∨ size < used + pad + len ∨ hostBlocked c then recordLost c
    else
      let seq := c.det.recSeq
      let c := if pad = 0 then c else emit c (.hostWrite (base + o) (ringRecord pad 0 seq step []))
      let seq' := if pad = 0 then seq else m64 (seq + 1)
      let at' := if pad = 0 then o else 0
      let c := emit c (.hostWrite (base + at') (ringRecord len kind seq' step payload))
      setReg { c with det := { c.det with recSeq := m64 (seq' + 1) } } (key 0xB010 5) (m64 (w + pad + len))

/-! ## The replay ring (13 R416) -/

/-- Read n bytes of host memory at an address: a CXL.io read leaves the module; what the host placed there is outside
it, so every byte that comes back is a free value (log 12). -/
def hostRead (c : Chip) (a n : Nat) : Chip × List Byte := freeBytes (emit c (.hostRead a n)) n

/-- Take the record of a kind for step n from the replay ring, at its base plus the bytes consumed modulo its size, passing
others: its step and payload; none where the ring holds no more or host reads are blocked (17 R512). A stage or boundary
record of a later step stays for that step: DEDUCED from the reading ahead of 13 R416 (log 20). -/
def replayNext (kind n : Nat) : Nat → Chip → Chip × Option (Nat × List Byte)
  | 0, c => (c, none)
  | fuel + 1, c =>
    let used := reg c (key 0xB011 5)
    if hostBlocked c ∨ reg c (key 0xB011 4) ≤ used ∨ reg c (key 0xB011 3) = 0 then (c, none)
    else
      let at' := reg c (key 0xB011 2) + used % reg c (key 0xB011 3)
      let h := hostRead c at' 32
      let k := field h.2 4 1
      let step := field h.2 0x10 8
      if (k = 1 ∨ k = 2) ∧ n < step then (h.1, none)
      else
        let len := max 64 (roundUp (field h.2 0 4) 64)
        let c := setReg h.1 (key 0xB011 5) (m64 (used + len))
        if k = kind ∧ (kind = 1 ∨ step = n) then
          let p := hostRead c (at' + 32) (len - 32)
          (p.1, some (step, p.2))
        else replayNext kind n fuel c

/-- The same over all that the host has written. -/
def replayTake (c : Chip) (kind n : Nat) : Chip × Option (Nat × List Byte) :=
  replayNext kind n ((reg c (key 0xB011 4) - reg c (key 0xB011 5)) / 64 + 1) c

/-- Replay applies to a cut-off or boundary of a step. -/
def replays (c : Chip) (step : Nat) : Bool :=
  reg c (key 0xB011 1) != 0 && decide (step ≤ reg c (key 0xB011 7))

end Sys2Proof.Machine
end

