-- ==== Sys2Proof/Machine/Serving.lean ====
section
/-! DEFINITION. The serving engines at the cut-off and at the boundary (08): the intake latch
(R225 to R228), the admission region (R229), results (R255 R256), cancellations (R258), table chunks
(R251 R252), admission (R230), allocation and the step table (R232 R233 R237). -/

namespace Sys2Proof.Machine

/-- A session number is served by some pool. -/
def served (c : Chip) (s : Nat) : Bool := decide (s < 4096) && !(diePools c (s / 1024)).isEmpty

/-! ## The intake latch -/

/-- Token word i of the window's token area (08 R224). -/
def tokenWord (w : SMap Byte) (i : Nat) : List Byte := getBytes w (0x10000 + 4 * i) 4

/-- Bytes a to b − 1 of a record are zero. -/
def zeroFrom (r : List Byte) (a b : Nat) : Bool := allZero (slice r a (b - a))

/-- The fixed fields of a record hold (08 R225). -/
def latchFixed (r : List Byte) : Bool :=
  match field r 1 1 with
  | 1 => zeroFrom r 0x40 256 && decide (field r 0x2F 1 < 4)
  | 2 => zeroFrom r 0x12 256
  | 3 =>
    zeroFrom r 0x40 256 && field r 0x10 2 == 0xFFFF && (field r 0x12 1 == 1 || field r 0x12 1 == 2) &&
      field r 0x13 1 != 0xFF && zeroFrom r 0x1C 0x2F && decide (field r 0x2F 1 < 2) && zeroFrom r 0x30 0x40 &&
      field r 0x18 4 % 4 == 0
  | _ => false

/-- Sampling values in range (08 R225 R231). -/
def latchRanges (r : List Byte) : Bool :=
  decide (field r 0x24 4 < 0x7F800000) && decide (0 < field r 0x28 4) && decide (field r 0x28 4 ≤ 0x3F800000) &&
    decide (1 ≤ field r 0x2C 2) && decide (field r 0x2C 2 ≤ 256) && decide (1 ≤ field r 0x20 4) &&
    decide (field r 0x20 4 ≤ 16777216)

/-- Status of a record at the latch, 0 where none breaks (08 R231). -/
def latchStatus (c : Chip) (r : List Byte) : Nat :=
  let kind := field r 1 1
  let n := field r 0x14 4
  let i := field r 4 4
  if !latchFixed r then 0x0101
  else if kind ≠ 3 ∧ !served c (field r 0x10 2) then 0x0102
  else if kind = 2 then 0
  else if n = 0 ∨ sv c 4 < n ∨ 262144 < i + n then 0x0103
  else if kind = 3 then 0
  else if !latchRanges r then 0x0104
  else if (List.range n).any (fun k => decide (sv c 2 ≤ leNat (tokenWord c.srv.window (i + k)))) then 0x0105
  else 0

/-- Words that a record brings into the stage. -/
def recWords (r : List Byte) : Nat := if field r 1 1 = 2 then 0 else field r 0x14 4

/-- What the scan has latched. -/
structure Latch where
  recs : List (List Byte)
  words : List Byte
  stop : Bool
  deriving DecidableEq, Repr

/-- One slot of the scan (08 R227). -/
def latchSlot (x : Chip × Latch) (slot : Nat) : Chip × Latch :=
  let c := x.1
  let l := x.2
  let r := getBytes c.srv.window (256 * slot) 256
  if l.stop ∨ field r 0 1 ≠ 1 then x
  else
    let put := fun (c : Chip) (a : Nat) (b : List Byte) => { c with srv := { c.srv with window := putBytes c.srv.window a b } }
    match latchStatus c r with
    | 0 =>
      let n := recWords r
      if sv c 3 ≤ l.recs.length ∨ sv c 4 < l.words.length / 4 + n then (c, { l with stop := true })
      else
        let i := field r 4 4
        let ws := (List.range n).flatMap (fun k => tokenWord c.srv.window (i + k))
        (bump (put c (256 * slot) [2]) (key 0x6050 1) 1,
          { l with recs := l.recs ++ [splice r 4 (leBytes 4 (l.words.length / 4))], words := l.words ++ ws })
    | st => (bump (put (put c (256 * slot + 2) (leBytes 2 st)) (256 * slot) [3]) (key 0x6050 2) 1, l)

/-- The bytes of an intake stage (08 R228). -/
def stageImage (c : Chip) (step : Nat) (l : Latch) : List Byte :=
  slice (leBytes 4 (ownLogical c) ++ leBytes 2 (sv c 12) ++ leBytes 1 l.recs.length ++ leBytes 1 0 ++ leBytes 8 step ++
    leBytes 4 (l.words.length / 4) ++ List.replicate 44 0 ++
    slice (l.recs.flatMap (fun r => slice r 0 256)) 0 (256 * sv c 3) ++ l.words) 0 (stageBytes c)

/-- The module takes intake: serving is on and it has a stage index (08 R227). -/
def intakes (c : Chip) : Bool := serving c && sv c 12 != 0xFFFF

/-- The stage of a cut-off, from the window or in replay from the ring (08 R227, 13 R416). -/
def takeStage (step : Nat) (c : Chip) : Chip × List Byte :=
  if replays c step then
    let r := replayTake c 1 step
    match r.2 with
    | some (n, p) =>
      if n = step then (r.1, slice p 0 (stageBytes c))
      else (report r.1 0x0704 .modl .cycle [0, 0], stageImage c step ⟨[], [], false⟩)
    | none => (report r.1 0x0704 .modl .cycle [0, 0], stageImage c step ⟨[], [], false⟩)
  else
    let r := (List.range 256).foldl latchSlot (c, ⟨[], [], false⟩)
    (r.1, stageImage r.1 step r.2)

/-- INTAKE_LATCH at the cut-off of a step: the stage is written to the stage region and recorded. -/
def intakeLatch (step : Nat) (c : Chip) : Chip :=
  if intakes c then
    let r := takeStage step c
    let c := engWrite r.1 (svRegion c 1) 0 r.2
    let c := { c with det := { c.det with stage := some r.2 } }
    recordWrite c 1 step r.2
  else { c with det := { c.det with stage := none } }

/-! ## The admission region (08 R229) -/

/-- One stage of the region: its header wrong or a line poisoned, it is ignored and reported. The engines of the four dies
read one region; the model reports a stage once, at die 0: DESIGN CHOICE (log 33). -/
def readStage (c : Chip) (i : Nat) : Chip × Option Stage :=
  let z := stageBytes c
  let r := engRead c (svRegion c 2) (z * i) z
  let b := r.2.1
  if field b 4 2 ≠ i ∨ field b 8 8 + 1 ≠ c.plan.step ∨ r.2.2 then
    (report r.1 0x0701 (.die 0) .cycle [0, i], none)
  else
    let n := min (field b 6 1) (sv c 3)
    (r.1, some { origin := field b 0 4, recs := (List.range n).map (fun k => slice b (0x40 + 256 * k) 256),
                 removed := List.replicate n false, words := b.drop (0x40 + 256 * sv c 3) })

/-- The engine reads the region from the admission ready cycle on; in step 0 it does not. -/
def readAdmission (c : Chip) : Chip :=
  if !serving c ∨ c.srv.readDone then c
  else
    let r := if c.plan.step = 0 then (c, [])
      else (List.range (sv c 11)).foldl (fun (x : Chip × List Stage) i =>
        let y := readStage x.1 i
        (y.1, match y.2 with
          | some st => x.2 ++ [st]
          | none => x.2)) (c, [])
    { r.1 with srv := { r.1.srv with region := r.2, readDone := true } }

/-- ADMISSION_READ. -/
def fAdmission (c : Chip) : Chip :=
  if c.plan.state = .running ∧ serving c ∧ !c.srv.readDone then
    readAdmission (reach c (c.plan.stepStart + cdiv (2 * sv c 5) (ccNow c)))
  else c

/-! ## Action 2 (08 R255 R256) -/

/-- The output record of a session. -/
def sessOut (x : Sess) (s kind : Nat) (toks : List Nat) (pos status : Nat) : OutRec :=
  ⟨x.origin, x.tag, s, kind, toks, pos, status, bit x.flags 2⟩

/-- A session gives up its prompt store lines. -/
def freePrompt (c : Chip) (x : Sess) : Chip :=
  { c with srv := { c.srv with prompts := c.srv.prompts.filter (fun r => r.1 != x.pline) } }

/-- The session holds prompt store lines: it is still in prefill. -/
def holdsPrompt (x : Sess) : Bool := x.st == 1

/-- A session ends: prompt lines, pages, prefix path and entry are free (08 R255). -/
def endSession (c : Chip) (s : Nat) : Chip :=
  let x := sessAt c s
  let c := if holdsPrompt x then freePrompt c x else c
  let c := leavePath (truncateKv c s 0) s
  addReg (setSess c s Sess.free) (key 0x6050 5) 1

/-- The tokens kept of a result, and the end they bring: 1 a stop token, 2 the maximum, 0 none. -/
def keepTokens (stops : List Nat) (maxNew : Nat) : Nat → List Nat → List Nat × Nat
  | _, [] => ([], 0)
  | gen, t :: ts =>
    if stops.contains t ∧ t ≠ ones32 then ([t], 1)
    else if maxNew ≤ gen + 1 then ([t], 2)
    else
      let r := keepTokens stops maxNew (gen + 1) ts
      (t :: r.1, r.2)

/-- A result is missing (08 R256). -/
def resultMissing (r : List Byte) (s pos : Nat) : Bool :=
  field r 0 2 != s || field r 4 4 != pos || !([0, 3, 5, 6, 7].contains (field r 2 1)) || decide (9 < field r 3 1)

/-- The grammar stack after a result (08 R254). -/
def resultStack (x : Sess) (r : List Byte) : List Nat :=
  let low := field r 0x2F 1
  let after := field r 0x2E 1
  (List.range (min after 64)).map (fun j =>
    if low ≤ j ∧ j < low + 9 then field r (0x30 + 2 * (j - low)) 2 else x.gstack.getD j 0)

/-- The depth at which a session would speculate (08 R232). -/
def specDepth (c : Chip) (x : Sess) : Nat := if bit x.flags 1 then sv c 7 else 0

/-- Apply the result of session s (08 R255 R256 R264). The pages its new KV length completes enter the tree, also of a
session that ends here (08 R242): session by session with the results, so that its evictions fall between the results of two
sessions, and with the boundary's step as the new node's step of last use: DESIGN CHOICE (log 33). -/
def applyResult (step : Nat) (w : Work) (s : Nat) (c : Chip) : Chip × List OutRec :=
  let x := sessAt c s
  let pos := x.len + w.c
  let rd := engRead c (svRegion c 4) (128 * s) 128
  let c := rd.1
  let r := rd.2.1
  if resultMissing r s pos then
    (report (addReg c (key 0x6050 10) 1) 0x0701 (.die (s / 1024)) .boundary [2, s], [])
  else
    let x := if rd.2.2 || bit (field r 0x42 1) 0 then { x with flags := setBit x.flags 2 } else x
    let e := field r 3 1
    let toks := (List.range e).map (fun i => field r (8 + 4 * i) 4)
    let k := keepTokens x.stops x.maxNew x.gen toks
    let l' := x.len + w.c + k.1.length - 1
    let c := if w.kind = 1 then freePrompt c x else c
    let x := { x with st := 2, len := l', gen := x.gen + k.1.length,
                      cur := match k.1.getLast? with
                        | some t => t % 1048576
                        | none => x.cur,
                      gstate := field r 0x2C 2, gdepth := field r 0x2E 1, gstack := resultStack x r }
    let c := truncateKv (setSess c s x) s l'
    let c := addReg c (key 0x6050 6) k.1.length
    let c := if w.k = 0 then c else addReg (addReg c (key 0x6050 11) w.k) (key 0x6050 12) (e - 1)
    let fin := if k.2 ≠ 0 then k.2
      else if field r 2 1 ≠ 0 then field r 2 1
      else if sv c 9 < l' + 1 + specDepth c x then 8
      else 0
    let c := insertPages s step (x.keys.length + 1) c
    if fin ≠ 0 then (endSession c s, [sessOut x s 2 k.1 pos fin])
    else (c, if k.1.isEmpty then [] else [sessOut x s 1 k.1 pos 0])

/-- A prefill chunk that was not final (08 R255). -/
def applyChunk (step : Nat) (w : Work) (s : Nat) (c : Chip) : Chip :=
  let x := sessAt c s
  let c := truncateKv (setSess c s { x with len := x.len + w.c }) s (x.len + w.c)
  insertPages s step (x.keys.length + 1) c

/-- Action 2 for the sessions that worked, in ascending number. -/
def action2 (step : Nat) (c : Chip) : Chip × List OutRec :=
  c.srv.work.foldl (fun (x : Chip × List OutRec) (s, w) =>
    if w.kind = 0 ∨ (sessAt x.1 s).st = 0 then x
    else if w.kind = 1 ∧ !w.final then (applyChunk step w s x.1, x.2)
    else
      let r := applyResult step w s x.1
      (r.1, x.2 ++ r.2)) (c, [])

/-! ## Action 3 (08 R258 R261) -/

/-- The records of the admission region with their places: stage index, record index, origin, record,
removed. -/
def regionRecs (c : Chip) : List (Nat × Nat × Nat × List Byte × Bool) :=
  c.srv.region.zipIdx.flatMap (fun (st, i) =>
    (st.recs.zip st.removed).zipIdx.map (fun (r, k) => (i, k, st.origin, r.1, r.2)))

/-- A request is removed. -/
def removeReq (c : Chip) (i k : Nat) : Chip :=
  { c with srv := { c.srv with region := c.srv.region.zipIdx.map (fun (st, j) =>
      if i = j then { st with removed := st.removed.set k true } else st) } }

/-- One cancellation: what is written so far goes in, with the record of a session it ends moved behind. -/
def cancelOne (x : Chip × List OutRec) (origin s tag : Nat) : Chip × List OutRec :=
  let c := x.1
  let e := sessAt c s
  let hit := decide (s < 4096) && e.st != 0 && e.tag == tag
  let old := x.2.find? (fun r => r.s == s && r.kind == 1)
  let c1 := if hit then endSession c s else c
  let l1 := if hit then
      let base := x.2.filter (fun r => !(r.s == s && r.kind == 1))
      base ++ [match old with
        | some r => sessOut e s 2 r.toks r.pos 4
        | none => sessOut e s 2 [] e.len 4]
    else x.2
  let qs := (regionRecs c1).filter (fun (_, _, _, r, gone) =>
    !gone && field r 1 1 == 1 && field r 0x10 2 == s && field r 8 8 == tag)
  let r := qs.foldl (fun (y : Chip × List OutRec) (i, k, o, _, _) =>
    (addReg (removeReq y.1 i k) (key 0x6050 4) 1, y.2 ++ [⟨o, tag, s, 3, [], 0, 0x0209, false⟩])) (c1, l1)
  if hit || !qs.isEmpty then r
  else (addReg r.1 (key 0x6050 4) 1, r.2 ++ [⟨origin, tag, s, 3, [], 0, 0x0208, false⟩])

/-- Action 3: the region's cancellations in order. -/
def action3 (x : Chip × List OutRec) : Chip × List OutRec :=
  (regionRecs x.1).foldl (fun x (_, _, o, r, _) =>
    if field r 1 1 = 2 then cancelOne x o (field r 0x10 2) (field r 8 8) else x) x

/-! ## Action 6: table chunks (08 R251 R252) -/

/-- The states of a grammar image are valid. -/
def statesOk (img : List Byte) (so to_ ns nt nm : Nat) : Bool :=
  (List.range ns).all (fun i =>
    let f := field img (so + 8 * i + 4) 4
    let n := field img (so + 8 * i + 2) 2
    decide (field img (so + 8 * i) 2 < nm) && decide (n ≤ 256) && (n == 0 || decide (f + n - 1 < nt)) &&
      (List.range n).all (fun j =>
        let t := to_ + 8 * (f + j)
        j == 0 || decide (field img (t - 8) 2 < field img t 2))) &&
    (List.range nt).all (fun j =>
      decide (field img (to_ + 8 * j + 4) 2 < ns) && decide (field img (to_ + 8 * j + 6) 2 < ns))

/-- A grammar image is valid (08 R252). -/
def grammarOk (img : List Byte) (g v : Nat) : Bool :=
  let ns := field img 0 4
  let nt := field img 4 4
  let nc := field img 8 2
  let nm := field img 0xA 2
  let so := field img 0x10 4
  let to_ := field img 0x14 4
  let co := field img 0x18 4
  let mo := field img 0x1C 4
  decide (1 ≤ ns) && decide (ns ≤ 65536) && decide (1 ≤ nc) && decide (nc ≤ 4096) && decide (1 ≤ nm) &&
    decide (nm ≤ 4096) && decide (so + 8 * ns ≤ g) && decide (to_ + 8 * nt ≤ g) && decide (co + 2 * v ≤ g) &&
    decide (mo + nm * (v / 8) ≤ g) && statesOk img so to_ ns nt nm

/-- Number of an installed table: grammar g, or 256 + m. -/
def tableNum (kind n : Nat) : Nat := if kind = 1 then n else 256 + n

/-- Size of a region of the plan. -/
def regionSize (c : Chip) (n : Nat) : Nat :=
  match regionOf c n with
  | some r => r.size
  | none => 0

/-- One table chunk: status 0 where taken. -/
def applyTable (c : Chip) (st : Stage) (r : List Byte) : Chip × Nat :=
  let kind := field r 0x12 1
  let n := field r 0x13 1
  let g := svRegion c 7
  let v := sv c 2
  let words := slice st.words (4 * field r 4 4) (4 * field r 0x14 4)
  let base := if kind = 1 then n * g else 256 * g + n * (v / 8)
  let off := base + field r 0x18 4
  if (liveSessions c).any (fun x => (if kind = 1 then x.2.gram else x.2.mask) == n) then (c, 0x0205)
  else if regionSize c (svRegion c 6) < off + words.length then (c, 0x0206)
  else
    let c := engPatch c (svRegion c 6) off words
    let t := tableNum kind n
    let c := { c with srv := { c.srv with tables := nsErase c.srv.tables t } }
    if !bit (field r 0x2F 1) 0 then (c, 0)
    else
      let img := engRead c (svRegion c 6) base (if kind = 1 then g else 0)
      if kind = 2 ∨ grammarOk img.2.1 g v then
        ({ img.1 with srv := { img.1.srv with tables := nsInsert img.1.srv.tables t } }, 0)
      else (img.1, 0x0207)

/-! ## Action 6: admission (08 R230 R231) -/

/-- The lowest run of free prompt store lines that holds a prompt of p tokens. -/
def promptRun (c : Chip) (p : Nat) : Option Nat :=
  let need := cdiv p 16
  let total := regionSize c (svRegion c 5) / 64
  let ok := fun o => decide (o + need ≤ total) &&
    c.srv.prompts.all (fun (a, n) => decide (o + need ≤ a) || decide (a + n ≤ o))
  (sortBy (fun a b => decide (a < b)) (0 :: c.srv.prompts.map (fun x => x.1 + x.2))).find? ok

/-- The generation that an entry binds: its Live copy's, else the one it last assigned (08 R230). -/
def bindGen (c : Chip) (e : Nat) : Nat × Bool :=
  match copyIn (wentry c e) .live with
  | some l => (l.gen, true)
  | none => ((wentry c e).last, false)

/-- The status of a request at admission; with no serving tables region it names no table (08 R221 R231). -/
def admitStatus (c : Chip) (r : List Byte) : Nat :=
  let gram := field r 0x12 1
  let mask := field r 0x13 1
  let ad := field r 0x2E 1
  if (sessAt c (field r 0x10 2)).st ≠ 0 then 0x0201
  else if svRegion c 6 = ones32 ∧ (gram ≠ 0xFF ∨ mask ≠ 0xFF) then 0x0202
  else if (gram ≠ 0xFF ∧ !nsMem c.srv.tables gram) ∨ (mask ≠ 0xFF ∧ !nsMem c.srv.tables (256 + mask)) then 0x0202
  else if ad ≠ 0xFF ∧ (64 ≤ ad ∨ (copyIn (wentry c (2 + ad)) .live).isNone) then 0x0203
  else if (promptRun c (field r 0x14 4)).isNone then 0x0204
  else 0

/-- An admission that bound a Live copy raises its use count (09 R268). -/
def countUse (c : Chip) (e : Nat) : Chip :=
  if (copyIn (wentry c e) .live).isSome then
    setWentry c e { wentry c e with uses := min ones32 ((wentry c e).uses + 1) }
  else c

/-- A request is admitted at the boundary that ends a step. -/
def admitRecord (step : Nat) (c : Chip) (st : Stage) (r : List Byte) : Chip × List OutRec :=
  let s := field r 0x10 2
  let tag := field r 8 8
  match admitStatus c r with
  | 0 =>
    let p := field r 0x14 4
    let ad := field r 0x2E 1
    let gram := field r 0x12 1
    let toks := slice st.words (4 * field r 4 4) (4 * p)
    let line := (promptRun c p).getD 0
    let b := bindGen c 0
    let d := bindGen c 1
    let a := if ad = 0xFF then (0, false) else bindGen c (2 + ad)
    let gens := b.1 + 4 * d.1 + 16 * a.1
    let g := if gram = 0xFF then (c, [], false) else engRead c (svRegion c 6) (gram * svRegion c 7 + 0xC) 2
    let c := g.1
    let keys := prefixKeys (tau c) gens ad toks ((p - 1) / tau c)
    let x : Sess :=
      { Sess.free with
        st := 1, flags := field r 0x2F 1 % 4, gram := gram, mask := field r 0x13 1, origin := st.origin, tag := tag,
        seed := field r 0x18 8, admSeq := c.srv.admSeq, plen := p, pline := line, maxNew := field r 0x20 4,
        temp := field r 0x24 4, topp := field r 0x28 4, topk := field r 0x2C 2,
        gstate := field g.2.1 0 2, adapter := ad, gens := gens,
        stops := (List.range 4).map (fun i => field r (0x30 + 4 * i) 4), node := 0, admStep := step,
        binds := (if b.2 then 1 else 0) + (if d.2 then 2 else 0) + (if a.2 then 4 else 0), keys := keys }
    let c := countUse (countUse c 0) 1
    let c := if ad = 0xFF then c else countUse c (2 + ad)
    let c := { c with srv := { c.srv with admSeq := m64 (c.srv.admSeq + 1),
                                          prompts := c.srv.prompts ++ [(line, cdiv p 16)] } }
    let c := engPatch c (svRegion c 5) (64 * line) toks
    let w := prefixWalk (s / 1024) s step keys 0 0 (setSess c s x)
    let reused := tau c * w.2.2
    let bad := pathBad w.1 (s / 1024) w.2.1
    let c := setSess w.1 s { x with node := w.2.1, reused := reused, len := reused,
                                    flags := if bad then setBit x.flags 2 else x.flags }
    let c := addReg (addReg c (key 0x6050 3) 1) (key 0x6050 7) reused
    (c, [⟨st.origin, tag, s, 4, [], reused, 0, bad⟩])
  | e => (addReg c (key 0x6050 4) 1, [⟨st.origin, tag, s, 3, [], 0, e, false⟩])

/-- One table chunk of the region, with the record it brings: a final or refused one gives a record. -/
def tableRecord (c : Chip) (st : Stage) (r : List Byte) : Chip × List OutRec :=
  let y := applyTable c st r
  let o : OutRec := ⟨st.origin, field r 8 8, 0xFFFF, if y.2 = 0 then 4 else 3, [], 0, y.2, false⟩
  let c := if y.2 = 0 then y.1 else addReg y.1 (key 0x6050 4) 1
  (c, if y.2 ≠ 0 ∨ bit (field r 0x2F 1) 0 then [o] else [])

/-- The records of the region that `take` names go through `act`, stages in index order and records in
order; what each brings is kept with its place in the region (08 R229). -/
def regionPass (take : List Byte × Bool → Bool) (act : Chip → Stage → List Byte → Chip × List OutRec)
    (x : Chip × List (Nat × OutRec)) : Chip × List (Nat × OutRec) :=
  x.1.srv.region.zipIdx.foldl (fun x (st, i) =>
    (st.recs.zip st.removed).zipIdx.foldl (fun (x : Chip × List (Nat × OutRec)) (r, k) =>
      if take r then
        let y := act x.1 st r.1
        (y.1, x.2 ++ y.2.map (fun o => (256 * i + k, o)))
      else x) x) x

/-- The table chunks of the region in order, then its requests (08 R229); their records in admission region
order (08 R261). -/
def action6Inputs (step : Nat) (x : Chip × List OutRec) : Chip × List OutRec :=
  let y := regionPass (fun r => field r.1 1 1 == 3) tableRecord (x.1, [])
  let z := regionPass (fun r => field r.1 1 1 == 1 && !r.2) (admitRecord step) y
  (z.1, x.2 ++ (sortBy (fun a b => decide (a.1 < b.1)) z.2).map (·.2))

/-! ## Action 6: allocation and the step table (08 R232 R233 R237) -/

/-- Sessions of a die in use, ascending. -/
def dieSessions (c : Chip) (d : Nat) : List Nat :=
  ((liveSessions c).filter (fun x => x.1 / 1024 == d)).map (·.1)

/-- Sessions in ascending admission sequence. -/
def bySeq (c : Chip) (l : List Nat) : List Nat :=
  sortBy (fun a b => decide ((sessAt c a).admSeq < (sessAt c b).admSeq)) l

/-- Share Np prefill tokens among sessions in order (08 R233). -/
def shareTokens (c : Chip) : Nat → List Nat → List (Nat × Nat)
  | _, [] => []
  | left, s :: t =>
    let want := (sessAt c s).plen - (sessAt c s).len
    let n := min want left
    if n = 0 then []
    else if n < want then [(s, n)]
    else (s, n) :: shareTokens c (left - n) t

/-- The prefill sessions of a die that have not failed to get pages, with their chunks. -/
def chunksOf (c : Chip) (d : Nat) (failed : List Nat) : List (Nat × Nat) :=
  shareTokens c (sv c 10) (bySeq c ((dieSessions c d).filter (fun s =>
    (sessAt c s).st == 1 && !failed.contains s)))

/-- Set or clear the paused flag. -/
def setPaused (c : Chip) (s : Nat) (p : Bool) : Chip :=
  let x := sessAt c s
  setSess c s { x with flags := if p then setBit x.flags 3 else clearBit x.flags 3 }

/-- The allocation of a boundary on a die: the sessions that failed, and those served with the tokens they were served
for and all they took. -/
structure Alloc where
  chip : Chip
  failed : List Nat
  got : List (Nat × Nat × Took)
  deriving DecidableEq, Repr

/-- Allocate for a session that is due n tokens and depth k. -/
def allocFor (x : Alloc) (s n k : Nat) : Alloc :=
  let t := match x.got.find? (fun y => y.1 == s) with
    | some y => y.2.2
    | none => Took.none
  let r := ensurePages x.chip s ((sessAt x.chip s).len + n + k) t
  match r.2 with
  | some t => { x with chip := setPaused r.1 s false, got := (s, n, t) :: x.got }
  | none => { x with chip := setPaused r.1 s true, failed := x.failed ++ [s] }

/-- Depth of a decode session (08 R232). -/
def workDepth (c : Chip) (s : Nat) : Nat := if (sessAt c s).st = 2 then specDepth c (sessAt c s) else 0

/-- Group 3: sessions with a chunk, in chunk order. The tokens of one that fails pass on, so a session served for fewer
tokens is served again for what has grown. -/
def allocChunks (d : Nat) : Nat → Alloc → Alloc
  | 0, x => x
  | fuel + 1, x =>
    match (chunksOf x.chip d x.failed).find? (fun y => !x.got.any (fun g => g.1 == y.1 && decide (y.2 ≤ g.2.1))) with
    | none => x
    | some (s, n) => allocChunks d fuel (allocFor x s n 0)

/-- The three groups of R237 on a die; answers the sessions that failed. Between two failures each session is served at
most once, which bounds the serves of group 3. -/
def allocDie (c : Chip) (d : Nat) : Chip × List Nat :=
  let all := dieSessions c d
  let paused := bySeq c (all.filter (fun s => bit (sessAt c s).flags 3))
  let x := paused.foldl (fun (x : Alloc) s =>
    if (sessAt x.chip s).st = 2 then allocFor x s 1 (workDepth x.chip s)
    else
      match (chunksOf x.chip d x.failed).find? (fun y => y.1 == s) with
      | some (_, n) => allocFor x s n 0
      | none => x) ⟨c, [], []⟩
  let x := all.foldl (fun (x : Alloc) s =>
    if (sessAt x.chip s).st = 2 ∧ !paused.contains s then allocFor x s 1 (workDepth x.chip s) else x) x
  let x := allocChunks d ((all.length + 1) * (all.length + 1)) x
  (x.chip, x.failed)

/-- The work of the sessions of a die in the next step, with the sessions' order in the prefill list. -/
def dieWork (c : Chip) (d : Nat) (failed : List Nat) : List (Nat × Work) × List (Nat × Nat) :=
  let ch := (chunksOf c d failed).filter (fun x => !bit (sessAt c x.1).flags 3)
  ((dieSessions c d).filterMap (fun s =>
    let x := sessAt c s
    if bit x.flags 3 then none
    else if x.st = 2 then some (s, ⟨2, 1, workDepth c s, false, false⟩)
    else (ch.find? (fun y => y.1 == s)).map (fun y => (s, ⟨1, y.2, 0, decide (x.plen ≤ x.len + y.2), false⟩))), ch)

/-- An entry of the step table (08 R232). -/
def tableEntry (x : Sess) (w : Work) (first : Nat) (new : Bool) : List Byte :=
  if w.kind = 0 then List.replicate 32 0
  else
    leBytes 1 w.kind ++ leBytes 1 ((if w.final then 1 else 0) + (if w.k = 0 then 0 else 2) + (if bit x.flags 2 then 4 else 0) +
        (if new then 8 else 0)) ++ leBytes 1 x.adapter ++ leBytes 1 x.gens ++ leBytes 4 x.len ++ leBytes 4 w.c ++
      leBytes 4 (if w.kind = 2 then x.cur else ones32) ++ leBytes 4 (if w.kind = 1 then first else ones32) ++
      leBytes 1 w.k ++ List.replicate 11 0

/-- A prefill list entry (08 R233). -/
def listEntry (s pos tok : Nat) (last : Bool) : List Byte :=
  leBytes 2 s ++ leBytes 1 (if last then 3 else 1) ++ leBytes 1 0 ++ leBytes 4 pos ++ leBytes 4 tok ++ leBytes 4 0

/-- An entry beyond the last token. -/
def noEntry : List Byte := leBytes 2 0xFFFF ++ List.replicate 14 0

/-- The prefill list of a die, Np entries. -/
def prefillList (c : Chip) (ch : List (Nat × Nat)) : Chip × List Byte :=
  let r := ch.foldl (fun (y : Chip × List Byte) (s, n) =>
    let x := sessAt y.1 s
    let t := engRead y.1 (svRegion y.1 5) (64 * x.pline + 4 * x.len) (4 * n)
    (t.1, y.2 ++ (List.range n).flatMap (fun i =>
      listEntry s (x.len + i) (field t.2.1 (4 * i) 4) (decide (x.len + i + 1 = x.plen))))) (c, [])
  (r.1, r.2 ++ (List.replicate (sv c 10 - r.2.length / 16) noEntry).flatten)

/-- The sum of the tokens of the chunks before a session. -/
def listIndex (ch : List (Nat × Nat)) (s : Nat) : Nat :=
  ((ch.takeWhile (fun x => x.1 != s)).map (·.2)).foldl (· + ·) 0

/-- The part of a die in the step table of a step: its entries and its prefill list (08 R232). -/
def writeTable (next d : Nat) (w : List (Nat × Work)) (ch : List (Nat × Nat)) (c : Chip) : Chip :=
  let base := tableHalf c * (next % 2)
  let rows := (List.range 1024).flatMap (fun i =>
    let s := 1024 * d + i
    match w.find? (fun x => x.1 == s) with
    | some (_, k) => tableEntry (sessAt c s) k (listIndex ch s) (decide ((sessAt c s).admStep + 1 = next))
    | none => List.replicate 32 0)
  let c := engPatch c (svRegion c 3) (base + 32768 * d) rows
  let l := prefillList c ch
  engPatch l.1 (svRegion c 3) (base + 131072 + 16 * sv c 10 * d) l.2

/-- The last part of action 6 at the boundary that ends a step: allocation, pauses, step table. -/
def action6Tables (step : Nat) (c : Chip) : Chip :=
  (List.range 4).foldl (fun c d =>
    let a := allocDie c d
    let c := a.2.foldl (fun c s =>
      report (addReg c (key 0x6050 9) 1) 0x0702 (.die d) .boundary [s]) a.1
    let w := dieWork c d a.2
    let c := { c with srv := { c.srv with work := w.1.foldl (fun m x => smInsert m x.1 x.2) c.srv.work } }
    writeTable (step + 1) d w.1 w.2 c) { c with srv := { c.srv with work := [] } }

/-- Action 6 of the boundary that ends a step. -/
def action6 (step : Nat) (x : Chip × List OutRec) : Chip × List OutRec :=
  let x := action6Inputs step x
  let c := action6Tables step x.1
  ({ c with srv := { c.srv with region := [], readDone := false } }, x.2)

/-! ## The meaning -/

/-- ADMISSION_READ. -/
def execAdmissionRead (s : State) : Host.Outcome State Fault Refusal := onRunning s fAdmission

end Sys2Proof.Machine
end

