-- ==== Sys2Proof/Machine/EngineCheck.lean ====
section
/-! DEFINITION. Errors in the memories of the Belriaz engines and of their control (08 R218, 14 R432). An engine reads its
tables at every boundary, when alone they change (08 R219), and finds there what has struck them: DESIGN CHOICE (log 37). -/

namespace Sys2Proof.Machine

/-- The error strikes a word of an engine's memory. -/
def inEngine : Spot → Bool
  | .engine .. => true
  | _ => false

/-- The poison flag of a session that is not free is set (08 R222). -/
def poisonSess (c : Chip) (s : Nat) : Chip :=
  let x := sessAt c s
  if x.st = 0 then c else setSess c s { x with flags := setBit x.flags 2 }

/-- The sessions of a die with a directory slot that names a block. -/
def blockUsers (c : Chip) (d b : Nat) : List Nat :=
  ((c.srv.dir.filter (fun x => x.2 == b && x.1 / 256 / 1024 == d)).map (fun x => x.1 / 256)).foldl nsInsert []

/-- The sessions of a die on whose path a node lies. -/
def nodeUsers (c : Chip) (d n : Nat) : List Nat :=
  (dieSessions c d).filter (fun s => (pathUp c d (c.srv.nodes.length + 1) (sessAt c s).node).contains n)

/-- What an uncorrectable error in a word of a store poisons (08 R218): the session entry, the session of the directory, the
block and with it the sessions that use it, the node in use and with it the sessions on whose path it lies. A reference count
belongs to none of these; a record of the backlog carries its own flag (08 R260). The index is that of the row of R218: session,
directory slot, block, page, node, record, within the die. -/
def poisonWord (c : Chip) (die store index : Nat) : Chip :=
  match store with
  | 0 => poisonSess c (1024 * die + index)
  | 1 => poisonSess c (1024 * die + index / 256)
  | 2 => (blockUsers c die index).foldl poisonSess c
  | 4 => if !nodeUsed c die index then c else (nodeUsers c die index).foldl poisonSess (setNode c die index { nodeAt c die index with bad := true })
  | 5 =>
    { c with srv := { c.srv with backlog := c.srv.backlog.zipIdx.map (fun (r, i) =>
        if i = index then splice r 0x3E [1] else r) } }
  | _ => c

/-- An error in an engine's memory is corrected and logged, or poisons what holds the word and is logged. -/
def engineFound (c : Chip) (f : Flaw) : Chip :=
  match f.spot with
  | .engine die store index =>
    let c := dropFlaw c f.spot
    if f.unc then report (poisonWord c die store index) 0x0208 (.die die) .boundary [store, index]
    else report c 0x0207 (.die die) .boundary [store, index]
  | _ => c

/-- The engines of the four dies read their tables at a boundary, and their control is checked. -/
def engineCheck (c : Chip) : Chip :=
  let c := (flawsOf c inEngine).foldl engineFound c
  (List.range 4).foldl (fun c d => controlCheck c d 2 .boundary) c

end Sys2Proof.Machine
end

