-- ==== Sys2Proof/Machine/Link.lean ====
section
/-! DEFINITION. The link layer in service (11): superframes, what each slot sends, sequence numbers,
acknowledgement, replay, reception, the yard and the through path, lane failure and sparing. -/

namespace Sys2Proof.Machine

/-- Negotiated version of a port. -/
def portVersion (c : Chip) (p : Nat) : Nat := reg c (key (0x5100 + p) 4)

/-- The module is in QZ5 time mode (10 R320). -/
def qz5 (c : Chip) : Bool := reg c (key 0x8040 1) == 1

/-- Parent port A. -/
def portA (c : Chip) : Nat := reg c (key 0x8030 5)

/-- Port A runs version 2 in QZ5 time mode, from the end of its Measure (10 R323). -/
def quietA (c : Chip) : Bool :=
  qz5 c && decide (portA c < 32) && (portAt c (portA c)).st == .active && portVersion c (portA c) == 2

/-- A port has become Active: where that makes the count state 1 (10 R323), a source lost before is lost no longer, and the next
loss is reported again (10 R306). -/
def heardQuiet (c : Chip) : Chip :=
  if quietA c ∧ reg c (key 0x8010 3) = 3 then setReg c (key 0x8010 3) 0 else c

/-- Training latency λ of a port, 1/16 tick. -/
def lambda16 (c : Chip) (p : Nat) : Nat := reg c (key (0x5100 + p) 7)

/-- Set an entry of a port. -/
def setPortReg (c : Chip) (p s v : Nat) : Chip := setReg c (key (0x5100 + p) s) v

/-- Raise a counter of a port. -/
def portCount (c : Chip) (p s n : Nat) : Chip := addReg c (key (0x5200 + p) s) n

/-- Length of a superframe of a port in ticks (11 R326 R327 R369). -/
def superframeLen (c : Chip) (p : Nat) : Nat := 2720 * slotUnits c p

/-- The first superframe start of a port at or after a count. -/
def superframeAt (c : Chip) (p t : Nat) : Nat := roundUp t (superframeLen c p)

/-- The port drives its lanes with superframes: from Align to Active (11 R357). -/
def portSends (st : PState) : Bool :=
  match st with
  | .align | .exchange | .measure | .active => true
  | _ => false

/-- The port receives carriages: in Exchange training records, in Measure stamps, in Active all. -/
def portCarries (st : PState) : Bool :=
  match st with
  | .exchange | .measure | .active => true
  | _ => false

/-! ## Superframes (11 R326) -/

/-- The marker block of superframe n. -/
def markerBytes (n : Nat) : List Byte :=
  leBytes 8 n ++ (List.range 1922).map (fun i => if i % 2 = 0 then 0x5A else 0xA5)

/-- The start count of a port's next superframe: the count itself where it is a multiple of the length whose
superframe has not begun, else the next multiple (11 R326 to R328). -/
def superframeNext (c : Chip) (p : Nat) : Nat :=
  let n := superframeLen c p
  if c.count % n = 0 ∧ (portAt c p).superframe ≠ c.count then c.count else (c.count / n + 1) * n

/-- A superframe of Measure carries a stamp until 64 have gone (11 R349 R357). -/
def measureStamp (c : Chip) (p : Nat) : Chip :=
  let q := portAt c p
  if q.st = .measure ∧ q.stamps < 64 then sendTimed (setPort c p { q with stamps := q.stamps + 1 }) p 1 [] else c

/-- An injection of kind 8 corrupts 5000h:03 plus 1 symbols of its lane during the superframe that starts; one
that INJECTION_APPLY has put by goes first (14 R444). -/
def laneInjection (c : Chip) (p : Nat) : Chip :=
  let n := reg c (key 0x5000 3) + 1
  match (portAt c p).badLane with
  | some (l, _) => emit (modPort c p (fun q => { q with badLane := none })) (.laneSymbols p l n)
  | none =>
    match injFor c (fun j => j.kind == 8 && bits j.loc 7 0 == p) with
    | some j => emit (spendInj c j) (.laneSymbols p (bits j.loc 10 8) n)
    | none => c

/-- The next superframe of a port starts: the one due at the count, or the first after it. -/
def fSuperframe (p : Nat) (c : Chip) : Chip :=
  if portSends (portAt c p).st then
    let n := superframeNext c p
    let c := laneInjection (measureStamp (modPort (reach c n) p (fun q => { q with superframe := n })) p) p
    emit c (.marker p (markerBytes (n / superframeLen c p)))
  else c

/-! ## Sending (11 R329 to R334 R337 R339) -/

/-- A carriage as its 270 bytes. -/
def carriageBytes (v2 : Bool) (x : Carriage) (seq ack : Nat) (nak replayed : Bool) : List Byte :=
  let poison := if v2 then (if x.poison % 16 = 0 then 0 else 1) else x.poison % 16
  let fields := if v2 ∧ x.kind = 2 then x.fields / 4 * 4 else x.fields
  let h := x.kind + poison * 16 + seq * 2 ^ 8 + ack * 2 ^ 24 + (if nak then 2 ^ 40 else 0) +
    (if replayed then 2 ^ 41 else 0) + fields % 2 ^ 38 * 2 ^ 42
  let b := leBytes 10 h ++ slice x.payload 0 256
  b ++ leBytes 4 (crc32c b)

/-- The carriage of a coach. -/
def coachCarriage (x : Coach) : Carriage :=
  ⟨1, x.poison, x.slot % 2 ^ 25 + (if x.parity % 2 = 1 then 2 ^ 25 else 0), x.payload⟩

/-- The carriage of a cart (11 R331, 12 R382). -/
def cartCarriage (x : Cart) : Carriage :=
  ⟨2, x.poison, x.epoch % 2 + (if x.escape then 2 else 0) + x.tag % 4096 * 4 + x.dst % 262144 * 2 ^ 14, x.payload⟩

/-- An idle carriage. -/
def idleCarriage : Carriage := ⟨0, 0, 0, List.replicate 256 0⟩

/-- Begin a replay burst from the oldest entry of the buffer at or after a sequence number
(11 R337): counted and reported; each carriage is counted as it is resent. -/
def startBurst (c : Chip) (p from_ : Nat) : Chip :=
  let q := portAt c p
  let l := q.replay.filter (fun x => x.seq == from_ || serialLt from_ x.seq)
  if l.isEmpty then setPort c p { q with nakAck := none }
  else
    let c := setPort c p { q with burst := l.map (fun x => (x.seq, x.car)), nakAck := none, heldNak := false }
    report (portCount c p 4 1) 0x0401 (.port p) .apart [l.length]

/-- What a slot sends, and the port after it: a burst's carriage, or a fresh one. -/
inductive Choice where
  | again (seq : Nat) (x : Carriage)
  | fresh (x : Carriage)
  deriving DecidableEq, Repr

/-- The coaches at the port for earlier slots, in order, join the backlog. -/
def missCoaches (q : Port) (a : Nat) : Port :=
  { q with backlog := q.backlog ++ q.atPort.filter (fun x => decide (x.abs < a)),
           atPort := q.atPort.filter (fun x => decide (a ≤ x.abs)) }

/-- Choose by the order of R333 in Active. `full` says that the replay buffer is full (R339), `shut` that the
port carries no coaches and no carts (12 R388). -/
def chooseActive (q : Port) (a : Nat) (full shut : Bool) : Choice × Port :=
  let q := missCoaches q a
  let due := q.atPort.filter (fun x => x.abs == a)
  let rest := q.atPort.filter (fun x => x.abs != a)
  match q.burst with
  | (s, x) :: b => (.again s x, { q with burst := b, backlog := q.backlog ++ due, atPort := rest })
  | [] =>
      match (if shut then [] else due), (if shut then [] else q.backlog), q.msgs, q.timed,
        (if shut then [] else q.escq), (if shut then [] else q.egress) with
      | x :: more, _, _, _, _, _ =>
        (.fresh (coachCarriage x), { q with atPort := rest, backlog := q.backlog ++ more })
      | [], x :: b, _, _, _, _ => (.fresh (coachCarriage x), { q with backlog := b })
      | [], [], ms, ts, es, ns =>
        match (if full then [] else ms), ts with
        | x :: _, _ => (.fresh x, { q with msgs := ms.drop 1 })
        | [], x :: t => (.fresh x, { q with timed := t })
        | [], [] =>
          if full then (.fresh idleCarriage, q)
          else match es, ns with
            | x :: t, _ => (.fresh (cartCarriage x), { q with escq := t })
            | [], x :: t => (.fresh (cartCarriage x), { q with egress := t })
            | [], [] => (.fresh idleCarriage, q)

/-- Two matching training records of the peer have come (11 R358). -/
def twoRecords (q : Port) : Bool :=
  match q.record with
  | [a, b] => a == b
  | _ => false

/-- What a slot sends (11 R329 R333 R358): in Align nothing, in Exchange a training record until two matching ones
have come, in Measure stamps and echoes, in Active by the order of R333. -/
def chooseSlot (q : Port) (a : Nat) (full shut : Bool) (record : Carriage) : Choice × Port :=
  match q.st with
  | .active => chooseActive q a full shut
  | .exchange => (.fresh (if twoRecords q then idleCarriage else record), q)
  | .measure =>
    match q.timed with
    | x :: t => (.fresh x, { q with timed := t })
    | [] => (.fresh idleCarriage, q)
  | _ => (.fresh idleCarriage, q)

/-- A training record payload (11 R358). -/
def trainingRecord (f : Fuses) (c : Chip) (p : Nat) : List Byte :=
  leBytes 1 (reg c (key 0x5000 1)) ++ leBytes 1 2 ++ leBytes 1 p ++ leBytes 1 (portAt c p).reqWidth ++
    leBytes 4 (devId c) ++ leBytes 8 (f.unique * 256 + p) ++ settingsDigest c ++
    leBytes 1 (portAt c p).lanes

/-- Stamp payloads hold the time of the slot they leave in (11 R350): a stamp its own start, an echo
the hold since the stamp arrived, a step-start stamp the time since the step began. -/
def timeStamp (c : Chip) (x : Carriage) (t16 : Nat) : Carriage :=
  if x.kind = 3 ∧ x.fields % 256 = 1 then
    { x with payload := splice x.payload 0 (leBytes 8 (t16 / 16) ++ leBytes 1 (t16 % 16)) }
  else if x.kind = 3 ∧ x.fields % 256 = 2 then
    { x with payload := splice x.payload 0x0C (leBytes 4 (t16 - field x.payload 0x0C 8) ++ leBytes 4 0) }
  else if x.kind = 3 ∧ x.fields % 256 = 3 then
    { x with payload := splice x.payload 8 (leBytes 4 (t16 - 16 * c.plan.stepStart)) }
  else x

/-- A message control carriage whose content follows from the slot that first sends it, in the slot starting at
`t16`: the proposed switch count of a spare request and the start count of a retrain accept lie 5,440 ticks and
more after it (11 R355 R366), the delay of a forwarded launch message loses the time since its receipt
(10 R321). -/
def sendMessage (c : Chip) (p t16 : Nat) (x : Carriage) : Carriage :=
  let soon := superframeAt c p (t16 / 16 + 5440)
  if x.kind ≠ 4 then x
  else match x.fields % 256 with
    | 0x21 => { x with payload := splice x.payload 0 (leBytes 4 (field x.payload 0 4 -
        (match (portAt c p).fwdAt with
          | some r :: _ => cdiv (t16 / 16 - r) 2
          | _ => 0))) }
    | 0x22 => { x with payload := splice x.payload 8 (leBytes 8 soon) }
    | 0x25 => { x with payload := splice x.payload 0 (leBytes 8 soon) }
    | _ => x

/-- What sending a message does at the port: a retrain request is outstanding from then on, an accept fixes the
start (11 R366), a forwarded launch message has left. -/
def sentMessage (q : Port) (x : Carriage) : Port :=
  if x.kind ≠ 4 then q
  else match x.fields % 256 with
    | 0x21 => { q with fwdAt := q.fwdAt.drop 1 }
    | 0x24 => { q with retrainOut := some (field x.payload 0 1) }
    | 0x25 => { q with retrainAt := q.acceptW.map (fun w => (field x.payload 0 8, w)), acceptW := none }
    | _ => q

/-- The levels whose occupancy a port's queues count for (12 R395): 0 node, 1 group, 2 system. -/
def portLevel (c : Chip) (p : Nat) : Option Nat :=
  if p < 15 then some 0
  else if p < 23 then some 1
  else if p < 31 then some 2
  else match reg c (key 0x5010 1) with
    | 1 => some 0
    | 2 => some 1
    | _ => none

/-- Occupancy of a level (12 R395). -/
def occupancy (c : Chip) (lv : Nat) : Nat :=
  (List.range 32).foldl (fun m p =>
    if portLevel c p = some lv then max m (portAt c p).egress.length else m) 0

/-- Throttle or release each level by its occupancy (12 R396), reporting what changes (14 R432); a throttle
that begins has sent no pressure cart (R397). -/
def throttles (c : Chip) : Chip :=
  (List.range 3).foldl (fun c lv =>
    let was := c.fab.own.getD lv false
    let n := occupancy c lv
    let now := if was then decide (reg c (key 0x5310 4) ≤ n) else decide (reg c (key 0x5310 (lv + 1)) ≤ n)
    if was = now then c
    else
      report { c with fab := { c.fab with own := c.fab.own.set lv now, pressureSent := c.fab.pressureSent.set lv none } } 0x0502 .modl .apart
        [lv, if now then 0 else 1, 0]) c

/-- A carriage leaves with a wrong CRC, a free value other than the right one (14 R444, log 12). -/
def sendWrong (c : Chip) (p a : Nat) (b : List Byte) : Chip :=
  let r := freeNumber c
  let crc := (field b 266 4 + 1 + r.2 % 4294967295) % 4294967296
  emit r.1 (.carriage p a (b.take 266 ++ leBytes 4 crc))

/-- A carriage leaves. An armed injection of kind 7, or one that INJECTION_APPLY has put by, takes the next of
kind 1, 2 or 4 (14 R444). -/
def sendOut (c : Chip) (p a : Nat) (stored : Bool) (b : List Byte) : Chip :=
  if !stored then emit c (.carriage p a b)
  else if (portAt c p).badCrc != 0 then sendWrong (modPort c p (fun q => { q with badCrc := q.badCrc - 1 })) p a b
  else match injFor c (fun j => j.kind == 7 && bits j.loc 7 0 == p) with
    | some j => sendWrong (spendInj c j) p a b
    | none => emit c (.carriage p a b)

/-- A received NAK starts its burst in the first slot that begins at least one tick after it arrived (11 R337). -/
def nakBurst (c : Chip) (p slot16 : Nat) : Chip :=
  let q := portAt c p
  match q.nakAck with
  | some (a, t16) =>
    if q.st = .active ∧ q.burst.isEmpty ∧ t16 + 16 ≤ slot16 then startBurst c p ((a + 1) % 65536) else c
  | none => c

/-- The slot that starts at absolute slot a of a port. -/
def fSlot (f : Fuses) (p a : Nat) (c : Chip) : Chip :=
  if !portSends (portAt c p).st || decide (a < (portAt c p).slotNext) then c
  else
    let t16 := slotStart16 c p a
    let c := nakBurst (passed (reach c (t16 / 16))) p t16
    let q := portAt c p
    let full := decide (2048 ≤ q.replay.length)
    let burstWas := !q.burst.isEmpty
    let r := chooseSlot q a full (!portOpen c p) ⟨3, 0, 0x10, trainingRecord f c p⟩
    let q := { r.2 with slotNext := a + 1 }
    let c := if full then portCount c p 8 1 else c
    let nak := q.nakDue && (match q.nakOut with
      | some t => decide (t + 16 ≤ t16)
      | none => false)
    let ack := (q.expect + 65535) % 65536
    let q := if nak then { q with nakDue := false } else q
    let v2 := portVersion c p == 2
    match r.1 with
    | .again s x =>
      let q := { q with replay := q.replay.map (fun y => if y.seq = s then { y with sent := t16 } else y) }
      let c := sendOut (portCount (setPort c p q) p 5 1) p a true (carriageBytes v2 x s ack nak true)
      if burstWas && q.burst.isEmpty && q.heldNak && !q.replay.isEmpty then
        startBurst c p ((q.acked + 1) % 65536)
      else if q.burst.isEmpty then modPort c p (fun q => { q with heldNak := false })
      else c
    | .fresh x =>
      let x := sendMessage c p t16 (timeStamp c x t16)
      let stored := x.kind == 1 || x.kind == 2 || x.kind == 4
      if stored && full then
        -- only a coach comes this far with the buffer full (R339); its slot carries a timed control or idle
        let c := portCount (setPort c p q) p 9 1
        let c := reportOnce c 20 p 0x0408 (.port p) .cycle [0, x.fields % 2 ^ 25, x.fields / 2 ^ 25 % 2]
        let q := portAt c p
        let y := timeStamp c (q.timed.headD idleCarriage) t16
        emit (setPort c p { q with timed := q.timed.drop 1 }) (.carriage p a (carriageBytes v2 y q.nextSeq ack nak false))
      else
        let q := if stored then
            { sentMessage q x with nextSeq := (q.nextSeq + 1) % 65536,
                                   replay := q.replay ++ [⟨(portAt c p).nextSeq, x, t16⟩] }
          else q
        let seq := (portAt c p).nextSeq
        throttles (sendOut (setPort c p q) p a stored (carriageBytes v2 x seq ack nak false))

/-- REPLAY_BURST: a received NAK starts its burst where the next slot begins at least one tick after it; a burst that is not
due waits for its slot, which starts it (`nakBurst`). -/
def fBurst (p : Nat) (c : Chip) : Chip :=
  let slot16 := slotStart16 c p (portAt c p).slotNext
  match (portAt c p).nakAck with
  | some (_, t16) => if t16 + 16 ≤ slot16 then nakBurst (reach c (slot16 / 16)) p slot16 else c
  | none => c

/-! ## Receiving (11 R335 R336 R340) -/

/-- Raise a NAK for the expected number, unless one is outstanding. -/
def raiseNak (q : Port) (t16 : Nat) : Port :=
  match q.nakOut with
  | some _ => q
  | none => { q with nakOut := some t16, nakDue := true }

/-- An acknowledgement frees the entries it covers; a NAK asks for a burst (11 R337). -/
def applyAck (q : Port) (a : Nat) (nak : Bool) (t16 : Nat) : Port :=
  let rep := q.replay.filter (fun x => serialLt a x.seq)
  let q := { q with replay := rep, acked := if serialLt q.acked a then a else q.acked }
  if !nak then q
  else if !q.burst.isEmpty then { q with heldNak := true }
  else if rep.isEmpty then q
  else { q with nakAck := some (a, t16) }

/-- Core cycles of an interval of 1/16 ticks at least this long, times 32. -/
def lateBy (c : Chip) (t16 due16 : Nat) : Nat := (t16 - due16) * ccNow c

/-- The slack window W of the plan (06 R158). -/
def slackW (c : Chip) : Nat :=
  match c.plan.image with
  | some im => im.hdr.slack
  | none => 0

/-- The step that owns the slot of an arriving coach: the one of its parity, the present one where the
parity is its own, else the next where that slot has begun, else the one before. -/
def coachStep (c : Chip) (p slot parity t16 : Nat) : Nat :=
  let n := c.plan.step
  if n % 2 = parity then n
  else if slotStart16 c p (absSlot c p (n + 1) slot) ≤ t16 then n + 1
  else n - 1

/-- The row, carriage index and record of an arriving slot on hop h of rows for which `mine` holds;
rows of the variant in force go first. -/
def findSlot (c : Chip) (p slot : Nat) (mine : CoachRow → Nat → Bool) : Option (Nat × CoachRow × Nat × SlotRec) :=
  match c.plan.image with
  | none => none
  | some im =>
    let all := im.slots.filterMap (fun sr =>
      match im.coaches[sr.row]? with
      | none => none
      | some r =>
        if hopPort c sr.row sr.hop = some p ∧ mine r sr.hop ∧ sr.first ≤ slot ∧ sr.stride ≠ 0 ∧
            (slot - sr.first) % sr.stride = 0 ∧ (slot - sr.first) / sr.stride < r.k then
          some (sr.row, r, (slot - sr.first) / sr.stride, sr)
        else none)
    match all.find? (fun x => x.2.1.vmask.testBit c.plan.variant) with
    | some x => some x
    | none => all.head?

/-- A plan fault of a coach carriage (11 R371, 14 R432). -/
def coachFault (c : Chip) (p which slot parity : Nat) : Chip :=
  reportOnce c (20 + which) p 0x0408 (.port p) .cycle [which, slot, parity]

/-- Write an accepted coach to its yard place (11 R345 to R347). -/
def toYard (c : Chip) (p place par : Nat) (x : Coach) : Chip :=
  let q := portAt c p
  if nsMem q.yardRead (2 * place + par) || (smGet none q.yard place).isSome then
    coachFault (portCount c p 11 1) p 2 x.slot x.parity
  else
    let c := (flawsOf c (inPlace p place)).foldl (fun c f => dropFlaw c f.spot) c
    setPort c p { q with yard := smSet none q.yard place (some ⟨x.payload, x.poison⟩) }

/-- Deliver an accepted coach (11 R340 R343 R344, 12 R379 R380). -/
def deliverCoach (c : Chip) (p : Nat) (x : Coach) (t16 : Nat) : Chip :=
  let step := coachStep c p x.slot x.parity t16
  let due := slotStart16 c p (absSlot c p step x.slot) + lambda16 c p
  let late := fun c : Chip =>
    if slackW c * 32 < lateBy c t16 due then coachFault (portCount c p 10 1) p 1 x.slot x.parity else c
  let last := findSlot c p x.slot (fun r h => h == r.hops && r.path.getD (r.hops - 1) ones32 == ownDev c)
  match last with
  | some (_, _, i, sr) => toYard (late c) p ((if x.parity = 0 then sr.even else sr.odd) + i) x.parity x
  | none =>
    match findSlot c p x.slot (fun r h => decide (h < r.hops) && r.path.getD (h - 1) ones32 == ownDev c) with
    | some (row, _, i, sr) =>
      match hopPort c row (sr.hop + 1), slotRec c row (sr.hop + 1) with
      | some o, some sr' =>
        let step' := step + (if sr'.next && !sr.next then 1 else 0)
        let s' := sr'.first + i * sr'.stride
        let y : Coach := ⟨absSlot c o step' s', s', step' % 2, x.poison, x.payload⟩
        modPort (late c) p (fun q => { q with through := q.through ++ [(o, y, t16 + cdiv 1280 (ccNow c))] })
      | _, _ => coachFault (portCount c p 20 1) p 3 x.slot x.parity
    | none => coachFault (portCount c p 20 1) p 3 x.slot x.parity

/-- The partition tag in force (12 R399). -/
def tagNow (c : Chip) : Nat :=
  match c.plan.image with
  | some im => im.tag
  | none => reg c (key 0x5320 1) % 4096

/-- Carts a receive queue holds (12 R391). -/
def recvCap (c : Chip) : Nat := reg c (key 0x4002 2) / 320

/-- A port is under logical fence. -/
def logicalFence (c : Chip) (p : Nat) : Bool := reg c (key (0x5100 + p) 13) == 1

/-- Deliver an accepted cart to the receive queue (12 R391 R402). -/
def deliverCart (c : Chip) (p : Nat) (x : Cart) : Chip :=
  if !portOpen c p then c
  else if logicalFence c p ∧ x.tag ≠ tagNow c then portCount c p 21 1
  else
    let q := portAt c p
    let c := portCount c p 23 1
    if q.recv.length < recvCap c then setPort c p { q with recv := q.recv ++ [(x, c.count)] }
    else
      let c := portCount c p 19 1
      let period := c.count / 65536 + 1
      if smGet 0 c.fab.overrun p = period then c
      else
        report { c with fab := { c.fab with overrun := smSet 0 c.fab.overrun p period } } 0x0501 (.port p)
          .apart [0, x.dst]

/-- The control types that are not reserved (11 R349). -/
def controlType (kind t : Nat) : Bool :=
  (kind == 3 && [1, 2, 3, 0x10].contains t) || (kind == 4 && decide (0x20 ≤ t) && decide (t ≤ 0x26))

/-- Deliver a control carriage. -/
def deliverCtl (c : Chip) (p kind t : Nat) (payload : List Byte) (t16 : Nat) : Chip :=
  if controlType kind t then modPort c p (fun q => { q with ctl := q.ctl ++ [⟨kind, t, payload, t16⟩] })
  else portCount c p 13 1

/-- The active route epoch. -/
def epochNow (c : Chip) : Nat := reg c (key 0x5301 1)

/-- Deliver an accepted carriage of kind 1, 2, 3 or 4. -/
def deliver (c : Chip) (p h : Nat) (payload : List Byte) (t16 : Nat) : Chip :=
  let v2 := portVersion c p == 2
  let poison := if v2 then (if bit h 4 then 15 else 0) else bits h 7 4
  match bits h 3 0 with
  | 1 =>
    if !portOpen c p then c
    else if logicalFence c p then portCount c p 22 1
    else deliverCoach c p ⟨0, bits h 66 42, bits h 67 67, poison, payload⟩ t16
  | 2 =>
    deliverCart c p
      { epoch := if v2 then epochNow c else bits h 42 42, escape := !v2 && bit h 43, tag := bits h 55 44,
        dst := bits h 73 56, poison := poison, payload := payload }
  | k => deliverCtl c p k (bits h 49 42) payload t16

/-- The decoder corrects up to 15 symbol errors of a codeword and flags one with more (11 R325). -/
def codewordLost (w : List (Fin 544)) : Bool := decide (15 < w.length)

/-- The codewords that the decoder flags as uncorrectable. -/
def fecLost (fec : FecInfo) : Nat := (fec.words.filter codewordLost).length

/-- The carriage has bits in an uncorrectable codeword: one that it shows, or the one that an earlier carriage showed last
(11 R325 R332). -/
def fecFails (q : Port) (fec : FecInfo) : Bool :=
  decide (fecLost fec ≠ 0) || ((fec.tail || fec.words.isEmpty) && q.fecBad)

/-- The port after the codewords of a carriage: whether the last of them is uncorrectable. -/
def fecSeen (q : Port) (fec : FecInfo) : Port :=
  match fec.words.getLast? with
  | some w => { q with fecBad := codewordLost w }
  | none => q

/-- The symbols corrected on a logical lane of a port of width w: symbol i travels on lane i mod w (11 R325). -/
def fecFixed (fec : FecInfo) (w k : Nat) : Nat :=
  ((fec.words.filter (fun x => !codewordLost x)).map (fun x => (x.filter (fun i => i.val % w == k)).length)).foldl
    (· + ·) 0

/-- All symbols corrected. -/
def fecTotal (fec : FecInfo) : Nat :=
  ((fec.words.filter (fun x => !codewordLost x)).map List.length).foldl (· + ·) 0

/-- Count what the decoder finds: symbols corrected in all and by the physical lane that carries the logical one,
and codewords flagged (11 R325 R370). -/
def countFec (c : Chip) (p : Nat) (fec : FecInfo) : Chip :=
  let w := if reg c (key (0x5100 + p) 5) = 2 then 2 else 4
  let m := reg c (key (0x5100 + p) 6)
  let c := portCount (portCount c p 1 (fecTotal fec)) p 2 (fecLost fec)
  (List.range w).foldl (fun c k =>
    if m / 8 ^ k % 8 < 5 then portCount c p (14 + m / 8 ^ k % 8) (fecFixed fec w k) else c) c

/-- A carriage fails its CRC: nothing of it is used. -/
def failCrc (c : Chip) (p t16 : Nat) : Chip :=
  portCount (modPort c p (fun q => raiseNak q t16)) p 3 1

/-- A carriage arrives. -/
def fReceive (p : Nat) (bytes : List Byte) (t16 : Nat) (fec : FecInfo) (c : Chip) : Chip :=
  let q := portAt c p
  if !portCarries q.st then c
  else
    let c := countFec (modPort (reach c (t16 / 16)) p (fecSeen · fec)) p fec
    if bytes.length ≠ 270 ∨ fecFails q fec ∨ crc32c (bytes.take 266) ≠ field bytes 266 4 then failCrc c p t16
    else
      let h := field bytes 0 10
      let kind := bits h 3 0
      let seq := bits h 23 8
      let pay := slice bytes 10 256
      let c := modPort c p (fun q => applyAck q (bits h 39 24) (bit h 40) t16)
      let q := portAt c p
      if kind = 1 ∨ kind = 2 ∨ kind = 4 then
        if seq = q.expect then
          deliver (setPort c p { q with expect := (seq + 1) % 65536, nakOut := none, nakDue := false }) p h pay t16
        else if serialLt seq q.expect then portCount c p 6 1
        else setPort c p (raiseNak q t16)
      else if kind = 3 then deliver c p h pay t16
      else c

/-- The through path hands over its oldest carriage (11 R344). -/
def fThrough (p : Nat) (c : Chip) : Chip :=
  let q := portAt c p
  match q.through with
  | (o, x, t) :: rest =>
    let c := reach (setPort c p { q with through := rest }) (cdiv t 16)
    let late := decide (slotStart16 c o x.abs < t)
    if late then modPort c o (fun q => { q with backlog := q.backlog ++ [x] }) else handCoach c o x
  | [] => c

/-- The replay timeout of a port, 1/16 tick (11 R338). -/
def replayTimeout16 (c : Chip) (p : Nat) : Nat := 2 * lambda16 c p + 2048

/-- A replay timeout passes: the transmitter starts a burst from its oldest unacknowledged carriage,
or the receiver raises its outstanding NAK again. -/
def fTimeout (p : Nat) (tx : Bool) (c : Chip) : Chip :=
  let q := portAt c p
  if q.st ≠ .active then c
  else if tx then
    match q.replay, q.burst with
    | x :: _, [] =>
      startBurst (portCount (reach c (cdiv (x.sent + replayTimeout16 c p) 16)) p 7 1) p x.seq
    | _, _ => c
  else
    match q.nakOut with
    | some t =>
      let t' := t + replayTimeout16 c p
      let c := portCount (reach c (cdiv t' 16)) p 7 1
      modPort c p (fun q => { q with nakOut := some t', nakDue := true })
    | none => c

/-! ## Lane failure and sparing (11 R354 to R356) -/

/-- The oldest waiting control carriage of a type, and the port without it. -/
def takeCtl (q : Port) (kind t : Nat) : Option (Ctl × Port) :=
  match q.ctl.find? (fun x => x.kind == kind && x.type == t) with
  | some x => some (x, { q with ctl := q.ctl.eraseP (fun x => x.kind == kind && x.type == t) })
  | none => none

/-- Lane map of an entry :06: the physical lane of logical lane k, or the spare for k = 4. -/
def mapLane (m k : Nat) : Nat := m / 8 ^ k % 8

/-- A lane map with the lane of k replaced. -/
def setLane (m k v : Nat) : Nat := m - mapLane m k * 8 ^ k + v * 8 ^ k

/-- The width in force. -/
def portWidth (c : Chip) (p : Nat) : Nat := reg c (key (0x5100 + p) 5)

/-- The logical lane that a physical lane carries. -/
def logicalLane (c : Chip) (p lane : Nat) : Option Nat :=
  (List.range (portWidth c p)).find? (fun k => mapLane (reg c (key (0x5100 + p) 6)) k == lane)

/-- Spare request: logical lane, failed physical lane, proposed switch count, which the slot that sends it puts in
(`sendMessage`). The layout is the model's: DESIGN CHOICE (log 19). -/
def spareRequest (k lane f : Nat) : List Byte := leBytes 1 k ++ leBytes 1 lane ++ leBytes 6 0 ++ leBytes 8 f

/-- A receiving lane fails in service. -/
def fLaneFail (p : Nat) (lane : Nat) (why : LaneLoss) (c : Chip) : Chip :=
  let q := portAt c p
  let fails := match why with
    | .lock => true
    | .symbols n => decide (reg c (key 0x5000 3) < n)
  if q.st ≠ .active ∨ fails = false then c
  else
    let m := reg c (key (0x5100 + p) 6)
    let c := setPort c p { q with lanes := clearBit q.lanes lane }
    if mapLane m 4 = lane then
      report (setPortReg c p 6 (setLane m 4 7)) 0x0403 (.port p) .apart [lane]
    else
      match logicalLane c p lane with
      | none => c
      | some k =>
        if reg c (key 0x5000 2) = 1 ∧ mapLane m 4 ≠ 7 ∧ q.spareRx = none then
          sendMsg (modPort c p (fun q => { q with spareRx := some (k, none) })) p 0x22 (spareRequest k lane 0)
        else report c 0x0403 (.port p) .apart [lane]

/-- The transmitter answers a received spare request: F′ is the later of F and the first superframe
start at least 2,720 ticks after the request arrived. -/
def fSpareRequest (p : Nat) (c : Chip) : Chip :=
  match takeCtl (portAt c p) 4 0x22 with
  | some (x, q) =>
    let f' := max (field x.payload 8 8) (superframeAt c p (cdiv x.at16 16 + 2720))
    let q := { q with spareTx := some (field x.payload 0 1, f') }
    sendMsg (setPort c p q) p 0x23 (leBytes 1 (field x.payload 0 1) ++ leBytes 7 0 ++ leBytes 8 f')
  | none => c

/-- The receiver takes the acknowledgement. -/
def fSpareAck (p : Nat) (c : Chip) : Chip :=
  match takeCtl (portAt c p) 4 0x23 with
  | some (x, q) =>
    setPort c p { q with spareRx := q.spareRx.map (fun r => (r.1, some (field x.payload 8 8))) }
  | none => c

/-- At F′ the logical lane moves to the spare: in the sending map, or in the receiving map that the
entry :06 shows. The port reports the switch. -/
def fLaneSwitch (p : Nat) (tx : Bool) (c : Chip) : Chip :=
  let q := portAt c p
  if tx then
    match q.spareTx with
    | some (k, f') =>
      let s := mapLane q.txMap 4
      let c := reach c f'
      report (setPort c p { q with txMap := setLane (setLane q.txMap k s) 4 7, spareTx := none }) 0x0402
        (.port p) .apart [k, s]
    | none => c
  else
    match q.spareRx with
    | some (k, some f') =>
      let m := reg c (key (0x5100 + p) 6)
      let s := mapLane m 4
      let c := setPortReg (reach c f') p 6 (setLane (setLane m k s) 4 7)
      report (setPort c p { q with spareRx := none }) 0x0402 (.port p) .apart [k, s]
    | _ => c

/-- The receiver is aligned to the superframe in progress: its start is the last multiple of the
superframe length (11 R326). -/
def alignRx (c : Chip) (p : Nat) : Chip :=
  let n := superframeLen c p
  modPort c p (fun q => { q with rxAlign := c.count / n * n, fecBad := false })

/-- The receiver has codeword and superframe alignment again (11 R328). -/
def fRelock (p : Nat) (c : Chip) : Chip := if portSends (portAt c p).st then alignRx c p else c

/-! ## The meanings -/

/-- SUPERFRAME_START. -/
def execSuperframeStart (p : Fin 32) (s : State) : Host.Outcome State Fault Refusal :=
  onRunning s (fSuperframe p.val)

/-- SLOT_TRANSMIT: a is the absolute slot (12 R372). -/
def execSlotTransmit (p : Fin 32) (a : Nat) (s : State) : Host.Outcome State Fault Refusal :=
  onRunning s (fSlot s.fuses p.val a)

/-- REPLAY_BURST. -/
def execReplayBurst (p : Fin 32) (s : State) : Host.Outcome State Fault Refusal :=
  onRunning s (fBurst p.val)

/-- CARRIAGE_RECEIVE: t16 is the arrival in sixteenths of a tick of the own count. -/
def execCarriageReceive (p : Fin 32) (bytes : List Byte) (t16 : Nat) (fec : FecInfo) (s : State) :
    Host.Outcome State Fault Refusal :=
  onRunning s (fReceive p.val bytes t16 fec)

/-- THROUGH_HANDOVER. -/
def execThroughHandover (p : Fin 32) (s : State) : Host.Outcome State Fault Refusal :=
  onRunning s (fThrough p.val)

/-- REPLAY_TIMEOUT. -/
def execReplayTimeout (p : Fin 32) (tx : Bool) (s : State) : Host.Outcome State Fault Refusal :=
  onRunning s (fTimeout p.val tx)

/-- LANE_FAIL. -/
def execLaneFail (p : Fin 32) (lane : Fin 5) (why : LaneLoss) (s : State) : Host.Outcome State Fault Refusal :=
  onRunning s (fLaneFail p.val lane.val why)

/-- SPARE_REQUEST. -/
def execSpareRequest (p : Fin 32) (s : State) : Host.Outcome State Fault Refusal :=
  onRunning s (fSpareRequest p.val)

/-- SPARE_ACKNOWLEDGEMENT. -/
def execSpareAcknowledgement (p : Fin 32) (s : State) : Host.Outcome State Fault Refusal :=
  onRunning s (fSpareAck p.val)

/-- LANE_SWITCH. -/
def execLaneSwitch (p : Fin 32) (tx : Bool) (s : State) : Host.Outcome State Fault Refusal :=
  onRunning s (fLaneSwitch p.val tx)

/-- CODEWORD_RELOCK. -/
def execCodewordRelock (p : Fin 32) (s : State) : Host.Outcome State Fault Refusal :=
  onRunning s (fRelock p.val)

end Sys2Proof.Machine
end

