-- ==== Sys2Proof/Machine/Yard.lean ====
section
/-! DEFINITION. When coach carriages stand in a yard: slots and latencies in core cycles (12 R374 R381), and
the check of R173 that a load and a port that becomes Active both run (06 R173, 11 R362). -/

namespace Sys2Proof.Machine

/-- Core cycles per tick pair at the plan's core frequency (06 R172). -/
def planCc (c : Chip) : Nat :=
  match c.plan.image with
  | some im => ccPerPair im.hdr.freq
  | none => ccNow c

/-- Core cycles of a latency in 1/16 tick at the plan's core frequency, rounded up. -/
def cc16 (c : Chip) (t16 : Nat) : Nat := cdiv (t16 * planCc c) 32

/-- The path devices 0 to H of a coach row. -/
def pathDevs (r : CoachRow) : List Nat := r.src :: r.path.take r.hops

/-- Core cycles of a step. -/
def stepCc (im : PlanImage) : Nat := im.hdr.stepLen * ccPerPair im.hdr.freq

/-- A slot length in hundredths of a core cycle (12 R374). -/
def sigma100 (im : PlanImage) : Nat := 64 * ccPerPair im.hdr.freq * (if im.slotVersion = 2 then 2 else 1)

/-- The slot record of a hop of a row. -/
def recOf (im : PlanImage) (row hop : Nat) : Option SlotRec :=
  im.slots.find? (fun r => r.row == row && r.hop == hop)

/-- The record of carriage i's slot, as a slot of the send step's grid in hundredths of a core cycle,
`late` slots later (12 R374 R377). -/
def slotTime (im : PlanImage) (sr : SlotRec) (i late : Nat) : Nat :=
  sigma100 im * (sr.first + i * sr.stride + late) + (if sr.next then 100 * stepCc im else 0)

/-- Latency of the port that receives a hop here, in core cycles (06 R172). -/
def rxLatency (c : Chip) (pl : Place) (row hop : Nat) : Nat :=
  match pl.hops.find? (fun x => x.1 == row && x.2.1 == hop) with
  | some x => cc16 c (reg c (key (0x5100 + x.2.2) 7))
  | none => 0

/-- The release cycle in the send step's cycles. -/
def releaseCc (im : PlanImage) (r : CoachRow) (s : SlotRec) : Nat :=
  r.release + (if s.relNext then stepCc im else 0)

/-- A carriage's stay in a yard: port, place in steps of even and odd parity, whether its slot lies in
the step after the send step, variants, first and end cycle in hundredths, row (06 R173, 12 R377). -/
structure Stay where
  port : Nat
  even : Nat
  odd : Nat
  next : Bool
  vmask : Nat
  start : Nat
  fin : Nat
  row : Nat
  deriving DecidableEq, Repr

/-- The stays of the rows that end here. -/
def yardStays (c : Chip) (im : PlanImage) (pl : Place) : List Stay :=
  pl.hops.flatMap (fun (row, hop, p) =>
    match im.coaches[row]?, recOf im row hop with
    | some r, some s =>
      if hop = r.hops ∧ (pathDevs r).getD hop ones32 = pl.own then
        (List.range r.k).map (fun i => ⟨p, s.even + i, s.odd + i, s.next, r.vmask,
          slotTime im s i 0 + 100 * rxLatency c pl row hop, 100 * (releaseCc im r s + 4 * r.k), row⟩)
      else []
    | _, _ => [])

/-- Two stays meet in one place where b's send step is d steps after a's (06 R173, 12 R381 check 8). -/
def stayClash (t : Nat) (a b : Stay) (d : Nat) : Bool :=
  a.port == b.port && (d != 0 || a.vmask &&& b.vmask != 0) &&
    decide (a.start < b.fin + 100 * t * d) && decide (b.start + 100 * t * d < a.fin) &&
    (List.range 2).any (fun n =>
      let pa := (n + (if a.next then 1 else 0)) % 2
      let pb := (n + d + (if b.next then 1 else 0)) % 2
      (if pa = 0 then a.even else a.odd) == (if pb = 0 then b.even else b.odd))

/-- A stay meets an earlier one of the list, or any of a later step. -/
def stayFails (t : Nat) (all seen : List Stay) (x : Stay) : Bool :=
  seen.any (fun y => stayClash t x y 0) || all.any (fun y => stayClash t x y 1 || stayClash t x y 2)

/-- The rows whose stays fail, of the stays of a list in its order. -/
def yardRows (t : Nat) (all : List Stay) : List Stay → List Stay → List Nat
  | _, [] => []
  | seen, x :: rest =>
    let l := yardRows t all (x :: seen) rest
    if stayFails t all seen x then x.row :: l else l

/-- R173 with the places of the slot records (12 R381 check 8). -/
def yardVerdict (t : Nat) (all : List Stay) : Option (Nat × Nat) := (yardRows t all [] all).head?.map (fun r => (0x0604, r))

end Sys2Proof.Machine
end

