-- ==== Sys2Proof/Machine/Training.lean ====
section
/-! DEFINITION. Training of a port (11 R357 to R367), its commands, retrain and width, and the fences
that touch its state (12 R400 to R403). -/

namespace Sys2Proof.Machine

/-- The number of a port state (11 R357). -/
def pstateCode : PState → Nat
  | .disabled => 0
  | .detect => 1
  | .equalize => 2
  | .align => 3
  | .exchange => 4
  | .measure => 5
  | .active => 6
  | .down => 7
  | .fenced => 8

/-- A port enters a state at the present count, from which the limits of training run (11 R357). -/
def enterState (c : Chip) (q : Port) (st : PState) : Port := { q with st := st, entered := c.count }

/-- Set the state of a port. -/
def setPState (c : Chip) (p : Nat) (st : PState) : Chip := modPort c p (fun q => enterState c q st)

/-- A retrain that a port had asked for or agreed is over: its request and its accept leave the queue (11 R366). -/
def dropRetrain (q : Port) : Port :=
  { q with retrainOut := none, retrainAt := none, acceptW := none,
           msgs := q.msgs.filter (fun x => x.fields % 256 != 0x24 && x.fields % 256 != 0x25) }

/-- What a port that leaves Active for training or for no traffic no longer holds: the burst in progress, the timed
carriages due, and the version negotiated, which reads 0 before Exchange (11 R337 R358 R370). -/
def quietPort (c : Chip) (p : Nat) : Chip :=
  setPortReg (modPort c p (fun q => { q with burst := [], timed := [], stamp := none, trip := none })) p 4 0

/-- Set the command status of a port (11 R364). -/
def setCmdStatus (c : Chip) (p v : Nat) : Chip := setPortReg c p 2 v

/-- A command in progress ends with a status. -/
def endCommand (c : Chip) (p v : Nat) : Chip :=
  if reg c (key (0x5100 + p) 2) = 1 then setCmdStatus c p v else c

/-- The port goes Down, leaving a state for a reason (11 R357, 14 R432). -/
def portDown (c : Chip) (p reason : Nat) : Chip :=
  let st := pstateCode (portAt c p).st
  let c := quietPort (modPort c p (fun q => enterState c (dropRetrain q) .down)) p
  report (endCommand c p 6) 0x0404 (.port p) .apart [st, reason]

/-- The port enters Detect: nothing is negotiated (11 R357 R370). -/
def toDetect (c : Chip) (p : Nat) : Chip :=
  let c := setPortReg (quietPort c p) p 5 0
  modPort c p (fun q => { enterState c (dropRetrain q) .detect with
    fullRate := false, record := [], ctl := q.ctl.filter (fun x => x.kind != 3) })

/-- Detect ends: the peer's pattern is seen. -/
def fDetectDone (p : Nat) (c : Chip) : Chip :=
  if (portAt c p).st = .detect then
    modPort c p (fun q => { enterState c q .equalize with fullRate := false })
  else c

/-- The numbers of the working lanes, rising. -/
def workingLanes (m : Nat) : List Nat := (List.range 5).filter (fun l => m.testBit l)

/-- The lane map of a width over the working lanes (11 R327 R357 R370): the lowest-numbered working
lanes in order, the next as spare, 7 for none. -/
def laneMap (w m : Nat) : Nat :=
  let l := workingLanes m
  (List.range w).foldl (fun a k => a + l.getD k 7 * 8 ^ k) (l.getD w 7 * 8 ^ 4)

/-- The slot grid of a port from the present count on: its slot length follows from the version and the width in
force (11 R327 R369). -/
def restartSlots (c : Chip) (p : Nat) : Chip :=
  modPort c p (fun q => { q with slotNext := firstSlot c p c.count })

/-- Equalize ends with the lanes that work at this receiver, which :06 maps; at full rate too few of them narrow the
port (11 R367, log 19). The sending direction takes its lanes from the peer's record, at Exchange (11 R324). -/
def fEqualizeDone (p lanes : Nat) (c : Chip) : Chip :=
  let q := portAt c p
  if q.st = .equalize then
    let n := (workingLanes lanes).length
    if n < 2 then portDown (setPort c p { q with lanes := lanes }) p 3
    else
      let w := if 4 ≤ n then (if q.fullRate ∧ portWidth c p = 2 then 2 else 4) else 2
      let c := if q.fullRate then setPortReg c p 5 w else c
      let tx := if q.fullRate then laneMap w q.peerLanes else q.txMap
      restartSlots (setPortReg (setPort c p { enterState c q .align with lanes := lanes, txMap := tx }) p 6
        (laneMap w lanes)) p
  else c

/-- The port enters Measure: no stamp sent, no result yet (11 R357 R360). -/
def enterMeasure (c : Chip) (q : Port) : Port :=
  { enterState c q .measure with stamps := 0, results := [], stamp := none, trip := none, timed := [] }

/-- Align ends: superframes are aligned. -/
def fAlignDone (p : Nat) (c : Chip) : Chip :=
  if (portAt c p).st = .align then
    let c := alignRx c p
    let q := portAt c p
    let q' := if q.fullRate then enterMeasure c q else enterState c q .exchange
    setPort c p { q' with record := [] }
  else c

/-- A training record is received in Exchange. -/
def fTrainingRecord (p : Nat) (c : Chip) : Chip :=
  match takeCtl (portAt c p) 3 0x10 with
  | some (x, q) =>
    if q.st = .exchange then setPort c p { q with record := x.payload :: q.record.take 1 } else setPort c p q
  | none => c

/-- The first eight bytes of a digest as two words. -/
def digestWords (d : List Byte) : List Nat := [field d 0 4, field d 4 4]

/-- At Exchange the port reports a peer whose device ID is not the one R35 gives it, and a digest that differs; neither stops the
training (11 R360, 13 R410). -/
def peerReports (c : Chip) (p : Nat) (a : List Byte) : Chip :=
  let c := if expectedPeer c p = some (field a 4 4) then c else report c 0x0406 (.port p) .apart [field a 4 4]
  let d := slice a 16 16
  if d = settingsDigest c then c else report c 0x0407 (.port p) .apart (digestWords d)

/-- Exchange ends: two matching records of the peer fix version and width and are recorded (11 R358 to
R360, 13 R410). -/
def fExchangeDone (p : Nat) (c : Chip) : Chip :=
  let q := portAt c p
  match q.st, q.record with
  | .exchange, [a, b] =>
    if a ≠ b then c
    else
      let v := min (reg c (key 0x5000 1)) (field a 0 1)
      let c := setPortReg (setPortReg (setPortReg c p 9 (field a 4 4)) p 10 (field a 2 1)) p 11 (field a 8 8)
      let q := { q with digest := slice a 16 16 }
      if v < max 2 (field a 1 1) then portDown (peerReports (setPort c p q) p a) p 2
      else
        let four := q.reqWidth = 4 ∧ field a 3 1 = 4 ∧ 4 ≤ (workingLanes q.lanes).length ∧
          4 ≤ (workingLanes (field a 32 1)).length
        let w := if four then 4 else 2
        let peer := field a 32 1 % 32
        let c := setPortReg (setPortReg (setPortReg c p 4 v) p 5 w) p 6 (laneMap w q.lanes)
        let q := { q with peerLanes := peer, txMap := laneMap w peer }
        let q := if v = 2 then enterMeasure c q else { enterState c q .equalize with fullRate := true }
        peerReports (restartSlots (setPort c p q) p) p a
  | _, _ => c

/-- The coach rows with a hop bound to a port. -/
def rowsOnPort (c : Chip) (p : Nat) : List (Nat × Nat) :=
  match c.plan.place with
  | some pl => (pl.hops.filter (fun x => x.2.2 == p)).map (fun x => (x.1, x.2.1))
  | none => []

/-- The hops of a row that end at this module. -/
def endsHere (c : Chip) (r : CoachRow) (h : Nat) : Bool := r.path.getD (h - 1) ones32 == ownDev c

/-- Training latency of hop h of a row in core cycles, where this module ends the hop; a hop it does
not end adds nothing it has measured. -/
def hopLatency (c : Chip) (row h : Nat) (r : CoachRow) : Nat :=
  if endsHere c r h then match hopPort c row h with
    | some p => cc16 c (lambda16 c p)
    | none => 0
  else 0

/-- R172 for a row, over the hops whose latency this module measures. -/
def coachTime (c : Chip) (row : Nat) (r : CoachRow) : Bool :=
  let rel := match slotRec c row r.hops with
    | some sr => r.release + (if sr.relNext then stepTicks c * planCc c / 2 else 0)
    | none => r.release
  let need := 4 * r.k + 40 + (List.range r.hops).foldl (fun n h => n + hopLatency c row (h + 1) r + slackW c) 0 +
    40 * (r.hops - 1)
  decide (r.send + need ≤ rel)

/-- Slack shortfall of a port (11 R342): ρ plus 4 ticks against W. -/
def slackCheck (c : Chip) (p : Nat) : Chip :=
  let n := cc16 c (reg c (key (0x5100 + p) 8) + 64)
  if (rowsOnPort c p).isEmpty ∨ n ≤ slackW c then c
  else report c 0x0409 (.port p) .apart [n, slackW c]

/-- A coach check of a row that fails at a port (11 R362, log 18). -/
def coachCheck (ok : Nat → Bool) (p : Nat) (c : Chip) (row : Nat) : Chip :=
  if ok row then c else report c 0x0400 (.port p) .apart [row]

/-- When a port becomes Active with a plan loaded: R172 and R173 for the rows bound to it, and R342
(11 R362). -/
def activeCheck (c : Chip) (p : Nat) : Chip :=
  match c.plan.image, c.plan.place with
  | some im, some pl =>
    let rows := (rowsOnPort c p).foldl (fun l x => nsInsert l x.1) []
    let full := yardRows (stepCc im) ((yardStays c im pl).filter (fun x => x.port == p)) []
      ((yardStays c im pl).filter (fun x => x.port == p))
    let inTime := fun row => match im.coaches[row]? with
      | some r => coachTime c row r
      | none => true
    let c := rows.foldl (coachCheck inTime p) c
    slackCheck (rows.foldl (coachCheck (fun row => !full.contains row) p) c) p
  | _, _ => c

/-- λ in 1/16 tick: the median of 64 results, each half of a round trip in 1/16 tick, rounded up; the median of an
even number of results is the mean of the middle two (11 R350 R360). -/
def median16 (trips : List Nat) : Nat :=
  let s := sortBy (fun a b => decide (a < b)) trips
  cdiv (s.getD 31 0 + s.getD 32 0) 4

/-- Measure ends with the 64th of the port's own results: λ and ρ are set and the port is Active; a transmitter with
unacknowledged carriages starts a burst from the oldest (11 R360 R365). The event carries the results, and is the port's
where they are those that it has measured (log 13). -/
def fMeasureDone (p : Nat) (results : List Nat) (c : Chip) : Chip :=
  let q := portAt c p
  if q.st = .measure ∧ q.results.length = 64 ∧ results = q.results then
    let lam := median16 q.results
    let c := setPortReg (setPortReg c p 7 lam) p 8 (2 * lam + 96)
    let q := { enterState c q .active with burst := [], heldNak := false, nakAck := none, timed := [],
                                           slotNext := firstSlot c p c.count }
    let c := heardQuiet (setPort c p q)
    let narrowed := q.widen && decide (portWidth c p = 2)
    let c := endCommand c p (if narrowed then 6 else 2)
    let c := report c 0x0405 (.port p) .apart [portVersion c p, portWidth c p]
    let c := match q.replay with
      | x :: _ => startBurst c p x.seq
      | [] => c
    activeCheck c p
  else c

/-- The limit of a training state in ticks: 4 ms, 1 ms, and in Measure 1 ms beyond 64 superframes (11 R357). -/
def trainingLimit (c : Chip) (p : Nat) : Option Nat :=
  match (portAt c p).st with
  | .equalize => some 2000000
  | .align | .exchange => some 500000
  | .measure => some (64 * superframeLen c p + 500000)
  | _ => none

/-- A training state exceeds its limit, at the count where it does. -/
def fTrainingTimeout (p : Nat) (c : Chip) : Chip :=
  match trainingLimit c p with
  | some n => portDown (reach c ((portAt c p).entered + n)) p 0
  | none => c

/-- Lock is lost on every lane while Active. -/
def fLockLost (p : Nat) (c : Chip) : Chip :=
  if (portAt c p).st = .active then portDown c p 1 else c

/-- A Down port follows its peer into Detect. -/
def fPeerPattern (p : Nat) (c : Chip) : Chip := if (portAt c p).st = .down then toDetect c p else c

/-! ## Retrain and width (11 R363 to R367) -/

/-- The identity of a port (11 R358). -/
def portIdentity (f : Fuses) (p : Nat) : Nat := f.unique * 256 + p

/-- Ask for a retrain at a width, `widen` for a widening: a request where the port is Active, outstanding from the
slot that sends it (`sentMessage`); through Down to Detect where it is not; refused where it is Disabled or Fenced,
which no command 2 to 4 leaves. -/
def askRetrain (f : Fuses) (c : Chip) (p w : Nat) (widen : Bool) : Chip :=
  let q := { portAt c p with widen := widen }
  match q.st with
  | .active =>
    let c := setCmdStatus (setPort c p { q with reqWidth := w }) p 1
    sendMsg c p 0x24 (leBytes 1 w ++ leBytes 7 0 ++ leBytes 8 (portIdentity f p))
  | .disabled | .fenced => setCmdStatus c p 5
  | _ => toDetect (setCmdStatus (setPort c p { q with reqWidth := w }) p 1) p

/-- An accept joins the queue; the slot that sends it fixes the start count (`sendMessage`, `sentMessage`). -/
def acceptRetrain (c : Chip) (p w : Nat) : Chip :=
  sendMsg (modPort c p (fun q => { dropRetrain q with acceptW := some w })) p 0x25 (leBytes 8 0)

/-- A retrain request is received: with the own request outstanding the higher identity stands. An own request that
no slot has sent yet is not outstanding: the peer's is accepted and overrides it (11 R366). -/
def fRetrainRequest (f : Fuses) (p : Nat) (c : Chip) : Chip :=
  match takeCtl (portAt c p) 4 0x24 with
  | none => c
  | some (x, q) =>
    let w := field x.payload 0 1
    let queued := q.msgs.any (fun y => y.fields % 256 == 0x24)
    if q.retrainOut.isSome ∧ field x.payload 8 8 < portIdentity f p then setPort c p q
    else if q.retrainOut.isSome ∨ queued then
      report (acceptRetrain (setCmdStatus (setPort c p q) p 4) p w) 0x040A (.port p) .apart [4]
    else acceptRetrain (setPort c p q) p w

/-- A retrain accept is received. -/
def fRetrainAccept (p : Nat) (c : Chip) : Chip :=
  match takeCtl (portAt c p) 4 0x25 with
  | none => c
  | some (x, q) =>
    match q.retrainOut with
    | some w => setPort c p { q with retrainAt := some (field x.payload 0 8, w), retrainOut := none }
    | none => setPort c p q

/-- At the agreed count the port enters Equalize at the requested width. -/
def fRetrainStart (p : Nat) (c : Chip) : Chip :=
  let q := portAt c p
  match q.retrainAt with
  | some (t, w) =>
    if q.st = .active then
      let c := quietPort (reach c t) p
      modPort c p (fun q => { enterState c q .equalize with
        fullRate := false, reqWidth := w, retrainAt := none, record := [] })
    else c
  | none => c

/-- A digest notice is received (11 R353). -/
def fDigestNotice (p : Nat) (c : Chip) : Chip :=
  match takeCtl (portAt c p) 4 0x26 with
  | some (x, q) => setPort c p { q with digest := slice x.payload 0 16 }
  | none => c

/-- Narrowing waits for a halt: a running plan has a coach hop bound to the port. -/
def mustDefer (c : Chip) (p : Nat) : Bool := runs c && !(rowsOnPort c p).isEmpty

/-- A port command is written (11 R363). Under electrical fence the port stays Fenced, whatever is commanded (12 R403,
log 19). -/
def portCommand (f : Fuses) (c : Chip) (p v : Nat) : Chip :=
  let q := portAt c p
  match v with
  | 1 => if q.st = .disabled then toDetect (setCmdStatus (setPort c p { q with widen := false }) p 1) p else c
  | 2 => askRetrain f c p (if portWidth c p = 2 then 2 else 4) false
  | 3 =>
    if mustDefer c p then
      report (setCmdStatus (setPort c p { q with deferred := true }) p 3) 0x040A (.port p) .apart [3]
    else askRetrain f c p 2 false
  | 4 => askRetrain f c p 4 true
  | 5 =>
    if q.st = .fenced then setCmdStatus c p 5
    else setCmdStatus (quietPort (modPort c p (fun q => enterState c (dropRetrain q) .disabled)) p) p 2
  | _ => c

/-- A deferred narrowing runs (11 R367). -/
def fDeferred (f : Fuses) (p : Nat) (c : Chip) : Chip :=
  let q := portAt c p
  if q.deferred && (c.plan.state == .halted || c.plan.state == .empty) then
    askRetrain f (setPort c p { q with deferred := false }) p 2 false
  else c

/-! ## Fences (12 R400 to R403) -/

/-- A cart discarded at an electrical fence. -/
def fenceDiscard (c : Chip) (p : Nat) (x : Cart) : Chip :=
  report (addReg c (key 0x5410 4) 1) 0x0501 (.port p) .apart [2, x.dst]

/-- A fence mode is written: its entry takes the value by the write itself. -/
def fenceMode (c : Chip) (p v : Nat) : Chip :=
  let q := portAt c p
  if v = 2 then
    let c := quietPort (setPort c p { enterState c (dropRetrain q) .fenced with egress := [], escq := [] }) p
    throttles ((q.escq ++ q.egress).foldl (fun c x => fenceDiscard c p x) c)
  else if q.st = .fenced then setPState c p .down
  else c

/-! ## The meanings -/

/-- DETECT_DONE. -/
def execDetectDone (p : Fin 32) (s : State) : Host.Outcome State Fault Refusal := onRunning s (fDetectDone p.val)

/-- EQUALIZE_DONE: the lanes that work. -/
def execEqualizeDone (p : Fin 32) (lanes : BitVec 5) (s : State) : Host.Outcome State Fault Refusal :=
  onRunning s (fEqualizeDone p.val lanes.toNat)

/-- ALIGN_DONE. -/
def execAlignDone (p : Fin 32) (s : State) : Host.Outcome State Fault Refusal := onRunning s (fAlignDone p.val)

/-- TRAINING_RECORD_RECEIVE. -/
def execTrainingRecordReceive (p : Fin 32) (s : State) : Host.Outcome State Fault Refusal :=
  onRunning s (fTrainingRecord p.val)

/-- EXCHANGE_DONE. -/
def execExchangeDone (p : Fin 32) (s : State) : Host.Outcome State Fault Refusal :=
  onRunning s (fExchangeDone p.val)

/-- MEASURE_DONE. -/
def execMeasureDone (p : Fin 32) (results : List Nat) (s : State) : Host.Outcome State Fault Refusal :=
  onRunning s (fMeasureDone p.val results)

/-- TRAINING_TIMEOUT. -/
def execTrainingTimeout (p : Fin 32) (s : State) : Host.Outcome State Fault Refusal :=
  onRunning s (fTrainingTimeout p.val)

/-- LOCK_LOST. -/
def execLockLost (p : Fin 32) (s : State) : Host.Outcome State Fault Refusal := onRunning s (fLockLost p.val)

/-- PEER_TRAINING_PATTERN_SEEN. -/
def execPeerTrainingPatternSeen (p : Fin 32) (s : State) : Host.Outcome State Fault Refusal :=
  onRunning s (fPeerPattern p.val)

/-- RETRAIN_REQUEST_RECEIVE. -/
def execRetrainRequestReceive (p : Fin 32) (s : State) : Host.Outcome State Fault Refusal :=
  onRunning s (fRetrainRequest s.fuses p.val)

/-- RETRAIN_ACCEPT_RECEIVE. -/
def execRetrainAcceptReceive (p : Fin 32) (s : State) : Host.Outcome State Fault Refusal :=
  onRunning s (fRetrainAccept p.val)

/-- RETRAIN_START. -/
def execRetrainStart (p : Fin 32) (s : State) : Host.Outcome State Fault Refusal :=
  onRunning s (fRetrainStart p.val)

/-- DIGEST_NOTICE_RECEIVE. -/
def execDigestNoticeReceive (p : Fin 32) (s : State) : Host.Outcome State Fault Refusal :=
  onRunning s (fDigestNotice p.val)

/-- DEFERRED_NARROW. -/
def execDeferredNarrow (p : Fin 32) (s : State) : Host.Outcome State Fault Refusal :=
  onRunning s (fDeferred s.fuses p.val)

end Sys2Proof.Machine
end

