-- ==== Sys2Proof/Machine/Fabric.lean ====
section
/-! DEFINITION. Carts (12): their layout (R382), routes (R384 to R390), egress queues, escape and the
bubble rule (R391 to R394), throttling (R395 to R398). -/

namespace Sys2Proof.Machine

/-! ## Layout -/

/-- A field of a cart's payload. -/
def cartField (x : Cart) (o n : Nat) : Nat := field x.payload o n

/-- A cart that arrives has taken five link hops: the link it has come by and one for each forwarder (01 R36, 12 R384).
DEDUCED that the link it has come by counts (log 31). -/
def hopsSpent (x : Cart) : Bool := decide (5 ≤ field x.payload 5 1 + 1)

/-- Cart type. -/
def cartType (x : Cart) : Nat := cartField x 4 1

/-- The field of the hops taken: 0 at injection, each forwarder adds 1. -/
def cartHops (x : Cart) : Nat := cartField x 5 1

/-- Target. -/
def cartTarget (x : Cart) : Nat := cartField x 8 8

/-- The data, of the data length. -/
def cartData (x : Cart) : List Byte := slice x.payload 32 (min 224 (cartField x 6 2))

/-- Byte j of the data lies in a poisoned granule of the carriage. -/
def cartPoison (x : Cart) (j : Nat) : Bool := x.poison.testBit ((32 + j) / 64)

/-- The first 32 bytes of a payload (12 R382). -/
def cartHead (c : Chip) (type len target seq : Nat) : List Byte :=
  leBytes 4 (devId c) ++ leBytes 1 type ++ leBytes 1 0 ++ leBytes 2 len ++ leBytes 8 target ++ leBytes 4 seq ++
    List.replicate 12 0

/-- A cart of this module's own, with its source sequence. Tag and epoch are put in at injection. -/
def makeCart (c : Chip) (dst type target : Nat) (data : List Byte) (poison : Nat) (esc : Bool) : Chip × Cart :=
  let k := dst * 256 + type
  let seq := smGet 0 c.fab.seqs k
  let c' := { c with fab := { c.fab with seqs := smSet 0 c.fab.seqs k ((seq + 1) % 4294967296) } }
  (c', { epoch := 0, escape := esc, tag := 0, dst := dst, poison := poison,
         payload := cartHead c type data.length target seq ++ slice data 0 224 })

/-- A cart of this module's own joins those that wait for injection. -/
def sendCart (c : Chip) (dst type target : Nat) (data : List Byte) (poison : Nat) : Chip :=
  let r := makeCart c dst type target data poison false
  { r.1 with fab := { r.1.fab with waiting := r.1.fab.waiting ++ [r.2] } }

/-! ## Routes -/

/-- A route table version (12 R385). -/
def routeTable (c : Chip) (v : Nat) : List Byte :=
  smGet (List.replicate 528 0xFF) c.blobs (key 0x5300 (v + 1))

/-- Put a route table version. -/
def setRouteTable (c : Chip) (v : Nat) (b : List Byte) : Chip :=
  { c with blobs := smSet (List.replicate 528 0xFF) c.blobs (key 0x5300 (v + 1)) b }

/-- Both versions filled from R35 for a device ID, all FFh for none (12 R386). -/
def defaultRoutes (d : Nat) : List Byte :=
  if d = ones32 then List.replicate 528 0xFF
  else
    let (g, n, l) := devParts d
    let far := fun (own first i : Nat) =>
      if i = own then leBytes 2 0xFFFF
      else
        let s := (i + 127 - own) % 128
        leBytes 1 (s / 8) ++ leBytes 1 (first + s % 8)
    (List.range 16).flatMap (fun i => leBytes 1 (if i = l then 0xFF else (i + 15 - l) % 16)) ++
      (List.range 128).flatMap (far n 15) ++ (List.range 128).flatMap (far g 23)

/-- Both versions take the default routes of a device ID. -/
def fillRoutes (c : Chip) (d : Nat) : Chip :=
  setRouteTable (setRouteTable c 0 (defaultRoutes d)) 1 (defaultRoutes d)

/-- Where the routing procedure sends a cart. -/
inductive Route where
  | deliver
  | noRoute
  | port (p : Nat)
  deriving DecidableEq, Repr

/-- A port value of a table: FFh is no route; port 31 in place of the port it stands in for; port 31
with role 0 carries no carts (12 R384 R388). -/
def portRoute (c : Chip) (b : Nat) : Route :=
  let p := if reg c (key 0x5010 2) = b then 31 else b
  if b = 0xFF ∨ 32 ≤ p ∨ (p = 31 ∧ reg c (key 0x5010 1) = 0) then .noRoute else .port p

/-- The procedure of R384. -/
def routeOf (c : Chip) (epoch dst : Nat) : Route :=
  let t := routeTable c epoch
  let (g, n, l) := devParts (devId c)
  let (g', n', l') := devParts dst
  let node := fun i => if i < 16 then portRoute c (field t i 1) else .noRoute
  let far := fun o =>
    let h := field t o 1
    if h = l then portRoute c (field t (o + 1) 1) else node h
  if devId c = ones32 then .noRoute
  else if g' ≠ g then far (0x110 + 2 * g')
  else if n' ≠ n then far (0x10 + 2 * n')
  else if l' ≠ l then node l'
  else .deliver

/-- A cart with no route or too many hops is discarded (12 R384). -/
def noRoute (c : Chip) (loc : Loc) (x : Cart) : Chip :=
  report (addReg c (key 0x5410 3) 1) 0x0501 loc .apart [1, x.dst]

/-! ## Levels -/

/-- A cart's destination level (12 R395). -/
def cartLevel (c : Chip) (dst : Nat) : Nat :=
  let (g, n, _) := devParts (devId c)
  let (g', n', _) := devParts dst
  if g' ≠ g then 2 else if n' ≠ n then 1 else 0

/-- A level is throttled by a pressure cart (12 R397). -/
def pressed (c : Chip) (lv : Nat) : Bool :=
  match lv with
  | 0 => false
  | k + 1 => match c.fab.pressure.getD k none with
    | some t => decide (c.count < t)
    | none => false

/-- A level takes no new cart of this module (12 R396 R397). -/
def throttled (c : Chip) (lv : Nat) : Bool := c.fab.own.getD lv false || pressed c lv

/-- Count a level's event (12 R406). -/
def levelCount (c : Chip) (lv s : Nat) : Chip := addReg c (key (0x5400 + lv) s) 1

/-! ## Egress -/

/-- Put a cart in an egress queue. -/
def enqueue (c : Chip) (p : Nat) (x : Cart) (esc : Bool) : Chip :=
  throttles (modPort c p (fun q =>
    if esc then { q with escq := q.escq ++ [{ x with escape := true }] } else { q with egress := q.egress ++ [x] }))

/-- A cart of this module's own enters its egress queue: none where it must wait (12 R393 R396). -/
def injectCart (c : Chip) (x : Cart) : Option Chip :=
  let x := { x with epoch := epochNow c, tag := tagNow c }
  match routeOf c x.epoch x.dst with
  | .deliver => none
  | .noRoute => some (noRoute c .modl x)
  | .port p =>
    let q := portAt c p
    if q.st = .fenced then some (fenceDiscard c p x)
    else if x.escape then
      if q.escq.length + 1 < 32 then some (levelCount (enqueue c p x true) (cartLevel c x.dst) 1) else none
    else if throttled c (cartLevel c x.dst) then none
    else if q.egress.length + 1 + reg c (key 0x5310 6) ≤ 256 then
      some (levelCount (enqueue c p x false) (cartLevel c x.dst) 1)
    else none

/-- The head of a receive queue leaves it; the next begins to wait. -/
def popRecv (c : Chip) (p : Nat) : Chip :=
  modPort c p (fun q => { q with recv := match q.recv.drop 1 with
    | (x, _) :: t => (x, c.count) :: t
    | [] => [] })

/-- A cart for another module, at the head of the receive queue of port p: placed, discarded, or left
where it is (12 R392 to R394); the fence of the port it is routed to comes first (R403). -/
def forward (c : Chip) (p : Nat) (x : Cart) : Chip :=
  match routeOf c x.epoch x.dst with
  | .port o =>
    let q := portAt c o
    let y := { x with payload := splice x.payload 5 (leBytes 1 (cartHops x + 1)) }
    if q.st = .fenced then fenceDiscard (popRecv c p) o x
    else if hopsSpent x then noRoute (popRecv c p) (.port p) x
    else if x.escape then
      if q.escq.length < 32 then levelCount (enqueue (popRecv c p) o y true) (cartLevel c x.dst) 2 else c
    else if q.egress.length < 256 then levelCount (enqueue (popRecv c p) o y false) (cartLevel c x.dst) 2
    else c
  | _ => noRoute (popRecv c p) (.port p) x

/-- CART_ESCAPE: the head of a receive queue that has waited its time for a full normal queue moves to
the escape queue of the same port, which keeps a free place (12 R394). -/
def fEscape (p : Nat) (c : Chip) : Chip :=
  match (portAt c p).recv with
  | [] => c
  | (x, since) :: _ =>
    if x.escape ∨ hopsSpent x then c
    else match routeOf c x.epoch x.dst with
      | .port o =>
        let q := portAt c o
        if q.st ≠ .fenced ∧ 256 ≤ q.egress.length ∧ q.escq.length + 1 < 32 then
          let c := reach c (since + reg c (key 0x5310 5))
          let y := { x with payload := splice x.payload 5 (leBytes 1 (cartHops x + 1)) }
          let lv := cartLevel c x.dst
          levelCount (levelCount (enqueue (popRecv c p) o y true) lv 2) lv 4
        else c
      | _ => c

/-! ## Pressure -/

/-- The count from which a throttled level (1 group, 2 system) is due a pressure cart: at once when the throttle
begins, then 65,536 ticks after the last (12 R397). -/
def pressureDue (c : Chip) (lv : Nat) : Option Nat :=
  if c.fab.own.getD lv false then
    some (match c.fab.pressureSent.getD lv none with
      | some t => max c.count (t + 65536)
      | none => c.count)
  else none

/-- The count at which the next pressure carts go: the earlier of the two levels'; none where neither is
throttled. -/
def pressureNext (c : Chip) : Option Nat :=
  match pressureDue c 1, pressureDue c 2 with
  | some a, some b => some (min a b)
  | some a, none => some a
  | none, b => b

/-- Data byte 0 of the pressure carts that go at a count: bit 0 the group level, bit 1 the system level. -/
def pressureBits (c : Chip) (t : Nat) : Nat :=
  (if pressureDue c 1 = some t then 1 else 0) + (if pressureDue c 2 = some t then 2 else 0)

/-- When a level's last pressure cart was sent, once those of a count have gone. -/
def pressureAfter (c : Chip) (t lv : Nat) : Option Nat :=
  match pressureDue c lv with
  | none => none
  | some a => if a = t then some t else c.fab.pressureSent.getD lv none

/-- One pressure cart to a node mate, on the escape channel; it waits where it cannot enter. -/
def sendPressure (b : Nat) (c : Chip) (l : Nat) : Chip :=
  let (g, n, own) := devParts (devId c)
  if l = own then c
  else
    let r := makeCart c (devOf g n l) 6 0 (leBytes 1 b) 0 true
    match injectCart r.1 r.2 with
    | some c => c
    | none => { r.1 with fab := { r.1.fab with waiting := r.1.fab.waiting ++ [r.2] } }

/-- PRESSURE_CART_SEND: at the start of a throttle of the group or system level, and every 65,536 ticks
while it lasts (12 R397). -/
def fPressure (c : Chip) : Chip :=
  match pressureNext c with
  | none => { c with fab := { c.fab with pressureSent := [none, none, none] } }
  | some t =>
    let b := pressureBits c t
    let sent := [none, pressureAfter c t 1, pressureAfter c t 2]
    let c := (List.range 16).foldl (sendPressure b) (reach c t)
    { c with fab := { c.fab with pressureSent := sent } }

/-- A pressure cart is received: the levels it names are throttled for 131,072 ticks (12 R397). -/
def takePressure (c : Chip) (x : Cart) : Chip :=
  let b := field (cartData x) 0 1
  [1, 2].foldl (fun c lv =>
    if bit b (lv - 1) then
      let was := pressed c lv
      let c := levelCount c lv 5
      let c := { c with fab := { c.fab with pressure := c.fab.pressure.set (lv - 1) (some (c.count + 131072)) } }
      if was then c else report c 0x0502 .modl .apart [lv, 0, 1]
    else c) c

/-- PRESSURE_EXPIRE: the level whose time ends first is released. -/
def fPressureExpire (c : Chip) : Chip :=
  let drop := fun (c : Chip) (k t : Nat) =>
    let c := reach c t
    report { c with fab := { c.fab with pressure := c.fab.pressure.set k none } } 0x0502 .modl .apart [k + 1, 1, 1]
  match c.fab.pressure.getD 0 none, c.fab.pressure.getD 1 none with
  | some a, some b => if a ≤ b then drop c 0 a else drop c 1 b
  | some a, none => drop c 0 a
  | none, some b => drop c 1 b
  | none, none => c

/-! ## The meanings -/

/-- CART_ESCAPE. -/
def execCartEscape (p : Fin 32) (s : State) : Host.Outcome State Fault Refusal := onRunning s (fEscape p.val)

/-- PRESSURE_CART_SEND. -/
def execPressureCartSend (s : State) : Host.Outcome State Fault Refusal := onRunning s fPressure

/-- PRESSURE_EXPIRE. -/
def execPressureExpire (s : State) : Host.Outcome State Fault Refusal := onRunning s fPressureExpire

end Sys2Proof.Machine
end

