-- ==== Sys2Proof/Machine/Migration.lean ====
section
/-! DEFINITION. Migration of KV pages between their slots and frames (07 R208 to R214), ECC
write-backs (R188 R204 R205) and the patrol scrubber (R206). -/

namespace Sys2Proof.Machine

/-- The KV pools of the plan: its tier-2 regions. -/
def kvRegions (c : Chip) : List Region :=
  match c.plan.image with
  | some im => im.regions.filter (fun r => r.tier == 2)
  | none => []

/-- The number that records name a pool by: of the serving engine where it serves it, else the
region's. -/
def poolName (c : Chip) (r : Region) : Nat := (poolOf c r).getD r.num

/-! ## At the cut-off and at the boundary -/

/-- At the cut-off: which copies have finished (07 R212). -/
def markReady (c : Chip) : Chip :=
  (kvRegions c).foldl (fun c r =>
    let pl := poolAt c r.num
    setPool c r.num { pl with flights := pl.flights.map (fun x => { x with ready := x.done }) }) c

/-- A finished migration switches the residence of its page: a promoted page takes its frame, a demoted
one gives it up, either with the dirty bit clear. -/
def switchFlight (rn : Nat) (c : Chip) (x : Flight) : Chip :=
  let pl := poolAt c rn
  let pg := { pageAt pl x.page with frame := if x.promote then some x.frame else none, dirty := false }
  let c := setPool c rn { pl with pages := smSet PageSt.reset pl.pages x.page pg,
                                  flights := pl.flights.filter (fun y => y.page != x.page) }
  addReg c (key 0x4021 (if x.promote then 1 else 2)) 1

/-- Flights in ascending page number. -/
def byPage (l : List Flight) : List Flight := sortBy (fun a b => decide (a.page < b.page)) l

/-- RESIDENCE_SWITCH for one pool: demotions, then promotions; what is not finished is deferred, counted
and reported (07 R212 R214). A migration already in flight when policy 0 takes effect is finished and switched as well:
DESIGN CHOICE (log 35; 07 R210 stops migration and says nothing of it). -/
def switchPool (c : Chip) (r : Region) : Chip :=
  let l := byPage (poolAt c r.num).flights
  let c := (l.filter (fun x => x.ready && !x.promote)).foldl (switchFlight r.num) c
  let c := (l.filter (fun x => x.ready && x.promote)).foldl (switchFlight r.num) c
  (l.filter (fun x => !x.ready)).foldl (fun c x =>
    report (addReg c (key 0x4021 4) 1) 0x0308 (.die r.home) .boundary [poolName c r, x.page]) c

/-- Before action 2 (07 R214). -/
def residenceSwitch (c : Chip) : Chip := (kvRegions c).foldl switchPool c

/-- Heat after a step (07 R211). -/
def heatAfter (x : PageSt) : Nat := min 65535 (x.heat / 2 + x.count)

/-- The candidates of R211 among the pages of no flight, with their heat updated and their counts still
standing: non-resident pages that were used, hottest first; resident ones that were not, coldest
first. -/
def upPages (l : List (Nat × PageSt)) : List Nat :=
  (sortBy (fun (a b : Nat × PageSt) => decide (b.2.heat < a.2.heat) || (a.2.heat == b.2.heat && decide (a.1 < b.1)))
    (l.filter (fun x => x.2.frame.isNone && decide (0 < x.2.count)))).map (·.1)

/-- See `upPages`. -/
def downPages (l : List (Nat × PageSt)) : List Nat :=
  (sortBy (fun (a b : Nat × PageSt) => decide (a.2.heat < b.2.heat) || (a.2.heat == b.2.heat && decide (a.1 < b.1)))
    (l.filter (fun x => x.2.frame.isSome && x.2.count == 0))).map (·.1)

/-- A page in the pool is being migrated. -/
def inFlight (pl : Pool) (page : Nat) : Bool := pl.flights.any (fun x => x.page == page)

/-- Every page's count of the step is used up; under policy 1 the heat of the pages of no flight has
taken it in. -/
def closeCounts (pl : Pool) (heat : Bool) : Pool :=
  { pl with pages := pl.pages.foldl (fun m (n, x) =>
      let h := if heat && !inFlight pl n then heatAfter x else x.heat
      smSet PageSt.reset m n { x with heat := h, count := 0 }) [] }

/-- The migrations that R211 starts. A clean demotion copies nothing and is finished at once. -/
def newFlights (pl : Pool) (free : List Nat) (limit : Nat) : List Flight :=
  let l := (pl.pages.filter (fun x => !inFlight pl x.1)).map (fun (n, x) => (n, { x with heat := heatAfter x }))
  let u := upPages l
  let d := downPages l
  let nOut := min limit (min d.length (u.length - free.length))
  let nIn := min limit (min u.length free.length)
  (d.take nOut).map (fun n =>
      let x := pageAt pl n
      { page := n, frame := x.frame.getD 0, promote := false, done := !x.dirty, ready := false }) ++
    ((u.take nIn).zip free).map (fun (n, f) =>
      { page := n, frame := f, promote := true, done := false, ready := false })

/-- R211 for one pool, under the policy and limit in force (07 R210). -/
def migratePool (c : Chip) (r : Region) : Chip :=
  let pl := poolAt c r.num
  if reg c (key 0x4020 1) = 1 then
    let new := newFlights pl (freeFrames c r.num) (reg c (key 0x4020 2))
    let pl' := closeCounts pl true
    setPool c r.num { pl' with flights := pl'.flights ++ new }
  else setPool c r.num (closeCounts pl false)

/-- KV_MIGRATION, after the actions of the boundary (07 R214). -/
def migrate (c : Chip) : Chip := (kvRegions c).foldl migratePool c

/-! ## The copy -/

/-- One granule of a copy. -/
def copyGran (src dst : Nat) (c : Chip) : Chip :=
  let r := readGran c src .apart false
  writeGran r.1 dst r.2.1 r.2.2

/-- Copy the 1,024 lines of a page between its slot and a frame. -/
def copyPage (rn page frame : Nat) (promote : Bool) (c : Chip) : Chip :=
  (List.range 1024).foldl (fun c o =>
    let slot := slotAddr c rn (1024 * page + o)
    let fr := frameAddr c rn frame o
    if promote then copyGran slot fr c else copyGran fr slot c) c

/-- The region of a pool number: while serving is enabled, 0 to 7 are those that 6002h names and the numbers from 8 the
plan's other tier-2 regions, which migrate alike (08 R235); else the tier-2 region of that place in the plan. The command's
numbers are the model's own: DESIGN CHOICE (log 35). -/
def poolNamed (c : Chip) (p : Nat) : Option Region :=
  if serving c then
    if p < 8 then poolRegion c p else ((kvRegions c).filter (fun r => (poolOf c r).isNone))[p - 8]?
  else (kvRegions c)[p]?

/-- MIGRATION_COPY_DONE: the copy of a page in flight is made and finished (07 R212); as all background work it waits
while a frequency change stops the core clock (10 R317). -/
def fCopyDone (p page : Nat) (c : Chip) : Chip :=
  match (if c.time.changing then none else poolNamed c p) with
  | none => c
  | some r =>
    match (poolAt c r.num).flights.find? (fun x => x.page == page && !x.done) with
    | none => c
    | some x =>
      let c := copyPage r.num page x.frame x.promote c
      let pl := poolAt c r.num
      let c := setPool c r.num { pl with
        flights := pl.flights.map (fun y => if y.page = page then { y with done := true } else y) }
      if x.promote then c else bump c (key 0x4021 3) 1

/-! ## Write-backs and the scrubber -/

/-- ECC_WRITEBACK of the granule at an address, where one is due. -/
def fWriteback (addr : Nat) (c : Chip) : Chip :=
  if nsMem c.wbDue (addr / 64) && !c.time.changing then writeBack c (addr / 64) else c

/-- The scrubber reads this granule: of a stack, or a byte of an MRDIMM that is fitted (07 R206). -/
def scrubs (c : Chip) (a : Nat) : Bool :=
  match areaOf a with
  | .hbm s _ => reg c (key 0x4011 (s + 1)) == 1
  | .mrdimm ch o => decide (o < reg c (key 0x4010 (ch + 1)))
  | _ => false

/-- The granules stored with an error, and those that one has struck. -/
def markedGrans (c : Chip) : List Nat :=
  let l := c.ecc.map (·.1)
  l ++ (c.flaws.filterMap (fun f => match f.spot with
    | .granule g => if (flawAt c f.spot).isSome && !l.contains g then some g else none
    | _ => none))

/-- A pass over granules lo to hi − 1 reads the stacks that it meets. -/
def scrubStacks (lo hi : Nat) (c : Chip) : Chip :=
  (List.range 8).foldl (fun c s =>
    let a := hbmAddr s 0
    if decide (a / 64 < hi) && decide (lo < hbmAddr (s + 1) 0 / 64) && scrubs c a then onDieCheck c a .apart else c) c

/-- SCRUB_PASS over `count` granules from an address: a granule without a stored error is only read;
the others are corrected or poisoned, and written back. -/
def fScrub (start count : Nat) (c : Chip) : Chip :=
  if reg c (key 0x4030 1) = 0 ∨ c.time.changing then c
  else
    let lo := start / 64
    let gs := (markedGrans c).filter (fun g => decide (lo ≤ g) && decide (g < lo + count) && scrubs c (64 * g))
    gs.foldl (fun c g => writeBack (readGran c (64 * g) .apart true).1 g) (if count = 0 then c else scrubStacks lo (lo + count) c)

/-! ## The meanings -/

/-- MIGRATION_COPY_DONE. -/
def execMigrationCopyDone (pool page : Nat) (s : State) : Host.Outcome State Fault Refusal :=
  onRunning s (fCopyDone pool page)

/-- ECC_WRITEBACK. -/
def execEccWriteback (addr : Nat) (s : State) : Host.Outcome State Fault Refusal := onRunning s (fWriteback addr)

/-- SCRUB_PASS. -/
def execScrubPass (start count : Nat) (s : State) : Host.Outcome State Fault Refusal :=
  onRunning s (fScrub start count)

end Sys2Proof.Machine
end

