-- ==== Sys2Proof/Machine/Replica.lean ====
section
/-! DEFINITION. The boundary state (13 R418): the replicated part as bytes, its digest (R419), and its
restoration by an import (R425). -/

namespace Sys2Proof.Machine

/-! ## Entries and nodes as bytes (08 R222 R240) -/

/-- The 256 bytes of a session entry (08 R222). -/
def sessBytes (x : Sess) : List Byte :=
  leBytes 1 x.st ++ leBytes 1 x.flags ++ leBytes 1 x.gram ++ leBytes 1 x.mask ++ leBytes 4 x.origin ++
    leBytes 8 x.tag ++ leBytes 8 x.seed ++ leBytes 8 x.admSeq ++ leBytes 4 x.len ++ leBytes 4 x.plen ++
    leBytes 4 x.pline ++ leBytes 4 x.gen ++ leBytes 4 x.maxNew ++ leBytes 4 x.cur ++ leBytes 4 x.temp ++
    leBytes 4 x.topp ++ leBytes 2 x.topk ++ leBytes 2 x.gstate ++ leBytes 1 x.gdepth ++ leBytes 1 x.adapter ++
    leBytes 1 x.gens ++ leBytes 1 0 ++ slice (x.stops.flatMap (leBytes 4)) 0 16 ++ leBytes 4 x.node ++
    leBytes 4 x.reused ++ slice (x.gstack.flatMap (leBytes 2)) 0 128 ++ leBytes 8 x.admStep ++ List.replicate 24 0

/-- A session entry from its bytes, without what the bytes do not show. -/
def sessOf (b : List Byte) : Sess :=
  { st := field b 0 1, flags := field b 1 1, gram := field b 2 1, mask := field b 3 1, origin := field b 4 4,
    tag := field b 8 8, seed := field b 0x10 8, admSeq := field b 0x18 8, len := field b 0x20 4,
    plen := field b 0x24 4, pline := field b 0x28 4, gen := field b 0x2C 4, maxNew := field b 0x30 4,
    cur := field b 0x34 4, temp := field b 0x38 4, topp := field b 0x3C 4, topk := field b 0x40 2,
    gstate := field b 0x42 2, gdepth := field b 0x44 1, adapter := field b 0x45 1, gens := field b 0x46 1,
    stops := (List.range 4).map (fun i => field b (0x48 + 4 * i) 4), node := field b 0x58 4,
    reused := field b 0x5C 4,
    gstack := (List.range (min 64 (field b 0x44 1))).map (fun i => field b (0x60 + 2 * i) 2),
    admStep := field b 0xE0 8, binds := 0, keys := [] }

/-- The 64 bytes of a prefix node (08 R240). -/
def nodeBytes (x : Node) : List Byte :=
  slice x.key 0 16 ++ leBytes 4 x.parent ++ leBytes 4 x.child ++ leBytes 4 x.sibling ++ leBytes 4 x.sharing ++
    leBytes 8 x.used ++ (List.range 4).flatMap (fun i => leBytes 4 (x.pages.getD i ones32)) ++ List.replicate 8 0

/-- A prefix node from its bytes, with a page for each of n pools; a key of zeros is none. -/
def nodeOf (b : List Byte) (n : Nat) : Node :=
  let k := slice b 0 16
  { key := if allZero k then [] else k, parent := field b 0x10 4, child := field b 0x14 4, sibling := field b 0x18 4,
    sharing := field b 0x1C 4, used := field b 0x20 8,
    pages := if allZero k then [] else (List.range n).map (fun i => field b (0x28 + 4 * i) 4), bad := false }

/-! ## The replicated part (13 R418 R419) -/

/-- The lines of a region of tier 0 as they stand. -/
def regionBytes (c : Chip) (n : Nat) : List Byte :=
  match regionOf c n with
  | some r => (List.range (r.size / 64)).flatMap (fun l => memBytes c.mem (regionAddr c r l) 64)
  | none => []

/-- The reference counts of a die: its pools' pages in pool order, to 1,048,576 counts (08 R218). -/
def dieRefs (c : Chip) (d : Nat) : List Byte :=
  slice ((diePools c d).flatMap (fun p => (List.range (poolPages c p)).flatMap (fun n => leBytes 2 (pageRefs c p n))))
    0 2097152

/-- The shared fields of a directory record (09 R269). The spec gives them no layout of their own.
DESIGN CHOICE (log 20). -/
def sharedFields (c : Chip) (e : Nat) : List Byte :=
  let x := wentry c e
  let side := fun st => match copyIn x st with
    | some k => leBytes 1 1 ++ leBytes 1 k.gen ++ leBytes 2 0 ++ leBytes 4 (boundTo c e k.gen)
    | none => List.replicate 8 0
  side .live ++ side .draining ++ leBytes 4 x.uses ++ leBytes 4 0

/-- The regions whose lines the replicated part holds: prompt store, serving tables, admission and result
table. -/
def sharedRegions : List Nat := [5, 6, 2, 4]

/-- The parts of the replicated part before the region lines (13 R418), in the layouts of R218. -/
def replicaHead (c : Chip) : List Byte :=
  leBytes 8 c.plan.step ++ leBytes 1 c.plan.latched.1 ++ List.replicate 7 0 ++
    (List.range 64).flatMap (fun i => leBytes 4 (c.plan.latched.2.getD i 0)) ++
    (List.range 4096).flatMap (fun s => sessBytes (sessAt c s)) ++
    (List.range 1048576).flatMap (fun i => leBytes 2 (smGet 0xFFFF c.srv.dir i)) ++
    (List.range 65536).flatMap (fun b =>
      (List.range 64).flatMap (fun i => leBytes 4 (smGet ones32 (smGet ([] : SMap Nat) c.srv.blocks b) i))) ++
    (List.range 4).flatMap (dieRefs c) ++
    (List.range 262144).flatMap (fun i => nodeBytes (smGet Node.root c.srv.nodes i)) ++
    getBytes (stewAt c 0).data 0 327680 ++ leBytes 8 c.srv.admSeq ++ (List.range 66).flatMap (sharedFields c)

/-- The replicated part. -/
def replica (c : Chip) : List Byte :=
  replicaHead c ++ sharedRegions.flatMap (fun s => regionBytes c (svRegion c s))

/-- The state digest (13 R419). -/
def stateDigest (c : Chip) : List Byte := (sha3_256 (replica c)).take 16

/-! Offsets of the replicated part. -/

/-- Session entries. -/
def oSess : Nat := 272
/-- Page directories. -/
def oDir : Nat := oSess + 1048576
/-- Blocks. -/
def oBlock : Nat := oDir + 2097152
/-- Reference counts. -/
def oRefs : Nat := oBlock + 16777216
/-- Prefix nodes. -/
def oNode : Nat := oRefs + 8388608
/-- Plan data area. -/
def oData : Nat := oNode + 16777216
/-- Admission sequence. -/
def oSeq : Nat := oData + 327680
/-- Directory fields. -/
def oShared : Nat := oSeq + 8
/-- Region lines. -/
def oRegions : Nat := oShared + 1584

/-- Bytes of a replicated part; every module of a partition gives it the same. -/
def replicaLen (c : Chip) : Nat := sharedRegions.foldl (fun n s => n + regionSize c (svRegion c s)) oRegions

/-- The reference count of a page in a replicated part. -/
def replicaRefs (c : Chip) (b : List Byte) (p page : Nat) : Nat :=
  match poolRegion c p with
  | some r =>
    let before := ((diePools c r.home).takeWhile (fun q => q != p)).foldl (fun n q => n + poolPages c q) 0
    field b (oRefs + 2097152 * r.home + 2 * (before + page)) 2
  | none => 0

/-- The allocated pages of a pool in a replicated part, ascending (13 R424). -/
def replicaPages (c : Chip) (b : List Byte) (p : Nat) : List Nat :=
  (List.range (poolPages c p)).filter (fun n => replicaRefs c b p n != 0)

/-! ## Restoration (13 R425) -/

/-- A map of n keys from a function, in canonical form. -/
def mapFrom {α : Type} [DecidableEq α] (d : α) (n : Nat) (f : Nat → α) : SMap α :=
  (List.range n).filterMap (fun i => if f i = d then none else some (i, f i))

/-- The copies a restored session bound: those its generations name among the Live and Draining ones.
DESIGN CHOICE (log 20). -/
def bindsOf (c : Chip) (x : Sess) : Nat :=
  let has := fun (e : Nat) =>
    let g := x.gens / 2 ^ genShift e % 4
    let w := wentry c e
    [w.a, w.b].any (fun k => (k.st == .live || k.st == .draining) && k.gen == g)
  if x.st = 0 then 0
  else (if has 0 then 1 else 0) + (if has 1 then 2 else 0) + (if x.adapter < 64 && has (2 + x.adapter) then 4 else 0)

/-- The prefix keys of a restored session that is still in prefill. -/
def keysOf (c : Chip) (x : Sess) : List (List Byte) :=
  if x.st = 1 then
    let lines := match regionOf c (svRegion c 5) with
      | some r => (List.range (cdiv x.plen 16)).flatMap (fun l => memBytes c.mem (regionAddr c r (x.pline + l)) 64)
      | none => []
    prefixKeys (tau c) x.gens x.adapter lines ((x.plen - 1) / tau c)
  else []

/-- The lines of the shared regions come back. -/
def restoreRegions (b : List Byte) : List Nat → Nat → Chip → Chip
  | [], _, c => c
  | s :: t, o, c =>
    let n := regionSize c (svRegion c s)
    restoreRegions b t (o + n) (engWrite c (svRegion c s) 0 (slice b o n))

/-- The serving tables of a replicated part. -/
def restoreServing (b : List Byte) (c : Chip) : Chip :=
  let srv :=
    { c.srv with
      sess := mapFrom Sess.free 4096 (fun s => sessOf (slice b (oSess + 256 * s) 256)),
      dir := mapFrom 0xFFFF 1048576 (fun i => field b (oDir + 2 * i) 2),
      blocks := mapFrom [] 65536 (fun k => mapFrom ones32 64 (fun i => field b (oBlock + 256 * k + 4 * i) 4)),
      refs := (List.range 8).flatMap (fun p =>
        (mapFrom 0 (poolPages c p) (replicaRefs c b p)).map (fun x => (p * 1048576 + x.1, x.2))),
      nodes := mapFrom Node.root 262144 (fun i =>
        nodeOf (slice b (oNode + 64 * i) 64) (diePools c (i / 65536)).length),
      admSeq := field b oSeq 8 }
  { c with srv := srv }

/-- A session in use names an installed table. -/
def namesTable (x : Sess) (t : Nat) : Bool := x.st != 0 && (if t < 256 then x.gram == t else x.mask + 256 == t)

/-- Which tables are installed is no part of the replicated state (13 R418): those that restored sessions name are, and
of every other table the spec leaves it open, a free value (log 20). -/
def restoreTables (c : Chip) : Chip :=
  let r := freeBytes c 64
  let named := fun t => c.srv.sess.any (fun x => namesTable x.2 t)
  let l := (List.range 512).filter (fun t => decide (t % 256 ≠ 255) && (named t || bit (r.2.getD (t / 8) 0).toNat (t % 8)))
  { r.1 with srv := { r.1.srv with tables := l } }

/-- What the replicated part holds only through other parts: use counts, bound copies, prefix keys, the
prompt store's lines, and the work of the step that the sessions stand for. -/
def restoreDerived (b : List Byte) (c : Chip) : Chip :=
  let c := (List.range 66).foldl (fun c e =>
    setWentry c e { wentry c e with uses := field b (oShared + 24 * e + 16) 4 }) c
  let sess := c.srv.sess.map (fun (s, x) => (s, { x with binds := bindsOf c x, keys := keysOf c x }))
  let runs := (sess.filter (fun x => x.2.st == 1)).map (fun x => (x.2.pline, cdiv x.2.plen 16))
  let c := { c with srv := { c.srv with sess := sess, prompts := runs, snap := some sess, tablesHeld := [], region := [], readDone := false } }
  (List.range 4).foldl (fun c d =>
    let paused := (dieSessions c d).filter (fun s => bit (sessAt c s).flags 3)
    let w := (dieWork c d paused).1
    { c with srv := { c.srv with work := w.foldl (fun m x => smInsert m x.1 x.2) c.srv.work } })
    { c with srv := { c.srv with work := [] } }

/-- Restore a replicated part. -/
def restoreReplica (b : List Byte) (c : Chip) : Chip :=
  let params := (List.range 64).map (fun i => field b (16 + 4 * i) 4)
  let c := { c with plan := { c.plan with step := field b 0 8, latched := (field b 8 1, params) } }
  let c := setStew c 0 { stewAt c 0 with data := mapFrom 0 327680 (fun i => b.getD (oData + i) 0) }
  restoreDerived b (restoreTables (restoreRegions b sharedRegions oRegions (restoreServing b c)))

end Sys2Proof.Machine
end

