-- ==== Sys2Proof/Machine/Mirror.lean ====
section
/-! DEFINITION. Partner mirroring (13 R420 to R422), checkpoints (R423 R424) and state import (R425):
what is captured, sent, received, applied and written. -/

namespace Sys2Proof.Machine

/-! ## Cart data (13 R420) -/

/-- The data of a mirror or import cart: kind, line count, step, and what follows. -/
def mirrorData (kind lines step : Nat) (rest : List Byte) : List Byte :=
  leBytes 1 kind ++ leBytes 1 lines ++ leBytes 2 0 ++ leBytes 4 step ++ slice rest 0 216

/-- What follows in a start or an end cart. -/
def batchRest (b : Batch) (count : Nat) : List Byte :=
  leBytes 8 b.step ++ slice b.settings 0 16 ++ slice b.digest 0 16 ++ leBytes 8 count

/-- A line entry. -/
def lineEntry (x : PartLine) : List Byte :=
  leBytes 4 x.line ++ leBytes 1 x.part ++ leBytes 1 (if x.poison then 1 else 0) ++ leBytes 2 0 ++ slice x.data 0 64

/-- Line carts, three entries to a cart. -/
def lineCarts (step : Nat) : Nat → List PartLine → List (List Byte)
  | 0, _ => []
  | _, [] => []
  | fuel + 1, l =>
    mirrorData 2 (min 3 l.length) step ((l.take 3).flatMap lineEntry) :: lineCarts step fuel (l.drop 3)

/-- The carts of a batch: start, lines, end. A full batch's start does not know the count (13 R422). -/
def batchCarts (b : Batch) : List (List Byte) :=
  mirrorData 1 0 b.step (batchRest b (if b.full then ones64 else b.lines.length)) ::
    lineCarts b.step b.lines.length b.lines ++ [mirrorData 3 0 b.step (batchRest b b.lines.length)]

/-- Send the carts of a batch. -/
def sendBatch (c : Chip) (dst type : Nat) (b : Batch) : Chip :=
  (batchCarts b).foldl (fun c d => sendCart c dst type 0 d 0) c

/-! ## Capture at action 1 -/

/-- A line of a pool as it stands. -/
def captureLine (c : Chip) (p : Nat) (r : Region) (l : Nat) : Chip × PartLine :=
  let a := (poolLine c r l).1.headD 0
  let x := readGran c a .apart false
  (x.1, ⟨l, p, x.2.2, x.2.1⟩)

/-- Lines of pools, each named by pool × 2^32 + line. -/
def captureLines (c : Chip) (l : List Nat) : Chip × List PartLine :=
  l.foldl (fun (x : Chip × List PartLine) k =>
    match poolRegion x.1 (k / 4294967296) with
    | some r =>
      let y := captureLine x.1 (k / 4294967296) r (k % 4294967296)
      (y.1, x.2 ++ [y.2])
    | none => x) (c, [])

/-- Every line of every allocated page of the pools. -/
def allocatedLines (c : Chip) : List Nat :=
  (List.range 8).flatMap (fun p =>
    ((List.range (poolPages c p)).filter (fun n => pageRefs c p n != 0)).flatMap (fun n =>
      (List.range 1024).map (fun l => p * 4294967296 + 1024 * n + l)))

/-- Lines of bytes as a part. -/
def partLines (part : Nat) (b : List Byte) : List PartLine :=
  (List.range (cdiv b.length 64)).map (fun i => ⟨i, part, false, slice b (64 * i) 64⟩)

/-- The lines of the intake stage latched at the last cut-off. -/
def stageLines (c : Chip) : List PartLine :=
  match c.det.stage with
  | some b => partLines 8 b
  | none => []

/-- Action 1: the state digest, the settings digest beside it, and, with a partner, the batch of the
boundary that ends a step (13 R418 to R422). -/
def captureState (step : Nat) (c : Chip) : Chip :=
  let d := stateDigest c
  let s := settingsDigest c
  let c := { c with det := { c.det with digests := (step, d, s) :: c.det.digests, shown := (step, d) } }
  if reg c (key 0xB020 1) = ones32 then { c with det := { c.det with written := [] } }
  else
    let full := c.det.fullDue
    let r := captureLines c (if full then allocatedLines c else c.det.written)
    let b : Batch :=
      { step := step, started := true, ended := true, full := full, settings := s, digest := d, count := 0,
        lines := r.2 ++ stageLines c }
    { r.1 with det := { r.1.det with send := r.1.det.send ++ [b], fullDue := false, written := [] } }

/-- The checkpoint in hand is over: the next one captured takes its place. -/
def nextCkpt (c : Chip) : Chip :=
  match c.det.ckptNext with
  | x :: rest => { c with det := { c.det with ckpt := some x.2, ckptStep := some x.1, ckptNext := rest, ckptWriting := false } }
  | [] => { c with det := { c.det with ckpt := none, ckptStep := none, ckptWriting := false } }

/-- A checkpoint is not written: its status reads 0101h and it is reported (13 R423). -/
def refuseCkpt (w : When) (c : Chip) : Chip := report (setReg c (key 0xB030 5) 0x0101) 0x0A03 .modl w [0x0101]

/-- The checkpoint in hand is not written. -/
def failCkpt (w : When) (c : Chip) : Chip := refuseCkpt w (nextCkpt c)

/-- A checkpoint waits for the image to reach its step. -/
def ckptWaits (c : Chip) : Bool := c.det.ckptStep.isSome && !c.det.ckptWriting

/-- Action 1 for a checkpoint: the copy of the replicated part, where the step is the one latched at the cut-off, behind that
of an earlier step which waits or is written; not written where the mirror is invalid (13 R423). -/
def captureCkpt (step t : Nat) (c : Chip) : Chip :=
  if t ≠ step then c
  else if reg c (key 0xB020 4) = 3 then refuseCkpt .boundary c
  else if c.det.ckptStep.isSome then { c with det := { c.det with ckptNext := c.det.ckptNext ++ [(step, replica c)] } }
  else { c with det := { c.det with ckpt := some (replica c), ckptStep := some step } }

/-- MIRROR_BATCH_SEND: the oldest batch goes to the partner. As all background work it waits while a frequency change stops
the core clock (10 R317). -/
def fMirrorSend (c : Chip) : Chip :=
  match (if c.time.changing then [] else c.det.send) with
  | b :: t => sendBatch { c with det := { c.det with send := t } } (reg c (key 0xB020 1)) 3 b
  | [] => c

/-! ## Receiving -/

/-- An empty batch of a step. -/
def Batch.none (step : Nat) : Batch := ⟨step, false, false, false, [], [], 0, []⟩

/-- Every line of the batch has come. -/
def batchWhole (b : Batch) : Bool := b.started && b.ended && b.lines.length == b.count

/-- The line entries of a cart. -/
def cartLines (x : Cart) : List PartLine :=
  let d := cartData x
  (List.range (min 3 (field d 1 1))).map (fun i =>
    let o := 8 + 72 * i
    { line := field d o 4, part := field d (o + 4) 1, data := slice d (o + 8) 64,
      poison := bit (field d (o + 5) 1) 0 || (List.range 64).any (fun j => cartPoison x (o + 8 + j)) })

/-- A start, line or end cart joins its batch. -/
def batchTake (b : Batch) (x : Cart) : Batch :=
  let d := cartData x
  let head := { b with step := field d 8 8, settings := slice d 16 16, digest := slice d 32 16 }
  let n := field d 48 8
  match field d 0 1 with
  | 1 => { head with started := true, full := n == ones64, count := if n = ones64 ∨ b.ended then b.count else n }
  | 2 => { b with lines := b.lines ++ cartLines x }
  | 3 => { head with ended := true, count := n }
  | _ => b

/-- Put a batch in step order. -/
def insertBatch (b : Batch) (l : List Batch) : List Batch := sortIns (fun a b => decide (a.step < b.step)) b l

/-- Set the mirror state; lagging and invalid are reported (13 R421). An invalid mirror fails a checkpoint that waits for
it (13 R423). -/
def setMirror (c : Chip) (st : Nat) : Chip :=
  if reg c (key 0xB020 4) = st then c
  else
    let c := setReg c (key 0xB020 4) st
    let c := if st = 2 ∨ st = 3 then report c 0x0A02 .modl .apart [st] else c
    if st = 3 ∧ ckptWaits c then failCkpt .apart c else c

/-- Bytes of the mirror area (07 R201). -/
def mirrorArea (c : Chip) : Nat := 8 * reg c (key 0x4002 3)

/-- Bytes of the image: the pools and the stage (13 R421). The partition runs one plan, so the source's
pools are as large as the own ones. -/
def imageBytes (c : Chip) : Nat :=
  (List.range 8).foldl (fun n p => n + 65536 * poolPages c p) 0 + stageBytes c

/-- Bytes of the log: a cart's data for a batch, an entry for a line. The spec gives the log no layout.
DESIGN CHOICE (log 21). -/
def logBytes (l : List Batch) : Nat := l.foldl (fun n b => n + 224 + 72 * b.lines.length) 0

/-- A whole batch moves to the log; an earlier one that has its end and lacks lines makes the mirror
invalid, and so does a log or an image that does not fit (13 R421). -/
def logBatch (c : Chip) (b : Batch) : Chip :=
  let c := { c with det := { c.det with incoming := c.det.incoming.filter (fun x => x.step != b.step) } }
  if reg c (key 0xB020 4) = 3 && !b.full then c
  else
    let torn := c.det.incoming.any (fun x => x.ended && decide (x.step < b.step))
    let c := if torn then setMirror { c with det := { c.det with incoming := c.det.incoming.filter (fun x => decide (b.step < x.step)) } } 3 else c
    if reg c (key 0xB020 4) = 3 && !b.full then c
    else
      let log := insertBatch b c.det.log
      if mirrorArea c < imageBytes c ∨ mirrorArea c < imageBytes c + logBytes log then
        setMirror { c with det := { c.det with log := [] } } 3
      else { c with det := { c.det with log := log } }

/-! ## The image -/

/-- Key of a line of the image. -/
def imageKey (x : PartLine) : Nat := x.part * 4294967296 + x.line

/-- The digests of the own boundary of a step. -/
def ownDigests (c : Chip) (step : Nat) : Option (List Byte × List Byte) :=
  (c.det.digests.find? (fun x => x.1 == step)).map (·.2)

/-- Compare a batch with the own digests of its step (13 R421). -/
def compareBatch (c : Chip) (b : Batch) : Chip :=
  match ownDigests c b.step with
  | none => c
  | some (d, s) =>
    let src := reg c (key 0xB020 2)
    let c := if d = b.digest then c else report c 0x0A01 .modl .boundary [0, src, b.step]
    if s = b.settings then c else report c 0x0A01 .modl .boundary [1, src, b.step]

/-- The batch may be applied: a full one, or one that directly follows the image's step; with no image
yet, the one of step 0, before which a run from load has nothing to mirror. DEDUCED (log 21). -/
def batchNext (c : Chip) (b : Batch) : Bool :=
  b.full || (reg c (key 0xB020 4) != 3 && (if c.det.imaged then b.step == reg c (key 0xB020 3) + 1 else b.step == 0))

/-- The image stays at its step for a checkpoint (13 R423). -/
def imageHeld (c : Chip) : Bool :=
  c.det.ckptWriting || (c.det.ckptStep == some (reg c (key 0xB020 3)) && c.det.imaged)

/-- The image takes the step that a checkpoint waits for, or passes it by a full batch, so that it never will be
written (13 R423; DEDUCED, log 21). -/
def passCkpt (step : Nat) (c : Chip) : Chip :=
  match c.det.ckptStep with
  | some t => if ckptWaits c ∧ t < step then failCkpt .boundary c else c
  | none => c

/-- Apply one batch. -/
def applyBatch (c : Chip) (b : Batch) : Chip :=
  let c := compareBatch c b
  let start : SMap PartLine := if b.full then [] else c.det.image
  let image := b.lines.foldl (fun m x => smInsert m (imageKey x) x) start
  passCkpt b.step (setMirror (setReg { c with det := { c.det with image := image, imaged := true } } (key 0xB020 3) b.step) 1)

/-- The batch of the log to apply next: the one that directly follows the image's step, else the first full one, which
replaces the image (13 R421 R422). -/
def pickBatch (c : Chip) : Option Batch :=
  match c.det.log.find? (fun b => !b.full && batchNext c b) with
  | some b => some b
  | none => c.det.log.find? (·.full)

/-- The log without a batch that is applied and without the earlier ones that it overtakes. -/
def logAfter (b : Batch) (l : List Batch) : List Batch := l.filter (fun x => decide (b.step < x.step))

/-- MIRROR_BATCH_APPLY at a boundary: the batches of the log in step order, while a checkpoint does not hold the image;
`fuel` bounds the batches. -/
def applyLog : Nat → Chip → Chip
  | 0, c => c
  | fuel + 1, c =>
    if imageHeld c then c
    else
      match pickBatch c with
      | some b => applyLog fuel (applyBatch { c with det := { c.det with log := logAfter b c.det.log } } b)
      | none => c

/-- See `applyLog`. -/
def applyBatches (c : Chip) : Chip := applyLog c.det.log.length c

/-- A mirror cart of the source this module mirrors (13 R421). While the plan is Halted no
boundary comes, and a whole batch is applied at once, so that the image can reach the halted step, which
the answer to an import needs (R425). DEDUCED (log 21). -/
def takeMirror (c : Chip) (x : Cart) : Chip :=
  if cartField x 0 4 ≠ reg c (key 0xB020 2) then c
  else
    let step := field (cartData x) 4 4
    let old := (c.det.incoming.find? (fun b => b.step % 4294967296 == step)).getD (Batch.none step)
    let b := batchTake old x
    let rest := c.det.incoming.filter (fun b => b.step % 4294967296 != step)
    if batchWhole b then
      let c := logBatch { c with det := { c.det with incoming := rest } } b
      if c.plan.state = .halted then applyBatches c else c
    else { c with det := { c.det with incoming := insertBatch b rest } }

/-- MIRROR_LAG_CHECK at the cut-off of step m: the batch of step m − 2 has not come whole, whether the image holds a step
yet or not (13 R421). -/
def lagCheck (m : Nat) (c : Chip) : Chip :=
  if reg c (key 0xB020 2) = ones32 ∨ 2 ≤ reg c (key 0xB020 4) ∨ m < 2 then c
  else if (c.det.imaged ∧ m - 2 ≤ reg c (key 0xB020 3)) ∨ c.det.log.any (fun b => b.step == m - 2) then c
  else setMirror c 2

/-! ## Checkpoints (13 R423 R424) -/

/-- The logical device of a device ID. -/
def logicalOf (c : Chip) (id : Nat) : Nat :=
  match c.plan.image with
  | some im => let i := im.devIds.findIdx (· == id); if i < im.devIds.length then i else ones32
  | none => ones32

/-- The lines of a part of the image, in line order. -/
def imageLines (c : Chip) (part : Nat) : List PartLine :=
  (c.det.image.filter (fun x => x.1 / 4294967296 == part)).map (·.2)

/-- The lengths of the parts of a checkpoint image: replicated part, stage, pools 0 to 7. -/
def ckptLengths (c : Chip) (rep : List Byte) : List Nat :=
  rep.length :: 64 * (imageLines c 8).length ::
    (List.range 8).map (fun p => 65536 * (replicaPages c rep p).length)

/-- The offsets of parts of given lengths: each on a 4 KiB boundary after the header. -/
def ckptOffsets : Nat → List Nat → List Nat
  | _, [] => []
  | o, n :: t => o :: ckptOffsets (roundUp (o + n) 4096) t

/-- The header of a checkpoint image but for its completion word. -/
def ckptHeader (c : Chip) (step : Nat) (rep : List Byte) : List Byte :=
  let ls := ckptLengths c rep
  let d := (ownDigests c step).getD ([], [])
  slice (leBytes 4 1 ++ leBytes 4 (logicalOf c (reg c (key 0xB020 2))) ++ leBytes 8 step ++ slice d.2 0 16 ++
    slice d.1 0 16 ++ planHash c ++ ((ckptOffsets 4096 ls).zip ls).flatMap (fun x => leBytes 8 x.1 ++ leBytes 8 x.2))
    0 4096

/-- The lines of a pool part: the allocated pages in ascending number, zeros where the image has no line. -/
def poolPart (c : Chip) (rep : List Byte) (p : Nat) : List PartLine :=
  (replicaPages c rep p).flatMap (fun n => (List.range 1024).map (fun l =>
    smGet ⟨0, p, false, zeroLine⟩ c.det.image (p * 4294967296 + 1024 * n + l)))

/-- Everything of a checkpoint image but the header: offset, poison, bytes. -/
def ckptBody (c : Chip) (rep : List Byte) : List (Nat × Bool × List Byte) :=
  let parts := partLines 9 rep :: imageLines c 8 :: (List.range 8).map (poolPart c rep)
  ((ckptOffsets 4096 (ckptLengths c rep)).zip parts).flatMap (fun (o, l) =>
    l.zipIdx.map (fun (x, i) => (o + 64 * i, x.poison, x.data)))

/-- One line of the image as a type-4 cart. The spec does not say how the image is cut into carts; one
line to a cart keeps poison exact. DESIGN CHOICE (log 21). -/
def ckptCart (c : Chip) (o : Nat) (poison : Bool) (d : List Byte) : Chip :=
  sendCart c (reg c (key 0xB030 2)) 4 (reg c (key 0xB030 3) + o) (slice d 0 64) (if poison then 3 else 0)

/-- CHECKPOINT_WRITE: the image has reached the step, and the core clock is not stopped (10 R317). -/
def fCkptWrite (c : Chip) : Chip :=
  match c.det.ckptStep, c.det.ckpt with
  | some t, some rep =>
    if c.time.changing ∨ c.det.ckptWriting ∨ reg c (key 0xB020 3) ≠ t ∨ !c.det.imaged ∨ reg c (key 0xB020 4) = 3 then c
    else
      let h := ckptHeader c t rep
      let c1 := (List.range 63).foldl (fun c i => ckptCart c (64 * i) false (slice h (64 * i) 64)) c
      let c2 := (ckptBody c rep).foldl (fun c (o, p, d) => ckptCart c o p d) c1
      setReg { c2 with det := { c2.det with ckptWriting := true } } (key 0xB030 5) 1
  | _, _ => c

/-- CHECKPOINT_DONE: all carts have left; the completion word is the last write. B030h:01 returns to all ones but where it
schedules a later checkpoint by then: DEDUCED (log 21). -/
def fCkptDone (c : Chip) : Chip :=
  match c.det.ckptStep with
  | some t =>
    if !c.det.ckptWriting ∨ c.fab.waiting.any (fun x => cartType x == 4) then c
    else
      let c := ckptCart c 4032 false (List.replicate 56 0 ++ leBytes 8 (t + 1))
      let c := setReg (addReg (nextCkpt c) (key 0xB030 4) 1) (key 0xB030 5) 0
      if reg c (key 0xB030 1) = t then setReg c (key 0xB030 1) ones64 else c
  | none => c

/-! ## Import (13 R425) -/

/-- The import command: a request cart goes to the source. -/
def startImport (c : Chip) : Chip :=
  let kind := reg c (key 0xB040 1)
  let step := reg c (key 0xB040 4)
  let img := if kind = 2 then reg c (key 0xB040 3) else 0
  let rest := leBytes 4 (ownDev c) ++ leBytes 4 0 ++ leBytes 8 step ++ leBytes 8 img
  let c := { c with det := { c.det with importing := some ⟨c.count, Batch.none step⟩ } }
  sendCart (setReg c (key 0xB040 6) 1) (reg c (key 0xB040 2)) 5 0 (mirrorData 4 0 step rest) 0

/-- An import cart: a request, or a part of the answer awaited. -/
def takeImport (c : Chip) (x : Cart) : Chip :=
  if field (cartData x) 0 1 = 4 then
    { c with det := { c.det with request := c.det.request ++ [(cartField x 0 4, cartData x)] } }
  else
    match c.det.importing with
    | some i =>
      if cartField x 0 4 = reg c (key 0xB040 2) then
        { c with det := { c.det with importing := some { i with got := batchTake i.got x } } }
      else c
    | none => c

/-- Read a line at a module address for an import's answer. -/
def sourceLine (c : Chip) (a part line : Nat) : Chip × PartLine :=
  let r := readGran c (a / 64 * 64) .apart false
  (r.1, ⟨line, part, r.2.2, r.2.1⟩)

/-- Read lines at addresses. -/
def sourceLines (c : Chip) (l : List (Nat × Nat × Nat)) : Chip × List PartLine :=
  l.foldl (fun (x : Chip × List PartLine) (a, p, n) =>
    let r := sourceLine x.1 a p n
    (r.1, x.2 ++ [r.2])) (c, [])

/-- The answer of a mirror source (13 R425): none where it does not answer. -/
def mirrorAnswer (c : Chip) (step : Nat) : Option Batch :=
  if c.plan.state = .halted ∧ reg c (key 0xB020 4) = 1 ∧ reg c (key 0xB020 3) = step ∧ c.plan.step = step then
    let d := (ownDigests c step).getD (stateDigest c, settingsDigest c)
    some { step := step, started := true, ended := true, full := false, settings := d.2, digest := d.1, count := 0,
           lines := partLines 9 (replica c) ++ imageLines c 8 ++ (List.range 8).flatMap (imageLines c) }
  else none

/-- The answer of a checkpoint source: its image at a module address. -/
def imageAnswer (c : Chip) (step img : Nat) : Chip × Option Batch :=
  let h := sourceLines c ((List.range 64).map (fun i => (img + 64 * i, 0, i)))
  let b := h.2.flatMap (·.data)
  if field b 0xFF8 8 ≠ step + 1 then (h.1, none)
  else
    let row := fun i => (field b (0x60 + 16 * i) 8, field b (0x68 + 16 * i) 8)
    let part := fun i n => (List.range ((row i).2 / 64 + (if (row i).2 % 64 = 0 then 0 else 1))).map (fun l => (img + (row i).1 + 64 * l, n, l))
    let rep := sourceLines h.1 (part 0 9)
    let stage := sourceLines rep.1 (part 1 8)
    let bytes := slice (rep.2.flatMap (·.data)) 0 (row 0).2
    let pools := sourceLines stage.1 ((List.range 8).flatMap (fun p =>
      ((replicaPages c bytes p).zipIdx).flatMap (fun (n, k) => (List.range 1024).map (fun l =>
        (img + (row (2 + p)).1 + 65536 * k + 64 * l, p, 1024 * n + l)))))
    (pools.1, some { step := step, started := true, ended := true, full := false, settings := slice b 0x10 16,
                     digest := slice b 0x20 16, count := 0, lines := rep.2 ++ stage.2 ++ pools.2 })

/-- IMPORT_REQUEST_ANSWER: the oldest request; one with an image address asks for a checkpoint. It waits
while a frequency change stops the core clock (10 R317). -/
def fImportAnswer (c : Chip) : Chip :=
  match (if c.time.changing then [] else c.det.request) with
  | [] => c
  | (src, d) :: t =>
    let c := { c with det := { c.det with request := t } }
    let step := field d 16 8
    let img := field d 24 8
    if img = 0 then
      match mirrorAnswer c step with
      | some b => sendBatch c src 5 b
      | none => c
    else
      let r := imageAnswer c step img
      match r.2 with
      | some b => sendBatch r.1 src 5 b
      | none => r.1

/-- An import is refused: the plan state stays Loaded. -/
def refuseImport (c : Chip) (st : Nat) : Chip :=
  report (setReg { c with det := { c.det with importing := none } } (key 0xB040 6) st) 0x0A03 .modl .apart [st]

/-- The bytes of a part from its lines. -/
def partBytes (l : List PartLine) (part : Nat) : List Byte :=
  (sortBy (fun (a b : PartLine) => decide (a.line < b.line)) (l.filter (fun x => x.part == part))).flatMap
    (fun x => slice x.data 0 64)

/-- The replicated part that an import brings: its lines, cut to its length (13 R418 R425). -/
def importRep (c : Chip) (b : Batch) : List Byte := slice (partBytes b.lines 9) 0 (replicaLen c)

/-- Write the lines of the pools to their slots: every page starts non-resident (13 R425). -/
def importPools (l : List PartLine) (c : Chip) : Chip :=
  let c := (kvRegions c).foldl (fun c r => setPool c r.num Pool.reset) c
  l.foldl (fun c x =>
    if x.part < 8 then
      match poolRegion c x.part with
      | some r => writeGran c (slotAddr c r.num x.line) x.data x.poison
      | none => c
    else c) c

/-- The state of a boundary comes in: replicated part, pools, stage; the plan is Halted with actions 2 to
8 of that boundary pending. The stage also takes its place in the stage region, from which the next step
sends it. DEDUCED (log 21). -/
def importState (b : Batch) (c : Chip) : Chip :=
  let rep := importRep c b
  let c := importPools b.lines (restoreReplica rep c)
  let st := partBytes b.lines 8
  let c := if st.isEmpty then { c with det := { c.det with stage := none } }
    else engWrite { c with det := { c.det with stage := some st } } (svRegion c 1) 0 st
  let kind := reg c (key 0xB040 1)
  { c with plan := { c.plan with state := .halted, pendingBoundary := true, launched := true },
           det := { c.det with importing := none, imported := kind == 1,
                               digests := (b.step, b.digest, b.settings) :: c.det.digests,
                               shown := (b.step, b.digest), diverged := false } }

/-- IMPORT_COMPLETE: the end has come; the checks in their order (13 R425). -/
def fImportComplete (c : Chip) : Chip :=
  match c.det.importing with
  | none => c
  | some i =>
    let b := i.got
    if !(b.started && b.ended) || c.plan.state != .loaded then c
    else if b.lines.length ≠ b.count then refuseImport c 0x0202
    else if (sha3_256 (importRep c b)).take 16 ≠ b.digest then refuseImport c 0x0203
    else if settingsDigest c ≠ b.settings then refuseImport c 0x0204
    else setReg (importState b c) (key 0xB040 6) 0

/-- IMPORT_TIMEOUT: 10 ms without the answer (13 R425). -/
def fImportTimeout (c : Chip) : Chip :=
  match c.det.importing with
  | some i => if i.got.started && i.got.ended then c else refuseImport (reach c (i.since + 5000000)) 0x0201
  | none => c

/-! ## The meanings -/

/-- MIRROR_BATCH_SEND. -/
def execMirrorBatchSend (s : State) : Host.Outcome State Fault Refusal := onRunning s fMirrorSend

/-- CHECKPOINT_WRITE. -/
def execCheckpointWrite (s : State) : Host.Outcome State Fault Refusal := onRunning s fCkptWrite

/-- CHECKPOINT_DONE. -/
def execCheckpointDone (s : State) : Host.Outcome State Fault Refusal := onRunning s fCkptDone

/-- IMPORT_REQUEST_ANSWER. -/
def execImportRequestAnswer (s : State) : Host.Outcome State Fault Refusal := onRunning s fImportAnswer

/-- IMPORT_COMPLETE. -/
def execImportComplete (s : State) : Host.Outcome State Fault Refusal := onRunning s fImportComplete

/-- IMPORT_TIMEOUT. -/
def execImportTimeout (s : State) : Host.Outcome State Fault Refusal := onRunning s fImportTimeout

end Sys2Proof.Machine
end

