-- ==== Sys2Proof/Machine/Carts.lean ====
section
/-! DEFINITION. Where carts end (12 R383 R392): their consumers, the dispatchers, and injection, which
also hands a cart for the own device to its consumer. -/

namespace Sys2Proof.Machine

/-! ## Consumers (12 R383) -/

/-- The granule pieces of a remote write take the poison of the carriage granules their bytes came from. -/
def piecePoison (x : Cart) (target len a : Nat) : Bool :=
  let o := a - target
  (List.range (min (64 - a % 64) (len - o))).any (fun i => cartPoison x (o + i))

/-- A remote write, of a type-1 or type-4 cart, arriving at a die (07 R202). -/
def remoteWrite (f : Fuses) (die : Nat) (c : Chip) (x : Cart) : Chip :=
  let d := cartData x
  let t := cartTarget x
  bgWriteRun f 2 die 5 (holdSpan c t d.length) t d (piecePoison x t d.length)

/-- A steward message: the queue of the die named takes it where it holds fewer than 32. A target with
other bits set names no die (16 R495). -/
def takeMessage (c : Chip) (x : Cart) : Option Chip :=
  let t := cartTarget x
  if 4 ≤ t then some c
  else
    let w := stewAt c t
    if w.inbound.length < 32 then some (setStew c t { w with inbound := w.inbound ++ [⟨x.payload, x.poison⟩] }) else none

/-- A cart's consumer takes it, counted as delivered (12 R406); none where it cannot take it now. -/
def consume (f : Fuses) (die : Nat) (loc : Loc) (c : Chip) (x : Cart) : Option Chip :=
  let done := fun c => addReg c (key 0x5410 1) 1
  match cartType x with
  | 1 => some (remoteWrite f die (done c) x)
  | 2 => (takeMessage c x).map done
  | 3 => some (takeMirror (done c) x)
  | 4 => some (remoteWrite f die (done c) x)
  | 5 => some (takeImport (done c) x)
  | 6 => some (takePressure (done c) x)
  | _ => some (report (addReg c (key 0x5410 2) 1) 0x0501 loc .apart [3, x.dst])

/-! ## Dispatch and injection -/

/-- The head of one receive queue (12 R392). -/
def dispatchPort (f : Fuses) (c : Chip) (p : Nat) : Chip :=
  match (portAt c p).recv with
  | [] => c
  | (x, _) :: _ =>
    if routeOf c x.epoch x.dst = .deliver then
      match consume f (p / 8) (.port p) c x with
      | some c => popRecv c p
      | none => c
    else forward c p x

/-- CART_DISPATCH: the heads of the eight receive queues of a die. Nothing moves while the core clock
stands still (10 R317). -/
def fDispatch (f : Fuses) (die : Nat) (c : Chip) : Chip :=
  if c.time.changing then c else (List.range 8).foldl (fun c i => dispatchPort f c (8 * die + i)) c

/-- A waiting cart enters an egress queue, or is taken where it is for the own device. -/
def leave (f : Fuses) (c : Chip) (x : Cart) : Option Chip :=
  if routeOf c (epochNow c) x.dst = .deliver then consume f 0 .modl c x else injectCart c x

/-- The first of the waiting carts that may enter does; those before it wait on (12 R396). -/
def injectFirst (f : Fuses) (c : Chip) : List Cart → List Cart → Chip
  | _, [] => c
  | before, x :: t =>
    match leave f { c with fab := { c.fab with waiting := before ++ t } } x with
    | some c' => c'
    | none => injectFirst f c (before ++ [x]) t

/-- CART_INJECT. -/
def fInject (f : Fuses) (c : Chip) : Chip := if c.time.changing then c else injectFirst f c [] c.fab.waiting

/-! ## The meanings -/

/-- CART_DISPATCH. -/
def execCartDispatch (die : Fin 4) (s : State) : Host.Outcome State Fault Refusal :=
  onRunning s (fDispatch s.fuses die.val)

/-- CART_INJECT. -/
def execCartInject (s : State) : Host.Outcome State Fault Refusal := onRunning s (fInject s.fuses)

end Sys2Proof.Machine
end

