-- ==== Sys2Proof/Machine/Stewards.lean ====
section
/-! DEFINITION. The step routines of the stewards (16 R487 to R494), the variant post (05 R141 R142) and
steward messages (16 R495). Hart.lean says what the instructions of plan code do. -/

namespace Sys2Proof.Machine

/-! ## Routines -/

/-- Top of the plan data area, the stack pointer at entry (16 R482 R488). -/
def planTop : Nat := 0x10070000

/-- Steward address of the plan code (16 R482). -/
def planCode : Nat := 0x00020000

/-- Entry point of the plan's step routine. -/
def planEntry (c : Chip) : Nat :=
  match c.plan.image with
  | some im => planCode + im.entry
  | none => planCode

/-- The registers at entry (16 R488): a0 the step, a1 the die, a2 the variant, sp the top of the plan data area; the others
0. -/
def entryRegs (c : Chip) (d : Nat) : SMap Nat :=
  smSet 0 (smSet 0 (smSet 0 (smSet 0 [] 2 planTop) 10 (m64 c.plan.step)) 11 d) 12 c.plan.variant

/-- Enter the step routine of a die (16 R488). -/
def enterRoutine (c : Chip) (d : Nat) : Chip :=
  setStew c d { stewAt c d with routine := .running, x := entryRegs c d, pc := planEntry c, reserve := none }

/-- BOUNDARY_INTERRUPT, once for each step of a running plan. -/
def fInterrupt (c : Chip) : Chip :=
  if c.plan.state = .running ∧ !c.plan.fresh ∧ !c.plan.cut then
    (List.range 4).foldl enterRoutine { c with plan := { c.plan with fresh := true } }
  else c

/-- A routine ends: its die's done bit is set (16 R489). -/
def endRoutine (c : Chip) (d : Nat) : Chip :=
  let c := setStew c d { stewAt c d with routine := .none }
  { c with plan := { c.plan with done := setBit c.plan.done d } }

/-- An access fault ends the routine and is counted, without a record (16 R492). -/
def faultRoutine (c : Chip) (d : Nat) : Chip := addReg (endRoutine c d) (key 0x2030 (d + 1)) 1

/-- A die's routine is running, neither suspended nor ended. -/
def isRunning (c : Chip) (d : Nat) : Bool := (stewAt c d).routine == .running

/-- ROUTINE_CUT_OFF_END: routines running or suspended end (16 R489). -/
def cutRoutines (c : Chip) : Chip :=
  (List.range 4).foldl (fun c d => if (stewAt c d).routine = .none then c else endRoutine c d) c

/-- ROUTINE_ECALL: any other a7 is an illegal instruction (16 R489). -/
def fEcall (d a7 : Nat) (c : Chip) : Chip :=
  if isRunning c d then (if a7 = 0 then endRoutine c d else faultRoutine c d) else c

/-- STEWARD_ACCESS_FAULT. Every cause has one effect. -/
def fAccessFault (d : Nat) (c : Chip) : Chip := if isRunning c d then faultRoutine c d else c

/-! ## The variant post (05 R141 R142) -/

/-- Variants the plan holds. -/
def variantCount (c : Chip) : Nat :=
  match c.plan.image with
  | some im => im.hdr.variants
  | none => 0

/-- Post status of a record (05 R141 R142). A post for the wrong step is refused at any time; one for the
next step is late at or after the cut-off. Of a post that names another step and a variant that the plan does not hold, the
status 4 stands before 3: DESIGN CHOICE, R142 orders neither (log 22). -/
def postStatus (c : Chip) (target variant : Nat) : Nat :=
  if target ≠ c.plan.step + 1 then 4
  else if c.plan.cut ∨ cutoffAt c ≤ c.count then 2
  else if variantCount c ≤ variant then 3
  else 1

/-- The step that the record selects for. -/
def boxTarget (m : Mailbox) : Nat := leNat (getBytes m.bytes 0 8)

/-- Its variant. -/
def boxVariant (m : Mailbox) : Nat := (smGet 0 m.bytes 8).toNat

/-- Its parameters. -/
def boxParams (m : Mailbox) : List Nat := (List.range 64).map (fun i => leNat (getBytes m.bytes (0x10 + 4 * i) 4))

/-- A byte of the mailbox that a store writes: reserved bytes and the post status are none (05 R141). -/
def boxWrites (o : Nat) : Bool := decide (o ≤ 8) || (decide (0x10 ≤ o) && decide (o < 0x110))

/-- Bytes stored from an offset of the mailbox. -/
def putBox (m : Mailbox) (o : Nat) (b : List Byte) : Mailbox :=
  { m with bytes := b.zipIdx.foldl (fun s (x, i) => if boxWrites (o + i) then smSet 0 s (o + i) x else s) m.bytes }

/-- The record as it stands in the mailbox is posted (05 R141 R142). -/
def postBox (c : Chip) : Chip :=
  let m := c.plan.mailbox
  let st := postStatus c (boxTarget m) (boxVariant m)
  let c := { c with plan := { c.plan with mailbox := { m with status := st } } }
  if st = 1 then { c with plan := { c.plan with accepted := some (boxVariant m, boxParams m) } }
  else bump c (key 0x2012 3) 1

/-- A store to the mailbox by the routine of die 0; one that writes byte 007h posts the record (16 R490). -/
def storeBox (c : Chip) (o : Nat) (b : List Byte) : Chip :=
  let c := { c with plan := { c.plan with mailbox := putBox c.plan.mailbox o b } }
  if o ≤ 7 ∧ 7 < o + b.length then postBox c else c

/-- VARIANT_POST: the running routine of die 0 stores variant and parameters, and the target step last, which posts the
record. -/
def fVariantPost (target variant : Nat) (params : List Nat) (c : Chip) : Chip :=
  if c.plan.state = .running ∧ isRunning c 0 then
    let c := storeBox (storeBox c 8 (leBytes 1 variant)) 0x10
      ((List.range 64).flatMap (fun i => leBytes 4 (params.getD i 0)))
    storeBox c 0 (leBytes 8 target)
  else c

/-! ## Waits (16 R487) -/

/-- WAIT_FOR_CYCLE: a cycle already reached holds nothing. -/
def fWaitCycle (d v : Nat) (c : Chip) : Chip :=
  if isRunning c d ∧ planCycle c < v then setStew c d { stewAt c d with routine := .waitCycle v } else c

/-- The count at which the plan cycle reaches v. -/
def cycleCount (c : Chip) (v : Nat) : Nat := c.plan.stepStart + cdiv (2 * v) (ccNow c)

/-- WAIT_FOR_CYCLE_WAKE: where the cycle comes before the cut-off. -/
def fCycleWake (d : Nat) (c : Chip) : Chip :=
  match (stewAt c d).routine with
  | .waitCycle v =>
    if cycleCount c v < cutoffAt c then
      let c := reach c (cycleCount c v)
      setStew c d { stewAt c d with routine := .running }
    else c
  | _ => c

/-- Every bit of the mask is set among the done bits. -/
def diesDone (c : Chip) (mask : Nat) : Bool := c.plan.done &&& mask == mask

/-- WAIT_FOR_DIES. -/
def fWaitDies (d mask : Nat) (c : Chip) : Chip :=
  if isRunning c d ∧ !diesDone c mask then setStew c d { stewAt c d with routine := .waitDies mask } else c

/-- WAIT_FOR_DIES_WAKE. -/
def fDiesWake (d : Nat) (c : Chip) : Chip :=
  match (stewAt c d).routine with
  | .waitDies m => if diesDone c m then setStew c d { stewAt c d with routine := .running } else c
  | _ => c

/-! ## Messages (16 R495) -/

/-- MESSAGE_POP. -/
def fPop (d v : Nat) (c : Chip) : Chip :=
  let w := stewAt c d
  if isRunning c d ∧ v = 1 then setStew c d { w with inbound := w.inbound.drop 1 } else c

/-- The cart of a send: device [17:0] and die [19:18] of the value written; the data length is the
page's own field, at most 224. -/
def messageCart (c : Chip) (v : Nat) (page : List Byte) : Chip × Cart :=
  let n := min 224 (field page 6 2)
  makeCart c (v % 262144) 2 (v / 262144 % 4) (slice page 32 n) 0 false

/-- The oldest waiting send is injected where throttling and room allow, and the core clock is not stopped (10 R317). -/
def injectMessage (f : Fuses) (c : Chip) (d : Nat) : Chip :=
  let w := stewAt c d
  match (if c.time.changing then [] else w.waiting) with
  | [] => c
  | (v, page) :: t =>
    let r := messageCart c v page
    match leave f r.1 r.2 with
    | some c' => setStew c' d { stewAt c' d with waiting := t }
    | none => c

/-- The outbound page is sent as it stands: a send behind one that waits, waits. -/
def sendPage (f : Fuses) (d v : Nat) (c : Chip) : Chip :=
  let w := stewAt c d
  let c := setStew c d { w with waiting := w.waiting ++ [(v, getBytes w.page 0 256)] }
  if w.waiting.isEmpty then injectMessage f c d else c

/-- MESSAGE_SEND: the routine stores the 256 bytes of the outbound page and sends it. -/
def fSend (f : Fuses) (d v : Nat) (page : List Byte) (c : Chip) : Chip :=
  if isRunning c d then
    let w := stewAt c d
    sendPage f d v (setStew c d { w with page := putBytes w.page 0 (slice page 0 256) })
  else c

/-! ## The meanings -/

/-- BOUNDARY_INTERRUPT. -/
def execBoundaryInterrupt (s : State) : Host.Outcome State Fault Refusal := onRunning s fInterrupt

/-- ROUTINE_ECALL. -/
def execRoutineEcall (die : Fin 4) (a7 : BitVec 64) (s : State) : Host.Outcome State Fault Refusal :=
  onRunning s (fEcall die.val a7.toNat)

/-- STEWARD_ACCESS_FAULT. -/
def execStewardAccessFault (die : Fin 4) (_cause : StewardCause) (s : State) : Host.Outcome State Fault Refusal :=
  onRunning s (fAccessFault die.val)

/-- VARIANT_POST. -/
def execVariantPost (target : BitVec 64) (variant : BitVec 8) (params : List (BitVec 32)) (s : State) :
    Host.Outcome State Fault Refusal :=
  onRunning s (fVariantPost target.toNat variant.toNat (params.map BitVec.toNat))

/-- WAIT_FOR_CYCLE. -/
def execWaitForCycle (die : Fin 4) (v : BitVec 64) (s : State) : Host.Outcome State Fault Refusal :=
  onRunning s (fWaitCycle die.val v.toNat)

/-- WAIT_FOR_CYCLE_WAKE. -/
def execWaitForCycleWake (die : Fin 4) (s : State) : Host.Outcome State Fault Refusal :=
  onRunning s (fCycleWake die.val)

/-- WAIT_FOR_DIES. -/
def execWaitForDies (die : Fin 4) (mask : BitVec 64) (s : State) : Host.Outcome State Fault Refusal :=
  onRunning s (fWaitDies die.val mask.toNat)

/-- WAIT_FOR_DIES_WAKE. -/
def execWaitForDiesWake (die : Fin 4) (s : State) : Host.Outcome State Fault Refusal :=
  onRunning s (fDiesWake die.val)

/-- MESSAGE_POP. -/
def execMessagePop (die : Fin 4) (v : BitVec 64) (s : State) : Host.Outcome State Fault Refusal :=
  onRunning s (fPop die.val v.toNat)

/-- MESSAGE_SEND. -/
def execMessageSend (die : Fin 4) (v : BitVec 64) (page : List Byte) (s : State) : Host.Outcome State Fault Refusal :=
  onRunning s (fSend s.fuses die.val v.toNat page)

/-- MESSAGE_INJECT. -/
def execMessageInject (die : Fin 4) (s : State) : Host.Outcome State Fault Refusal :=
  onRunning s (fun c => injectMessage s.fuses c die.val)

end Sys2Proof.Machine
end

