-- ==== Sys2Proof/Machine/Streams.lean ====
section
/-! DEFINITION. The stream programs of a plan and the checks that a load makes of them (05 R117 to R120 R126 R130 R132, 03
R68, 06 R165 R167 R170): each program is unrolled, its issue cycles are reckoned as the sequencer reckons them, and the
lines of its instructions are followed to their banks. -/

namespace Sys2Proof.Machine

/-! ## Programs (05 R117 R118) -/

/-- The program of a variant and a logical die. -/
def progOf (im : PlanImage) (v d : Nat) (exe : Bool) : List StreamTok :=
  im.progs.getD (8 * v + 2 * d + if exe then 1 else 0) []

/-- The body of a loop just entered and what follows it; `deep` counts the loops opened within. -/
def loopBody : Nat → List StreamTok → List StreamTok × List StreamTok
  | _, [] => ([], [])
  | 0, .done :: rest => ([], rest)
  | deep + 1, .done :: rest =>
    let r := loopBody deep rest
    (.done :: r.1, r.2)
  | deep, .loop n :: rest =>
    let r := loopBody (deep + 1) rest
    (.loop n :: r.1, r.2)
  | deep, x :: rest =>
    let r := loopBody deep rest
    (x :: r.1, r.2)

/-- An issue with the loop counters, outermost first. -/
def withCtr (i : Issue) (ctr : List Nat) : Issue :=
  { i with c0 := ctr.getD 0 0, c1 := ctr.getD 1 0, c2 := ctr.getD 2 0, c3 := ctr.getD 3 0 }

/-- The instructions of a program in the order in which they issue, with the loop counters; `fuel` bounds the nesting and
the length. -/
def unroll : Nat → List Nat → List StreamTok → List (Issue × Instr)
  | 0, _, _ => []
  | _ + 1, _, [] => []
  | f + 1, ctr, .instr i x :: rest => (withCtr i ctr, x) :: unroll f ctr rest
  | f + 1, ctr, .done :: rest => unroll f ctr rest
  | f + 1, ctr, .loop n :: rest =>
    let b := loopBody 0 rest
    (List.range n).flatMap (fun k => unroll f (ctr ++ [k]) b.1) ++ unroll f ctr b.2

/-- The loops of a program are such as 05 R118 has: nested up to four deep, `deep` of them open, each with a count from 1 to
2^24, each closed. -/
def loopsOk : Nat → List StreamTok → Bool
  | deep, [] => deep == 0
  | deep, .instr .. :: rest => loopsOk deep rest
  | deep, .loop n :: rest => decide (deep < 4) && decide (1 ≤ n) && decide (n ≤ 16777216) && loopsOk (deep + 1) rest
  | deep, .done :: rest => decide (0 < deep) && loopsOk (deep - 1) rest

/-- The instructions of a program. -/
def instrsOf (im : PlanImage) (v d : Nat) (exe : Bool) : List (Issue × Instr) :=
  let p := progOf im v d exe
  unroll (p.length + 1) [] p

/-- Every instruction of a program as it is written, the loops aside. -/
def tokInstrs (p : List StreamTok) : List (Issue × Instr) :=
  p.filterMap (fun t => match t with
    | .instr i x => some (i, x)
    | _ => none)

/-- The variants of a plan. -/
def variantsOf (im : PlanImage) : List Nat := List.range im.hdr.variants

/-- Logical tile n issues an instruction of its die (05 R124). -/
def tileTakes (im : PlanImage) (n : Nat) (i : Issue) : Bool := bit (im.tmasks.getD n 0) i.sel.val

/-- The logical tiles of the plan. -/
def tilesOf (im : PlanImage) : List Nat := List.range (4 * im.hdr.tpd)

/-- Everything that logical tile n is given by a program of its die in some variant. -/
def tileInstrs (im : PlanImage) (n : Nat) : List Instr :=
  (variantsOf im).flatMap (fun v => [false, true].flatMap (fun exe =>
    ((tokInstrs (progOf im v (n / im.hdr.tpd) exe)).filter (fun x => tileTakes im n x.1)).map (·.2)))

/-! ## Queues and strides (05 R126 R130) -/

/-- The queues an instruction of the access stream fills, or one of the execute stream empties. -/
def usesIn : Instr → List Nat
  | .tql _ q _ _ => [q.val]
  | .tqp _ q _ _ => [q.val, q.val + 1]
  | .bpq _ q _ => [q.val]
  | .mpre _ _ qp qs => [qp.val, qp.val + 1] ++ qs.toList.map (·.val)
  | .mstr _ _ qa qs _ _ _ _ _ =>
    (match qa with
      | .one q => [q.val]
      | .pair q => [q.val, q.val + 1]) ++ qs.toList.map (·.val)
  | .vpop _ _ _ q => [q.val]
  | _ => []

/-- The queues an instruction of the execute stream fills, or one of the access stream empties. -/
def usesOut : Instr → List Nat
  | .vpush _ _ _ q => [q.val]
  | .qts _ _ q _ => [q.val]
  | _ => []

/-- Some queue of a tile is used in both directions. -/
def queueClash (im : PlanImage) (n : Nat) : Bool :=
  let l := tileInstrs im n
  let out := l.flatMap usesOut
  l.any (fun x => (usesIn x).any out.contains)

/-- The line addresses of an instruction. -/
def linesIn : Instr → List LineAddr
  | .tql _ _ a _ => [a]
  | .tqp _ _ a _ => [a]
  | .qts _ a _ _ => [a]
  | .ocfl _ a b _ => [a, b]
  | .ocwb _ a b _ => [a, b]
  | .oczr _ a _ => [a]
  | .mld _ a _ b _ _ => [a, b]
  | .mst _ _ a b _ _ => [a, b]
  | .mvt _ _ a b _ => [a, b]
  | .mrx _ _ a _ => [a]
  | .csnd _ _ a => [a]
  | .crcv _ _ a => [a]
  | .swr _ a b _ => [a, b]
  | _ => []

/-! ## Pairings (03 R68) -/

/-- The formats in the active and the shadow registers of a tile, none where plan load left them. -/
abbrev Fmts := Option Fmt × Option Fmt

/-- The formats after an instruction, none where an MSTR meets weights it does not pair with. -/
def fmtStep (s : Option Fmts) (x : Instr) : Option Fmts :=
  match s with
  | none => none
  | some s =>
    match x with
    | .mpre _ f _ _ => some (s.1, some f)
    | .mstr _ f qa _ _ _ _ swap _ =>
      let s := if swap then (s.2, s.1) else s
      if pairing s.1 f qa then some s else none
    | _ => some s

/-- The formats that a variant leaves in a tile that begins it with given ones. -/
def fmtRun (im : PlanImage) (n v : Nat) (s : Fmts) : Option Fmts :=
  ((instrsOf im v (n / im.hdr.tpd) true).filter (fun x => tileTakes im n x.1)).foldl (fun s x => fmtStep s x.2) (some s)

/-- The start states with those that some variant leaves, each once. -/
def growFmts (im : PlanImage) (n : Nat) (l : List Fmts) : List Fmts :=
  ((variantsOf im).flatMap (fun v => l.filterMap (fmtRun im n v))).foldl (fun l s => if l.contains s then l else l ++ [s]) l

/-- The set of start states grown so often that it grows no longer: there are at most 13 × 13 of them. -/
def startFmts (im : PlanImage) (n : Nat) : List Fmts :=
  (List.range 169).foldl (fun l _ => growFmts im n l) [(none, none)]

/-- Some MSTR of a tile can meet weights it does not pair with. -/
def pairingFails (im : PlanImage) (n : Nat) : Bool :=
  (variantsOf im).any (fun v => (startFmts im n).any (fun s => (fmtRun im n v s).isNone))

/-! ## The issue cycles of a variant on a die (06 R167) -/

/-- The own logical device as the partition map gives it. -/
def mapDevice (c : Chip) (im : PlanImage) : Nat := im.devIds.findIdx (· == reg c (key 0x1020 1))

/-- The lines of a coach that this module sends, or receives. -/
def coachLines (c : Chip) (im : PlanImage) (send : Bool) (number : Nat) : Nat :=
  let own := mapDevice c im
  match im.coaches.find? (fun r => if send then r.src == own && r.sendNo == number
      else r.path.getD (r.hops - 1) ones32 == own && r.recvNo == number) with
  | some r => 4 * r.k
  | none => 0

/-- What an MLD names lies in HBM (07 R195). -/
def planHbm (c : Chip) (im : PlanImage) (r : RegionRef) (l : Int) : Bool :=
  match r with
  | .region n => match im.regions.find? (fun r => r.num == n) with
    | some r => r.tier == 0
    | none => true
  | .view _ => inHbm c r l

/-- A line address in the first tile of the die with all parameters 0: the module evaluates the programs before any
parameter is known. DESIGN CHOICE (log 10). -/
def planLine (im : PlanImage) (i : Issue) (a : LineAddr) : Int :=
  a.base + ((i.die.val * im.hdr.tpd : Nat) : Int) * a.sT + (i.c0 : Int) * a.s0 + (i.c1 : Int) * a.s1 + (i.c2 : Int) * a.s2 + (i.c3 : Int) * a.s3

/-- The lines of an access instruction, the cycles from its issue to the bank of line 0, and its tile-store address. -/
def planShape (c : Chip) (im : PlanImage) (i : Issue) (x : Instr) : Nat × Nat × LineAddr :=
  match x with
  | .tql _ _ a n => (n, 1, a)
  | .tqp _ _ a n => (n, 1, a)
  | .bpq .. => (1, 1, noLine)
  | .qts _ a _ n => (n, 1, a)
  | .ocfl _ _ a n => (n, 1, a)
  | .ocwb _ _ a n => (n, 1, a)
  | .oczr _ _ n => (n, 1, noLine)
  | .mld _ a r off n _ => (n, (if planHbm c im r (planLine im i off) then 64 else 160) * ccPerPair im.hdr.freq, a)
  | .mst _ _ _ a n _ => (n, 1, a)
  | .mvt _ _ _ a n => (n, 1, a)
  | .mrx _ _ a n => (n, 0, a)
  | .csnd _ k a => (coachLines c im true k, 1, a)
  | .crcv _ k a => (coachLines c im false k, 40, a)
  | .swr _ _ a n => (n, 1, a)
  | _ => (0, 0, noLine)

/-- A program's run on a die: the cycle, the first cycle of its step, the holds, what is in progress, the instructions still
to issue of the access and the execute program, the cycles of the last issues, what has issued in the step, each with its
cycle of the step, and which lines have met their banks, each with its cycle, newest first. -/
structure Run where
  cyc : Nat
  base : Nat
  clock : Clock
  acts : List (Issue × Act)
  left : List (Issue × Instr) × List (Issue × Instr)
  last : Option Nat × Option Nat
  issued : List (Nat × Issue × Instr)
  moved : List (Nat × Issue × Instr × Nat)

/-- The head of a program is eligible and nothing holds it (05 R120 R127 R136). -/
def runReady (r : Run) (exe : Bool) : Option (Issue × Instr) :=
  match (if exe then r.left.2 else r.left.1) with
  | [] => none
  | (i, x) :: _ =>
    let e := match (if exe then r.last.2 else r.last.1) with
      | some l => l + max 1 i.wait
      | none => r.base + i.wait
    let h := match x with
      | .xbar .. => if exe then r.clock.retired else if r.acts.isEmpty then 0 else r.cyc + 1
      | .ends .. => 0
      | x => if exe then execFrom r.clock x else accessFrom (r.acts.map (·.2)) x
    if max e h ≤ r.cyc then some (i, x) else none

/-- The head of a program issues. -/
def runIssue (c : Chip) (im : PlanImage) (exe : Bool) (ix : Issue × Instr) (r : Run) : Run :=
  let r := { r with issued := (r.cyc - r.base, ix) :: r.issued }
  if exe then
    { r with left := (r.left.1, r.left.2.drop 1), last := (r.last.1, some r.cyc), clock := execAfter r.clock ix.2 r.cyc }
  else
    let s := planShape c im ix.1 ix.2
    let a : Act := ⟨0, ix.2, r.cyc, 0, 0, 0, s.1, (planLine im ix.1 s.2.2 % 16).toNat, s.2.1, []⟩
    { r with left := (r.left.1.drop 1, r.left.2), last := (some r.cyc, r.last.2),
             acts := if s.1 = 0 then r.acts else r.acts ++ [(ix.1, a)] }

/-- An XBAR k. -/
def xbarOf : Option (Issue × Instr) → Option (Fin 8)
  | some (_, .xbar _ _ k) => some k
  | _ => none

/-- Both programs issue what they can in the cycle: an XBAR only together with the other program's of the same k. -/
def runIssues (c : Chip) (im : PlanImage) (r : Run) : Run :=
  let a := runReady r false
  let x := runReady r true
  let go := fun (exe : Bool) (h : Option (Issue × Instr)) (r : Run) => match h with
    | some ix => if (xbarOf h).isSome && xbarOf a != xbarOf x then r else runIssue c im exe ix r
    | none => r
  go true x (go false a r)

/-- Lines of an MVT cross to another die. -/
def planFar (im : PlanImage) (d : Nat) (x : Instr) : Bool :=
  match x with
  | .mvt _ t _ _ _ =>
    (List.range im.hdr.tpd).any (fun k => let n := d * im.hdr.tpd + k
      (match t with
        | .abs m => m
        | .rel k => (((n : Int) + k) % ((4 * im.hdr.tpd : Nat) : Int)).toNat) / im.hdr.tpd != d)
  | _ => false

/-- The lines that an act moved in a cycle. -/
def linesMoved (t : Nat) (i : Issue) (old new : Act) : List (Nat × Issue × Instr × Nat) :=
  (List.range (new.k - old.k)).map (fun j => (t, i, new.x, old.k + j))

/-- One cycle of a die's programs. -/
def runCycle (c : Chip) (im : PlanImage) (d : Nat) (r : Run) : Run :=
  let r := runIssues c im r
  let served := serveDie r.clock r.cyc (r.acts.map (·.2))
  let acts := r.acts.map (fun (i, a) => (i, (served.find? (fun b => b.s == a.s)).getD a))
  { r with cyc := r.cyc + 1,
           moved := ((r.acts.zip acts).flatMap (fun (o, n) => linesMoved r.cyc o.1 o.2 n.2)) ++ r.moved,
           acts := acts.filter (fun x => !x.2.over (planFar im d x.2.x) r.cyc) }

/-- The core cycles of a step of the plan. -/
def planCycles (im : PlanImage) : Nat := im.hdr.stepLen * ccPerPair im.hdr.freq

/-- The run of a variant on a die over one step, from what is in flight there (05 R137). -/
def runStep (c : Chip) (im : PlanImage) (v d : Nat) (r : Run) : Run :=
  (List.range (planCycles im)).foldl (fun r _ => runCycle c im d r)
    { r with base := r.cyc, left := (instrsOf im v d false, instrsOf im v d true), last := (none, none), issued := [] }

/-- The run of variant v on a die from the in-flight state that variant u leaves at its last cycle (05 R138, 06 R167). What u
itself began with is what plan load leaves: DESIGN CHOICE (log 10). -/
def runOf (c : Chip) (im : PlanImage) (u v d : Nat) : Run :=
  runStep c im v d (runStep c im u d ⟨0, 0, Clock.reset, [], ([], []), (none, none), [], []⟩)

/-! ## Lines between tiles and at stops (05 R132) -/

/-- The logical tile that a tile operand names in tile n. -/
def planTile (im : PlanImage) (n : Nat) : TileRef → Nat
  | .abs m => m
  | .rel k => (((n : Int) + k) % ((4 * im.hdr.tpd : Nat) : Int)).toNat

/-- The lines that a die's programs moved. -/
def movedOn (runs : List Run) (d : Nat) : List (Nat × Issue × Instr × Nat) :=
  match runs[d]? with
  | some r => r.moved
  | none => []

/-- A cycle lies in the step of the variant in hand. -/
def inStepOf (runs : List Run) (t : Nat) : Bool :=
  match runs with
  | r :: _ => decide (r.base ≤ t) && decide (t < r.cyc)
  | [] => false

/-- The lines that reach tiles through their stops in the step, those sent before it among them: cycle, tile, sending tile
(none but for MVT). -/
def stopLines (im : PlanImage) (runs : List Run) : List (Nat × Nat × Option Nat) :=
  ((tilesOf im).flatMap (fun n =>
    let d := n / im.hdr.tpd
    (movedOn runs d).filterMap (fun (t, i, x, _) =>
        if tileTakes im n i then
          match x with
          | .mld .. => some (t, n, none)
          | .crcv .. => some (t, n, none)
          | .mvt _ to_ _ _ _ =>
            let m := planTile im n to_
            some (t + (if m / im.hdr.tpd = d then 15 else 39), m, some n)
          | _ => none
        else none))).filter (fun x => inStepOf runs x.1)

/-- The lines that MRX instructions wait for in the step: cycle, tile, source tile. -/
def awaited (im : PlanImage) (runs : List Run) : List (Nat × Nat × Nat) :=
  (tilesOf im).flatMap (fun n =>
    (movedOn runs (n / im.hdr.tpd)).filterMap (fun (t, i, x, _) =>
        match x with
        | .mrx _ from_ _ _ => if tileTakes im n i && inStepOf runs t then some (t, n, planTile im n from_) else none
        | _ => none))

/-- The lowest of a list. -/
def lowest : List Nat → Option Nat
  | [] => none
  | x :: t => some (t.foldl min x)

/-- The lowest logical tile with an MVT or MRX line without its match. -/
def unmatched (im : PlanImage) (runs : List Run) : Option Nat :=
  let sent := stopLines im runs
  let wait := awaited im runs
  lowest ((sent.filterMap (fun (t, n, s) => match s with
      | some s => if wait.contains (t, n, s) then none else some n
      | none => none)) ++
    wait.filterMap (fun (t, n, s) => if sent.contains (t, n, some s) then none else some n))

/-- The lowest logical tile at whose stop two lines arrive in one cycle. -/
def crowded (im : PlanImage) (runs : List Run) : Option Nat :=
  let l := (stopLines im runs).map (fun (t, n, _) => (t, n))
  lowest ((l.filter (fun x => decide (1 < l.count x))).map (·.2))

/-! ## The checks in their order (06 R165 R184) -/

/-- The runs of variant v after variant u on the four dies. -/
def runsOf (c : Chip) (im : PlanImage) (u v : Nat) : List Run := (List.range 4).map (runOf c im u v)

/-- The runs of a variant on the four dies, one set for each variant that it may follow. -/
def runsAfter (c : Chip) (im : PlanImage) (v : Nat) : List (List Run) := (variantsOf im).map (fun u => runsOf c im u v)

/-- The first variant with something, and its logical tile, as the detail of 030Ah and 030Bh. -/
def variantDetail (c : Chip) (im : PlanImage) (f : List Run → Option Nat) : Option Nat :=
  (variantsOf im).findSome? (fun v => ((runsAfter c im v).findSome? f).map (fun n => n % 65536 + 65536 * v))

/-- A variant has instructions left at the end of its step. -/
def runsPast (c : Chip) (im : PlanImage) (v : Nat) : Bool :=
  (runsAfter c im v).any (fun rs => rs.any (fun r => !r.left.1.isEmpty || !r.left.2.isEmpty))

/-- The stride rule is broken somewhere (05 R130). -/
def strideFails (im : PlanImage) : Bool :=
  im.progs.any (fun p => (tokInstrs p).any (fun x => (linesIn x.2).any (fun a => !a.ok)))

/-- The checks of the stream programs in the order of 06 R165: status and detail of the first that fails. Of the details
that 06 R184 gives a logical tile, that of a stride names none: DEDUCED (log 24). -/
def streamVerdict (c : Chip) (im : PlanImage) : Option (Nat × Nat) :=
  (((tilesOf im).find? (queueClash im)).map (fun n => (0x0307, n))) <|>
  (if strideFails im then some (0x0308, 0) else none) <|>
  (((tilesOf im).find? (pairingFails im)).map (fun n => (0x0309, n))) <|>
  ((variantDetail c im (unmatched im)).map (fun n => (0x030A, n))) <|>
  ((variantDetail c im (crowded im)).map (fun n => (0x030B, n))) <|>
  (if (variantsOf im).any (runsPast c im) then some (0x030C, 0) else none)

/-- The code of all variants fits each die's 2 MiB plan cache (05 R119). -/
def streamFits (im : PlanImage) : Bool := (List.range 4).all (fun d => decide (Config.streamSize im.stream d ≤ 2097152))

/-- An instruction is a CSND, or a CRCV, that names a coach number. -/
def namesCoach (send : Bool) (number : Nat) (x : Instr) : Bool :=
  match x with
  | .csnd _ k _ => send && k == number
  | .crcv _ k _ => !send && k == number
  | _ => false

/-- The cycles of the CSNDs or CRCVs that name a coach number agree with a cycle in every variant of a mask, and no other
variant names the number (06 R170). -/
def coachIssued (c : Chip) (im : PlanImage) (send : Bool) (number cycle vmask : Nat) : Bool :=
  (variantsOf im).all (fun v =>
    if bit vmask v then
      (runsAfter c im v).all (fun rs => rs.any (fun r => r.issued.any (fun x => x.1 == cycle && namesCoach send number x.2.2)))
    else (List.range 4).all (fun d => (tokInstrs (progOf im v d false)).all (fun x => !namesCoach send number x.2)))

end Sys2Proof.Machine
end

