-- ==== Sys2Proof/Machine/Boundary.lean ====
section
/-! DEFINITION. The cut-off and the step boundary (01 R22 to R26 R29): what the cut-off fixes, the actions
of R24 in their order, and the start of the next step. -/

namespace Sys2Proof.Machine

/-! ## The cut-off (01 R23) -/

/-- VARIANT_LATCH: the last accepted record, or the default with the parameters in force and a plan fault
(05 R143, 01 R26). The fault concerns the module as a whole, while 14 R432 allows a tile or a die as its location; the
model reports it once, at die 0: DESIGN CHOICE (log 35). -/
def latchVariant (c : Chip) : Chip :=
  match c.plan.accepted with
  | some r => { c with plan := { c.plan with latched := r } }
  | none =>
    let d := match c.plan.image with
      | some im => im.hdr.dflt
      | none => 0
    let c := { c with plan := { c.plan with latched := (d, c.plan.params) } }
    reportOnce (bump c (key 0x2012 2) 1) 7 0 0x0601 (.die 0) .cycle [7, 1]

/-- What the cut-off of the step in hand fixes (01 R23, 15 R453). -/
def cutOff (c : Chip) : Chip :=
  let c := passed (reach c (cutoffAt c))
  let n := c.plan.step
  let c := lagCheck n (cutRoutines (snapshotCommit n (switchCheck n (intakeLatch n (latchVariant c)))))
  let c := markReady c
  { c with plan := { c.plan with cut := true, cutHalt := reg c (key 0x2010 3), cutCkpt := reg c (key 0xB030 1) } }

/-- A cut-off whose count is reached is performed before anything that it fixes is posted (01 R23). -/
def catchUp (c : Chip) : Chip :=
  if c.plan.state == .running && !c.plan.cut && decide (cutoffAt c ≤ c.count) then cutOff c else c

/-- STEP_CUT_OFF: once in a step of a running plan. -/
def fCutOff (c : Chip) : Chip := if c.plan.state = .running ∧ !c.plan.cut then cutOff c else c

/-! ## What the step leaves -/

/-- The instructions of a program that it has not issued in the step (05 R139). -/
def unissuedOf (c : Chip) (d : Nat) (exe : Bool) : Nat :=
  let q := seqAt c d
  if (if exe then q.endX else q.endA) then 0
  else match c.plan.image with
    | some im => (instrsOf im c.plan.variant d exe).length - (if exe then q.issuedX else q.issuedA)
    | none => 0

/-- Programs of a die that have not issued ENDS: what they leave is discarded, counted and reported (05 R139). -/
def unissued (c : Chip) (d : Nat) : Chip :=
  let n := unissuedOf c d false + unissuedOf c d true
  if n = 0 then c
  else reportOnce (bump c (key 0x3050 4) n) 4 (1000 + d) 0x0601 (.die d) .boundary [4, n]

/-- A tile whose lag is not zero reports it, and carries it on (03 R84). -/
def lagFault (c : Chip) (x : Nat × Tile) : Chip :=
  if x.2.lag = 0 then c else report c 0x0602 (.tile x.1) .boundary [1, x.2.lag]

/-- The faults of the step's last cycle. -/
def closeFaults (c : Chip) : Chip :=
  c.tiles.foldl lagFault ((List.range 4).foldl unissued c)

/-- Action 1 (01 R24): the step's counts, the boundary state for mirror and checkpoint, and the batches
that this module mirrors. -/
def action1 (n : Nat) (c : Chip) : Chip :=
  let c := dropFreed n (flushCounts (closeFaults (atMoment .boundary c)))
  atMoment .command (applyBatches (captureCkpt n c.plan.cutCkpt (captureState n c)))

/-! ## Recording and replay of a boundary (13 R415 R416) -/

/-- The map of the directory entries that action 4 switched. -/
def switchMap (l : List Nat) : Nat := l.foldl (fun m e => setBit m e) 0

/-- The state digest captured at action 1 of a step's boundary. -/
def digestOf (c : Chip) (n : Nat) : List Byte :=
  match ownDigests c n with
  | some d => d.1
  | none => List.replicate 16 0

/-- The payload of a boundary record. -/
def boundaryPayload (c : Chip) (n : Nat) (sw : List Nat) (flip commit : Bool) : List Byte :=
  settingsDigest c ++ slice (digestOf c n) 0 16 ++ leBytes 1 c.plan.variant ++ List.replicate 7 0 ++
    leBytes 16 (switchMap sw) ++ leBytes 1 (if flip then 1 else 0) ++ leBytes 1 (if commit then 1 else 0) ++
    List.replicate 6 0

/-- REPLAY_COMPARE in mode 2: the first mismatch is reported with the field that diverged. -/
def replayCompare (n : Nat) (c : Chip) : Chip :=
  if reg c (key 0xB011 1) ≠ 2 ∨ !replays c n then c
  else
    let r := replayTake c 2 n
    match r.2 with
    | none => r.1
    | some (step, p) =>
      let c := r.1
      if step ≠ n ∨ c.det.diverged then c
      else
        let bad := if slice p 0 16 ≠ settingsDigest c then some 0
          else if slice p 16 16 ≠ digestOf c n then some 1
          else if field p 32 1 ≠ c.plan.variant then some 2
          else none
        match bad with
        | some f => report { c with det := { c.det with diverged := true } } 0x0704 .modl .boundary [1, f]
        | none => c

/-! ## Actions 2 to 8 (01 R24) -/

/-- Action 7: the variant and parameters of the next step; a resume may name another variant (13 R426). -/
def action7 (resume : Bool) (c : Chip) : Chip :=
  let v := reg c (key 0xB050 2)
  let c := { c with plan := { c.plan with variant := if resume ∧ v ≠ 0xFF then v else c.plan.latched.1,
                                          params := c.plan.latched.2, accepted := none } }
  if resume then setReg c (key 0xB050 2) 0xFF else c

/-- Action 8: a module resumed after an import of the partner mirror is admitted (13 R427). -/
def action8 (n : Nat) (resume : Bool) (c : Chip) : Chip :=
  if resume && c.det.imported then
    report (addReg { c with det := { c.det with imported := false } } (key 0xB050 3) 1) 0x0A04 .modl .boundary [n + 1]
  else c

/-- A boundary at which serving is not enabled hands out no work and takes no stage: what an enabled step before left of both
is over (08 R229 R255). -/
def idleServing (c : Chip) : Chip := { c with srv := { c.srv with work := [], region := [], readDone := false } }

/-- Actions 2 to 8 of the boundary that ends step n, and what follows from them (07 R214, 08 R261, 13 R414
R416). -/
def actions (n : Nat) (resume : Bool) (c : Chip) : Chip :=
  let c := residenceSwitch (readAdmission (atMoment .boundary c))
  let x := if serving c then action3 (action2 n (engineCheck c)) else (c, [])
  let before := x.1
  let y := action4 n x.1
  let c := noticeDigest before y.1
  let epoch := reg c (key 0x5301 1)
  let k := action5 n c
  let z := if serving c then action6 n (k.1, x.2) else (idleServing k.1, x.2)
  let c := migrate (action8 n resume (action7 resume z.1))
  let c := flushOutputs n z.2 c
  let flip := reg c (key 0x5301 1) != epoch
  atMoment .command (replayCompare n (recordWrite c 2 n (boundaryPayload c n y.2 flip k.2)))

/-! ## The next step -/

/-- Places of the yard read in earlier steps of this parity may be written again (11 R347). -/
def freeYard (m : Nat) (c : Chip) : Chip :=
  (List.range 32).foldl (fun c p =>
    if (portAt c p).yardRead.isEmpty then c
    else modPort c p (fun q => { q with yardRead := q.yardRead.filter (fun y => y % 2 != m % 2) })) c

/-- In QZ5 time mode a step-start stamp goes to the launch children (11 R349 R352 R369). -/
def sendStamps (m : Nat) (c : Chip) : Chip :=
  if reg c (key 0x8040 1) ≠ 1 then c
  else (List.range 32).foldl (fun c p =>
    if bit (reg c (key 0x8030 7)) p && (portAt c p).st == .active && portVersion c p == 2 then
      sendTimed c p 3 (leBytes 8 m)
    else c) c

/-- QZ5_STEP_ADJUST: against the parent's stamp of the same step, the step loses or gains its idle tick
pair, once (10 R321). -/
def stepAdjust (c : Chip) : Chip :=
  match c.time.parentStep with
  | none => c
  | some (m, t16) =>
    if reg c (key 0x8040 1) ≠ 1 ∨ c.plan.state ≠ .running ∨ m ≠ c.plan.step ∨ c.plan.cut ∨ c.time.qz5Adjust ≠ 0 then c
    else
      let own := 16 * c.plan.stepStart
      let adj : Int := if t16 + 32 ≤ own then -1 else if own + 32 ≤ t16 then 1 else 0
      if adj = 0 then c
      else
        report { c with time := { c.time with qz5Adjust := adj } } 0x0905 .modl .boundary
          [2, if adj = 1 then 1 else ones32]

/-- The sequencer at the start of a step: its programs start anew, and what its instructions hold goes on (05 R137). -/
def restartSeq (q : Seq) : Seq := { Seq.start with clock := q.clock }

/-- Step m begins at a count (01 R22, 05 R137 R145, 08 R223, 16 R487). -/
def beginStep (m at' : Nat) (c : Chip) : Chip :=
  let base := adjusted c.plan.base c.time.qz5Adjust
  let c := { c with plan := { c.plan with step := m, stepStart := at', base := base, cut := false, fresh := false, cyc0 := c.plan.cyc,
                                          done := 0, accepted := none, pendingBoundary := false },
                    seqs := c.seqs.map (fun x => (x.1, restartSeq x.2)), acc := { c.acc with reported := [] },
                    time := { c.time with qz5Adjust := 0 },
                    srv := { c.srv with snap := some c.srv.sess, tablesHeld := [] } }
  freeYard m c

/-- The boundary of the step in hand: action 1, then a halt where the cut-off found this step named, or
the other actions and the next step (01 R24 R29). -/
def boundary (c : Chip) : Chip :=
  let at' := boundaryAt c
  let c := finishStep (reach c at')
  let n := c.plan.step
  let c := action1 n c
  if c.plan.cutHalt = n then
    { c with plan := { c.plan with state := .halted, pendingBoundary := true },
             acc := { c.acc with reported := [] } }
  else stepAdjust (sendStamps (n + 1) (beginStep (n + 1) at' (actions n false c)))

/-- STEP_BOUNDARY: a cut-off that has not been performed comes first. -/
def fBoundary (c : Chip) : Chip :=
  if c.plan.state = .running then boundary (if c.plan.cut then c else cutOff c) else c

/-- STEP_START_STAMP_RECEIVE: the parent's step start is the arrival less λ less the time in the stamp (11
R352). -/
def fStepStamp (p : Nat) (c : Chip) : Chip :=
  match takeCtl (portAt c p) 3 3 with
  | none => c
  | some (x, q) =>
    let c := setPort c p q
    if p = reg c (key 0x8030 5) then
      let t := x.at16 - lambda16 c p - field x.payload 8 4
      stepAdjust { c with time := { c.time with parentStep := some (field x.payload 0 8, t) } }
    else c

/-! ## The meanings -/

/-- STEP_CUT_OFF. -/
def execStepCutOff (s : State) : Host.Outcome State Fault Refusal := onRunning s fCutOff

/-- STEP_BOUNDARY. -/
def execStepBoundary (s : State) : Host.Outcome State Fault Refusal := onRunning s fBoundary

/-- STEP_START_STAMP_RECEIVE. -/
def execStepStartStampReceive (p : Fin 32) (s : State) : Host.Outcome State Fault Refusal :=
  onRunning s (fStepStamp p.val)

end Sys2Proof.Machine
end

