-- ==== Sys2Proof/Machine/Container.lean ====
section
/-! DEFINITION. The Terot container (06 R151 to R157), its signatures and its sealed sections
(09 R273 to R275), and what a failed primitive does to every check that uses it (18 R529). -/

namespace Sys2Proof.Machine

/-! ## Cryptographic checks (18 R529) -/

/-- A primitive of test 0001h failed, numbered in the order of R528: SHA3-256, SHA3-384, AES-256-GCM,
Ed25519, ML-DSA-65, X25519, ML-KEM-768. -/
def primBad (c : Chip) (n : Nat) : Bool := c.power.badPrims.contains n

/-- A key identifier: SHA3-256 of an Ed25519 public key followed by an ML-DSA-65 one (06 R156). -/
def keyId (pub : List Byte) : List Byte := sha3_256 (slice pub 0 1984)

/-- The Ed25519 signature of a signer entry over context and hash (06 R156). -/
def edValid (c : Chip) (pub ctx hash entry : List Byte) : Bool :=
  !primBad c 1 && !primBad c 3 && Config.ed25519Verify (pub.take 32) (ctx ++ hash) (slice entry 32 64)

/-- The ML-DSA-65 signature of a signer entry over the hash, with the context. -/
def mlValid (c : Chip) (pub ctx hash entry : List Byte) : Bool :=
  !primBad c 1 && !primBad c 4 && Config.mlDsaVerify ((pub.drop 32).take 1952) hash ctx (slice entry 96 3309)

/-- Both signatures of a signer entry hold. -/
def bothValid (c : Chip) (pub ctx hash entry : List Byte) : Bool :=
  edValid c pub ctx hash entry && mlValid c pub ctx hash entry

/-- AES-256-GCM opening; a failed primitive fails every tag. -/
def gcmOpen (c : Chip) (key nonce aad ct : List Byte) : Option (List Byte) :=
  if primBad c 2 then none else Config.aesGcmOpen key nonce aad ct

/-! ## The module's own keys (18 R531) -/

/-- What the boot ROM derives at every start from the device secret under a label, by SHA3-256: the label, then the secret's
32 bytes. DEDUCED from the order of 18 R537 (log 5). -/
def derived (f : Fuses) (label : String) : List Byte := sha3_256 (ascii label ++ leBytes 32 f.secret)

/-- The seed of the identity signing keys. -/
def signSeed (f : Fuses) : List Byte := derived f "QZ7 identity sign 1"

/-- The seed of the key-agreement keys. -/
def agreeSeed (f : Fuses) : List Byte := derived f "QZ7 identity agree 1"

/-- The fused key-agreement identifier (A000h:03, 18 R530). -/
def agreeId (f : Fuses) : List Byte := slice f.agree 0 32

/-- The recipient of the wrap entries that the module opens: the identifier of its derived keys (09 R274, 18 R531). -/
def recipientId (f : Fuses) : List Byte := sha3_256 (Config.agreeX25519 (agreeSeed f) ++ Config.agreeMlKem (agreeSeed f))

/-- The content key in a wrap entry (09 R274 steps 1 to 3). -/
def unwrapKey (f : Fuses) (c : Chip) (entry aad : List Byte) : Option (List Byte) :=
  if primBad c 0 || primBad c 5 || primBad c 6 then none
  else
    let ct := slice entry 32 1088
    let eph := slice entry 1120 32
    let kek := sha3_256 (ascii "Terot wrap 1" ++ Config.mlKemDecaps (agreeSeed f) ct ++ Config.x25519Shared (agreeSeed f) eph ++
      ct ++ eph ++ slice entry 0 32)
    gcmOpen c kek (List.replicate 12 0) aad (slice entry 1152 48)

/-- Bytes of a chunk (09 R273). -/
def chunkBytes : Nat := 1048576

/-- Bytes of a stored chunk with its tag. -/
def chunkStored : Nat := 1048592

/-- Open chunk i of section s (09 R273). -/
def openChunk (c : Chip) (key cid : List Byte) (s type plain i : Nat) (stored : List Byte) : Option (List Byte) :=
  gcmOpen c key (leBytes 4 s ++ leBytes 8 i) (slice cid 0 16 ++ leBytes 2 type ++ leBytes 8 plain) stored

/-! ## The manifest (06 R151 to R155) -/

/-- A status and its detail, none where the check holds. -/
abbrev Verdict := Option (Nat × Nat)

/-- Refuse with a status and a detail unless a condition holds. -/
def needs (b : Bool) (status detail : Nat) : Verdict := if b then none else some (status, detail)

/-- Section count. -/
def secCount (m : List Byte) : Nat := field m 12 4

/-- Offset of the signature block. -/
def sigOffset (m : List Byte) : Nat := field m 24 8

/-- End of the section table. -/
def tableEnd (m : List Byte) : Nat := 128 + 80 * secCount m

/-- Bytes of an entry of the section table. -/
def secBytes (m : List Byte) (i : Nat) : List Byte := slice m (128 + 80 * i) 80

/-- Entry i of the section table. -/
def secEnt (m : List Byte) (i : Nat) : SecEnt :=
  let b := secBytes m i
  { idx := i, type := field b 0 2, flags := field b 2 2, stepping := field b 4 1, off := field b 8 8,
    stored := field b 16 8, plain := field b 24 8, hash := slice b 32 48 }

/-- The section table. -/
def secTable (m : List Byte) : List SecEnt := (List.range (secCount m)).map (secEnt m)

/-- A section is encrypted. -/
def SecEnt.sealed (e : SecEnt) : Bool := bit e.flags 0

/-- A section is critical. -/
def SecEnt.critical (e : SecEnt) : Bool := bit e.flags 1

/-- The manifest hash (06 R151). -/
def manifestHash (m : List Byte) : List Byte := sha3_384 (m.take (tableEnd m))

/-- The header is well formed and of a kind (06 R152). -/
def headerOk (m : List Byte) (kind : Nat) : Bool :=
  m.take 8 == [0x54, 0x45, 0x52, 0x4F, 0x54, 0, 0, 0] && field m 8 2 == 0x0100 && field m 10 1 == kind &&
    decide (field m 11 1 < 2) && decide (1 ≤ secCount m) && decide (secCount m ≤ 1024) &&
    sigOffset m % 8 == 0 && allZero (slice m 56 72)

/-- An entry is well formed by itself (06 R153, 09 R273). -/
def entryOk (m : List Byte) (e : SecEnt) : Bool :=
  allZero (slice (secBytes m e.idx) 5 3) && decide (e.flags < 8) &&
    (if bit e.flags 2 then e.stepping == 0xB0 || e.stepping == 0xB1 else e.stepping == 0) &&
    e.off % 4096 == 0 &&
    e.stored == (if e.sealed then e.plain + 16 * cdiv e.plain chunkBytes else e.plain)

/-- The sections lie in order between an end and the signature block, without overlap (06 R154). -/
def orderFail (sig : Nat) : Nat → Option Nat → List SecEnt → Option Nat
  | _, _, [] => none
  | fin, prev, e :: t =>
    if e.off < fin ∨ sig < e.off + e.stored ∨ prev.any (fun o => decide (e.off ≤ o)) then some e.idx
    else orderFail sig (e.off + e.stored) (some e.off) t

/-- The section table against R153 and R154; the detail is the failing section, or the header. -/
def tableVerdict (m : List Byte) (signers : Nat) : Verdict :=
  let t := secTable m
  match t.find? (fun e => !entryOk m e) with
  | some e => some (0x0103, e.idx)
  | none =>
    match orderFail (sigOffset m) (tableEnd m) none t with
    | some i => some (0x0103, i)
    | none => needs (tableEnd m ≤ sigOffset m && field m 16 8 == sigOffset m + 8 + 3408 * signers) 0x0103 ones32

/-- Types of R155 that a container knows. -/
def knownType (t : Nat) : Bool := (1 ≤ t && t ≤ 10) || t == 0x0100 || t == 0x0101 || t == 0x0102

/-- An unknown critical section (06 R155). -/
def unknownCritical (m : List Byte) : Verdict :=
  match (secTable m).find? (fun e => e.critical && !knownType e.type) with
  | some e => some (0x0105, e.idx)
  | none => none

/-! ## The signature block (06 R156 R157) -/

/-- Signers of a signature block. -/
def signerCount (sb : List Byte) : Nat := field sb 0 2

/-- Signer entry i. -/
def signerEntry (sb : List Byte) (i : Nat) : List Byte := slice sb (8 + 3408 * i) 3408

/-- The structure of the signature block. -/
def sigBlockOk (sb : List Byte) : Bool :=
  decide (1 ≤ signerCount sb) && decide (signerCount sb ≤ 4) && allZero (slice sb 2 6) &&
    (List.range (signerCount sb)).all (fun i => allZero (slice (signerEntry sb i) 3405 3))

/-- The occupied key slots of an index: their keys. -/
def keySlots (c : Chip) (index n : Nat) : List (List Byte) :=
  ((List.range n).map (fun k => smGet [] c.blobs (key index (k + 1)))).filter (fun b => !allZero b)

/-- The slot key that a signer entry names. -/
def slotFor (slots : List (List Byte)) (entry : List Byte) : Option (List Byte) :=
  slots.find? (fun pub => keyId pub == entry.take 32)

/-- Acceptance by signature (06 R157). -/
def signVerdict (c : Chip) (slots : List (List Byte)) (ctx hash sb : List Byte) : Verdict :=
  let hits := (List.range (signerCount sb)).filterMap (fun i =>
    (slotFor slots (signerEntry sb i)).map (fun pub => (i, pub)))
  if hits.isEmpty then some (0x0201, 0)
  else hits.findSome? (fun x =>
    if !edValid c x.2 ctx hash (signerEntry sb x.1) then some (0x0202, x.1)
    else if !mlValid c x.2 ctx hash (signerEntry sb x.1) then some (0x0203, x.1)
    else none)

/-! ## Reading the staging window (06 R165, 07 R201, 09 R278) -/

/-- Module address of the load staging window, at the top of stack 0. -/
def stagingBase (c : Chip) : Nat := 0x1400000000 - reg c (key 0x4002 1)

/-- Offset and length lie within the staging window. -/
def inStaging (c : Chip) (off len : Nat) : Bool := decide (off + len ≤ reg c (key 0x4002 1))

/-- Read len bytes of the staging window from an offset. -/
def readStaging (c : Chip) (off len : Nat) : Chip × List Byte :=
  let a := stagingBase c + off
  let r := (List.range (cdiv (a % 64 + len) 64)).foldl (fun (x : Chip × List Byte) (i : Nat) =>
    let g := readGran x.1 (a / 64 * 64 + 64 * i) .apart false
    (g.1, x.2 ++ g.2.1)) (c, [])
  (r.1, (r.2.drop (a % 64)).take len)

end Sys2Proof.Machine
end

