-- ==== Sys2Proof/Machine/Build.lean ====
section
/-! DEFINITION. Builds (09 R270 to R284 R294): the head image and its checks, feeds, finish and abandon;
and the immediate and scheduled switches that the controller writes (R285). -/

namespace Sys2Proof.Machine

/-! ## Steps that are over -/

/-- The cut-off of a step has passed, or the step is earlier than the current one (09 R285, 13 R423). -/
def stepPassed (c : Chip) (t : Nat) : Bool :=
  decide (t < c.plan.step) || (t == c.plan.step && (pastCut c || c.plan.pendingBoundary))

/-- The controller's immediate actions are open: the plan state is Empty, Loaded or Halted. -/
def atRest (c : Chip) : Bool := !runs c

/-! ## The weight index (09 R271 R272) -/

/-- Shards of an index. -/
def ixShards (x : List Byte) : Nat := field x 4 4

/-- Records of an index. -/
def ixRecords (x : List Byte) : Nat := field x 8 4

/-- Copy length of a shard. -/
def ixLen (x : List Byte) (s : Nat) : Nat := field x (64 + 8 * s) 8

/-- Bytes of record r. -/
def ixRec (x : List Byte) (r : Nat) : List Byte := slice x (64 + 8 * ixShards x + 32 * r) 32

/-- Plaintext length of chunk i of a section. -/
def chunkLen (plain i : Nat) : Nat := min chunkBytes (plain - chunkBytes * i)

/-- Chunks of a section. -/
def chunkCount (plain : Nat) : Nat := cdiv plain chunkBytes

/-- The chunks of record r, with their plaintext offsets in the copy. -/
def recChunks (plain : Nat → Nat) (x : List Byte) (r : Nat) : List WChunk :=
  let b := ixRec x r
  let sec := field b 4 2
  let first := field b 8 8
  (List.range (field b 16 4)).map (fun k =>
    ⟨r, sec, first + k, field b 24 8 + chunkBytes * k, chunkLen (plain sec) (first + k)⟩)

/-- Plaintext bytes of a record. -/
def recBytesLen (plain : Nat → Nat) (x : List Byte) (r : Nat) : Nat :=
  (recChunks plain x r).foldl (fun n k => n + k.len) 0

/-- Where the plaintext of record r must end: the next record's destination, or the shard's length. -/
def recEnd (x : List Byte) (r : Nat) : Nat :=
  let s := field (ixRec x r) 0 4
  if r + 1 < ixRecords x ∧ field (ixRec x (r + 1)) 0 4 = s then field (ixRec x (r + 1)) 24 8 else ixLen x s

/-- Record r against R271 and R272, of sections whose kind and plain length are given. -/
def recOk (data : Nat → Bool) (plain : Nat → Nat) (x : List Byte) (r : Nat) : Bool :=
  let b := ixRec x r
  let s := field b 0 4
  let dst := field b 24 8
  let prev := ixRec x (r - 1)
  let start := r == 0 || field prev 0 4 != s
  allZero (slice b 6 2) && allZero (slice b 20 4) && decide (1 ≤ field b 16 4) && decide (s < ixShards x) &&
    data (field b 4 2) && decide (field b 8 8 + field b 16 4 ≤ chunkCount (plain (field b 4 2))) &&
    (r == 0 || decide (field prev 0 4 < s) || (field prev 0 4 == s && decide (field prev 24 8 < dst))) &&
    (!start || dst == 0) && dst + recBytesLen plain x r == recEnd x r

/-- Two records name a chunk of one section in common. -/
def recsMeet (x : List Byte) (r q : Nat) : Bool :=
  let a := ixRec x r
  let b := ixRec x q
  field a 4 2 == field b 4 2 && decide (field a 8 8 < field b 8 8 + field b 16 4) &&
    decide (field b 8 8 < field a 8 8 + field a 16 4)

/-- The header of an index (09 R271). -/
def ixHeadOk (x : List Byte) : Bool :=
  (field x 0 1 == 1 || field x 0 1 == 2) && allZero (slice x 1 3) && decide (1 ≤ ixShards x) &&
    decide (ixShards x ≤ 262144) && allZero (slice x 12 4) && allZero (slice x 48 16) &&
    x.length == 64 + 8 * ixShards x + 32 * ixRecords x &&
    (List.range (ixShards x)).all (fun s => ixLen x s % 64 == 0 &&
      (ixLen x s == 0 || (List.range (ixRecords x)).any (fun r => field (ixRec x r) 0 4 == s)))

/-- The first record that breaks R272; an index whose header breaks R271 fails at record 0. -/
def ixVerdict (data : Nat → Bool) (plain : Nat → Nat) (x : List Byte) : Verdict :=
  needs (ixHeadOk x) 0x0301 0 <|>
  (List.range (ixRecords x)).findSome? (fun r =>
    needs (recOk data plain x r && !(List.range r).any (recsMeet x r)) 0x0301 r)

/-! ## The head image (09 R278) -/

/-- The four parts of a head image. -/
structure Head where
  manifest : List Byte
  index : List Byte
  sigs : List Byte
  wrap : List Byte
  deriving DecidableEq, Repr

/-- The index entry of a section table. -/
def indexEnt (m : List Byte) : Option SecEnt := (secTable m).find? (fun e => e.type == 0x0100)

/-- The head image cut into its parts; none where its length is not their sum. -/
def cutHead (b : List Byte) : Option Head :=
  let te := tableEnd b
  if b.length < te then none
  else
    let n := match indexEnt b with
      | some e => e.stored
      | none => 0
    let sb := b.drop (te + n)
    let sl := 8 + 3408 * signerCount sb
    if b.length = te + n + sl + 1200 then
      some ⟨b.take te, slice b te n, sb.take sl, (sb.drop sl).take 1200⟩
    else none

/-- The sections that R270 asks for and allows. -/
def weightSections (m : List Byte) : Bool :=
  let t := secTable m
  let n := fun k => (t.filter (fun e => e.type == k)).length
  n 0x0100 == 1 && decide (n 0x0101 ≤ 1) && decide (1 ≤ n 0x0102) &&
    t.all (fun e => !(decide (1 ≤ e.type) && decide (e.type ≤ 10)) &&
      (if e.type = 0x0102 then e.sealed else if e.type = 0x0100 ∨ e.type = 0x0101 then !e.sealed else true))

/-- The index kind that a target accepts (09 R265). -/
def kindFits (kind target : Nat) : Bool := if target < 2 then kind == 1 else kind == 2

/-- A section of a manifest holds weight data. -/
def isData (m : List Byte) (i : Nat) : Bool := decide (i < secCount m) && (secEnt m i).type == 0x0102

/-- Plain length of a section. -/
def plainLen (m : List Byte) (i : Nat) : Nat := (secEnt m i).plain

/-- Checks 2 to 10 of R278. -/
def headVerdict (c : Chip) (h : Head) (shard target : Nat) : Verdict :=
  let x := h.index
  needs (headerOk h.manifest 2 && sigBlockOk h.sigs) 0x0102 0 <|>
  needs ((tableVerdict h.manifest (signerCount h.sigs)).isNone && weightSections h.manifest) 0x0103 0 <|>
  needs (unknownCritical h.manifest).isNone 0x0105 0 <|>
  signVerdict c (keySlots c 0xA010 8) (ascii "Terot weights 1") (manifestHash h.manifest) h.sigs <|>
  needs (sha3_384 x == ((indexEnt h.manifest).map (·.hash)).getD []) 0x0104 0 <|>
  ixVerdict (isData h.manifest) (plainLen h.manifest) x <|>
  needs (decide (shard < ixShards x) && decide (0 < ixLen x shard)) 0x0302 0 <|>
  needs (kindFits (field x 0 1) target) 0x0303 0

/-- The content key of a head image, or the status of checks 11 to 13. -/
def headKey (f : Fuses) (c : Chip) (h : Head) : Except (Nat × Nat) (List Byte) :=
  if h.wrap.take 32 ≠ recipientId f then .error (0x0204, 0)
  else
    match unwrapKey f c h.wrap (manifestHash h.manifest) with
    | none => .error (0x0205, 0)
    | some k =>
      if !primBad c 0 ∧ sha3_256 (ascii "Terot key check 1" ++ k) = slice h.index 16 32 then .ok k
      else .error (0x0206, 0)

/-- The tier is there for every stack or channel (check 15). -/
def tierThere (c : Chip) (tier : Nat) : Bool :=
  if tier = 0 then decide (0 < reg c (key 0x4000 1))
  else decide (0 < reg c (key 0x4000 2)) && (List.range 8).all (fun ch => reg c (key 0x4012 (ch + 1)) == 1)

/-- A copy position of an entry is Free. -/
def hasFree (x : WEntry) : Bool := x.a.st == .free || x.b.st == .free

/-- Checks 14 to 16 of R278. -/
def openVerdict (c : Chip) (target tier step : Nat) : Verdict :=
  needs (if step = atOnce64 then atRest c else planHeld c && !stepPassed c step) 0x0406 target <|>
  needs (tierThere c tier) 0x0405 0 <|>
  needs (target == 0xFF || hasFree (wentry c target)) 0x0402 target

/-- Where the head image lies is not as check 1 asks: the window, and 17 MiB. -/
def headPlaced (c : Chip) (off len : Nat) : Bool := inStaging c off len && decide (len ≤ 17825792)

/-- The build that a head image opens, or the status and detail of the check that fails. -/
def openHead (f : Fuses) (c : Chip) (b : List Byte) : Except (Nat × Nat) Build :=
  let shard := reg c (key 0x7010 3)
  let target := reg c (key 0x7010 2)
  let tier := reg c (key 0x7010 4)
  let step := reg c (key 0x7010 5)
  match cutHead b with
  | none => .error (0x0101, 0)
  | some h =>
    match headVerdict c h shard target with
    | some e => .error e
    | none =>
      match headKey f c h with
      | .error e => .error e
      | .ok k =>
        match openVerdict c target tier step with
        | some e => .error e
        | none =>
          let chunks := (List.range (ixRecords h.index)).flatMap (fun r =>
            if field (ixRec h.index r) 0 4 = shard then recChunks (plainLen h.manifest) h.index r else [])
          .ok { target := target, second := false, building := false, genAsk := reg c (key 0x7010 14), openAt := step,
                tier := tier, len := ixLen h.index shard, mhash := manifestHash h.manifest, cid := slice h.manifest 32 16,
                key := k, plain := (List.range (secCount h.manifest)).map (plainLen h.manifest), chunks := chunks,
                feeding := none }

/-! ## The commands -/

/-- The copy of an open build stands in Opening in a named target. -/
def markOpening (c : Chip) (b : Build) : Chip :=
  if b.target = 0xFF then c
  else
    let x := wentry c b.target
    let k : WCopy := ⟨.opening, if b.genAsk = 0xFF then (x.last + 1) % 4 else b.genAsk, b.tier, b.len, 0, []⟩
    setWentry c b.target (if x.a.st = .free then { x with a := k } else { x with b := k })

/-- Build command 1 (09 R278 R280). -/
def buildOpen (f : Fuses) (c : Chip) : Chip :=
  let off := reg c (key 0x7010 6)
  let len := reg c (key 0x7010 7)
  let target := reg c (key 0x7010 2)
  if !headPlaced c off len then failBuild c .apart 0x0101 0 target
  else
    let r := readStaging c off len
    match openHead f r.1 r.2 with
    | .error e => failBuild r.1 .apart e.1 e.2 target
    | .ok b =>
      let c := setReg { r.1 with wts := { r.1.wts with build := some b } } (key 0x7010 13) 0
      if b.openAt = atOnce64 then noticeDigest c (applyOpening c b none).1
      else setReg (setBuild (markOpening c b) 2 0) (key 0x7010 12) b.target

/-- The shortest run of chunks of one record whose stored bytes make up a length; none where no whole run
does (09 R282). -/
def takeRun (record : Nat) : List WChunk → Nat → Option (List WChunk)
  | [], _ => none
  | k :: t, n =>
    if k.record ≠ record ∨ n < k.len + 16 then none
    else if n = k.len + 16 then some [k]
    else (takeRun record t (n - (k.len + 16))).map (k :: ·)

/-- Build command 2: the next chunks, whole and of one record, are taken from the staging window. A feed
that reaches past the window is refused like one past its record: DESIGN CHOICE (log 25). -/
def buildFeed (c : Chip) : Chip :=
  match c.wts.build with
  | none => c
  | some b =>
    let off := reg c (key 0x7010 6)
    let len := reg c (key 0x7010 7)
    match b.chunks with
    | [] => setBuild c 0x0501 0
    | k :: _ =>
      if reg c (key 0x7010 8) ≠ k.sec ∨ reg c (key 0x7010 9) ≠ k.chunk then setBuild c 0x0501 k.record
      else
        match takeRun k.record b.chunks len with
        | none => setBuild c 0x0503 k.record
        | some l =>
          if !inStaging c off len then setBuild c 0x0503 k.record
          else
            let r := readStaging c off len
            setBuild { r.1 with wts := { r.1.wts with build := some { b with feeding := some (l, r.2) } } } 1 0

/-- The copy that an open build writes. -/
def buildCopy (c : Chip) (b : Build) : WCopy :=
  let x := wentry c b.target
  if b.second then x.b else x.a

/-- Write bytes of a copy from a byte offset. -/
def putCopy (c : Chip) (k : WCopy) (off : Nat) (d : List Byte) : Chip :=
  let l0 := off / 64
  let n := if d.isEmpty then 0 else (off + d.length - 1) / 64 - l0 + 1
  (List.range n).foldl (fun c (i : Nat) =>
    let lo := 64 * (l0 + i)
    let s := max off lo
    let e := min (off + d.length) (lo + 64)
    let g := List.replicate (s - lo) 0 ++ slice d (s - off) (e - s)
    writePart c (copyLine c k (l0 + i)) g ((2 ^ (e - s) - 1) * 2 ^ (s - lo)) false) c

/-- Verify, decrypt and write the chunks of a feed in order; the chunk whose tag fails, if any
(09 R282). -/
def feedChunks (b : Build) (k : WCopy) : List WChunk → List Byte → Chip → Chip × Option WChunk
  | [], _, c => (c, none)
  | x :: t, bytes, c =>
    match openChunk c b.key b.cid x.sec 0x0102 (b.plain.getD x.sec 0) x.chunk (bytes.take (x.len + 16)) with
    | none => (c, some x)
    | some d =>
      let c := putCopy c k x.off (slice d 0 x.len)
      let c := addReg (addReg c (key 0x7010 13) x.len) (key 0x7040 7) 1
      feedChunks b k t (bytes.drop (x.len + 16)) c

/-- The copy lies in space freed at a boundary that no later boundary has followed (09 R293). -/
def spaceHeld (c : Chip) (k : WCopy) : Bool :=
  c.wts.freed.any (fun (tier, o, n, _) => tier == k.tier && decide (k.off < o + n) && decide (o < k.off + copySpan k.len))

/-- BUILD_FEED_DONE. -/
def fFeedDone (c : Chip) : Chip :=
  match c.wts.build with
  | none => c
  | some b =>
    match b.feeding with
    | none => c
    | some (l, bytes) =>
      let k := buildCopy c b
      if spaceHeld c k || c.time.changing then c
      else
        let r := feedChunks b k l bytes c
        match r.2 with
        | some x => failBuild (freeBuildCopy r.1 b) .apart 0x0502 (x.sec + x.chunk % 65536 * 65536) b.target
        | none =>
          let b := { b with feeding := none, chunks := b.chunks.drop l.length }
          setBuild { r.1 with wts := { r.1.wts with build := some b } } 3 0

/-- The generation hash (09 R283). -/
def genHash (b : Build) (g : Nat) : List Byte := sha3_256 (b.mhash ++ leBytes 1 b.target ++ leBytes 1 g)

/-- A finished copy becomes Ready; an earlier Ready copy of its entry is discarded by it (09 R283 R284; the moment is
DEDUCED, log 33). -/
def readyCopy (b : Build) (k : WCopy) : WCopy :=
  match k.st with
  | .building => { k with st := .ready, hash := genHash b k.gen }
  | .ready => WCopy.none
  | _ => k

/-- Build command 3. -/
def buildFinish (c : Chip) : Chip :=
  match c.wts.build with
  | none => c
  | some b =>
    if !b.chunks.isEmpty then setBuild c 0x0601 0
    else
      let c := modCopies c b.target (readyCopy b)
      let c := setBuild { c with wts := { c.wts with build := none } } 0 0
      setReg (setReg (addReg c (key 0x7040 1) 1) (key 0x7010 12) 0xFF) (key 0x7010 13) 0

/-- Build command 4. -/
def buildAbandon (c : Chip) : Chip :=
  match c.wts.build with
  | none => c
  | some b => failBuild (freeBuildCopy c b) .apart 0x0603 0 b.target

/-- The abort code of a build command, 0 where it is taken (09 R277); a value that names no command meets the
range check after it (15 R468). -/
def buildCode (c : Chip) (v : Nat) : Nat :=
  let isOpen := c.wts.build.isSome
  let building := match c.wts.build with
    | some b => b.building
    | none => false
  if reg c (key 0x7010 10) = 1 then 0x03000002
  else if (v = 1 ∧ isOpen) ∨ ((v = 2 ∨ v = 3) ∧ !building) ∨ (v = 4 ∧ !isOpen) then 0x03000003
  else 0

/-- A build command. -/
def buildCommand (f : Fuses) (c : Chip) (v : Nat) : Chip :=
  match v with
  | 1 => buildOpen f c
  | 2 => buildFeed c
  | 3 => buildFinish c
  | 4 => buildAbandon c
  | _ => c

/-! ## Switches (09 R285) -/

/-- The abort code of a write of a switch step, 0 where it is accepted. -/
def switchCode (c : Chip) (e t : Nat) : Nat :=
  if t = ones64 then 0
  else if t = atOnce64 then
    (if atRest c && (copyIn (wentry c e) .ready).isSome then 0 else 0x03000003)
  else if stepPassed c t then 0x03000004
  else 0

/-- Steps 1, 2 and 4 of action 4 for one entry, at once. -/
def switchNow (c : Chip) (e : Nat) : Chip :=
  let before := c
  let c := (applySwitch c e none).1
  noticeDigest before (evictEverywhere (freeDrained c [e] none))

/-- A write of a switch step that is accepted: the entry holds it, or the switch runs. A switch that a
cut-off has kept is applied whatever is written since (15 R453). -/
def writeSwitch (c : Chip) (e t : Nat) : Chip :=
  if t = atOnce64 then switchNow c e else setReg c (key 0x7020 (e + 1)) t

/-- BUILD_FEED_DONE. -/
def execBuildFeedDone (s : State) : Host.Outcome State Fault Refusal := onRunning s fFeedDone

end Sys2Proof.Machine
end

