-- ==== Sys2Proof/Machine/Injection.lean ====
section
/-! DEFINITION. Error injection (14 R443 R444): the start with its location check, and one opportunity of an
armed injection. -/

namespace Sys2Proof.Machine

/-- The bits of F010h:02 that belong to the fields of a kind; kinds 5 and 6 take their location from
F010h:05 (log 26). -/
def locBits (kind : Nat) : Nat :=
  match kind with
  | 1 => 0x37FFF
  | 2 => 0x73FFF
  | 3 => 0xFFFF00FF
  | 4 => 0xFFFF00FF
  | 7 => 0xFF
  | 8 => 0x7FF
  | _ => 0xFFFFFFFF

/-- The tile site of a location is bound; a disabled or parked site is not (05 R123). -/
def locSite (c : Chip) (loc : Nat) : Bool := decide (bits loc 7 0 < 192) && siteBound c (bits loc 7 0)

/-- The port of a location is trained. -/
def locPort (c : Chip) (loc : Nat) : Bool :=
  decide (bits loc 7 0 < 32) && (portAt c (bits loc 7 0)).st == .active

/-- The module address of a location exists in trained memory of the kind's tier (07 R215). -/
def locMem (c : Chip) (kind a : Nat) : Bool :=
  match areaOf a with
  | .hbm s _ => kind == 5 && reg c (key 0x4011 (s + 1)) == 1
  | .mrdimm ch o => kind == 6 && reg c (key 0x4012 (ch + 1)) == 1 && decide (o < reg c (key 0x4010 (ch + 1)))
  | _ => false

/-- The location suits the kind in force (14 R444). -/
def locOk (c : Chip) (kind loc a : Nat) : Bool :=
  loc &&& locBits kind == loc && (match kind with
    | 1 => locSite c loc
    | 2 => locSite c loc && decide (bits loc 18 16 ≤ 4)
    | 3 => locSite c loc && decide (bits loc 31 16 < 49152)
    | 4 => locSite c loc && decide (bits loc 31 16 < 49152)
    | 5 => locMem c kind a
    | 6 => locMem c kind a
    | 7 => locPort c loc
    | 8 => locPort c loc && decide (bits loc 10 8 ≤ 4)
    | _ => false)

/-- A start: it replaces an injection still armed or applying, and arms where the location is right. -/
def startInjection (c : Chip) : Chip :=
  let kind := reg c (key 0xF010 1)
  let loc := reg c (key 0xF010 2)
  let at4 := reg c (key 0xF010 4)
  let at5 := reg c (key 0xF010 5)
  let from? := if kind = 5 ∨ kind = 6 ∨ at4 = ones64 then none else some (at4, at5 % 4294967296)
  let j : Inject := { kind := kind, loc := loc, left := reg c (key 0xF010 3), from? := from?, param := at4,
                      addr := at5, applied := false }
  if locOk c kind loc at5 then setInj { c with err := { c.err with inj := some j } } 1
  else setInj { c with err := { c.err with inj := none } } 4

/-- INJECTION_APPLY brings an armed injection the opportunity that it waits for, where this module gives one of itself: for
kinds 3 to 6 its granule is written again with what it holds, for kinds 7 and 8 the next carriage or superframe of its port
is the one. The opportunities of kinds 1 and 2 are vectors and instructions alone, and it changes nothing. DESIGN CHOICE
(log 26). -/
def bringInjection (c : Chip) (j : Inject) : Chip :=
  match injGran j with
  | some g => writeGran c (64 * g) (memBytes c.mem (64 * g) 64) (granPoison c (64 * g))
  | none => match j.kind with
    | 7 => spendInj (modPort c (bits j.loc 7 0) (fun q => { q with badCrc := q.badCrc + 1 })) j
    | 8 => spendInj (modPort c (bits j.loc 7 0) (fun q => { q with badLane := some (bits j.loc 10 8, 1) })) j
    | _ => c

/-- The place whose opportunities an injection waits for: a granule for kinds 3 to 6, a port for kinds 7 and 8. -/
def injPlace (j : Inject) : Nat := (injGran j).getD (bits j.loc 7 0)

/-- INJECTION_APPLY: an opportunity at a place comes, which an injection armed for another place is not met by. -/
def fInjectionApply (place : Nat) (c : Chip) : Chip :=
  match injFor c (fun j => injPlace j == place) with
  | some j => bringInjection c j
  | none => c

/-- INJECTION_APPLY. -/
def execInjectionApply (place : Nat) (s : State) : Host.Outcome State Fault Refusal := onRunning s (fInjectionApply place)

end Sys2Proof.Machine
end

