-- ==== Sys2Proof/Machine/PlanParse.lean ====
section
/-! DEFINITION. The sections of a plan container, read and checked in the order of a load's phases 2 and
3 (06 R158 to R165, 16 R497, 12 R375). -/

namespace Sys2Proof.Machine

/-! ## Phase 2: verifying the copy -/

/-- The stored bytes of a section of a container. -/
def storedBytes (b : List Byte) (e : SecEnt) : List Byte := slice b e.off e.stored

/-- The manifest with the hash field of the key wrap section set to 0 (09 R275). -/
def wrapFree (b : List Byte) (w : SecEnt) : List Byte :=
  splice (b.take (tableEnd b)) (128 + 80 * w.idx + 32) (List.replicate 48 0)

/-- The module's wrap entry in a key wrap section. -/
def wrapEntry (f : Fuses) (bytes : List Byte) : Option (List Byte) :=
  ((List.range (bytes.length / 1200)).map (fun k => slice bytes (1200 * k) 1200)).find?
    (fun x => x.take 32 == recipientId f)

/-- The plaintext of a sealed section: every chunk opened. -/
def openSection (c : Chip) (key cid : List Byte) (b : List Byte) (e : SecEnt) : Option (List Byte) :=
  (List.range (cdiv e.plain chunkBytes)).foldl (fun (acc : Option (List Byte)) (i : Nat) =>
    match acc with
    | none => none
    | some d =>
      let n := min chunkStored (e.stored - chunkStored * i)
      (openChunk c key cid e.idx e.type e.plain i (slice (storedBytes b e) (chunkStored * i) n)).map (d ++ ·)) (some [])

/-- Every section in the clear, or the index of the section that could not be unwrapped or decrypted
(status 0204h). -/
def plainSections (f : Fuses) (c : Chip) (b : List Byte) : Except Nat (List Plain) :=
  let t := secTable b
  match t.find? SecEnt.sealed with
  | none => .ok (t.map (fun e => (e, storedBytes b e)))
  | some first =>
    match t.find? (fun e => e.type == 0x0101) with
    | none => .error first.idx
    | some w =>
      let key := if w.sealed then none
        else (wrapEntry f (storedBytes b w)).bind (fun x => unwrapKey f c x (sha3_384 (wrapFree b w)))
      match key with
      | none => .error w.idx
      | some k =>
        t.foldr (fun e acc =>
          let here := if e.sealed then openSection c k (slice b 32 16) b e else some (storedBytes b e)
          match here, acc with
          | none, _ => .error e.idx
          | some d, .ok l => .ok ((e, d) :: l)
          | some _, .error i => .error i) (.ok [])

/-- Phase 2 of a load up to the signatures. -/
def verifyCopy (c : Chip) (b : List Byte) : Verdict :=
  let sb := b.drop (sigOffset b)
  needs (b.length == field b 16 8) 0x0101 ones32 <|>
  needs (headerOk b 1) 0x0102 ones32 <|>
  tableVerdict b (signerCount sb) <|>
  needs (sigBlockOk sb) 0x0102 (ones32 - 1) <|>
  unknownCritical b <|>
  (secTable b).findSome? (fun e => needs (sha3_384 (storedBytes b e) == e.hash) 0x0104 e.idx) <|>
  signVerdict c (keySlots c 0xA020 4) (ascii "Terot plan 1") (manifestHash b) sb

/-! ## Phase 3: reading the sections -/

/-- The bytes of the sections of a type. -/
def ofType (ss : List Plain) (t : Nat) : List (List Byte) :=
  (ss.filter (fun x => x.1.type == t)).map (·.2)

/-- The bytes of the section of a type, empty where there is none. -/
def theSection (ss : List Plain) (t : Nat) : List Byte := (ofType ss t).headD []

/-- No element stands twice. -/
def distinct : List Nat → Bool
  | [] => true
  | x :: t => !t.contains x && distinct t

/-- Counts and types of R155. -/
def countsOk (ss : List Plain) : Bool :=
  let n := fun t => (ofType ss t).length
  let st := ss.filter (fun x => x.1.type == 2)
  [1, 3, 4, 5, 8].all (fun t => n t == 1) && decide (n 6 ≤ 1) && n 7 == n 6 && decide (n 9 ≤ 1) &&
    decide (n 0x0101 ≤ 1) && n 0x0100 == 0 && n 0x0102 == 0 &&
    st.all (fun x => bit x.1.flags 2) && distinct (st.map (·.1.stepping))

/-- The plan header (06 R158). -/
def readHdr (b : List Byte) : PlanHdr :=
  { stepLen := field b 0 4, variants := field b 4 1, dflt := field b 5 1, tpd := field b 6 1, freq := field b 7 1,
    devices := field b 8 4, slack := field b 12 4, regions := field b 16 4, coachRows := field b 20 4 }

/-- The ranges of R158. -/
def hdrOk (h : PlanHdr) : Bool :=
  decide (2048 ≤ h.stepLen) && decide (h.stepLen ≤ 16777216) && decide (1 ≤ h.variants) && decide (h.variants ≤ 16) &&
    decide (h.dflt < h.variants) && decide (1 ≤ h.tpd) && decide (h.tpd ≤ 48) && decide (h.freq ≤ 3) &&
    decide (1 ≤ h.devices) && decide (h.devices ≤ 262144) && decide (1 ≤ h.slack) && decide (h.slack ≤ 65535) &&
    decide (1 ≤ h.regions) && decide (h.regions ≤ 65536) && decide (h.coachRows ≤ 2147483648)

/-- Pieces of n bytes each. -/
def pieces (b : List Byte) (n : Nat) : List (List Byte) :=
  (List.range (b.length / n)).map (fun k => slice b (n * k) n)

/-- A region entry (06 R160). -/
def readRegion (e : List Byte) : Region :=
  { num := field e 0 4, tier := field e 4 1, home := field e 5 1, cls := field e 6 1, striped := bit (field e 7 1) 0,
    zero := bit (field e 7 1) 1, size := field e 8 8, working := field e 16 4 }

/-- A region entry is well formed (06 R160, 07 R208). -/
def regionOk (e : List Byte) : Bool :=
  let r := readRegion e
  decide (r.num ≤ 65535) && decide (r.tier ≤ 2) && decide (r.home ≤ 3) && decide (r.cls ≤ 3) &&
    decide (field e 7 1 < 4) && r.size % (if r.striped then 8192 else 4096) == 0 && allZero (slice e 20 12) &&
    (if r.tier = 2 then r.size % 65536 == 0 && decide (r.working ≤ r.size / 65536) else r.working == 0)

/-- A coach row (06 R161). -/
def readCoach (e : List Byte) : CoachRow :=
  { src := field e 0 4, sendNo := field e 4 2, recvNo := field e 6 2, send := field e 8 4, release := field e 12 4,
    vmask := field e 16 2, k := field e 18 2, hops := field e 20 1,
    path := (List.range 5).map (fun i => field e (24 + 4 * i) 4) }

/-- A coach row is well formed, of a partition of n devices. -/
def coachOk (n : Nat) (e : List Byte) : Bool :=
  let r := readCoach e
  decide (r.sendNo ≤ 4095) && decide (r.recvNo ≤ 4095) && decide (1 ≤ r.k) && decide (r.k ≤ 256) &&
    decide (1 ≤ r.hops) && decide (r.hops ≤ 5) && allZero (slice e 21 3) && allZero (slice e 44 4) &&
    (r.src :: r.path.take r.hops).all (fun d => decide (d < n)) && (r.path.drop r.hops).all (· == ones32)

/-- Each pair of a device and a coach number identifies one row (06 R161). -/
def pairsOk (l : List CoachRow) : Bool :=
  distinct (l.map (fun r => r.src * 65536 + r.sendNo)) &&
    distinct (l.map (fun r => r.path.getD (r.hops - 1) 0 * 65536 + r.recvNo))

/-- The steward code section (16 R497). -/
def stewardOk (b : List Byte) : Bool :=
  let code := field b 4 4
  let data := field b 8 4
  let entry := field b 12 4
  field b 0 4 == 1 && decide (2 ≤ code) && decide (code ≤ 131072) && code % 2 == 0 && decide (data ≤ 327680) &&
    entry % 2 == 0 && decide (entry < code) && allZero (slice b 16 48) && b.length == 64 + code + data

/-- A slot table record (12 R376). -/
def readSlot (e : List Byte) : SlotRec :=
  { row := field e 0 4, hop := field e 4 1, next := bit (field e 5 1) 0, relNext := bit (field e 5 1) 1,
    stride := field e 6 2, first := field e 8 4, even := field e 12 2, odd := field e 14 2 }

/-- The header of a slot tables section is well formed (12 R375). -/
def slotsHeadOk (b : List Byte) : Bool :=
  let v := field b 0 1
  (v == 2 || v == 3) && allZero (slice b 1 3) && allZero (slice b 8 8) && b.length == 16 + 32 * field b 4 4

/-- A record of it is well formed by itself (12 R376). -/
def slotBytesOk (e : List Byte) : Bool :=
  decide (field e 5 1 < 4) && decide (1 ≤ field e 6 2) && allZero (slice e 16 16)

/-- What the slot tables section's own bytes break of R375 and R376, where the plan has one: whether its header is
malformed, and the coach row and hop that each malformed record names. -/
def slotsFault (ss : List Plain) : Bool × List (Nat × Nat) :=
  let b := theSection ss 7
  if (ofType ss 7).isEmpty then (false, [])
  else if slotsHeadOk b then
    (false, ((pieces (b.drop 16) 32).filter (fun e => !slotBytesOk e)).map (fun e => (field e 0 4, field e 4 1)))
  else (true, [])

/-- Every section whose structure the header sizes is well formed. The partition map's 2 reserved bytes stand here, so
that a value other than 0 is a malformed section, 0301h, and no fault of its tag or count: DESIGN CHOICE (log 24). -/
def sectionsOk (ss : List Plain) (h : PlanHdr) : Bool :=
  let rt := theSection ss 5
  let ct := theSection ss 6
  let pm := theSection ss 8
  (theSection ss 4).length == 8 * h.tpd && rt.length == 32 * h.regions && (pieces rt 32).all regionOk &&
    distinct ((pieces rt 32).map (fun e => field e 0 4)) && (pieces ct 48).all (coachOk h.devices) &&
    pairsOk ((pieces ct 48).map readCoach) && decide (8 ≤ pm.length) && allZero (slice pm 2 2) && pm.length % 4 == 0 &&
    (theSection ss 9).length % 4 == 0 && stewardOk (theSection ss 3) &&
    (ofType ss 10).all (fun b => decide (16 ≤ b.length) && allZero (slice b 12 4))

/-- The stream code section of a stepping. -/
def streamBytes (ss : List Plain) (stepping : Nat) : List Byte :=
  ((ss.find? (fun x => x.1.type == 2 && x.1.stepping == stepping)).map (·.2)).getD []

/-- The plan of a container's sections, for a stepping. -/
def planImage (ss : List Plain) (hash : List Byte) (stepping : Nat) : PlanImage :=
  let h := readHdr (theSection ss 1)
  let tm := theSection ss 4
  let pm := theSection ss 8
  let wr := theSection ss 9
  let sw := theSection ss 3
  let sl := theSection ss 7
  { hash := hash, hdr := h, tmasks := (pieces tm 2).map leNat, regions := (pieces (theSection ss 5) 32).map readRegion,
    coaches := (pieces (theSection ss 6) 48).map readCoach, slotVersion := field sl 0 1,
    slots := (pieces (sl.drop 16) 32).map readSlot, tag := field pm 0 2,
    devIds := (pieces (pm.drop 8) 4).map leNat, weights := (pieces wr 4).map leNat,
    code := slice sw 64 (field sw 4 4), data := slice sw (64 + field sw 4 4) (field sw 8 4), entry := field sw 12 4,
    init := (ofType ss 10).map (fun b => ⟨field b 0 4, field b 4 8, b.drop 16⟩),
    stream := streamBytes ss stepping,
    progs := (List.range h.variants).flatMap (fun v => (List.range 4).flatMap (fun d =>
      [Config.streamCode (streamBytes ss stepping) v d false, Config.streamCode (streamBytes ss stepping) v d true])) }

/-- The structural checks of phase 3 in their order (06 R165). The sections that the header sizes are
checked once it is known to be in range, and stream code that spells loops outside 05 R118 is a malformed section: DEDUCED
(log 24). -/
def structureVerdict (c : Chip) (ss : List Plain) (stepping : Nat) : Verdict :=
  let hb := theSection ss 1
  let h := readHdr hb
  let ct := theSection ss 6
  let im := planImage ss [] stepping
  needs (countsOk ss && hb.length == 64) 0x0301 0 <|>
  needs (ct.length % 48 == 0 && ct.length / 48 == h.coachRows) 0x0301 0 <|>
  needs (ss.any (fun x => x.1.type == 2 && x.1.stepping == stepping)) 0x0302 0 <|>
  needs (hdrOk h && allZero (slice hb 24 40)) 0x0303 0 <|>
  needs (sectionsOk ss h) 0x0301 0 <|>
  needs (im.progs.all (loopsOk 0)) 0x0301 0 <|>
  needs (h.freq == reg c (key 0x8000 1)) 0x0304 0 <|>
  needs (streamFits im) 0x0305 0 <|>
  needs (im.tmasks.all (fun m => bit m 0)) 0x0306 (im.tmasks.findIdx (fun m => !bit m 0)) <|>
  streamVerdict c im

end Sys2Proof.Machine
end

