-- ==== Sys2Proof/Machine/Placer.lean ====
section
/-! DEFINITION. The placer (06 R174 to R179) and the coach and slot checks (06 R170 to R173, 12 R377
R378 R381). -/

namespace Sys2Proof.Machine

/-! ## The link map (06 R174, 11 R361) -/

/-- The port that R35 assigns from a device to another. -/
def wiredPort (own other : Nat) : Option Nat := (List.range 31).find? (fun p => wiredPeer own p == some other)

/-- The link map marks a port as failed (11 R361). -/
def portFailed (c : Chip) (p : Nat) : Bool :=
  (portAt c p).st != .active || portWidth c p != 4 || wiredPeer (devId c) p != some (reg c (key (0x5100 + p) 9))

/-- Port 31 stands in for a port (12 R388). -/
def substitutes (c : Chip) (p : Nat) : Bool := reg c (key 0x5010 1) != 0 && reg c (key 0x5010 2) == p

/-! ## Tiles and regions (06 R175) -/

/-- Enabled site numbers of a die, ascending. -/
def enabledSites (f : Fuses) (d : Nat) : List Nat :=
  (List.range 48).filter (fun k => bit (f.maps.getD d 0) k)

/-- The sites of the logical tiles, in order. -/
def placeTiles (f : Fuses) (tpd : Nat) : List Nat :=
  (List.range 4).flatMap (fun d =>
    let e := enabledSites f d
    (List.range tpd).map (fun i => 48 * d + e.getD (i * e.length / tpd) 0))

/-- The placer's order of regions: home die, size descending, region number. -/
def regionLt (a b : Region) : Bool :=
  decide (a.home < b.home) || (a.home == b.home &&
    (decide (b.size < a.size) || (a.size == b.size && decide (a.num < b.num))))

/-- Where the placer stands: the next free byte of every stack quarter (4 × stack + quarter) and
channel, and the bindings so far, oldest first. -/
structure PlaceAcc where
  th : List Nat
  tm : List Nat
  hbm : List Bind
  mrd : List Bind
  deriving DecidableEq, Repr

/-- Nothing placed. -/
def PlaceAcc.start : PlaceAcc := ⟨List.replicate 32 0, List.replicate 8 0, [], []⟩

/-- The rule of R175 over a pair of units: tops before, bytes; the binding and the tops after. -/
def placePair (num tier a quarter : Nat) (striped : Bool) (t0 t1 n : Nat) : Bind × Nat × Nat :=
  if striped then
    let o := max t0 t1
    (⟨num, tier, a, some (a + 1), quarter, o⟩, o + n / 2, o + n / 2)
  else if t0 ≤ t1 then (⟨num, tier, a, none, quarter, t0⟩, t0 + n, t1)
  else (⟨num, tier, a + 1, none, quarter, t1⟩, t0, t1 + n)

/-- Bind a region. -/
def placeRegion (x : PlaceAcc) (r : Region) : PlaceAcc :=
  let a := 2 * r.home
  let x := if r.tier = 1 then x else
    let i := 4 * a + r.cls
    let b := placePair r.num r.tier a r.cls r.striped (x.th.getD i 0) (x.th.getD (i + 4) 0)
      (if r.tier = 0 then r.size else r.working * 65536)
    { x with th := listSet (listSet x.th i b.2.1) (i + 4) b.2.2, hbm := x.hbm ++ [b.1] }
  if r.tier = 0 then x else
    let b := placePair r.num r.tier a 0xFF r.striped (x.tm.getD a 0) (x.tm.getD (a + 1) 0) r.size
    { x with tm := listSet (listSet x.tm a b.2.1) (a + 1) b.2.2, mrd := x.mrd ++ [b.1] }

/-- Bind every region. -/
def placeRegions (l : List Region) : PlaceAcc := (sortBy regionLt l).foldl placeRegion PlaceAcc.start

/-! ## Coach hops -/

/-- The hops of the coach rows that leave or enter logical device x: row, hop, the other device. -/
def ownHops (im : PlanImage) (x : Nat) : List (Nat × Nat × Nat) :=
  im.coaches.zipIdx.flatMap (fun (r, i) =>
    let d := pathDevs r
    (List.range r.hops).filterMap (fun h =>
      let a := d.getD h 0
      let b := d.getD (h + 1) 0
      if a = x then some (i, h + 1, b) else if b = x then some (i, h + 1, a) else none))

/-- The port of a hop, or the status that refuses it. -/
def hopBinding (c : Chip) (im : PlanImage) (other : Nat) : Except Nat Nat :=
  match wiredPort (devId c) (im.devIds.getD other ones32) with
  | none => .error 0x0504
  | some p =>
    if portFailed c p then (if substitutes c p then .ok 31 else .error 0x0505) else .ok p

/-- Bind every hop, in ascending row and hop. -/
def placeHops (c : Chip) (im : PlanImage) : List (Nat × Nat × Nat) → Except (Nat × Nat) (List (Nat × Nat × Nat))
  | [] => .ok []
  | (row, hop, other) :: t =>
    match hopBinding c im other with
    | .error st => .error (st, row)
    | .ok p =>
      match placeHops c im t with
      | .error e => .error e
      | .ok l => .ok ((row, hop, p) :: l)

/-! ## Tables (06 R177) -/

/-- The tile binding table. -/
def tileTable (pl : Place) : List Byte := pl.sites.flatMap (leBytes 2)

/-- A row of the region binding table. The row of a tier 1 region has FFh for its quarter, as the second row of a tier 2
region has by R177: DESIGN CHOICE (log 35). -/
def bindRow (b : Bind) : List Byte :=
  leBytes 4 b.region ++ leBytes 1 b.tier ++ leBytes 1 (b.unit + 16 * b.unit2.getD 15) ++ leBytes 1 b.quarter ++ leBytes 1 0 ++
    leBytes 8 b.off

/-- The region binding table: ascending region number, a KV pool's HBM row first. -/
def regionTable (pl : Place) : List Byte :=
  (sortBy (fun (a b : Bind) => decide (a.region < b.region)) (pl.hbm ++ pl.mrd)).flatMap bindRow

/-- The coach port table. -/
def hopTable (pl : Place) : List Byte :=
  pl.hops.flatMap (fun (row, hop, p) => leBytes 4 row ++ leBytes 1 hop ++ leBytes 1 p ++ leBytes 2 0)

/-- The placement hash. -/
def placeHash (pl : Place) : List Byte := sha3_256 (tileTable pl ++ regionTable pl ++ hopTable pl)

/-! ## Phase 4 -/

/-- R162: the tag bits and the count, the details of which are 0, then a device ID that stands a second
time. -/
def mapVerdict (im : PlanImage) (count : Nat) : Verdict :=
  needs (decide (im.tag < 4096) && count == im.hdr.devices && im.devIds.length == count) 0x0403 0 <|>
  ((List.range im.devIds.length).find? (fun i => (im.devIds.take i).contains (im.devIds.getD i 0))).map (fun i => (0x0403, i))

/-- R163: every directory entry that the plan lists has a live generation. -/
def weightsVerdict (c : Chip) (im : PlanImage) : Verdict :=
  im.weights.findSome? (fun e => needs (decide (e < 66) && (copyIn (wentry c e) .live).isSome) 0x0404 e)

/-- The bytes a binding takes in each of its units. -/
def bytesOf (im : PlanImage) (b : Bind) : Nat :=
  match im.regions.find? (fun r => r.num == b.region) with
  | some r => bindBytes r b
  | none => 0

/-- A unit of a binding fails a check. -/
def unitsFail (b : Bind) (bad : Nat → Bool) : Bool :=
  bad b.unit || (match b.unit2 with
    | some u => bad u
    | none => false)

/-- The fitted capacity that counts for a channel (06 R179, 07 R215). -/
def fitted (c : Chip) (ch : Nat) : Nat :=
  if 2 ≤ reg c (key 0x4012 (ch + 1)) then 0 else reg c (key 0x4010 (ch + 1))

/-- R179: bindings, in the order they were made, against quarters and channels; the initial data; the
number of hops. A quarter or channel to which no byte is bound passes, even where the reservation alone exceeds its capacity:
DESIGN CHOICE, as R179 then names no region for the detail (log 35). -/
def fitVerdict (c : Chip) (im : PlanImage) (pl : Place) : Verdict :=
  let hb := pl.hbm.find? (fun b =>
    let n := bytesOf im b
    decide (0 < n) && unitsFail b (fun s =>
      if reg c (key 0x4011 (s + 1)) = 2 then true
      else decide (0x500000000 < b.off + n + reg c (key 0x4000 1) / 4)))
  let mr := pl.mrd.find? (fun b =>
    let n := bytesOf im b
    decide (0 < n) && unitsFail b (fun ch => decide (fitted c ch < b.off + n + reg c (key 0x4000 2))))
  let ini := im.init.all (fun d => match im.regions.find? (fun r => r.num == d.region) with
    | some r => decide (d.off + d.data.length ≤ r.size)
    | none => false)
  (hb.map (fun b => (0x0502, b.region))) <|>
  (mr.map (fun b => (0x0503, b.region))) <|>
  needs ini 0x0301 0 <|>
  needs (decide (pl.hops.length ≤ 1048576)) 0x0506 pl.hops.length

/-- Phase 4: the placement, or the status and detail of the first check that fails; `count` is the
partition map's device count. The placer's own refusals, 0501h for a die with too few tiles and 0504h and 0505h for a
hop without a port, come after R163 and before R179, since the order of R165 lists none of them: DESIGN CHOICE
(log 24). -/
def placePlan (f : Fuses) (c : Chip) (im : PlanImage) (count : Nat) : Except (Nat × Nat) Place :=
  let own := im.devIds.findIdx (· == devId c)
  match needs (devId c != ones32) 0x0401 0 <|>
      needs (im.devIds.contains (devId c)) 0x0402 (devId c) <|>
      mapVerdict im count <|> weightsVerdict c im <|>
      (List.range 4).findSome? (fun d => needs (decide (im.hdr.tpd ≤ (enabledSites f d).length)) 0x0501 d) with
  | some e => .error e
  | none =>
    match placeHops c im (ownHops im own) with
    | .error e => .error e
    | .ok hops =>
      let r := placeRegions im.regions
      let pl : Place := { own := own, sites := placeTiles f im.hdr.tpd, hbm := r.hbm, mrd := r.mrd, hops := hops, hash := [] }
      match fitVerdict c im pl with
      | some e => .error e
      | none => .ok { pl with hash := placeHash pl }

/-! ## Phase 5 (12 R381) -/

/-- Slots that every step holds, N (12 R373). -/
def slotsPerStep (im : PlanImage) : Nat := 200 * im.hdr.stepLen / (if im.slotVersion = 2 then 256 else 128)

/-- The slot records stand one for each hop of each row, in order (12 R376); otherwise the first row
that differs. -/
def recordsVerdict (im : PlanImage) : Verdict :=
  let want := im.coaches.zipIdx.flatMap (fun (r, i) => (List.range r.hops).map (fun h => (i, h + 1)))
  if im.slots.map (fun s => (s.row, s.hop)) = want then none
  else some (0x0605, ((List.range want.length).findSome? (fun k =>
    let w := want.getD k (0, 0)
    match im.slots[k]? with
    | some s => if (s.row, s.hop) = w then none else some w.1
    | none => some w.1)).getD 0)

/-- Records of the hops of one row that this module sends or receives are well formed (12 R375 to R377 R381), the rule of
flag [0] over each pair of which one is such a hop. -/
def rowRecordsOk (im : PlanImage) (row : Nat) (r : CoachRow) (mine : List Nat) : Bool :=
  let rs := (List.range r.hops).map (fun h => (recOf im row (h + 1)).getD ⟨0, 0, false, false, 0, 0, 0, 0⟩)
  let last := rs.getD (r.hops - 1) ⟨0, 0, false, false, 0, 0, 0, 0⟩
  (List.range r.hops).all (fun h =>
    let s := rs.getD h last
    let fin := h + 1 == r.hops
    (List.range r.hops).all (fun k => !s.next || decide (k ≤ h) || (rs.getD k last).next ||
        !(mine.contains (h + 1) || mine.contains (k + 1))) &&
      (!(mine.contains (h + 1)) ||
        ((if fin then !s.next || s.relNext else !s.relNext) && decide (1 ≤ s.stride) && decide (s.first + (r.k - 1) * s.stride < slotsPerStep im) &&
          (if fin then decide (s.even + r.k ≤ 1024) && decide (s.odd + r.k ≤ 1024)
           else s.even == 0xFFFF && s.odd == 0xFFFF))))

/-- A reserved slot of a port's sending direction: port, slot, variants, whether its step follows the
send step, row. -/
structure Reserved where
  port : Nat
  slot : Nat
  vmask : Nat
  next : Bool
  row : Nat
  deriving DecidableEq, Repr

/-- Every slot that this module's sending hops reserve. -/
def reservedSlots (im : PlanImage) (pl : Place) : List Reserved :=
  pl.hops.flatMap (fun (row, hop, p) =>
    match im.coaches[row]?, recOf im row hop with
    | some r, some s =>
      if (pathDevs r).getD (hop - 1) ones32 = pl.own then
        (List.range r.k).map (fun i => ⟨p, s.first + i * s.stride, r.vmask, s.next, row⟩)
      else []
    | _, _ => [])

/-- Two reservations of one slot that may both hold (12 R381 check 3). -/
def slotClash (a b : Reserved) : Bool :=
  a.port == b.port && a.slot == b.slot && (a.next || b.next || a.vmask &&& b.vmask != 0)

/-- The first reservation that clashes with an earlier one. -/
def clashVerdict : List Reserved → List Reserved → Verdict
  | _, [] => none
  | seen, x :: t => if seen.any (slotClash x) then some (0x0602, x.row) else clashVerdict (x :: seen) t

/-- The coach share: no eight consecutive slots all reserved in a variant (12 R378 R381 check 4). -/
def shareVerdict (im : PlanImage) (l : List Reserved) : Verdict :=
  (List.range im.hdr.variants).findSome? (fun v =>
    let here := l.filter (fun x => x.next || bit x.vmask v)
    (here.find? (fun x => (List.range 8).all (fun k => here.any (fun y => y.port == x.port && y.slot == x.slot + k)))).map
      (fun x => (0x0602, x.row)))

/-- Check 5 of R381 for a row that this module sends. -/
def sendTimesOk (im : PlanImage) (row : Nat) (r : CoachRow) : Bool :=
  match recOf im row 1 with
  | some s => (List.range r.k).all (fun i => decide (100 * (r.send + 40 + 4 * (i + 1)) ≤ slotTime im s i 0))
  | none => false

/-- Check 6 of R381 where this module is path device h, below H. -/
def throughTimesOk (c : Chip) (im : PlanImage) (pl : Place) (row : Nat) (r : CoachRow) (h : Nat) : Bool :=
  match recOf im row h, recOf im row (h + 1) with
  | some a, some b => (List.range r.k).all (fun i =>
      decide (slotTime im a i 1 + 100 * (rxLatency c pl row h + im.hdr.slack + 40) ≤ slotTime im b i 0))
  | _, _ => false

/-- Check 7 of R381 where the row ends here. -/
def releaseOk (c : Chip) (im : PlanImage) (pl : Place) (row : Nat) (r : CoachRow) : Bool :=
  match recOf im row r.hops with
  | some s => (List.range r.k).all (fun i =>
      decide (slotTime im s i 1 + 100 * (rxLatency c pl row r.hops + im.hdr.slack) ≤ 100 * releaseCc im r s))
  | none => false

/-- The hops of a row that this module sends or receives. -/
def mineOf (pl : Place) (row : Nat) : List Nat := (pl.hops.filter (fun x => x.1 == row)).map (fun x => x.2.1)

/-- The first row, in order, that a check refuses with a status. -/
def rowsVerdict (im : PlanImage) (status : Nat) (ok : Nat → CoachRow → Bool) : Verdict :=
  im.coaches.zipIdx.findSome? (fun (r, i) => needs (ok i r) status i)

/-- Phase 5: R170, then the checks of R381 in their order with R172 before the yard. `bad` is what the slot tables
section's own bytes break (`slotsFault`): a malformed header names no row and gives 0 (DESIGN CHOICE, log 24), a malformed
record counts where this module sends or receives its hop. -/
def coachVerdict (c : Chip) (im : PlanImage) (pl : Place) (bad : Bool × List (Nat × Nat)) : Verdict :=
  let c := { c with plan := { c.plan with image := some im, place := some pl } }
  let sends := fun (r : CoachRow) => r.src == pl.own
  let ends := fun (r : CoachRow) => (pathDevs r).getD r.hops ones32 == pl.own
  let res := reservedSlots im pl
  let stays := yardStays c im pl
  rowsVerdict im 0x0601 (fun _ r =>
    (!sends r || coachIssued c im true r.sendNo r.send r.vmask) &&
      (!ends r || coachIssued c im false r.recvNo r.release r.vmask)) <|>
    needs (!bad.1) 0x0605 0 <|>
    (bad.2.find? (fun x => (mineOf pl x.1).contains x.2)).map (fun x => (0x0605, x.1)) <|>
    recordsVerdict im <|>
    rowsVerdict im 0x0605 (fun i r => (mineOf pl i).isEmpty || rowRecordsOk im i r (mineOf pl i)) <|>
    (pl.hops.findSome? (fun x => needs (portVersion c x.2.2 == im.slotVersion) 0x0605 x.1)) <|>
    clashVerdict [] res <|>
    shareVerdict im res <|>
    rowsVerdict im 0x0605 (fun i r => !sends r || sendTimesOk im i r) <|>
    rowsVerdict im 0x0603 (fun i r => (List.range r.hops).all (fun h =>
      h == 0 || (pathDevs r).getD h ones32 != pl.own || throughTimesOk c im pl i r h)) <|>
    rowsVerdict im 0x0603 (fun i r => !ends r || releaseOk c im pl i r) <|>
    rowsVerdict im 0x0603 (fun i r => (mineOf pl i).isEmpty || coachTime c i r) <|>
    yardVerdict (stepCc im) stays <|>
    rowsVerdict im 0x0601 (fun i r => !ends r || (match recOf im i r.hops with
      | some s => !s.relNext || (List.range im.hdr.variants).all (fun v => bit r.vmask v)
      | none => false))

end Sys2Proof.Machine
end

