-- ==== Sys2Proof/Machine/Load.lean ====
section
/-! DEFINITION. Loading, unloading and re-placing a plan (06 R164 to R169 R181 R182): what each discards
and writes. -/

namespace Sys2Proof.Machine

/-! ## Discarding a plan -/

/-- The error strikes the plan code or the plan data area of a die's steward (16 R482). -/
def inPlanAreas (d : Nat) : Spot → Bool
  | .steward e _ x => e == d && ((decide (0x20000 ≤ x) && decide (x < 0x40000)) || (decide (0x10020000 ≤ x) && decide (x < 0x10070000)))
  | _ => false

/-- A steward without plan code and data: they are written to zero, over whatever errors stood there (16 R494). -/
def clearSteward (c : Chip) (d : Nat) : Chip :=
  let c := dropFlaws c (inPlanAreas d)
  setStew c d { stewAt c d with routine := .none, code := [], data := [] }

/-- What the boundaries of the discarded plan left for its mirror. A checkpoint whose image is on its way is finished
(13 R423); one still waiting for its image is given up. The digest that B000h:03 shows stays. -/
def clearCapture (d : Det) : Det :=
  { d with stage := none, written := [], send := [], fullDue := false,
           ckpt := if d.ckptWriting then d.ckpt else none, ckptStep := if d.ckptWriting then d.ckptStep else none, ckptNext := [],
           imported := false, digests := [], diverged := false }

/-- The serving state at reset values; the intake window stays, which only a load clears (08 R221 R224). -/
def keepWindow (x : Serving) : Serving := { Serving.reset with window := x.window }

/-- The plan, its placement and its state are discarded; every site is parked; serving and its state
return to reset; a pending commit is cancelled; the module is Empty (06 R164, 05 R123, 08 R221,
15 R455). -/
def discardPlan (c : Chip) : Chip :=
  let before := c
  let c := (List.range 4).foldl clearSteward (cancelCommit c)
  let c := { c with plan := Plan.reset, seqs := [], tiles := [], acts := [], flying := [], pools := [], acc := { Acc.reset with counts := c.acc.counts },
                    srv := keepWindow c.srv,
                    det := clearCapture c.det }
  noticeDigest before (setReg (setReg (dropKept c) (key 0x6000 1) 0) (key 0x2010 4) 0)

/-- Load command 2: no effect in state Empty (06 R169). -/
def unloadPlan (c : Chip) : Chip := if c.plan.state = .empty then c else discardPlan c

/-! ## Phases 1 to 5 -/

/-- Set status, detail and phase of a load (2020h:04, :05, :07). -/
def setLoad (c : Chip) (status detail phase : Nat) : Chip :=
  setReg (setReg (setReg c (key 0x2020 4) status) (key 0x2020 5) detail) (key 0x2020 7) phase

/-- Module address of the private plan store (07 R201). -/
def planStore (c : Chip) : Nat := hbmAddr 1 (0x1400000000 - reg c (key 0x4002 1))

/-- What phase 5 finds; the step length that its checks use is the plan's. -/
def coachPhase (c : Chip) (im : PlanImage) (pl : Place) (bad : Bool × List (Nat × Nat)) : Verdict :=
  coachVerdict (setReg c (key 0x2010 4) im.hdr.stepLen) im pl bad

/-- The work of the phase in hand, with its checks in their order: the status and detail of the first that fails, or the
load in its next phase (06 R165). -/
def phaseWork (f : Fuses) (c : Chip) (l : Loading) : Chip × Except (Nat × Nat) Loading :=
  match l.phase with
  | 1 =>
    let off := reg c (key 0x2020 2)
    let len := reg c (key 0x2020 3)
    if inStaging c off len then
      let r := readStaging c off len
      ({ r.1 with mem := setBytes r.1.mem (planStore r.1) r.2 }, .ok { l with phase := 2, copy := r.2 })
    else (c, .error (0x0101, ones32))
  | 2 =>
    (c, match verifyCopy c l.copy with
      | some e => .error e
      | none =>
        match plainSections f c l.copy with
        | .error i => .error (0x0204, i)
        | .ok ss => .ok { l with phase := 3, secs := ss })
  | 3 =>
    (c, match structureVerdict c l.secs f.stepping with
      | some e => .error e
      | none => .ok { l with phase := 4, image := some (planImage l.secs (manifestHash l.copy) f.stepping) })
  | 4 =>
    (c, match l.image with
      | none => .error (0x0401, 0)
      | some im =>
        match placePlan f c im (if l.cmd = 1 then field (theSection l.secs 8) 4 4 else im.hdr.devices) with
        | .error e => .error e
        | .ok pl => .ok { l with phase := 5, place := some pl })
  | 5 =>
    (c, match l.image, l.place with
      | some im, some pl =>
        (match coachPhase c im pl (if l.cmd = 1 then slotsFault l.secs else (false, [])) with
          | some e => .error e
          | none => .ok { l with phase := 6 })
      | _, _ => .error (0x0401, 0))
  | _ => (c, .ok l)

/-- The phases still ahead; `fuel` bounds them. -/
def runPhases (f : Fuses) : Nat → Chip → Loading → Chip × Except (Nat × Nat) Loading
  | 0, c, l => (c, .ok l)
  | n + 1, c, l =>
    match phaseWork f c l with
    | (c, .error e) => (c, .error e)
    | (c, .ok l) => runPhases f n c l

/-- A load or re-place is in a phase. -/
def setLoading (c : Chip) (l : Loading) : Chip :=
  setReg { c with plan := { c.plan with loading := some l } } (key 0x2020 7) l.phase

/-- Load command 1: the plan held is discarded and the intake window is cleared (17 R504); phase 1 begins. -/
def startLoad (c : Chip) : Chip :=
  let c := setLoad (discardPlan c) 1 0 1
  let c := { c with srv := { c.srv with window := [] } }
  setLoading c ⟨1, 1, [], [], none, none⟩

/-- Load command 3: phases 4 and 5 on the plan held (06 R182). -/
def startReplace (c : Chip) : Chip := setLoading (setLoad c 1 0 4) ⟨3, 4, [], [], c.plan.image, none⟩

/-! ## Phase 6 -/

/-- Write TI and the tile masks of the bound tiles; TM0 is 1 (05 R123 R124). -/
def bindTiles (im : PlanImage) (pl : Place) (c : Chip) : Chip :=
  pl.sites.zipIdx.foldl (fun c (site, n) =>
    modTile c site (fun t => { t with ti := n, mask := im.tmasks.getD n 1 })) c

/-- A byte of the operand cache of some site. -/
def inOpc (a : Nat) : Bool :=
  match areaOf a with
  | .opc _ _ => true
  | _ => false

/-- The spots of the state of tiles that a load resets, and of the plan caches that it fills (04 R92, 05 R119). -/
def resetSpot : Spot → Bool
  | .vreg .. => true
  | .counter .. => true
  | .column .. => true
  | .weight .. => true
  | .cache .. => true
  | .granule g => inOpc (64 * g)
  | _ => false

/-- Every operand cache is zero, without poison or stored error (04 R92). -/
def clearOpc (c : Chip) : Chip :=
  let c := dropFlaws c resetSpot
  { c with mem := c.mem.filter (fun x => !inOpc x.1), poison := c.poison.filter (fun g => !inOpc (64 * g)),
           ecc := c.ecc.filter (fun x => !inOpc (64 * x.1)), wbDue := c.wbDue.filter (fun g => !inOpc (64 * g)) }

/-- n bytes from an address are zero, without poison or stored error. -/
def zeroSpan (c : Chip) (lo n : Nat) : Chip :=
  let inside := fun a => decide (lo ≤ a) && decide (a < lo + n)
  let c := dropFlaws c (fun x => match x with
    | .granule g => inside (64 * g)
    | _ => false)
  { c with mem := c.mem.filter (fun x => !inside x.1), poison := c.poison.filter (fun g => !inside (64 * g)),
           ecc := c.ecc.filter (fun x => !inside (64 * x.1)), wbDue := c.wbDue.filter (fun g => !inside (64 * g)) }

/-- Zero-fill a binding of a region in each of its units. -/
def zeroBind (c : Chip) (r : Region) (b : Bind) : Chip :=
  let base := fun u => if b.quarter = 0xFF then mrdAddr u b.off else hbmAddr u (b.quarter * 0x500000000 + b.off)
  let c := zeroSpan c (base b.unit) (bindBytes r b)
  match b.unit2 with
  | some u => zeroSpan c (base u) (bindBytes r b)
  | none => c

/-- Zero-fill the flagged regions (06 R160 R165). -/
def zeroFill (c : Chip) : Chip :=
  (bindings c).foldl (fun c (r, b) => if r.zero then zeroBind c r b else c) c

/-- Copy the initial data in section order (06 R163 R165). -/
def copyInitial (im : PlanImage) (c : Chip) : Chip :=
  im.init.foldl (fun c d => engPatch c d.region d.off d.data) c

/-- Write the steward code and data of a die, over whatever errors stood there (16 R497). -/
def stageSteward (im : PlanImage) (c : Chip) (d : Nat) : Chip :=
  let c := dropFlaws c (inPlanAreas d)
  setStew c d { stewAt c d with code := im.code, data := putBytes [] 0 im.data }

/-- Slack shortfalls of the ports to which the placement binds a hop (11 R342). -/
def slackChecks (c : Chip) : Chip := (List.range 32).foldl slackCheck c

/-- Phase 6 and the end of a load that succeeded. -/
def stagePlan (im : PlanImage) (pl : Place) (c : Chip) : Chip :=
  let before := c
  let c := clearOpc { c with tiles := [], plan := { Plan.reset with state := .loaded, image := some im, place := some pl } }
  let c := (List.range 4).foldl (stageSteward im) (copyInitial im (zeroFill (bindTiles im pl c)))
  slackChecks (noticeDigest before (setReg (setReg c (key 0x8030 4) 0) (key 0x2010 4) im.hdr.stepLen))

/-- A load or re-place ends with a status and a detail (06 R165 R182, 14 R432). -/
def closeLoad (c : Chip) (status detail : Nat) : Chip :=
  report (setLoad c status detail 0) 0x0801 .modl .apart [status, detail]

/-- What the phases have left takes effect: the first check that failed ends it, or phase 6 runs; a re-place puts the new
placement. -/
def endLoad (c : Chip) (r : Except (Nat × Nat) Loading) : Chip :=
  let c := { c with plan := { c.plan with loading := none } }
  match r with
  | .error e => closeLoad c e.1 e.2
  | .ok l =>
    match l.image, l.place with
    | some im, some pl =>
      closeLoad (if l.cmd = 1 then stagePlan im pl c
        else bindTiles im pl { c with plan := { c.plan with place := some pl } }) 0 0
    | _, _ => c

/-- LOAD_COMPLETE: the phases still ahead run. -/
def fLoadComplete (f : Fuses) (c : Chip) : Chip :=
  match c.plan.loading with
  | some l =>
    let r := runPhases f 6 c l
    endLoad r.1 r.2
  | none => c

/-- The phase that LOAD_COMPLETE ends: of a load phase 6, of a re-place phase 5 (06 R165 R182). -/
def lastPhase (l : Loading) : Nat := if l.cmd = 1 then 6 else 5

/-- A tick of a load: its phase may end, by a free choice (log 24); a check that fails ends the load. The last phase ends
at LOAD_COMPLETE. -/
def loadTick (f : Fuses) (c : Chip) : Chip :=
  match c.plan.loading with
  | none => c
  | some l =>
    let x := freeNumber c
    if x.2 % 2 = 0 ∨ lastPhase l ≤ l.phase then x.1
    else
      let r := phaseWork f x.1 l
      match r.2 with
      | .error e => endLoad r.1 (.error e)
      | .ok l => setLoading r.1 l

/-- LOAD_COMPLETE. -/
def execLoadComplete (s : State) : Host.Outcome State Fault Refusal := onRunning s (fLoadComplete s.fuses)

end Sys2Proof.Machine
end

