-- ==== Sys2Proof/Machine/Time.lean ====
section
/-! DEFINITION. Time (10): the count and its correction (R300 to R306), launch and resume (R307 to R314,
13 R426), QZ5 time mode (R320 to R323), the core frequency (R315 to R317), the reference (R318 R319). -/

namespace Sys2Proof.Machine

/-! ## Who and where -/

/-- The module is the time root (10 R300). -/
def isRoot (c : Chip) : Bool := devId c == reg c (key 0x8010 1) && devId c != ones32

/-- The reference is locked. -/
def locked (c : Chip) : Bool := reg c (key 0x8000 4) == 0

/-- The count state, 8010h:03 (10 R303 R323). -/
def countState (c : Chip) : Nat :=
  if (isRoot c && locked c) || quietA c then 1 else reg c (key 0x8010 3)

/-- L, D and E in force. -/
def launchL (c : Chip) : Nat := reg c (key 0x8030 1)
/-- See `launchL`. -/
def launchD (c : Chip) : Nat := reg c (key 0x8030 2)
/-- See `launchL`. -/
def launchE (c : Chip) : Nat := reg c (key 0x8030 3)

/-- Set the launch status. -/
def setLaunch (c : Chip) (st : Nat) : Chip := setReg c (key 0x8030 4) st

/-- Set the plan state. -/
def setPlanState (c : Chip) (st : PlanState) : Chip := { c with plan := { c.plan with state := st } }

/-- The state the plan was armed from (10 R311). -/
def armedFrom (c : Chip) : PlanState := if c.plan.fromHalted then .halted else .loaded

/-! ## Arming (10 R308 R323, 13 R426) -/

/-- The parents satisfy R307: two different ports whose peers the partition map lists. -/
def parentsOk (c : Chip) : Bool :=
  let a := portA c
  let b := reg c (key 0x8030 6)
  let ok := fun p => decide (p < 32) && (match c.plan.image with
    | some im => im.devIds.contains (reg c (key (0x5100 + p) 9))
    | none => false)
  a != b && ok a && ok b

/-- A frequency change is pending (10 R317). -/
def changePending (c : Chip) : Bool := reg c (key 0x8000 3) != ones64 || c.time.changing

/-- What arming demands of the state and the configuration (10 R308 R323): the count conditions apart. -/
def armState (c : Chip) (resume : Bool) : Bool :=
  c.plan.state == (if resume then .halted else .loaded) && !changePending c &&
    (if isRoot c then locked c else parentsOk c && (qz5 c || countState c == 1))

/-- What arming demands of the value (10 R308 R323). -/
def armValue (c : Chip) (l : Nat) : Bool :=
  if qz5 c then l == atOnce64
  else l % 2 == 0 && decide (l < atOnce64) && decide (c.count < l - (if isRoot c then launchE c else launchD c))

/-- The abort code of a write that would arm, 0 where it arms: the state before the value (15 R468). During a
load or re-place it is refused as busy, so that no placement changes while a plan runs (01 R33, log 24). -/
def armCode (c : Chip) (resume : Bool) (l : Nat) : Nat :=
  if c.det.importing.isSome || c.plan.loading.isSome then 0x03000002
  else if !armState c resume then 0x03000003
  else if !armValue c l then 0x04000001
  else 0

/-- The plan is armed; a root in QZ5 time mode emits at the first even count at least 64 ticks on. -/
def arm (c : Chip) (resume : Bool) (l : Nat) : Chip :=
  let c := setLaunch (setReg c (key 0x8030 1) l) 1
  let c := if resume then setReg (setReg c (key 0xB050 1) l) (key 0x2010 3) ones64 else c
  let emit := if qz5 c && isRoot c then some (roundUp (c.count + 64) 2) else none
  { c with plan := { c.plan with state := .armed, fromHalted := resume },
           time := { c.time with copy := none, emitted := false, qz5Start := none, qz5Emit := emit } }

/-- The abort code of a write that would disarm, 0 where it disarms (10 R308 R321). -/
def disarmCode (c : Chip) : Nat :=
  if c.plan.state ≠ .armed then 0x03000003
  else if qz5 c || decide (c.count < launchL c - launchD c) then 0
  else 0x03000003

/-- An armed plan returns to the state it was armed from, with a status. -/
def standDown (c : Chip) (st : Nat) : Chip :=
  let c := setPlanState (setLaunch c st) (armedFrom c)
  { c with time := { c.time with qz5Start := none, qz5Emit := none, emitted := false } }

/-- The plan is disarmed. -/
def disarm (c : Chip) : Chip := setReg (standDown c 0x0107) (key 0x8030 1) ones64

/-! ## The launch message (10 R309 R310 R321, 11 R351) -/

/-- The Farak form of the message. -/
def launchBytes (c : Chip) (hop : Nat) : List Byte :=
  leBytes 8 (launchL c) ++ slice (settingsDigest c) 0 16 ++ leBytes 4 (devId c) ++ leBytes 2 (tagNow c) ++
    leBytes 1 0 ++ leBytes 1 hop ++ List.replicate 32 0

/-- The QZ5 form of the message. -/
def launchBytes2 (c : Chip) (delay hop : Nat) : List Byte :=
  leBytes 4 delay ++ slice (settingsDigest c) 0 16 ++ leBytes 4 (devId c) ++ leBytes 2 (tagNow c) ++ leBytes 1 1 ++
    leBytes 1 hop ++ List.replicate 36 0

/-- The child ports that can carry a message. -/
def childPorts (c : Chip) : List Nat :=
  (activePorts c).filter (fun p => bit (reg c (key 0x8030 7)) p)

/-- Send a message on the child ports; the Farak form does not cross a version 2 port (11 R369). -/
def toChildren (c : Chip) (type : Nat) (f : Nat → List Byte) : Chip :=
  (childPorts c).foldl (fun c p => if type = 0x20 ∧ portVersion c p = 2 then c else sendMsg c p type (f p)) c

/-- Messages of type 21h go to the child ports, with the count at which the message was received; none for the root's own,
whose delay is E / 2 (10 R321 R323). -/
def toChildren2 (c : Chip) (at' : Option Nat) (f : Nat → List Byte) : Chip :=
  (childPorts c).foldl (fun c p => modPort c p (fun q => { q with fwdAt := q.fwdAt ++ [at'] })) (toChildren c 0x21 f)

/-- LAUNCH_EMIT: the root sends at L − E. Its own copy needs no check. -/
def fEmit (c : Chip) : Chip :=
  if c.plan.state = .armed ∧ !qz5 c ∧ isRoot c ∧ !c.time.emitted then
    let c := reach c (launchL c - launchE c)
    let b := launchBytes c 0
    let c := toChildren c 0x20 (fun _ => b)
    setLaunch { c with time := { c.time with emitted := true } } 2
  else c

/-- QZ5_LAUNCH_EMIT. -/
def fEmit2 (c : Chip) : Chip :=
  match c.time.qz5Emit with
  | some t =>
    if c.plan.state = .armed ∧ qz5 c ∧ isRoot c then
      let c := reach c t
      let d := launchE c / 2
      let b := launchBytes2 c d 0
      let c := toChildren2 c none (fun _ => b)
      setLaunch { c with time := { c.time with emitted := true, qz5Emit := none, qz5Start := some (t + 2 * d) } } 2
    else c
  | none => c

/-! ## Receiving it (10 R310 R311 R321 R323) -/

/-- Take a launch message from a port: its form and itself. -/
def takeLaunch (q : Port) : Option (Nat × Ctl × Port) :=
  match q.ctl.find? (fun x => x.kind == 4 && (x.type == 0x20 || x.type == 0x21)) with
  | some x => (takeCtl q 4 x.type).map (fun r => (x.type, r.1, r.2))
  | none => none

/-- Hop count of a message. -/
def hopOf (type : Nat) (b : List Byte) : Nat := field b (if type = 0x20 then 0x1F else 0x1B) 1

/-- The message with another hop count, and in the QZ5 form another delay. -/
def forwarded (type : Nat) (b : List Byte) (delay : Nat) : List Byte :=
  if type = 0x20 then splice b 0x1F (leBytes 1 (hopOf type b + 1))
  else splice (splice b 0 (leBytes 4 delay)) 0x1B (leBytes 1 (hopOf type b + 1))

/-- The own reduction of a forwarded delay on a port: its one-way latency and the time since receipt, each in
whole tick pairs rounded up (10 R321). -/
def reduction (c : Chip) (p at' : Nat) : Nat := cdiv (lambda16 c p) 32 + cdiv (c.count - at') 2

/-- The largest reduction over the child ports, by which the delay of a copy is checked (10 R323). -/
def ownReduction (c : Chip) (at' : Nat) : Nat := (childPorts c).foldl (fun m p => max m (reduction c p at')) 0

/-- LAUNCH_FORWARD. The delay loses each port's latency now, and the forwarding time in the slot that sends the message
(`sendMessage`, 10 R321). -/
def forwardLaunch (c : Chip) (type at' : Nat) (b : List Byte) : Chip :=
  let copy := fun p => forwarded type b (field b 0 4 - cdiv (lambda16 c p) 32)
  if type = 0x21 then toChildren2 c (some at') copy else toChildren c type copy

/-- The check that a first copy fails, by its status; 0 where it passes all. -/
def copyStatus (c : Chip) (type at' : Nat) (b : List Byte) : Nat :=
  let o := if type = 0x20 then 8 else 4
  let digest := decide (slice b o 16 = settingsDigest c)
  let place := field b (o + 16) 4 % 262144 == reg c (key 0x8010 1) && field b (o + 20) 2 % 4096 == tagNow c
  let mode := field b (o + 22) 1 == reg c (key 0x8040 1)
  let late := if qz5 c then type == 0x21 && decide (field b 0 4 < ownReduction c at' + 1)
    else decide (launchL c - launchD c ≤ at')
  if late then 0x0101
  else if !qz5 c ∧ type = 0x20 ∧ field b 0 8 ≠ launchL c then 0x0103
  else if !digest then 0x0102
  else if !place then 0x0104
  else if !mode then 0x0105
  else 0

/-- An armed module decides by the first copy. -/
def decideLaunch (c : Chip) (p type at' : Nat) (b : List Byte) : Chip :=
  let c := if 8 < hopOf type b then report c 0x0905 (.port p) .apart [1, hopOf type b] else c
  match copyStatus c type at' b with
  | 0 =>
    let c := setLaunch c 2
    if qz5 c then { c with time := { c.time with qz5Start := some (roundUp (at' + 2 * field b 0 4) 2) } } else c
  | st => report (standDown c st) 0x0904 (.port p) .apart [st, launchL c]

/-- The count at which the launch of a copy is over, so that another message is a new launch's. -/
def launchOver (type at' : Nat) (b : List Byte) : Nat := if type = 0x20 then field b 0 8 else at' + 2 * field b 0 4

/-- Two copies differ in a byte other than the hop count. -/
def copiesDiffer (type : Nat) (a b : List Byte) : Bool :=
  let o := if type = 0x20 then 0x1F else 0x1B
  splice a o [0] != splice b o [0]

/-- LAUNCH_RECEIVE on a port. Only copies on the parent ports count. -/
def fLaunch (p : Nat) (c : Chip) : Chip :=
  match takeLaunch (portAt c p) with
  | none => c
  | some (type, x, q) =>
    let c := setPort c p q
    let at' := x.at16 / 16
    let b := slice x.payload 0 64
    if p ≠ portA c ∧ p ≠ reg c (key 0x8030 6) then c
    else
      let old := if at' < c.time.copyEnd then c.time.copy else none
      match old with
      | some a =>
        if copiesDiffer type a b then report c 0x0904 (.port p) .apart [reg c (key 0x8030 4), field b 0 4] else c
      | none =>
        let c := { c with time := { c.time with copy := some b, copyEnd := launchOver type at' b } }
        let c := forwardLaunch c type at' b
        if c.plan.state = .armed then (if reg c (key 0x8030 4) = 1 then decideLaunch c p type at' b else c)
        else report c 0x0905 (.port p) .apart [0, hopOf type b]

/-- LAUNCH_DEADLINE: no accepted copy by L − D (10 R312); none in QZ5 time mode. -/
def fDeadline (c : Chip) : Chip :=
  if c.plan.state = .armed ∧ !qz5 c ∧ !isRoot c ∧ reg c (key 0x8030 4) = 1 then
    let c := reach c (launchL c - launchD c)
    report (standDown c 0x0101) 0x0904 .modl .apart [0x0101, launchL c]
  else c

/-! ## The start (10 R313 R321, 13 R426) -/

/-- The record of a launch or resume (13 R415). -/
def launchRecord (c : Chip) (at' first : Nat) : Chip :=
  recordWrite c 3 first (leBytes 8 at' ++ planHash c ++ leBytes 1 (reg c (key 0x8040 1)))

/-- The plan runs from a count: step 0 with the default variant and parameters of 0, or after a resume
the pending actions and the step after the halted one. -/
def startRun (c : Chip) (at' : Nat) : Chip :=
  let c := reach c at'
  let c := setLaunch (setPlanState c .running) 3
  let c := { c with time := { c.time with copy := none, emitted := false, qz5Start := none, qz5Emit := none,
                                          qz5Adjust := 0, parentStep := none } }
  if c.plan.fromHalted then
    let n := c.plan.step
    let c := launchRecord c at' (n + 1)
    let c := actions n true c
    beginStep (n + 1) at' { c with plan := { c.plan with base := at', baseStep := n + 1, launched := true } }
  else
    let c := launchRecord c at' 0
    let d := match c.plan.image with
      | some im => im.hdr.dflt
      | none => 0
    beginStep 0 at' { c with plan := { c.plan with base := at', baseStep := 0, launched := true, variant := d,
                                                   params := List.replicate 64 0 } }

/-- LAUNCH_START at L. -/
def fStart (c : Chip) : Chip :=
  if c.plan.state = .armed ∧ !qz5 c ∧ reg c (key 0x8030 4) = 2 then startRun c (launchL c) else c

/-- QZ5_LAUNCH_START when the delay has elapsed. -/
def fStart2 (c : Chip) : Chip :=
  match c.time.qz5Start with
  | some t => if c.plan.state = .armed ∧ qz5 c ∧ reg c (key 0x8030 4) = 2 then startRun c t else c
  | none => c

/-! ## Alignment checks (10 R301 to R306) -/

/-- DIGEST_COMPARE of a port (13 R410). -/
def compareDigest (d : List Byte) (c : Chip) (p : Nat) : Chip :=
  let q := portAt c p
  if slice q.digest 0 16 = d then setPort c p { q with mismatch := false, reportedDigest := [] }
  else
    let c := setPort c p { q with mismatch := true }
    if q.mismatch ∧ q.reportedDigest ≠ q.digest then
      report (modPort c p (fun q => { q with reportedDigest := q.digest })) 0x0407 (.port p) .apart (digestWords q.digest)
    else c

/-- A port of version 3 in Active takes part in the periodic checks (11 R369). -/
def checks (c : Chip) (p : Nat) : Bool := (portAt c p).st == .active && portVersion c p == 3

/-- The check of one port: a check of the period before that was not completed is lost. -/
def checkPort (d : List Byte) (c : Chip) (p : Nat) : Chip :=
  if checks c p then
    let q := portAt c p
    let c := if q.echoed then c else portCount c p 12 1
    let c := setPort c p { q with echoed := false }
    compareDigest d (sendTimed c p 1 []) p
  else c

/-- The count of the next alignment check: the present one, where it is a multiple of 65,536 whose check has not begun,
else the next multiple (10 R301). -/
def checkAt (c : Chip) : Nat :=
  if c.count % 65536 = 0 ∧ c.count ≠ c.time.lastCheck then c.count else (c.count / 65536 + 1) * 65536

/-- ALIGNMENT_CHECK. -/
def fCheck (c : Chip) : Chip :=
  let t := checkAt c
  let c := reach c t
  let d := settingsDigest c
  let c := (List.range 32).foldl (checkPort d) c
  { c with time := { c.time with silent := c.time.silent + 1, lastCheck := t } }

/-- The module follows port p: it is not the root, and p is its port A. -/
def follows (c : Chip) (p : Nat) : Bool := !isRoot c && p == portA c

/-- The count is stepped to within 1/16 tick of the parent's (10 R303); the slots of every sending port go on from the
first under the corrected count, as its superframes do (11 R328). The count holds whole ticks: the phase of the clock
tree is left out (log 23). -/
def correct (c : Chip) (off : Int) : Chip :=
  let c := { c with count := m64 ((((16 * c.count : Nat) : Int) - off + 8).toNat / 16) }
  (List.range 32).foldl (fun c p => if portSends (portAt c p).st then restartSlots c p else c) c

/-- A check on port A while no plan runs, with the count state it found: the new state, and the correction
(10 R303 R306). -/
def acquire (c : Chip) (st : Nat) (off : Int) : Chip :=
  if 2 ≤ st then c
  else
    let c := setReg c (key 0x8010 3) (if 2 ≤ c.time.good then 1 else 0)
    if 2 ≤ off.natAbs then correct c off else c

/-- A check on port A: the offset, the checks in a row within 1/8 tick, and the end of state 3, during a run as
well (10 R303 R306). -/
def heard (c : Chip) (off : Int) : Chip :=
  let good := if off.natAbs ≤ 2 then c.time.good + 1 else 0
  let c := setReg { c with time := { c.time with silent := 0, good := good } } (key 0x8010 4) (unsigned 32 off)
  if reg c (key 0x8010 3) = 3 then setReg c (key 0x8010 3) 0 else c

/-- A check is complete on a port: its offset, in 1/16 tick (10 R301 R304 R322). -/
def checkDone (c : Chip) (p : Nat) (off : Int) : Chip :=
  let st := reg c (key 0x8010 3)
  let c := modPort c p (fun q => { q with echoed := true, stamp := none, trip := none })
  let c := if follows c p then heard c off else c
  let bound := if qz5 c then 256 else 64
  if runs c then
    if bound < off.natAbs then report (addReg32 c (key 0x8010 5) 1) 0x0901 (.port p) .apart [unsigned 32 off] else c
  else if follows c p then acquire c st off
  else c

/-- A check is complete once the peer's stamp and the answer to the own have both come. -/
def pairCheck (c : Chip) (p : Nat) : Chip :=
  let q := portAt c p
  match checks c p, q.stamp, q.trip with
  | true, some (at16, v16), some lam => checkDone c p ((at16 : Int) - v16 - lam)
  | _, _, _ => c

/-- ALIGNMENT_STAMP_RECEIVE: the echo answers it; on a port that performs checks it belongs to one (11 R369). -/
def fStamp (p : Nat) (c : Chip) : Chip :=
  match takeCtl (portAt c p) 3 1 with
  | none => c
  | some (x, q) =>
    let v := 16 * field x.payload 0 8 + field x.payload 8 1
    let q := if checks c p then { q with stamp := some (x.at16, v) } else q
    let c := sendTimed (setPort c p q) p 2 (slice x.payload 0 9 ++ List.replicate 3 0 ++ leBytes 8 x.at16)
    pairCheck c p

/-- The round trip that an echo ends, less its hold, in 1/16 tick (11 R350). -/
def roundTrip (x : Ctl) : Nat :=
  x.at16 - (16 * field x.payload 0 8 + field x.payload 8 1) - field x.payload 0x0C 4

/-- ALIGNMENT_ECHO_RECEIVE: in Measure one of the 64 results, on a port that performs checks the one-way latency of the
check in hand, half of the round trip (11 R350 R360 R369). -/
def fEcho (p : Nat) (c : Chip) : Chip :=
  match takeCtl (portAt c p) 3 2 with
  | none => c
  | some (x, q) =>
    if q.st = .measure then
      setPort c p (if q.results.length < 64 then { q with results := q.results ++ [roundTrip x] } else q)
    else if checks c p then pairCheck (setPort c p { q with trip := some (roundTrip x / 2) }) p
    else setPort c p q

/-- COUNT_SOURCE_LOST: port A is not trained, or three periods brought no check, in holdover as well (10 R306 R323). -/
def fSourceLost (c : Chip) : Chip :=
  let a := portA c
  let st := reg c (key 0x8010 3)
  if isRoot c ∨ 32 ≤ a ∨ quietA c ∨ st = 3 then c
  else if (portAt c a).st ≠ .active ∨ 3 ≤ c.time.silent then
    report (setReg { c with time := { c.time with good := 0 } } (key 0x8010 3) 3) 0x0902 (.port a) .apart []
  else c

/-! ## The core frequency (10 R316 R317) -/

/-- The abort code of a write of 8000h:03, 0 where it is accepted. All ones cancels, but not a change that
has stopped the clock. -/
def changeCode (c : Chip) (t : Nat) : Nat :=
  if c.time.changing then 0x03000003
  else if t = ones64 then 0
  else if t % 2 = 0 ∧ c.count + 524288 ≤ t then 0
  else 0x04000001

/-- FREQ_CHANGE_STOP at count C. -/
def fFreqStop (c : Chip) : Chip :=
  let t := reg c (key 0x8000 3)
  if t = ones64 ∨ c.time.changing ∨ runs c then c
  else { reach c t with time := { c.time with changing := true } }

/-- FREQ_CHANGE_RESTART at C + 64: the frequency scheduled with C is in force and no change is pending. -/
def fFreqRestart (c : Chip) : Chip :=
  if c.time.changing then
    let before := c
    let c := reach c (reg c (key 0x8000 3) + 64)
    let c := setReg (setReg c (key 0x8000 1) c.time.freqNext) (key 0x8000 3) ones64
    noticeDigest before { c with time := { c.time with changing := false } }
  else c

/-! ## The reference (10 R318 R319) -/

/-- REFERENCE_LOSS. -/
def fRefLoss (c : Chip) : Chip :=
  if c.time.refLost then c
  else
    let c := { c with time := { c.time with refLost := true } }
    let c := addReg32 (setReg (setReg c (key 0x8000 4) 1) (key 0x8010 3) 2) (key 0x8000 5) 1
    report c 0x0903 .modl .apart [0]

/-- The loops relock: the count is to be acquired again; on a root, whose reference is locked again, the count state
reads 1 (`countState`). -/
def relock (c : Chip) : Chip :=
  setReg (setReg { c with time := { c.time with good := 0, silent := 0 } } (key 0x8000 4) 0) (key 0x8010 3) 0

/-- REFERENCE_RETURN: during a run the module stays in holdover. -/
def fRefReturn (c : Chip) : Chip :=
  if !c.time.refLost then c
  else
    let c := report { c with time := { c.time with refLost := false } } 0x0903 .modl .apart [1]
    if runs c then setReg c (key 0x8000 4) 2 else relock c

/-- REFERENCE_RELOCK once no plan runs. -/
def fRelockRef (c : Chip) : Chip := if reg c (key 0x8000 4) = 2 ∧ !runs c then relock c else c

/-! ## The meanings -/

/-- LAUNCH_EMIT. -/
def execLaunchEmit (s : State) : Host.Outcome State Fault Refusal := onRunning s fEmit

/-- QZ5_LAUNCH_EMIT. -/
def execQz5LaunchEmit (s : State) : Host.Outcome State Fault Refusal := onRunning s fEmit2

/-- LAUNCH_RECEIVE. -/
def execLaunchReceive (p : Fin 32) (s : State) : Host.Outcome State Fault Refusal := onRunning s (fLaunch p.val)

/-- LAUNCH_DEADLINE. -/
def execLaunchDeadline (s : State) : Host.Outcome State Fault Refusal := onRunning s fDeadline

/-- LAUNCH_START. -/
def execLaunchStart (s : State) : Host.Outcome State Fault Refusal := onRunning s fStart

/-- QZ5_LAUNCH_START. -/
def execQz5LaunchStart (s : State) : Host.Outcome State Fault Refusal := onRunning s fStart2

/-- ALIGNMENT_CHECK. -/
def execAlignmentCheck (s : State) : Host.Outcome State Fault Refusal := onRunning s fCheck

/-- ALIGNMENT_STAMP_RECEIVE. -/
def execAlignmentStampReceive (p : Fin 32) (s : State) : Host.Outcome State Fault Refusal :=
  onRunning s (fStamp p.val)

/-- ALIGNMENT_ECHO_RECEIVE. -/
def execAlignmentEchoReceive (p : Fin 32) (s : State) : Host.Outcome State Fault Refusal :=
  onRunning s (fEcho p.val)

/-- COUNT_SOURCE_LOST. -/
def execCountSourceLost (s : State) : Host.Outcome State Fault Refusal := onRunning s fSourceLost

/-- FREQ_CHANGE_STOP. -/
def execFreqChangeStop (s : State) : Host.Outcome State Fault Refusal := onRunning s fFreqStop

/-- FREQ_CHANGE_RESTART. -/
def execFreqChangeRestart (s : State) : Host.Outcome State Fault Refusal := onRunning s fFreqRestart

/-- REFERENCE_LOSS. -/
def execReferenceLoss (s : State) : Host.Outcome State Fault Refusal := onRunning s fRefLoss

/-- REFERENCE_RETURN. -/
def execReferenceReturn (s : State) : Host.Outcome State Fault Refusal := onRunning s fRefReturn

/-- REFERENCE_RELOCK. -/
def execReferenceRelock (s : State) : Host.Outcome State Fault Refusal := onRunning s fRelockRef

end Sys2Proof.Machine
end

