-- ==== Sys2Proof/Machine/Values.lean ====
section
/-! DEFINITION. What a write to an entry must satisfy (15 R467 R468): the entry's own conditions on the
state, the range of the value, and its agreement with other entries. -/

namespace Sys2Proof.Machine

/-! ## Ranges -/

/-- A range of the entry map: index, subindices from and to, lowest and highest value, and one more value
that is accepted. -/
structure Range where
  i : Nat
  s0 : Nat
  s1 : Nat
  lo : Nat
  hi : Nat
  also : Nat
  deriving DecidableEq, Repr

/-- Ranges of entries 1010h to 6040h, from the rules that define them. -/
def ranges1 : List Range :=
  [⟨0x1010, 1, 1, 0, 7, 0⟩, ⟨0x1020, 1, 1, 0, 0x3FFFF, 0xFFFFFFFF⟩, ⟨0x2000, 4, 4, 1, 1, 1⟩,
   ⟨0x2020, 1, 1, 1, 3, 1⟩, ⟨0x3001, 1, 1, 0, 1, 0⟩, ⟨0x3010, 1, 1, 0, 1, 0⟩, ⟨0x4020, 1, 1, 0, 1, 0⟩,
   ⟨0x4020, 2, 2, 1, 65535, 1⟩, ⟨0x5000, 1, 1, 2, 3, 2⟩, ⟨0x5000, 2, 2, 0, 1, 0⟩, ⟨0x5010, 1, 1, 0, 2, 0⟩,
   ⟨0x5010, 2, 2, 0, 22, 0xFF⟩, ⟨0x5301, 2, 2, 0, 1, 0⟩, ⟨0x5310, 1, 3, 0, 256, 0⟩,
   ⟨0x5310, 4, 4, 1, 65535, 1⟩, ⟨0x5310, 5, 5, 1, 0xFFFFFFFF, 1⟩, ⟨0x5310, 6, 6, 0, 255, 0⟩,
   ⟨0x5320, 1, 1, 0, 0xFFF, 0⟩, ⟨0x6000, 1, 1, 0, 1, 0⟩, ⟨0x6000, 2, 2, 512, 1048576, 512⟩,
   ⟨0x6000, 3, 3, 0, 64, 0⟩, ⟨0x6000, 4, 4, 0, 16384, 0⟩, ⟨0x6000, 7, 7, 0, 8, 0⟩,
   ⟨0x6000, 10, 10, 0, 16384, 0⟩, ⟨0x6000, 11, 11, 0, 4096, 0⟩, ⟨0x6000, 12, 12, 0, 4095, 0xFFFF⟩,
   ⟨0x6020, 1, 1, 0, 4095, 0⟩, ⟨0x6040, 7, 7, 0, 63, 0⟩]

/-- Ranges of entries 7001h to F010h, from the rules that define them; FP32 codes for 9020h:01, whose
range 60.0 to 110.0 has rising codes. -/
def ranges2 : List Range :=
  [⟨0x7001, 1, 3, 0, 1, 0⟩, ⟨0x7001, 4, 4, 0, 2, 0⟩, ⟨0x7010, 1, 1, 1, 4, 1⟩, ⟨0x7010, 2, 2, 0, 65, 0xFF⟩,
   ⟨0x7010, 4, 4, 0, 1, 0⟩, ⟨0x7010, 14, 14, 0, 3, 0xFF⟩, ⟨0x7030, 1, 1, 0, 65, 0⟩, ⟨0x8000, 2, 2, 0, 3, 0⟩,
   ⟨0x8030, 2, 2, 256, 1048576, 256⟩, ⟨0x8030, 3, 3, 1024, 16777216, 1024⟩, ⟨0x8030, 5, 6, 0, 31, 0xFF⟩,
   ⟨0x8040, 1, 1, 0, 1, 0⟩, ⟨0x9000, 3, 3, 1, 1, 1⟩, ⟨0x9001, 3, 3, 1, 1, 1⟩, ⟨0x9010, 2, 2, 0, 63, 0⟩,
   ⟨0x9010, 5, 5, 0, 0x700, 0⟩, ⟨0x9020, 1, 1, 0x42700000, 0x42DC0000, 0x42700000⟩, ⟨0xB010, 1, 1, 0, 1, 0⟩,
   ⟨0xB011, 1, 1, 0, 2, 0⟩, ⟨0xB020, 5, 5, 1, 1, 1⟩, ⟨0xB040, 1, 1, 1, 2, 1⟩, ⟨0xB040, 5, 5, 1, 1, 1⟩,
   ⟨0xB050, 2, 2, 0, 15, 0xFF⟩, ⟨0xF000, 1, 1, 0, 1, 0⟩, ⟨0xF010, 1, 1, 1, 8, 1⟩,
   ⟨0xF010, 3, 3, 1, 65535, 1⟩, ⟨0xF010, 6, 6, 1, 1, 1⟩]

/-- The range of an entry; ports 5100h to 511Fh share the port command and the fence mode. -/
def rangeOf (i s : Nat) : Option Range :=
  if 0x5100 ≤ i ∧ i < 0x5120 then
    if s = 1 then some ⟨i, 1, 1, 1, 5, 1⟩ else if s = 13 then some ⟨i, 13, 13, 0, 2, 0⟩ else none
  else (ranges1 ++ ranges2).find? (fun r => r.i == i && decide (r.s0 ≤ s) && decide (s ≤ r.s1))

/-- The value lies in the range of its entry. -/
def inValueRange (i s v : Nat) : Bool :=
  match rangeOf i s with
  | some r => (decide (r.lo ≤ v) && decide (v ≤ r.hi)) || v == r.also
  | none => true

/-- A number that the value must be a multiple of (06 R176, 07 R201, 08 R220 R259, 10 R307, 13 R428,
14 R441). -/
def multipleOf (i s : Nat) : Nat :=
  match i, s with
  | 0x4000, 1 => 16384
  | 0x4002, _ => 4096
  | 0x6000, 2 => 512
  | 0x6001, 7 => 65536
  | 0x6040, 1 => 64
  | 0x8030, 2 => 2
  | 0x8030, 3 => 2
  | 0x9010, 5 => 128
  | 0xB010, 2 => 64
  | 0xB010, 3 => 4096
  | _, _ => 1

/-- A power of two from lo to hi. -/
def powerIn (lo hi v : Nat) : Bool := decide (lo ≤ v) && decide (v ≤ hi) && 2 ^ Nat.log2 v == v

/-- Shapes of a value beyond range and multiple: the stride and the ring size are powers of two
(08 R220 R259), 580h and 600h are no event base (15 R464), a B0 module takes only 0 at 3001h:01 and 3010h:01
(02 R66, 03 R85). -/
def shapeOk (f : Fuses) (i s v : Nat) : Bool :=
  match i, s with
  | 0x3001, 1 => f.stepping != 0xB0 || v == 0
  | 0x3010, 1 => f.stepping != 0xB0 || v == 0
  | 0x6000, 8 => powerIn 64 65536 v
  | 0x6040, 2 => v == 0 || powerIn 64 65536 v
  | 0x9010, 5 => v != 0x580 && v != 0x600
  | _, _ => true

/-- A NaN code (15 R447). -/
def isNaNCode (v : Nat) : Bool := decide (0x7F800000 < v % 2147483648)

/-- The value fits the type of the entry: no NaN, no undefined bit set in an rw entry (15 R447). -/
def typeOk (e : Ent) (v : Nat) : Bool :=
  match e.ty with
  | .f32 => !isNaNCode v
  | .bits _ m => e.acc != .rw || v &&& m == v
  | _ => true

/-- The value is one the entry defines; 04000001h where it is not. -/
def valueOk (f : Fuses) (e : Ent) (i s v : Nat) : Bool :=
  typeOk e v && inValueRange i s v && v % multipleOf i s == 0 && shapeOk f i s v

/-! ## Enabling serving (08 R221) -/

/-- A region entry names no region, or a region of the plan with the tier asked for. -/
def namesTier (c : Chip) (n tier : Nat) : Bool :=
  n == ones32 || (match regionOf c n with
    | some r => r.tier == tier
    | none => false)

/-- A region entry names a region of at least some size. -/
def namesSize (c : Chip) (n size : Nat) : Bool :=
  n != ones32 && (match regionOf c n with
    | some r => decide (size ≤ r.size)
    | none => false)

/-- The region entries of R220 name regions of the tiers of R221. -/
def serveTiers (c : Chip) : Bool :=
  (List.range 6).all (fun k => namesTier c (svRegion c (k + 1)) 0) &&
    (List.range 8).all (fun k => namesTier c (reg c (key 0x6002 (k + 1))) 2) &&
    (List.range 4).all (fun k => namesTier c (reg c (key 0x6003 (k + 1))) 0)

/-- The regions that serving needs, large enough for their layouts. -/
def serveSizes (c : Chip) : Bool :=
  let z := stageBytes c
  let tables := 255 * svRegion c 7 + 255 * (sv c 2 / 8)
  (sv c 12 == 0xFFFF && svRegion c 1 == ones32 || namesSize c (svRegion c 1) z) &&
    namesSize c (svRegion c 2) (sv c 11 * z) && namesSize c (svRegion c 3) (2 * tableHalf c) &&
    namesSize c (svRegion c 4) 524288 && namesSize c (svRegion c 5) (64 * cdiv (sv c 4) 16) &&
    (svRegion c 6 == ones32 || namesSize c (svRegion c 6) tables)

/-- Sampler region d has home die d and holds its command lines and, with speculation, one draft area. -/
def serveSamplers (c : Chip) : Bool :=
  (List.range 4).all (fun d =>
    let n := reg c (key 0x6003 (d + 1))
    n == ones32 || (namesSize c n (64 * (if sv c 7 = 0 then 768 else 1056)) && (match regionOf c n with
      | some r => r.home == d
      | none => false)))

/-- Pools and pages per die. -/
def servePools (c : Chip) : Bool :=
  (List.range 4).all (fun d =>
    decide ((diePools c d).length ≤ 4) &&
      decide (((diePools c d).map (poolPages c)).foldl (· + ·) 0 ≤ 1048576))

/-- Both ready cycles lie at least 16,384 cc before the cut-off cycle of the plan's step. -/
def serveCycles (c : Chip) : Bool :=
  match c.plan.image with
  | some im =>
    let cut := (im.hdr.stepLen - 128) * ccPerPair im.hdr.freq
    decide (sv c 5 + 16384 ≤ cut) && decide (sv c 6 + 16384 ≤ cut)
  | none => false

/-- The conditions of R221 that compare entries with the plan. -/
def serveOk (c : Chip) : Bool :=
  serveTiers c && serveSizes c && serveSamplers c && servePools c && serveCycles c &&
    decide (sv c 9 ≤ 4096 * tau c)

/-! ## Conditions on the state -/

/-- A write of 2000h:01 (15 R454): 0 where it is accepted. -/
def commitCode (c : Chip) (v : Nat) : Nat :=
  if runs c then
    (if v = ones64 then 0 else if v = atOnce64 then 0x04000001 else if stepPassed c v then 0x03000004 else 0)
  else if v = atOnce64 then 0
  else if c.plan.state = .halted ∧ v ≠ ones64 ∧ stepPassed c v then 0x03000004
  else 0x04000001

/-- A write of 2010h:03 (01 R29): a step already begun or finished is refused. -/
def haltCode (c : Chip) (v : Nat) : Nat :=
  let begun := c.plan.state == .running || c.plan.state == .halted || (c.plan.state == .armed && c.plan.fromHalted)
  if v ≠ ones64 ∧ begun ∧ v ≤ c.plan.step then 0x03000004 else 0

/-- A write of 2020h:01: a load or a re-place waits for an import; a re-place needs a plan at rest (06 R182). -/
def loadCode (c : Chip) (v : Nat) : Nat :=
  if c.det.importing.isSome then 0x03000002
  else if v = 3 ∧ c.plan.state ≠ .loaded ∧ c.plan.state ≠ .halted then 0x03000003
  else 0

/-- Carts of an epoch held in the module (5411h, 12 R406). -/
def cartsHeld (c : Chip) (e : Nat) : Nat :=
  (List.range 32).foldl (fun n p =>
    let q := portAt c p
    let mine := fun l : List Cart => (l.filter (fun x => x.epoch == e)).length
    n + mine (q.recv.map (·.1)) + mine q.egress + mine q.escq) 0

/-- A write of route table version v (12 R389). -/
def routeCode (c : Chip) (v : Nat) : Nat :=
  if cartsHeld c v ≠ 0 then 0x03000002
  else if runs c ∧ reg c (key 0x5301 1) = v then 0x03000003
  else 0

/-- A directory entry holds a live generation (07 R201). -/
def anyLive (c : Chip) : Bool := c.wts.dir.any (fun x => (copyIn x.2 .live).isSome)

/-- A write of a reservation or system area size (07 R201). -/
def storeCode (c : Chip) : Nat := if c.plan.state ≠ .empty ∨ anyLive c then 0x03000003 else 0

/-- A write of a serving setting (08 R221). -/
def servingCode (c : Chip) (i s v : Nat) : Nat :=
  if i = 0x6000 ∧ s = 1 then (if v = 1 ∧ c.plan.image = none then 0x03000003 else 0)
  else if serving c then 0x03000003
  else 0

/-- A write of 8030h:01 (10 R308). -/
def launchCode (c : Chip) (v : Nat) : Nat := if v = ones64 then disarmCode c else armCode c false v

/-- A write of B040h:05 (13 R425). -/
def importCode (c : Chip) : Nat :=
  if c.det.importing.isSome then 0x03000002 else if c.plan.state ≠ .loaded then 0x03000003 else 0

/-- A write of B030h:01 (13 R423). -/
def ckptCode (c : Chip) (v : Nat) : Nat := if v ≠ ones64 ∧ stepPassed c v then 0x03000004 else 0

/-- The conditions that an entry's own rule sets on the state, with the code of the first that fails. -/
def stateCode (c : Chip) (i s v : Nat) : Nat :=
  match i with
  | 0x2000 => if s = 1 then commitCode c v else 0
  | 0x2010 => haltCode c v
  | 0x2020 => if s = 1 then loadCode c v else 0
  | 0x4000 => storeCode c
  | 0x4002 => storeCode c
  | 0x5300 => routeCode c (s - 1)
  | 0x6000 => servingCode c i s v
  | 0x6001 => servingCode c i s v
  | 0x6002 => servingCode c i s v
  | 0x6003 => servingCode c i s v
  | 0x7010 => if s = 1 then buildCode c v else 0
  | 0x7020 => switchCode c (s - 1) v
  | 0x8000 => if s = 3 then changeCode c v else 0
  | 0x8030 => if s = 1 then launchCode c v else 0
  | 0xB030 => if s = 1 then ckptCode c v else 0
  | 0xB040 => if s = 5 then importCode c else 0
  | 0xB050 => if s = 1 then armCode c true v else 0
  | _ => 0

/-! ## Agreement with other entries -/

/-- The system areas of every stack stay within a quarter of 4000h:01 (07 R201). -/
def areasFit (c : Chip) : Bool := (List.range 8).all (fun k => decide (systemBytes c k ≤ resQuarter c))

/-- The role of port 31 suits the port it stands in for (12 R388). -/
def roleFits (role p : Nat) : Bool := p == 0xFF || (role == 1 && decide (p < 15)) || (role == 2 && decide (15 ≤ p))

/-- The value agrees with the entries it depends on; 04000002h where it does not. -/
def agrees (c : Chip) (i s v : Nat) : Bool :=
  match i, s with
  | 0x4000, 1 => areasFit (setReg c (key i s) v)
  | 0x4002, _ => areasFit (setReg c (key i s) v)
  | 0x5010, 1 => roleFits v (reg c (key 0x5010 2))
  | 0x5010, 2 => roleFits (reg c (key 0x5010 1)) v
  | 0x5310, 1 => decide (reg c (key 0x5310 4) ≤ v)
  | 0x5310, 2 => decide (reg c (key 0x5310 4) ≤ v)
  | 0x5310, 3 => decide (reg c (key 0x5310 4) ≤ v)
  | 0x5310, 4 => (List.range 3).all (fun k => decide (v ≤ reg c (key 0x5310 (k + 1))))
  | 0x6000, 1 => v == 0 || serveOk c
  | 0x6000, 12 => v == 0xFFFF || decide (v < sv c 11)
  | 0x8030, 2 => decide (v < launchE c)
  | 0x8030, 3 => decide (launchD c < v)
  | _, _ => true

/-! ## Key slots (18 R541) -/

/-- Entries of key slots. -/
def isKeySlot (i : Nat) : Bool := i == 0xA010 || i == 0xA020

/-- The held grant allows the value in the slot: some entry of it names the slot with the value's identifier, or with an
all-zero one where the value is all zero (18 R541). -/
def grantAllows (c : Chip) (i s : Nat) (b : List Byte) : Bool :=
  c.sec.grant.any (fun g => g.1 == key i s && (if allZero g.2 then allZero b else keyId b == g.2))

/-! ## The checks in order (15 R467 R468) -/

/-- The length of a value fits its entry (15 R461). -/
def lengthOk (e : Ent) (n : Nat) : Bool :=
  match e.ty with
  | .domv m => decide (n ≤ m)
  | t => n == tySize t

/-- The entry is of a class that the present state does not write: 03000001h while a plan runs, 03000002h
during a load (15 R452). -/
def classCode (c : Chip) (e : Ent) : Nat :=
  if e.app ≠ .halted then 0
  else if runs c then 0x03000001
  else if c.plan.loading.isSome then 0x03000002
  else 0

/-- The code of the first cause of R467 that applies to a write, 0 where it is accepted. -/
def writeCode (f : Fuses) (c : Chip) (i s : Nat) (b : List Byte) : Nat :=
  match entOf i s with
  | none => 0x02000001
  | some e =>
    let v := leNat b
    if e.acc = .ro then 0x02000002
    else if !lengthOk e b.length then 0x02000004
    else if i = 0xF010 ∧ reg c (key 0xF000 1) ≠ 1 then 0x05000001
    else if isKeySlot i ∧ !grantAllows c i s b then 0x05000002
    else if classCode c e ≠ 0 then classCode c e
    else if stateCode c i s v ≠ 0 then stateCode c i s v
    else if !tyScalar e.ty then 0
    else if !valueOk f e i s v then 0x04000001
    else if !agrees c i s v then 0x04000002
    else 0

end Sys2Proof.Machine
end

