-- ==== Sys2Proof/Machine/Dictionary.lean ====
section
/-! DEFINITION. Reading and writing the dictionary (15 R446 to R456): the value of every entry, and what an
accepted write does. -/

namespace Sys2Proof.Machine

/-! ## Values -/

/-- The number of a plan state (01 R27). -/
def planStateCode : PlanState → Nat
  | .empty => 0
  | .loaded => 1
  | .armed => 2
  | .running => 3
  | .halted => 4

/-- The node ID in force (15 R464): the high part in force and the straps. -/
def nodeId (c : Chip) : Nat := 16 * c.eng.canId + c.power.straps

/-- 5311h:01: levels throttled by the own occupancy in [2:0], by pressure in [6:5] (12 R405). -/
def throttleBits (c : Chip) : Nat :=
  let b := fun (x : Bool) (n : Nat) => if x then n else 0
  b (c.fab.own.getD 0 false) 1 + b (c.fab.own.getD 1 false) 2 + b (c.fab.own.getD 2 false) 4 +
    b (pressed c 1) 32 + b (pressed c 2) 64

/-- The newest state digest (B000h:03, :04). -/
def lastDigest (c : Chip) : Nat × List Byte := c.det.shown

/-- The number of an entry of ports 5100h to 511Fh. -/
def portNum (c : Chip) (i s : Nat) : Nat :=
  if s = 3 then pstateCode (portAt c (i - 0x5100)).st else reg c (key i s)

/-- The value of a numeric entry (15 R470 to R481): those that another part of the state holds, and the
register map for the rest. -/
def numValue (f : Fuses) (c : Chip) (i s : Nat) : Nat :=
  match i, s with
  | 0x1001, 2 => f.tiles
  | 0x1001, 3 => f.stepping
  | 0x1002, s => f.maps.getD s 0
  | 0x1003, 1 => f.unique
  | 0x1004, 1 => c.power.boot.build
  | 0x1010, 2 => nodeId c
  | 0x2000, 3 => shadowsDiffering c
  | 0x2010, 1 => planStateCode c.plan.state
  | 0x2010, 2 => c.plan.step
  | 0x2012, 1 => c.plan.variant
  | 0x4001, 5 => ownLogical c
  | 0x5311, 1 => throttleBits c
  | 0x5320, 2 => tagNow c
  | 0x5411, s => cartsHeld c (s - 1)
  | 0x6040, 8 => c.srv.backlog.length
  | 0x8010, 2 => c.count
  | 0x8010, 3 => countState c
  | 0x9000, 2 => if c.err.cap.isSome then 1 else 0
  | 0x9001, 1 => c.err.log.length
  | 0xB000, 4 => (lastDigest c).1
  | i, s => if 0x5100 ≤ i ∧ i < 0x5120 then portNum c i s else reg c (key i s)

/-- The record bytes of a capture or of the oldest unread record; zeros where there is none. -/
def recValue (r : Option Rec) : List Byte :=
  match r with
  | some r => recBytes r
  | none => List.replicate 64 0

/-- The session entry that 6020h:01 selects, as at the last boundary (08 R223). -/
def sessionValue (c : Chip) : List Byte :=
  match c.srv.snap with
  | some m => slice (sessBytes (smGet Sess.free m (reg c (key 0x6020 1)))) 0 256
  | none => List.replicate 256 0

/-- A table of the placement, 4001h:01 to :04 (06 R177). -/
def placeValue (c : Chip) (s : Nat) : List Byte :=
  match c.plan.place with
  | some pl =>
    (match s with
      | 1 => tileTable pl
      | 2 => regionTable pl
      | 3 => hopTable pl
      | _ => slice pl.hash 0 32)
  | none => if s = 4 then List.replicate 32 0 else []

/-- The part number, 1001h:01 (00 R2). -/
def partNumber (f : Fuses) : List Byte :=
  ascii (match f.tiles with
    | 192 => "QZ7-192"
    | 176 => "QZ7-176"
    | _ => "QZ7-160")

/-- A key slot: 1,984 bytes, all zero where it is empty (15 R479). -/
def keySlot (c : Chip) (i s : Nat) : List Byte := slice (smGet [] c.blobs (key i s)) 0 1984

/-- The bytes of a STR or DOMAIN entry. -/
def blobValue (f : Fuses) (c : Chip) (i s : Nat) : List Byte :=
  match i with
  | 0x1001 => partNumber f
  | 0x2020 => planHash c
  | 0x4001 => placeValue c s
  | 0x5300 => routeTable c (s - 1)
  | 0x6020 => sessionValue c
  | 0x7030 => dirRecord c (reg c (key 0x7030 1))
  | 0x9000 => recValue c.err.cap
  | 0x9001 => recValue c.err.log.head?
  | 0xA000 =>
    if s = 1 then slice (Config.agreeX25519 (agreeSeed f)) 0 32
    else if s = 2 then slice (Config.agreeMlKem (agreeSeed f)) 0 1184
    else agreeId f
  | 0xB000 =>
    if s = 1 then settingsDigest c else if s = 2 then settingsRecord c else slice (lastDigest c).2 0 16
  | i => if isKeySlot i then keySlot c i s else slice (portAt c (i - 0x5100)).digest 0 16

/-- The value of an entry as its bytes; the shadow of a staged entry where asked for (15 R451). -/
def readValue (f : Fuses) (c : Chip) (e : Ent) (i s : Nat) (shadow : Bool) : List Byte :=
  if !tyScalar e.ty then blobValue f c i s
  else if shadow ∧ e.app = .staged then leBytes (tySize e.ty) (shadowOf c (key i s))
  else leBytes (tySize e.ty) (numValue f c i s)

/-! ## Writes -/

/-- Clear the bits of x that v has set (15 R448). -/
def clearBits (x v : Nat) : Nat := x - (x &&& v)

/-- A change of an entry that the settings record holds sends its notices (13 R409). -/
def settle (e : Ent) (i s : Nat) (before c : Chip) : Chip :=
  if e.listed ∨ (i = 0x5000 ∧ s = 1) then noticeDigest before c else c

/-- Store a value under the entry's access and class (15 R448 R450 R451). A flip request written after the
copy of a cut-off is marked in the copy by key 0: it belongs to the next commit (12 R389, 15 R455). -/
def storeValue (c : Chip) (e : Ent) (i s v : Nat) : Chip :=
  let k := key i s
  if e.acc = .w1c then setReg c k (clearBits (reg c k) v)
  else if e.app = .staged then
    let c := { c with shadow := smInsert c.shadow k v }
    if k = key 0x5301 2 then { c with commitCopy := c.commitCopy.map (fun m => smSet 0 m 0 1) } else c
  else settle e i s c (setReg c k v)

/-- A commit entry written (15 R454). -/
def writeCommit (c : Chip) (s v : Nat) : Chip :=
  if s = 4 then dropShadows c else if v = atOnce64 then commitAtOnce c else setReg c (key 0x2000 2) v

/-- The load command (06 R164). -/
def writeLoad (c : Chip) (v : Nat) : Chip :=
  if v = 1 then startLoad c else if v = 2 then unloadPlan c else startReplace c

/-- The consumed count (08 R261 R262 R263): the difference may fall below the threshold, the backlog drains
into the ring, and the mirror follows what drained. -/
def writeConsumed (c : Chip) (v : Nat) : Chip :=
  let c := setReg c (key 0x6040 4) v
  let c := if ringFill c < reg c (key 0x6040 3) then { c with host := { c.host with fired := nsErase c.host.fired 0 } }
    else c
  let r := drain c
  if r.2 then writeMirror r.1 else r.1

/-- The ring size: a ring set up takes what waits (08 R263). -/
def writeRing (c : Chip) (v : Nat) : Chip := (drain (setReg c (key 0x6040 2) v)).1

/-- The launch count (10 R308). -/
def writeLaunch (c : Chip) (v : Nat) : Chip := if v = ones64 then disarm c else arm c false v

/-- Removal of the oldest record, or the clearing of the capture (14 R435 R437 R440). -/
def removeOldest (c : Chip) : Chip := unlatch { c with err := { c.err with log := c.err.log.drop 1 } }

/-- See `removeOldest`. -/
def clearCap (c : Chip) : Chip := unlatch { c with err := { c.err with cap := none } }

/-- A key slot takes its value; all zero bytes empty it (15 R479). -/
def writeKey (c : Chip) (i s : Nat) (b : List Byte) : Chip :=
  { c with blobs := smSet ([] : List Byte) c.blobs (key i s) (if allZero b then [] else b) }

/-- The node ID's high part (15 R464). -/
def writeNode (c : Chip) (v : Nat) : Chip :=
  { setReg c (key 0x1010 1) v with eng := { c.eng with canId := v, canHigh := none } }

/-- A write to a port's entries: the command, or the fence mode. -/
def writePort (f : Fuses) (c : Chip) (p s v : Nat) : Chip :=
  if s = 1 then portCommand f c p v else fenceMode (setReg c (key (0x5100 + p) 13) v) p v

/-- Another time root or another parent port is named: the count is to be acquired from it (10 R300 R303). -/
def writeParent (c : Chip) (e : Ent) (i s v : Nat) : Chip :=
  let c' := storeValue c e i s v
  if reg c (key i s) = v then c' else acquireAnew c'

/-- A change count schedules the frequency requested at that moment (10 R316). -/
def writeChange (c : Chip) (e : Ent) (i s v : Nat) : Chip :=
  storeValue { c with time := { c.time with freqNext := reg c (key 0x8000 2) } } e i s v

/-- What an accepted write of an entry does. -/
def applyWrite (f : Fuses) (c : Chip) (e : Ent) (i s : Nat) (b : List Byte) : Chip :=
  let v := leNat b
  match i, s with
  | 0x1010, 1 => writeNode c v
  | 0x1020, 1 => fillRoutes (setReg c (key i s) v) v
  | 0x2000, s => writeCommit c s v
  | 0x2020, 1 => writeLoad c v
  | 0x5010, 1 => throttles (setReg c (key i s) v)
  | 0x5300, s => setRouteTable c (s - 1) b
  | 0x5310, s => throttles (setReg c (key i s) v)
  | 0x6040, 2 => writeRing c v
  | 0x6040, 4 => writeConsumed c v
  | 0x7010, 1 => buildCommand f c v
  | 0x7020, s => writeSwitch c (s - 1) v
  | 0x8000, 3 => writeChange c e i s v
  | 0x8010, 1 => writeParent c e i s v
  | 0x8030, 1 => writeLaunch c v
  | 0x8030, 5 => writeParent c e i s v
  | 0x9000, 3 => clearCap c
  | 0x9001, 3 => removeOldest c
  | 0xB011, 1 => storeValue { c with det := { c.det with diverged := false } } e i s v
  | 0xB020, 5 => { c with det := { c.det with fullDue := true } }
  | 0xB040, 5 => startImport c
  | 0xB050, 1 => arm c true v
  | 0xF010, 6 => startInjection c
  | i, s =>
    if isKeySlot i then writeKey c i s b
    else if 0x5100 ≤ i ∧ i < 0x5120 then writePort f c (i - 0x5100) s v
    else storeValue c e i s v

/-- Count a request: served, and where it aborts its code and entry (15 R468). -/
def countRequest (c : Chip) (code i s : Nat) : Chip :=
  let c := addReg c (key 0x2002 1) 1
  if code = 0 then c
  else setReg (setReg (addReg c (key 0x2002 2) 1) (key 0x2002 3) code) (key 0x2002 4) (key i s)

/-- A write that no check refuses meets an uncorrectable error in the engine's own storage, and writes nothing (15 R467); a
corrected one leaves no trace. -/
def storeWrite (c : Chip) (f : Chip → Chip) : Chip × Nat :=
  match flawAt c .dictionary with
  | some x => if x.unc then (dropFlaw c .dictionary, 0x06000001) else (f (dropFlaw c .dictionary), 0)
  | none => (f c, 0)

/-- A write with its checks: the chip after it, and the abort code, 0 where it is accepted. -/
def tryWrite (f : Fuses) (c : Chip) (i s : Nat) (b : List Byte) : Chip × Nat :=
  let code := writeCode f c i s b
  match entOf i s with
  | some e => if code = 0 then storeWrite c (fun c => applyWrite f (catchUp c) e i s b) else (c, code)
  | none => (c, code)

/-- A write that the controller makes by either path, counted as a request; the frames that carry it are
those of READ to CLOSE_TRANSFER (log 27). -/
def dictWrite (f : Fuses) (i s : Nat) (b : List Byte) (c : Chip) : Chip :=
  let r := tryWrite f c i s b
  countRequest r.1 r.2 i s

/-- A state's effect of a write of a number of n bytes. -/
def writeRow (s : State) (i sub n v : Nat) : Host.Outcome State Fault Refusal :=
  onRunning s (dictWrite s.fuses i sub (leBytes n v))

end Sys2Proof.Machine
end

