-- ==== Sys2Proof/Machine/Engine.lean ====
section
/-! DEFINITION. The transaction engine (15 R458 to R466): requests on the CAN FD path and through the window,
the commands of R461, segmented transfers, and the frames that leave on CAN FD. -/

namespace Sys2Proof.Machine

/-! ## Requests and answers -/

/-- What the engine answers: the abort code or 0, bytes 02h to 05h of the response as index, subindex and flags,
the data, and the entry that an abort names. -/
structure Answer where
  code : Nat
  index : Nat
  sub : Nat
  flags : Nat
  data : List Byte
  entry : Nat × Nat
  deriving DecidableEq, Repr

/-- An answer that echoes the request (15 R460). -/
def echo (r : Request) (code : Nat) (data : List Byte) : Answer :=
  ⟨code, r.index.toNat, r.sub.toNat, r.flags.toNat, data, (r.index.toNat, r.sub.toNat)⟩

/-- The data of a request. -/
def reqData (r : Request) : List Byte := slice r.data 0 (min 56 r.len.toNat)

/-- The frame is malformed: more than 56 data bytes, or a flag that the command does not define (15 R459). -/
def malformed (r : Request) (defined : Nat) : Bool :=
  decide (56 < r.len.toNat) || r.flags.toNat &&& defined != r.flags.toNat

/-- The byte offset of a segment command (15 R459). -/
def segOffset (r : Request) : Nat := r.index.toNat + r.sub.toNat * 65536 + r.flags.toNat * 16777216

/-! ## The commands of R461 -/

/-- A read of an entry, up to a length: 02000001h, 02000003h, 02000004h or the value. -/
def readAnswer (f : Fuses) (c : Chip) (r : Request) (limit : Option Nat) : Except Nat (List Byte) :=
  match entOf r.index.toNat r.sub.toNat with
  | none => .error 0x02000001
  | some e =>
    if e.acc = .wo then .error 0x02000003
    else
      let b := readValue f c e r.index.toNat r.sub.toNat (bit r.flags.toNat 1)
      let long := match limit with
        | some n => decide (n < b.length)
        | none => false
      if r.len != 0 || long then .error 0x02000004 else .ok b

/-- Command 01h. -/
def serveRead (f : Fuses) (c : Chip) (r : Request) : Chip × Answer :=
  if malformed r 2 then (c, echo r 0x01000001 [])
  else match readAnswer f c r (some 56) with
    | .error e => (c, echo r e [])
    | .ok b => (c, echo r 0 b)

/-- Command 02h. -/
def serveWrite (f : Fuses) (c : Chip) (r : Request) : Chip × Answer :=
  if malformed r 0 then (c, echo r 0x01000001 [])
  else
    let x := tryWrite f c r.index.toNat r.sub.toNat (reqData r)
    (x.1, echo r x.2 [])

/-- Open or close the transfer. -/
def setTransfer (c : Chip) (t : Option Transfer) : Chip := { c with eng := { c.eng with transfer := t } }

/-- Command 03h: an accepted start replaces any open transfer; one of no bytes is over at once. -/
def serveReadStart (f : Fuses) (c : Chip) (r : Request) : Chip × Answer :=
  if malformed r 2 then (c, echo r 0x01000001 [])
  else match readAnswer f c r none with
    | .error e => (c, echo r e [])
    | .ok b =>
      let t : Transfer := ⟨false, r.index.toNat, r.sub.toNat, b.length, 0, b, c.count⟩
      (setTransfer c (if b.isEmpty then none else some t), echo r 0 (leBytes 4 b.length))

/-- The answer to a segment: its entry is the transfer's. -/
def segAnswer (r : Request) (t : Option Transfer) (code : Nat) (data : List Byte) : Answer :=
  let k := match t with
    | some t => (t.index, t.sub)
    | none => (0, 0)
  { echo r code data with entry := k }

/-- The code of the first cause that refuses a segment of a direction and a length that carries it to `stop`. -/
def segCode (r : Request) (t : Option Transfer) (write : Bool) (n : Nat) : Nat :=
  if 56 < r.len.toNat then 0x01000001
  else match t with
    | none => 0x01000003
    | some t =>
      if segOffset r ≠ t.done ∨ (t.write ∧ write ∧ t.total < t.done + n) then 0x01000002
      else if t.write ≠ write then 0x01000003
      else if !write && r.len != 0 then 0x02000004
      else 0

/-- Command 04h. -/
def serveReadSegment (c : Chip) (r : Request) : Chip × Answer :=
  let t := c.eng.transfer
  match segCode r t false 0, t with
  | 0, some x =>
    let n := min 56 (x.total - x.done)
    let next := if x.total ≤ x.done + n then none else some { x with done := x.done + n, since := c.count }
    (setTransfer c next, segAnswer r t 0 (slice x.data x.done n))
  | code, _ => (c, segAnswer r t code [])

/-- Command 05h. -/
def serveWriteStart (c : Chip) (r : Request) : Chip × Answer :=
  if malformed r 0 then (c, echo r 0x01000001 [])
  else match entOf r.index.toNat r.sub.toNat with
    | none => (c, echo r 0x02000001 [])
    | some e =>
      let total := field r.data 0 4
      if e.acc = .ro then (c, echo r 0x02000002 [])
      else if r.len ≠ 4 ∨ !lengthOk e total then (c, echo r 0x02000004 [])
      else (setTransfer c (some ⟨true, r.index.toNat, r.sub.toNat, total, 0, [], c.count⟩), echo r 0 [])

/-- Command 06h: at the total length the entry is written at once and the transfer closes. -/
def serveWriteSegment (f : Fuses) (c : Chip) (r : Request) : Chip × Answer :=
  let t := c.eng.transfer
  match segCode r t true r.len.toNat, t with
  | 0, some x =>
    let d := x.data ++ reqData r
    if x.total ≤ x.done + r.len.toNat then
      let y := tryWrite f (setTransfer c none) x.index x.sub d
      (y.1, segAnswer r t y.2 [])
    else (setTransfer c (some { x with done := x.done + r.len.toNat, data := d, since := c.count }), segAnswer r t 0 [])
  | code, _ => (c, segAnswer r t code [])

/-- The first entry of a row of the map after an entry. -/
def rowNext (e : Ent) (i s : Nat) : Option (Nat × Nat) :=
  if i < e.i0 then some (e.i0, e.s0)
  else if e.i1 < i then none
  else if s < e.s0 then some (i, e.s0)
  else if s < e.s1 then some (i, s + 1)
  else if i < e.i1 then some (i + 1, e.s0)
  else none

/-- The first existing entry that follows (15 R463). -/
def nextEntry (i s : Nat) : Option (Nat × Nat) :=
  entTable.foldl (fun best e =>
    match best, rowNext e i s with
    | some b, some x => if key x.1 x.2 < key b.1 b.2 then some x else some b
    | none, x => x
    | b, none => b) none

/-- Numbers of access and class in a descriptor (15 R463). -/
def accCode : EAcc → Nat
  | .ro => 0
  | .rw => 1
  | .wo => 2
  | .w1c => 3

/-- See `accCode`. -/
def appCode : EApp → Nat
  | .immediate => 0
  | .staged => 1
  | .halted => 2

/-- The type is of variable length. -/
def varLen : ETy → Bool
  | .domv _ => true
  | _ => false

/-- The default of an entry in its descriptor: what manufacture, firmware and straps fix has its value as its
default (15 R449 R470). -/
def descDefault (f : Fuses) (c : Chip) (e : Ent) (i s : Nat) : Nat :=
  if !tyScalar e.ty then 0
  else if e.made ∨ i = 0x1004 then numValue f c i s
  else if i = 0x1010 ∧ s = 2 then c.power.straps
  else e.dflt

/-- The descriptor (15 R463). -/
def descriptor (f : Fuses) (c : Chip) (e : Ent) (i s : Nat) : List Byte :=
  leBytes 1 (tyCode e.ty) ++ leBytes 1 (accCode e.acc) ++ leBytes 1 (appCode e.app) ++
    leBytes 1 ((if e.listed then 1 else 0) + (if varLen e.ty then 2 else 0) + (if e.made then 4 else 0)) ++
    leBytes 4 (tySize e.ty) ++ leBytes 8 (descDefault f c e i s) ++ leBytes 2 i ++ leBytes 1 s ++ leBytes 1 0

/-- Command 07h. -/
def serveDescribe (f : Fuses) (c : Chip) (r : Request) : Chip × Answer :=
  if malformed r 1 then (c, echo r 0x01000001 [])
  else
    let named := (r.index.toNat, r.sub.toNat)
    match (if bit r.flags.toNat 0 then nextEntry named.1 named.2 else some named) with
    | none => (c, echo r 0x02000001 [])
    | some x =>
      match entOf x.1 x.2 with
      | none => (c, echo r 0x02000001 [])
      | some e =>
        if r.len ≠ 0 then (c, echo r 0x02000004 [])
        else (c, { echo r 0 (descriptor f c e x.1 x.2) with index := x.1, sub := x.2 })

/-- Command 08h. -/
def serveClose (c : Chip) (r : Request) : Chip × Answer :=
  if r.index ≠ 0 ∨ r.sub ≠ 0 ∨ r.flags ≠ 0 ∨ r.len ≠ 0 ∨ !allZero (r.data.take 56) then (c, echo r 0x01000001 [])
  else (setTransfer c none, echo r 0 [])

/-! ## Paths (15 R458 R460 R464 to R466) -/

/-- The response frame (15 R460). -/
def responseFrame (cmd : Nat) (r : Request) (a : Answer) : List Byte :=
  let abort := a.code != 0
  let d := if abort then leBytes 4 a.code else a.data
  leBytes 1 (if abort then 0xFF else cmd) ++ leBytes 1 r.tag.toNat ++ leBytes 2 a.index ++ leBytes 1 a.sub ++
    leBytes 1 a.flags ++ leBytes 1 d.length ++ leBytes 1 0 ++ slice d 0 56

/-- A write of the node ID by CAN FD waits for its response (15 R464). -/
def holdNode (before c : Chip) : Chip :=
  if c.eng.canId = before.eng.canId then c
  else { c with eng := { c.eng with canId := before.eng.canId, canHigh := some c.eng.canId } }

/-- A request of a path is served and answered; path 0 is CAN FD, path 1 the window. A CAN request that comes
while the one before is unanswered is discarded (15 R458). -/
def serve (cmd : Nat) (r : Request) (act : Chip → Chip × Answer) (c : Chip) : Chip :=
  if r.path = 0 ∧ c.eng.canResp.isSome then c
  else
    let x := act c
    let d := countRequest x.1 x.2.code x.2.entry.1 x.2.entry.2
    let b := responseFrame cmd r x.2
    if r.path = 0 then
      let d := holdNode c d
      { d with eng := { d.eng with canResp := some b } }
    else
      let n := (d.eng.winCount + 1) % 4294967296
      { d with eng := { d.eng with winResp := b, winStatus := 2, winCount := n } }

/-- An unknown command, or a reserved byte that is not 0: aborted before anything else is looked at. -/
def serveBad (r : Request) (c : Chip) : Chip × Answer := (c, { echo r 0x01000001 [] with entry := (0, 0) })

/-- A frame of 64 bytes as a request of a path (15 R459). -/
def frameReq (path : Fin 2) (b : List Byte) : Request :=
  ⟨path, BitVec.ofNat 8 (field b 1 1), BitVec.ofNat 16 (field b 2 2), BitVec.ofNat 8 (field b 4 1),
    BitVec.ofNat 8 (field b 5 1), BitVec.ofNat 8 (field b 6 1), slice b 8 56⟩

/-- The engine takes a frame. -/
def serveFrame (f : Fuses) (path : Fin 2) (b : List Byte) (c : Chip) : Chip :=
  let r := frameReq path b
  let cmd := field b 0 1
  if field b 7 1 ≠ 0 then serve cmd r (serveBad r) c
  else match cmd with
    | 1 => serve 1 r (fun c => serveRead f c r) c
    | 2 => serve 2 r (fun c => serveWrite f c r) c
    | 3 => serve 3 r (fun c => serveReadStart f c r) c
    | 4 => serve 4 r (fun c => serveReadSegment c r) c
    | 5 => serve 5 r (fun c => serveWriteStart c r) c
    | 6 => serve 6 r (fun c => serveWriteSegment f c r) c
    | 7 => serve 7 r (fun c => serveDescribe f c r) c
    | 8 => serve 8 r (fun c => serveClose c r) c
    | _ => serve cmd r (serveBad r) c

/-- Ticks of the 1 s after which a transfer without a segment closes (15 R462). -/
def transferTicks : Nat := 500000000

/-- TRANSFER_TIMEOUT: 1 s after the transfer's start or last segment it closes (15 R462). -/
def fTimeoutXfer (c : Chip) : Chip :=
  match c.eng.transfer with
  | some t => addReg (setTransfer (reach c (t.since + transferTicks)) none) (key 0x2002 5) 1
  | none => c

/-- CAN_REQUEST_FRAME: a frame on the request identifier of 64 bytes; every other frame is ignored
(15 R464). -/
def fCanFrame (f : Fuses) (id : Nat) (b : List Byte) (c : Chip) : Chip :=
  if id = 0x600 + nodeId c ∧ b.length = 64 then serveFrame f 0 b c else c

/-- SUBMIT: the request frame of the window as it stands, unless Status is 1 (15 R466). -/
def fSubmit (f : Fuses) (c : Chip) : Chip := if c.eng.winStatus = 1 then c else serveFrame f 1 c.eng.winReq c

/-- CAN_RESPONSE_SEND: no response leaves while an event frame waits (14 R441, 15 R464 R465). -/
def fResponse (c : Chip) : Chip :=
  match c.err.canq, c.eng.canResp with
  | [], some b =>
    let c := emit c (.canFrame (0x580 + nodeId c) b)
    { c with eng := { c.eng with canResp := none, canId := c.eng.canHigh.getD c.eng.canId, canHigh := none } }
  | _, _ => c

/-- EVENT_FRAME_SEND (14 R440). -/
def fEvent (c : Chip) : Chip :=
  match c.err.canq with
  | b :: t => emit { c with err := { c.err with canq := t } } (.canFrame (reg c (key 0x9010 5) + nodeId c) b)
  | [] => c

/-! ## The meanings -/

/-- READ. -/
def execRead (r : Request) (s : State) : Host.Outcome State Fault Refusal :=
  onRunning s (serve 1 r (fun c => serveRead s.fuses c r))

/-- WRITE. -/
def execWrite (r : Request) (s : State) : Host.Outcome State Fault Refusal :=
  onRunning s (serve 2 r (fun c => serveWrite s.fuses c r))

/-- READ_START. -/
def execReadStart (r : Request) (s : State) : Host.Outcome State Fault Refusal :=
  onRunning s (serve 3 r (fun c => serveReadStart s.fuses c r))

/-- READ_SEGMENT. -/
def execReadSegment (r : Request) (s : State) : Host.Outcome State Fault Refusal :=
  onRunning s (serve 4 r (fun c => serveReadSegment c r))

/-- WRITE_START. -/
def execWriteStart (r : Request) (s : State) : Host.Outcome State Fault Refusal :=
  onRunning s (serve 5 r (fun c => serveWriteStart c r))

/-- WRITE_SEGMENT. -/
def execWriteSegment (r : Request) (s : State) : Host.Outcome State Fault Refusal :=
  onRunning s (serve 6 r (fun c => serveWriteSegment s.fuses c r))

/-- DESCRIBE. -/
def execDescribe (r : Request) (s : State) : Host.Outcome State Fault Refusal :=
  onRunning s (serve 7 r (fun c => serveDescribe s.fuses c r))

/-- CLOSE_TRANSFER. -/
def execCloseTransfer (r : Request) (s : State) : Host.Outcome State Fault Refusal :=
  onRunning s (serve 8 r (fun c => serveClose c r))

/-- TRANSFER_TIMEOUT. -/
def execTransferTimeout (s : State) : Host.Outcome State Fault Refusal := onRunning s fTimeoutXfer

/-- CAN_REQUEST_FRAME. -/
def execCanRequestFrame (id : BitVec 11) (data : List Byte) (s : State) : Host.Outcome State Fault Refusal :=
  onRunning s (fCanFrame s.fuses id.toNat data)

/-- SUBMIT. -/
def execSubmit (s : State) : Host.Outcome State Fault Refusal := onRunning s (fSubmit s.fuses)

/-- CAN_RESPONSE_SEND. -/
def execCanResponseSend (s : State) : Host.Outcome State Fault Refusal := onRunning s fResponse

/-- EVENT_FRAME_SEND. -/
def execEventFrameSend (s : State) : Host.Outcome State Fault Refusal := onRunning s fEvent

end Sys2Proof.Machine
end

