-- ==== Sys2Proof/Machine/FloatMeanings.lean ====
section
/-! DEFINITION. Meanings of the FP32 vector instructions (04 R97 to R101): each issues under the gate of
its program in every tile its mask selects (05 R120 R124); `tileExec` says what it does there. -/

namespace Sys2Proof.Machine

/-- VADD. -/
def execVadd (i : Issue) (g : Gov) (vd a : Fin 64) (b : Src) (s : State) : Host.Outcome State Fault Refusal :=
  issueX s i (.vadd i g vd a b)

/-- VSUB. -/
def execVsub (i : Issue) (g : Gov) (vd a : Fin 64) (b : Src) (s : State) : Host.Outcome State Fault Refusal :=
  issueX s i (.vsub i g vd a b)

/-- VMUL. -/
def execVmul (i : Issue) (g : Gov) (vd a : Fin 64) (b : Src) (s : State) : Host.Outcome State Fault Refusal :=
  issueX s i (.vmul i g vd a b)

/-- VFMA. -/
def execVfma (i : Issue) (g : Gov) (vd a : Fin 64) (b c : Src) (s : State) : Host.Outcome State Fault Refusal :=
  issueX s i (.vfma i g vd a b c)

/-- VMIN. -/
def execVmin (i : Issue) (g : Gov) (vd a : Fin 64) (b : Src) (s : State) : Host.Outcome State Fault Refusal :=
  issueX s i (.vmin i g vd a b)

/-- VMAX. -/
def execVmax (i : Issue) (g : Gov) (vd a : Fin 64) (b : Src) (s : State) : Host.Outcome State Fault Refusal :=
  issueX s i (.vmax i g vd a b)

/-- VABS. -/
def execVabs (i : Issue) (g : Gov) (vd a : Fin 64) (s : State) : Host.Outcome State Fault Refusal :=
  issueX s i (.vabs i g vd a)

/-- VNEG. -/
def execVneg (i : Issue) (g : Gov) (vd a : Fin 64) (s : State) : Host.Outcome State Fault Refusal :=
  issueX s i (.vneg i g vd a)

/-- VCMP. -/
def execVcmp (i : Issue) (g : Gov) (cc : Cc) (pd : Fin 8) (a : Fin 64) (b : Src) (s : State) : Host.Outcome State Fault Refusal :=
  issueX s i (.vcmp i g cc pd a b)

/-- VSEL. -/
def execVsel (i : Issue) (g : Gov) (vd a : Fin 64) (b : Src) (ps : Fin 8) (s : State) : Host.Outcome State Fault Refusal :=
  issueX s i (.vsel i g vd a b ps)

/-- VRSUM. -/
def execVrsum (i : Issue) (g : Gov) (vd a : Fin 64) (s : State) : Host.Outcome State Fault Refusal :=
  issueX s i (.vrsum i g vd a)

/-- VRMAX. -/
def execVrmax (i : Issue) (g : Gov) (vd a : Fin 64) (s : State) : Host.Outcome State Fault Refusal :=
  issueX s i (.vrmax i g vd a)

/-- VRMAXI. -/
def execVrmaxi (i : Issue) (g : Gov) (vd a : Fin 64) (s : State) : Host.Outcome State Fault Refusal :=
  issueX s i (.vrmaxi i g vd a)

/-- VEXP2. -/
def execVexp2 (i : Issue) (g : Gov) (vd a : Fin 64) (s : State) : Host.Outcome State Fault Refusal :=
  issueX s i (.vexp2 i g vd a)

/-- VLOG2. -/
def execVlog2 (i : Issue) (g : Gov) (vd a : Fin 64) (s : State) : Host.Outcome State Fault Refusal :=
  issueX s i (.vlog2 i g vd a)

/-- VRCP. -/
def execVrcp (i : Issue) (g : Gov) (vd a : Fin 64) (s : State) : Host.Outcome State Fault Refusal :=
  issueX s i (.vrcp i g vd a)

/-- VRSQ. -/
def execVrsq (i : Issue) (g : Gov) (vd a : Fin 64) (s : State) : Host.Outcome State Fault Refusal :=
  issueX s i (.vrsq i g vd a)

/-- VDIV. -/
def execVdiv (i : Issue) (g : Gov) (vd a b : Fin 64) (s : State) : Host.Outcome State Fault Refusal :=
  issueX s i (.vdiv i g vd a b)

end Sys2Proof.Machine
end

