-- ==== Sys2Proof/Machine/ConfigSpace.lean ====
section
/-! DEFINITION. What the host finds in configuration space (17 R500 R501): the header, the extended capabilities,
and which features of CXL 3.1 it can enable. No command of the table reads configuration space; the values follow
from the fuses and from `HostIf`. -/

namespace Sys2Proof.Machine

/-- The fields of R501, with the command bits and the base of BAR 0 that the host port keeps. -/
structure ConfigHeader where
  vendor : Nat
  device : Nat
  revision : Nat
  classCode : Nat
  headerType : Nat
  interruptPin : Nat
  busMaster : Bool
  memorySpace : Bool
  bar0 : Nat
  d3hot : Bool
  bar0Bytes : Nat
  bar0Wide : Bool
  bar0Prefetch : Bool
  bars2to5 : List Nat
  deriving DecidableEq, Repr

/-- The header (17 R501): all grades alike, the revision after the stepping. The vendor ID is the PCI-SIG's
(log 9). -/
def configHeader (f : Fuses) (h : HostIf) : ConfigHeader :=
  { vendor := Config.vendorId, device := 0x5A07, revision := f.stepping, classCode := 0x120000, headerType := 0,
    interruptPin := 0, busMaster := h.bme, memorySpace := h.mse, bar0 := h.bar0, d3hot := h.d3, bar0Bytes := 0x400000, bar0Wide := true,
    bar0Prefetch := false, bars2to5 := [0, 0, 0, 0] }

/-- The extended capabilities (17 R501). -/
inductive ExtCap where
  | aer | doe | ide | cxlDvsec
  | registerLocator (bar offset : Nat)
  deriving DecidableEq, Repr

/-- The list of R501; the Register Locator points to the component registers of BAR 0. -/
def extCaps : List ExtCap := [.aer, .doe, .ide, .cxlDvsec, .registerLocator 0 0]

/-- The features of R500, left column then right. -/
inductive CxlFeature where
  | type2 | flit256 | hdmH | ideContainment | msix | doeMailbox | functionReset | d0d3hot
  | multiLogical | portBasedRouting | switching | flit68 | backInvalidate | hdmD | hdmDB | interleave
  | skidMode | spdm | cma | msi | intx | dynamicCapacity | deviceMailbox | cxlReset | viral | persistentFlush
  | aspmL0s | aspmL1 | l1Substates | ats | pasid | sriov
  deriving DecidableEq, Repr

/-- The feature's capability bit (17 R500). -/
def capBit : CxlFeature → Bool
  | .type2 | .flit256 | .hdmH | .ideContainment | .msix | .doeMailbox | .functionReset | .d0d3hot => true
  | _ => false

/-- The feature's control bit after the host has written it: hardwired to 0 where the module does not support
the feature (17 R500). -/
def controlBit (x : CxlFeature) (written : Bool) : Bool := capBit x && written

/-- What the CXL DVSEC and the power capability tell the host (17 R505 R510 R517): one volatile memory range, of which device
physical address d is module address d; a cache of size 0; a return to D0 that resets nothing. -/
structure CxlMemory where
  rangeBytes : Nat
  volatileMedia : Bool
  infoValid : Bool
  active : Bool
  cacheCapable : Bool
  cacheBytes : Nat
  noSoftReset : Bool
  deriving DecidableEq, Repr

/-- Every stack and channel has left state 0 (17 R505). -/
def memoryTrained (c : Chip) : Bool :=
  (List.range 8).all (fun k => reg c (key 0x4011 (k + 1)) != 0 && reg c (key 0x4012 (k + 1)) != 0)

/-- The values of R505, R510 and R517; the range is valid while the link is trained. -/
def cxlMemory (c : Chip) : CxlMemory :=
  { rangeBytes := 0x30040000000, volatileMedia := true, infoValid := reg c (key 0x2040 1) != 0, active := memoryTrained c,
    cacheCapable := true, cacheBytes := 0, noSoftReset := true }

end Sys2Proof.Machine
end

