-- ==== Sys2Proof/Machine/Component.lean ====
section
/-! DEFINITION. The CXL component registers at BAR 0 offset 000000h (17 R500 R502 R506 R514 R516). CXL 3.1 governs them; their
places and bits, which the spec leaves to it, are PRESUMED from the standard, and where the capability structures lie is a
DESIGN CHOICE (log 29). -/

namespace Sys2Proof.Machine

/-- The CXL.cache and CXL.mem registers begin with the capability header. -/
def compBase : Nat := 0x1000

/-- Where the RAS structure lies in them. -/
def rasAt : Nat := 0x080

/-- Where the link structure lies. -/
def linkAt : Nat := 0x100

/-- Where the HDM decoder structure lies. -/
def hdmAt : Nat := 0x180

/-- Where the IDE structure lies. -/
def ideAt : Nat := 0x200

/-- The entry of the header for a structure of a kind. -/
def capEntry (id at' : Nat) : Nat := id + 0x10000 + at' * 0x100000

/-! ## HDM decoders -/

/-- Bytes of the range of R505. -/
def hdmRange : Nat := 0x30040000000

/-- A programmed decoder may be committed (17 R506). -/
def hdmGood (x : Hdm) : Bool :=
  x.size % 0x10000000 == 0 && x.ways == 1 && x.skip % 0x10000000 == 0 && decide (x.skip + x.size ≤ hdmRange)

/-- A commit: Committed, or Error Not Committed (17 R506). -/
def hdmCommit (x : Hdm) : Hdm := { x with committed := hdmGood x, error := !hdmGood x }

/-- The interleave field of a decoder's control word. -/
def waysCode (n : Nat) : Nat := ([1, 2, 4, 8, 16, 3, 6, 12].findIdx? (· == n)).getD 15

/-- The decoder's control word: interleave, Commit, Committed, Error Not Committed, and host-only coherent with no
back-invalidation (17 R500 R508). -/
def hdmControl (x : Hdm) : Nat :=
  16 * waysCode x.ways + (if x.committed || x.error then 0x200 else 0) + (if x.committed then 0x400 else 0) +
    (if x.error then 0x800 else 0) + 0x1000 + (if capBit .backInvalidate then 0x2000 else 0)

/-- Word k of a decoder's eight words. -/
def hdmWord (x : Hdm) (k : Nat) : Nat :=
  match k with
  | 0 => x.base % 2 ^ 32
  | 1 => x.base / 2 ^ 32 % 2 ^ 32
  | 2 => x.size % 2 ^ 32
  | 3 => x.size / 2 ^ 32 % 2 ^ 32
  | 4 => hdmControl x
  | 5 => x.skip % 2 ^ 32
  | 6 => x.skip / 2 ^ 32 % 2 ^ 32
  | _ => 0

/-- A number with its low or its high 32 bits replaced; the low bits are multiples of 256 MiB, as the register has no others. -/
def withHalf (x : Nat) (high : Bool) (v : Nat) : Nat :=
  if high then x % 2 ^ 32 + 2 ^ 32 * v else x / 2 ^ 32 * 2 ^ 32 + v / 2 ^ 28 * 2 ^ 28

/-- A write of a decoder's control word: the interleave while not committed; Commit set commits, Commit clear takes the commit
back. -/
def hdmControlWrite (x : Hdm) (v : Nat) : Hdm :=
  let x := if x.committed then x else { x with ways := [1, 2, 4, 8, 16, 0, 0, 0, 3, 6, 12].getD (bits v 7 4) 0 }
  if bit v 9 then (if x.committed || x.error then x else hdmCommit x)
  else { x with committed := false, error := false }

/-- A write of word k of a decoder; a committed one keeps its programming. -/
def hdmWrite (x : Hdm) (k v : Nat) : Hdm :=
  if k = 4 then hdmControlWrite x v
  else if x.committed then x
  else match k with
    | 0 => { x with base := withHalf x.base false v }
    | 1 => { x with base := withHalf x.base true v }
    | 2 => { x with size := withHalf x.size false v }
    | 3 => { x with size := withHalf x.size true v }
    | 5 => { x with skip := withHalf x.skip false v }
    | 6 => { x with skip := withHalf x.skip true v }
    | _ => x

/-! ## Words of the component registers -/

/-- The bits of a word that take what is written to them, and the word's value before: RAS masks and severity, the decoders'
enable, and IDE control. Interleave and poison on decode error are hardwired to 0 (17 R500). -/
def compRw (o : Nat) : Option (Nat × Nat) :=
  if o = rasAt + 0x04 ∨ o = rasAt + 0x08 then some (0x1CFFF, 0x1CFFF)
  else if o = rasAt + 0x10 then some (0x7F, 0x7F)
  else if o = hdmAt + 0x04 then some (2, 0)
  else if o = ideAt + 0x04 then some (3, 0)
  else none

/-- The word at offset o from `compBase`. The words of the link structure and the code of the IDE status stand in CXL 3.1
alone: open (log 29). -/
def compWord (c : Chip) (o : Nat) : Nat :=
  let h := c.host
  match compRw o with
  | some d => smGet d.2 h.comp o
  | none =>
    if o = 0 then 0x04110001
    else if o = 4 then capEntry 2 rasAt
    else if o = 8 then capEntry 4 linkAt
    else if o = 12 then capEntry 5 hdmAt
    else if o = 16 then capEntry 7 ideAt
    else if o = rasAt then h.rasUnc
    else if o = rasAt + 0x0C then h.rasCor
    else if linkAt ≤ o ∧ o < linkAt + 0x40 then (Config.linkWord (o - linkAt)).toNat
    else if o = hdmAt then 1 + (if capBit .interleave then 0x300 else 0)
    else if hdmAt + 0x10 ≤ o ∧ o < hdmAt + 0x50 then
      hdmWord (h.hdm.getD ((o - hdmAt - 0x10) / 0x20) Hdm.reset) ((o - hdmAt - 0x10) % 0x20 / 4)
    else if o = ideAt then
      1 + (if capBit .skidMode then 2 else 0) + (if capBit .ideContainment then 4 + 0x20000 else 0)
    else if o = ideAt + 0x08 then (Config.ideStatusWord (bit h.ideGo 6) (bit h.ideGo 7)).toNat
    else 0

/-- A write of the word at offset o from `compBase`; `set` are the bits that the written bytes carry as 1, `v` the word with the
written bytes in it. Status bits are cleared by a 1. -/
def compStore (c : Chip) (o set v : Nat) : Chip :=
  let h := c.host
  let put := fun h => { c with host := h }
  match compRw o with
  | some d => put { h with comp := smSet d.2 h.comp o (v &&& d.1) }
  | none =>
    if o = rasAt then put { h with rasUnc := h.rasUnc &&& (2 ^ 32 - 1 - set) }
    else if o = rasAt + 0x0C then put { h with rasCor := h.rasCor &&& (2 ^ 32 - 1 - set) }
    else if hdmAt + 0x10 ≤ o ∧ o < hdmAt + 0x50 then
      let d := (o - hdmAt - 0x10) / 0x20
      put { h with hdm := h.hdm.set d (hdmWrite (h.hdm.getD d Hdm.reset) ((o - hdmAt - 0x10) % 0x20 / 4) v) }
    else c

/-- A byte of the component registers at an offset of BAR 0; the first 4 KiB, which the standard gives to CXL.io, read 0. -/
def compByte (c : Chip) (o : Nat) : Byte :=
  if o < compBase then 0 else BitVec.ofNat 8 (compWord c ((o - compBase) / 4 * 4) / 256 ^ (o % 4))

/-- Word i of those that a write of bytes at offset o touches. -/
def compPart (o : Nat) (b : List Byte) (c : Chip) (i : Nat) : Chip :=
  let w := (o / 4 + i) * 4
  let put := fun (old : List Byte) => (List.range 4).map (fun k =>
    if o ≤ w + k ∧ w + k < o + b.length then b.getD (w + k - o) 0 else old.getD k 0)
  if w < compBase then c
  else compStore c (w - compBase) (leNat (put [])) (leNat (put (leBytes 4 (compWord c (w - compBase)))))

/-- A write of bytes of the component registers, word by word. -/
def compWrite (c : Chip) (o : Nat) (b : List Byte) : Chip :=
  (List.range ((o % 4 + b.length + 3) / 4)).foldl (compPart o b) c

end Sys2Proof.Machine
end

