-- ==== Sys2Proof/Machine/Power.lean ====
section
/-! DEFINITION. Temperature (14 R442, 19 R553), power and reset (18 R520 to R522), the boot ROM (18 R523 to R527),
self-test (18 R528 R529) and boundary scan (18 R542). -/

namespace Sys2Proof.Machine

/-! ## Temperature -/

/-- The value of an FP32 code times 2^149. -/
def f32Scaled (x : Nat) : Int :=
  let e := bits x 30 23
  let m := bits x 22 0
  let v : Nat := if e = 0 then m else (m + 8388608) * 2 ^ (e - 1)
  if bit x 31 then -(v : Int) else v

/-- Five degrees in the scale of `f32Scaled`. -/
def fiveDegrees : Int := ((5 * 2 ^ 149 : Nat) : Int)

/-- 115 °C as an FP32 code (19 R553). -/
def tripCode : Nat := 0x42E60000

/-- The hotter of two temperatures. -/
def hotter (a b : Nat) : Nat := if f32Scaled a < f32Scaled b then b else a

/-- A die reports its temperature: 9020h:02 holds the highest of the four. -/
def takeTemp (c : Chip) (d t : Nat) : Chip :=
  let ts := listSet c.power.temps d t
  setReg { c with power := { c.power with temps := ts } } (key 0x9020 2) (ts.foldl hotter (ts.getD 0 0))

/-- A rise to or above the threshold makes a record; a fall of 5 °C below it arms the next (14 R442). -/
def warnCheck (c : Chip) (d t : Nat) : Chip :=
  let thr := reg c (key 0x9020 1)
  let warned := c.power.warned.getD d false
  let set := fun (c : Chip) b => { c with power := { c.power with warned := listSet c.power.warned d b } }
  if !warned && decide (f32Scaled thr ≤ f32Scaled t) then report (set c true) 0x0B01 (.die d) .apart [t]
  else if warned && decide (f32Scaled t + fiveDegrees ≤ f32Scaled thr) then set c false
  else c

/-- A die at 115 °C asserts the trip output, which stays low until power-good falls (19 R553). -/
def tripOutput (c : Chip) (d t : Nat) : Chip :=
  if f32Scaled tripCode ≤ f32Scaled t then
    { c with power := { c.power with trip := true, tripped := listSet c.power.tripped d true } }
  else c

/-- A die's temperature in any phase of a powered module: the trip output needs no firmware, the entry and the
records do. -/
def fTemp (d t : Nat) (c : Chip) : Chip :=
  if c.power.phase = .off then c
  else if c.power.phase ≠ .running then tripOutput c d t
  else
    let c := warnCheck (takeTemp c d t) d t
    let was := c.power.tripped.getD d false
    let c := tripOutput c d t
    if !was && c.power.tripped.getD d false then report c 0x0B02 (.die d) .apart [t] else c

/-! ## Power and reset -/

/-- A module that has lost all state but the fuses, in a phase. What has left the pins, the counters of free values
and random draws, and a trip output that is low while power-good stays go on. -/
def wiped (c : Chip) (good : Bool) (ph : Phase) : Chip :=
  let p := { Power.reset with good := good, phase := ph, trip := good && c.power.trip,
                              tripped := if good then c.power.tripped else Power.reset.tripped }
  { Chip.reset with power := p, out := c.out, free := c.free, sec := { Sec.reset with draws := c.sec.draws } }

/-- POWER_GOOD_RISE: the rails come up; reset in is asserted (18 R521). -/
def fPowerRise (c : Chip) : Chip := if c.power.phase = .off then wiped c true .held else c

/-- POWER_GOOD_FALL. -/
def fPowerFall (c : Chip) : Chip := wiped c false .off

/-- Reset in is asserted: everything is held in reset. -/
def fReset (c : Chip) : Chip := if c.power.phase = .off then c else wiped c true .held

/-! ## The boot ROM -/

/-- The header of an image. -/
def imgHeader (b : List Byte) : List Byte := slice b 0 256

/-- Code and data image. -/
def imgBody (b : List Byte) : List Byte := slice b 256 (field b 0x14 4 + field b 0x18 4)

/-- The signer entry. -/
def imgSigner (b : List Byte) : List Byte := slice b (256 + field b 0x14 4 + field b 0x18 4) 3408

/-- Magic, reserved bytes and lengths (18 R524), and with them the bounds of entry point and security version, which no other
check of 18 R525 would find broken: DEDUCED (log 28). -/
def imgFormOk (b : List Byte) : Bool :=
  let code := field b 0x14 4
  let data := field b 0x18 4
  let entry := field b 0x1C 4
  b.take 8 == [0x51, 0x5A, 0x37, 0x46, 0x57, 0, 0, 0] && decide (field b 0x10 4 ≤ 63) && decide (4 ≤ code) &&
    decide (code ≤ 131072) && code % 4 == 0 && decide (data ≤ 131072) && data % 4 == 0 && decide (entry < code) &&
    entry % 4 == 0 && decide (field b 0x50 1 < 4) &&
    decide (field b 0x51 1 < 2) && allZero (slice b 0x52 174) && allZero (slice (imgSigner b) 3405 3)

/-- The firmware signing key that a signer entry names. -/
def firmwareSigner (entry : List Byte) : Option (List Byte) :=
  ([0, 1].map Config.firmwareKey).find? (fun pub => keyId pub == entry.take 32)

/-- The first check of R525 that an image fails, as its cause code; 0 where it passes. -/
def imageCause (f : Fuses) (c : Chip) (answers : Bool) (b : List Byte) : Nat :=
  let hash := sha3_384 (imgHeader b)
  if !answers ∨ b.length < 256 then 8
  else if !imgFormOk b then 1
  else if !bit (field b 0x50 1) (if f.stepping = 0xB0 then 0 else 1) then 2
  else if sha3_384 (imgBody b) ≠ slice b 0x20 48 then 3
  else match firmwareSigner (imgSigner b) with
    | none => 4
    | some pub =>
      if !edValid c pub (ascii "QZ7 firmware 1") hash (imgSigner b) then 5
      else if !mlValid c pub (ascii "QZ7 firmware 1") hash (imgSigner b) then 6
      else if field b 0x10 4 < f.secMin then 7
      else 0

/-- The signatures of a certificate, set out as a signer entry has them (18 R532). -/
def certEntry (cert : List Byte) : List Byte := List.replicate 32 0 ++ slice cert 0xCC0 3376

/-- The four checks of R533. -/
def certsOk (f : Fuses) (c : Chip) (certs : List Byte) : Bool :=
  let dev := slice certs 0 6640
  let iss := slice certs 6640 6640
  let agree := slice (Config.agreeX25519 (agreeSeed f)) 0 32 ++ slice (Config.agreeMlKem (agreeSeed f)) 0 1184
  slice dev 0x40 1984 == slice (Config.identityKeys (signSeed f)) 0 1984 && slice dev 0x800 1216 == agree &&
    slice dev 0x20 32 == keyId (slice iss 0x40 1984) &&
    bothValid c (slice iss 0x40 1984) (ascii "QZ7 certificate 1") (sha3_384 (slice dev 0 0xCC0)) (certEntry dev)

/-- Firmware does not start, with a boot status (18 R526). -/
def bootFails (c : Chip) (status a b die : Nat) : Chip :=
  let boot := { c.power.boot with status := status, causeA := a, causeB := b, badDie := die }
  { c with power := { c.power with phase := .bootFailed, boot := boot } }

/-- Firmware starts from an image: number, cause of image A, its bytes. The boot nonce is drawn (18 R536). -/
def bootStarts (f : Fuses) (c : Chip) (x : BootInput) (image a : Nat) (b : List Byte) : Chip :=
  let certs := slice x.certs 0 13280
  let boot : Boot :=
    { image := image, causeA := a, causeB := 0, status := 0, badDie := 0, hash := slice b 0x20 48,
      build := field b 8 8, secVersion := field b 0x10 4, raise := bit (field b 0x51 1) 0,
      nonce := slice (Config.randomBytes c.sec.draws) 0 32, certBad := !certsOk f c certs, certs := certs }
  { c with power := { c.power with phase := .running, boot := boot }, sec := { c.sec with draws := c.sec.draws + 1 },
           stew := (List.range 4).map (fun d => (d, { Steward.reset with
             fwPc := field b 0x1C 4, fwCode := slice b 256 (field b 0x14 4), fwData := putBytes [] 0 (slice b (256 + field b 0x14 4) (field b 0x18 4)) })) }

/-- What the boot ROM does after release (18 R525 R526): its own checksum and the fuse parity first, as the cause
codes 0 of unchecked images tell; where both fail the spec does not say which status is sent (log 28). -/
def bootRom (f : Fuses) (x : BootInput) (c : Chip) : Chip :=
  if !x.romOk ∧ !x.fusesOk then
    bootFails { c with free := c.free + 1 } (2 + Config.freeNat c.free % 2) 0 0 0
  else if !x.fusesOk then bootFails c 2 0 0 0
  else if !x.romOk then bootFails c 3 0 0 0
  else
    let a := imageCause f c x.answers x.imageA
    let b := if a = 0 then 0 else imageCause f c x.answers x.imageB
    if a ≠ 0 ∧ b ≠ 0 then bootFails c 1 a b 0
    else match x.copyBad with
      | some d => bootFails c 4 a b d.val
      | none => bootStarts f c x (if a = 0 then 0 else 1) a (if a = 0 then x.imageA else x.imageB)

/-- RESET_RELEASE: the straps are sampled and the boot ROM runs; the count starts at 0 (10 R299). -/
def fRelease (f : Fuses) (straps : Nat) (x : BootInput) (c : Chip) : Chip :=
  if c.power.phase = .held then
    let c := wiped c true .held
    bootRom f x { c with power := { c.power with straps := straps } }
  else c

/-- BOOT_FAILURE_FRAME, once every second: 500,000,000 ticks of the count, which starts at the release (18 R526,
10 R299). -/
def fBootFrame (c : Chip) : Chip :=
  if c.power.phase = .bootFailed then
    let c := { c with count := (c.count / 500000000 + 1) * 500000000 }
    let b := c.power.boot
    let bytes := leBytes 1 0xFE ++ leBytes 1 0 ++ leBytes 2 b.status ++ leBytes 1 b.causeA ++ leBytes 1 b.causeB ++
      leBytes 2 0 ++ leBytes 1 b.badDie
    emit c (.canFrame (0x580 + c.power.straps) (slice bytes 0 64))
  else c

/-! ## Self-test -/

/-- The location of a unit in a record, from its code (14 R434). -/
def unitLoc (u : Nat) : Loc :=
  match u / 4096 with
  | 1 => .tile (u % 4096)
  | 2 => .port (u % 4096)
  | 3 => .stack (u % 4096)
  | 4 => .channel (u % 4096)
  | 5 => .die (u % 4096)
  | _ => .modl

/-- The codes of n units of a kind. -/
def unitCodes (kind n : Nat) : List Nat := (List.range n).map (fun k => 4096 * kind + k)

/-- The tests in their order, each with the codes of its units (18 R528). -/
def testTable : List (Nat × List Nat) :=
  [(0x01, [0]), (0x02, [0]), (0x03, [0]), (0x10, unitCodes 5 4), (0x20, unitCodes 5 4), (0x21, unitCodes 1 192 ++ unitCodes 2 32),
   (0x22, unitCodes 1 192), (0x23, unitCodes 5 4), (0x30, unitCodes 3 8), (0x31, unitCodes 4 8), (0x40, unitCodes 2 32)]

/-- A test fails on a unit: 0001h where a primitive fails, 0003h where the derived key-agreement identifier is not the fused
one (18 R528 R531), the others as the input says. -/
def testFails (f : Fuses) (r : SelfTestInput) (test unit : Nat) : Bool :=
  let told := r.failures.any (fun x => x.1.toNat == test && x.2.toNat == unit)
  if test = 1 then !r.primitives.isEmpty || told
  else if test = 3 then recipientId f != agreeId f
  else told

/-- The failures, in the order in which the tests run and of the units in a test; what the input says of a test or a unit
that R528 does not have is nothing. -/
def testFailures (f : Fuses) (r : SelfTestInput) : List (Nat × Nat) :=
  testTable.flatMap (fun t => (t.2.filter (testFails f r t.1)).map (fun u => (t.1, u)))

/-- A test fails on a unit. -/
def failedOn (l : List (Nat × Nat)) (test unit : Nat) : Bool := l.contains (test, unit)

/-- The outcome of memory training: 4010h, 4011h, 4012h and the records of what failed or is absent (07 R193 R215). -/
def trainStack (l : List (Nat × Nat)) (c : Chip) (k : Nat) : Chip :=
  let st := if failedOn l 0x30 (0x3000 + k) then 2 else 1
  let c := setReg c (key 0x4011 (k + 1)) st
  if st = 1 then c else report c 0x0309 (.stack k) .apart [st]

/-- See `trainStack`; a fitted capacity is at most 256 GiB. -/
def trainChannel (l : List (Nat × Nat)) (dimms : List Nat) (c : Chip) (k : Nat) : Chip :=
  let cap := dimms.getD k 0
  let st := if cap = 0 then 3 else if failedOn l 0x31 (0x4000 + k) then 2 else 1
  let c := setReg (setReg c (key 0x4012 (k + 1)) st) (key 0x4010 (k + 1)) (if st = 1 then min cap 256 * 1073741824 else 0)
  if st = 1 then c else report c 0x0309 (.channel k) .apart [st]

/-- The tests run: records, the first failure in the order of R528, what fails with it, and the temperatures. -/
def runTests (f : Fuses) (r : SelfTestInput) (c : Chip) : Chip :=
  let l := testFailures f r
  let c := l.foldl (fun c x => report c 0x0B03 (unitLoc x.2) .apart [x.1]) c
  let c := (List.range 8).foldl (trainStack l) c
  let c := (List.range 8).foldl (trainChannel l r.dimms) c
  let first := (l.head?.map (·.1)).getD 0
  let p := { c.power with badPrims := r.primitives.map (·.val), rngBad := l.any (fun x => x.1 == 2), tested := true }
  let c := setReg { c with power := p } (key 0x2001 2) first
  (List.range 4).foldl (fun c d => fTemp d (r.temps.getD d 0).toNat c) c

/-- SELF_TEST, once after every reset (18 R528). -/
def fSelfTest (f : Fuses) (r : SelfTestInput) (c : Chip) : Chip := if c.power.tested then c else runTests f r c

/-- SELF_TEST_COMPLETE (18 R529). -/
def fTestDone (c : Chip) : Chip :=
  if c.power.tested ∧ reg c (key 0x2001 1) = 0 then
    setReg c (key 0x2001 1) (if reg c (key 0x2001 2) = 0 then 1 else 2)
  else c

/-! ## Burning fuses (18 R527 R539) -/

/-- SECURITY_VERSION_BURN: a burn up to the image's version begins, of the 63 fuses (18 R527). -/
def fBurn (f : Fuses) (c : Chip) : Chip :=
  let b := c.power.boot
  if reg c (key 0x2001 1) = 1 ∧ b.raise ∧ f.secMin < b.secVersion then
    { c with sec := { c.sec with burnTo := some (min 63 b.secVersion) } }
  else c

/-- A tick of a burn of the security version: one more fuse is burned or none, by a free choice, until all are (log 28). -/
def versionTick (s : State) : State :=
  match s.chip.sec.burnTo with
  | none => s
  | some v =>
    if v ≤ s.fuses.secMin then { s with chip := { s.chip with sec := { s.chip.sec with burnTo := none } } }
    else
      let x := freeNumber s.chip
      { s with chip := x.1, fuses := { s.fuses with secMin := s.fuses.secMin + x.2 % 2 } }

/-- Ticks of the 200 ms that a claim's burn takes at most (18 R539). -/
def claimTicks : Nat := 100000000

/-- Some of the identifier's fuses are burned, whichever; none is ever unburned. -/
def someBurned (have_ want pick : List Byte) : List Byte :=
  (List.range 32).map (fun i => have_.getD i 0 ||| (want.getD i 0 &&& pick.getD i 0))

/-- A tick of a claim's burn: by a free choice nothing burns, some fuses of the identifier do, all of them do, or, where all
of them are, the valid fuse; after 200 ms the burn is over, and then its claim is answered (18 R539, log 28). -/
def claimTick (answer : Chip → Chip) (s : State) : State :=
  match s.chip.sec.claim with
  | none => s
  | some k =>
    let x := freeNumber s.chip
    let root := fun (b : List Byte) (c : Chip) => { s with chip := c, fuses := { s.fuses with ownerRoot := b } }
    let ended := { s with chip := answer { x.1 with sec := { x.1.sec with claim := none } },
                          fuses := { s.fuses with ownerRoot := k.root, ownerValid := true } }
    if k.since + claimTicks ≤ s.chip.count then ended
    else match x.2 % 4 with
      | 0 => { s with chip := x.1 }
      | 1 =>
        let r := freeBytes x.1 32
        root (someBurned s.fuses.ownerRoot k.root r.2) r.1
      | 2 => root k.root x.1
      | _ => if s.fuses.ownerRoot = k.root then ended else { s with chip := x.1 }

/-! ## The meanings -/

/-- THERMAL_WARNING. -/
def execThermalWarning (die : Fin 4) (t : BitVec 32) (s : State) : Host.Outcome State Fault Refusal :=
  onChip s (fTemp die.val t.toNat)

/-- THERMAL_TRIP. -/
def execThermalTrip (die : Fin 4) (t : BitVec 32) (s : State) : Host.Outcome State Fault Refusal :=
  onChip s (fTemp die.val t.toNat)

/-- TEMPERATURE_FALL. -/
def execTemperatureFall (die : Fin 4) (t : BitVec 32) (s : State) : Host.Outcome State Fault Refusal :=
  onChip s (fTemp die.val t.toNat)

/-- POWER_GOOD_RISE. -/
def execPowerGoodRise (s : State) : Host.Outcome State Fault Refusal := onChip s fPowerRise

/-- POWER_GOOD_FALL. -/
def execPowerGoodFall (s : State) : Host.Outcome State Fault Refusal := onChip s fPowerFall

/-- RESET_ASSERT for ns nanoseconds: 10 µs or longer is a module reset, less than 1 µs is ignored; the response
between is not specified (18 R521), and the step stops there. -/
def execResetAssert (ns : Nat) (s : State) : Host.Outcome State Fault Refusal :=
  if 10000 ≤ ns then onChip s fReset else if ns < 1000 then .next s else .refused .resetPulse

/-- RESET_RELEASE. -/
def execResetRelease (straps : BitVec 4) (b : BootInput) (s : State) : Host.Outcome State Fault Refusal :=
  onChip s (fRelease s.fuses straps.toNat b)

/-- The boot flash active output: high from the release of reset until 2001h:01 leaves 0 or the boot fails (19 R556). -/
def flashActive (c : Chip) : Bool := c.power.phase == .running && reg c (key 0x2001 1) == 0

/-- BOOT_FAILURE_FRAME. -/
def execBootFailureFrame (s : State) : Host.Outcome State Fault Refusal := onChip s fBootFrame

/-- SELF_TEST. -/
def execSelfTest (r : SelfTestInput) (s : State) : Host.Outcome State Fault Refusal := onRunning s (fSelfTest s.fuses r)

/-- SELF_TEST_COMPLETE. -/
def execSelfTestComplete (s : State) : Host.Outcome State Fault Refusal := onRunning s fTestDone

/-- SECURITY_VERSION_BURN. -/
def execSecurityVersionBurn (s : State) : Host.Outcome State Fault Refusal :=
  onRunning s (fBurn s.fuses)

/-- BOUNDARY_SCAN: the TAP reaches signal balls only. EXTEST is for a module held in reset; `scan` notes that it was
used, so that the board owes a reset (18 R542). -/
def execBoundaryScan (extest : Bool) (s : State) : Host.Outcome State Fault Refusal :=
  onChip s (fun c => if extest ∧ c.power.phase ≠ .off then { c with power := { c.power with scan := true } } else c)

end Sys2Proof.Machine
end

