-- ==== Sys2Proof/Machine/Security.lean ====
section
/-! DEFINITION. The DOE mailbox (17 R515): discovery, attestation (18 R534 to R537), ownership and grants (18 R538
to R540), and the IDE_KM messages of a session (17 R514, 18 R537). -/

namespace Sys2Proof.Machine

/-! ## The mailbox -/

/-- The host link is in L0 (17 R499). -/
def linkUp (c : Chip) : Bool := reg c (key 0x2040 1) != 0

/-- An object goes back to the host. -/
def doeSend (c : Chip) (type : Nat) (b : List Byte) : Chip := emit c (.doe type b)

/-- The mailbox takes a request of up to 16 KiB: of type 01h, a header of 8 bytes and n bytes of data (17 R515, 18 R534). -/
def doeRoom (n : Nat) : Bool := decide (8 + n ≤ 16384)

/-- A request of type 01h with n bytes of data reaches the module: it is served from the start of firmware; before, with the
link trained, and where it is too long, it is answered with an empty response (17 R515, 18 R534). -/
def doeServe (n : Nat) (f : Chip → Chip) (c : Chip) : Chip :=
  if !linkUp c then c
  else if c.power.phase = .running ∧ doeRoom n then f c
  else doeSend c 1 []

/-- A response of type 01h: header and data (18 R534). -/
def respond (c : Chip) (code status : Nat) (data : List Byte) : Chip :=
  doeSend c 1 (leBytes 1 code ++ leBytes 1 status ++ leBytes 2 0 ++ leBytes 4 data.length ++ data)

/-- The vendor of a DOE object type in discovery: PCI-SIG for type 00h, Wenneyr for the others. -/
def doeVendor (n : Nat) : Nat := if n = 0 then 1 else Config.vendorId % 65536

/-- DOE Discovery: vendor, type and next index of an index; FFFFh past the last. PRESUMED the PCI Express form
(log 29). -/
def fDiscovery (n : Nat) (c : Chip) : Chip :=
  if !linkUp c then c
  else if n < 3 then doeSend c 0 (leBytes 2 (doeVendor n) ++ leBytes 1 n ++ leBytes 1 ((n + 1) % 3))
  else doeSend c 0 (leBytes 2 0xFFFF ++ leBytes 2 0)

/-- The attestation session ends. -/
def endSess (c : Chip) : Chip := { c with sec := { c.sec with session := none } }

/-- DOE_ABORT (17 R515, 18 R537). -/
def fDoeAbort (c : Chip) : Chip := if linkUp c then endSess c else c

/-! ## Certificates and report -/

/-- The certificates read from the flash at start. -/
def fCertificates (c : Chip) : Chip := respond c 1 0 c.power.boot.certs

/-- The key identifier of a slot, zero where it is empty. -/
def slotId (c : Chip) (i s : Nat) : List Byte :=
  if allZero (keySlot c i s) then List.replicate 32 0 else keyId (keySlot c i s)

/-- Report flags (18 R536). -/
def reportFlags (f : Fuses) (c : Chip) : Nat :=
  (if c.power.boot.certBad then 1 else 0) + (if f.ownerBegun ∧ !f.ownerValid then 2 else 0)

/-- The owner root identifier, zero while unowned. -/
def ownerRoot (f : Fuses) : List Byte := if f.ownerValid then slice f.ownerRoot 0 32 else List.replicate 32 0

/-- Bytes 000h to 0FFh of a report. -/
def reportHead (f : Fuses) (c : Chip) (nonce : List Byte) : List Byte :=
  let b := c.power.boot
  leBytes 4 1 ++ leBytes 4 4144 ++ leBytes 8 f.unique ++ slice (partNumber f) 0 16 ++ leBytes 1 f.stepping ++
    leBytes 1 (reg c (key 0x2001 1)) ++ leBytes 2 (reg c (key 0x2001 2)) ++ leBytes 4 f.secMin ++ leBytes 8 b.build ++
    slice b.hash 0 48 ++ ownerRoot f ++ slice b.nonce 0 32 ++ slice nonce 0 32 ++ leBytes 8 c.count ++
    leBytes 1 (planStateCode c.plan.state) ++ leBytes 1 b.image ++ leBytes 1 b.causeA ++ leBytes 1 (reportFlags f c) ++
    leBytes 4 0 ++ planHash c

/-- Bytes 000h to 2FFh of a report (18 R536). -/
def reportBody (f : Fuses) (c : Chip) (nonce : List Byte) : List Byte :=
  reportHead f c nonce ++ settingsDigest c ++ slice (lastDigest c).2 0 16 ++ leBytes 8 (lastDigest c).1 ++
    placeValue c 4 ++ (List.range 8).flatMap (fun k => slotId c 0xA010 (k + 1)) ++
    (List.range 4).flatMap (fun k => slotId c 0xA020 (k + 1)) ++ agreeId f ++ List.replicate 24 0

/-- A report with its signatures over context and hash (18 R536). -/
def reportBytes (f : Fuses) (c : Chip) (nonce : List Byte) : List Byte :=
  let b := reportBody f c nonce
  let hash := sha3_384 b
  let ctx := ascii "QZ7 report 1"
  b ++ slice (Config.ed25519Sign (signSeed f) (ctx ++ hash)) 0 64 ++ slice (Config.mlDsaSign (signSeed f) hash ctx) 0 3309 ++
    List.replicate 3 0

/-- Get report. -/
def fReport (f : Fuses) (nonce : List Byte) (c : Chip) : Chip :=
  if nonce.length = 32 then respond c 2 0 (reportBytes f c nonce) else respond c 2 1 []

/-! ## Sessions -/

/-- The session key (18 R537). -/
def sessionKey (f : Fuses) (ct eph : List Byte) : List Byte :=
  sha3_256 (ascii "QZ7 session 1" ++ Config.mlKemDecaps (agreeSeed f) ct ++ Config.x25519Shared (agreeSeed f) eph ++ ct ++ eph ++
    agreeId f)

/-- Open session: any earlier one closes. The number is one the spec leaves open (log 12). A failed random generator
fails the request (18 R529). -/
def fOpenSession (f : Fuses) (ct eph : List Byte) (c : Chip) : Chip :=
  if ct.length ≠ 1088 ∨ eph.length ≠ 32 then respond c 3 1 []
  else if c.power.rngBad then respond c 3 5 []
  else
    let n := Config.freeNat c.free % 4294967296
    let x : Session := ⟨n, sessionKey f ct eph, 0, 0⟩
    respond { c with free := c.free + 1, sec := { c.sec with session := some x } } 3 0 (leBytes 4 n)

/-- Close session. -/
def fCloseSession (n : Nat) (c : Chip) : Chip :=
  match c.sec.session with
  | some x => if x.num = n then respond (endSess c) 4 0 [] else respond c 4 4 []
  | none => respond c 4 4 []

/-! ## IDE key management -/

/-- The IDE sub-streams that keys are set for, as bits: three of the CXL.io stream in two directions, one of
CXL.cachemem in two. PRESUMED PCI Express and CXL 3.1 (log 29). -/
def ideAll : Nat := 255

/-- The bit of a sub-stream: of protocol 0 (CXL.io) or 1 (CXL.cachemem), direction and sub-stream as the message's
byte 6 has them: [1] direction, [7:4] sub-stream. -/
def ideBit (m : List Byte) : Nat :=
  let b := field m 6 1
  let dir := if bit b 1 then 1 else 0
  if field m 0 1 = 1 then 6 + dir else 2 * min 2 (bits b 7 4) + dir

/-- 2040h:03 shows whether both streams are secure (17 R514). -/
def showIde (c : Chip) : Chip := setReg c (key 0x2040 3) (if c.host.ideGo = ideAll then 1 else 0)

/-- A key is programmed for a sub-stream and key set. -/
def ideProgram (c : Chip) (m : List Byte) : Chip :=
  let k := 16 * (field m 6 1 % 2) + ideBit m
  { c with host := { c.host with ideKeys := (k, slice m 8 40) :: c.host.ideKeys.filter (fun x => x.1 != k) } }

/-- Of the host port after K_SET_GO with a key set: the sub-stream is secure and uses that set; a refresh goes to the other
set while the first is in use (17 R514). -/
def ideTurn (h : HostIf) (m : List Byte) : HostIf :=
  let b := ideBit m
  let g := setBit h.ideGo b
  { h with ideGo := g, ideHalt := h.ideHalt && g != ideAll,
           ideSet := if field m 6 1 % 2 = 1 then setBit h.ideSet b else clearBit h.ideSet b }

/-- K_SET_GO: a sub-stream whose key is programmed goes to the secure state; with all of them there, traffic that a
failure stopped flows again, and with it the module's writes. -/
def ideGo (c : Chip) (m : List Byte) : Chip :=
  let k := 16 * (field m 6 1 % 2) + ideBit m
  if c.host.ideKeys.any (fun x => x.1 == k) then
    let c' := showIde { c with host := ideTurn c.host m }
    if c.host.ideHalt && !c'.host.ideHalt then freeWrites c' else c'
  else c

/-- Of the host port after K_SET_STOP: the keys of the set are gone; the sub-stream leaves the secure state only where the set is
the one in use. PRESUMED PCI Express (log 29). -/
def ideEnd (h : HostIf) (m : List Byte) : HostIf :=
  let b := ideBit m
  let set := field m 6 1 % 2
  let inUse := if bit h.ideSet b then 1 else 0
  { h with ideGo := if set = inUse then clearBit h.ideGo b else h.ideGo,
           ideKeys := h.ideKeys.filter (fun x => x.1 != 16 * set + b) }

/-- K_SET_STOP. -/
def ideStop (c : Chip) (m : List Byte) : Chip := showIde { c with host := ideEnd c.host m }

/-- What an IDE_KM message does, with its answer's plaintext; none where its object is unknown. The content of a
QUERY_RESP is open (log 12). -/
def ideMessage (c : Chip) (m : List Byte) : Option (Chip × List Byte) :=
  let ack := fun (id : Nat) => leBytes 1 (field m 0 1) ++ leBytes 1 id ++ slice m 2 6
  match field m 1 1 with
  | 0 =>
    let r := freeBytes c 8
    some (r.1, leBytes 1 (field m 0 1) ++ leBytes 1 1 ++ r.2)
  | 2 => some (ideProgram c m, ack 3)
  | 4 => some (ideGo c m, ack 6)
  | 5 => some (ideStop c m, ack 6)
  | _ => none

/-- The nonce of a session object: direction, then the sequence number in the 11 low bytes (18 R537). -/
def sessNonce (dir seq : Nat) : List Byte := leBytes 1 dir ++ leBytes 11 seq

/-- An object that does not fit the session: status 04h in its header, nothing changed. Its code byte is open
(log 12). -/
def ideRefuse (c : Chip) : Chip :=
  let r := freeBytes c 1
  doeSend r.1 2 (r.2 ++ leBytes 1 4 ++ leBytes 6 0)

/-- The answer to a message: sealed with the next number from the module. -/
def ideAnswer (c : Chip) (x : Session) (plain : List Byte) : Chip :=
  let c := { c with sec := { c.sec with session := some { x with rx := x.rx + 1, tx := x.tx + 1 } } }
  doeSend c 2 (leBytes 4 x.num ++ leBytes 8 x.tx ++ Config.aesGcmSeal x.key (sessNonce 1 x.tx) [] plain)

/-- The mailbox takes a request of up to 16 KiB: number, sequence number and ciphertext of an object (17 R515). -/
def doeFits (ct : List Byte) : Bool := decide (12 + ct.length ≤ 16384)

/-- IDE_KM_MESSAGE: within a session only; what is not served or is too long is answered with an empty object (17 R514
R515). -/
def fIdeKm (session seq : Nat) (ct : List Byte) (c : Chip) : Chip :=
  if !linkUp c then c
  else if !doeFits ct then doeSend c 2 []
  else match c.sec.session with
    | none => doeSend c 2 []
    | some x =>
      if x.num ≠ session ∨ x.rx ≠ seq then ideRefuse c
      else match gcmOpen c x.key (sessNonce 0 seq) [] ct with
        | none => ideRefuse c
        | some m =>
          match ideMessage c m with
          | some r => ideAnswer r.1 x r.2
          | none => doeSend c 2 []

/-! ## Ownership -/

/-- What an owner claim asks of the state (18 R539). -/
def claimOpen (s : State) : Bool :=
  !s.fuses.ownerValid && !s.fuses.ownerBegun && allZero s.fuses.ownerRoot && reg s.chip (key 0x2001 1) != 0 &&
    s.chip.plan.state == .empty

/-- What the claim's signer entry signs (18 R539). -/
def claimHash (f : Fuses) (c : Chip) : List Byte := sha3_384 (leBytes 8 f.unique ++ slice c.power.boot.nonce 0 32)

/-- The claim's signatures verify under the claimed keys. -/
def claimValid (f : Fuses) (c : Chip) (keys signer : List Byte) : Bool :=
  signer.take 32 == keyId keys && bothValid c keys (ascii "QZ7 claim 1") (claimHash f c) signer

/-- The answer to an owner claim. -/
def claimAnswer (status : Nat) (c : Chip) : Chip := respond c 5 status []

/-- Owner claim: the burn of the owner fuses begins, identifier first (18 R539); it is answered when they are burned
(`claimTick`). A claim before it is over is refused, as the fuses of an earlier one no longer stand unburned. -/
def ownerClaim (keys signer : List Byte) (s : State) : State :=
  let answer := fun st => { s with chip := claimAnswer st s.chip }
  if keys.length ≠ 1984 ∨ signer.length ≠ 3408 ∨ !allZero (slice signer 3405 3) then answer 1
  else if !claimOpen s then answer 2
  else if !claimValid s.fuses s.chip keys signer then answer 3
  else
    { s with chip := { s.chip with sec := { s.chip.sec with claim := some ⟨keyId keys, s.chip.count⟩ } },
             fuses := { s.fuses with ownerBegun := true } }

/-- Entry i of a grant. -/
def grantEntry (g : List Byte) (i : Nat) : List Byte := slice g (0x7F0 + 40 * i) 40

/-- Format and lengths of a grant (18 R540). -/
def grantForm (g : List Byte) : Bool :=
  let n := field g 4 4
  field g 0 4 == 1 && decide (1 ≤ n) && decide (n ≤ 12) && g.length == 0x7F0 + 40 * n + 3408 &&
    allZero (slice g (0x7F0 + 40 * n + 3405) 3) &&
    (List.range n).all (fun i => allZero (slice (grantEntry g i) 3 5))

/-- An entry names a key slot. -/
def namesSlot (e : List Byte) : Bool :=
  let s := field e 2 1
  decide (1 ≤ s) && ((field e 0 2 == 0xA010 && decide (s ≤ 8)) || (field e 0 2 == 0xA020 && decide (s ≤ 4)))

/-- The module accepts a grant (18 R540). -/
def grantOk (f : Fuses) (c : Chip) (g : List Byte) : Bool :=
  let n := field g 4 4
  let keys := slice g 0x30 1984
  let signer := slice g (0x7F0 + 40 * n) 3408
  f.ownerValid && keyId keys == slice f.ownerRoot 0 32 && field g 8 8 == f.unique &&
    slice g 0x10 32 == slice c.power.boot.nonce 0 32 && (List.range n).all (fun i => namesSlot (grantEntry g i)) &&
    signer.take 32 == slice f.ownerRoot 0 32 &&
    bothValid c keys (ascii "QZ7 grant 1") (sha3_384 (g.take (0x7F0 + 40 * n))) signer

/-- The slots and identifiers that a grant names. -/
def grantSlots (g : List Byte) : List (Nat × List Byte) :=
  (List.range (field g 4 4)).map (fun i =>
    (key (field (grantEntry g i) 0 2) (field (grantEntry g i) 2 1), slice (grantEntry g i) 8 32))

/-- Owner grant: an accepted one replaces the one held. -/
def fGrant (f : Fuses) (g : List Byte) (c : Chip) : Chip :=
  if !grantForm g then respond c 6 1 []
  else if grantOk f c g then respond { c with sec := { c.sec with grant := grantSlots g } } 6 0 []
  else respond c 6 3 []

/-! ## Request objects (18 R534 R535) -/

/-- A request object of type 01h: header and data. -/
def reqObject (code : Nat) (data : List Byte) : List Byte := leBytes 1 code ++ [0, 0, 0] ++ leBytes 4 data.length ++ data

/-- The header of a request object holds: status and reserved bytes 0, and the length that of the data that follows. -/
def reqHeadOk (b : List Byte) : Bool :=
  decide (8 ≤ b.length) && allZero (slice b 1 3) && field b 4 4 == b.length - 8

/-- An object of type 01h as it arrives, but an owner claim: a header that does not hold, and a code of no request of 18 R535,
are answered as malformed. That they have the status 01h of 18 R534, and not the empty response of 17 R515, is DEDUCED
(log 28). -/
def fObject (f : Fuses) (b : List Byte) (c : Chip) : Chip :=
  let data := b.drop 8
  let code := field b 0 1
  if !reqHeadOk b then respond c code 1 []
  else match code with
    | 1 => if data.isEmpty then fCertificates c else respond c 1 1 []
    | 2 => fReport f data c
    | 3 => fOpenSession f (data.take 1088) (data.drop 1088) c
    | 4 => if data.length = 4 then fCloseSession (leNat data) c else respond c 4 1 []
    | 6 => fGrant f data c
    | _ => respond c code 1 []

/-- An owner claim reaches the module. -/
def serveClaim (keys signer : List Byte) (s : State) : State :=
  let n := keys.length + signer.length
  if linkUp s.chip ∧ s.chip.power.phase = .running ∧ doeRoom n then ownerClaim keys signer s
  else { s with chip := flush (doeServe n id s.chip) }

/-! ## The meanings -/

/-- GET_CERTIFICATES. -/
def execGetCertificates (s : State) : Host.Outcome State Fault Refusal := onChip s (doeServe 0 fCertificates)

/-- GET_REPORT: the request object as it arrives, whatever its header says. -/
def execGetReport (object : List Byte) (s : State) : Host.Outcome State Fault Refusal :=
  if field object 0 1 = 5 ∧ reqHeadOk object then .next (serveClaim (slice object 8 1984) (object.drop 1992) s)
  else onChip s (doeServe (object.length - 8) (fObject s.fuses object))

/-- OPEN_SESSION. -/
def execOpenSession (ct key : List Byte) (s : State) : Host.Outcome State Fault Refusal :=
  onChip s (doeServe (ct.length + key.length) (fOpenSession s.fuses ct key))

/-- CLOSE_SESSION. -/
def execCloseSession (n : BitVec 32) (s : State) : Host.Outcome State Fault Refusal :=
  onChip s (doeServe 4 (fCloseSession n.toNat))

/-- OWNER_CLAIM. -/
def execOwnerClaim (keys signer : List Byte) (s : State) : Host.Outcome State Fault Refusal :=
  .next (serveClaim keys signer s)

/-- OWNER_GRANT. -/
def execOwnerGrant (grant : List Byte) (s : State) : Host.Outcome State Fault Refusal :=
  onChip s (doeServe grant.length (fGrant s.fuses grant))

/-- IDE_KM_MESSAGE. -/
def execIdeKmMessage (session : BitVec 32) (seq : BitVec 64) (ct : List Byte) (s : State) :
    Host.Outcome State Fault Refusal :=
  onPowered s (fIdeKm session.toNat seq.toNat ct)

/-- DOE_DISCOVERY. -/
def execDoeDiscovery (index : BitVec 8) (s : State) : Host.Outcome State Fault Refusal :=
  onChip s (fDiscovery index.toNat)

/-- DOE_ABORT. -/
def execDoeAbort (s : State) : Host.Outcome State Fault Refusal := onChip s fDoeAbort

end Sys2Proof.Machine
end

