-- ==== Sys2Proof/Machine/HostPort.lean ====
section
/-! DEFINITION. The host port (17): link, BAR 0, HDM, the events that block and free host writes, and the CXL
resets. -/

namespace Sys2Proof.Machine

/-! ## Link, power states and resets -/

/-- The link's rate and width entries (17 R499). -/
def setLink (c : Chip) (rate width : Nat) : Chip := setReg (setReg c (key 0x2040 1) rate) (key 0x2040 2) width

/-- CXL_LINK_TRAINING at a rate in GT/s and a width: 64 or 32 GT/s at 16 or 8 lanes reach L0, anything else returns
to Detect (17 R499). -/
def fLink (rate width : Nat) (c : Chip) : Chip :=
  if width = 16 ∨ width = 8 then
    if rate = 64 then freeWrites (setLink c 2 width)
    else if rate = 32 then freeWrites (setLink c 1 width)
    else setLink c 0 0
  else setLink c 0 0

/-- What every CXL reset clears: configuration space, BAR and decoder programming, MSI-X table and pending bits, IDE
keys and state, DOE state (17 R518). -/
def hostReset (c : Chip) : Chip :=
  let h := { HostIf.reset with fired := c.host.fired, mirrorOwed := c.host.mirrorOwed }
  setReg (endSess { c with host := h }) (key 0x2040 3) 0

/-- PERST, hot reset or link disable. -/
def fPerst (c : Chip) : Chip := setLink (hostReset c) 0 0

/-- FUNCTION_LEVEL_RESET: the link stays. -/
def fFlr (c : Chip) : Chip := if linkUp c then hostReset c else c

/-- SURPRISE_LINK_DOWN. -/
def fLinkDown (c : Chip) : Chip := setLink c 0 0

/-- POWER_STATE_CHANGE (17 R517). -/
def fPowerState (d3 : Bool) (c : Chip) : Chip :=
  if !linkUp c then c
  else if d3 then { c with host := { c.host with d3 := true } }
  else freeWrites { c with host := { c.host with d3 := false } }

/-- HOST_WRITES_UNBLOCK: the host sets Bus Master Enable. -/
def fUnblock (c : Chip) : Chip := if linkUp c then freeWrites { c with host := { c.host with bme := true } } else c

/-- BUS_MASTER_ENABLE_CLEAR. -/
def fBmeClear (c : Chip) : Chip := if linkUp c then { c with host := { c.host with bme := false } } else c

/-- An entry of the MSI-X table takes 16 bytes. -/
def setMsix (c : Chip) (v : Nat) (b : List Byte) : Chip :=
  let d : List Byte := [0, 0, 0, 0, 0, 0, 0, 0, 0, 0, 0, 0, 1, 0, 0, 0]
  { c with host := { c.host with msix := smSet d c.host.msix v b } }

/-- Traffic of the function flows: link in L0 and no IDE failure. -/
def traffic (c : Chip) : Bool := linkUp c && !c.host.ideHalt

/-- An access of BAR 0 reaches it: traffic flows, Memory Space Enable is set and the function is in D0 (17 R517 R518). -/
def barLive (c : Chip) : Bool := traffic c && c.host.mse && !c.host.d3

/-- AER takes an unsupported request. PRESUMED bit 20 of its uncorrectable status (17 R516, log 29). -/
def aerUnsupported (c : Chip) : Chip := { c with host := { c.host with aerUnc := setBit c.host.aerUnc 20 } }

/-- A request is completed as unsupported, and AER shows it. -/
def unsupported (c : Chip) : Chip := emit (aerUnsupported c) .unsupported

/-- MSIX_UNMASK: a write of the vector's entry in BAR 0 (17 R513). -/
def fUnmask (v : Nat) (c : Chip) : Chip :=
  if barLive c then
    let b := msixEntry c v
    sendPending (setMsix c v (splice b 12 (leBytes 1 (clearBit (field b 12 1) 0))))
  else c

/-- Where an IDE integrity failure is reported: AER for the CXL.io stream, RAS and the error status of the IDE structure for
CXL.cachemem; which stream failed is a free value (17 R516). PRESUMED their bits (log 29). -/
def ideReport (c : Chip) : Chip :=
  let io := Config.freeNat c.free % 2 = 0
  let h := c.host
  { c with free := c.free + 1, host := if io then { h with aerUnc := setBit h.aerUnc 28 }
      else { h with rasUnc := setBit h.rasUnc 16 } }

/-- IDE_INTEGRITY_FAILURE of a secure sub-stream: both streams insecure, their keys gone, traffic stopped until the host keys
them again; without a secure sub-stream there is nothing to check (17 R514). -/
def fIdeFail (c : Chip) : Chip :=
  if c.host.ideGo = 0 then c
  else
    let c := ideReport c
    showIde { c with host := { c.host with ideGo := 0, ideKeys := [], ideHalt := true } }

/-- H2D_SNOOP (17 R510). -/
def fSnoop (c : Chip) : Chip := if traffic c then emit c .snoopResp else c

/-! ## BAR 0 (17 R502 R503, 15 R466) -/

/-- The field of the dictionary window that an access lies in: its offset; none where it crosses a field. Bytes
04Ch to 07Fh, which R466 gives no field, count as one that reads 0 and discards writes (log 27). -/
def winField (o n : Nat) : Option Nat :=
  ([(0x000, 64), (0x040, 4), (0x044, 4), (0x048, 4), (0x04C, 52), (0x080, 64), (0x0C0, 3904)].find? (fun x =>
    decide (x.1 ≤ o) && decide (o + n ≤ x.1 + x.2))).map (·.1)

/-- An access of 1 to 64 bytes in BAR 0 that crosses no 64-byte boundary. -/
def barForm (o n : Nat) : Bool := decide (1 ≤ n) && decide (o % 64 + n ≤ 64) && decide (o + n ≤ 0x400000)

/-- An access in the form R503 asks for. -/
def barOk (o n : Nat) : Bool :=
  barForm o n && (o < 0x10000 || 0x11000 ≤ o || (winField (o - 0x10000) n).isSome)

/-- The bytes of the dictionary window (15 R466). -/
def winImage (c : Chip) : List Byte :=
  slice c.eng.winReq 0 64 ++ leBytes 4 0 ++ leBytes 4 c.eng.winStatus ++ leBytes 4 c.eng.winCount ++
    List.replicate 52 0 ++ slice c.eng.winResp 0 64

/-- A byte of BAR 0. -/
def barByte (c : Chip) (o : Nat) : Byte :=
  if o < 0x10000 then compByte c o
  else if o < 0x11000 then (winImage c).getD (o - 0x10000) 0
  else if o < 0x11400 then (msixEntry c ((o - 0x11000) / 16)).getD (o % 16) 0
  else if 0x12000 ≤ o ∧ o < 0x12008 then
    BitVec.ofNat 8 ((c.host.msixPend.foldl (fun m v => setBit m v) 0) / 256 ^ (o - 0x12000))
  else if 0x200000 ≤ o ∧ o < 0x310000 then (getBytes c.srv.window (o - 0x200000) 1).getD 0 0
  else 0

/-- A read of BAR 0. -/
def barRead (c : Chip) (o n : Nat) : Chip := emit c (.barData ((List.range n).map (fun i => barByte c (o + i))))

/-- A read that R503 does not admit: unsupported. Of one in the dictionary window that only crosses a field, R466 says that it
reads 0: which of the two rules it follows is a free value (log 27). -/
def barRefused (o n : Nat) (c : Chip) : Chip :=
  if barForm o n && 0x10000 ≤ o && decide (o < 0x11000) then
    let c' := { c with free := c.free + 1 }
    if Config.freeNat c.free % 2 = 0 then unsupported c' else emit c' (.barData (List.replicate n 0))
  else unsupported c

/-- A write in the dictionary window: the request frame, or a submission by a write of 1. -/
def winWrite (f : Fuses) (c : Chip) (o : Nat) (b : List Byte) : Chip :=
  if c.eng.winStatus = 1 then c
  else if o < 0x40 then { c with eng := { c.eng with winReq := splice (slice c.eng.winReq 0 64) o b } }
  else if o < 0x44 ∧ field (List.replicate (o - 0x40) 0 ++ b) 0 4 = 1 then fSubmit f c
  else c

/-- One byte of the MSI-X table is written. -/
def msixByte (c : Chip) (o : Nat) (x : Byte) : Chip := setMsix c (o / 16) (splice (msixEntry c (o / 16)) (o % 16) [x])

/-- A write of BAR 0; one in the intake window finds a cut-off that is due performed (01 R23, 17 R504). -/
def barWrite (f : Fuses) (c : Chip) (o : Nat) (b : List Byte) : Chip :=
  if o < 0x10000 then compWrite c o b
  else if o < 0x11000 then winWrite f c (o - 0x10000) b
  else if o < 0x11400 then
    sendPending (b.zipIdx.foldl (fun c (x, i) => msixByte c (o - 0x11000 + i) x) c)
  else if 0x200000 ≤ o ∧ o < 0x310000 then
    let c := catchUp c
    { c with srv := { c.srv with window := putBytes c.srv.window (o - 0x200000) b } }
  else c

/-- A write of configuration space (17 R513 R516 R518, log 29): BAR 0 is placed at a multiple of its 4 MiB, with Memory Space
Enable; MSI-X Enable and Function Mask, after which what they held back leaves; AER status bits are cleared. -/
def configWrite (op : BarOp) (c : Chip) : Chip :=
  let h := c.host
  match op with
  | .place base mse => { c with host := { h with bar0 := base / 0x400000 * 0x400000, mse := mse } }
  | .msixControl on mask => sendPending { c with host := { h with msixOn := on, funcMask := mask } }
  | .aerClear b => { c with host := { h with aerUnc := h.aerUnc &&& (2 ^ 32 - 1 - b % 2 ^ 32) } }
  | .read _ | .write _ => c

/-- BAR0_ACCESS. In D3hot and without Memory Space Enable the function claims no memory access, which is then an unsupported
request: PRESUMED PCI Express (17 R517, log 29). -/
def fBar (f : Fuses) (o : Nat) (op : BarOp) (c : Chip) : Chip :=
  if !linkUp c then c
  else match op with
    | .read n => if !traffic c then c else if !barLive c then unsupported c else if barOk o n then barRead c o n else barRefused o n c
    | .write b => if !traffic c then c else if !barLive c then aerUnsupported c else if barOk o b.length then barWrite f c o b else c
    | _ => configWrite op c

/-! ## HDM (17 R505 to R507) -/

/-- HDM_DECODER_COMMIT, writes of BAR 0: the host programs a decoder and commits it; it reaches device addresses from its skip
on. A commit that breaks a rule of R506 sets Error Not Committed. -/
def fDecoder (d base size skip ways : Nat) (c : Chip) : Chip :=
  if barLive c then
    { c with host := { c.host with hdm := c.host.hdm.set d (hdmCommit ⟨base, size, skip, false, false, ways⟩) } }
  else c

/-- The module address of a host address, through the first decoder that covers it. -/
def translate (c : Chip) (hpa : Nat) : Option Nat :=
  (c.host.hdm.find? (fun x => x.committed && decide (x.base ≤ hpa) && decide (hpa < x.base + x.size))).map
    (fun x => hpa - x.base + x.skip)

/-- A CXL.mem access that a decoder covers: served in D0, completed as unsupported in D3hot (PRESUMED PCI Express: 17 R517,
log 29), and lost while no traffic flows. -/
def hdmAccess (c : Chip) (f : Chip → Chip) : Chip :=
  if !traffic c then c else if c.host.d3 then unsupported c else f c

/-- The RAS capability shows poison received: PRESUMED bit 5 of its correctable status (17 R516, log 29). -/
def poisonSeen (poison : Bool) (c : Chip) : Chip :=
  if poison then { c with host := { c.host with rasCor := setBit c.host.rasCor 5 } } else c

/-- CXL_MEM_READ: an address that no decoder covers does not reach the module. An access that comes while a frequency change
stops the core clock is served when the clock restarts (10 R317). -/
def fMemRead (f : Fuses) (hpa : Nat) (c : Chip) : Chip :=
  match translate c hpa with
  | some a => hdmAccess c (fun c =>
      let r := bgRead f (fFreqRestart c) a 1 0
      emit r.1 (.memData r.2.1 r.2.2 .light))
  | none => c

/-- CXL_MEM_WRITE: stored, merged or refused, and completed with Cmp. -/
def fMemWrite (f : Fuses) (hpa en : Nat) (b : List Byte) (poison : Bool) (c : Chip) : Chip :=
  match translate c hpa with
  | some a => hdmAccess c (fun c =>
      emit (bgWrite f (holdGran (fFreqRestart (poisonSeen poison c)) a) a (slice b 0 64) en poison 1 0) (.cmp .light))
  | none => c

/-! ## The meanings -/

/-- BAR0_ACCESS. -/
def execBar0Access (offset : Nat) (op : BarOp) (s : State) : Host.Outcome State Fault Refusal :=
  onRunning s (fBar s.fuses offset op)

/-- HDM_DECODER_COMMIT. -/
def execHdmDecoderCommit (d : Fin 2) (base size skip ways : Nat) (s : State) : Host.Outcome State Fault Refusal :=
  onRunning s (fDecoder d.val base size skip ways)

/-- CXL_MEM_READ. -/
def execCxlMemRead (hpa : Nat) (s : State) : Host.Outcome State Fault Refusal := onRunning s (fMemRead s.fuses hpa)

/-- CXL_MEM_WRITE. -/
def execCxlMemWrite (hpa : Nat) (enables : BitVec 64) (data : List Byte) (poison : Bool) (s : State) :
    Host.Outcome State Fault Refusal :=
  onRunning s (fMemWrite s.fuses hpa enables.toNat data poison)

/-- H2D_SNOOP: no line is held, whatever the address. -/
def execH2dSnoop (_addr : Nat) (s : State) : Host.Outcome State Fault Refusal := onPowered s fSnoop

/-- CXL_LINK_TRAINING. -/
def execCxlLinkTraining (rate width : Nat) (s : State) : Host.Outcome State Fault Refusal :=
  onPowered s (fLink rate width)

/-- PERST. -/
def execPerst (s : State) : Host.Outcome State Fault Refusal := onPowered s fPerst

/-- FUNCTION_LEVEL_RESET. -/
def execFunctionLevelReset (s : State) : Host.Outcome State Fault Refusal := onPowered s fFlr

/-- SURPRISE_LINK_DOWN. -/
def execSurpriseLinkDown (s : State) : Host.Outcome State Fault Refusal := onPowered s fLinkDown

/-- POWER_STATE_CHANGE. -/
def execPowerStateChange (d3 : Bool) (s : State) : Host.Outcome State Fault Refusal := onPowered s (fPowerState d3)

/-- HOST_WRITES_UNBLOCK. -/
def execHostWritesUnblock (s : State) : Host.Outcome State Fault Refusal := onPowered s fUnblock

/-- MSIX_UNMASK. -/
def execMsixUnmask (v : Fin 64) (s : State) : Host.Outcome State Fault Refusal := onRunning s (fUnmask v.val)

/-- IDE_INTEGRITY_FAILURE. -/
def execIdeIntegrityFailure (s : State) : Host.Outcome State Fault Refusal := onRunning s fIdeFail

/-- BUS_MASTER_ENABLE_CLEAR. -/
def execBusMasterEnableClear (s : State) : Host.Outcome State Fault Refusal := onPowered s fBmeClear

end Sys2Proof.Machine
end

