-- ==== Sys2Proof/Machine/IntMeanings.lean ====
section
/-! DEFINITION. Meanings of the integer, move and predicate instructions (04 R94 R102): each issues under the gate of
its program in every tile its mask selects (05 R120 R124); `tileExec` says what it does there. -/

namespace Sys2Proof.Machine

/-- IADD. -/
def execIadd (i : Issue) (g : Gov) (vd a b : Fin 64) (s : State) : Host.Outcome State Fault Refusal :=
  issueX s i (.iadd i g vd a b)

/-- ISUB. -/
def execIsub (i : Issue) (g : Gov) (vd a b : Fin 64) (s : State) : Host.Outcome State Fault Refusal :=
  issueX s i (.isub i g vd a b)

/-- IADDS. -/
def execIadds (i : Issue) (g : Gov) (vd a b : Fin 64) (s : State) : Host.Outcome State Fault Refusal :=
  issueX s i (.iadds i g vd a b)

/-- ISUBS. -/
def execIsubs (i : Issue) (g : Gov) (vd a b : Fin 64) (s : State) : Host.Outcome State Fault Refusal :=
  issueX s i (.isubs i g vd a b)

/-- IMUL. -/
def execImul (i : Issue) (g : Gov) (vd a b : Fin 64) (s : State) : Host.Outcome State Fault Refusal :=
  issueX s i (.imul i g vd a b)

/-- IMULH. -/
def execImulh (i : Issue) (g : Gov) (u : Bool) (vd a b : Fin 64) (s : State) : Host.Outcome State Fault Refusal :=
  issueX s i (.imulh i g u vd a b)

/-- IMAD. -/
def execImad (i : Issue) (g : Gov) (vd a b c : Fin 64) (s : State) : Host.Outcome State Fault Refusal :=
  issueX s i (.imad i g vd a b c)

/-- IMIN. -/
def execImin (i : Issue) (g : Gov) (u : Bool) (vd a b : Fin 64) (s : State) : Host.Outcome State Fault Refusal :=
  issueX s i (.imin i g u vd a b)

/-- IMAX. -/
def execImax (i : Issue) (g : Gov) (u : Bool) (vd a b : Fin 64) (s : State) : Host.Outcome State Fault Refusal :=
  issueX s i (.imax i g u vd a b)

/-- VAND. -/
def execVand (i : Issue) (g : Gov) (vd a b : Fin 64) (s : State) : Host.Outcome State Fault Refusal :=
  issueX s i (.vand i g vd a b)

/-- VOR. -/
def execVor (i : Issue) (g : Gov) (vd a b : Fin 64) (s : State) : Host.Outcome State Fault Refusal :=
  issueX s i (.vor i g vd a b)

/-- VXOR. -/
def execVxor (i : Issue) (g : Gov) (vd a b : Fin 64) (s : State) : Host.Outcome State Fault Refusal :=
  issueX s i (.vxor i g vd a b)

/-- VNOT. -/
def execVnot (i : Issue) (g : Gov) (vd a : Fin 64) (s : State) : Host.Outcome State Fault Refusal :=
  issueX s i (.vnot i g vd a)

/-- VSHL. -/
def execVshl (i : Issue) (g : Gov) (vd a b : Fin 64) (s : State) : Host.Outcome State Fault Refusal :=
  issueX s i (.vshl i g vd a b)

/-- VSHR. -/
def execVshr (i : Issue) (g : Gov) (vd a b : Fin 64) (s : State) : Host.Outcome State Fault Refusal :=
  issueX s i (.vshr i g vd a b)

/-- VSRA. -/
def execVsra (i : Issue) (g : Gov) (vd a b : Fin 64) (s : State) : Host.Outcome State Fault Refusal :=
  issueX s i (.vsra i g vd a b)

/-- ICMP. -/
def execIcmp (i : Issue) (g : Gov) (cc : Cc) (u : Bool) (pd : Fin 8) (a b : Fin 64) (s : State) : Host.Outcome State Fault Refusal :=
  issueX s i (.icmp i g cc u pd a b)

/-- VMOV. -/
def execVmov (i : Issue) (g : Gov) (vd a : Fin 64) (s : State) : Host.Outcome State Fault Refusal :=
  issueX s i (.vmov i g vd a)

/-- VMOVI. -/
def execVmovi (i : Issue) (g : Gov) (vd : Fin 64) (imm : BitVec 32) (s : State) : Host.Outcome State Fault Refusal :=
  issueX s i (.vmovi i g vd imm)

/-- VPERM. -/
def execVperm (i : Issue) (g : Gov) (vd a vi : Fin 64) (s : State) : Host.Outcome State Fault Refusal :=
  issueX s i (.vperm i g vd a vi)

/-- PAND. -/
def execPand (i : Issue) (g : Gov) (pd a b : Fin 8) (s : State) : Host.Outcome State Fault Refusal :=
  issueX s i (.pand i g pd a b)

/-- POR. -/
def execPor (i : Issue) (g : Gov) (pd a b : Fin 8) (s : State) : Host.Outcome State Fault Refusal :=
  issueX s i (.por i g pd a b)

/-- PXOR. -/
def execPxor (i : Issue) (g : Gov) (pd a b : Fin 8) (s : State) : Host.Outcome State Fault Refusal :=
  issueX s i (.pxor i g pd a b)

/-- PNOT. -/
def execPnot (i : Issue) (g : Gov) (pd a : Fin 8) (s : State) : Host.Outcome State Fault Refusal :=
  issueX s i (.pnot i g pd a)

/-- PFROM. -/
def execPfrom (i : Issue) (g : Gov) (pd : Fin 8) (a : Fin 64) (s : State) : Host.Outcome State Fault Refusal :=
  issueX s i (.pfrom i g pd a)

/-- VPCNT. -/
def execVpcnt (i : Issue) (g : Gov) (vd : Fin 64) (ps : Fin 8) (s : State) : Host.Outcome State Fault Refusal :=
  issueX s i (.vpcnt i g vd ps)

end Sys2Proof.Machine
end

