-- ==== Sys2Proof/Machine/MoveMeanings.lean ====
section
/-! DEFINITION. Meanings of conversion, index, operand cache, queue and slot instructions (04 R94 R103 R104 R106 to R110): each issues under the gate of
its program in every tile its mask selects (05 R120 R124); `tileExec` says what it does there. -/

namespace Sys2Proof.Machine

/-- VCVT. -/
def execVcvt (i : Issue) (g : Gov) (dir : Cvt) (m : RMode) (vd a : Fin 64) (s : State) : Host.Outcome State Fault Refusal :=
  issueX s i (.vcvt i g dir m vd a)

/-- VRND. -/
def execVrnd (i : Issue) (g : Gov) (m : RMode) (vd a : Fin 64) (s : State) : Host.Outcome State Fault Refusal :=
  issueX s i (.vrnd i g m vd a)

/-- VQNT. -/
def execVqnt (i : Issue) (g : Gov) (vd a vk : Fin 64) (f : Fmt) (sc : QScale) (o : Fin 256) (s : State) : Host.Outcome State Fault Refusal :=
  issueX s i (.vqnt i g vd a vk f sc o)

/-- VDQ. -/
def execVdq (i : Issue) (g : Gov) (vd a vk : Fin 64) (f : Fmt) (scaled : Bool) (o : Fin 256) (s : State) : Host.Outcome State Fault Refusal :=
  issueX s i (.vdq i g vd a vk f scaled o)

/-- VLANE. -/
def execVlane (i : Issue) (g : Gov) (vd : Fin 64) (s : State) : Host.Outcome State Fault Refusal :=
  issueX s i (.vlane i g vd)

/-- VTID. -/
def execVtid (i : Issue) (g : Gov) (vd : Fin 64) (s : State) : Host.Outcome State Fault Refusal :=
  issueX s i (.vtid i g vd)

/-- AMOV. -/
def execAmov (i : Issue) (g : Gov) (ad : Fin 8) (imm : BitVec 16) (s : State) : Host.Outcome State Fault Refusal :=
  issueX s i (.amov i g ad imm)

/-- AADD. -/
def execAadd (i : Issue) (g : Gov) (ad : Fin 8) (imm : BitVec 16) (s : State) : Host.Outcome State Fault Refusal :=
  issueX s i (.aadd i g ad imm)

/-- AFROM. -/
def execAfrom (i : Issue) (g : Gov) (ad : Fin 8) (a : Fin 64) (s : State) : Host.Outcome State Fault Refusal :=
  issueX s i (.afrom i g ad a)

/-- VLD. -/
def execVld (i : Issue) (g : Gov) (v : Fin 64) (ad : Fin 8) (imm : BitVec 16) (s : State) : Host.Outcome State Fault Refusal :=
  issueX s i (.vld i g v ad imm)

/-- VST. -/
def execVst (i : Issue) (g : Gov) (v : Fin 64) (ad : Fin 8) (imm : BitVec 16) (s : State) : Host.Outcome State Fault Refusal :=
  issueX s i (.vst i g v ad imm)

/-- VLDB. -/
def execVldb (i : Issue) (g : Gov) (v : Fin 64) (ad : Fin 8) (imm : BitVec 16) (s : State) : Host.Outcome State Fault Refusal :=
  issueX s i (.vldb i g v ad imm)

/-- VGATH. -/
def execVgath (i : Issue) (g : Gov) (vd vi : Fin 64) (ad : Fin 8) (b : Nat) (s : State) : Host.Outcome State Fault Refusal :=
  issueX s i (.vgath i g vd vi ad b)

/-- VSCAT. -/
def execVscat (i : Issue) (g : Gov) (vs vi : Fin 64) (ad : Fin 8) (b : Nat) (s : State) : Host.Outcome State Fault Refusal :=
  issueX s i (.vscat i g vs vi ad b)

/-- VPOP. -/
def execVpop (i : Issue) (g : Gov) (vd : Fin 64) (q : Fin 8) (s : State) : Host.Outcome State Fault Refusal :=
  issueX s i (.vpop i g vd q)

/-- VPUSH. -/
def execVpush (i : Issue) (g : Gov) (vs : Fin 64) (q : Fin 8) (s : State) : Host.Outcome State Fault Refusal :=
  issueX s i (.vpush i g vs q)

/-- VSLOT. -/
def execVslot (i : Issue) (g : Gov) (vd : Fin 64) (pd : Fin 8) (ve : Fin 64) (c : Nat) (s : State) : Host.Outcome State Fault Refusal :=
  issueX s i (.vslot i g vd pd ve c)

/-- VSLMSK. -/
def execVslmsk (i : Issue) (g : Gov) (vd : Fin 64) (e : SlotSel) (s : State) : Host.Outcome State Fault Refusal :=
  issueX s i (.vslmsk i g vd e)

/-- VSLRD. -/
def execVslrd (i : Issue) (g : Gov) (vd : Fin 64) (grp : Fin 4) (s : State) : Host.Outcome State Fault Refusal :=
  issueX s i (.vslrd i g vd grp)

/-- VSLSET. -/
def execVslset (i : Issue) (g : Gov) (vs : Fin 64) (grp : Fin 4) (s : State) : Host.Outcome State Fault Refusal :=
  issueX s i (.vslset i g vs grp)

/-- VSLCLR. -/
def execVslclr (i : Issue) (g : Gov) (s : State) : Host.Outcome State Fault Refusal :=
  issueX s i (.vslclr i g)

end Sys2Proof.Machine
end

