-- ==== Sys2Proof/Machine/Sampler.lean ====
section
/-! DEFINITION. The sampler (08 R245 to R253) and the late write that may post its job (07 R198). -/

namespace Sys2Proof.Machine

/-- The sampler region of a die. -/
def samplerRegion (c : Chip) (d : Nat) : Nat := reg c (key 0x6003 (d + 1))

/-- The draft areas that a sampler region wholly holds (08 R221). -/
def draftAreas (c : Chip) (d : Nat) : Nat :=
  match regionOf c (samplerRegion c d) with
  | some r => (r.size / 64 - 768) / 288
  | none => 0

/-! ## Grammars (08 R251 to R253) -/

/-- Where a grammar walk stands: state, stack with its bottom first, lowest depth since the start. -/
structure Walk where
  st : Nat
  stack : List Nat
  low : Nat
  deriving DecidableEq, Repr

/-- What a token does to the walk: goes on, accepts, or fails with a status. -/
inductive Walked where
  | ok (w : Walk)
  | accept (w : Walk)
  | fault (status : Nat)
  deriving DecidableEq, Repr

/-- A grammar image: its number and the fields of its header. -/
structure Gram where
  base : Nat
  states : Nat
  trans : Nat
  classes : Nat
  masks : Nat
  deriving DecidableEq, Repr

/-- Read the serving tables. -/
def tabRead (h : HeldLines) (c : Chip) (off len : Nat) : Chip × List Byte × Bool := seenRead h c (svRegion c 6) off len

/-- The header of grammar g; none where the session has no grammar. -/
def gramOf (h : HeldLines) (c : Chip) (g : Nat) : Chip × Option Gram × Bool :=
  if g = 0xFF then (c, none, false)
  else
    let base := g * svRegion c 7
    let r := tabRead h c base 64
    let h := r.2.1
    (r.1, some ⟨base, base + field h 0x10 4, base + field h 0x14 4, base + field h 0x18 4, base + field h 0x1C 4⟩, r.2.2)

/-- The tokens that the grammar's state and the session's mask allow (08 R253), as bytes of bits, none
for no limit. -/
def allowBytes (h : HeldLines) (c : Chip) (g : Option Gram) (m st : Nat) : Chip × List (List Byte) × Bool :=
  let n := sv c 2 / 8
  let (c, a, p) := match g with
    | none => (c, [], false)
    | some g =>
      let r := tabRead h c (g.states + 8 * st) 8
      let k := tabRead h r.1 (g.masks + n * field r.2.1 0 2) n
      (k.1, [k.2.1], r.2.2 || k.2.2)
  if m = 0xFF then (c, a, p)
  else
    let k := tabRead h c (256 * svRegion c 7 + m * n) n
    (k.1, a ++ [k.2.1], p || k.2.2)

/-- Token i is allowed by each of the limits. -/
def allowed (l : List (List Byte)) (i : Nat) : Bool := l.all (fun b => (b.getD (i / 8) 0).getLsbD (i % 8))

/-- The transition of a state whose class is k, among n of them from index f. -/
def findTrans (h : HeldLines) (c : Chip) (g : Gram) (f k : Nat) : Nat → Chip × Option (List Byte) × Bool
  | 0 => (c, none, false)
  | n + 1 =>
    let r := tabRead h c (g.trans + 8 * f) 8
    if field r.2.1 0 2 = k then (r.1, some r.2.1, r.2.2)
    else
      let t := findTrans h r.1 g (f + 1) k n
      (t.1, t.2.1, r.2.2 || t.2.2)

/-- One token of the walk (08 R253). A token of class FFFFh has none, so that no transition has its class (R252). -/
def walkToken (h : HeldLines) (c : Chip) (g : Option Gram) (w : Walk) (tok : Nat) : Chip × Walked × Bool :=
  match g with
  | none => (c, .ok w, false)
  | some g =>
    let k := tabRead h c (g.classes + 2 * tok) 2
    if field k.2.1 0 2 = 0xFFFF then (k.1, .fault 6, k.2.2) else
    let s := tabRead h k.1 (g.states + 8 * w.st) 8
    let t := findTrans h s.1 g (field s.2.1 4 4) (field k.2.1 0 2) (field s.2.1 2 2)
    let bad := k.2.2 || s.2.2 || t.2.2
    match t.2.1 with
    | none => (t.1, .fault 6, bad)
    | some x =>
      let target := field x 4 2
      let d := w.stack.length
      match field x 2 1 with
      | 0 => (t.1, .ok { w with st := target }, bad)
      | 1 =>
        if 64 ≤ d then (t.1, .fault 7, bad)
        else (t.1, .ok { w with st := target, stack := w.stack ++ [field x 6 2] }, bad)
      | 2 =>
        if d = 0 then (t.1, .fault 7, bad)
        else (t.1, .ok { st := w.stack.getD (d - 1) 0, stack := w.stack.take (d - 1), low := min w.low (d - 1) }, bad)
      | 3 => (t.1, .accept w, bad)
      | _ =>
        -- an action that R252 does not name: the state after it is a free value (log 12)
        let n := freeNumber t.1
        (n.1, .ok { w with st := n.2 % 65536 }, bad)

/-! ## Weighing a row (08 R247) -/

/-- FP32 maximum. -/
def f32Max : Word := 0x7F7FFFFF

/-- Candidate order: value descending, ties to the lower token. -/
def candLt (a b : Word × Nat) : Bool :=
  decide (f32Num b.1 < f32Num a.1) || (f32Num a.1 == f32Num b.1 && decide (a.2 < b.2))

/-- A logit as R247 takes it; none where it counts as −infinity. -/
def logit (x : Word) : Option Word :=
  match f32 x with
  | .nan => none
  | .inf true => none
  | .inf false => some f32Max
  | _ => some x

/-- The k best of a row of logits, best first. -/
def bestOf (row : List Word) (ok : Nat → Bool) (k : Nat) : List (Word × Nat) :=
  row.zipIdx.foldl (fun l (x, i) =>
    match logit x with
    | some v => if ok i then (sortIns candLt (v, i) l).take k else l
    | none => l) []

/-- What weighing gives: no candidate, the greedy one, or the kept candidates with their cumulative
weights and probabilities. -/
inductive Weighed where
  | nothing
  | greedy (tok : Nat)
  | kept (toks : List Nat) (cum p : List Word)
  deriving DecidableEq, Repr

/-- Rounded FP32 product, sum, difference and quotient. -/
def mulW (c : Chip) (a b : Word) : Word := (fmul (ieee c) a b).1

/-- See `mulW`. -/
def addW (c : Chip) (a b : Word) : Word := (fadd (ieee c) a b).1

/-- See `mulW`. -/
def subW (c : Chip) (a b : Word) : Word := (fsub (ieee c) a b).1

/-- See `mulW`. -/
def divW (c : Chip) (a b : Word) : Word := (fdiv (ieee c) a b).1

/-- Running sums from +0. -/
def runSum (c : Chip) : Word → List Word → List Word
  | _, [] => []
  | s, x :: t => let s' := addW c s x; s' :: runSum c s' t

/-- a ≥ b as numbers. -/
def geW (a b : Word) : Bool := decide (f32Num b ≤ f32Num a)

/-- a > b as numbers. -/
def gtW (a b : Word) : Bool := decide (f32Num b < f32Num a)

/-- The procedure weigh. -/
def weigh (c : Chip) (row : List Word) (ok : Nat → Bool) (s : Sess) : Weighed :=
  let cs := bestOf row ok s.topk
  match cs with
  | [] => .nothing
  | (x0, t0) :: _ =>
    if s.temp = 0 then .greedy t0
    else
      let g := divW c 0x3FB8AA3B (BitVec.ofNat 32 s.temp)
      let w := cs.map (fun x => (fexp2 (ieee c) (mulW c (subW c x.1 x0) g)).1)
      let cum := runSum c 0 w
      let t := mulW c (BitVec.ofNat 32 s.topp) (cum.getLastD 0)
      let r := cum.findIdx (fun x => geW x t)
      let n := min (r + 1) cs.length
      .kept ((cs.take n).map (·.2)) (cum.take n) ((w.take n).map (fun x => divW c x (cum.getD (n - 1) 0)))

/-- A uniform number for position p and purpose f (08 R248). -/
def uniform (s : Sess) (p f : Nat) : Word := (roundF32 false ⟨(philox s.seed p f / 256 : Nat), -24⟩ false).1

/-- The candidate that a draw returns: the first whose running sum passes u × the last sum, or the
last. -/
def drawFrom (c : Chip) (toks : List Nat) (cum : List Word) (u : Word) : Nat :=
  let x := mulW c u (cum.getLastD 0)
  let j := cum.findIdx (fun y => gtW y x)
  toks.getD (min j (toks.length - 1)) 0

/-! ## A job (08 R245 R249) -/

/-- The fields of a job record. -/
def jobField (b : List Byte) (o n : Nat) : Nat := field b o n

/-- The job record has one of the modes, row counts, formats and indices that R245 gives. -/
def jobOk (b : List Byte) : Bool :=
  let m := field b 2 1
  let r := field b 3 1
  let j := field b 5 1
  decide (field b 0 2 < 4096) && decide (field b 4 1 ≤ 1) && decide (field b 0x10 4 ≤ 255) &&
    (match m with
      | 0 => r == 1 && j == 0
      | 1 => r == 1 && decide (j ≤ 7)
      | 2 => decide (2 ≤ r) && decide (r ≤ 9) && j == 0
      | _ => false)

/-- Row i of a job's logits as FP32. -/
def rowOf (h : HeldLines) (c : Chip) (b : List Byte) (i : Nat) : Chip × List Word × Bool :=
  let bf := field b 4 1 = 1
  let n := rowLines c bf
  let r := seenLines h c (field b 8 4) (field b 0xC 4 + n * i) n
  let v := sv c 2
  (r.1, if bf then (List.range v).map (fun k => BitVec.ofNat 32 (field r.2.1 (2 * k) 2 * 65536))
        else (List.range v).map (fun k => BitVec.ofNat 32 (field r.2.1 (4 * k) 4)), r.2.2)

/-- A session's grammar walk at the last boundary. -/
def sessWalk (s : Sess) : Walk := ⟨s.gstate, s.gstack.take s.gdepth, s.gdepth⟩

/-- What a job has found: tokens emitted, status, walk, whether poison entered. -/
structure Found where
  toks : List Nat
  status : Nat
  w : Walk
  bad : Bool
  deriving DecidableEq, Repr

/-- Add an emitted token to what a job has found, with the walk after it. -/
def emitTok (h : HeldLines) (c : Chip) (g : Option Gram) (f : Found) (tok : Nat) : Chip × Found :=
  let r := walkToken h c g f.w tok
  match r.2.1 with
  | .ok w => (r.1, { f with toks := f.toks ++ [tok], w := w, bad := f.bad || r.2.2 })
  | .accept w => (r.1, { f with toks := f.toks ++ [tok], w := w, status := 3, bad := f.bad || r.2.2 })
  | .fault e => (r.1, { f with status := e, bad := f.bad || r.2.2 })

/-- The result record (08 R254). -/
def resultBytes (b : List Byte) (start : Walk) (f : Found) : List Byte :=
  let low := min f.w.low start.stack.length
  let up := f.w.stack.drop low
  leBytes 2 (field b 0 2) ++ leBytes 1 f.status ++ leBytes 1 f.toks.length ++ leBytes 4 (field b 0x14 4) ++
    slice (f.toks.flatMap (leBytes 4)) 0 36 ++ leBytes 2 f.w.st ++ leBytes 1 f.w.stack.length ++ leBytes 1 low ++
    slice (up.flatMap (leBytes 2)) 0 18 ++ leBytes 1 (if f.bad then 1 else 0) ++ List.replicate 61 0

/-- Weigh row i of a job under a walk. -/
def weighRow (h : HeldLines) (c : Chip) (b : List Byte) (s : Sess) (g : Option Gram) (w : Walk) (i : Nat) : Chip × Weighed × Bool :=
  let r := rowOf h c b i
  let a := allowBytes h r.1 g s.mask w.st
  (a.1, weigh a.1 r.2.1 (fun t => decide (t < sv a.1 2) && allowed a.2.1 t) s, r.2.2 || a.2.2)

/-- The token that a plain draw of a weighed row takes (08 R248). -/
def drawOf (c : Chip) (s : Sess) (x : Weighed) (pos purpose : Nat) : Option Nat :=
  match x with
  | .nothing => none
  | .greedy t => some t
  | .kept ts cum _ => some (drawFrom c ts cum (uniform s pos purpose))

/-- Draw row i at a position for a purpose, and walk. -/
def drawRow (h : HeldLines) (c : Chip) (b : List Byte) (s : Sess) (g : Option Gram) (f : Found) (i pos purpose : Nat) : Chip × Found × Weighed :=
  let x := weighRow h c b s g f.w i
  let f := { f with bad := f.bad || x.2.2 }
  match drawOf x.1 s x.2.1 pos purpose with
  | none => (x.1, { f with status := 5 }, x.2.1)
  | some t => let r := emitTok h x.1 g f t; (r.1, r.2, x.2.1)

/-- Draft entry j of area a: its first line (08 R245 R250). -/
def draftLine (a j : Nat) : Nat := 768 + 288 * a + 36 * j

/-- A draft entry (08 R250); the probability of a greedy candidate is not stated: a free value. -/
def draftBytes (tok pos : Nat) (w : Walk) (pairs : List (Nat × Word)) : List Byte :=
  leBytes 4 tok ++ leBytes 4 pos ++ leBytes 2 w.st ++ leBytes 1 w.stack.length ++ leBytes 1 0 ++
    leBytes 2 pairs.length ++ leBytes 2 0 ++ slice (w.stack.flatMap (leBytes 2)) 0 128 ++
    slice (pairs.flatMap (fun p => leBytes 4 p.1 ++ leBytes 4 p.2.toNat)) 0 2048 ++ List.replicate 112 0

/-- The walk that a draft entry holds. -/
def draftWalk (d : List Byte) : Walk :=
  let n := min 64 (field d 0xA 1)
  ⟨field d 8 2, (List.range n).map (fun i => field d (0x10 + 2 * i) 2), n⟩

/-- The probability of a token in a draft entry, +0 where absent. -/
def draftP (d : List Byte) (tok : Nat) : Word :=
  match (List.range (min 256 (field d 0xC 2))).find? (fun i => field d (0x90 + 8 * i) 4 == tok) with
  | some i => BitVec.ofNat 32 (field d (0x94 + 8 * i) 4)
  | none => 0

/-- The probability of a token among kept candidates, +0 where it is not kept. -/
def keptP (ts : List Nat) (p : List Word) (tok : Nat) : Word := p.getD (ts.findIdx (· == tok)) 0

/-- The token at the first rejection (08 R249): the greedy one, or a residual draw. -/
def residual (c : Chip) (s : Sess) (x : Weighed) (d : List Byte) (pos : Nat) : Option Nat :=
  match x with
  | .nothing => none
  | .greedy t => some t
  | .kept ts _ p =>
    let res := (ts.zip p).map (fun (t, pj) =>
      let v := subW c pj (draftP d t)
      if gtW v 0 then v else (0 : Word))
    let ws := if res.all (· == 0) then p else res
    some (drawFrom c ts (runSum c 0 ws) (uniform s pos 3))

/-- Draft i is accepted in a weighed row (08 R249). -/
def accepts (c : Chip) (s : Sess) (x : Weighed) (d : List Byte) (pos : Nat) : Bool :=
  let tok := field d 0 4
  match x with
  | .nothing => false
  | .greedy t => t == tok
  | .kept ts _ p => gtW (keptP ts p tok) (mulW c (uniform s pos 2) (draftP d tok))

/-- Mode 2: rows i to r − 1, the walk being that after the drafts before (08 R249). -/
def verifyRows (h : HeldLines) (reg : Nat) (b : List Byte) (s : Sess) (g : Option Gram) (r : Nat) : Nat → Nat → Chip → Found → Chip × Found
  | 0, _, c, f => (c, f)
  | fuel + 1, i, c, f =>
    let pos := field b 0x14 4 + i
    if f.status ≠ 0 then (c, f)
    else if r ≤ i + 1 then
      let x := drawRow h c b s g f i pos 0
      (x.1, x.2.1)
    else
      let d := seenLines h c reg (draftLine (field b 6 2) i) 36
      let x := weighRow h d.1 b s g f.w i
      let f := { f with bad := f.bad || d.2.2 || x.2.2 }
      if accepts x.1 s x.2.1 d.2.1 pos then
        let e := emitTok h x.1 g f (field d.2.1 0 4)
        verifyRows h reg b s g r fuel (i + 1) e.1 e.2
      else
        match residual x.1 s x.2.1 d.2.1 pos with
        | none => (x.1, { f with status := 5 })
        | some t => emitTok h x.1 g f t

/-- What a job finds, and in mode 1 the draft entry it writes. -/
def runJob (c : Chip) (die : Nat) (job : Job) : Chip × List Byte × Option (Nat × List Byte) :=
  let b := job.bytes
  let s := job.sess
  let h := job.held
  let w0 := sessWalk s
  let q := field b 0x14 4
  let g := gramOf h c s.gram
  let rg := samplerRegion c die
  match field b 2 1 with
  | 0 =>
    let x := drawRow h g.1 b s g.2.1 ⟨[], 0, w0, g.2.2⟩ 0 q 0
    (x.1, resultBytes b w0 x.2.1, none)
  | 1 =>
    let a := field b 6 2
    let j := field b 5 1
    let d := if j = 0 then (g.1, [], false) else seenLines h g.1 rg (draftLine a (j - 1)) 36
    let w := if j = 0 then w0 else draftWalk d.2.1
    let x := drawRow h d.1 b s g.2.1 ⟨[], 0, w, g.2.2 || d.2.2⟩ 0 q 1
    let tok := drawOf x.1 s x.2.2 q 1
    let n := freeNumber x.1
    let fb := freeBytes n.1 4
    let pairs := match x.2.2 with
      | .nothing => []
      | .greedy t => [(t, (BitVec.ofNat 32 n.2 : Word))]
      | .kept ts _ p => ts.zip p
    let t := match tok with
      | some t => t
      | none => leNat fb.2
    (fb.1, resultBytes b w x.2.1, some (draftLine a j, draftBytes t q x.2.1.w pairs))
  | _ =>
    let x := verifyRows h rg b s g.2.1 (field b 3 1) 9 0 g.1 ⟨[], 0, w0, g.2.2⟩
    (x.1, resultBytes b w0 x.2, none)

/-- Core cycles from the start of a job to its end (08 R246). -/
def jobCycles (c : Chip) (b : List Byte) : Nat :=
  field b 3 1 * (rowLines c (field b 4 1 == 1) / 4 + 256) + 128

/-- A job that the sampler does not take (08 R221 R246, 14 R432). -/
def jobDiscard (c : Chip) (die : Nat) (b : List Byte) : Chip :=
  report (bump c (key 0x6050 17) 1) 0x0701 (.die die) .cycle [3, field b 0 2]

/-! ## The three steps of a job -/

/-- The oldest command line of a die whose memory point has passed is posted. -/
def fPost (die : Nat) (c : Chip) : Chip :=
  let c := passed c
  match c.srv.cmdDue.find? (fun x => x.1 == die) with
  | none => c
  | some (_, line, b) =>
    let c := { c with srv := { c.srv with cmdDue := c.srv.cmdDue.eraseP (fun x => x.1 == die) } }
    let js := c.srv.jobs.getD die []
    let m := field b 2 1
    if 32 ≤ js.length ∨ ((m = 1 ∨ m = 2) ∧ draftAreas c die ≤ field b 6 2) then jobDiscard c die b
    else { c with srv := { c.srv with jobs := c.srv.jobs.set die (js ++ [⟨line, b, 0, 0, Sess.free, []⟩]) } }

/-- The entry of a job's session as it stood at the last boundary (08 R246). -/
def entryAt (c : Chip) (j : Job) : Sess := smGet Sess.free (c.srv.snap.getD c.srv.sess) (field j.bytes 0 2)

/-- The oldest posted job starts once the one before has ended. -/
def fJobStart (die : Nat) (c : Chip) : Chip :=
  let c := passed c
  match serving c, c.srv.job.getD die none, c.srv.jobs.getD die [] with
  | true, none, j :: rest =>
    let c := controlCheck c die 3 .cycle
    { c with srv := { c.srv with job := c.srv.job.set die (some { j with start := c.count, cyc := c.plan.cyc, sess := entryAt c j,
                                                                            held := c.srv.tablesHeld }),
                                 jobs := c.srv.jobs.set die rest } }
  | _, _, _ => c

/-- The running job ends: its result record, and in mode 1 its draft entry. A record outside the bounds
of R245 has no stated result: free bytes. -/
def fJobEnd (die : Nat) (c : Chip) : Chip :=
  match serving c, c.srv.job.getD die none with
  | true, some j =>
    let c := passed (reach c (j.start + cdiv (2 * jobCycles c j.bytes) (ccNow c)))
    let c := { c with srv := { c.srv with job := c.srv.job.set die none } }
    let rg := samplerRegion c die
    let line := 256 + 2 * (field j.bytes 0x10 4 % 256)
    if jobOk j.bytes then
      let r := runJob c die j
      let c := engWrite r.1 rg line r.2.1
      match r.2.2 with
      | some (l, d) => engWrite c rg l d
      | none => c
    else
      let r := freeBytes c 128
      engWrite r.1 rg line r.2
  | _, _ => c

/-- A late write of a stack or channel is performed as soon as the tier can (07 R198), but none while a frequency change
stops the core clock (10 R317). -/
def fLateWrite (unit : Nat) (c : Chip) : Chip :=
  match (if c.time.changing then none else c.late.find? (fun x => x.unit == unit)) with
  | none => c
  | some x => performLate { c with late := c.late.eraseP (fun x => x.unit == unit) } x

/-! ## The meanings -/

/-- LATE_WRITE_PERFORM: unit 0 to 7 the stacks, 8 to 15 the channels. -/
def execLateWritePerform (unit : Fin 16) (s : State) : Host.Outcome State Fault Refusal :=
  onRunning s (fLateWrite unit.val)

/-- SAMPLER_JOB_POST. -/
def execSamplerJobPost (die : Fin 4) (s : State) : Host.Outcome State Fault Refusal :=
  onRunning s (fPost die.val)

/-- SAMPLER_JOB_START. -/
def execSamplerJobStart (die : Fin 4) (s : State) : Host.Outcome State Fault Refusal :=
  onRunning s (fJobStart die.val)

/-- SAMPLER_JOB_END. -/
def execSamplerJobEnd (die : Fin 4) (s : State) : Host.Outcome State Fault Refusal :=
  onRunning s (fJobEnd die.val)

end Sys2Proof.Machine
end

