-- ==== Sys2Proof/Machine/Writes.lean ====
section
/-! DEFINITION. The commands that are writes of one entry: each is the write with its checks, of the value the
command names (15 R454 and the rules of the entries). -/

namespace Sys2Proof.Machine

/-- IMPORT_START: a write of B040h:05 (13 R425). -/
def execImportStart (v : BitVec 8) (s : State) : Host.Outcome State Fault Refusal :=
  writeRow s 0xB040 5 1 v.toNat

/-- FULL_BATCH_REQUEST: a write of B020h:05 (13 R422). -/
def execFullBatchRequest (v : BitVec 8) (s : State) : Host.Outcome State Fault Refusal :=
  writeRow s 0xB020 5 1 v.toNat

/-- CHECKPOINT_SCHEDULE: a write of B030h:01 (13 R423). -/
def execCheckpointSchedule (t : BitVec 64) (s : State) : Host.Outcome State Fault Refusal :=
  writeRow s 0xB030 1 8 t.toNat

/-- RESUME_ARM: a write of B050h:01 (13 R426). -/
def execResumeArm (l : BitVec 64) (s : State) : Host.Outcome State Fault Refusal :=
  writeRow s 0xB050 1 8 l.toNat

/-- ARM: a write of 8030h:01 (10 R308). -/
def execArm (l : BitVec 64) (s : State) : Host.Outcome State Fault Refusal :=
  writeRow s 0x8030 1 8 l.toNat

/-- DISARM: a write of all ones to 8030h:01 (10 R308). -/
def execDisarm (s : State) : Host.Outcome State Fault Refusal :=
  writeRow s 0x8030 1 8 ones64

/-- QZ5_ARM: a write of FFFFFFFFFFFFFFFEh to 8030h:01 (10 R323). -/
def execQz5Arm (s : State) : Host.Outcome State Fault Refusal :=
  writeRow s 0x8030 1 8 atOnce64

/-- FREQ_CHANGE_SCHEDULE: a write of 8000h:03 (10 R316). -/
def execFreqChangeSchedule (c : BitVec 64) (s : State) : Host.Outcome State Fault Refusal :=
  writeRow s 0x8000 3 8 c.toNat

/-- FREQ_CHANGE_CANCEL: a write of all ones to 8000h:03 (10 R316). -/
def execFreqChangeCancel (s : State) : Host.Outcome State Fault Refusal :=
  writeRow s 0x8000 3 8 ones64

/-- PORT_ENABLE: port command 1 (11 R363). -/
def execPortEnable (p : Fin 32) (s : State) : Host.Outcome State Fault Refusal :=
  writeRow s (0x5100 + p.val) 1 1 1

/-- PORT_RETRAIN: port command 2 (11 R363 R366). -/
def execPortRetrain (p : Fin 32) (s : State) : Host.Outcome State Fault Refusal :=
  writeRow s (0x5100 + p.val) 1 1 2

/-- PORT_NARROW: port command 3 (11 R367). -/
def execPortNarrow (p : Fin 32) (s : State) : Host.Outcome State Fault Refusal :=
  writeRow s (0x5100 + p.val) 1 1 3

/-- PORT_WIDEN: port command 4 (11 R363). -/
def execPortWiden (p : Fin 32) (s : State) : Host.Outcome State Fault Refusal :=
  writeRow s (0x5100 + p.val) 1 1 4

/-- PORT_DISABLE: port command 5 (11 R363). -/
def execPortDisable (p : Fin 32) (s : State) : Host.Outcome State Fault Refusal :=
  writeRow s (0x5100 + p.val) 1 1 5

/-- FENCE_OPEN: fence mode 0 (12 R401). -/
def execFenceOpen (p : Fin 32) (s : State) : Host.Outcome State Fault Refusal :=
  writeRow s (0x5100 + p.val) 13 1 0

/-- LOGICAL_FENCE: fence mode 1 (12 R402). -/
def execLogicalFence (p : Fin 32) (s : State) : Host.Outcome State Fault Refusal :=
  writeRow s (0x5100 + p.val) 13 1 1

/-- ELECTRICAL_FENCE: fence mode 2 (12 R403). -/
def execElectricalFence (p : Fin 32) (s : State) : Host.Outcome State Fault Refusal :=
  writeRow s (0x5100 + p.val) 13 1 2

/-- DEVICE_ID_WRITE: a write of 1020h:01 (01 R34, 12 R386). -/
def execDeviceIdWrite (v : BitVec 32) (s : State) : Host.Outcome State Fault Refusal :=
  writeRow s 0x1020 1 4 v.toNat

/-- DEVICE_ID_UNASSIGN: a write of FFFFFFFFh to 1020h:01 (01 R34, 12 R386). -/
def execDeviceIdUnassign (s : State) : Host.Outcome State Fault Refusal :=
  writeRow s 0x1020 1 4 ones32

/-- PORT31_ROLE_WRITE: a write of 5010h:01 (12 R388). -/
def execPort31RoleWrite (v : BitVec 8) (s : State) : Host.Outcome State Fault Refusal :=
  writeRow s 0x5010 1 1 v.toNat

/-- PORT31_SUBSTITUTE_WRITE: a write of 5010h:02 (12 R388). -/
def execPort31SubstituteWrite (v : BitVec 8) (s : State) : Host.Outcome State Fault Refusal :=
  writeRow s 0x5010 2 1 v.toNat

/-- PLAN_LOAD: load command 1 (06 R164 R165). -/
def execPlanLoad (s : State) : Host.Outcome State Fault Refusal :=
  writeRow s 0x2020 1 1 1

/-- PLAN_UNLOAD: load command 2 (06 R164). -/
def execPlanUnload (s : State) : Host.Outcome State Fault Refusal :=
  writeRow s 0x2020 1 1 2

/-- REPLACE: load command 3 (06 R182). -/
def execReplace (s : State) : Host.Outcome State Fault Refusal :=
  writeRow s 0x2020 1 1 3

/-- HALT_AT_STEP: a write of 2010h:03 (01 R29). -/
def execHaltAtStep (n : BitVec 64) (s : State) : Host.Outcome State Fault Refusal :=
  writeRow s 0x2010 3 8 n.toNat

/-- COMMIT_SCHEDULE: a write of 2000h:01 (15 R454). -/
def execCommitSchedule (t : BitVec 64) (s : State) : Host.Outcome State Fault Refusal :=
  writeRow s 0x2000 1 8 t.toNat

/-- COMMIT_CANCEL: a write of all ones to 2000h:01 (15 R454). -/
def execCommitCancel (s : State) : Host.Outcome State Fault Refusal :=
  writeRow s 0x2000 1 8 ones64

/-- COMMIT_NOW: a write of FFFFFFFFFFFFFFFEh to 2000h:01 (15 R454). -/
def execCommitNow (s : State) : Host.Outcome State Fault Refusal :=
  writeRow s 0x2000 1 8 atOnce64

/-- DISCARD_SHADOWS: a write of 2000h:04 (15 R451). -/
def execDiscardShadows (v : BitVec 8) (s : State) : Host.Outcome State Fault Refusal :=
  writeRow s 0x2000 4 1 v.toNat

/-- SERVING_ENABLE: a write of 1 to 6000h:01 (08 R221). -/
def execServingEnable (s : State) : Host.Outcome State Fault Refusal :=
  writeRow s 0x6000 1 1 1

/-- SERVING_DISABLE: a write of 0 to 6000h:01 (08 R221). -/
def execServingDisable (s : State) : Host.Outcome State Fault Refusal :=
  writeRow s 0x6000 1 1 0

/-- RECORDS_CONSUMED: a write of 6040h:04 (08 R261 R262). -/
def execRecordsConsumed (n : BitVec 32) (s : State) : Host.Outcome State Fault Refusal :=
  writeRow s 0x6040 4 4 n.toNat

/-- BUILD_FEED: build command 2 (09 R282). -/
def execBuildFeed (s : State) : Host.Outcome State Fault Refusal :=
  writeRow s 0x7010 1 1 2

/-- BUILD_FINISH: build command 3 (09 R283). -/
def execBuildFinish (s : State) : Host.Outcome State Fault Refusal :=
  writeRow s 0x7010 1 1 3

/-- BUILD_ABANDON: build command 4 (09 R284). -/
def execBuildAbandon (s : State) : Host.Outcome State Fault Refusal :=
  writeRow s 0x7010 1 1 4

/-- BUILD_OPEN: build command 1 (09 R278). -/
def execBuildOpen (s : State) : Host.Outcome State Fault Refusal :=
  writeRow s 0x7010 1 1 1

/-- SWITCH_SCHEDULE: a write of 7020h (09 R285). -/
def execSwitchSchedule (e : Fin 66) (t : BitVec 64) (s : State) : Host.Outcome State Fault Refusal :=
  writeRow s 0x7020 (e.val + 1) 8 t.toNat

/-- SWITCH_AT_ONCE: a write of FFFFFFFFFFFFFFFEh to 7020h (09 R285). -/
def execSwitchAtOnce (e : Fin 66) (s : State) : Host.Outcome State Fault Refusal :=
  writeRow s 0x7020 (e.val + 1) 8 atOnce64

/-- SWITCH_CANCEL: a write of all ones to 7020h (09 R285). -/
def execSwitchCancel (e : Fin 66) (s : State) : Host.Outcome State Fault Refusal :=
  writeRow s 0x7020 (e.val + 1) 8 ones64

/-- CLEAR_CAPTURE: a write of 9000h:03 (14 R435). -/
def execClearCapture (v : BitVec 8) (s : State) : Host.Outcome State Fault Refusal :=
  writeRow s 0x9000 3 1 v.toNat

/-- REMOVE_OLDEST_RECORD: a write of 9001h:03 (14 R437). -/
def execRemoveOldestRecord (v : BitVec 8) (s : State) : Host.Outcome State Fault Refusal :=
  writeRow s 0x9001 3 1 v.toNat

/-- START_INJECTION: a write of F010h:06 (14 R444). -/
def execStartInjection (v : BitVec 8) (s : State) : Host.Outcome State Fault Refusal :=
  writeRow s 0xF010 6 1 v.toNat

/-- BUILD_OPEN_AT_ONCE: build command 1 after a write of FFFFFFFFFFFFFFFEh to the open step (09 R280). -/
def execBuildOpenAtOnce (s : State) : Host.Outcome State Fault Refusal :=
  onRunning s (fun c => dictWrite s.fuses 0x7010 1 [1] (dictWrite s.fuses 0x7010 5 (leBytes 8 atOnce64) c))

/-- ROUTE_TABLE_WRITE: a write of a route table version (12 R389). -/
def execRouteTableWrite (v : Fin 2) (bytes : List Byte) (s : State) : Host.Outcome State Fault Refusal :=
  onRunning s (dictWrite s.fuses 0x5300 (v.val + 1) bytes)

/-- ENTRY_WRITE: a write of any entry (15 R450). -/
def execEntryWrite (index : BitVec 16) (sub : BitVec 8) (bytes : List Byte) (s : State) :
    Host.Outcome State Fault Refusal :=
  onRunning s (dictWrite s.fuses index.toNat sub.toNat bytes)

/-- KEY_SLOT_WRITE: a write of a key slot under the held grant (18 R541). -/
def execKeySlotWrite (index : BitVec 16) (sub : BitVec 8) (value : List Byte) (s : State) :
    Host.Outcome State Fault Refusal :=
  onRunning s (dictWrite s.fuses index.toNat sub.toNat value)

end Sys2Proof.Machine
end

