-- ==== Sys2Proof/Machine/Dispatch.lean ====
section
/-! DEFINITION. One arm for each command. -/

namespace Sys2Proof.Machine

open Sys2Proof

/-- The effect of a command on everything but the queue. -/
def exec (i : Instr) (s : State) : Host.Outcome State Fault Refusal :=
  match i with
  | .mpre iss f qp qs => Sys2Proof.Machine.execMpre iss f qp qs s
  | .mstr iss f qa qs e n fresh swap mask => Sys2Proof.Machine.execMstr iss f qa qs e n fresh swap mask s
  | .mdrn iss e h v clear => Sys2Proof.Machine.execMdrn iss e h v clear s
  | .mskl iss v => Sys2Proof.Machine.execMskl iss v s
  | .vadd iss g vd a b => Sys2Proof.Machine.execVadd iss g vd a b s
  | .vsub iss g vd a b => Sys2Proof.Machine.execVsub iss g vd a b s
  | .vmul iss g vd a b => Sys2Proof.Machine.execVmul iss g vd a b s
  | .vfma iss g vd a b c => Sys2Proof.Machine.execVfma iss g vd a b c s
  | .vmin iss g vd a b => Sys2Proof.Machine.execVmin iss g vd a b s
  | .vmax iss g vd a b => Sys2Proof.Machine.execVmax iss g vd a b s
  | .vabs iss g vd a => Sys2Proof.Machine.execVabs iss g vd a s
  | .vneg iss g vd a => Sys2Proof.Machine.execVneg iss g vd a s
  | .vcmp iss g cc pd a b => Sys2Proof.Machine.execVcmp iss g cc pd a b s
  | .vsel iss g vd a b ps => Sys2Proof.Machine.execVsel iss g vd a b ps s
  | .vrsum iss g vd a => Sys2Proof.Machine.execVrsum iss g vd a s
  | .vrmax iss g vd a => Sys2Proof.Machine.execVrmax iss g vd a s
  | .vrmaxi iss g vd a => Sys2Proof.Machine.execVrmaxi iss g vd a s
  | .vexp2 iss g vd a => Sys2Proof.Machine.execVexp2 iss g vd a s
  | .vlog2 iss g vd a => Sys2Proof.Machine.execVlog2 iss g vd a s
  | .vrcp iss g vd a => Sys2Proof.Machine.execVrcp iss g vd a s
  | .vrsq iss g vd a => Sys2Proof.Machine.execVrsq iss g vd a s
  | .vdiv iss g vd a b => Sys2Proof.Machine.execVdiv iss g vd a b s
  | .iadd iss g vd a b => Sys2Proof.Machine.execIadd iss g vd a b s
  | .isub iss g vd a b => Sys2Proof.Machine.execIsub iss g vd a b s
  | .iadds iss g vd a b => Sys2Proof.Machine.execIadds iss g vd a b s
  | .isubs iss g vd a b => Sys2Proof.Machine.execIsubs iss g vd a b s
  | .imul iss g vd a b => Sys2Proof.Machine.execImul iss g vd a b s
  | .imulh iss g u vd a b => Sys2Proof.Machine.execImulh iss g u vd a b s
  | .imad iss g vd a b c => Sys2Proof.Machine.execImad iss g vd a b c s
  | .imin iss g u vd a b => Sys2Proof.Machine.execImin iss g u vd a b s
  | .imax iss g u vd a b => Sys2Proof.Machine.execImax iss g u vd a b s
  | .vand iss g vd a b => Sys2Proof.Machine.execVand iss g vd a b s
  | .vor iss g vd a b => Sys2Proof.Machine.execVor iss g vd a b s
  | .vxor iss g vd a b => Sys2Proof.Machine.execVxor iss g vd a b s
  | .vnot iss g vd a => Sys2Proof.Machine.execVnot iss g vd a s
  | .vshl iss g vd a b => Sys2Proof.Machine.execVshl iss g vd a b s
  | .vshr iss g vd a b => Sys2Proof.Machine.execVshr iss g vd a b s
  | .vsra iss g vd a b => Sys2Proof.Machine.execVsra iss g vd a b s
  | .icmp iss g cc u pd a b => Sys2Proof.Machine.execIcmp iss g cc u pd a b s
  | .vmov iss g vd a => Sys2Proof.Machine.execVmov iss g vd a s
  | .vmovi iss g vd imm => Sys2Proof.Machine.execVmovi iss g vd imm s
  | .vperm iss g vd a vi => Sys2Proof.Machine.execVperm iss g vd a vi s
  | .pand iss g pd a b => Sys2Proof.Machine.execPand iss g pd a b s
  | .por iss g pd a b => Sys2Proof.Machine.execPor iss g pd a b s
  | .pxor iss g pd a b => Sys2Proof.Machine.execPxor iss g pd a b s
  | .pnot iss g pd a => Sys2Proof.Machine.execPnot iss g pd a s
  | .pfrom iss g pd a => Sys2Proof.Machine.execPfrom iss g pd a s
  | .vpcnt iss g vd ps => Sys2Proof.Machine.execVpcnt iss g vd ps s
  | .vcvt iss g dir m vd a => Sys2Proof.Machine.execVcvt iss g dir m vd a s
  | .vrnd iss g m vd a => Sys2Proof.Machine.execVrnd iss g m vd a s
  | .vqnt iss g vd a vk f sc o => Sys2Proof.Machine.execVqnt iss g vd a vk f sc o s
  | .vdq iss g vd a vk f scaled o => Sys2Proof.Machine.execVdq iss g vd a vk f scaled o s
  | .vlane iss g vd => Sys2Proof.Machine.execVlane iss g vd s
  | .vtid iss g vd => Sys2Proof.Machine.execVtid iss g vd s
  | .amov iss g ad imm => Sys2Proof.Machine.execAmov iss g ad imm s
  | .aadd iss g ad imm => Sys2Proof.Machine.execAadd iss g ad imm s
  | .afrom iss g ad a => Sys2Proof.Machine.execAfrom iss g ad a s
  | .vld iss g v ad imm => Sys2Proof.Machine.execVld iss g v ad imm s
  | .vst iss g v ad imm => Sys2Proof.Machine.execVst iss g v ad imm s
  | .vldb iss g v ad imm => Sys2Proof.Machine.execVldb iss g v ad imm s
  | .vgath iss g vd vi ad b => Sys2Proof.Machine.execVgath iss g vd vi ad b s
  | .vscat iss g vs vi ad b => Sys2Proof.Machine.execVscat iss g vs vi ad b s
  | .vpop iss g vd q => Sys2Proof.Machine.execVpop iss g vd q s
  | .vpush iss g vs q => Sys2Proof.Machine.execVpush iss g vs q s
  | .vslot iss g vd pd ve c => Sys2Proof.Machine.execVslot iss g vd pd ve c s
  | .vslmsk iss g vd e => Sys2Proof.Machine.execVslmsk iss g vd e s
  | .vslrd iss g vd grp => Sys2Proof.Machine.execVslrd iss g vd grp s
  | .vslset iss g vs grp => Sys2Proof.Machine.execVslset iss g vs grp s
  | .vslclr iss g => Sys2Proof.Machine.execVslclr iss g s
  | .tql iss q src n => Sys2Proof.Machine.execTql iss q src n s
  | .tqp iss qp src n => Sys2Proof.Machine.execTqp iss qp src n s
  | .bpq iss q j => Sys2Proof.Machine.execBpq iss q j s
  | .qts iss dst q n => Sys2Proof.Machine.execQts iss dst q n s
  | .ocfl iss oc ts n => Sys2Proof.Machine.execOcfl iss oc ts n s
  | .ocwb iss oc ts n => Sys2Proof.Machine.execOcwb iss oc ts n s
  | .oczr iss oc n => Sys2Proof.Machine.execOczr iss oc n s
  | .mld iss dst r off n late => Sys2Proof.Machine.execMld iss dst r off n late s
  | .mst iss r off src n late => Sys2Proof.Machine.execMst iss r off src n late s
  | .mvt iss t dst src n => Sys2Proof.Machine.execMvt iss t dst src n s
  | .mrx iss t dst n => Sys2Proof.Machine.execMrx iss t dst n s
  | .csnd iss coach src => Sys2Proof.Machine.execCsnd iss coach src s
  | .crcv iss coach dst => Sys2Proof.Machine.execCrcv iss coach dst s
  | .swr iss off src n => Sys2Proof.Machine.execSwr iss off src n s
  | .xbar iss exe k => Sys2Proof.Machine.execXbar iss exe k s
  | .ends iss exe => Sys2Proof.Machine.execEnds iss exe s
  | .lateWritePerform unit => Sys2Proof.Machine.execLateWritePerform unit s
  | .samplerJobPost die => Sys2Proof.Machine.execSamplerJobPost die s
  | .samplerJobStart die => Sys2Proof.Machine.execSamplerJobStart die s
  | .samplerJobEnd die => Sys2Proof.Machine.execSamplerJobEnd die s
  | .admissionRead => Sys2Proof.Machine.execAdmissionRead s
  | .stepCutOff => Sys2Proof.Machine.execStepCutOff s
  | .stepBoundary => Sys2Proof.Machine.execStepBoundary s
  | .boundaryInterrupt => Sys2Proof.Machine.execBoundaryInterrupt s
  | .routineEcall die a7 => Sys2Proof.Machine.execRoutineEcall die a7 s
  | .stewardAccessFault die cause => Sys2Proof.Machine.execStewardAccessFault die cause s
  | .variantPost target variant params => Sys2Proof.Machine.execVariantPost target variant params s
  | .waitForCycle die v => Sys2Proof.Machine.execWaitForCycle die v s
  | .waitForCycleWake die => Sys2Proof.Machine.execWaitForCycleWake die s
  | .waitForDies die mask => Sys2Proof.Machine.execWaitForDies die mask s
  | .waitForDiesWake die => Sys2Proof.Machine.execWaitForDiesWake die s
  | .messagePop die v => Sys2Proof.Machine.execMessagePop die v s
  | .messageSend die v page => Sys2Proof.Machine.execMessageSend die v page s
  | .messageInject die => Sys2Proof.Machine.execMessageInject die s
  | .migrationCopyDone pool page => Sys2Proof.Machine.execMigrationCopyDone pool page s
  | .eccWriteback addr => Sys2Proof.Machine.execEccWriteback addr s
  | .scrubPass start count => Sys2Proof.Machine.execScrubPass start count s
  | .mirrorBatchSend => Sys2Proof.Machine.execMirrorBatchSend s
  | .checkpointWrite => Sys2Proof.Machine.execCheckpointWrite s
  | .checkpointDone => Sys2Proof.Machine.execCheckpointDone s
  | .importStart v => Sys2Proof.Machine.execImportStart v s
  | .importRequestAnswer => Sys2Proof.Machine.execImportRequestAnswer s
  | .importComplete => Sys2Proof.Machine.execImportComplete s
  | .importTimeout => Sys2Proof.Machine.execImportTimeout s
  | .fullBatchRequest v => Sys2Proof.Machine.execFullBatchRequest v s
  | .checkpointSchedule t => Sys2Proof.Machine.execCheckpointSchedule t s
  | .resumeArm l => Sys2Proof.Machine.execResumeArm l s
  | .arm l => Sys2Proof.Machine.execArm l s
  | .disarm => Sys2Proof.Machine.execDisarm s
  | .qz5Arm => Sys2Proof.Machine.execQz5Arm s
  | .launchEmit => Sys2Proof.Machine.execLaunchEmit s
  | .qz5LaunchEmit => Sys2Proof.Machine.execQz5LaunchEmit s
  | .launchReceive p => Sys2Proof.Machine.execLaunchReceive p s
  | .launchDeadline => Sys2Proof.Machine.execLaunchDeadline s
  | .launchStart => Sys2Proof.Machine.execLaunchStart s
  | .qz5LaunchStart => Sys2Proof.Machine.execQz5LaunchStart s
  | .alignmentCheck => Sys2Proof.Machine.execAlignmentCheck s
  | .alignmentStampReceive p => Sys2Proof.Machine.execAlignmentStampReceive p s
  | .alignmentEchoReceive p => Sys2Proof.Machine.execAlignmentEchoReceive p s
  | .countSourceLost => Sys2Proof.Machine.execCountSourceLost s
  | .freqChangeSchedule c => Sys2Proof.Machine.execFreqChangeSchedule c s
  | .freqChangeCancel => Sys2Proof.Machine.execFreqChangeCancel s
  | .freqChangeStop => Sys2Proof.Machine.execFreqChangeStop s
  | .freqChangeRestart => Sys2Proof.Machine.execFreqChangeRestart s
  | .referenceLoss => Sys2Proof.Machine.execReferenceLoss s
  | .referenceReturn => Sys2Proof.Machine.execReferenceReturn s
  | .referenceRelock => Sys2Proof.Machine.execReferenceRelock s
  | .superframeStart p => Sys2Proof.Machine.execSuperframeStart p s
  | .slotTransmit p a => Sys2Proof.Machine.execSlotTransmit p a s
  | .replayBurst p => Sys2Proof.Machine.execReplayBurst p s
  | .carriageReceive p bytes t16 fec => Sys2Proof.Machine.execCarriageReceive p bytes t16 fec s
  | .throughHandover p => Sys2Proof.Machine.execThroughHandover p s
  | .replayTimeout p tx => Sys2Proof.Machine.execReplayTimeout p tx s
  | .laneFail p lane why => Sys2Proof.Machine.execLaneFail p lane why s
  | .spareRequest p => Sys2Proof.Machine.execSpareRequest p s
  | .spareAcknowledgement p => Sys2Proof.Machine.execSpareAcknowledgement p s
  | .laneSwitch p tx => Sys2Proof.Machine.execLaneSwitch p tx s
  | .trainingRecordReceive p => Sys2Proof.Machine.execTrainingRecordReceive p s
  | .detectDone p => Sys2Proof.Machine.execDetectDone p s
  | .equalizeDone p lanes => Sys2Proof.Machine.execEqualizeDone p lanes s
  | .alignDone p => Sys2Proof.Machine.execAlignDone p s
  | .exchangeDone p => Sys2Proof.Machine.execExchangeDone p s
  | .measureDone p results => Sys2Proof.Machine.execMeasureDone p results s
  | .trainingTimeout p => Sys2Proof.Machine.execTrainingTimeout p s
  | .lockLost p => Sys2Proof.Machine.execLockLost p s
  | .retrainRequestReceive p => Sys2Proof.Machine.execRetrainRequestReceive p s
  | .retrainAcceptReceive p => Sys2Proof.Machine.execRetrainAcceptReceive p s
  | .retrainStart p => Sys2Proof.Machine.execRetrainStart p s
  | .digestNoticeReceive p => Sys2Proof.Machine.execDigestNoticeReceive p s
  | .stepStartStampReceive p => Sys2Proof.Machine.execStepStartStampReceive p s
  | .portEnable p => Sys2Proof.Machine.execPortEnable p s
  | .portRetrain p => Sys2Proof.Machine.execPortRetrain p s
  | .portNarrow p => Sys2Proof.Machine.execPortNarrow p s
  | .deferredNarrow p => Sys2Proof.Machine.execDeferredNarrow p s
  | .portWiden p => Sys2Proof.Machine.execPortWiden p s
  | .portDisable p => Sys2Proof.Machine.execPortDisable p s
  | .fenceOpen p => Sys2Proof.Machine.execFenceOpen p s
  | .logicalFence p => Sys2Proof.Machine.execLogicalFence p s
  | .electricalFence p => Sys2Proof.Machine.execElectricalFence p s
  | .cartDispatch die => Sys2Proof.Machine.execCartDispatch die s
  | .cartInject => Sys2Proof.Machine.execCartInject s
  | .cartEscape p => Sys2Proof.Machine.execCartEscape p s
  | .pressureCartSend => Sys2Proof.Machine.execPressureCartSend s
  | .pressureExpire => Sys2Proof.Machine.execPressureExpire s
  | .routeTableWrite v bytes => Sys2Proof.Machine.execRouteTableWrite v bytes s
  | .deviceIdWrite v => Sys2Proof.Machine.execDeviceIdWrite v s
  | .deviceIdUnassign => Sys2Proof.Machine.execDeviceIdUnassign s
  | .port31RoleWrite v => Sys2Proof.Machine.execPort31RoleWrite v s
  | .port31SubstituteWrite v => Sys2Proof.Machine.execPort31SubstituteWrite v s
  | .planLoad => Sys2Proof.Machine.execPlanLoad s
  | .loadComplete => Sys2Proof.Machine.execLoadComplete s
  | .planUnload => Sys2Proof.Machine.execPlanUnload s
  | .replace => Sys2Proof.Machine.execReplace s
  | .haltAtStep n => Sys2Proof.Machine.execHaltAtStep n s
  | .commitSchedule t => Sys2Proof.Machine.execCommitSchedule t s
  | .commitCancel => Sys2Proof.Machine.execCommitCancel s
  | .commitNow => Sys2Proof.Machine.execCommitNow s
  | .discardShadows v => Sys2Proof.Machine.execDiscardShadows v s
  | .entryWrite index sub bytes => Sys2Proof.Machine.execEntryWrite index sub bytes s
  | .read r => Sys2Proof.Machine.execRead r s
  | .write r => Sys2Proof.Machine.execWrite r s
  | .readStart r => Sys2Proof.Machine.execReadStart r s
  | .readSegment r => Sys2Proof.Machine.execReadSegment r s
  | .writeStart r => Sys2Proof.Machine.execWriteStart r s
  | .writeSegment r => Sys2Proof.Machine.execWriteSegment r s
  | .describe r => Sys2Proof.Machine.execDescribe r s
  | .closeTransfer r => Sys2Proof.Machine.execCloseTransfer r s
  | .transferTimeout => Sys2Proof.Machine.execTransferTimeout s
  | .canRequestFrame id data => Sys2Proof.Machine.execCanRequestFrame id data s
  | .submit => Sys2Proof.Machine.execSubmit s
  | .servingEnable => Sys2Proof.Machine.execServingEnable s
  | .servingDisable => Sys2Proof.Machine.execServingDisable s
  | .recordsConsumed n => Sys2Proof.Machine.execRecordsConsumed n s
  | .buildOpen => Sys2Proof.Machine.execBuildOpen s
  | .buildOpenAtOnce => Sys2Proof.Machine.execBuildOpenAtOnce s
  | .buildFeed => Sys2Proof.Machine.execBuildFeed s
  | .buildFeedDone => Sys2Proof.Machine.execBuildFeedDone s
  | .buildFinish => Sys2Proof.Machine.execBuildFinish s
  | .buildAbandon => Sys2Proof.Machine.execBuildAbandon s
  | .switchSchedule e t => Sys2Proof.Machine.execSwitchSchedule e t s
  | .switchAtOnce e => Sys2Proof.Machine.execSwitchAtOnce e s
  | .switchCancel e => Sys2Proof.Machine.execSwitchCancel e s
  | .clearCapture v => Sys2Proof.Machine.execClearCapture v s
  | .removeOldestRecord v => Sys2Proof.Machine.execRemoveOldestRecord v s
  | .eventFrameSend => Sys2Proof.Machine.execEventFrameSend s
  | .startInjection v => Sys2Proof.Machine.execStartInjection v s
  | .injectionApply place => Sys2Proof.Machine.execInjectionApply place s
  | .thermalWarning die t => Sys2Proof.Machine.execThermalWarning die t s
  | .thermalTrip die t => Sys2Proof.Machine.execThermalTrip die t s
  | .powerGoodRise => Sys2Proof.Machine.execPowerGoodRise s
  | .powerGoodFall => Sys2Proof.Machine.execPowerGoodFall s
  | .resetAssert ns => Sys2Proof.Machine.execResetAssert ns s
  | .resetRelease straps b => Sys2Proof.Machine.execResetRelease straps b s
  | .bootFailureFrame => Sys2Proof.Machine.execBootFailureFrame s
  | .selfTest r => Sys2Proof.Machine.execSelfTest r s
  | .selfTestComplete => Sys2Proof.Machine.execSelfTestComplete s
  | .securityVersionBurn => Sys2Proof.Machine.execSecurityVersionBurn s
  | .getCertificates => Sys2Proof.Machine.execGetCertificates s
  | .getReport nonce => Sys2Proof.Machine.execGetReport nonce s
  | .openSession ct key => Sys2Proof.Machine.execOpenSession ct key s
  | .closeSession n => Sys2Proof.Machine.execCloseSession n s
  | .ownerClaim keys signer => Sys2Proof.Machine.execOwnerClaim keys signer s
  | .ownerGrant grant => Sys2Proof.Machine.execOwnerGrant grant s
  | .keySlotWrite index sub value => Sys2Proof.Machine.execKeySlotWrite index sub value s
  | .ideKmMessage session seq ct => Sys2Proof.Machine.execIdeKmMessage session seq ct s
  | .doeDiscovery index => Sys2Proof.Machine.execDoeDiscovery index s
  | .doeAbort => Sys2Proof.Machine.execDoeAbort s
  | .bar0Access offset op => Sys2Proof.Machine.execBar0Access offset op s
  | .hdmDecoderCommit d base size skip ways => Sys2Proof.Machine.execHdmDecoderCommit d base size skip ways s
  | .cxlMemRead hpa => Sys2Proof.Machine.execCxlMemRead hpa s
  | .cxlMemWrite hpa enables data poison => Sys2Proof.Machine.execCxlMemWrite hpa enables data poison s
  | .h2dSnoop addr => Sys2Proof.Machine.execH2dSnoop addr s
  | .cxlLinkTraining rate width => Sys2Proof.Machine.execCxlLinkTraining rate width s
  | .perst => Sys2Proof.Machine.execPerst s
  | .functionLevelReset => Sys2Proof.Machine.execFunctionLevelReset s
  | .surpriseLinkDown => Sys2Proof.Machine.execSurpriseLinkDown s
  | .powerStateChange d3 => Sys2Proof.Machine.execPowerStateChange d3 s
  | .hostWritesUnblock => Sys2Proof.Machine.execHostWritesUnblock s
  | .msixUnmask v => Sys2Proof.Machine.execMsixUnmask v s
  | .peerTrainingPatternSeen p => Sys2Proof.Machine.execPeerTrainingPatternSeen p s
  | .codewordRelock p => Sys2Proof.Machine.execCodewordRelock p s
  | .ideIntegrityFailure => Sys2Proof.Machine.execIdeIntegrityFailure s
  | .canResponseSend => Sys2Proof.Machine.execCanResponseSend s
  | .temperatureFall die t => Sys2Proof.Machine.execTemperatureFall die t s
  | .busMasterEnableClear => Sys2Proof.Machine.execBusMasterEnableClear s
  | .boundaryScan extest => Sys2Proof.Machine.execBoundaryScan extest s

end Sys2Proof.Machine
end

