-- ==== Sys2Proof/Machine/Rv.lean ====
section
/-! DEFINITION. The unprivileged instructions of a steward: RV64IMAC with Zicsr, as 16 names them. The spec gives their
standard by name only: encodings and effects are PRESUMED those of the RISC-V unprivileged specification (log 22). -/

namespace Sys2Proof.Machine

/-- The value of a register. -/
abbrev X64 := BitVec 64

/-- Operations on two values. -/
inductive RvOp where
  | add | sub | sll | slt | sltu | xor | srl | sra | or | and
  | mul | mulh | mulhsu | mulhu | div | divu | rem | remu
  deriving DecidableEq, Repr

/-- Conditions of a branch. -/
inductive RvCond where
  | eq | ne | lt | ge | ltu | geu
  deriving DecidableEq, Repr

/-- Atomic memory operations. -/
inductive RvAmo where
  | swap | add | xor | and | or | min | max | minu | maxu
  deriving DecidableEq, Repr

/-- What an access of a control and status register writes: the operand, or the old value with its bits set or cleared. -/
inductive RvCsr where
  | write | set | clear
  deriving DecidableEq, Repr

/-- An instruction: register numbers, immediates as values, sizes in bytes; `w` marks a 32-bit operation. -/
inductive Rv where
  | lui (rd : Nat) (imm : X64)
  | auipc (rd : Nat) (imm : X64)
  | jal (rd : Nat) (off : X64)
  | jalr (rd rs : Nat) (off : X64)
  | branch (cond : RvCond) (a b : Nat) (off : X64)
  | load (size : Nat) (signed : Bool) (rd rs : Nat) (off : X64)
  | store (size rs src : Nat) (off : X64)
  | opImm (op : RvOp) (w : Bool) (rd rs : Nat) (imm : X64)
  | op (op : RvOp) (w : Bool) (rd a b : Nat)
  | fence
  | ecall
  | csr (kind : RvCsr) (rd : Nat) (imm : Bool) (rs addr : Nat)
  | lr (size rd rs : Nat)
  | sc (size rd rs src : Nat)
  | amo (op : RvAmo) (size rd rs src : Nat)
  | illegal
  deriving DecidableEq, Repr

/-! ## What the operations compute -/

/-- The quotient of two signed values of a width: −1 by 0, wrapping on overflow. -/
def divS {w : Nat} (a b : BitVec w) : BitVec w := if b = 0 then BitVec.allOnes w else BitVec.ofInt w (a.toInt.tdiv b.toInt)

/-- The remainder: the dividend by 0. -/
def remS {w : Nat} (a b : BitVec w) : BitVec w := if b = 0 then a else BitVec.ofInt w (a.toInt.tmod b.toInt)

/-- The quotient of two unsigned values: all ones by 0. -/
def divU {w : Nat} (a b : BitVec w) : BitVec w := if b = 0 then BitVec.allOnes w else BitVec.ofNat w (a.toNat / b.toNat)

/-- The remainder: the dividend by 0. -/
def remU {w : Nat} (a b : BitVec w) : BitVec w := if b = 0 then a else BitVec.ofNat w (a.toNat % b.toNat)

/-- The upper half of a product. -/
def mulHigh (w : Nat) (x : Int) : BitVec w := BitVec.ofInt w (x / ((2 ^ w : Nat) : Int))

/-- An operation on values of a width; shifts take as many bits of the second as the width needs. -/
def rvCompute {w : Nat} (op : RvOp) (a b : BitVec w) : BitVec w :=
  match op with
  | .add => a + b
  | .sub => a - b
  | .sll => a <<< (b.toNat % w)
  | .slt => if a.toInt < b.toInt then 1 else 0
  | .sltu => if a.toNat < b.toNat then 1 else 0
  | .xor => a ^^^ b
  | .srl => a >>> (b.toNat % w)
  | .sra => a.sshiftRight (b.toNat % w)
  | .or => a ||| b
  | .and => a &&& b
  | .mul => a * b
  | .mulh => mulHigh w (a.toInt * b.toInt)
  | .mulhsu => mulHigh w (a.toInt * b.toNat)
  | .mulhu => mulHigh w (a.toNat * b.toNat)
  | .div => divS a b
  | .divu => divU a b
  | .rem => remS a b
  | .remu => remU a b

/-- The same for a 32-bit operation, whose result is sign-extended. -/
def rvValue (op : RvOp) (w : Bool) (a b : X64) : X64 :=
  if w then (rvCompute op (a.truncate 32) (b.truncate 32) : BitVec 32).signExtend 64 else rvCompute op a b

/-- A branch is taken. -/
def rvTaken (cond : RvCond) (a b : X64) : Bool :=
  match cond with
  | .eq => a == b
  | .ne => a != b
  | .lt => decide (a.toInt < b.toInt)
  | .ge => decide (b.toInt ≤ a.toInt)
  | .ltu => decide (a.toNat < b.toNat)
  | .geu => decide (b.toNat ≤ a.toNat)

/-- What an atomic operation stores, from the value in memory and the register's. -/
def rvAmo {w : Nat} (op : RvAmo) (m r : BitVec w) : BitVec w :=
  match op with
  | .swap => r
  | .add => m + r
  | .xor => m ^^^ r
  | .and => m &&& r
  | .or => m ||| r
  | .min => if m.toInt ≤ r.toInt then m else r
  | .max => if r.toInt ≤ m.toInt then m else r
  | .minu => if m.toNat ≤ r.toNat then m else r
  | .maxu => if r.toNat ≤ m.toNat then m else r

/-! ## Decoding: 32-bit instructions -/

/-- A signed field of n bits as a value. -/
def sx (n x : Nat) : X64 := (BitVec.ofNat n x).signExtend 64

/-- The immediate of a load or a register-immediate operation. -/
def immI (x : Nat) : X64 := sx 12 (bits x 31 20)

/-- The immediate of a store. -/
def immS (x : Nat) : X64 := sx 12 (bits x 31 25 * 32 + bits x 11 7)

/-- The offset of a branch. -/
def immB (x : Nat) : X64 := sx 13 (bits x 31 31 * 4096 + bits x 7 7 * 2048 + bits x 30 25 * 32 + bits x 11 8 * 2)

/-- The upper immediate. -/
def immU (x : Nat) : X64 := sx 32 (bits x 31 12 * 4096)

/-- The offset of a jump. -/
def immJ (x : Nat) : X64 :=
  sx 21 (bits x 31 31 * 1048576 + bits x 19 12 * 4096 + bits x 20 20 * 2048 + bits x 30 21 * 2)

/-- The operation of a base encoding's funct3. -/
def baseOp (f3 : Nat) (alt : Bool) : RvOp :=
  match f3 with
  | 0 => if alt then .sub else .add
  | 1 => .sll
  | 2 => .slt
  | 3 => .sltu
  | 4 => .xor
  | 5 => if alt then .sra else .srl
  | 6 => .or
  | _ => .and

/-- The operation of the multiply extension's funct3. -/
def mulOp (f3 : Nat) : RvOp :=
  match f3 with
  | 0 => .mul
  | 1 => .mulh
  | 2 => .mulhsu
  | 3 => .mulhu
  | 4 => .div
  | 5 => .divu
  | 6 => .rem
  | _ => .remu

/-- A register-immediate operation; `w` for the 32-bit ones, which have no more than add and the shifts. -/
def decodeOpImm (x : Nat) (w : Bool) : Rv :=
  let f3 := bits x 14 12
  let rd := bits x 11 7
  let rs := bits x 19 15
  let top := if w then bits x 31 25 else bits x 31 26 * 2
  let sh : X64 := BitVec.ofNat 64 (if w then bits x 24 20 else bits x 25 20)
  if f3 = 1 then (if top = 0 then .opImm .sll w rd rs sh else .illegal)
  else if f3 = 5 then
    if top = 0 then .opImm .srl w rd rs sh else if top = 32 then .opImm .sra w rd rs sh else .illegal
  else if w ∧ f3 ≠ 0 then .illegal
  else .opImm (baseOp f3 false) w rd rs (immI x)

/-- A register-register operation. -/
def decodeOp (x : Nat) (w : Bool) : Rv :=
  let f3 := bits x 14 12
  let f7 := bits x 31 25
  let alu := fun op => Rv.op op w (bits x 11 7) (bits x 19 15) (bits x 24 20)
  if f7 = 1 then (if w ∧ (f3 = 1 ∨ f3 = 2 ∨ f3 = 3) then .illegal else alu (mulOp f3))
  else if f7 = 0 then (if w ∧ f3 ≠ 0 ∧ f3 ≠ 1 ∧ f3 ≠ 5 then .illegal else alu (baseOp f3 false))
  else if f7 = 32 ∧ (f3 = 0 ∨ f3 = 5) then alu (baseOp f3 true)
  else .illegal

/-- A branch. -/
def decodeBranch (x : Nat) : Rv :=
  let b := fun c => Rv.branch c (bits x 19 15) (bits x 24 20) (immB x)
  match bits x 14 12 with
  | 0 => b .eq
  | 1 => b .ne
  | 4 => b .lt
  | 5 => b .ge
  | 6 => b .ltu
  | 7 => b .geu
  | _ => .illegal

/-- An atomic access. -/
def decodeAmo (x : Nat) : Rv :=
  let f3 := bits x 14 12
  let size := if f3 = 2 then 4 else 8
  let rd := bits x 11 7
  let rs := bits x 19 15
  let src := bits x 24 20
  let amo := fun op => Rv.amo op size rd rs src
  if f3 ≠ 2 ∧ f3 ≠ 3 then .illegal
  else match bits x 31 27 with
    | 0 => amo .add
    | 1 => amo .swap
    | 2 => if src = 0 then .lr size rd rs else .illegal
    | 3 => .sc size rd rs src
    | 4 => amo .xor
    | 8 => amo .or
    | 12 => amo .and
    | 16 => amo .min
    | 20 => amo .max
    | 24 => amo .minu
    | 28 => amo .maxu
    | _ => .illegal

/-- A system instruction: EBREAK, WFI, MRET and what else needs no register are illegal in user mode (16 R489). -/
def decodeSystem (x : Nat) : Rv :=
  let csr := fun k i => Rv.csr k (bits x 11 7) i (bits x 19 15) (bits x 31 20)
  match bits x 14 12 with
  | 0 => if x = 0x73 then .ecall else .illegal
  | 1 => csr .write false
  | 2 => csr .set false
  | 3 => csr .clear false
  | 5 => csr .write true
  | 6 => csr .set true
  | 7 => csr .clear true
  | _ => .illegal

/-- A load or a store by its funct3. -/
def decodeMem (x : Nat) (store : Bool) : Rv :=
  let f3 := bits x 14 12
  let size := 2 ^ (f3 % 4)
  if store then (if 4 ≤ f3 then .illegal else .store size (bits x 19 15) (bits x 24 20) (immS x))
  else if f3 = 7 then .illegal
  else .load size (decide (f3 < 4)) (bits x 11 7) (bits x 19 15) (immI x)

/-- A 32-bit instruction. -/
def decode32 (x : Nat) : Rv :=
  match bits x 6 0 with
  | 0x37 => .lui (bits x 11 7) (immU x)
  | 0x17 => .auipc (bits x 11 7) (immU x)
  | 0x6F => .jal (bits x 11 7) (immJ x)
  | 0x67 => if bits x 14 12 = 0 then .jalr (bits x 11 7) (bits x 19 15) (immI x) else .illegal
  | 0x63 => decodeBranch x
  | 0x03 => decodeMem x false
  | 0x23 => decodeMem x true
  | 0x13 => decodeOpImm x false
  | 0x1B => decodeOpImm x true
  | 0x33 => decodeOp x false
  | 0x3B => decodeOp x true
  | 0x0F => if bits x 14 12 = 0 then .fence else .illegal
  | 0x2F => decodeAmo x
  | 0x73 => decodeSystem x
  | _ => .illegal

/-! ## Decoding: 16-bit instructions -/

/-- An unsigned offset as a value. -/
def ux (x : Nat) : X64 := BitVec.ofNat 64 x

/-- The signed 6-bit immediate. -/
def immC (x : Nat) : X64 := sx 6 (bits x 12 12 * 32 + bits x 6 2)

/-- The offset of a word, and of a doubleword, from a register of the short set. -/
def offW (x : Nat) : X64 := ux (bits x 12 10 * 8 + bits x 6 6 * 4 + bits x 5 5 * 64)

/-- See `offW`. -/
def offD (x : Nat) : X64 := ux (bits x 12 10 * 8 + bits x 6 5 * 64)

/-- A register of the short set: x8 to x15. -/
def short (x lo : Nat) : Nat := 8 + bits x (lo + 2) lo

/-- Quadrant 0: the stack pointer plus an offset, loads and stores. -/
def decodeC0 (x : Nat) : Rv :=
  match bits x 15 13 with
  | 0 =>
    let n := bits x 12 11 * 16 + bits x 10 7 * 64 + bits x 6 6 * 4 + bits x 5 5 * 8
    if n = 0 then .illegal else .opImm .add false (short x 2) 2 (ux n)
  | 2 => .load 4 true (short x 2) (short x 7) (offW x)
  | 3 => .load 8 true (short x 2) (short x 7) (offD x)
  | 6 => .store 4 (short x 7) (short x 2) (offW x)
  | 7 => .store 8 (short x 7) (short x 2) (offD x)
  | _ => .illegal

/-- The arithmetic of quadrant 1 on the short set. -/
def decodeAlu (x : Nat) : Rv :=
  let rd := short x 7
  let b := short x 2
  match bits x 11 10 with
  | 0 => .opImm .srl false rd rd (ux (bits x 12 12 * 32 + bits x 6 2))
  | 1 => .opImm .sra false rd rd (ux (bits x 12 12 * 32 + bits x 6 2))
  | 2 => .opImm .and false rd rd (immC x)
  | _ =>
    match bits x 12 12, bits x 6 5 with
    | 0, 0 => .op .sub false rd rd b
    | 0, 1 => .op .xor false rd rd b
    | 0, 2 => .op .or false rd rd b
    | 0, 3 => .op .and false rd rd b
    | 1, 0 => .op .sub true rd rd b
    | 1, 1 => .op .add true rd rd b
    | _, _ => .illegal

/-- The offset of a short jump. -/
def immCJ (x : Nat) : X64 :=
  sx 12 (bits x 12 12 * 2048 + bits x 11 11 * 16 + bits x 10 9 * 256 + bits x 8 8 * 1024 + bits x 7 7 * 64 +
    bits x 6 6 * 128 + bits x 5 3 * 2 + bits x 2 2 * 32)

/-- The offset of a short branch. -/
def immCB (x : Nat) : X64 :=
  sx 9 (bits x 12 12 * 256 + bits x 11 10 * 8 + bits x 6 5 * 64 + bits x 4 3 * 2 + bits x 2 2 * 32)

/-- Quadrant 1: immediates, short jumps and branches. -/
def decodeC1 (x : Nat) : Rv :=
  let rd := bits x 11 7
  match bits x 15 13 with
  | 0 => .opImm .add false rd rd (immC x)
  | 1 => if rd = 0 then .illegal else .opImm .add true rd rd (immC x)
  | 2 => .opImm .add false rd 0 (immC x)
  | 3 =>
    if rd = 2 then
      let n := bits x 12 12 * 512 + bits x 6 6 * 16 + bits x 5 5 * 64 + bits x 4 3 * 128 + bits x 2 2 * 32
      if n = 0 then .illegal else .opImm .add false 2 2 (sx 10 n)
    else
      let n := bits x 12 12 * 131072 + bits x 6 2 * 4096
      if n = 0 then .illegal else .lui rd (sx 18 n)
  | 4 => decodeAlu x
  | 5 => .jal 0 (immCJ x)
  | 6 => .branch .eq (short x 7) 0 (immCB x)
  | _ => .branch .ne (short x 7) 0 (immCB x)

/-- Quadrant 2: shifts, moves, jumps to a register, and the stack. -/
def decodeC2 (x : Nat) : Rv :=
  let rd := bits x 11 7
  let rs := bits x 6 2
  match bits x 15 13 with
  | 0 => .opImm .sll false rd rd (ux (bits x 12 12 * 32 + bits x 6 2))
  | 2 => if rd = 0 then .illegal else .load 4 true rd 2 (ux (bits x 12 12 * 32 + bits x 6 4 * 4 + bits x 3 2 * 64))
  | 3 => if rd = 0 then .illegal else .load 8 true rd 2 (ux (bits x 12 12 * 32 + bits x 6 5 * 8 + bits x 4 2 * 64))
  | 4 =>
    if bits x 12 12 = 0 then
      (if rs ≠ 0 then .op .add false rd 0 rs else if rd = 0 then .illegal else .jalr 0 rd 0)
    else if rs ≠ 0 then .op .add false rd rd rs
    else if rd = 0 then .illegal
    else .jalr 1 rd 0
  | 6 => .store 4 2 rs (ux (bits x 12 9 * 4 + bits x 8 7 * 64))
  | 7 => .store 8 2 rs (ux (bits x 12 10 * 8 + bits x 9 7 * 64))
  | _ => .illegal

/-- A 16-bit instruction. -/
def decode16 (x : Nat) : Rv :=
  match bits x 1 0 with
  | 0 => decodeC0 x
  | 1 => decodeC1 x
  | _ => decodeC2 x

end Sys2Proof.Machine
end

