-- ==== Sys2Proof/Machine/StewardMem.lean ====
section
/-! DEFINITION. The address space of a steward (16 R482 to R486): its windows with the rights of both modes, fetches, loads
and stores, and the errors of its memories. An access that is not answered is an access fault. -/

namespace Sys2Proof.Machine

/-- The windows of R482. -/
inductive StewWin where
  | fwCode | planCode | fwData | planData | exchange | mailbox | sessions
  | peerExchange (d : Nat)
  | peerData (d : Nat)
  | page | modl
  deriving DecidableEq, Repr

/-- The window of an address of a die's steward, and the offset in it; none where nothing is listed. -/
def stewWindow (die a : Nat) : Option (StewWin × Nat) :=
  if a < 0x20000 then some (.fwCode, a)
  else if a < 0x40000 then some (.planCode, a - 0x20000)
  else if a < 0x10000000 then none
  else if a < 0x10020000 then some (.fwData, a - 0x10000000)
  else if a < 0x10070000 then some (.planData, a - 0x10020000)
  else if a < 0x10080000 then some (.exchange, a - 0x10070000)
  else if 0x20000000 ≤ a ∧ a < 0x20001000 then (if die = 0 then some (.mailbox, a - 0x20000000) else none)
  else if 0x30000000 ≤ a ∧ a < 0x30100000 then some (.sessions, a - 0x30000000)
  else if 0x40000000 ≤ a ∧ a < 0x40400000 then
    let o := (a - 0x40000000) % 0x100000
    let d := (a - 0x40000000) / 0x100000
    if o < 0x10000 then some (.peerExchange d, o) else if o < 0x60000 then some (.peerData d, o - 0x10000) else none
  else if 0x50000000 ≤ a ∧ a < 0x50002000 then some (.page, a - 0x50000000)
  else if 0x1000000000000 ≤ a ∧ a < 0x2000000000000 then some (.modl, a - 0x1000000000000)
  else none

/-- What an access does. -/
inductive Access where
  | fetch | load | store | atomic
  deriving DecidableEq, Repr

/-- The rights of R482 and R483: in machine mode, or in user mode. -/
def mayAccess (machine : Bool) (k : Access) (w : StewWin) : Bool :=
  match w, k with
  | .fwCode, .fetch => machine
  | .fwCode, .load => machine
  | .planCode, .fetch => !machine
  | .planCode, .load => machine
  | .planCode, .store => machine
  | .fwData, .load => machine
  | .fwData, .store => machine
  | .planData, .fetch => false
  | .planData, _ => true
  | .exchange, .load => true
  | .mailbox, .load => true
  | .mailbox, .store => true
  | .sessions, .load => true
  | .peerExchange _, .load => true
  | .peerData _, .load => true
  | .page, .load => true
  | .page, .store => true
  | .modl, .load => machine
  | .modl, .store => machine
  | _, _ => false

/-- An access of n bytes at an address that its window and its mode allow: naturally aligned (16 R483), within one window. -/
def stewPlace (machine : Bool) (k : Access) (die a n : Nat) : Option (StewWin × Nat) :=
  if a % n ≠ 0 then none
  else match stewWindow die a with
    | some (w, o) => if mayAccess machine k w then some (w, o) else none
    | none => none

/-! ## ECC of the memories (16 R486, 14 R432) -/

/-- The error strikes a 64-bit word of a steward's instruction (0) or data (1) memory that an access of n bytes touches. -/
def inSteward (die mem a n : Nat) : Spot → Bool
  | .steward d m x => d == die && m == mem && decide (a / 8 ≤ x / 8) && decide (x / 8 ≤ (a + n - 1) / 8)
  | _ => false

/-- A read of a steward's memory: an error is corrected and logged, or logged and the data comes poisoned. The word stays so
until it is written again: DESIGN CHOICE (log 37). -/
def stewCheck (c : Chip) (die mem a n : Nat) : Chip × Bool :=
  (flawsOf c (inSteward die mem a n)).foldl (fun r f => match f.spot with
    | .steward _ _ x =>
      if f.unc then (report r.1 0x020A (.die die) .apart [mem, x], true)
      else (report (dropFlaw r.1 f.spot) 0x0209 (.die die) .apart [mem, x], r.2)
    | _ => r) (c, false)

/-- A write of a steward's memory leaves no error. -/
def stewFresh (c : Chip) (die a n : Nat) : Chip :=
  (flawsOf c (fun x => inSteward die 0 a n x || inSteward die 1 a n x)).foldl (fun c f => dropFlaw c f.spot) c

/-! ## Loads -/

/-- The answer of a load: none where the data is poisoned. -/
abbrev Loaded := Chip × Option (List Byte)

/-- The bytes of a steward's own memory, checked. -/
def loadOwn (c : Chip) (die mem a n : Nat) (b : List Byte) : Loaded :=
  let r := stewCheck c die mem a n
  (r.1, if r.2 then none else some b)

/-- The exchange area of a die, with the poison of its lines. -/
def loadExchange (c : Chip) (die o n : Nat) : Loaded :=
  let w := stewAt c die
  let r := loadOwn c die 1 (0x10070000 + o) n (getBytes w.exchange o n)
  if nsMem w.exPoison (o / 64) then (r.1, none) else r

/-- The plan data area of a die as another steward loads it: as written once the bit of its routine stands in 0CC3h, and
open before (16 R485). -/
def loadPeer (c : Chip) (die d o n : Nat) : Loaded :=
  let r := loadOwn c d 1 (0x10020000 + o) n (getBytes (stewAt c d).data o n)
  if d = die ∨ bit c.plan.done d then r
  else
    let b := freeBytes r.1 n
    (b.1, r.2.map (fun _ => b.2))

/-- A byte of the mailbox (05 R141). -/
def boxByte (m : Mailbox) (o : Nat) : Byte := if o = 0x110 then BitVec.ofNat 8 m.status else smGet 0 m.bytes o

/-- The message page: the head of the inbound queue at 0, with its poison, which bytes 00h to 1Fh never have (12 R382), the
outbound page at 1000h. Beyond the head, and where none waits, it reads 0: DESIGN CHOICE (log 22). -/
def loadPage (c : Chip) (die o n : Nat) : Loaded :=
  let w := stewAt c die
  if 0x1000 ≤ o then (c, some (getBytes w.page (o - 0x1000) n))
  else match w.inbound with
    | [] => (c, some (List.replicate n 0))
    | m :: _ => (c, if 32 ≤ o ∧ o < 256 ∧ bit m.poison (o / 64) then none else some (slice m.payload o n))

/-- The session window: the entries as they stood after the last boundary (16 R484). -/
def sessionWindow (c : Chip) (o n : Nat) : List Byte :=
  slice (sessBytes (smGet Sess.free (c.srv.snap.getD []) (o / 256))) (o % 256) n

/-- A load of n bytes of a window. -/
def loadWin (f : Fuses) (c : Chip) (die a : Nat) (w : StewWin) (o n : Nat) : Loaded :=
  let s := stewAt c die
  match w with
  | .fwCode => loadOwn c die 0 a n (slice s.fwCode o n)
  | .planCode => loadOwn c die 0 a n (slice s.code o n)
  | .fwData => loadOwn c die 1 a n (getBytes s.fwData o n)
  | .planData => loadOwn c die 1 a n (getBytes s.data o n)
  | .exchange => loadExchange c die o n
  | .mailbox => (c, some ((List.range n).map (fun i => boxByte c.plan.mailbox (o + i))))
  | .sessions => (c, some (sessionWindow c o n))
  | .peerExchange d => loadExchange c d o n
  | .peerData d => loadPeer c die d o n
  | .page => loadPage c die o n
  | .modl =>
    let r := bgRead f c o 0 die
    (r.1, if r.2.2 then none else some (slice r.2.1 (o % 64) n))

/-- A fetch, load or atomic load of n bytes: none is an access fault (16 R482 R483 R486). -/
def stewRead (f : Fuses) (machine : Bool) (k : Access) (die a n : Nat) (c : Chip) : Loaded :=
  match stewPlace machine k die a n with
  | some (w, o) => loadWin f c die a w o n
  | none => (c, none)

/-! ## Stores -/

/-- A store into the message page: the outbound page, or the head of the inbound queue as it lies there. Beyond the head, and
where none waits, nothing is written: DESIGN CHOICE (log 22). -/
def storePage (c : Chip) (die o : Nat) (b : List Byte) : Chip :=
  let w := stewAt c die
  if 0x1000 ≤ o then setStew c die { w with page := putBytes w.page (o - 0x1000) b }
  else match w.inbound with
    | [] => c
    | m :: rest =>
      if o < 256 then setStew c die { w with inbound := { m with payload := splice (slice m.payload 0 256) o b } :: rest } else c

/-- A store into a window. -/
def storeWin (f : Fuses) (c : Chip) (die a : Nat) (w : StewWin) (o : Nat) (b : List Byte) : Chip :=
  let own := fun (g : Steward → Steward) => stewFresh (setStew c die (g (stewAt c die))) die a b.length
  match w with
  | .planCode => own (fun s => { s with code := splice s.code o b })
  | .fwData => own (fun s => { s with fwData := putBytes s.fwData o b })
  | .planData => own (fun s => { s with data := putBytes s.data o b })
  | .mailbox => storeBox c o b
  | .page => storePage c die o b
  | .modl => bgWrite f (holdSpan c o b.length) o (List.replicate (o % 64) 0 ++ b) ((2 ^ b.length - 1) * 2 ^ (o % 64)) false 0 die
  | _ => c

/-- A store or atomic store of bytes: none is an access fault. -/
def stewWrite (f : Fuses) (machine : Bool) (k : Access) (die a : Nat) (b : List Byte) (c : Chip) : Option Chip :=
  (stewPlace machine k die a b.length).map (fun x => storeWin f c die a x.1 x.2 b)

end Sys2Proof.Machine
end

