-- ==== Sys2Proof/Machine/Hart.lean ====
section
/-! DEFINITION. The step routine of a steward as a program (16 R482 to R490): its registers, the control and status registers
of R487, and one instruction in user mode. -/

namespace Sys2Proof.Machine

/-! ## Registers -/

/-- An integer register; x0 reads as 0. -/
def xreg (w : Steward) (n : Nat) : X64 := if n = 0 then 0 else BitVec.ofNat 64 (smGet 0 w.x n)

/-- Write an integer register; a write of x0 is discarded. -/
def setXreg (c : Chip) (d n : Nat) (v : X64) : Chip :=
  if n = 0 then c else setStew c d { stewAt c d with x := smSet 0 (stewAt c d).x n v.toNat }

/-- An instruction retires and the next one stands at an address. -/
def retire (c : Chip) (d : Nat) (pc : X64) : Chip :=
  let w := stewAt c d
  setStew c d { w with pc := pc.toNat, instret := m64 (w.instret + 1) }

/-! ## Control and status registers (16 R487) -/

/-- Steward cycles: 875 MHz, seven in four ticks (01 R17, 10 R296). -/
def stewCycles (c : Chip) : Nat := m64 (7 * c.count / 4)

/-- A register that a routine may write. -/
def csrWrites (a : Nat) : Bool := decide (0x800 ≤ a) && decide (a ≤ 0x803)

/-- The plan cycle as 0CC1h shows it: at most two cycles old, by a free choice. -/
def seenCycle (c : Chip) : Chip × Nat :=
  if c.plan.state = .running then
    let x := freeNumber c
    (x.1, planCycle c - x.2 % 3)
  else (c, ones32)

/-- The value of a register, none where there is no such one. What a register that is only written reads as is open. -/
def csrRead (c : Chip) (d a : Nat) : Option (Chip × Nat) :=
  match a with
  | 0x0CC0 => some (c, m64 c.plan.step)
  | 0x0CC1 => some (seenCycle c)
  | 0x0CC2 => some (c, d)
  | 0x0CC3 => some (c, c.plan.done)
  | 0x0CC4 => some (c, (stewAt c d).inbound.length)
  | 0x0CC5 => some (c, c.plan.variant)
  | 0x0C00 => some (c, stewCycles c)
  | 0x0C01 => some (c, m64 c.count)
  | 0x0C02 => some (c, (stewAt c d).instret)
  | _ => if csrWrites a then some (freeNumber c) else none

/-- A write of a register by the routine of a die. -/
def csrWrite (f : Fuses) (d a v : Nat) (c : Chip) : Chip :=
  match a with
  | 0x0800 => fWaitCycle d v c
  | 0x0801 => fWaitDies d v c
  | 0x0802 => fPop d v c
  | 0x0803 => sendPage f d v c
  | _ => c

/-! ## Instructions -/

/-- An access by register and offset. -/
def rvAddr (w : Steward) (rs : Nat) (off : X64) : Nat := (xreg w rs + off).toNat

/-- A loaded value, sign-extended or not. -/
def loadedValue (size : Nat) (signed : Bool) (b : List Byte) : X64 :=
  if signed then (BitVec.ofNat (8 * size) (leNat b)).signExtend 64 else BitVec.ofNat 64 (leNat b)

/-- A load into a register; an access fault ends the routine. -/
def rvLoad (f : Fuses) (k : Access) (d size : Nat) (signed : Bool) (rd a : Nat) (next : X64) (c : Chip) : Chip :=
  let r := stewRead f false k d a size c
  match r.2 with
  | some b => retire (setXreg r.1 d rd (loadedValue size signed b)) d next
  | none => faultRoutine r.1 d

/-- A store of a register. -/
def rvStore (f : Fuses) (d size a : Nat) (v next : X64) (c : Chip) : Chip :=
  match stewWrite f false .store d a (leBytes size v.toNat) c with
  | some c => retire c d next
  | none => faultRoutine c d

/-- An atomic operation: the old value into a register, the new one into memory. -/
def rvAtomic (f : Fuses) (op : RvAmo) (d size rd a : Nat) (v next : X64) (c : Chip) : Chip :=
  let r := stewRead f false .atomic d a size c
  match r.2 with
  | some b =>
    let n := (rvAmo op (BitVec.ofNat (8 * size) (leNat b)) (v.truncate (8 * size))).toNat
    (match stewWrite f false .atomic d a (leBytes size n) r.1 with
      | some c => retire (setXreg c d rd (loadedValue size true b)) d next
      | none => faultRoutine r.1 d)
  | none => faultRoutine r.1 d

/-- A store-conditional: it stores and answers 0 where the reservation of a load-reserved of its address stands, else it
answers 1; either way the reservation is gone. -/
def rvCond (f : Fuses) (d size rd a : Nat) (v next : X64) (c : Chip) : Chip :=
  let w := stewAt c d
  let c' := setStew c d { w with reserve := none }
  match stewWrite f false .atomic d a (leBytes size v.toNat) c' with
  | none => faultRoutine c d
  | some t => if w.reserve = some a then retire (setXreg t d rd 0) d next else retire (setXreg c' d rd 1) d next

/-- An access of a control and status register: what sets or clears no bit of register x0 or immediate 0 writes nothing. The
routine goes on behind it, also where the write suspends it. -/
def rvCsr (f : Fuses) (d : Nat) (kind : RvCsr) (rd : Nat) (imm : Bool) (rs a : Nat) (next : X64) (c : Chip) : Chip :=
  let v := if imm then BitVec.ofNat 64 rs else xreg (stewAt c d) rs
  let writes := kind == .write || rs != 0
  if writes && !csrWrites a then faultRoutine c d
  else match csrRead c d a with
    | none => faultRoutine c d
    | some (c, old) =>
      let o := BitVec.ofNat 64 old
      let n := match kind with
        | .write => v
        | .set => o ||| v
        | .clear => o &&& ~~~v
      let c := retire (setXreg c d rd o) d next
      if writes then csrWrite f d a n.toNat c else c

/-- One instruction at a pc, of a length in bytes. -/
def rvExec (f : Fuses) (d len : Nat) (i : Rv) (c : Chip) : Chip :=
  let w := stewAt c d
  let pc := BitVec.ofNat 64 w.pc
  let next := pc + BitVec.ofNat 64 len
  let put := fun rd v => retire (setXreg c d rd v) d next
  match i with
  | .lui rd imm => put rd imm
  | .auipc rd imm => put rd (pc + imm)
  | .jal rd off => retire (setXreg c d rd next) d (pc + off)
  | .jalr rd rs off => retire (setXreg c d rd next) d ((xreg w rs + off) &&& ~~~1)
  | .branch k a b off => retire c d (if rvTaken k (xreg w a) (xreg w b) then pc + off else next)
  | .load size s rd rs off => rvLoad f .load d size s rd (rvAddr w rs off) next c
  | .store size rs src off => rvStore f d size (rvAddr w rs off) (xreg w src) next c
  | .opImm op n rd rs imm => put rd (rvValue op n (xreg w rs) imm)
  | .op op n rd a b => put rd (rvValue op n (xreg w a) (xreg w b))
  | .fence => retire c d next
  | .ecall => fEcall d (xreg w 17).toNat c
  | .csr k rd imm rs a => rvCsr f d k rd imm rs a next c
  | .lr size rd rs =>
    let a := rvAddr w rs 0
    rvLoad f .atomic d size true rd a next (setStew c d { w with reserve := some a })
  | .sc size rd rs src => rvCond f d size rd (rvAddr w rs 0) (xreg w src) next c
  | .amo op size rd rs src => rvAtomic f op d size rd (rvAddr w rs 0) (xreg w src) next c
  | .illegal => faultRoutine c d

/-- The running routine of a die fetches and executes one instruction; a fetch that is not answered is an access fault. -/
def hartStep (f : Fuses) (d : Nat) (c : Chip) : Chip :=
  if isRunning c d then
    let pc := (stewAt c d).pc
    let lo := stewRead f false .fetch d pc 2 c
    match lo.2 with
    | none => faultRoutine lo.1 d
    | some a =>
      let x := leNat a
      if x % 4 ≠ 3 then rvExec f d 2 (decode16 x) lo.1
      else
        let hi := stewRead f false .fetch d (pc + 2) 2 lo.1
        (match hi.2 with
          | none => faultRoutine hi.1 d
          | some b => rvExec f d 4 (decode32 (x + 65536 * leNat b)) hi.1)
  else c

/-- n instructions. -/
def hartSteps (f : Fuses) (d : Nat) : Nat → Chip → Chip
  | 0, c => c
  | n + 1, c => hartSteps f d n (hartStep f d c)

/-- A suspended routine whose cycle or whose dies have come goes on (16 R487). -/
def wakeRoutine (d : Nat) (c : Chip) : Chip :=
  match (stewAt c d).routine with
  | .waitCycle v => if v ≤ planCycle c then setStew c d { stewAt c d with routine := .running } else c
  | .waitDies _ => fDiesWake d c
  | _ => c

/-- The cycles of a steward in the tick that ends at the present count: one or two (10 R296). -/
def tickCycles (c : Chip) : Nat := 7 * c.count / 4 - 7 * (c.count - 1) / 4

/-- A tick of a steward: how many instructions its routine executes in the tick's cycles, one a cycle at most, is a free
choice, as firmware takes cycles of its own (16 R491, log 22). -/
def hartTick (f : Fuses) (c : Chip) (d : Nat) : Chip :=
  if (stewAt c d).routine = .none then c
  else
    let x := freeNumber (wakeRoutine d c)
    hartSteps f d (x.2 % (tickCycles c + 1)) x.1

/-! ## Firmware (16 R482 R492, 18 R525) -/

/-- The error strikes the firmware's code or data in a steward's memories. -/
def inFirmware (d : Nat) : Spot → Bool
  | .steward e _ x => e == d && (decide (x < 0x20000) || (decide (0x10000000 ≤ x) && decide (x < 0x10020000)))
  | _ => false

/-- A tick of a steward's firmware in machine mode: it fetches at its program counter, which stands at the image's entry point
when it starts, and loads a word of its data. Which word, and where it goes on, is a free choice, as no rule gives its code a
meaning; what an error does to it is not specified, but for the record of it (16 R492). Where no error stands in its memories
neither access shows: DESIGN CHOICE (log 22). -/
def firmwareTick (f : Fuses) (c : Chip) (d : Nat) : Chip :=
  if (flawsOf c (inFirmware d)).isEmpty then c
  else
    let c := (stewRead f true .fetch d (stewAt c d).fwPc 2 c).1
    let x := freeNumber c
    let c := (stewRead f true .load d (0x10000000 + 8 * (x.2 % 16384)) 8 x.1).1
    let y := freeNumber c
    setStew y.1 d { stewAt y.1 d with fwPc := 2 * (y.2 % 65536) }

/-- A tick of the four stewards: their firmware, and the routines of a running plan. -/
def hartsTick (f : Fuses) (c : Chip) : Chip :=
  let c := (List.range 4).foldl (firmwareTick f) c
  if c.plan.state = .running then (List.range 4).foldl (hartTick f) c else c

end Sys2Proof.Machine
end

