-- ==== Sys2Proof/Machine/Tick.lean ====
section
/-! DEFINITION. What one tick of time does where no command waits (log 2): the count, the throttled
ticks of the cart levels, and the cycles that pass. -/

namespace Sys2Proof.Machine

/-- A tick of a running module: the Farak count advances by one, modulo 2^64 (10 R299), and a cut-off that
falls due is performed (01 R23); a load goes on (06 R165), and the routines of the stewards go on (16 R488). -/
def tickChip (f : Fuses) (c : Chip) : Chip :=
  let c := { countThrottled c (c.count + 1) with count := m64 (c.count + 1) }
  loadTick f (hartsTick f (catchUp (passed c)))

/-- One tick. In power-off, held reset or a failed boot nothing counts (18 R520 R521 R526). Fuses whose burn is in progress
may burn (18 R527 R539). -/
def tick (s : State) : State :=
  if s.chip.power.phase = .running then
    claimTick (claimAnswer 0) (versionTick { s with chip := flush (tickChip s.fuses s.chip) })
  else s

end Sys2Proof.Machine
end

