-- ==== Sys2Proof/Safety.lean ====
section
/-! DEFINITION. What counts as a safe run. -/

namespace Sys2Proof.Safety

/-- A step is safe where it neither faults nor refuses. -/
def StepSafe (s : Sys2Proof.Machine.State) : Prop :=
  ∃ t, Sys2Proof.Machine.step s = .next t

/-- A run of k steps is safe where each of its steps is. -/
def RunSafe : Nat → Sys2Proof.Machine.State → Prop
  | 0, _ => True
  | k + 1, s => ∃ t, Sys2Proof.Machine.step s = .next t ∧ RunSafe k t

end Sys2Proof.Safety
end

