-- ==== Sys2Proof/Certificates/Slice0/Vocabulary.lean ====
section
/-! DEFINITION. The words in which the obligations are stated: when a command acts, what it leaves, and
what a tile holds after a vector instruction. -/

namespace Sys2Proof.Claims

open Sys2Proof Sys2Proof.Machine

/-! ## When a command acts -/

/-- The module runs, no occurrence waits for the log, and no error strikes (both kept by every step: `InvariantStep`; what
errors do is said apart: `StoredErrors`). -/
structure Quiet (s : State) : Prop where
  runs : s.chip.power.phase = .running
  none : s.chip.err.pend = []
  sound : s.chip.flaws = []

/-- No cut-off is due that has not been performed (01 R23). -/
def CaughtUp (c : Chip) : Prop := c.plan.state = .running → c.plan.cut = true ∨ c.count < boundaryAt c - 256

/-- The module serves a request as it stands. -/
structure Serves (s : State) : Prop extends Quiet s where
  caught : CaughtUp s.chip

/-- The command answers a next state of which `P` holds. -/
def Answers (x : Instr) (s : State) (P : State → Prop) : Prop := ∃ t, exec x s = .next t ∧ P t

/-- A well-formed instruction issues in the present cycle (05 R117 R118 R120 R127 R136 R139): its program may issue, the cycles that the count
has passed are over, it is eligible and nothing holds it, the step is not over. No injection is armed: what one does is
said apart (`StoredErrors`). -/
structure Issues (s : State) (i : Issue) (exe : Bool) (x : Instr) : Prop where
  wf : x.wf = true
  quiet : Quiet s
  may : mayIssue s.chip i.die.val exe = true
  now : s.chip.plan.cyc0 + countCycle s.chip ≤ s.chip.plan.cyc
  due : issueCycle s.chip i exe x ≤ s.chip.plan.cyc
  inStep : s.chip.plan.cyc < stepEnd s.chip
  calm : s.chip.err.inj = none

/-- A tile issues what reaches it at once: it does not lag, and no elastic stall freezes it (03 R84). -/
structure Ready (c : Chip) (site : Nat) : Prop where
  current : (tileAt c site).lag = 0
  thawed : frozen c (tileAt c site) = false

/-- Every tile that issues is ready. -/
def AllReady (s : State) (i : Issue) : Prop := ∀ site ∈ issueSites s.chip i, Ready s.chip site

/-! ## The instructions of the streams -/

/-- How an instruction of a tile is delivered: with what the sequencer gives it, and in the execute stream or not (05 R117 R118). -/
def issueOf : Instr → Option (Issue × Bool)
  | .mpre i .. => some (i, true)
  | .mstr i .. => some (i, true)
  | .mdrn i .. => some (i, true)
  | .mskl i .. => some (i, true)
  | .vadd i .. => some (i, true)
  | .vsub i .. => some (i, true)
  | .vmul i .. => some (i, true)
  | .vfma i .. => some (i, true)
  | .vmin i .. => some (i, true)
  | .vmax i .. => some (i, true)
  | .vabs i .. => some (i, true)
  | .vneg i .. => some (i, true)
  | .vcmp i .. => some (i, true)
  | .vsel i .. => some (i, true)
  | .vrsum i .. => some (i, true)
  | .vrmax i .. => some (i, true)
  | .vrmaxi i .. => some (i, true)
  | .vexp2 i .. => some (i, true)
  | .vlog2 i .. => some (i, true)
  | .vrcp i .. => some (i, true)
  | .vrsq i .. => some (i, true)
  | .vdiv i .. => some (i, true)
  | .iadd i .. => some (i, true)
  | .isub i .. => some (i, true)
  | .iadds i .. => some (i, true)
  | .isubs i .. => some (i, true)
  | .imul i .. => some (i, true)
  | .imulh i .. => some (i, true)
  | .imad i .. => some (i, true)
  | .imin i .. => some (i, true)
  | .imax i .. => some (i, true)
  | .vand i .. => some (i, true)
  | .vor i .. => some (i, true)
  | .vxor i .. => some (i, true)
  | .vnot i .. => some (i, true)
  | .vshl i .. => some (i, true)
  | .vshr i .. => some (i, true)
  | .vsra i .. => some (i, true)
  | .icmp i .. => some (i, true)
  | .vmov i .. => some (i, true)
  | .vmovi i .. => some (i, true)
  | .vperm i .. => some (i, true)
  | .pand i .. => some (i, true)
  | .por i .. => some (i, true)
  | .pxor i .. => some (i, true)
  | .pnot i .. => some (i, true)
  | .pfrom i .. => some (i, true)
  | .vpcnt i .. => some (i, true)
  | .vcvt i .. => some (i, true)
  | .vrnd i .. => some (i, true)
  | .vqnt i .. => some (i, true)
  | .vdq i .. => some (i, true)
  | .vlane i .. => some (i, true)
  | .vtid i .. => some (i, true)
  | .amov i .. => some (i, true)
  | .aadd i .. => some (i, true)
  | .afrom i .. => some (i, true)
  | .vld i .. => some (i, true)
  | .vst i .. => some (i, true)
  | .vldb i .. => some (i, true)
  | .vgath i .. => some (i, true)
  | .vscat i .. => some (i, true)
  | .vpop i .. => some (i, true)
  | .vpush i .. => some (i, true)
  | .vslot i .. => some (i, true)
  | .vslmsk i .. => some (i, true)
  | .vslrd i .. => some (i, true)
  | .vslset i .. => some (i, true)
  | .vslclr i .. => some (i, true)
  | .tql i .. => some (i, false)
  | .tqp i .. => some (i, false)
  | .bpq i .. => some (i, false)
  | .qts i .. => some (i, false)
  | .ocfl i .. => some (i, false)
  | .ocwb i .. => some (i, false)
  | .oczr i .. => some (i, false)
  | .mld i .. => some (i, false)
  | .mst i .. => some (i, false)
  | .mvt i .. => some (i, false)
  | .mrx i .. => some (i, false)
  | .csnd i .. => some (i, false)
  | .crcv i .. => some (i, false)
  | .swr i .. => some (i, false)
  | _ => none

/-- The same for every instruction of a program, the control instructions among them (05 R136 R139). -/
def streamOf : Instr → Option (Issue × Bool)
  | .xbar i exe _ => some (i, exe)
  | .ends i exe => some (i, exe)
  | x => issueOf x

/-! ## What an instruction of the streams leaves -/

/-- Only tiles that issue change, and of the rest only what the sequencer notes of an issue and the event
bits of the step; memory, the log, the counters and the pins stay as they are. -/
structure OnlyTiles (s t : State) (i : Issue) (exe : Bool) (x : Instr) : Prop where
  rest : t = { s with chip := { s.chip with
    seqs := (noteIssue s.chip i exe x).seqs, tiles := t.chip.tiles,
    acc := { s.chip.acc with vec := t.chip.acc.vec, conv := t.chip.acc.conv } } }
  others : ∀ site, site ∉ issueSites s.chip i → tileAt t.chip site = tileAt s.chip site

/-- The event bits of the step after an instruction: those before it, and those that `ev` gives for an
active lane of a tile that issues (04 R93 R115, 02 R64). -/
def EventsGain (before after : Nat) (s : State) (i : Issue) (g : Gov) (ev : State → Tile → Nat → Nat) : Prop :=
  ∀ b, after.testBit b = true ↔ before.testBit b = true ∨
    ∃ site ∈ issueSites s.chip i, ∃ l < 64,
      (preg (tileAt s.chip site) g.p.val).val.testBit l = true ∧ (ev s (tileAt s.chip site) l).testBit b = true

/-! ## What a tile holds afterwards -/

/-- A vector result (04 R93 R114): active lanes take the value, inactive ones stay in merge mode and take
+0 in zero mode; a granule is poisoned where a lane written in it is tainted, or where it was poisoned and
a lane of it stays; every other register and the rest of the tile stay as they are. `all` taints every
lane. -/
structure VecResult (all : Bool) (g : Gov) (vd : Nat) (f : Nat → TW) (t t' : Tile) : Prop where
  lanes : ∀ l < 64, lane (vreg t' vd) l =
    if (preg t g.p.val).val.testBit l then (f l).1 else if g.zero then 0 else lane (vreg t vd) l
  poison : ∀ k < 4, (vreg t' vd).poison.getD k false = true ↔ ∃ l < 64, l / 16 = k ∧
    ((preg t g.p.val).taint = true ∨ all = true ∨
      if (preg t g.p.val).val.testBit l then (f l).2 = true
      else g.zero = false ∧ (vreg t vd).poison.getD k false = true)
  others : ∀ r, r ≠ vd → vreg t' r = vreg t r
  rest : t' = { t with v := t'.v }

/-- A predicate register after a write (04 R92 R93 R114): active lanes take their bit and the others what
`off` gives; the taint bit; writes to p0 are discarded. -/
structure PredResult (g : Gov) (pd : Nat) (f : Nat → Bool × Bool) (off : Nat → Bool) (t t' : Tile) : Prop where
  bits : pd ≠ 0 → ∀ l < 64, (preg t' pd).val.testBit l =
    if (preg t g.p.val).val.testBit l then (f l).1 else off l
  taint : pd ≠ 0 → ((preg t' pd).taint = true ↔ (preg t g.p.val).taint = true ∨
    ∃ l < 64, (preg t g.p.val).val.testBit l = true ∧ (f l).2 = true)
  zero : pd = 0 → t' = t
  others : ∀ r, r ≠ pd → preg t' r = preg t r
  rest : t' = { t with p := t'.p }

/-- An address register after a write (04 R92): the value modulo 2^16; writes to a0 are discarded. -/
structure AddrResult (ad x : Nat) (t t' : Tile) : Prop where
  value : ad ≠ 0 → areg t' ad = x % 65536
  zero : ad = 0 → t' = t
  others : ∀ r, r ≠ ad → areg t' r = areg t r
  rest : t' = { t with a := t'.a }

/-! ## The shapes of the vector statements -/

/-- An instruction of the execute stream completes: every tile that issues goes to a state of which `P`
holds, with these event bits, and nothing else changes. -/
def Completes (x : Instr) (i : Issue) (g : Gov) (vec conv : State → Tile → Nat → Nat)
    (P : State → Tile → Tile → Prop) : Prop :=
  ∀ s, Issues s i true x → AllReady s i → x.wf = true → Answers x s (fun t =>
    OnlyTiles s t i true x ∧
    (∀ site ∈ issueSites s.chip i, P s (tileAt s.chip site) (tileAt t.chip site)) ∧
    EventsGain s.chip.acc.vec t.chip.acc.vec s i g vec ∧ EventsGain s.chip.acc.conv t.chip.acc.conv s i g conv)

/-- No event bit. -/
def noEvent : State → Tile → Nat → Nat := fun _ _ _ => 0

/-- A vector instruction completes with the result that `f` gives in each lane. -/
def Vec (x : Instr) (i : Issue) (g : Gov) (vd : Fin 64) (f : State → Tile → Nat → TW)
    (vec conv : State → Tile → Nat → Nat := noEvent) : Prop :=
  Completes x i g vec conv (fun s t t' => VecResult false g vd.val (f s t) t t')

/-- A lane of two sources, the second of which may be the broadcast of its lane 0 (04 R98). -/
def on2 (op : Word → Word → Word) (a : Fin 64) (b : Src) (t : Tile) (l : Nat) : TW :=
  (op (lane (vreg t a.val) l) (lane (vreg t b.r.val) (if b.b then 0 else l)),
    laneBad (vreg t a.val) l || laneBad (vreg t b.r.val) (if b.b then 0 else l))

/-- A lane of one source. -/
def on1 (op : Word → Word) (a : Fin 64) (t : Tile) (l : Nat) : TW :=
  (op (lane (vreg t a.val) l), laneBad (vreg t a.val) l)

/-- A plain source register. -/
def plain (r : Fin 64) : Src := ⟨r, false⟩

end Sys2Proof.Claims
end

