-- ==== Sys2Proof/Certificates/Slice0/Obligations.lean ====
section
/-! DEFINITION. The obligations: what the spec's rules say the commands of the module do. -/

open Sys2Proof Sys2Proof.Machine Sys2Proof.Claims

/-! ## The vector engine (04) -/

/-- 04 R102, integer lanes in closed form. IADD to IMAX on two's complement or unsigned lanes. -/
def Sys2Proof.Claims.IntegerLanes : Prop :=
  ∀ (i : Issue) (g : Gov) (vd a b c : Fin 64),
    Vec (.iadd i g vd a b) i g vd (fun _ => on2 (fun x y => BitVec.ofNat 32 (x.toNat + y.toNat)) a (plain b)) ∧
    Vec (.isub i g vd a b) i g vd (fun _ => on2 (fun x y => BitVec.ofInt 32 (x.toInt - y.toInt)) a (plain b)) ∧
    Vec (.iadds i g vd a b) i g vd (fun _ => on2 (fun x y =>
      BitVec.ofInt 32 (max (-2 ^ 31) (min (2 ^ 31 - 1) (x.toInt + y.toInt)))) a (plain b)) ∧
    Vec (.isubs i g vd a b) i g vd (fun _ => on2 (fun x y =>
      BitVec.ofInt 32 (max (-2 ^ 31) (min (2 ^ 31 - 1) (x.toInt - y.toInt)))) a (plain b)) ∧
    Vec (.imul i g vd a b) i g vd (fun _ => on2 (fun x y => BitVec.ofInt 32 (x.toInt * y.toInt)) a (plain b)) ∧
    Vec (.imulh i g false vd a b) i g vd (fun _ => on2 (fun x y =>
      ((x.signExtend 64) * (y.signExtend 64)).extractLsb' 32 32) a (plain b)) ∧
    Vec (.imulh i g true vd a b) i g vd (fun _ => on2 (fun x y =>
      ((x.zeroExtend 64) * (y.zeroExtend 64)).extractLsb' 32 32) a (plain b)) ∧
    Vec (.imad i g vd a b c) i g vd (fun _ t l =>
      (BitVec.ofInt 32 ((lane (vreg t a.val) l).toInt * (lane (vreg t b.val) l).toInt + (lane (vreg t c.val) l).toInt),
        laneBad (vreg t a.val) l || laneBad (vreg t b.val) l || laneBad (vreg t c.val) l)) ∧
    Vec (.imin i g false vd a b) i g vd (fun _ => on2 (fun x y => BitVec.ofInt 32 (min x.toInt y.toInt)) a (plain b)) ∧
    Vec (.imin i g true vd a b) i g vd (fun _ => on2 (fun x y => BitVec.ofNat 32 (min x.toNat y.toNat)) a (plain b)) ∧
    Vec (.imax i g false vd a b) i g vd (fun _ => on2 (fun x y => BitVec.ofInt 32 (max x.toInt y.toInt)) a (plain b)) ∧
    Vec (.imax i g true vd a b) i g vd (fun _ => on2 (fun x y => BitVec.ofNat 32 (max x.toNat y.toNat)) a (plain b))

/-- 04 R102: bitwise operations, shifts, moves and the lane, tile and count sources. -/
def Sys2Proof.Claims.BitwiseAndMoves : Prop :=
  ∀ (i : Issue) (g : Gov) (vd a b : Fin 64) (imm : Word) (ps : Fin 8),
    Vec (.vand i g vd a b) i g vd (fun _ => on2 (· &&& ·) a (plain b)) ∧
    Vec (.vor i g vd a b) i g vd (fun _ => on2 (· ||| ·) a (plain b)) ∧
    Vec (.vxor i g vd a b) i g vd (fun _ => on2 (· ^^^ ·) a (plain b)) ∧
    Vec (.vnot i g vd a) i g vd (fun _ => on1 (fun x => x ^^^ 0xFFFFFFFF) a) ∧
    Vec (.vshl i g vd a b) i g vd (fun _ => on2 (fun x y =>
      BitVec.ofNat 32 (if y.toNat < 32 then x.toNat * 2 ^ y.toNat else 0)) a (plain b)) ∧
    Vec (.vshr i g vd a b) i g vd (fun _ => on2 (fun x y => BitVec.ofNat 32 (x.toNat / 2 ^ y.toNat)) a (plain b)) ∧
    Vec (.vsra i g vd a b) i g vd (fun _ => on2 (fun x y => BitVec.ofInt 32 (x.toInt / 2 ^ y.toNat)) a (plain b)) ∧
    Vec (.vmov i g vd a) i g vd (fun _ => on1 id a) ∧
    Vec (.vmovi i g vd imm) i g vd (fun _ _ _ => (imm, false)) ∧
    Vec (.vlane i g vd) i g vd (fun _ _ l => (BitVec.ofNat 32 l, false)) ∧
    Vec (.vtid i g vd) i g vd (fun _ t _ => (BitVec.ofNat 32 t.ti, false)) ∧
    Vec (.vpcnt i g vd ps) i g vd (fun _ t _ =>
      (BitVec.ofNat 32 ((List.range 64).countP (fun k => (preg t ps.val).val.testBit k)), (preg t ps.val).taint))

/-- 04 R98 R102: VSEL selects by ps, whose taint taints every lane; VPERM moves lane vi[l], and an index
outside 0 to 63 gives +0 and event bit [0]. -/
def Obligations.SelectAndPermute : Prop :=
  ∀ (i : Issue) (g : Gov) (vd a vi : Fin 64) (b : Src) (ps : Fin 8),
    Completes (.vsel i g vd a b ps) i g noEvent noEvent (fun _ t t' =>
      VecResult (preg t ps.val).taint g vd.val
        (fun l => if (preg t ps.val).val.testBit l then on1 id a t l
          else on1 id b.r t (if b.b then 0 else l)) t t') ∧
    Vec (.vperm i g vd a vi) i g vd
      (fun _ t l =>
        let k := (lane (vreg t vi.val) l).toNat
        if k < 64 then (lane (vreg t a.val) k, laneBad (vreg t a.val) k || laneBad (vreg t vi.val) l)
        else (0, laneBad (vreg t vi.val) l))
      (fun _ t l => if (lane (vreg t vi.val) l).toNat < 64 then 0 else 1)

/-- 04 R98 R101: FP32 elementwise operations, with their event bits (R115). The arithmetic is that of
`Sys2Proof.Machine` (02 R51, 04 R97), of which `RoundsToNearest` and `SpecialInputs` say what it is. -/
def Obligations.FpElementwise : Prop :=
  ∀ (i : Issue) (g : Gov) (vd a vb : Fin 64) (b c : Src),
    let two := fun (x : Instr) (op : Bool → Word → Word → Word × Nat) (b : Src) =>
      Vec x i g vd (fun s => on2 (fun x y => (op (ieee s.chip) x y).1) a b)
        (fun s t l => (op (ieee s.chip) (lane (vreg t a.val) l) (lane (vreg t b.r.val) (if b.b then 0 else l))).2)
    let one := fun (x : Instr) (op : Bool → Word → Word × Nat) =>
      Vec x i g vd (fun s => on1 (fun x => (op (ieee s.chip) x).1) a)
        (fun s t l => (op (ieee s.chip) (lane (vreg t a.val) l)).2)
    two (.vadd i g vd a b) fadd b ∧ two (.vsub i g vd a b) fsub b ∧ two (.vmul i g vd a b) fmul b ∧
    two (.vdiv i g vd a vb) fdiv (plain vb) ∧
    two (.vmin i g vd a b) (fun _ x y => (fmin x y, 0)) b ∧
    two (.vmax i g vd a b) (fun _ x y => (fmax x y, 0)) b ∧
    one (.vabs i g vd a) (fun _ x => (if isNaN32 x then f32NaN else x &&& 0x7FFFFFFF, 0)) ∧
    one (.vneg i g vd a) (fun _ x => (if isNaN32 x then f32NaN else x ^^^ 0x80000000, 0)) ∧
    one (.vexp2 i g vd a) fexp2 ∧ one (.vlog2 i g vd a) flog2 ∧ one (.vrcp i g vd a) frcp ∧
    one (.vrsq i g vd a) frsq ∧
    Vec (.vfma i g vd a b c) i g vd
      (fun s t l =>
        let y := on1 id b.r t (if b.b then 0 else l)
        let z := on1 id c.r t (if c.b then 0 else l)
        ((ffma (ieee s.chip) (lane (vreg t a.val) l) y.1 z.1).1, laneBad (vreg t a.val) l || y.2 || z.2))
      (fun s t l => (ffma (ieee s.chip) (lane (vreg t a.val) l) (lane (vreg t b.r.val) (if b.b then 0 else l))
        (lane (vreg t c.r.val) (if c.b then 0 else l))).2)

/-- The value of a finite FP32 code. -/
def Sys2Proof.Claims.ratOf (w : Word) : ℚ :=
  match f32 w with
  | .fin n m e => (if n then -1 else 1) * (m : ℚ) * (2 : ℚ) ^ e
  | _ => 0

/-- A code is finite. -/
def Sys2Proof.Claims.finite (w : Word) : Prop := ∃ n m e, f32 w = .fin n m e

/-- 04 R97 R98, 02 R51: the sum and the product of finite lanes, where they are finite, lie at least as near the
exact value as any finite FP32 number does; an exact value that is an FP32 number is met. -/
def Obligations.RoundsToNearest : Prop :=
  ∀ (ie : Bool) (a b w : Word), finite a → finite b → finite w →
    (finite (fadd ie a b).1 → |ratOf (fadd ie a b).1 - (ratOf a + ratOf b)| ≤ |ratOf w - (ratOf a + ratOf b)|) ∧
    (finite (fmul ie a b).1 → |ratOf (fmul ie a b).1 - ratOf a * ratOf b| ≤ |ratOf w - ratOf a * ratOf b|)

/-- A finite result beyond the range of FP32: the greatest number under the saturate policy, infinity under the IEEE one
(04 R97). -/
def Sys2Proof.Claims.beyond (ie neg : Bool) : Word := f32Inf neg - (if ie then 0 else 1)

/-- 04 R101, every operation: a NaN input gives the canonical NaN. -/
def Sys2Proof.Claims.NaNInputs (ie : Bool) (x y z : Word) : Prop :=
  (isNaN32 x = true → (fadd ie x y).1 = f32NaN ∧ (fsub ie x y).1 = f32NaN ∧ (fmul ie x y).1 = f32NaN ∧
    (fdiv ie x y).1 = f32NaN ∧ fmin x y = f32NaN ∧ fmax x y = f32NaN ∧ (fexp2 ie x).1 = f32NaN ∧
    (flog2 ie x).1 = f32NaN ∧ (frcp ie x).1 = f32NaN ∧ (frsq ie x).1 = f32NaN ∧ (ffma ie x y z).1 = f32NaN) ∧
  (isNaN32 y = true → (fadd ie x y).1 = f32NaN ∧ (fsub ie x y).1 = f32NaN ∧ (fmul ie x y).1 = f32NaN ∧
    (fdiv ie x y).1 = f32NaN ∧ fmin x y = f32NaN ∧ fmax x y = f32NaN ∧ (ffma ie x y z).1 = f32NaN) ∧
  (isNaN32 z = true → (ffma ie x y z).1 = f32NaN)

/-- 04 R101: the rows of VEXP2, VLOG2, VRCP and VRSQ. -/
def Sys2Proof.Claims.SpecialUnary (ie : Bool) (x : Word) : Prop :=
  (x.msb = true → isNaN32 x = false → x ≠ 0x80000000 → (flog2 ie x).1 = f32NaN ∧ (frsq ie x).1 = f32NaN) ∧
  (finite x → (128 ≤ ratOf x → (fexp2 ie x).1 = beyond ie false) ∧ (ratOf x ≤ -150 → (fexp2 ie x).1 = 0) ∧
    (ratOf x ≠ 0 → |ratOf x| ≤ (2 : ℚ) ^ (-128 : ℤ) → (frcp ie x).1 = beyond ie x.msb)) ∧
  (fexp2 ie 0xFF800000).1 = 0 ∧ (fexp2 ie 0x7F800000).1 = 0x7F800000 ∧ (fexp2 ie 0).1 = 0x3F800000 ∧
  (fexp2 ie 0x80000000).1 = 0x3F800000 ∧ (flog2 ie 0).1 = 0xFF800000 ∧ (flog2 ie 0x80000000).1 = 0xFF800000 ∧
  (flog2 ie 0x7F800000).1 = 0x7F800000 ∧ (flog2 ie 0x3F800000).1 = 0 ∧
  (frcp ie 0).1 = 0x7F800000 ∧ (frcp ie 0x80000000).1 = 0xFF800000 ∧ (frcp ie 0x7F800000).1 = 0 ∧
  (frcp ie 0xFF800000).1 = 0x80000000 ∧ (frsq ie 0).1 = 0x7F800000 ∧ (frsq ie 0x80000000).1 = 0xFF800000 ∧
  (frsq ie 0x7F800000).1 = 0

/-- 04 R98 R101: the rows of VDIV, of VFMA with an infinity times zero, and the zeros of VMIN and VMAX; `n` and `n'` are signs. -/
def Sys2Proof.Claims.SpecialBinary (ie n n' : Bool) (x z : Word) : Prop :=
  (finite x → (ratOf x ≠ 0 → (fdiv ie x (f32Zero n)).1 = f32Inf (x.msb != n)) ∧
    (fdiv ie (f32Inf n) x).1 = f32Inf (n != x.msb) ∧ (fdiv ie x (f32Inf n)).1 = f32Zero (x.msb != n)) ∧
  (fdiv ie (f32Zero n) (f32Zero n')).1 = f32NaN ∧ (fdiv ie (f32Inf n) (f32Inf n')).1 = f32NaN ∧
  (ffma ie (f32Inf n) (f32Zero n') z).1 = f32NaN ∧ (ffma ie (f32Zero n) (f32Inf n') z).1 = f32NaN ∧
  fmin 0 0x80000000 = 0x80000000 ∧ fmin 0x80000000 0 = 0x80000000 ∧ fmax 0x80000000 0 = 0 ∧ fmax 0 0x80000000 = 0

/-- 04 R97 R101 and the table of R98: the special inputs of the operations. -/
def Obligations.SpecialInputs : Prop :=
  ∀ (ie n n' : Bool) (x y z : Word), NaNInputs ie x y z ∧ SpecialUnary ie x ∧ SpecialBinary ie n n' x z

/-- The order of VCMP: −0 equals +0 (04 R98). -/
def Sys2Proof.Claims.cmpHolds (cc : Cc) (x y : Word) : Bool :=
  if isNaN32 x || isNaN32 y then decide (cc = .ne)
  else match cc with
    | .eq => f32Num x == f32Num y
    | .ne => f32Num x != f32Num y
    | .lt => decide (f32Num x < f32Num y)
    | .le => decide (f32Num x ≤ f32Num y)
    | .gt => decide (f32Num y < f32Num x)
    | .ge => decide (f32Num y ≤ f32Num x)

/-- 04 R98 R102: comparisons write a predicate register, whose inactive lanes give 0. -/
def Sys2Proof.Claims.Comparisons : Prop :=
  ∀ (i : Issue) (g : Gov) (cc : Cc) (pd : Fin 8) (a vb : Fin 64) (b : Src),
    Completes (.vcmp i g cc pd a b) i g noEvent noEvent (fun _ t t' =>
      PredResult g pd.val (fun l => (cmpHolds cc (lane (vreg t a.val) l) (lane (vreg t b.r.val) (if b.b then 0 else l)),
        laneBad (vreg t a.val) l || laneBad (vreg t b.r.val) (if b.b then 0 else l))) (fun _ => false) t t') ∧
    (∀ u : Bool, Completes (.icmp i g cc u pd a vb) i g noEvent noEvent (fun _ t t' =>
      PredResult g pd.val (fun l =>
        let x := lane (vreg t a.val) l
        let y := lane (vreg t vb.val) l
        ((match cc, u with
          | .eq, _ => x == y
          | .ne, _ => x != y
          | .lt, false => x.slt y
          | .lt, true => x.ult y
          | .le, false => x.sle y
          | .le, true => x.ule y
          | .gt, false => y.slt x
          | .gt, true => y.ult x
          | .ge, false => y.sle x
          | .ge, true => y.ule x),
          laneBad (vreg t a.val) l || laneBad (vreg t vb.val) l)) (fun _ => false) t t'))

/-- 04 R93 R102 R114: operations on predicate registers, whose inactive lanes stay or take 0 by the mode. -/
def Sys2Proof.Claims.PredicateOperations : Prop :=
  ∀ (i : Issue) (g : Gov) (pd a b : Fin 8) (va : Fin 64),
    let off := fun (t : Tile) (l : Nat) => !g.zero && (preg t pd.val).val.testBit l
    let two := fun (x : Instr) (op : Bool → Bool → Bool) =>
      Completes x i g noEvent noEvent (fun _ t t' =>
        PredResult g pd.val (fun l => (op ((preg t a.val).val.testBit l) ((preg t b.val).val.testBit l),
          (preg t a.val).taint || (preg t b.val).taint)) (off t) t t')
    two (.pand i g pd a b) and ∧ two (.por i g pd a b) or ∧ two (.pxor i g pd a b) xor ∧
    Completes (.pnot i g pd a) i g noEvent noEvent (fun _ t t' =>
      PredResult g pd.val (fun l => (!(preg t a.val).val.testBit l, (preg t a.val).taint)) (off t) t t') ∧
    Completes (.pfrom i g pd va) i g noEvent noEvent (fun _ t t' =>
      PredResult g pd.val (fun l => (decide (lane (vreg t va.val) l ≠ 0), laneBad (vreg t va.val) l)) (off t) t t')

/-- The lanes of a register as a reduction takes them: inactive ones replaced (04 R99). -/
def Sys2Proof.Claims.entering (t : Tile) (g : Gov) (a : Fin 64) (d : Word) (l : Nat) : Word :=
  if (preg t g.p.val).val.testBit l then lane (vreg t a.val) l else d

/-- Sum i of level k of the pairwise tree (04 R99). -/
def Sys2Proof.Claims.treeSum (ie : Bool) (x : Nat → Word) : Nat → Nat → Word
  | 0, i => x i
  | k + 1, i => (fadd ie (treeSum ie x k (2 * i)) (treeSum ie x k (2 * i + 1))).1

/-- Every lane of a register takes one word, and its granules one poison (04 R99 R114). -/
structure Sys2Proof.Claims.Spread (vd : Nat) (w : Word) (bad : Prop) (t t' : Tile) : Prop where
  lanes : ∀ l < 64, lane (vreg t' vd) l = w
  poison : ∀ k < 4, (vreg t' vd).poison.getD k false = true ↔ bad

/-- A value computed from the active lanes is tainted (04 R114). -/
def Sys2Proof.Claims.Tainted (t : Tile) (g : Gov) (a : Fin 64) : Prop :=
  (preg t g.p.val).taint = true ∨ ∃ l < 64, (preg t g.p.val).val.testBit l = true ∧ laneBad (vreg t a.val) l = true

/-- The maximum under the order of VMAX of the lanes that enter, the canonical NaN where an active one is
NaN (04 R99). -/
def Sys2Proof.Claims.IsMax (x : Nat → Word) (w : Word) : Prop :=
  ((∃ l < 64, isNaN32 (x l) = true) → w = f32NaN) ∧
    ((∀ l < 64, isNaN32 (x l) = false) → (∃ l < 64, x l = w) ∧ ∀ l < 64, f32Key (x l) ≤ f32Key w)

/-- 04 R99: the reductions write every lane, whatever the mode; VRSUM adds in the pairwise tree, VRMAXI
writes the lowest lane that holds the maximum to lane 0 of the next register, and names an even register. -/
def Obligations.Reductions : Prop :=
  ∀ (i : Issue) (g : Gov) (vd a : Fin 64) (s : State), AllReady s i →
    (Issues s i true (.vrsum i g vd a) → Answers (.vrsum i g vd a) s (fun t =>
      OnlyTiles s t i true (.vrsum i g vd a) ∧ t.chip.acc.conv = s.chip.acc.conv ∧
      (∀ b, t.chip.acc.vec.testBit b = true ↔ s.chip.acc.vec.testBit b = true ∨
        ∃ site ∈ issueSites s.chip i, ∃ k < 6, ∃ j < 2 ^ (5 - k),
          let x := entering (tileAt s.chip site) g a 0x80000000
          (fadd (ieee s.chip) (treeSum (ieee s.chip) x k (2 * j)) (treeSum (ieee s.chip) x k (2 * j + 1))).2.testBit b = true) ∧
      ∀ site ∈ issueSites s.chip i,
        let u := tileAt s.chip site
        let u' := tileAt t.chip site
        Spread vd.val (treeSum (ieee s.chip) (entering u g a 0x80000000) 6 0) (Tainted u g a) u u' ∧
          (∀ r, r ≠ vd.val → vreg u' r = vreg u r) ∧ u' = { u with v := u'.v })) ∧
    (Issues s i true (.vrmax i g vd a) → Answers (.vrmax i g vd a) s (fun t =>
      OnlyTiles s t i true (.vrmax i g vd a) ∧ t.chip.acc = s.chip.acc ∧
      ∀ site ∈ issueSites s.chip i,
        let u := tileAt s.chip site
        let u' := tileAt t.chip site
        (∃ w, IsMax (entering u g a 0xFF800000) w ∧ Spread vd.val w (Tainted u g a) u u') ∧
          (∀ r, r ≠ vd.val → vreg u' r = vreg u r) ∧ u' = { u with v := u'.v })) ∧
    (vd.val % 2 = 0 → Issues s i true (.vrmaxi i g vd a) → Answers (.vrmaxi i g vd a) s (fun t =>
      OnlyTiles s t i true (.vrmaxi i g vd a) ∧ t.chip.acc = s.chip.acc ∧
      ∀ site ∈ issueSites s.chip i,
        let u := tileAt s.chip site
        let u' := tileAt t.chip site
        let x := entering u g a 0xFF800000
        (∃ w, IsMax x w ∧ Spread vd.val w (Tainted u g a) u u' ∧
          ∃ l < 64, (if w = f32NaN then isNaN32 (x l) = true ∧ ∀ k < l, isNaN32 (x k) = false
              else x l = w ∧ ∀ k < l, x k ≠ w) ∧
            lane (vreg u' (vd.val + 1)) 0 = BitVec.ofNat 32 l) ∧
          (∀ l, 0 < l → l < 64 → lane (vreg u' (vd.val + 1)) l = lane (vreg u (vd.val + 1)) l) ∧
          ((vreg u' (vd.val + 1)).poison.getD 0 false = true ↔
            Tainted u g a ∨ (vreg u (vd.val + 1)).poison.getD 0 false = true) ∧
          (∀ k, 0 < k → k < 4 → (vreg u' (vd.val + 1)).poison.getD k false = (vreg u (vd.val + 1)).poison.getD k false) ∧
          (∀ r, r ≠ vd.val → r ≠ vd.val + 1 → vreg u' r = vreg u r) ∧ u' = { u with v := u'.v })) ∧
    (vd.val % 2 = 1 → exec (.vrmaxi i g vd a) s = .refused .illFormed)

/-- 04 R94: the address registers, modulo 2^16; a0 discards writes (R92). -/
def Obligations.AddressRegisters : Prop :=
  ∀ (i : Issue) (g : Gov) (ad : Fin 8) (imm : BitVec 16) (a : Fin 64),
    Completes (.amov i g ad imm) i g noEvent noEvent (fun _ t t' => AddrResult ad.val imm.toNat t t') ∧
    Completes (.aadd i g ad imm) i g noEvent noEvent (fun _ t t' =>
      AddrResult ad.val (areg t ad.val + imm.toNat) t t') ∧
    Completes (.afrom i g ad a) i g noEvent noEvent (fun _ t t' =>
      AddrResult ad.val (lane (vreg t a.val) 0).toNat t t')

/-! ## Conversions (04 R103 R104) -/

/-- 04 R103: VCVT and VRND, with the conversion events of 02 R64; VDQ (04 R104). `convert` and `dequantElem` are the
conversions of chapter 02. -/
def Obligations.Conversions : Prop :=
  ∀ (i : Issue) (g : Gov) (vd a vk : Fin 64) (m : RMode) (f : Fmt) (scaled : Bool) (o : Fin 256),
    let cvt := fun (d : Cvt) (op : Bool → Word → Nat × Nat) =>
      Vec (.vcvt i g d m vd a) i g vd (fun s => on1 (fun x => BitVec.ofNat 32 (op (ieee s.chip) x).1) a)
        noEvent (fun s t l => (op (ieee s.chip) (lane (vreg t a.val) l)).2)
    cvt .toInt (fun ie x => convert .int32 ie m (f32 x)) ∧
    cvt .toBf16 (fun ie x => convert .bf16 ie m (f32 x)) ∧
    cvt .toFp16 (fun ie x => convert .fp16 ie m (f32 x)) ∧
    cvt .fromInt (fun ie x => convert .fp32 ie .rne (.fin (decide (x.toInt < 0)) x.toInt.natAbs 0)) ∧
    cvt .fromBf16 (fun ie x => convert .fp32 ie m (decodeFmt .bf16 (x.toNat % 65536))) ∧
    cvt .fromFp16 (fun ie x => convert .fp32 ie m (decodeFmt .fp16 (x.toNat % 65536))) ∧
    Vec (.vrnd i g m vd a) i g vd (fun _ => on1 (frnd m) a) ∧
    Vec (.vdq i g vd a vk f scaled o) i g vd
      (fun s t l =>
        let w := fmtWidth f
        let code := (leNat (vregBytes (vreg t a.val)) >>> (8 * o.val + w * l)) % 2 ^ w
        let k := if scaled then (lane (vreg t vk.val) (l / 32)).toNat % 256 else 127
        (BitVec.ofNat 32 (dequantElem f (ieee s.chip) k code).1,
          laneBad (vreg t a.val) ((8 * o.val + w * l) / 32) ||
            laneBad (vreg t a.val) ((8 * o.val + w * l + w - 1) / 32) ||
            (scaled && laneBad (vreg t vk.val) (l / 32))))
      noEvent
      (fun s t l =>
        let w := fmtWidth f
        let code := (leNat (vregBytes (vreg t a.val)) >>> (8 * o.val + w * l)) % 2 ^ w
        (dequantElem f (ieee s.chip) (if scaled then (lane (vreg t vk.val) (l / 32)).toNat % 256 else 127) code).2)

/-- The value lane l enters VQNT with: inactive lanes as +0 (04 R104). -/
def Sys2Proof.Claims.quantIn (t : Tile) (g : Gov) (a : Fin 64) (l : Nat) : FVal :=
  f32 (if (preg t g.p.val).val.testBit l then lane (vreg t a.val) l else 0)

/-- The scale code of a block of VQNT (04 R104, 02 R57). -/
def Sys2Proof.Claims.quantScale (t : Tile) (g : Gov) (a vk : Fin 64) (f : Fmt) (sc : QScale) (b : Nat) : Nat :=
  match sc with
  | .computed => blockScale f ((List.range 32).map (fun k => quantIn t g a (32 * b + k)))
  | .given => (lane (vreg t vk.val) b).toNat % 256
  | .unscaled => 127

/-- 04 R104: VQNT packs the 64 converted lanes into the bytes from o on, leaves the other bytes of vd, and a
computed scale goes to lanes 0 and 1 of vk, also where vk is vd (log 36). -/
def Obligations.QuantizePacks : Prop :=
  ∀ (i : Issue) (g : Gov) (vd a vk : Fin 64) (f : Fmt) (sc : QScale) (o : Fin 256) (s : State),
    Issues s i true (.vqnt i g vd a vk f sc o) → AllReady s i → (Instr.vqnt i g vd a vk f sc o).wf = true →
    Answers (.vqnt i g vd a vk f sc o) s (fun t =>
      OnlyTiles s t i true (.vqnt i g vd a vk f sc o) ∧ t.chip.acc.vec = s.chip.acc.vec ∧
      EventsGain s.chip.acc.conv t.chip.acc.conv s i g (fun s t l =>
        (quantElem f (ieee s.chip) (quantScale t g a vk f sc (l / 32)) (quantIn t g a l)).2) ∧
      ∀ site ∈ issueSites s.chip i,
        let u := tileAt s.chip site
        let u' := tileAt t.chip site
        let w := fmtWidth f
        (∀ r, r ≠ vd.val → ¬(sc = .computed ∧ r = vk.val) → vreg u' r = vreg u r) ∧ u' = { u with v := u'.v } ∧
        (¬(sc = .computed ∧ vk = vd) →
          (∀ l < 64, (leNat (vregBytes (vreg u' vd.val)) >>> (8 * o.val + w * l)) % 2 ^ w =
            (quantElem f (ieee s.chip) (quantScale u g a vk f sc (l / 32)) (quantIn u g a l)).1 % 2 ^ w) ∧
          (∀ k < 256, k < o.val ∨ o.val + 8 * w ≤ k →
            (vregBytes (vreg u' vd.val))[k]? = (vregBytes (vreg u vd.val))[k]?)) ∧
        (sc = .computed →
          (∀ b < 2, lane (vreg u' vk.val) b = BitVec.ofNat 32 (quantScale u g a vk f sc b)) ∧
          (vk ≠ vd → ∀ l, 2 ≤ l → l < 64 → lane (vreg u' vk.val) l = lane (vreg u vk.val) l)))

/-! ## Plan faults -/

/-- A plan fault of a kind at each of a list of tiles, reported once for each tile and step (05 R147, 14 R432): the reports of
the step, the count of class 3, and for each tile of which none was made a record of its code, place and step, where the log
does not hold 128. -/
structure Sys2Proof.Claims.TileFaults (s t : State) (kind code : Nat) (sites : List Nat) : Prop where
  reported : ∀ x, x ∈ t.chip.acc.reported ↔ x ∈ s.chip.acc.reported ∨ ∃ site ∈ sites, x = (kind, site)
  counted : reg t.chip (key 0x9002 4) =
    (reg s.chip (key 0x9002 4) + sites.countP (fun site => !s.chip.acc.reported.contains (kind, site))) % 2 ^ 64
  logged : ∀ site ∈ sites, (kind, site) ∉ s.chip.acc.reported →
    128 ≤ t.chip.err.log.length ∨ ∃ r ∈ t.chip.err.log, r.code = code ∧ r.loc = 0x1000 + site ∧ r.step = s.chip.plan.step

/-- What an instruction leaves that may report a plan fault: beside the tiles that issue, the counts, reports and events of
the step, and what taking a record to the log changes (14 R435 to R440): the log, entries of chapter 9000h, pending messages
and pins. -/
structure Sys2Proof.Claims.TilesAndReports (s t : State) (i : Issue) (x : Instr) : Prop where
  rest : t = { s with chip := { s.chip with
    seqs := (noteIssue s.chip i true x).seqs, tiles := t.chip.tiles,
    acc := { s.chip.acc with vec := t.chip.acc.vec, counts := t.chip.acc.counts, reported := t.chip.acc.reported },
    err := t.chip.err, regs := t.chip.regs, host := { s.chip.host with msixPend := t.chip.host.msixPend }, out := t.chip.out } }
  entries : ∀ k, k < 0x900000 ∨ 0x901100 ≤ k → reg t.chip k = reg s.chip k
  others : ∀ site, site ∉ issueSites s.chip i → tileAt t.chip site = tileAt s.chip site

/-- A counter of the step rises by n, and of the others only those of a list change. -/
def Sys2Proof.Claims.Counts (c d : Chip) (k n : Nat) (also : List Nat) : Prop :=
  smGet 0 d.acc.counts k = smGet 0 c.acc.counts k + n ∧ ∀ j, j ≠ k → j ∉ also → smGet 0 d.acc.counts j = smGet 0 c.acc.counts j

/-! ## The operand cache (04 R106 R107) -/

/-- No granule of the operand cache of a tile holds a stored error. -/
def Sys2Proof.Claims.CacheClean (c : Chip) (site : Nat) : Prop :=
  ∀ w < 65536, smGet EccMark.none c.ecc (wordAddr site w / 64) = EccMark.none

/-- A word of the operand cache. -/
def Sys2Proof.Claims.cacheWord (c : Chip) (site w : Nat) : Word :=
  BitVec.ofNat 32 (leNat (memBytes c.mem (wordAddr site w) 4))

/-- The word at an exact address, none outside 0 to 65,535 (04 R106). -/
def Sys2Proof.Claims.wordAt (x : Int) : Option Nat := if 0 ≤ x ∧ x < 65536 then some x.toNat else none

/-- The lane that a word of the operand cache gives. -/
def Sys2Proof.Claims.fromCache (c : Chip) (site : Nat) : Option Nat → TW
  | some w => (cacheWord c site w, granPoison c (wordAddr site w))
  | none => (0, false)

/-- The address of VLD, VST and VLDB (04 R106). -/
def Sys2Proof.Claims.contiguous (t : Tile) (ad : Fin 8) (imm : BitVec 16) : Int := (areg t ad.val : Int) + imm.toInt

/-- The address of a lane of VGATH and VSCAT (04 R107). -/
def Sys2Proof.Claims.indexed (t : Tile) (ad : Fin 8) (vi : Fin 64) (l : Nat) : Int :=
  (areg t ad.val : Int) + (lane (vreg t vi.val) l).toInt

/-- 04 R106: VLD and VLDB load words of the operand cache; an address out of range gives +0 and event bit
[0]; memory, its poison and its stored errors stay as they are. -/
def Obligations.CacheLoads : Prop :=
  ∀ (i : Issue) (g : Gov) (v : Fin 64) (ad : Fin 8) (imm : BitVec 16) (s : State),
    AllReady s i → (∀ site ∈ issueSites s.chip i, CacheClean s.chip site) →
    let load := fun (x : Instr) (f : Tile → Nat → Option Nat) => Issues s i true x → Answers x s (fun t =>
      OnlyTiles s t i true x ∧ t.chip.acc.conv = s.chip.acc.conv ∧
      EventsGain s.chip.acc.vec t.chip.acc.vec s i g (fun _ u l => if (f u l).isSome then 0 else 1) ∧
      ∀ site ∈ issueSites s.chip i,
        VecResult false g v.val (fun l => fromCache s.chip site (f (tileAt s.chip site) l))
          (tileAt s.chip site) (tileAt t.chip site))
    load (.vld i g v ad imm) (fun u l => wordAt (contiguous u ad imm + l)) ∧
    load (.vldb i g v ad imm) (fun u _ => wordAt (contiguous u ad imm))

/-- A lane of a gather or scatter that is active and in range asks for word w. -/
def Sys2Proof.Claims.asks (t : Tile) (g : Gov) (ad : Fin 8) (vi : Fin 64) (l w : Nat) : Prop :=
  l < 64 ∧ (preg t g.p.val).val.testBit l = true ∧ wordAt (indexed t ad vi l) = some w

/-- Word w is served within b rounds: fewer than b other words of its bank are first asked for by a lane below
the first lane that asks for w (04 R107). -/
noncomputable def Sys2Proof.Claims.servedIn (t : Tile) (g : Gov) (ad : Fin 8) (vi : Fin 64) (b w : Nat) : Prop :=
  ∃ l, asks t g ad vi l w ∧ (∀ k < l, ¬asks t g ad vi k w) ∧
    Set.ncard {w' : Nat | w' % 64 = w % 64 ∧ w' ≠ w ∧ ∃ k < l, asks t g ad vi k w'} < b

/-- Lanes of a gather or scatter that stay unserved. -/
noncomputable def Sys2Proof.Claims.unservedLanes (t : Tile) (g : Gov) (ad : Fin 8) (vi : Fin 64) (b : Nat) : Nat :=
  Set.ncard {l : Nat | ∃ w, asks t g ad vi l w ∧ ¬servedIn t g ad vi b w}

/-- The tiles that leave lanes unserved. -/
noncomputable def Sys2Proof.Claims.unservedSites (s : State) (i : Issue) (g : Gov) (ad : Fin 8) (vi : Fin 64) (b : Nat) : List Nat :=
  (issueSites s.chip i).filter (fun site => unservedLanes (tileAt s.chip site) g ad vi b != 0)

/-- What lanes left unserved do beside what they receive or write (04 R107): they are counted in 3040h:01, each tile reports
the first such instruction of a step, and event bit [1] is set; `ev` gives the other event bits of an active lane. -/
structure Sys2Proof.Claims.Unserved (s t : State) (i : Issue) (g : Gov) (ad : Fin 8) (vi : Fin 64) (b : Nat)
    (ev : Tile → Nat → Nat) : Prop where
  counted : Counts s.chip t.chip (key 0x3040 1)
    ((issueSites s.chip i).map (fun site => unservedLanes (tileAt s.chip site) g ad vi b)).sum []
  faults : TileFaults s t 8 0x0603 (unservedSites s i g ad vi b)
  events : ∀ k, t.chip.acc.vec.testBit k = true ↔ s.chip.acc.vec.testBit k = true ∨
    (k = 1 ∧ unservedSites s i g ad vi b ≠ []) ∨ ∃ site ∈ issueSites s.chip i, ∃ l < 64,
      (preg (tileAt s.chip site) g.p.val).val.testBit l = true ∧ (ev (tileAt s.chip site) l).testBit k = true

/-- The rounds of a gather that follow the one of its issue, in the memory as it stands; in a run each is a cycle. -/
def Sys2Proof.Claims.gatherRounds (n : Nat) (c : Chip) (site : Nat) : Chip := (fun d => gathRound d site)^[n] c

/-- 04 R107: a gather serves each bank's words in lane order, a word for each bank in each of b rounds, the first in the cycle
of issue. When they are over, its register holds the words served; an active lane left unserved received +0 and is tainted,
one whose address is out of range +0 and, as one served, the taint of its index (log 34). Event bits [0] and [1], the count
and the plan fault of lanes left unserved; where every lane is served nothing else changes but the register. -/
def Obligations.GatherServes : Prop :=
  ∀ (i : Issue) (g : Gov) (vd vi : Fin 64) (ad : Fin 8) (b : Nat) (s : State),
    Issues s i true (.vgath i g vd vi ad b) → AllReady s i → (∀ site ∈ issueSites s.chip i, CacheClean s.chip site) →
    (∀ site ∈ issueSites s.chip i, (tileAt s.chip site).gath = none) → (Instr.vgath i g vd vi ad b).wf = true →
    Answers (.vgath i g vd vi ad b) s (fun t =>
      (∀ site ∈ issueSites s.chip i,
        let u := tileAt s.chip site
        ∃ f : Nat → TW, VecResult false g vd.val f u (tileAt (gatherRounds b t.chip site) site) ∧ ∀ l < 64,
          (∀ w, asks u g ad vi l w → (servedIn u g ad vi b w → f l =
              (cacheWord s.chip site w, granPoison s.chip (wordAddr site w) || laneBad (vreg u vi.val) l)) ∧
            (¬servedIn u g ad vi b w → f l = (0, true))) ∧
          (wordAt (indexed u ad vi l) = none → f l = (0, laneBad (vreg u vi.val) l))) ∧
      TilesAndReports s t i (.vgath i g vd vi ad b) ∧
      Unserved s t i g ad vi b (fun u l => if (wordAt (indexed u ad vi l)).isSome then 0 else 1) ∧
      (unservedSites s i g ad vi b = [] → OnlyTiles s t i true (.vgath i g vd vi ad b)))

/-- The chip after the n rounds of the stores of tiles, in the memory as it stands; in a run each is a cycle. -/
def Sys2Proof.Claims.storeRounds (n : Nat) (c : Chip) (sites : List Nat) : Chip :=
  sites.foldl (fun c site => (fun d => storeCycle d site)^[n] c) c

/-- Word w of a tile is written by lane l, and by no later lane. -/
def Sys2Proof.Claims.lastWriter (t : Tile) (g : Gov) (f : Nat → Option Nat) (w l : Nat) : Prop :=
  l < 64 ∧ (preg t g.p.val).val.testBit l = true ∧ f l = some w ∧
    ∀ k, l < k → k < 64 → (preg t g.p.val).val.testBit k = true → f k ≠ some w

/-- A bit of a stored error of a word of the operand cache. -/
def Sys2Proof.Claims.errorBit (c : Chip) (site w k : Nat) : Bool :=
  (smGet EccMark.none c.ecc (wordAddr site w / 64)).mask.testBit (32 * (w % 16) + k)

/-- The words that a store writes in a tile, and what it leaves there: `writes` says which lanes write a word, the last of
them giving its value, `taint` which words it writes tainted, `hurt` which granules it poisons outright (04 R106 R107). A
granule is poisoned where a word written is tainted, or where it was poisoned and a word of it stays (04 R114); the stored
errors of a word written are gone (07 R204). -/
structure Sys2Proof.Claims.Stored (c d : Chip) (site : Nat) (u : Tile) (g : Gov) (v : Fin 64) (f : Nat → Option Nat)
    (written taint : Nat → Prop) (hurt : Nat → Prop) : Prop where
  words : ∀ w < 65536, (written w → ∀ l, lastWriter u g f w l → cacheWord d site w = lane (vreg u v.val) l) ∧
    (¬written w → cacheWord d site w = cacheWord c site w)
  poison : ∀ k < 4096, granPoison d (wordAddr site (16 * k)) = true ↔ hurt k ∨ (∃ w, w / 16 = k ∧ written w ∧ taint w) ∨
    (granPoison c (wordAddr site (16 * k)) = true ∧ ∃ w, w / 16 = k ∧ ¬written w)
  errors : ∀ w < 65536, ∀ k < 32, errorBit d site w k = true ↔ errorBit c site w k = true ∧ ¬written w

/-- What a store leaves when its rounds are over: memory, poison and stored errors outside the operand caches of the tiles
that issue, and everything else of the chip as at its issue, no round left to write. -/
structure Sys2Proof.Claims.OnlyCache (c d : Chip) (sites : List Nat) : Prop where
  rest : d = { c with tiles := d.tiles, mem := d.mem, poison := d.poison, ecc := d.ecc }
  tiles : ∀ site, tileAt d site = if site ∈ sites then { tileAt c site with stores := [] } else tileAt c site
  bytes : ∀ a, (∀ site ∈ sites, a < wordAddr site 0 ∨ wordAddr site 65536 ≤ a) → memByte d.mem a = memByte c.mem a ∧
    granPoison d a = granPoison c a ∧ smGet EccMark.none d.ecc (a / 64) = smGet EccMark.none c.ecc (a / 64)

/-- 04 R105 R106 R107 R114: VST writes its lanes to consecutive words, and VSCAT the highest lane's value to each word that
is served in its b rounds, at the end of each round's cycle, so that at the issue memory is as it was. An address out of
range writes nothing; a word of a scatter takes the taint of every lane that addresses it (log 34); one left unserved is not
written, and its granule is poisoned, with event bit [1], the count and the plan fault; event bits [0] and, for lanes of a
scatter that share a word, [2]. -/
def Obligations.CacheStores : Prop :=
  ∀ (i : Issue) (g : Gov) (v vi : Fin 64) (ad : Fin 8) (imm : BitVec 16) (b : Nat) (s : State), AllReady s i →
    (∀ site ∈ issueSites s.chip i, (tileAt s.chip site).stores = []) →
    let sites := issueSites s.chip i
    let taints := fun (u : Tile) (l : Nat) => (preg u g.p.val).taint = true ∨ laneBad (vreg u v.val) l = true
    (Issues s i true (.vst i g v ad imm) → Answers (.vst i g v ad imm) s (fun t =>
      let d := storeRounds 1 t.chip sites
      OnlyTiles s t i true (.vst i g v ad imm) ∧ t.chip.acc.conv = s.chip.acc.conv ∧ OnlyCache t.chip d sites ∧
      EventsGain s.chip.acc.vec t.chip.acc.vec s i g
        (fun _ u l => if (wordAt (contiguous u ad imm + l)).isSome then 0 else 1) ∧
      ∀ site ∈ sites,
        let u := tileAt s.chip site
        let f := fun (l : Nat) => wordAt (contiguous u ad imm + l)
        Stored s.chip d site u g v f (fun w => ∃ l, lastWriter u g f w l)
          (fun w => ∃ l, lastWriter u g f w l ∧ taints u l) (fun _ => False))) ∧
    ((Instr.vscat i g v vi ad b).wf = true → Issues s i true (.vscat i g v vi ad b) →
      Answers (.vscat i g v vi ad b) s (fun t =>
        let d := storeRounds b t.chip sites
        TilesAndReports s t i (.vscat i g v vi ad b) ∧ OnlyCache t.chip d sites ∧
        (unservedSites s i g ad vi b = [] → OnlyTiles s t i true (.vscat i g v vi ad b)) ∧
        Unserved s t i g ad vi b (fun u l => match wordAt (indexed u ad vi l) with
          | none => 1
          | some w => if (List.range 64).any (fun k => decide (k ≠ l) && (preg u g.p.val).val.testBit k &&
              decide (wordAt (indexed u ad vi k) = some w)) then 4 else 0) ∧
        ∀ site ∈ sites,
          let u := tileAt s.chip site
          let asked := fun (w : Nat) => ∃ l, asks u g ad vi l w
          Stored s.chip d site u g v (fun l => wordAt (indexed u ad vi l)) (fun w => asked w ∧ servedIn u g ad vi b w)
            (fun w => ∃ l, asks u g ad vi l w ∧ (taints u l ∨ laneBad (vreg u vi.val) l = true))
            (fun k => ∃ w, w / 16 = k ∧ asked w ∧ ¬servedIn u g ad vi b w)))

/-! ## Queues and slot counters (05 R128, 04 R110) -/

/-- Entry k of the four that a VPUSH makes of a register (05 R128, 04 R114). -/
def Sys2Proof.Claims.pushedEntry (t : Tile) (g : Gov) (v : Fin 64) (k : Nat) : List Byte × Bool :=
  ((List.range 16).flatMap (fun j => leBytes 4 (lane (vreg t v.val) (16 * k + j)).toNat),
    (vreg t v.val).poison.getD k false || (preg t g.p.val).taint)

/-- A tile after one cycle of a VPOP: lanes 16 i to 16 i + 15 take the entry read, active lanes `f`, inactive ones +0 in
zero mode (04 R93 R96 R114). -/
structure Sys2Proof.Claims.PopResult (p : Popping) (f : Nat → TW) (t t' : Tile) : Prop where
  lanes : ∀ l < 64, lane (vreg t' p.vd) l =
    if l / 16 ≠ p.i then lane (vreg t p.vd) l
    else if p.gov.val.testBit l then (f l).1 else if p.zero then 0 else lane (vreg t p.vd) l
  poison : ∀ k < 4, (vreg t' p.vd).poison.getD k false = true ↔ ∃ l < 64, l / 16 = k ∧
    (if k = p.i then p.gov.taint = true ∨
        if p.gov.val.testBit l then (f l).2 = true
        else p.zero = false ∧ (vreg t p.vd).poison.getD k false = true
      else (vreg t p.vd).poison.getD k false = true)
  others : ∀ r, r ≠ p.vd → vreg t' r = vreg t r
  after : t'.pop = if p.i < 3 then some { p with i := p.i + 1 } else none
  rest : t' = { t with v := t'.v, q := t'.q, pop := t'.pop }

/-- 05 R126 R128 R129, 04 R96: VPOP stands in the queue port with its predicate as it is, and in each of four cycles reads
an entry that was written two cycles before or earlier; an empty queue gives +0 lanes, tainted, and counts a missing
entry, but where the tile has stalled for it and counted it then. VPUSH sends every lane of its register, active or not (the
model's choice: log 16), as four entries, one a cycle from the next. -/
def Obligations.QueueAccess : Prop :=
  (∀ (i : Issue) (g : Gov) (v : Fin 64) (q : Fin 8),
    Completes (.vpop i g v q) i g noEvent noEvent (fun _ t t' =>
      t' = { t with pop := some ⟨preg t g.p.val, g.zero, v.val, q.val, 0⟩ }) ∧
    ∀ s, Issues s i true (.vpush i g v q) → AllReady s i → (Instr.vpush i g v q).wf = true →
      Answers (.vpush i g v q) s (fun t => t = { s with chip := { s.chip with
        seqs := (noteIssue s.chip i true (.vpush i g v q)).seqs,
        flying := s.chip.flying ++ (issueSites s.chip i).flatMap (fun site => (List.range 4).map (fun k =>
          ⟨s.chip.plan.cyc + 1 + k, .entry site q.val (pushedEntry (tileAt s.chip site) g v k).1
            (pushedEntry (tileAt s.chip site) g v k).2⟩)) } })) ∧
  ∀ (c : Chip) (site : Nat) (p : Popping), (tileAt c site).pop = some p → p.i < 4 →
    let u := tileAt c site
    let x := queueAt u p.q
    let d := popCycle c site
    (∀ e rest, x.entries = e :: rest → e.tag = x.pop → e.wrote + 2 ≤ c.plan.cyc →
      d = { c with tiles := d.tiles } ∧ (∀ y, y ≠ site → tileAt d y = tileAt c y) ∧
      PopResult p (fun l => (BitVec.ofNat 32 (leNat ((e.data.drop (4 * (l % 16))).take 4)), e.poison)) u (tileAt d site) ∧
      queueAt (tileAt d site) p.q = { x with entries := rest, pop := (x.pop + 1) % 65536 } ∧
      ∀ r, r ≠ p.q → queueAt (tileAt d site) r = queueAt u r) ∧
    (x.entries = [] →
      (p.q ∉ u.stalled → PopResult p (fun _ => (0, true)) u (tileAt d site)) ∧
      (p.q ∈ u.stalled → PopResult p (fun _ => (0, true)) u { tileAt d site with stalled := u.stalled } ∧
        (tileAt d site).stalled = u.stalled.erase p.q) ∧
      queueAt (tileAt d site) p.q = { x with pop := (x.pop + 1) % 65536 } ∧
      Counts c d (key 0x3050 2) (if p.q ∈ u.stalled then 0 else 1) [])

/-- The expert that an active lane of VSLOT names, as INT32 (04 R110). -/
def Sys2Proof.Claims.expert (t : Tile) (g : Gov) (ve : Fin 64) (l : Nat) : Option Nat :=
  if (preg t g.p.val).val.testBit l then
    let e := (lane (vreg t ve.val) l).toInt
    if 0 ≤ e ∧ e < 256 then some e.toNat else none
  else none

/-- How many lanes below l name expert e. -/
def Sys2Proof.Claims.earlier (t : Tile) (g : Gov) (ve : Fin 64) (e l : Nat) : Nat :=
  (List.range l).countP (fun k => decide (expert t g ve k = some e))

/-- The slot of lane l of a VSLOT: the counter of its expert and the lanes before it that name the expert, while that is below
the capacity (04 R110). -/
def Sys2Proof.Claims.slotOf (t : Tile) (g : Gov) (ve : Fin 64) (cap l : Nat) : Option Nat :=
  match expert t g ve l with
  | some n => if slotCtr t n + earlier t g ve n l < cap then some (slotCtr t n + earlier t g ve n l) else none
  | none => none

/-- 04 R110 R114 R115 R116: the slotting instructions. The k-th lane that names an expert takes slot counter + k while that
is below the capacity, and FFFFFFFFh otherwise; the counter rises to the slots taken; slots taken and refused are counted in
3040h:02 and 3040h:03, and a lane that names no expert sets event bit [5]; what a tainted slot counter file gives is tainted in
every lane written. -/
def Obligations.Slotting : Prop :=
  ∀ (i : Issue) (g : Gov) (vd vs ve : Fin 64) (pd : Fin 8) (cap : Nat) (grp : Fin 4) (e : SlotSel) (s : State),
    AllReady s i →
    (Issues s i true (.vslot i g vd pd ve cap) → (Instr.vslot i g vd pd ve cap).wf = true →
      Answers (.vslot i g vd pd ve cap) s (fun t =>
      let lanes := fun (P : Tile → Nat → Bool) =>
        ((issueSites s.chip i).map (fun site => (List.range 64).countP (P (tileAt s.chip site)))).sum
      t = { s with chip := { s.chip with
        seqs := (noteIssue s.chip i true (.vslot i g vd pd ve cap)).seqs, tiles := t.chip.tiles,
        acc := { s.chip.acc with vec := t.chip.acc.vec, counts := t.chip.acc.counts } } } ∧
      (∀ site, site ∉ issueSites s.chip i → tileAt t.chip site = tileAt s.chip site) ∧
      EventsGain s.chip.acc.vec t.chip.acc.vec s i g (fun _ u l => if (expert u g ve l).isSome then 0 else 32) ∧
      Counts s.chip t.chip (key 0x3040 2) (lanes (fun u l => (slotOf u g ve cap l).isSome)) [key 0x3040 3] ∧
      Counts s.chip t.chip (key 0x3040 3) (lanes (fun u l => (expert u g ve l).isSome && (slotOf u g ve cap l).isNone))
        [key 0x3040 2] ∧
      ∀ site ∈ issueSites s.chip i,
        let u := tileAt s.chip site
        let u' := tileAt t.chip site
        let taint := u.slotTaint || (preg u g.p.val).taint ||
          (List.range 64).any (fun l => (preg u g.p.val).val.testBit l && laneBad (vreg u ve.val) l)
        VecResult (taint && g.zero) g vd.val
          (fun l => (match slotOf u g ve cap l with | some k => BitVec.ofNat 32 k | none => 0xFFFFFFFF, taint))
          u { u' with p := u.p, slots := u.slots, slotTaint := u.slotTaint } ∧
        (pd.val ≠ 0 → (∀ l < 64, (preg u' pd.val).val.testBit l = (slotOf u g ve cap l).isSome) ∧
          (preg u' pd.val).taint = taint) ∧
        (∀ n < 256, slotCtr u' n = if slotCtr u n < cap then min cap (slotCtr u n + earlier u g ve n 64) else slotCtr u n) ∧
        u'.slotTaint = taint ∧ (∀ p, p ≠ pd.val → preg u' p = preg u p))) ∧
    Completes (.vslmsk i g vd e) i g noEvent noEvent (fun _ t t' =>
      let n := match e with
        | .imm k => k.val
        | .areg a => areg t a.val % 256
      VecResult (t.slotTaint && g.zero) g vd.val (fun l =>
        (if l < 8 then BitVec.ofNat 32 ((2 ^ min (slotCtr t n) 256 - 1) / 2 ^ (32 * l)) else 0, t.slotTaint)) t t') ∧
    Completes (.vslrd i g vd grp) i g noEvent noEvent (fun _ t t' =>
      VecResult (t.slotTaint && g.zero) g vd.val
        (fun l => (BitVec.ofNat 32 (slotCtr t (64 * grp.val + l)), t.slotTaint)) t t') ∧
    Completes (.vslset i g vs grp) i g noEvent noEvent (fun _ t t' =>
      (∀ n, slotCtr t' n =
        if n / 64 = grp.val ∧ (preg t g.p.val).val.testBit (n % 64) then (lane (vreg t vs.val) (n % 64)).toNat % 65536
        else slotCtr t n) ∧
      t' = { t with slots := t'.slots, slotTaint := t'.slotTaint }) ∧
    Completes (.vslclr i g) i g noEvent noEvent (fun _ t t' =>
      (∀ n, slotCtr t' n = 0) ∧ t'.slotTaint = false ∧ t' = { t with slots := t'.slots, slotTaint := t'.slotTaint })

/-! ## The matrix array (03) -/

/-- A column of an entry with its poison, as a read in an array cycle finds it. -/
def Sys2Proof.Claims.column (a : Arr) (e col cycle : Nat) : Word × Bool := accRead a e col cycle

/-- Nothing is on its way to an entry. -/
def Sys2Proof.Claims.Settled (a : Arr) (e : Nat) : Prop := ∀ op ∈ a.ops, opEntry op ≠ e

/-- 03 R78 R80 R89: vectors and clears on their way to an entry. Of two vectors that a stream adds to one entry, the second
adds to the first one's result where it comes 5 cycles later or more, and else loses it, each under the policy of its own
step (02 R63); the poison of both stays. A drain with clear leaves −0, clean, in its half from the second cycle on (log
36). -/
def Sys2Proof.Claims.AccumulatorTiming : Prop :=
  (∀ (ie₁ ie₂ : Bool) (a : Arr) (e col t₁ t₂ n : Nat) (s₁ s₂ : List (List Word)) (bad₁ bad₂ : List Nat),
    a.ops = [] → col < 128 → t₁ < t₂ → t₂ + 138 ≤ n →
    column { a with ops := [.vec t₁ e false false ie₁ (some s₁) bad₁ [], .vec t₂ e false false ie₂ (some s₂) bad₂ []] } e col n =
      (if t₂ < t₁ + 5 then columnAdd ie₂ (accAt a e col) (s₂.getD col [])
      else columnAdd ie₂ (columnAdd ie₁ (accAt a e col) (s₁.getD col [])) (s₂.getD col []),
        nsMem a.accPoison (8 * e + col / 16) || bad₁.contains (col / 16) || bad₂.contains (col / 16))) ∧
  (∀ (a : Arr) (e h now x col n : Nat), Settled a e → now + 1 < n → col < 128 →
    column { a with ops := a.ops ++ [.clear now e h] } x col n =
      if x = e ∧ col / 64 = h then (0x80000000, false) else column a x col n)

/-- 03 R74 R76 R78 R79 R81 R89: MDRN copies 64 columns of an entry with their poison as they stand in the next cycle, final
or not, and with clear sends −0, clean, after them (`AccumulatorTiming`). MSKL, MPRE and MSTR take a place in their port,
with the cycle in which the port begins them: behind the command before them, a swap no sooner than the weights before it
are loaded, a preload no sooner than the swap before it. That MSKL takes one cycle of its port and reads its register at
issue is the model's choice (log 36). -/
def Obligations.ArrayPorts : Prop :=
  AccumulatorTiming ∧
  ∀ (i : Issue) (e : Fin 256) (h : Fin 2) (v : Fin 64) (clear : Bool) (f : Fmt) (qp : Fin 8) (qs : Option (Fin 8))
    (qa : QSrc) (n : Nat) (fresh swap mask : Bool) (g : Gov),
    let now := fun (s : State) => s.chip.plan.cyc
    Completes (.mdrn i e h v clear) i g noEvent noEvent (fun s t t' =>
      (∀ l < 64, lane (vreg t' v.val) l = (column t.arr e.val (64 * h.val + l) (now s + 1)).1) ∧
      (∀ k < 4, (vreg t' v.val).poison.getD k false = true ↔
        ∃ j < 16, (column t.arr e.val (64 * h.val + 16 * k + j) (now s + 1)).2 = true) ∧
      (Settled t.arr e.val → t'.arr =
        if clear then { t.arr with ops := t.arr.ops ++ [.clear (now s) e.val h.val] } else t.arr) ∧
      (∀ r, r ≠ v.val → vreg t' r = vreg t r) ∧
      t' = { t with v := t'.v,
                    arr := { t.arr with acc := t'.arr.acc, accPoison := t'.arr.accPoison, ops := t'.arr.ops } }) ∧
    Completes (.mskl i v) i g noEvent noEvent (fun s t t' => ∃ m,
      (∀ b < 256, m.testBit b = (lane (vreg t v.val) (b / 32)).getLsbD (b % 32)) ∧
      t' = { t with arr := { t.arr with
        str := t.arr.str ++ [.mskl (max (now s) t.arr.strFree) m (laneBad (vreg t v.val) 0)],
        strFree := max (now s) t.arr.strFree + 1 } }) ∧
    Completes (.mpre i f qp qs) i g noEvent noEvent (fun s t t' =>
      let start := max (max (now s) t.arr.preFree) t.arr.swapped
      t' = { t with arr := { t.arr with pre := t.arr.pre ++ [⟨f, qp.val, qs.map (·.val), start, [], []⟩],
                                        preFree := start + 64, loaded := start + 64 } }) ∧
    Completes (.mstr i f qa qs e n fresh swap mask) i g noEvent noEvent (fun s t t' =>
      let start := if swap then max (max (now s) t.arr.strFree) t.arr.loaded else max (now s) t.arr.strFree
      t' = { t with arr := { t.arr with
        str := t.arr.str ++ [.mstr ⟨f, qa, qs.map (·.val), e.val, n, fresh, swap, mask, start, 0, [], []⟩],
        strFree := start + n * (if noScale f then 2 else 1), swapped := if swap then start + 1 else t.arr.swapped } })

/-- The queues give these entries, one after the other: each stands at the head of its queue with the tag of the pop count, and
was written two cycles before or earlier (05 R126 R128). -/
def Sys2Proof.Claims.Given (now : Nat) : Tile → List Nat → List DEntry → Prop
  | _, [], [] => True
  | u, q :: qs, d :: ds =>
    let x := queueAt u q
    ∃ rest, x.entries = d :: rest ∧ d.tag = x.pop ∧ d.wrote + 2 ≤ now ∧
      Given now (setQueue u q { x with entries := rest, pop := (x.pop + 1) % 65536 }) qs ds
  | _, _, _ => False

/-- A tile without the entries that its queues gave. -/
def Sys2Proof.Claims.taken (u : Tile) (qs : List Nat) : Tile :=
  qs.foldl (fun u q => let x := queueAt u q
    setQueue u q { x with entries := x.entries.drop 1, pop := (x.pop + 1) % 65536 }) u

/-- The columns of an accumulator entry: 64 for the 16-bit formats, whose columns take two of the array's (03 R68 R75). -/
def Sys2Proof.Claims.columns (f : Fmt) : Nat := if noScale f then 64 else 128

/-- The array cycle in which the vector presented in cycle t is written to a column: from the tenth cycle on, column after
column, and for the 16-bit formats every second cycle from the eleventh (03 R75 R78). -/
def Sys2Proof.Claims.writtenAt (t : Nat) (f : Fmt) (col : Nat) : Nat := t + if noScale f then 11 + 2 * (col % 64) else 10 + col

/-- The elements of row group k of a column of a weight tile: of a cell each row holds one, two or four, of 6 bits in rows of
96 bytes, with the scale of each block of 32 rows' elements (03 R69 R70 R71). -/
def Sys2Proof.Claims.weightGroup (w : WTile) (f : Fmt) (col k : Nat) : List FVal :=
  (List.range 16).flatMap (fun r => (List.range (cellElems f)).map (fun j =>
    elemVal f (packedElem (fmtWidth f) (leNat (slice w.cells (rowBytes f * (16 * k + r)) (rowBytes f)))
      (col * cellElems f + j))
      (if w.scaled then (w.scales.getD (2 * cellElems f * col + (cellElems f * (16 * k + r) + j) / 32) 0x7F).toNat else 0x7F)))

/-- The entries that hold the bytes of the vector in hand: four 6-bit vectors share three (03 R75). -/
def Sys2Proof.Claims.heldBy (m : MStr) : List (Option DEntry) :=
  if sixBit m.f then
    let j := m.done % 4
    (m.got.drop (48 * j / 64)).take ((48 * j + 47) / 64 + 1 - 48 * j / 64)
  else m.got

/-- Element k of row group g of the vector in hand, with `p` elements for a row and its scale (03 R70 R71 R75). -/
def Sys2Proof.Claims.activation (m : MStr) (p g k : Nat) : FVal :=
  let bytes := m.got.flatMap (fun x => match x with | some d => slice d.data 0 64 | none => List.replicate 64 0)
  let scales := m.sc.flatMap (fun x => match x with | some d => slice d.data 0 64 | none => List.replicate 64 0x7F)
  let mine := if sixBit m.f then slice bytes (48 * (m.done % 4)) 48 else bytes
  elemVal m.f (packedElem (fmtWidth m.f) (leNat mine) (16 * p * g + k))
    (if m.qs.isSome then (scales.getD ((16 * p * g + k) / 32) 0x7F).toNat else 0x7F)

/-- What stands at the head of the stream port: an MSTR whose vector in hand is presented in the present array cycle, or in
one before, and gets its last operands now. Nothing is on its way to the accumulator, and no error strikes. -/
structure Sys2Proof.Claims.Presents (c : Chip) (site : Nat) (m : MStr) (after : List StrCmd) (ds ss : List DEntry) : Prop where
  sound : c.flaws = []
  calm : c.err.inj = none
  still : (tileAt c site).arr.ops = []
  head : (tileAt c site).arr.str = .mstr m :: after
  due : presentAt m ≤ c.plan.cyc - (tileAt c site).lag
  given : Given c.plan.cyc (tileAt c site) (dataQueues m (c.plan.cyc - (tileAt c site).lag) ++
    vecScaleQueues m (c.plan.cyc - (tileAt c site).lag)) (ds ++ ss)
  split : ds.length = (dataQueues m (c.plan.cyc - (tileAt c site).lag)).length
  whole : vecWhole { m with got := m.got ++ ds.map some, sc := m.sc ++ ss.map some } (c.plan.cyc - (tileAt c site).lag) = true
  found : ∀ x ∈ m.got ++ m.sc, x.isSome

/-- The first vector of an MSTR swaps: shadow and active registers change places before it (03 R74 R81). -/
def Sys2Proof.Claims.swapsNow (m : MStr) : Prop := m.swap = true ∧ m.done = 0 ∧ m.got = [] ∧ m.sc = []

/-- The stream port after the vector in hand: the MSTR stands there until its last; of a group of four 6-bit vectors the
entries taken stay (03 R75). -/
def Sys2Proof.Claims.portAfter (m v : MStr) : List StrCmd :=
  if m.done + 1 < m.n then
    [.mstr { m with done := m.done + 1, got := if sixBit m.f ∧ m.done % 4 ≠ 3 then v.got else [], sc := [] }] else []

/-- What a vector leaves beside the accumulator: the entries taken, the port, the swap, counts of the step. -/
def Sys2Proof.Claims.VectorLeaves (c d : Chip) (site : Nat) (m v : MStr) (after : List StrCmd) (u' : Tile) : Prop :=
  let u := tileAt c site
  let now := c.plan.cyc - u.lag
  d = { c with tiles := d.tiles, acc := { c.acc with counts := d.acc.counts } } ∧
  (∀ y, y ≠ site → tileAt d y = tileAt c y) ∧
  u' = { taken u (dataQueues m now ++ vecScaleQueues m now) with arr := { u.arr with
    active := u'.arr.active, shadow := u'.arr.shadow, str := portAfter m v ++ after, ops := u'.arr.ops } } ∧
  (swapsNow m → u'.arr.active = u.arr.shadow ∧ u'.arr.shadow = u.arr.active) ∧
  (¬swapsNow m → u'.arr.active = u.arr.active ∧ u'.arr.shadow = u.arr.shadow)

/-- 03 R68 R69 R70 R71 R74 R75 R77 R78 R81 R89 R91: the cycle in which an MSTR presents a valid vector, of any pairing,
scaled or not, masked or not. From the cycle of each column on the entry holds its value, or −0 with `fresh`, plus the four
group sums, each summed exactly and rounded, group after group; what its poison, the mask's and the weights' touch is
poisoned, of a 16-bit vector that is tainted the columns 64 to 127 too (log 34). The first vector of a swap meets the
weights preloaded. -/
def Sys2Proof.Claims.StreamVectors : Prop :=
  ∀ (c : Chip) (site : Nat) (m : MStr) (wf : Fmt) (after : List StrCmd) (ds ss : List DEntry),
    Presents c site m after ds ss →
    let u := tileAt c site
    let d := strCycle c site
    let u' := tileAt d site
    let v := { m with got := m.got ++ ds.map some, sc := m.sc ++ ss.map some }
    let e := (m.e + m.done) % 256
    let w := u'.arr.active
    let taint := (heldBy v ++ v.sc).any (fun x => match x with | some x => x.poison | none => false) ||
      (m.mask && u.arr.maskTaint)
    w.fmt = some wf → pairing (some wf) m.f m.qa = true → w.flips = [] → (m.mask = true → u.arr.mask.testBit m.done = true) →
    VectorLeaves c d site m v after u' ∧
    Counts c d (key 0x3030 1) 1 [key 0x3030 5] ∧
    ∀ y col n, col < 128 →
      let old := column u.arr y col n
      let passed := y = e ∧ writtenAt (presentAt m) m.f col < n
      (column u'.arr y col n).1 = (if passed ∧ col < columns m.f then
        (List.range 4).foldl (fun acc k =>
          (addVal (ieee c) (f32 acc) (f32 (valF32 (ieee c) (groupSum (weightGroup w wf col k)
            ((List.range (16 * cellElems wf)).map (activation v (cellElems wf) k)))).1)).1)
          (if m.fresh then 0x80000000 else old.1) else old.1) ∧
      ((column u'.arr y col n).2 = true ↔
        ((passed ∧ m.fresh = true ∧ col < columns m.f) → False) ∧ old.2 = true ∨
          passed ∧ (taint = true ∨ w.bad.contains (col / 16) = true))

/-- 03 R77 R83: what forms no product. A vector that the mask leaves out adds nothing, and starts a fresh entry from −0; it
counts in 3030h:02, its gated cells in 3030h:05. An 8-bit vector whose entry is missing does the same to its entry and
poisons it; it counts in 3030h:03 and 3050h:02, its gated cells in 3030h:05, and the tag of the entry is passed. -/
def Sys2Proof.Claims.StreamBubbles : Prop :=
  ∀ (c : Chip) (site : Nat) (m : MStr) (after : List StrCmd) (ds ss : List DEntry),
    let u := tileAt c site
    let d := strCycle c site
    let u' := tileAt d site
    let e := (m.e + m.done) % 256
    let v := { m with got := m.got ++ ds.map some, sc := m.sc ++ ss.map some }
    let gated := if noScale m.f then 16384 else 8192
    let column' := fun (y col n : Nat) (bad : Bool) =>
      let old := column u.arr y col n
      let passed := y = e ∧ writtenAt (presentAt m) m.f col < n
      (column u'.arr y col n).1 = (if passed ∧ m.fresh = true ∧ col < columns m.f then 0x80000000 else old.1) ∧
      ((column u'.arr y col n).2 = true ↔
        ((passed ∧ m.fresh = true ∧ col < columns m.f) → False) ∧ old.2 = true ∨ passed ∧ bad = true)
    (Presents c site m after ds ss → m.mask = true → u.arr.mask.testBit m.done = false →
      VectorLeaves c d site m v after u' ∧
      Counts c d (key 0x3030 2) 1 [key 0x3030 5] ∧ Counts c d (key 0x3030 5) gated [key 0x3030 2] ∧
      ∀ y col n, col < 128 → column' y col n (m.fresh && (u.arr.maskTaint || (heldBy v ++ v.sc).any (fun x => match x with
        | some x => x.poison
        | none => false)))) ∧
    (∀ q : Fin 8, c.flaws = [] → c.err.inj = none → u.arr.ops = [] → u.arr.str = .mstr m :: after →
      presentAt m ≤ c.plan.cyc - u.lag → fmtWidth m.f = 8 → m.qa = .one q → m.qs = none → m.got = [] → m.sc = [] →
      u.stalled = [] → (queueAt u q.val).entries = [] →
      Counts c d (key 0x3030 3) 1 [key 0x3030 5, key 0x3050 2] ∧ Counts c d (key 0x3050 2) 1 [key 0x3030 5, key 0x3030 3] ∧
      Counts c d (key 0x3030 5) gated [key 0x3030 3, key 0x3050 2] ∧
      queueAt u' q.val = { queueAt u q.val with pop := ((queueAt u q.val).pop + 1) % 65536 } ∧
      (9, site) ∈ d.acc.reported ∧ u'.arr.str = portAfter m m ++ after ∧
      ∀ y col n, col < 128 → column' y col n true)

/-- 03 R69 R70 R74 R81: a preload takes the entries of its rows as the 64 rows need them, alternately from its pair, in each
array cycle those of one row; in the cycle after the last its scale entries (log 3), and the tile it loads then stands in
the shadow registers, with the granules whose weights or scales came poisoned. -/
def Sys2Proof.Claims.PreloadLoads : Prop :=
  (∀ (c : Chip) (site : Nat) (p : PreCmd) (after : List PreCmd) (ds : List DEntry),
    let u := tileAt c site
    let k := c.plan.cyc - u.lag - p.start
    let before := (rowBytes p.f * k + 63) / 64
    let qs := (List.range ((rowBytes p.f * (k + 1) + 63) / 64 - before)).map (fun j => p.qp + (before + j) % 2)
    u.arr.pre = p :: after → p.start ≤ c.plan.cyc - u.lag → k < 64 → p.rows.length = before → Given c.plan.cyc u qs ds →
    ds.length = qs.length ∧ preCycle c site = { c with tiles := (preCycle c site).tiles } ∧
    tileAt (preCycle c site) site = { taken u qs with arr := { u.arr with
      pre := { p with rows := p.rows ++ ds.map some } :: after } } ∧
    ∀ y, y ≠ site → tileAt (preCycle c site) y = tileAt c y) ∧
  ∀ (c : Chip) (site : Nat) (p : PreCmd) (after : List PreCmd) (rows ds : List DEntry),
    let u := tileAt c site
    let qs := match p.qs with
      | some q => if noScale p.f then [] else List.replicate (4 * cellElems p.f) q
      | none => []
    u.arr.pre = p :: after → p.start + 64 ≤ c.plan.cyc - u.lag → p.rows = rows.map some → rows.length = rowBytes p.f →
    p.scs = [] → Given c.plan.cyc u qs ds →
    let d := preDone c site
    let w := (tileAt d site).arr.shadow
    d = { c with tiles := d.tiles } ∧ (∀ y, y ≠ site → tileAt d y = tileAt c y) ∧
    tileAt d site = { taken u qs with arr := { u.arr with pre := after, shadow := w } } ∧
    w.fmt = some p.f ∧ w.cells = rows.flatMap (fun x => slice x.data 0 64) ∧ w.scales = ds.flatMap (fun x => slice x.data 0 64) ∧
    w.scaled = p.qs.isSome ∧ w.flips = [] ∧
    ∀ g, w.bad.contains g = true ↔ g < 8 ∧ ∃ col, col / 16 = g ∧ col < columns p.f ∧
      ((∃ r < 64, ∃ x, (rows[x]?).any (·.poison) = true ∧
        8 * (64 * x) < 8 * rowBytes p.f * r + (col + 1) * (cellElems p.f * fmtWidth p.f) ∧
        8 * rowBytes p.f * r + col * (cellElems p.f * fmtWidth p.f) < 8 * (64 * x) + 512) ∨
      ∃ x, (ds[x]?).any (·.poison) = true ∧ 2 * cellElems p.f * col / 64 = x)

/-- What the array does with the entries of its queues (03): preloads, vectors, bubbles. -/
def Obligations.StreamedVectors : Prop := StreamVectors ∧ StreamBubbles ∧ PreloadLoads

/-! ## Issue (05 R120 R124, 03 R84) -/

/-- 03 R84, 05 R129 R147: in elastic stall mode an execute instruction that reaches a frozen or lagging tile waits in its
execute buffer, with the cycle of its broadcast. Each cycle that a tile stays frozen its lag grows by one, counted in
3030h:04, and each entry that it begins to stall for counts in 3050h:02 (log 36); nothing else of it changes. In a cycle in
which the broadcast carries nothing a lagging tile catches up: one in which nothing waits or moves only loses a cycle of its
lag (log 36). -/
def Sys2Proof.Claims.ElasticWait : Prop :=
  (∀ (x : Instr) (i : Issue) (s : State), issueOf x = some (i, true) → Issues s i true x →
    (∀ site ∈ issueSites s.chip i, ¬Ready s.chip site) →
    Answers x s (fun t =>
      OnlyTiles s t i true x ∧ t.chip.acc = s.chip.acc ∧
      ∀ site ∈ issueSites s.chip i,
        let u := tileAt s.chip site
        tileAt t.chip site = { u with buf := u.buf ++ [(s.chip.plan.cyc, x)] })) ∧
  ∀ (c : Chip) (site : Nat) (heard : Bool),
    let u := tileAt c site
    let d := tileCycle heard c site
    (frozen c u = true →
      let new := (starvedOf c u).diff u.stalled
      tileAt d site = { u with lag := u.lag + 1, stalled := u.stalled ++ new } ∧
      (∀ y, y ≠ site → tileAt d y = tileAt c y) ∧
      Counts c d (key 0x3030 4) 1 [key 0x3050 2] ∧ Counts c d (key 0x3050 2) new.length [key 0x3030 4] ∧
      (new ≠ [] → (2, site) ∈ d.acc.reported) ∧
      d = { c with tiles := d.tiles, acc := { c.acc with counts := d.acc.counts, reported := d.acc.reported }, err := d.err }) ∧
    (u.lag ≠ 0 → { u with lag := 0, stalled := [] }.still = true →
      d = { c with tiles := d.tiles } ∧ (∀ y, y ≠ site → tileAt d y = tileAt c y) ∧
      tileAt d site = { u with lag := if heard then u.lag else u.lag - 1, stalled := [] })

/-- 05 R120 R124 R136 R139: where a program of a die may not issue, or the step is over, an instruction of it changes nothing,
in the execute stream and in the access stream. One that a hold keeps beyond the step keeps its whole program from issuing
in it (log 3). An instruction whose operands lie outside their bounds is none. -/
def Sys2Proof.Claims.IssueGate : Prop :=
  ∀ (x : Instr) (i : Issue) (exe : Bool) (s : State), streamOf x = some (i, exe) →
    (x.wf = false → exec x s = .refused .illFormed) ∧
    (x.wf = true → Quiet s → s.chip.plan.cyc0 + countCycle s.chip ≤ s.chip.plan.cyc →
      ((mayIssue s.chip i.die.val exe = false ∨ stepEnd s.chip ≤ s.chip.plan.cyc) → exec x s = .next s) ∧
      (mayIssue s.chip i.die.val exe = true → s.chip.plan.cyc < stepEnd s.chip → stepEnd s.chip ≤ issueCycle s.chip i exe x →
        Answers x s (fun t => t = { s with chip := { s.chip with seqs := t.chip.seqs } } ∧
          mayIssue t.chip i.die.val exe = false ∧ (∀ d, d ≠ i.die.val → seqAt t.chip d = seqAt s.chip d) ∧
          seqAt t.chip i.die.val = (if exe then { seqAt s.chip i.die.val with pastX := true }
            else { seqAt s.chip i.die.val with pastA := true }))))

/-! ## The access stream (05, 07) -/

/-- A line number of the tile store, with no stored error in the line (05 R130, 07 R186). -/
def Sys2Proof.Claims.LineClean (c : Chip) (site : Nat) (x : Int) : Prop :=
  0 ≤ x ∧ x < 49152 ∧ smGet EccMark.none c.ecc (lineAddr site x.toNat / 64) = EccMark.none

/-- The 64 bytes of a tile-store line. -/
def Sys2Proof.Claims.lineBytes (c : Chip) (site : Nat) (x : Int) : List Byte := memBytes c.mem (lineAddr site x.toNat) 64

/-- A tile-store line is poisoned. -/
def Sys2Proof.Claims.lineBad (c : Chip) (site : Nat) (x : Int) : Bool := granPoison c (lineAddr site x.toNat)

/-- The value of a line operand in a tile: base + TI·sT + c0·s0 + … + c3·s3 + bp (05 R130). -/
def Sys2Proof.Claims.operand (c : Chip) (i : Issue) (site : Nat) (a : LineAddr) : Int :=
  a.base + ((tileAt c site).ti : Int) * a.sT + (i.c0 : Int) * a.s0 + (i.c1 : Int) * a.s1 + (i.c2 : Int) * a.s2 +
    (i.c3 : Int) * a.s3 + (match a.bp with | some j => (BitVec.ofNat 32 (c.plan.params.getD j.val 0)).toInt | none => 0)

/-- An access instruction begins: one act more, of n lines, the first of which meets its bank `lead` cycles after the issue,
with what `tile` gives for each tile that issues, in ascending order of the logical tiles; the bank of line 0 is the same in
every tile (05 R130 R131 R133, 07 R196). -/
def Sys2Proof.Claims.Begins (x : Instr) (i : Issue) (n lead : State → Nat) (tile : State → Nat → ActTile) : Prop :=
  ∀ s, Issues s i false x → x.wf = true → 0 < n s → Answers x s (fun t => ∃ us b,
    t = { s with chip := { s.chip with
      seqs := (noteIssue s.chip i false x).seqs,
      acts := s.chip.acts ++ [⟨i.die.val, x, s.chip.plan.cyc, s.chip.plan.step, 0, 0, n s, b, lead s, us⟩] } } ∧
    us.Perm ((issueSites s.chip i).map (tile s)) ∧ us.Pairwise (fun u v => u.ti ≤ v.ti) ∧
    ∀ u ∈ us, (b : Int) = u.line % 16)

/-- A tile of an act: the tile-store line and the other line of its operands, with nothing held. -/
def Sys2Proof.Claims.actAt (i : Issue) (line other : LineAddr) (s : State) (site : Nat) : ActTile :=
  ⟨site, (tileAt s.chip site).ti, operand s.chip i site line, operand s.chip i site other, [], []⟩

/-- The operand of an instruction that names no line. -/
def Sys2Proof.Claims.nowhere : LineAddr := ⟨0, 0, 0, 0, 0, 0, none⟩

/-- No error strikes, and no injection is armed. -/
structure Sys2Proof.Claims.Calm (c : Chip) : Prop where
  sound : c.flaws = []
  calm : c.err.inj = none

/-- Of the chip only one granule of memory changes: it takes a line with its poison, and is stored without error. -/
def Sys2Proof.Claims.StoresLine (c d : Chip) (addr : Nat) (data : List Byte) (bad : Bool) : Prop :=
  memBytes d.mem addr 64 = data ∧ granPoison d addr = bad ∧
    smGet EccMark.none d.ecc (addr / 64) = EccMark.none ∧
    (∀ a, a / 64 ≠ addr / 64 → memByte d.mem a = memByte c.mem a) ∧
    (∀ g, g ≠ addr / 64 → nsMem d.poison g = nsMem c.poison g ∧
      smGet EccMark.none d.ecc g = smGet EccMark.none c.ecc g ∧ nsMem d.wbDue g = nsMem c.wbDue g) ∧
    d = { c with mem := d.mem, poison := d.poison, ecc := d.ecc, wbDue := d.wbDue }

/-- Line k of an instruction in a tile does this in its cycle. -/
def Sys2Proof.Claims.Moves (x : Instr) (k : Nat) (c : Chip) (u : ActTile) (P : Chip → ActTile → Prop) : Prop :=
  P (moveLine x k c u).1 (moveLine x k c u).2

/-- What lands in a queue in a cycle (05 R126 R128): the entry takes the push count as its tag and stands behind the others;
one that finds 32 entries is lost, one whose tag the pop count has passed is discarded, each counted. -/
def Sys2Proof.Claims.EntryLands : Prop :=
  ∀ (c : Chip) (site q : Nat) (d : List Byte) (p : Bool),
    let x := queueAt (tileAt c site) q
    let r := landEntry c (.entry site q d p)
    (∀ k, k ≠ q → queueAt (tileAt r site) k = queueAt (tileAt c site) k) ∧ (∀ y, y ≠ site → tileAt r y = tileAt c y) ∧
    (x.entries.length < 32 → serialLt x.push x.pop = false → r = { c with tiles := r.tiles } ∧
      queueAt (tileAt r site) q =
        { x with push := (x.push + 1) % 65536, entries := x.entries ++ [⟨x.push, c.plan.cyc, d, p⟩] }) ∧
    (32 ≤ x.entries.length → queueAt (tileAt r site) q = { x with push := (x.push + 1) % 65536 } ∧
      smGet 0 r.acc.counts (key 0x3050 1) = smGet 0 c.acc.counts (key 0x3050 1) + 1) ∧
    (x.entries.length < 32 → serialLt x.push x.pop = true → queueAt (tileAt r site) q = { x with push := (x.push + 1) % 65536 } ∧
      smGet 0 r.acc.counts (key 0x3050 3) = smGet 0 c.acc.counts (key 0x3050 3) + 1)

/-- 05 R126 R128 R130 R131: TQL sends n lines to a queue, TQP alternately to a pair, the even queue first, BPQ sixteen
boundary parameters as one entry; a line is read in the cycle of its bank and its entry written, with the line's poison, in
the next (`EntryLands`). -/
def Obligations.QueueLoads : Prop :=
  EntryLands ∧
  ∀ (i : Issue) (q qp : Fin 8) (j : Fin 4) (src : LineAddr) (n : Nat),
    Begins (.tql i q src n) i (fun _ => n) (fun _ => 1) (actAt i src nowhere) ∧
    Begins (.tqp i qp src n) i (fun _ => n) (fun _ => 1) (actAt i src nowhere) ∧
    Begins (.bpq i q j) i (fun _ => 1) (fun _ => 1) (fun s site => { actAt i nowhere nowhere s site with
      held := [((List.range 16).flatMap (fun k => leBytes 4 (s.chip.plan.params.getD (16 * j.val + k) 0)), false)] }) ∧
    ∀ (c : Chip) (u : ActTile) (k : Nat), Calm c →
      let sent := fun (p : Nat) (e : List Byte × Bool) (x : Instr) => Moves x k c u (fun d v => v = u ∧
        d = { c with flying := c.flying ++ [⟨c.plan.cyc + 1, .entry u.site p e.1 e.2⟩] })
      (LineClean c u.site (u.line + k) →
        sent q.val (lineBytes c u.site (u.line + k), lineBad c u.site (u.line + k)) (.tql i q src n) ∧
        sent (qp.val + k % 2) (lineBytes c u.site (u.line + k), lineBad c u.site (u.line + k)) (.tqp i qp src n)) ∧
      (∀ e l, u.held = e :: l → sent q.val e (.bpq i q j))

/-- 05 R129 R131: QTS reads an entry in each cycle from its issue on and writes it a cycle later to a tile-store line; a
missing entry is written as 64 zero bytes, poisoned, and counted in 3050h:02. -/
def Obligations.QueueStores : Prop :=
  ∀ (i : Issue) (q : Fin 8) (dst : LineAddr) (n : Nat),
    Begins (.qts i dst q n) i (fun _ => n) (fun _ => 1) (actAt i dst nowhere) ∧
    (∀ (a : Act) (c : Chip) (u : ActTile), a.x = .qts i dst q n →
      let j := a.k + u.held.length
      let x := queueAt (tileAt c u.site) q.val
      let r := queueStage a c u
      (a.n ≤ j ∨ c.plan.cyc < a.s + j + a.slip → r = (c, u)) ∧
      (j < a.n → a.s + j + a.slip ≤ c.plan.cyc →
        (∀ e rest, x.entries = e :: rest → e.tag = x.pop → e.wrote + 2 ≤ c.plan.cyc →
          r.2 = { u with held := u.held ++ [(slice e.data 0 64, e.poison)] } ∧ r.1 = { c with tiles := r.1.tiles } ∧
          queueAt (tileAt r.1 u.site) q.val = { x with entries := rest, pop := (x.pop + 1) % 65536 }) ∧
        (x.entries = [] → r.2 = { u with held := u.held ++ [(List.replicate 64 0, true)] } ∧
          smGet 0 r.1.acc.counts (key 0x3050 2) = smGet 0 c.acc.counts (key 0x3050 2) + 1 ∧
          queueAt (tileAt r.1 u.site) q.val = { x with pop := (x.pop + 1) % 65536 }))) ∧
    (∀ (c : Chip) (u : ActTile) (k : Nat) (e : List Byte × Bool) (l : List (List Byte × Bool)), Calm c → u.held = e :: l →
      0 ≤ u.line + k → u.line + k < 49152 → Moves (.qts i dst q n) k c u (fun d v =>
        v = { u with held := l } ∧ StoresLine c d (lineAddr u.site (u.line + k).toNat) (slice e.1 0 64) e.2))

/-- The address of an operand cache line, modulo 4,096 (04 R108). -/
def Sys2Proof.Claims.cached (u : ActTile) (k : Nat) : Nat := wordAddr u.site (16 * ((u.other + k) % 4096).toNat)

/-- 04 R108: OCFL, OCWB and OCZR move 64-byte lines with their poison between tile store and operand cache, whose
line is taken modulo 4,096. -/
def Obligations.CacheLines : Prop :=
  ∀ (i : Issue) (oc ts : LineAddr) (n : Nat),
    Begins (.ocfl i oc ts n) i (fun _ => n) (fun _ => 1) (actAt i ts oc) ∧
    Begins (.ocwb i oc ts n) i (fun _ => n) (fun _ => 1) (actAt i ts oc) ∧
    Begins (.oczr i oc n) i (fun _ => n) (fun _ => 1) (actAt i nowhere oc) ∧
    ∀ (c : Chip) (u : ActTile) (k : Nat), Calm c →
      (LineClean c u.site (u.line + k) → Moves (.ocfl i oc ts n) k c u (fun d v => v = u ∧
        StoresLine c d (cached u k) (lineBytes c u.site (u.line + k)) (lineBad c u.site (u.line + k)))) ∧
      (0 ≤ u.line + k → u.line + k < 49152 → smGet EccMark.none c.ecc (cached u k / 64) = EccMark.none →
        Moves (.ocwb i oc ts n) k c u (fun d v => v = u ∧
          StoresLine c d (lineAddr u.site (u.line + k).toNat) (memBytes c.mem (cached u k) 64) (granPoison c (cached u k)))) ∧
      Moves (.oczr i oc n) k c u (fun d v => v = u ∧ StoresLine c d (cached u k) (List.replicate 64 0) false)

/-- The latency L of a tier in core cycles: 64 pairs of ticks for HBM, 160 for the others (07 R195). -/
def Sys2Proof.Claims.latencyOf (c : Chip) (hbm : Bool) : Nat := (if hbm then 64 else 160) * ccNow c

/-- A line of an HBM or MRDIMM region that is not a KV pool: in range, whole granules below the tile windows, no
stored error (06 R160, 07 R199). -/
structure Sys2Proof.Claims.PlainLine (c : Chip) (n : Nat) (r : Region) (l : Int) : Prop where
  region : regionOf c n = some r
  tier : r.tier ≠ 2
  low : 0 ≤ l
  high : l < (r.size / 64 : Nat)
  whole : regionAddr c r l.toNat % 64 = 0
  outside : regionAddr c r l.toNat < 0x30000000000
  clean : smGet EccMark.none c.ecc (regionAddr c r l.toNat / 64) = EccMark.none

/-- The module address of line m of a weight copy: 4 KiB of it go to each of the eight stacks or channels in turn, at the
copy's offset in the weight store, which is the top of each quarter of a stack, or of a channel's fitted memory (09 R281). -/
def Sys2Proof.Claims.copyAddr (c : Chip) (x : WCopy) (m : Nat) : Nat :=
  let unit := m / 64 % 8
  let w := x.off + 4096 * (m / 512) + 64 * (m % 64)
  let r := reg c (key 0x4000 1) / 4
  if x.tier = 0 then unit * 0x1400000000 + (w / r * 0x500000000 + (0x500000000 - r) + w % r)
  else 0x10000000000 + unit * 0x4000000000 + (reg c (key 0x4010 (unit + 1)) - reg c (key 0x4000 2) + w)

/-- 09 R292: a line of a weight view: its upper part selects the Live copy or the Draining one, which is absent where no Live
copy stands; what is absent reads as 64 zero bytes, not poisoned, counted in 7040h:06; beyond the copy or the selectors it is
out of range, and no line is written through a view. -/
def Sys2Proof.Claims.ViewLines : Prop :=
  ∀ (c : Chip) (e site : Nat) (l : Int) (late : Bool),
    let m := (l % 1073741824).toNat
    let live := copyIn (wentry c e) .live
    let within := fun (x : WCopy) => if 64 * m < x.len then LineAt.at [copyAddr c x m] none else .out
    (l < 0 ∨ 2147483648 ≤ l → lineAt c (.view e) l = .out) ∧
    (0 ≤ l → l < 2147483648 →
      (live = none → lineAt c (.view e) l = .absent) ∧
      (∀ x, live = some x → l < 1073741824 → lineAt c (.view e) l = within x) ∧
      (∀ x, live = some x → 1073741824 ≤ l → lineAt c (.view e) l = match copyIn (wentry c e) .draining with
        | none => .absent
        | some y => within y)) ∧
    storeAt c (.view e) l = .out ∧
    let r := loadLine c site .absent late
    r.2 = (List.replicate 64 0, false) ∧ Counts c r.1 (key 0x7040 6) 1 [] ∧
      r.1 = { c with acc := { c.acc with counts := r.1.acc.counts } }

/-- The address of line o of a page of a pool: in its frame while it is resident, else in its slot (07 R208 R209). -/
def Sys2Proof.Claims.residence (c : Chip) (r : Region) (page o : Nat) : Nat :=
  match (pageAt (poolAt c r.num) page).frame with
  | some f => frameAddr c r.num f o
  | none => slotAddr c r.num (1024 * page + o)

/-- What a scheduled line does to its page: it counts, saturating, and a line read from the slot counts in 4021h:05 (07 R208
R209). -/
def Sys2Proof.Claims.PageCounts (c d : Chip) (r : Region) (page : Nat) : Prop :=
  (pageAt (poolAt d r.num) page).count = min 65535 ((pageAt (poolAt c r.num) page).count + 1) ∧
  (pageAt (poolAt d r.num) page).frame = (pageAt (poolAt c r.num) page).frame ∧
  (∀ k, k ≠ page → pageAt (poolAt d r.num) k = pageAt (poolAt c r.num) k) ∧ ∀ n, n ≠ r.num → poolAt d n = poolAt c n

/-- 08 R235 R236, 07 R208 R209: a line of a KV pool while serving is enabled: the session, page and line it names. Where the
session is free or the page is not allocated it reads as 64 zero bytes, counted in 6050h:0F; a write there, or to a page that
sessions share, is discarded, counted in 6050h:10 and reported, each one. Else it is read and written where its page lies. -/
def Sys2Proof.Claims.PoolLines : Prop :=
  ∀ (c : Chip) (n p site l : Nat) (r : Region) (d : List Byte) (bad : Bool), Calm c →
    regionOf c n = some r → r.tier = 2 → r.num = n → poolOf c r = some p → l < 4294967296 →
    let s := 1024 * r.home + l / 4194304
    let page := if (sessAt c s).st = 0 then none else kvPage c r.home p s (l / 1024 % 4096)
    let w := lineAt c (.region n) l
    let x := loadLine c site w false
    let y := storeLine c site w none d bad false
    let discarded := Counts c y (key 0x6050 16) 1 [] ∧ y.mem = c.mem ∧ y.poison = c.poison ∧ y.pools = c.pools ∧
      ∃ o, y.err.pend = c.err.pend ++ [o] ∧ o.code = 0x0701 ∧ o.detail = [1, s % 4294967296]
    (page = none → x.2 = (List.replicate 64 0, false) ∧ Counts c x.1 (key 0x6050 15) 1 [] ∧ x.1.mem = c.mem ∧ discarded) ∧
    ∀ g, page = some g → (∀ f ∈ (poolAt c n).flights, f.page ≠ g) →
      let a := residence c r g (l % 1024)
      let slot := (pageAt (poolAt c n) g).frame.isNone
      (smGet EccMark.none c.ecc (a / 64) = EccMark.none →
        x.2 = (memBytes c.mem a 64, granPoison c a) ∧ x.1.mem = c.mem ∧ PageCounts c x.1 r g ∧
        Counts c x.1 (key 0x4021 5) (if slot then 1 else 0) []) ∧
      (1 < pageRefs c p g → discarded) ∧
      (pageRefs c p g ≤ 1 → a % 64 = 0 → (∀ z ∈ c.late, False) →
        memBytes y.mem a 64 = slice d 0 64 ∧ granPoison y a = bad ∧
        (∀ b, b / 64 ≠ a / 64 → memByte y.mem b = memByte c.mem b) ∧ PageCounts c y r g ∧
        ((pageAt (poolAt y n) g).dirty = true ↔ (pageAt (poolAt c n) g).dirty = true ∨ slot = false))

/-- 05 R130 R147: a tile-store line or a region line out of range reads as 64 zero bytes, poisoned, and is not written; each
is counted in 3050h:06 and reported once for the tile and step. -/
def Sys2Proof.Claims.LinesOut : Prop :=
  ∀ (c : Chip) (site m : Nat) (l : Int) (d : List Byte) (bad late : Bool) (cmd : Option (Nat × Nat)),
    let fault := fun (e : Chip) => Counts c e (key 0x3050 6) 1 [] ∧ (6, site) ∈ e.acc.reported ∧
      e = { c with acc := { c.acc with counts := e.acc.counts, reported := e.acc.reported }, err := e.err }
    ((l < 0 ∨ 49152 ≤ l) → (readLine c site l).2 = (List.replicate 64 0, true) ∧ fault (readLine c site l).1 ∧
      fault (writeLine c site l d bad)) ∧
    (∀ r, regionOf c m = some r → (r.tier ≠ 2 ∨ poolOf c r = none) → (l < 0 ∨ (r.size / 64 : Nat) ≤ l) →
      lineAt c (.region m) l = .out) ∧
    (loadLine c site .out late).2 = (List.replicate 64 0, true) ∧ fault (loadLine c site .out late).1 ∧
      fault (storeLine c site .out cmd d bad late)

/-- 07 R195 R196 R198: MLD reads each line of a region in its memory cycle, 41 cycles after the issue and on, and writes it to
the tile store the tier's latency after the issue; MST reads a tile-store line in the cycle of its bank and writes it to the
region 40 cycles later. A line that the tier misses comes as 64 zero bytes, poisoned, and one to be written waits for its
tier; each is counted. Writes of a stack or channel are performed in the order of their memory points. -/
def Sys2Proof.Claims.PlainLines : Prop :=
  ∀ (i : Issue) (a off : LineAddr) (m : Nat) (n : Nat) (late : List Nat),
    (∀ s r, Issues s i false (.mld i a (.region m) off n late) → (Instr.mld i a (.region m) off n late).wf = true →
      regionOf s.chip m = some r → Answers (.mld i a (.region m) off n late) s (fun t => ∃ us b,
        t = { s with chip := { s.chip with
          seqs := (noteIssue s.chip i false (.mld i a (.region m) off n late)).seqs,
          acts := s.chip.acts ++ [⟨i.die.val, .mld i a (.region m) off n late, s.chip.plan.cyc, s.chip.plan.step, 0, 0, n, b,
            latencyOf s.chip (decide (r.tier = 0)), us⟩] } } ∧
        us.Perm ((issueSites s.chip i).map (fun site => { actAt i a off s site with
          target := (List.range n).map (fun k => (lineAt s.chip (.region m) (operand s.chip i site off + (k : Nat)), none)) })) ∧
        us.Pairwise (fun u v => u.ti ≤ v.ti) ∧ ∀ u ∈ us, (b : Int) = u.line % 16)) ∧
    Begins (.mst i (.region m) off a n late) i (fun _ => n) (fun _ => 1) (fun s site => { actAt i a off s site with
      target := (List.range n).map (fun k => (lineAt s.chip (.region m) (operand s.chip i site off + (k : Nat)),
        cmdLine s.chip (.region m) (operand s.chip i site off + (k : Nat)))) }) ∧
    (∀ (c : Chip) (r : Region) (l : Int), PlainLine c m r l →
      lineAt c (.region m) l = .at [regionAddr c r l.toNat] none) ∧
    (∀ (c : Chip) (act : Act) (u : ActTile) (k addr : Nat), Calm c → act.x = .mld i a (.region m) off n late →
      c.plan.cyc = act.s + 41 + k → k < act.n → (∃ w, u.target[k]? = some (.at [addr] none, w)) → addr % 64 = 0 →
      smGet EccMark.none c.ecc (addr / 64) = EccMark.none →
      let r := memoryStage act c u
      (late.contains k = false → r = (c, { u with held := u.held ++ [(memBytes c.mem addr 64, granPoison c addr)] })) ∧
      (late.contains k = true → r.2 = { u with held := u.held ++ [(List.replicate 64 0, true)] } ∧ r.1.mem = c.mem ∧
        smGet 0 r.1.acc.counts (key 0x4032 1) = smGet 0 c.acc.counts (key 0x4032 1) + 1)) ∧
    (∀ (c : Chip) (u : ActTile) (k : Nat), Calm c →
      (∀ e l, u.held = e :: l → 0 ≤ u.line + k → u.line + k < 49152 →
        Moves (.mld i a (.region m) off n late) k c u (fun d v =>
          v = { u with held := l } ∧ StoresLine c d (lineAddr u.site (u.line + k).toNat) (slice e.1 0 64) e.2)) ∧
      (∀ w, u.target[k]? = some w → LineClean c u.site (u.line + k) →
        Moves (.mst i (.region m) off a n late) k c u (fun d v => v = u ∧
          d = { c with flying := c.flying ++ [⟨c.plan.cyc + 40, .region u.site u.ti w.1 w.2
            (lineBytes c u.site (u.line + k)) (lineBad c u.site (u.line + k)) (late.contains k)⟩] }))) ∧
    (∀ (c : Chip) (site ti addr : Nat) (d : List Byte) (p : Bool), Calm c → addr % 64 = 0 →
      (∀ j ∈ c.srv.job, j = none) → c.srv.snap = none →
      let lands := fun (late : Bool) => landRegion c (.region site ti (.at [addr] none) none d p late)
      ((∀ x ∈ c.late, x.unit ≠ unitOf addr) → StoresLine c (lands false) addr (slice d 0 64) p) ∧
      (∀ addr' d' p', addr' % 64 = 0 → addr' ≠ addr → c.late = [⟨unitOf addr, [addr'], none, d', p', none⟩] →
        (lands false).late = [] ∧ memBytes (lands false).mem addr' 64 = slice d' 0 64 ∧ granPoison (lands false) addr' = p' ∧
        memBytes (lands false).mem addr 64 = slice d 0 64 ∧ granPoison (lands false) addr = p) ∧
      (lands true).mem = c.mem ∧ (lands true).late = c.late ++ [⟨unitOf addr, [addr], none, d, p, none⟩] ∧
      smGet 0 (lands true).acc.counts (key 0x4032 2) = smGet 0 c.acc.counts (key 0x4032 2) + 1)

/-- 05 R130 R131, 07 R195 R196 R198 R208 R209, 08 R235 R236, 09 R292: the lines that MLD and MST name, of plain regions, KV
pools and weight views, in range and out of it. -/
def Obligations.RegionLines : Prop := PlainLines ∧ PoolLines ∧ ViewLines ∧ LinesOut

/-- A line at a stop. -/
def Sys2Proof.Claims.atStopFrom (now site src : Nat) (f : Flying) : Prop :=
  f.cycle ≤ now ∧ ∃ d p, f.what = .stop site src d p

/-- 05 R131 R132 R134: MVT reads a line in the cycle of its bank and it reaches the stop of the tile named 15 cycles later,
39 where that tile is on another die; MRX writes the oldest line of the source it names that waits at its stop in the
cycle, and where none waits 64 zero bytes, poisoned, counted in 3050h:05. -/
def Obligations.TileMoves : Prop :=
  ∀ (i : Issue) (tr : TileRef) (dst src : LineAddr) (n : Nat),
    Begins (.mvt i tr dst src n) i (fun _ => n) (fun _ => 1) (fun s site =>
      { actAt i src nowhere s site with other := tileNum s.chip (tileAt s.chip site) tr }) ∧
    Begins (.mrx i tr dst n) i (fun _ => n) (fun _ => 0) (fun s site =>
      { actAt i dst nowhere s site with other := tileNum s.chip (tileAt s.chip site) tr }) ∧
    ∀ (c : Chip) (u : ActTile) (k m to' : Nat), Calm c → u.other = m →
      (siteOf c m = some to' → LineClean c u.site (u.line + k) →
        Moves (.mvt i tr dst src n) k c u (fun d v => v = u ∧
          d = { c with flying := c.flying ++ [⟨c.plan.cyc + (if u.ti / planTpd c = m / planTpd c then 15 else 39),
            .stop to' u.ti (lineBytes c u.site (u.line + k)) (lineBad c u.site (u.line + k))⟩] })) ∧
      (0 ≤ u.line + k → u.line + k < 49152 →
        (∀ before f after x p, c.flying = before ++ f :: after → (∀ y ∈ before, ¬atStopFrom c.plan.cyc u.site m y) →
          f.cycle ≤ c.plan.cyc → f.what = .stop u.site m x p →
          Moves (.mrx i tr dst n) k c u (fun d v => v = u ∧
            StoresLine { c with flying := before ++ after } d (lineAddr u.site (u.line + k).toNat) (slice x 0 64) p)) ∧
        ((∀ y ∈ c.flying, ¬atStopFrom c.plan.cyc u.site m y) →
          Moves (.mrx i tr dst n) k c u (fun d v => v = u ∧
            lineBytes d u.site (u.line + k) = List.replicate 64 0 ∧ lineBad d u.site (u.line + k) = true ∧
            smGet 0 d.acc.counts (key 0x3050 5) = smGet 0 c.acc.counts (key 0x3050 5) + 1)))

/-- 05 R131 R134, 11 R340 R346, 12 R372 R376 R377: CSND reads four lines for each carriage of its coach, and the carriage
reaches the port of hop 1 39 cycles after the fourth, for its absolute slot; CRCV takes a carriage from the yard in every
fourth cycle, an empty place as zeros, poisoned, frees the place, and writes the lines 40 cycles later. -/
def Obligations.Coaches : Prop :=
  ∀ (i : Issue) (coach : Nat) (a : LineAddr) (row p : Nat) (r : CoachRow) (sr : SlotRec),
    (∀ s, sendRow s.chip coach = some (row, r) → 0 < r.k → Issues s i false (.csnd i coach a) → i.ok = true → a.ok = true →
      Answers (.csnd i coach a) s (fun t => ∃ us b, t = { s with chip := { s.chip with
        seqs := (noteIssue s.chip i false (.csnd i coach a)).seqs,
        acts := s.chip.acts ++ [⟨i.die.val, .csnd i coach a, s.chip.plan.cyc, s.chip.plan.step, 0, 0, 4 * r.k, b, 1, us⟩] } } ∧
        us.Perm ((issueSites s.chip i).map (fun site => { actAt i a nowhere s site with other := s.chip.plan.step })) ∧
        ∀ u ∈ us, (b : Int) = u.line % 16)) ∧
    (∀ s, recvRow s.chip coach = some (row, r) → 0 < r.k → Issues s i false (.crcv i coach a) → i.ok = true → a.ok = true →
      Answers (.crcv i coach a) s (fun t => ∃ us b, t = { s with chip := { s.chip with
        seqs := (noteIssue s.chip i false (.crcv i coach a)).seqs,
        acts := s.chip.acts ++ [⟨i.die.val, .crcv i coach a, s.chip.plan.cyc, s.chip.plan.step, 0, 0, 4 * r.k, b, 40, us⟩] } } ∧
        us.Perm ((issueSites s.chip i).map (actAt i a nowhere s)) ∧ ∀ u ∈ us, (b : Int) = u.line % 16)) ∧
    (∀ (c : Chip) (u : ActTile) (k step : Nat), Calm c → LineClean c u.site (u.line + k) → u.other = (step : Int) →
      let line := (lineBytes c u.site (u.line + k), lineBad c u.site (u.line + k))
      (k % 4 < 3 → Moves (.csnd i coach a) k c u (fun d v => d = c ∧ v = { u with held := u.held ++ [line] })) ∧
      (k % 4 = 3 → sendRow c coach = some (row, r) → hopPort c row 1 = some p → slotRec c row 1 = some sr →
        ∀ e₀ e₁ e₂ : List Byte × Bool, u.held = [e₀, e₁, e₂] →
        let step' := step + (if sr.next then 1 else 0)
        let slot := sr.first + k / 4 * sr.stride
        Moves (.csnd i coach a) k c u (fun d v => v = { u with held := [] } ∧
          d = { c with flying := c.flying ++ [⟨c.plan.cyc + 39, .coach p ⟨absSlot c p step' slot, slot, step' % 2,
            (if e₀.2 then 1 else 0) + (if e₁.2 then 2 else 0) + (if e₂.2 then 4 else 0) + (if line.2 then 8 else 0),
            slice e₀.1 0 64 ++ slice e₁.1 0 64 ++ slice e₂.1 0 64 ++ line.1⟩⟩] }))) ∧
    (∀ (act : Act) (c : Chip) (k : Nat), Calm c → act.x = .crcv i coach a → c.plan.cyc = act.s + 4 * k → 4 * k < act.n →
      recvRow c coach = some (row, r) → hopPort c row r.hops = some p → slotRec c row r.hops = some sr →
      ∀ u : ActTile, act.tiles = [u] →
        let place := (yardPlace act.step sr k).1
        let d := yardStage act c
        smGet none (portAt d.1 p).yard place = none ∧ (∀ y, y ≠ p → portAt d.1 y = portAt c y) ∧ d.1.mem = c.mem ∧
        d.2 = [{ u with held := u.held ++ (List.range 4).map (fun g =>
          match smGet none (portAt c p).yard place with
          | some h => (slice h.payload (64 * g) 64, h.poison.testBit g)
          | none => (List.replicate 64 0, true)) }] ∧
        smGet 0 d.1.acc.counts (key 0x3050 5) = smGet 0 c.acc.counts (key 0x3050 5) +
          (if smGet none (portAt c p).yard place = none then 4 else 0)) ∧
    (∀ (c : Chip) (u : ActTile) (k : Nat) (e : List Byte × Bool) (l : List (List Byte × Bool)), Calm c → u.held = e :: l →
      0 ≤ u.line + k → u.line + k < 49152 → Moves (.crcv i coach a) k c u (fun d v =>
        v = { u with held := l } ∧ StoresLine c d (lineAddr u.site (u.line + k).toNat) (slice e.1 0 64) e.2)) ∧
    (∀ (c : Chip) (x : Coach), (p ≠ 31 ∨ reg c (key 0x5010 1) ≠ 0) →
      (∀ y, y ≠ p → portAt (landOther c (.coach p x)) y = portAt c y) ∧
      portAt (landOther c (.coach p x)) p =
        if x.abs < (portAt c p).slotNext then { portAt c p with backlog := (portAt c p).backlog ++ [x] }
        else { portAt c p with atPort := (portAt c p).atPort ++ [x] })

/-- 05 R139 R146, 16 R482 R486: SWR reads a line in the cycle of its bank, and with its poison it lands in the exchange area of
the die's steward 16 cycles later; XBAR waits for its partner and frees both, which issue together; ENDS ends its program
for the step. -/
def Obligations.StewardAndControl : Prop :=
  ∀ (i : Issue) (off src : LineAddr) (n : Nat) (exe : Bool) (k : Fin 8),
    Begins (.swr i off src n) i (fun _ => n) (fun _ => 1) (actAt i src off) ∧
    (∀ (c : Chip) (u : ActTile) (k : Nat), Calm c → LineClean c u.site (u.line + k) →
      Moves (.swr i off src n) k c u (fun d v => v = u ∧ d = { c with flying := c.flying ++ [⟨c.plan.cyc + 16,
        .exchange u.site (u.other + k) (lineBytes c u.site (u.line + k)) (lineBad c u.site (u.line + k))⟩] })) ∧
    (∀ (c : Chip) (site l : Nat) (x : List Byte) (p : Bool), l < 1024 → x.length = 64 →
      let d := landOther c (.exchange site l x p)
      getBytes (stewAt d (site / 48)).exchange (64 * l) 64 = x ∧ nsMem (stewAt d (site / 48)).exPoison l = p ∧
      (∀ y, y < 64 * l ∨ 64 * l + 64 ≤ y →
        smGet 0 (stewAt d (site / 48)).exchange y = smGet 0 (stewAt c (site / 48)).exchange y) ∧
      (∀ y, y ≠ site / 48 → stewAt d y = stewAt c y) ∧ d.mem = c.mem ∧ d.tiles = c.tiles) ∧
    (∀ (s : State) (x : Instr), (x = .xbar i exe k ∨ x = .ends i exe) → Issues s i exe x → i.ok = true →
      let q := seqAt (noteIssue s.chip i exe x) i.die.val
      Answers x s (fun t => t = { s with chip := { s.chip with seqs := t.chip.seqs } } ∧
        (∀ d, d ≠ i.die.val → seqAt t.chip d = seqAt s.chip d) ∧
        (x = .ends i exe → seqAt t.chip i.die.val = if exe then { q with endX := true } else { q with endA := true }) ∧
        (x = .xbar i exe k → seqAt t.chip i.die.val =
          if exe then
            (if q.barA = some k.val then { q with barA := none, lastA := some s.chip.plan.cyc, issuedA := q.issuedA + 1 }
              else { q with barX := some k.val, issuedX := q.issuedX - 1 })
          else
            (if q.barX = some k.val then { q with barX := none, lastX := some s.chip.plan.cyc, issuedX := q.issuedX + 1 }
              else { q with barA := some k.val, issuedA := q.issuedA - 1 }))))

/-- 05 R130 R131 R133 R135, 04 R108: when lines meet their banks. Lines of an act that is alone on its die go one a cycle, of a
pair of queues two, of the operand cache four, from its lead on; of two acts whose lines want one bank in a cycle the one
through the stop inbound, else the older, goes first, and the other comes a cycle later with all its later lines. In its
cycle such an act does in every tile what `moveLine` says. -/
def Sys2Proof.Claims.LineSchedule : Prop :=
  (∀ (k : Clock) (t : Nat) (a : Act), a.slip = 0 → a.k = min a.n (lineRate a.x * (t - (a.s + a.lead))) →
    k.reads ≤ t → k.writes ≤ t →
    serveDie k t [a] = [{ a with k := min a.n (if t < a.s + a.lead then 0 else lineRate a.x * (t + 1 - (a.s + a.lead))) }]) ∧
  (∀ (k : Clock) (t : Nat) (a b : Act), lineRate a.x = 1 → lineRate b.x = 1 → banked a.x = true → banked b.x = true →
    a.k < a.n → b.k < b.n → a.due a.k ≤ t → b.due b.k ≤ t → (a.bank + a.k) % 16 = (b.bank + b.k) % 16 →
    (inboundAct b.x = false ∨ inboundAct a.x = true) →
    serveDie k t [a, b] = [{ a with k := a.k + 1 }, { b with slip := b.slip + 1 }]) ∧
  (∀ (c : Chip) (a : Act), Calm c → c.acts = [a] → c.flying = [] → a.die < 4 → a.slip = 0 →
    (∀ j q l n, a.x ≠ .qts j l q n) → (∀ j l r o n late, a.x ≠ .mld j l r o n late) → (∀ j m l, a.x ≠ .crcv j m l) →
    a.k = min a.n (lineRate a.x * (c.plan.cyc - (a.s + a.lead))) → a.s + a.lead ≤ c.plan.cyc →
    (seqAt c a.die).clock.reads ≤ c.plan.cyc → (seqAt c a.die).clock.writes ≤ c.plan.cyc →
    let m := min a.n (lineRate a.x * (c.plan.cyc + 1 - (a.s + a.lead))) - a.k
    let r := moveLines a.x m a.k c a.tiles
    lineCycle c = { r.1 with acts := [{ a with k := a.k + m, tiles := r.2 }] })

/-! ## The step (01, 05, 16) -/

/-- One occurrence of a source is reported: its class counter gains 1, and a record with its code and location stands in
the log unless 128 stood in it (14 R435 to R437). -/
def Sys2Proof.Claims.Reported (s t : State) (code : Nat) (loc : Loc) : Prop :=
  reg t.chip (key 0x9002 (classOf code + 1)) = (reg s.chip (key 0x9002 (classOf code + 1)) + 1) % 2 ^ 64 ∧
  ((∃ r ∈ t.chip.err.log, r.code = code ∧ r.loc = locCode loc) ∨ 128 ≤ s.chip.err.log.length)

/-- 01 R23, 05 R143, 16 R489: the cut-off of a running step, once: the count reaches 256 ticks before the boundary, the
accepted variant record is latched, else the default variant with the parameters in force, the halt step is fixed, and
every routine ends with its die's done bit; of a module in which nothing is under way the tiles stay. -/
def Sys2Proof.Claims.CutOffLatches : Prop :=
  ∀ s : State, Quiet s → s.chip.plan.state = .running → s.chip.plan.cut = false →
    still s.chip = true → s.chip.plan.stepStart ≤ s.chip.count →
    Answers .stepCutOff s (fun t =>
      t.chip.plan.cut = true ∧ t.chip.plan.state = .running ∧ t.chip.plan.step = s.chip.plan.step ∧
      t.chip.count = max s.chip.count (boundaryAt s.chip - 256) ∧
      t.chip.plan.latched = (match s.chip.plan.accepted with
        | some r => r
        | none => (match s.chip.plan.image with | some im => im.hdr.dflt | none => 0, s.chip.plan.params)) ∧
      t.chip.plan.cutHalt = reg s.chip (key 0x2010 3) ∧
      (∀ d < 4, (stewAt t.chip d).routine = .none ∧
        t.chip.plan.done.testBit d = (s.chip.plan.done.testBit d || decide ((stewAt s.chip d).routine ≠ .none))) ∧
      (s.chip.plan.accepted = none → (7, 0) ∉ s.chip.acc.reported →
        smGet 0 t.chip.acc.counts (key 0x2012 2) = smGet 0 s.chip.acc.counts (key 0x2012 2) + 1 ∧ Reported s t 0x0601 (.die 0)) ∧
      (s.chip.plan.accepted ≠ none → smGet 0 t.chip.acc.counts (key 0x2012 2) = smGet 0 s.chip.acc.counts (key 0x2012 2)) ∧
      t.chip.tiles = s.chip.tiles ∧ t.fuses = s.fuses ∧ t.pending = s.pending)

/-- 01 R22 R24 R29: the boundary of a step whose cut-off has passed: where the cut-off found this step named to halt at,
the plan halts in it with actions 2 to 8 waiting; otherwise the next step begins at the boundary's count with the
latched variant and parameters. -/
def Sys2Proof.Claims.BoundaryStartsNext : Prop :=
  ∀ s : State, Quiet s → s.chip.plan.state = .running → s.chip.plan.cut = true →
    still s.chip = true → s.chip.plan.stepStart ≤ s.chip.count →
    (s.chip.plan.cutHalt = s.chip.plan.step → Answers .stepBoundary s (fun t =>
      t.chip.plan.state = .halted ∧ t.chip.plan.pendingBoundary = true ∧ t.chip.plan.step = s.chip.plan.step ∧
      t.chip.count = max s.chip.count (boundaryAt s.chip) ∧ t.chip.tiles = s.chip.tiles)) ∧
    (s.chip.plan.cutHalt ≠ s.chip.plan.step → Answers .stepBoundary s (fun t =>
      t.chip.plan.state = .running ∧ t.chip.plan.step = s.chip.plan.step + 1 ∧ t.chip.plan.cut = false ∧
      t.chip.plan.stepStart = boundaryAt s.chip ∧ t.chip.count = max s.chip.count (boundaryAt s.chip) ∧
      t.chip.plan.variant = s.chip.plan.latched.1 ∧ t.chip.plan.params = s.chip.plan.latched.2 ∧
      t.chip.plan.accepted = none ∧ t.chip.plan.done = 0 ∧ t.chip.plan.fresh = false ∧ t.chip.tiles = s.chip.tiles ∧
      t.chip.plan.cyc0 = max s.chip.plan.cyc (stepEnd s.chip) ∧
      ∀ d, seqAt t.chip d = { Seq.start with clock := (seqAt s.chip d).clock }))

/-- Entries but those listed stay. -/
def Sys2Proof.Claims.Keeps (s t : State) (ks : List Nat) : Prop := ∀ k, k ∉ ks → reg t.chip k = reg s.chip k

/-- The entries that count throttled ticks of the three levels (12 R406): a command that moves the count may add to them. -/
def Sys2Proof.Claims.ticks : List Nat := [key 0x5400 3, key 0x5401 3, key 0x5402 3]

/-- Only a steward's state and the done bits change, and entries that `k` names. -/
structure Sys2Proof.Claims.OnlySteward (s t : State) (d : Nat) : Prop where
  rest : t = { s with chip := { s.chip with
    stew := t.chip.stew, regs := t.chip.regs, plan := { s.chip.plan with done := t.chip.plan.done } } }
  others : ∀ e, e ≠ d → stewAt t.chip e = stewAt s.chip e

/-- 16 R488 R489 R492: the boundary interrupt enters every die's step routine with step, die, variant and stack, the other
registers 0; an ECALL
with a7 = 0 ends it, any other a7 and every access fault ends it and adds 1 to 2030h:(d + 1). -/
def Sys2Proof.Claims.StepRoutines : Prop :=
  ∀ (s : State) (d : Fin 4) (a7 : BitVec 64) (cause : StewardCause), Quiet s →
    (s.chip.plan.state = .running → s.chip.plan.fresh = false → s.chip.plan.cut = false →
      Answers .boundaryInterrupt s (fun t =>
        t = { s with chip := { s.chip with stew := t.chip.stew, plan := { s.chip.plan with fresh := true } } } ∧
        ∀ e < 4, stewAt t.chip e = { stewAt s.chip e with
            routine := .running, x := (stewAt t.chip e).x, reserve := none,
            pc := 0x20000 + (match s.chip.plan.image with | some im => im.entry | none => 0) } ∧
          ∀ r, smGet 0 (stewAt t.chip e).x r = if r = 2 then 0x10070000 else if r = 10 then s.chip.plan.step % 2 ^ 64
            else if r = 11 then e else if r = 12 then s.chip.plan.variant else 0)) ∧
    ((stewAt s.chip d.val).routine = .running →
      let ended := fun (n : Nat) (t : State) => OnlySteward s t d.val ∧
        stewAt t.chip d.val = { stewAt s.chip d.val with routine := .none } ∧
        t.chip.plan.done = s.chip.plan.done ||| 2 ^ d.val ∧
        reg t.chip (key 0x2030 (d.val + 1)) = (reg s.chip (key 0x2030 (d.val + 1)) + n) % 2 ^ 64 ∧
        ∀ k, k ≠ key 0x2030 (d.val + 1) → reg t.chip k = reg s.chip k
      (reg s.chip (key 0x2030 (d.val + 1)) < 2 ^ 64 → Answers (.routineEcall d 0) s (ended 0)) ∧
      (a7 ≠ 0 → Answers (.routineEcall d a7) s (ended 1)) ∧
      Answers (.stewardAccessFault d cause) s (ended 1))

/-- 16 R487: the waits. A cycle not yet reached, and dies not yet done, suspend the routine; it wakes when the plan cycle
is reached before the cut-off, and when the dies are done. -/
def Sys2Proof.Claims.StewardWaits : Prop :=
  ∀ (s : State) (d : Fin 4) (v : BitVec 64), Quiet s →
    let put := fun (r : Routine) (t : State) => OnlySteward s t d.val ∧ t.chip.plan = s.chip.plan ∧
      t.chip.regs = s.chip.regs ∧ stewAt t.chip d.val = { stewAt s.chip d.val with routine := r }
    ((stewAt s.chip d.val).routine = .running →
      (planCycle s.chip < v.toNat → Answers (.waitForCycle d v) s (put (.waitCycle v.toNat))) ∧
      (v.toNat ≤ planCycle s.chip → exec (.waitForCycle d v) s = .next s) ∧
      (s.chip.plan.done &&& v.toNat ≠ v.toNat → Answers (.waitForDies d v) s (put (.waitDies v.toNat))) ∧
      (s.chip.plan.done &&& v.toNat = v.toNat → exec (.waitForDies d v) s = .next s)) ∧
    (∀ w, (stewAt s.chip d.val).routine = .waitCycle w →
      let at' := s.chip.plan.stepStart + (2 * w + ccNow s.chip - 1) / ccNow s.chip
      at' < boundaryAt s.chip - 256 →
      Answers (.waitForCycleWake d) s (fun t => stewAt t.chip d.val = { stewAt s.chip d.val with routine := .running } ∧
        t.chip.count = max s.chip.count at' ∧ t.chip.plan = s.chip.plan ∧ Keeps s t ticks)) ∧
    (∀ w, (stewAt s.chip d.val).routine = .waitDies w → s.chip.plan.done &&& w = w →
      Answers (.waitForDiesWake d) s (put .running))

/-- 16 R482 to R490, of a routine as a program; encodings and arithmetic are those of the RISC-V standard, which R489 names
(log 22). An operation or a jump writes its register, x0 apart; a branch moves the pc alone; a load and a store reach the plan data
area, and a load the session window as the last boundary left it; a misaligned access, one that no window or no right allows, a
register that may not be written, and an illegal instruction end the routine as a fault; an instruction is fetched from the
plan code at the pc. -/
def Sys2Proof.Claims.RoutineInstructions : Prop :=
  (∀ (f : Fuses) (d : Fin 4) (c : Chip) (len rd ra rb size : Nat) (off : X64) (signed : Bool), c.flaws = [] →
    let s := stewAt c d.val
    let x := xreg s
    let pc := BitVec.ofNat 64 s.pc
    let run := fun i => rvExec f d.val len i c
    let after := fun (n : X64) (w : Steward) (e : Chip) => e = { c with stew := e.stew } ∧
      (∀ y, y ≠ d.val → stewAt e y = stewAt c y) ∧
      stewAt e d.val = { w with pc := n.toNat, instret := (s.instret + 1) % 2 ^ 64 }
    let puts := fun (v n : X64) (e : Chip) => after n { s with x := (stewAt e d.val).x } e ∧
      ∀ r, xreg (stewAt e d.val) r = if r = rd ∧ r ≠ 0 then v else x r
    let next := pc + BitVec.ofNat 64 len
    let a := (x ra + off).toNat
    let faults := fun (e : Chip) => e = { c with stew := e.stew, regs := e.regs, plan := { c.plan with done := e.plan.done } } ∧
      stewAt e d.val = { s with routine := .none } ∧ e.plan.done = c.plan.done ||| 2 ^ d.val ∧
      reg e (key 0x2030 (d.val + 1)) = (reg c (key 0x2030 (d.val + 1)) + 1) % 2 ^ 64
    let number := fun (b : List Byte) =>
      if signed then (BitVec.ofNat (8 * size) (leNat b)).signExtend 64 else BitVec.ofNat 64 (leNat b)
    let sized := size = 1 ∨ size = 2 ∨ size = 4 ∨ size = 8
    puts (x ra + off) next (run (.opImm .add false rd ra off)) ∧
    puts (x ra - x rb) next (run (.op .sub false rd ra rb)) ∧
    puts (BitVec.ofInt 64 (((x ra).truncate 32 : BitVec 32) + ((x rb).truncate 32 : BitVec 32)).toInt) next
      (run (.op .add true rd ra rb)) ∧
    puts (BitVec.ofNat 64 ((x ra).toNat * (x rb).toNat / 2 ^ 64)) next (run (.op .mulhu false rd ra rb)) ∧
    (x rb = 0 → puts (BitVec.ofNat 64 (2 ^ 64 - 1)) next (run (.op .div false rd ra rb)) ∧
      puts (x ra) next (run (.op .rem false rd ra rb))) ∧
    puts next (pc + off) (run (.jal rd off)) ∧
    after (if (x ra).toInt < (x rb).toInt then pc + off else next) s (run (.branch .lt ra rb off)) ∧
    (sized → a % size = 0 → 0x10020000 ≤ a → a < 0x10070000 →
      puts (number (getBytes s.data (a - 0x10020000) size)) next (run (.load size signed rd ra off)) ∧
      after next { s with data := (stewAt (run (.store size ra rb off)) d.val).data } (run (.store size ra rb off)) ∧
      getBytes (stewAt (run (.store size ra rb off)) d.val).data (a - 0x10020000) size = leBytes size (x rb).toNat ∧
      ∀ o, (o < a - 0x10020000 ∨ a - 0x10020000 + size ≤ o) →
        smGet 0 (stewAt (run (.store size ra rb off)) d.val).data o = smGet 0 s.data o) ∧
    (sized → a % size = 0 → 0x30000000 ≤ a → a < 0x30100000 →
      puts (number (slice (sessBytes (smGet Sess.free (c.srv.snap.getD []) ((a - 0x30000000) / 256)))
        ((a - 0x30000000) % 256) size)) next (run (.load size signed rd ra off))) ∧
    (sized → a % size ≠ 0 ∨ stewWindow d.val a = none ∨ (0x10070000 ≤ a ∧ a < 0x10080000) ∨ a < 0x20000 →
      faults (run (.store size ra rb off))) ∧
    faults (run .illegal) ∧ faults (run (.csr .write rd false ra 0xCC0)) ∧
    puts (BitVec.ofNat 64 d.val) next (run (.csr .set rd true 0 0xCC2)) ∧
    (s.routine = .running → x ra = 1 → stewAt (run (.csr .write 0 false ra 0x802)) d.val =
      { s with pc := next.toNat, instret := (s.instret + 1) % 2 ^ 64, inbound := s.inbound.drop 1 })) ∧
  (∀ (f : Fuses) (d : Fin 4) (c : Chip), c.flaws = [] →
    let s := stewAt c d.val
    let o := s.pc - 0x20000
    let lo := leNat (slice s.code o 2)
    s.routine = .running → 0x20000 ≤ s.pc → s.pc + 4 ≤ 0x40000 → s.pc % 2 = 0 →
    hartStep f d.val c = (if lo % 4 = 3 then rvExec f d.val 4 (decode32 (lo + 65536 * leNat (slice s.code (o + 2) 2))) c
      else rvExec f d.val 2 (decode16 lo) c)) ∧
  decode32 0x00500093 = .opImm .add false 1 0 5 ∧ decode32 0x40B50533 = .op .sub false 10 10 11 ∧
  decode32 0x00053583 = .load 8 false 11 10 0 ∧ decode32 0x00B53423 = .store 8 10 11 8 ∧
  decode32 0xFE000EE3 = .branch .eq 0 0 (BitVec.ofInt 64 (-4)) ∧ decode32 0x80051073 = .csr .write 0 false 10 0x800 ∧
  decode32 0x00000073 = .ecall ∧ decode16 0x4085 = .opImm .add false 1 0 1 ∧ decode16 0 = .illegal

/-- 05 R141 R142, 16 R490: a variant record that the running routine of die 0 posts in step n is accepted where it names step n + 1 and a variant of the plan before
the cut-off; a late or refused post leaves the accepted record and is counted in 2012h:03. -/
def Obligations.VariantPost : Prop :=
  ∀ (s : State) (target : BitVec 64) (v : BitVec 8) (ps : List (BitVec 32)) (im : PlanImage), Quiet s →
    s.chip.plan.state = .running → s.chip.plan.image = some im → (stewAt s.chip 0).routine = .running →
    let record := (List.range 64).map (fun k => (ps.map BitVec.toNat).getD k 0)
    let before := s.chip.plan.cut = false ∧ s.chip.count < boundaryAt s.chip - 256
    let posted := fun (st : Nat) (t : State) =>
      (boxTarget t.chip.plan.mailbox = target.toNat ∧ boxVariant t.chip.plan.mailbox = v.toNat ∧
        boxParams t.chip.plan.mailbox = record ∧ t.chip.plan.mailbox.status = st ∧
        ∀ o, 9 ≤ o ∧ o < 16 ∨ 272 ≤ o → smGet 0 t.chip.plan.mailbox.bytes o = smGet 0 s.chip.plan.mailbox.bytes o) ∧
      t.chip.plan.accepted = (if st = 1 then some (v.toNat, record) else s.chip.plan.accepted) ∧
      smGet 0 t.chip.acc.counts (key 0x2012 3) = smGet 0 s.chip.acc.counts (key 0x2012 3) + (if st = 1 then 0 else 1) ∧
      t = { s with chip := { s.chip with
        acc := { s.chip.acc with counts := t.chip.acc.counts },
        plan := { s.chip.plan with mailbox := t.chip.plan.mailbox, accepted := t.chip.plan.accepted } } }
    let post := Instr.variantPost target v ps
    (target.toNat = s.chip.plan.step + 1 → before → v.toNat < im.hdr.variants → Answers post s (posted 1)) ∧
    (target.toNat = s.chip.plan.step + 1 → ¬before → Answers post s (posted 2)) ∧
    (target.toNat = s.chip.plan.step + 1 → before → im.hdr.variants ≤ v.toNat → Answers post s (posted 3)) ∧
    (target.toNat ≠ s.chip.plan.step + 1 → Answers post s (posted 4))

/-- A cart of type 2 for a die, with n bytes of data, that this module sends to a device (12 R382, 16 R495). -/
structure Sys2Proof.Claims.MessageTo (v : Nat) (page : List Byte) (x : Cart) : Prop where
  dst : x.dst = v % 262144
  type : (x.payload.drop 4).take 1 = [2]
  target : leNat ((x.payload.drop 8).take 8) = v / 262144 % 4
  data : (x.payload.drop 32).take (min 224 (leNat ((page.drop 6).take 2))) =
    slice page 32 (min 224 (leNat ((page.drop 6).take 2)))

/-- 16 R495: a pop of 1 removes the inbound head; a send leaves through the egress queue of its route where its level is
not throttled and the queue has room; behind a send that waits it waits; MESSAGE_INJECT sends the oldest that waits. -/
def Sys2Proof.Claims.StewardMessages : Prop :=
  ∀ (s : State) (d : Fin 4) (v : BitVec 64) (page : List Byte) (p : Nat), Quiet s →
    let opens := fun (v : Nat) => routeOf s.chip (epochNow s.chip) (v % 262144) = .port p ∧ (portAt s.chip p).st ≠ .fenced ∧
      throttled s.chip (cartLevel s.chip (v % 262144)) = false ∧
      (portAt s.chip p).egress.length + 1 + reg s.chip (key 0x5310 6) ≤ 256
    let leaves := fun (v : Nat) (page : List Byte) (t : State) =>
      (∃ x, MessageTo v page x ∧ (portAt t.chip p).egress = (portAt s.chip p).egress ++ [x]) ∧
      t.chip.mem = s.chip.mem ∧ t.chip.tiles = s.chip.tiles ∧ t.chip.plan = s.chip.plan
    let pageIs := fun (t : State) => ∀ n, smGet 0 (stewAt t.chip d.val).page n =
      if n < 256 then (slice page 0 256).getD n 0 else smGet 0 (stewAt s.chip d.val).page n
    ((stewAt s.chip d.val).routine = .running →
      Answers (.messagePop d 1) s (fun t => OnlySteward s t d.val ∧
        stewAt t.chip d.val = { stewAt s.chip d.val with inbound := (stewAt s.chip d.val).inbound.tail }) ∧
      (v ≠ 1 → exec (.messagePop d v) s = .next s) ∧
      ((stewAt s.chip d.val).waiting = [] → opens v.toNat → Answers (.messageSend d v page) s (fun t =>
        leaves v.toNat (slice page 0 256) t ∧
        pageIs t ∧ stewAt t.chip d.val = { stewAt s.chip d.val with page := (stewAt t.chip d.val).page, waiting := [] })) ∧
      ((stewAt s.chip d.val).waiting ≠ [] → Answers (.messageSend d v page) s (fun t => OnlySteward s t d.val ∧
        pageIs t ∧ stewAt t.chip d.val = { stewAt s.chip d.val with
          page := (stewAt t.chip d.val).page
          waiting := (stewAt s.chip d.val).waiting ++ [(v.toNat, slice page 0 256)] }))) ∧
    (∀ w wp rest, (stewAt s.chip d.val).waiting = (w, wp) :: rest → opens w →
      Answers (.messageInject d) s (fun t => leaves w wp t ∧
        stewAt t.chip d.val = { stewAt s.chip d.val with waiting := rest }))

/-! ## Memory events and the samplers (07, 08) -/

/-- Everything but memory, the log, the counters and the pins. -/
structure Sys2Proof.Claims.SameUnits (s t : State) : Prop where
  tiles : t.chip.tiles = s.chip.tiles
  plan : t.chip.plan = s.chip.plan
  ports : t.chip.ports = s.chip.ports
  count : t.chip.count = s.chip.count
  fuses : t.fuses = s.fuses
  pending : t.pending = s.pending

/-- A granule as the write-back of its stored error leaves it: corrected as it is stored, or as read with poison. -/
def Sys2Proof.Claims.healed (c : Chip) (g : Nat) (m : EccMark) : List Byte :=
  if m.unc then xorMask (memBytes c.mem (64 * g) 64) m.mask else memBytes c.mem (64 * g) 64

/-- 07 R188 R198 R204 R205 R206 R209: a late write is performed with its poison where its line lies then; the write-back of a granule stores it without
its error, poisoned where the error was uncorrectable; a scrub pass heals the granules of its range that hold an error
and lie in memory that is fitted. Every other byte stays. -/
def Sys2Proof.Claims.MemoryEvents : Prop :=
  ∀ (s : State) (u : Fin 16) (x : LateWrite) (at' a start n : Nat), Quiet s → s.chip.time.changing = false →
    let only := fun (t : State) (w : Nat → Prop) => SameUnits s t ∧
      (∀ b, ¬w (b / 64) → memByte t.chip.mem b = memByte s.chip.mem b) ∧
      (∀ g, ¬w g → nsMem t.chip.poison g = nsMem s.chip.poison g)
    (s.chip.late.find? (fun y => y.unit == u.val) = some x → (placed s.chip x.addrs x.page).1 = [at'] → at' % 64 = 0 →
      Answers (.lateWritePerform u) s (fun t => only t (fun g => g = at' / 64) ∧
        memBytes t.chip.mem at' 64 = slice x.data 0 64 ∧ granPoison t.chip at' = x.poison ∧
        t.chip.late = s.chip.late.eraseP (fun y => y.unit == u.val))) ∧
    (nsMem s.chip.wbDue (a / 64) = true →
      let m := smGet EccMark.none s.chip.ecc (a / 64)
      Answers (.eccWriteback a) s (fun t => only t (fun g => g = a / 64) ∧
        memBytes t.chip.mem (64 * (a / 64)) 64 = healed s.chip (a / 64) m ∧
        nsMem t.chip.poison (a / 64) = (m.unc || nsMem s.chip.poison (a / 64)) ∧
        smGet EccMark.none t.chip.ecc (a / 64) = EccMark.none ∧ nsMem t.chip.wbDue (a / 64) = false)) ∧
    (reg s.chip (key 0x4030 1) ≠ 0 → smWf EccMark.none s.chip.ecc = true →
      let hit := fun g => start / 64 ≤ g ∧ g < start / 64 + n ∧ scrubs s.chip (64 * g) = true ∧ g ∈ s.chip.ecc.map (·.1)
      Answers (.scrubPass start n) s (fun t => only t hit ∧ ∀ g, hit g →
        let m := smGet EccMark.none s.chip.ecc g
        memBytes t.chip.mem (64 * g) 64 = healed s.chip g m ∧
        nsMem t.chip.poison g = (m.unc || nsMem s.chip.poison g) ∧
        smGet EccMark.none t.chip.ecc g = EccMark.none))

/-- 07 R188 R191 R194: a read of a granule with a stored error gives the corrected data, counted; or the data as
stored, marked poisoned, and counted by every read; either way a write-back falls due. Without one it changes nothing. -/
def Sys2Proof.Claims.GranuleReads : Prop :=
  ∀ (c : Chip) (a : Nat) (w : When) (scrub : Bool), c.flaws = [] →
    let m := smGet EccMark.none c.ecc (a / 64)
    let r := readGran c a w scrub
    (m = EccMark.none → r = (c, memBytes c.mem a 64, granPoison c a)) ∧
    (m ≠ EccMark.none → r.2.1 = (if m.unc then xorMask (memBytes c.mem a 64) m.mask else memBytes c.mem a 64) ∧
      r.2.2 = (m.unc || granPoison c a) ∧ nsMem r.1.wbDue (a / 64) = true ∧ r.1.mem = c.mem ∧ r.1.poison = c.poison ∧
      r.1.ecc = c.ecc ∧
      let k := (eccSource a m.mask scrub).2.2.1 + (if m.unc then 1 else 0)
      reg r.1 k = (reg c k + 1) % 2 ^ 64 ∧ (∀ j, j ≠ k → reg r.1 j = reg c j) ∧
      ∃ o, r.1.err.pend = c.err.pend ++ [o] ∧ o.code = (eccSource a m.mask scrub).1 + (if m.unc then 1 else 0))

/-- 07 R212, 08 R229: the copy of a page in flight is made, line by line with its poison, from slot to frame for a promotion
and back for a demotion, and finished, which changes no residence; the admission read of a step is made once, at its time.
The pool numbers of the command are the model's own (log 35). -/
def Sys2Proof.Claims.CopyAndAdmission : Prop :=
  ∀ (s : State) (pool page : Nat) (r : Region) (x : Flight), Quiet s →
    (s.chip.time.changing = false → s.chip.err.inj = none → poolNamed s.chip pool = some r →
      (poolAt s.chip r.num).flights.find? (fun y => y.page == page && !y.done) = some x →
      let slot := fun o => slotAddr s.chip r.num (1024 * page + o)
      let fr := fun o => frameAddr s.chip r.num x.frame o
      let src := if x.promote then slot else fr
      let dst := if x.promote then fr else slot
      (∀ o < 1024, src o % 64 = 0 ∧ dst o % 64 = 0 ∧ smGet EccMark.none s.chip.ecc (src o / 64) = EccMark.none ∧
        ∀ k < 1024, src o ≠ dst k ∧ (dst o = dst k → o = k)) →
      Answers (.migrationCopyDone pool page) s (fun t => SameUnits s t ∧
        (∀ o < 1024, memBytes t.chip.mem (dst o) 64 = memBytes s.chip.mem (src o) 64 ∧
          granPoison t.chip (dst o) = granPoison s.chip (src o)) ∧
        (∀ b, (∀ o < 1024, b / 64 ≠ dst o / 64) → memByte t.chip.mem b = memByte s.chip.mem b ∧
          granPoison t.chip b = granPoison s.chip b) ∧
        (poolAt t.chip r.num).pages = (poolAt s.chip r.num).pages ∧
        (poolAt t.chip r.num).flights =
          (poolAt s.chip r.num).flights.map (fun y => if y.page = page then { y with done := true } else y) ∧
        (∀ n, n ≠ r.num → poolAt t.chip n = poolAt s.chip n) ∧
        Counts s.chip t.chip (key 0x4021 3) (if x.promote then 0 else 1) [])) ∧
    (s.chip.plan.state = .running → serving s.chip = true → s.chip.srv.readDone = false →
      Answers .admissionRead s (fun t => t.chip.srv.readDone = true ∧
        t.chip.count = max s.chip.count (s.chip.plan.stepStart +
          (2 * reg s.chip (key 0x6000 5) + ccNow s.chip - 1) / ccNow s.chip) ∧
        (s.chip.plan.step = 0 → t.chip.srv.region = []) ∧
        t.chip.srv.sess = s.chip.srv.sess ∧ t.chip.mem = s.chip.mem ∧ t.chip.tiles = s.chip.tiles))

/-- The cycles that the count has passed are over. -/
def Sys2Proof.Claims.UpToDate (c : Chip) : Prop := c.plan.state = .running → c.plan.cyc0 + countCycle c ≤ c.plan.cyc

/-- 08 R245 R246: a command line is posted as the youngest job of its die's queue of 32, or discarded and counted in
6050h:11; a job starts when none runs, and its end frees the sampler R246's cycles later. -/
def Sys2Proof.Claims.SamplerJobs : Prop :=
  ∀ (s : State) (die : Fin 4) (line : Nat) (b : List Byte) (j : Job) (rest : List Job), Quiet s → UpToDate s.chip →
    s.chip.srv.jobs.length = 4 → s.chip.srv.job.length = 4 →
    let js := s.chip.srv.jobs.getD die.val []
    let mode := leNat ((b.drop 2).take 1)
    let area := leNat ((b.drop 6).take 2)
    (s.chip.srv.cmdDue.find? (fun x => x.1 == die.val) = some (die.val, line, b) →
      (js.length < 32 → ((mode = 1 ∨ mode = 2) → area < draftAreas s.chip die.val) →
        Answers (.samplerJobPost die) s (fun t => SameUnits s t ∧ t.chip.mem = s.chip.mem ∧
          t.chip.srv.jobs.getD die.val [] = js ++ [⟨line, b, 0, 0, Sess.free, []⟩] ∧
          t.chip.srv.cmdDue = s.chip.srv.cmdDue.eraseP (fun x => x.1 == die.val))) ∧
      (32 ≤ js.length → Answers (.samplerJobPost die) s (fun t => SameUnits s t ∧ t.chip.mem = s.chip.mem ∧
        t.chip.srv.jobs = s.chip.srv.jobs ∧
        smGet 0 t.chip.acc.counts (key 0x6050 0x11) = smGet 0 s.chip.acc.counts (key 0x6050 0x11) + 1))) ∧
    (serving s.chip = true → s.chip.srv.job.getD die.val none = none → js = j :: rest →
      Answers (.samplerJobStart die) s (fun t => SameUnits s t ∧ t.chip.mem = s.chip.mem ∧
        t.chip.srv.job.getD die.val none = some { j with
          start := s.chip.count
          cyc := s.chip.plan.cyc
          held := s.chip.srv.tablesHeld
          sess := smGet Sess.free ((s.chip.srv.snap).getD s.chip.srv.sess) (leNat (j.bytes.take 2)) } ∧
        t.chip.srv.jobs.getD die.val [] = rest)) ∧
    (serving s.chip = true → s.chip.srv.job.getD die.val none = some j → still s.chip = true →
      s.chip.plan.stepStart ≤ s.chip.count →
      Answers (.samplerJobEnd die) s (fun t =>
        t.chip.srv.job.getD die.val none = none ∧ t.chip.srv.jobs = s.chip.srv.jobs ∧
        t.chip.count = max s.chip.count
          (j.start + (2 * jobCycles s.chip j.bytes + ccNow s.chip - 1) / ccNow s.chip) ∧
        t.chip.srv.sess = s.chip.srv.sess ∧ t.chip.tiles = s.chip.tiles ∧
        t.chip.plan = { s.chip.plan with cyc := t.chip.plan.cyc }))

/-- Logit i of a row that begins with a line of a region, as FP32 (08 R245 R247). -/
def Sys2Proof.Claims.logitAt (c : Chip) (lr : Region) (l : Nat) (bf : Bool) (i : Nat) : Word :=
  if bf then BitVec.ofNat 32 (65536 * leNat (memBytes c.mem (regionAddr c lr (l + i / 32) + 2 * (i % 32)) 2))
  else BitVec.ofNat 32 (leNat (memBytes c.mem (regionAddr c lr (l + i / 16) + 4 * (i % 16)) 4))

/-- A token is the greedy one of a row of V logits: the greatest, of equal ones the lowest; a NaN and −infinity are no
candidates, +infinity counts as the FP32 maximum (08 R247). -/
def Sys2Proof.Claims.IsGreedy (V : Nat) (x : Nat → Word) (tok : Nat) : Prop :=
  tok < V ∧ ∃ v, logit (x tok) = some v ∧ ∀ i < V, ∀ u, logit (x i) = some u →
    f32Num u < f32Num v ∨ (f32Num u = f32Num v ∧ tok ≤ i)

/-- The 128 bytes of a result record (08 R254). -/
def Sys2Proof.Claims.resultRecord (sess status pos st depth low : Nat) (toks stack : List Nat) (bad : Bool) : List Byte :=
  leBytes 2 sess ++ leBytes 1 status ++ leBytes 1 toks.length ++ leBytes 4 pos ++ slice (toks.flatMap (leBytes 4)) 0 36 ++
    leBytes 2 st ++ leBytes 1 depth ++ leBytes 1 low ++ slice (stack.flatMap (leBytes 2)) 0 18 ++
    leBytes 1 (if bad then 1 else 0) ++ List.replicate 61 0

/-- A job that ends with a greedy session: temperature 0, no grammar and no mask, its logits and drafts in plain lines that hold
no stored error, all poisoned or none. `g` gives the greedy token of each of its rows, `d` the token of each draft (08 R245
R247 R249 R250). -/
structure Sys2Proof.Claims.GreedyJob (c : Chip) (die : Nat) (j : Job) (r lr : Region) (g d : Nat → Nat) (bad : Bool) : Prop where
  serves : serving c = true
  running : c.srv.job.getD die none = some j
  still : still c = true
  begun : c.plan.stepStart ≤ c.count
  ok : jobOk j.bytes = true
  fresh : j.held = []
  calm : c.err.inj = none
  greedy : j.sess.temp = 0 ∧ 1 ≤ j.sess.topk ∧ j.sess.gram = 0xFF ∧ j.sess.mask = 0xFF
  vocabulary : reg c (key 0x6000 2) % 32 = 0
  region : ∀ l < r.size / 64, PlainLine c (reg c (key 0x6003 (die + 1))) r (l : Nat)
  rows : ∀ i < leNat ((j.bytes.drop 3).take 1), ∀ k < jobRow c j.bytes,
    let l := leNat ((j.bytes.drop 0xC).take 4) + jobRow c j.bytes * i + k
    PlainLine c (leNat ((j.bytes.drop 8).take 4)) lr (l : Nat) ∧ granPoison c (regionAddr c lr l) = bad
  tokens : ∀ i < leNat ((j.bytes.drop 3).take 1), IsGreedy (reg c (key 0x6000 2))
    (logitAt c lr (leNat ((j.bytes.drop 0xC).take 4) + jobRow c j.bytes * i) (leNat ((j.bytes.drop 4).take 1) == 1)) (g i)
  drafts : ∀ i < leNat ((j.bytes.drop 3).take 1) - 1, (∀ k < 36,
      let l := 768 + 288 * leNat ((j.bytes.drop 6).take 2) + 36 * i + k
      l < r.size / 64 ∧ granPoison c (regionAddr c r l) = bad) ∧
    d i = leNat (memBytes c.mem (regionAddr c r (768 + 288 * leNat ((j.bytes.drop 6).take 2) + 36 * i)) 4)
  room : 768 ≤ r.size / 64

/-- 08 R246 R247 R249 R250 R254: what a job writes when it ends, for a greedy session. A target draw emits the greedy token of
its row; a verification emits the greedy token of row after row for as long as the draft of the row is that token, and once
more; the record stands in lines 256 + 2 n of the sampler region. The first draft of a session is its greedy token, with its
position, the grammar's state and depth, and one candidate. Every other byte of memory stays. -/
def Sys2Proof.Claims.SamplerResults : Prop :=
  ∀ (s : State) (die : Fin 4) (j : Job) (r lr : Region) (g d : Nat → Nat) (bad : Bool), Quiet s → UpToDate s.chip →
    GreedyJob s.chip die.val j r lr g d bad →
    let b := j.bytes
    let mode := leNat ((b.drop 2).take 1)
    let rows := leNat ((b.drop 3).take 1)
    let n := leNat ((b.drop 0x10).take 4)
    let pos := leNat ((b.drop 0x14).take 4)
    let walk := j.sess.gstack.take j.sess.gdepth
    let record := fun (toks : List Nat) =>
      resultRecord (leNat (b.take 2)) 0 pos j.sess.gstate walk.length walk.length toks [] bad
    let at' := fun (l : Nat) => regionAddr s.chip r l
    let wrote := fun (t : State) (toks : List Nat) =>
      memBytes t.chip.mem (at' (256 + 2 * n)) 64 = (record toks).take 64 ∧
      memBytes t.chip.mem (at' (257 + 2 * n)) 64 = (record toks).drop 64 ∧
      granPoison t.chip (at' (256 + 2 * n)) = false ∧ granPoison t.chip (at' (257 + 2 * n)) = false
    let only := fun (t : State) (l : Nat → Prop) => ∀ a, (∀ k, l k → a / 64 ≠ at' k / 64) →
      memByte t.chip.mem a = memByte s.chip.mem a
    let area := 768 + 288 * leNat ((b.drop 6).take 2)
    (mode ≠ 1 → ∀ k < rows, (∀ i < k, d i = g i) → (k + 1 = rows ∨ d k ≠ g k) →
      Answers (.samplerJobEnd die) s (fun t => wrote t ((List.range (k + 1)).map g) ∧
        only t (fun l => l = 256 + 2 * n ∨ l = 257 + 2 * n))) ∧
    (mode = 1 → leNat ((b.drop 5).take 1) = 0 → area + 36 ≤ r.size / 64 →
      Answers (.samplerJobEnd die) s (fun t => wrote t [g 0] ∧
        only t (fun l => l = 256 + 2 * n ∨ l = 257 + 2 * n ∨ area ≤ l ∧ l < area + 36) ∧
        (memBytes t.chip.mem (at' area) 64).take 16 = leBytes 4 (g 0) ++ leBytes 4 pos ++ leBytes 2 j.sess.gstate ++
          leBytes 1 walk.length ++ leBytes 1 0 ++ leBytes 2 1 ++ leBytes 2 0 ∧
        memBytes t.chip.mem (at' (area + 2) + 16) 4 = leBytes 4 (g 0)))

/-! ## The step, the tick and reset (01, 10, 18) -/

/-- A step runs the command at the front of the queue, on the state with the rest of the queue. -/
def Obligations.StepRunsFront : Prop :=
  ∀ (s : State) (x : Instr) (rest : List Instr), s.pending = x :: rest → step s = exec x { s with pending := rest }

/-- Entries but those listed and those of the log and its announcements (9000h to 9010h) stay. -/
def Sys2Proof.Claims.KeepsButLog (s t : State) (ks : List Nat) : Prop :=
  ∀ k, k ∉ ks → k < 0x900000 ∨ 0x901100 ≤ k → reg t.chip k = reg s.chip k

/-- A request is counted as served (15 R468). -/
def Sys2Proof.Claims.served (s t : State) : Prop :=
  reg t.chip (key 0x2002 1) = (reg s.chip (key 0x2002 1) + 1) % 2 ^ 64

/-- 10 R299, 01 R22, and the model's tick (log 2): with no command waiting, the count of a running module advances by one and
the cycles of a running plan with it; where nothing is under way nothing else changes but the throttled ticks of the
levels; a module that does not run idles. -/
def Obligations.IdleTick : Prop :=
  ∀ s : State, s.pending = [] →
    (s.chip.power.phase ≠ .running → step s = .next s) ∧
    (s.chip.power.phase = .running → ∃ t, step s = .next t ∧ t.pending = []) ∧
    (Quiet s → s.chip.count + 1 < 2 ^ 64 → s.chip.plan.loading = none → s.chip.sec.burnTo = none → s.chip.sec.claim = none →
      (s.chip.plan.state = .running → still s.chip = true ∧ s.chip.plan.stepStart ≤ s.chip.count ∧
        (∀ d < 4, (stewAt s.chip d).routine = .none) ∧
        (s.chip.plan.cut = true ∨ s.chip.count + 1 < boundaryAt s.chip - 256)) →
      ∃ t, step s = .next t ∧
        (let done := if s.chip.plan.state = .running then max s.chip.plan.cyc
            (min (s.chip.plan.cyc0 + (s.chip.count + 1 - s.chip.plan.stepStart) * ccNow s.chip / 2) (stepEnd s.chip))
          else s.chip.plan.cyc
        t = { s with chip := { s.chip with
          count := s.chip.count + 1, regs := t.chip.regs, plan := { s.chip.plan with cyc := done } } }) ∧
        Keeps s t ticks ∧
        ∀ lv < 3, reg t.chip (key (0x5400 + lv) 3) =
          if throttled { s.chip with count := s.chip.count + 1 } lv
          then (reg s.chip (key (0x5400 + lv) 3) + 1) % 2 ^ 64 else reg s.chip (key (0x5400 + lv) 3))

/-- 18 R522, 10 R299, 01 R27: after reset nothing is loaded, logged, open or held; the count is 0; every port is Disabled;
entries hold their defaults; tiles are parked; no command waits. Where no rule gives a value it is the model's: empty memory that reads 00h
(log 4), the instant after reset that this is (log 8), the host's side (log 9), and registers at zero, empty lists and `Port.reset` (log 14). -/
def Obligations.ResetState : Prop :=
  let c := State.reset.chip
  State.reset.pending = [] ∧ c.count = 0 ∧ c.plan.state = .empty ∧ c.plan.image = none ∧ c.err.log = [] ∧
  c.err.cap = none ∧ c.sec.grant = [] ∧ c.eng.transfer = none ∧ c.wts.build = none ∧ c.mem = [] ∧
  (∀ p, portAt c p = Port.reset) ∧ (∀ p, (portAt c p).st = .disabled) ∧ (∀ k, reg c k = dfltOf k) ∧
  (∀ site, (tileAt c site).ti = 0xFFFF ∧ (tileAt c site).mask = 0) ∧
  (∀ site r l, lane (vreg (tileAt c site) r) l = 0) ∧
  (∀ site p, (preg (tileAt c site) p).val = if p = 0 then ones64 else 0) ∧
  (∀ v, routeTable c v = List.replicate 528 0xFF) ∧ (∀ e, wentry c e = WEntry.reset)

/-! ## Launch (10 R308 to R314 R321 R323, 13 R426) -/

/-- What arming demands before the count conditions: no import, no load, the plan at rest in a state, no frequency change pending;
a root's reference locked; a module that is no root two listed parents and, in Farak mode, count state 1 (10 R308 R323). -/
structure Sys2Proof.Claims.MayArm (c : Chip) (st : PlanState) : Prop where
  noImport : c.det.importing = none
  noLoad : c.plan.loading = none
  state : c.plan.state = st
  settled : changePending c = false
  source : if isRoot c then locked c = true else parentsOk c = true ∧ (qz5 c = false → countState c = 1)

/-- The value arms: FFFFFFFFFFFFFFFEh in QZ5 time mode; else an even count below it, and the present count before L − E
for the root and L − D for others. -/
def Sys2Proof.Claims.armsAt (c : Chip) (l : Nat) : Prop :=
  if qz5 c then l = 2 ^ 64 - 2
  else l % 2 = 0 ∧ l < 2 ^ 64 - 2 ∧ c.count < l - (if isRoot c then launchE c else launchD c)

/-- Only the plan, the launch and entries change. -/
def Sys2Proof.Claims.OnlyLaunch (s t : State) : Prop :=
  t = { s with chip := { s.chip with regs := t.chip.regs, plan := t.chip.plan, time := t.chip.time } } ∧
  t.chip.plan = { s.chip.plan with state := t.chip.plan.state, fromHalted := t.chip.plan.fromHalted }

/-- 10 R308 R323, 13 R426: arming from Loaded by 8030h:01 and from Halted by B050h:01, and disarming before L − D. -/
def Sys2Proof.Claims.Arming : Prop :=
  ∀ (s : State) (l : BitVec 64), Quiet s →
    let armed := fun (resume : Bool) (l : Nat) (t : State) => OnlyLaunch s t ∧ t.chip.plan.state = .armed ∧
      t.chip.plan.fromHalted = resume ∧ reg t.chip (key 0x8030 1) = l ∧ reg t.chip (key 0x8030 4) = 1 ∧
      t.chip.time.qz5Emit = (if qz5 s.chip ∧ isRoot s.chip then some (roundUp (s.chip.count + 64) 2) else none) ∧
      served s t
    (MayArm s.chip .loaded → armsAt s.chip l.toNat → Answers (.arm l) s (fun t => armed false l.toNat t ∧
      Keeps s t [key 0x8030 1, key 0x8030 4, key 0x2002 1])) ∧
    (MayArm s.chip .loaded → qz5 s.chip = true → Answers .qz5Arm s (armed false (2 ^ 64 - 2))) ∧
    (MayArm s.chip .halted → armsAt s.chip l.toNat →
      Answers (.resumeArm l) s (fun t => armed true l.toNat t ∧ reg t.chip (key 0xB050 1) = l.toNat ∧
        reg t.chip (key 0x2010 3) = 2 ^ 64 - 1)) ∧
    (s.chip.plan.state = .armed → qz5 s.chip = true ∨ s.chip.count < launchL s.chip - launchD s.chip →
      Answers .disarm s (fun t => OnlyLaunch s t ∧
        t.chip.plan.state = (if s.chip.plan.fromHalted then .halted else .loaded) ∧
        reg t.chip (key 0x8030 1) = 2 ^ 64 - 1 ∧ reg t.chip (key 0x8030 4) = 0x0107 ∧
        Keeps s t [key 0x8030 1, key 0x8030 4, key 0x2002 1] ∧ served s t))

/-- The Farak launch message that this module's own settings make (10 R309). -/
def Sys2Proof.Claims.launchMsg (c : Chip) : List Byte :=
  leBytes 8 (launchL c) ++ slice (settingsDigest c) 0 16 ++ leBytes 4 (devId c) ++ leBytes 2 (tagNow c) ++ [0, 0]

/-- A port gains a message control carriage of a type, or none. -/
def Sys2Proof.Claims.gainsMsg (s t : State) (p type : Nat) (b : Option (List Byte)) : Prop :=
  (portAt t.chip p).msgs = (portAt s.chip p).msgs ++ (match b with | some b => [⟨4, 0, type, slice b 0 256⟩] | none => [])

/-- An armed plan in Farak mode that has neither emitted nor heard. -/
structure Sys2Proof.Claims.Listens (s : State) : Prop where
  quiet : Quiet s
  armed : s.chip.plan.state = .armed
  farak : qz5 s.chip = false
  status : reg s.chip (key 0x8030 4) = 1

/-- A first copy's place and mode are this module's: digest, root, tag and time mode, and the count L (10 R311). -/
structure Sys2Proof.Claims.Agrees (c : Chip) (b : List Byte) : Prop where
  count : field b 0 8 = launchL c
  digest : slice b 8 16 = settingsDigest c
  root : field b 24 4 % 2 ^ 18 = reg c (key 0x8010 1)
  tag : field b 28 2 % 4096 = tagNow c
  mode : field b 30 1 = reg c (key 0x8040 1)
  hops : field b 31 1 ≤ 8

/-- 10 R309 to R312: the root emits at L − E on its child ports; another module forwards the first copy with one hop more
and takes it where it comes before L − D and agrees, or stands down with the status of the first check that fails; without
a copy by L − D it stands down with status 0101h. -/
def Sys2Proof.Claims.LaunchMessage : Prop :=
  ∀ (s : State), Listens s →
    let child := fun p => p < 32 ∧ (portAt s.chip p).st = .active ∧ bit (reg s.chip (key 0x8030 7)) p = true ∧
      portVersion s.chip p ≠ 2
    let home := if s.chip.plan.fromHalted then PlanState.halted else PlanState.loaded
    (isRoot s.chip = true → s.chip.time.emitted = false → Answers .launchEmit s (fun t =>
      t.chip.count = max s.chip.count (launchL s.chip - launchE s.chip) ∧ reg t.chip (key 0x8030 4) = 2 ∧
      Keeps s t (key 0x8030 4 :: ticks) ∧ t.chip.plan = s.chip.plan ∧ t.chip.time = { s.chip.time with emitted := true } ∧
      ∀ p, (child p → gainsMsg s t p 0x20 (some (launchMsg s.chip))) ∧ (¬child p → portAt t.chip p = portAt s.chip p))) ∧
    (∀ (p : Fin 32) x q, p.val = portA s.chip → takeLaunch (portAt s.chip p.val) = some (0x20, x, q) →
      s.chip.time.copyEnd ≤ x.at16 / 16 →
      let b := slice x.payload 0 64
      let heard := fun (t : State) => t.chip.time.copy = some b ∧ t.chip.time.copyEnd = field b 0 8 ∧
        t.chip.count = s.chip.count ∧
        ∀ k, child k → gainsMsg s t k 0x20 (some (splice b 31 (leBytes 1 (field b 31 1 + 1))))
      (Agrees s.chip b → x.at16 / 16 < launchL s.chip - launchD s.chip → Answers (.launchReceive p) s (fun t =>
        heard t ∧ reg t.chip (key 0x8030 4) = 2 ∧ Keeps s t [key 0x8030 4] ∧ t.chip.plan = s.chip.plan)) ∧
      (∀ st, field b 31 1 ≤ 8 →
        (st = 0x0101 ∧ launchL s.chip - launchD s.chip ≤ x.at16 / 16) ∨
        (x.at16 / 16 < launchL s.chip - launchD s.chip ∧ ((st = 0x0103 ∧ field b 0 8 ≠ launchL s.chip) ∨
          (field b 0 8 = launchL s.chip ∧ st = 0x0102 ∧ slice b 8 16 ≠ settingsDigest s.chip))) →
        Answers (.launchReceive p) s (fun t => heard t ∧ reg t.chip (key 0x8030 4) = st ∧
          t.chip.plan = { s.chip.plan with state := home } ∧ Reported s t 0x0904 (.port p.val)))) ∧
    (isRoot s.chip = false → Answers .launchDeadline s (fun t =>
      t.chip.plan = { s.chip.plan with state := home } ∧ reg t.chip (key 0x8030 4) = 0x0101 ∧
      t.chip.count = max s.chip.count (launchL s.chip - launchD s.chip) ∧ Reported s t 0x0904 .modl ∧
      KeepsButLog s t (key 0x8030 4 :: ticks) ∧ t.chip.ports = s.chip.ports))

/-- 10 R313 R321, 01 R22, 13 R426: an armed plan that has its launch begins at L, or at the count at which the QZ5 delay has
elapsed: step 0 with the default variant and parameters of 0; after a resume the step after the halted one. -/
def Sys2Proof.Claims.LaunchBegins : Prop :=
  ∀ (s : State), Quiet s → s.chip.plan.state = .armed →
    let begins := fun (l : Nat) (t : State) => t.chip.plan.state = .running ∧ t.chip.plan.stepStart = l ∧
      t.chip.plan.base = l ∧ t.chip.plan.cut = false ∧ t.chip.count = max s.chip.count l ∧
      reg t.chip (key 0x8030 4) = 3 ∧ t.chip.tiles = s.chip.tiles ∧ t.chip.plan.cyc0 = s.chip.plan.cyc ∧
      (∀ d, seqAt t.chip d = { Seq.start with clock := (seqAt s.chip d).clock }) ∧
      (s.chip.plan.fromHalted = false → t.chip.plan.step = 0 ∧ t.chip.plan.params = List.replicate 64 0 ∧
        t.chip.plan.variant = (match s.chip.plan.image with | some im => im.hdr.dflt | none => 0)) ∧
      (s.chip.plan.fromHalted = true → t.chip.plan.step = s.chip.plan.step + 1)
    (qz5 s.chip = false → reg s.chip (key 0x8030 4) = 2 → Answers .launchStart s (begins (launchL s.chip))) ∧
    (∀ l, s.chip.time.qz5Start = some l → qz5 s.chip = true → reg s.chip (key 0x8030 4) = 2 →
      Answers .qz5LaunchStart s (begins l)) ∧
    (∀ e, s.chip.time.qz5Emit = some e → qz5 s.chip = true → isRoot s.chip = true → Answers .qz5LaunchEmit s (fun t =>
      reg t.chip (key 0x8030 4) = 2 ∧ t.chip.count = max s.chip.count e ∧ t.chip.plan = s.chip.plan ∧
      t.chip.time = { s.chip.time with emitted := true, qz5Emit := none, qz5Start := some (e + 2 * (launchE s.chip / 2)) } ∧
      Keeps s t (key 0x8030 4 :: ticks)))

/-! ## Count, frequency and reference (10) -/

/-- 10 R301 R303 R304 R306, 11 R350: a check sends a stamp on every Active port of version 3 at each multiple of 65,536;
a stamp is answered; the check is complete with the peer's stamp and the one-way latency: the offset of the parent is
shown, a disagreement of more than 64 sixteenths in a run (256 in QZ5 time mode) is counted and reported, and while no
plan runs the follower is moved to its parent's count; a source lost is reported. -/
def Sys2Proof.Claims.AlignmentChecks : Prop :=
  ∀ (s : State) (p : Fin 32), Quiet s →
    let q := portAt s.chip p.val
    let checked := fun k => k < 32 ∧ (portAt s.chip k).st = .active ∧ portVersion s.chip k = 3
    let due := if s.chip.count % 65536 = 0 ∧ s.chip.count ≠ s.chip.time.lastCheck then s.chip.count
      else (s.chip.count / 65536 + 1) * 65536
    (Answers .alignmentCheck s (fun t => t.chip.count = due ∧
      t.chip.time = { s.chip.time with silent := s.chip.time.silent + 1, lastCheck := due } ∧ t.chip.plan = s.chip.plan ∧
      ∀ k, (checked k → (portAt t.chip k).timed = (portAt s.chip k).timed ++ [⟨3, 0, 1, List.replicate 256 0⟩] ∧
          (portAt t.chip k).echoed = false) ∧
        (¬checked k → portAt t.chip k = portAt s.chip k))) ∧
    (∀ x r, takeCtl q 3 1 = some (x, r) → q.st ≠ .active → Answers (.alignmentStampReceive p) s (fun t =>
      portAt t.chip p.val = { r with timed := r.timed ++
        [⟨3, 0, 2, slice (slice x.payload 0 9 ++ [0, 0, 0] ++ leBytes 8 x.at16) 0 256⟩] } ∧
      (∀ k, k ≠ p.val → portAt t.chip k = portAt s.chip k) ∧ Keeps s t [] ∧ t.chip.count = s.chip.count)) ∧
    (∀ x r v w, takeCtl q 3 2 = some (x, r) → q.st = .active → portVersion s.chip p.val = 3 → q.stamp = some (v, w) →
      runs s.chip = true →
      let sent := 16 * field x.payload 0 8 + field x.payload 8 1
      let off : Int := (v : Int) - (w : Int) - (((x.at16 - sent - field x.payload 12 4) / 2 : Nat) : Int)
      let bound := if qz5 s.chip then 256 else 64
      let done := fun (t : State) => (portAt t.chip p.val).echoed = true ∧ t.chip.count = s.chip.count ∧
        (follows s.chip p.val = true → reg t.chip (key 0x8010 4) = unsigned 32 off ∧ t.chip.time.silent = 0 ∧
          reg t.chip (key 0x8010 3) = if reg s.chip (key 0x8010 3) = 3 then 0 else reg s.chip (key 0x8010 3)) ∧
        (follows s.chip p.val = false → reg t.chip (key 0x8010 4) = reg s.chip (key 0x8010 4) ∧
          reg t.chip (key 0x8010 3) = reg s.chip (key 0x8010 3))
      (off.natAbs ≤ bound → Answers (.alignmentEchoReceive p) s (fun t => done t ∧
        Keeps s t [key 0x8010 3, key 0x8010 4])) ∧
      (bound < off.natAbs → Answers (.alignmentEchoReceive p) s (fun t => done t ∧
        KeepsButLog s t [key 0x8010 3, key 0x8010 4, key 0x8010 5] ∧
        reg t.chip (key 0x8010 5) = (reg s.chip (key 0x8010 5) + 1) % 2 ^ 32 ∧ Reported s t 0x0901 (.port p.val)))) ∧
    (∀ x r lam v, takeCtl q 3 1 = some (x, r) → q.st = .active → portVersion s.chip p.val = 3 → q.trip = some lam →
      runs s.chip = false →
      follows s.chip p.val = true → reg s.chip (key 0x8010 3) < 2 → s.chip.count < 2 ^ 64 →
      v = 16 * field x.payload 0 8 + field x.payload 8 1 → Answers (.alignmentStampReceive p) s (fun t =>
        let off : Int := (x.at16 : Int) - (v : Int) - (lam : Int)
        let good := if off.natAbs ≤ 2 then s.chip.time.good + 1 else 0
        t.chip.time = { s.chip.time with silent := 0, good := good } ∧
        reg t.chip (key 0x8010 3) = (if 2 ≤ good then 1 else 0) ∧ reg t.chip (key 0x8010 4) = unsigned 32 off ∧
        Keeps s t [key 0x8010 3, key 0x8010 4] ∧
        (off.natAbs < 2 → t.chip.count = s.chip.count) ∧
        (2 ≤ off.natAbs → off < 16 * (s.chip.count : Int) →
          (t.chip.count : Int) % 2 ^ 64 = ((16 * (s.chip.count : Int) - off + 8) / 16) % 2 ^ 64))) ∧
    (isRoot s.chip = false → portA s.chip < 32 → quietA s.chip = false → reg s.chip (key 0x8010 3) ≠ 3 →
      (portAt s.chip (portA s.chip)).st ≠ .active ∨ 3 ≤ s.chip.time.silent → Answers .countSourceLost s (fun t =>
        reg t.chip (key 0x8010 3) = 3 ∧ KeepsButLog s t [key 0x8010 3] ∧ Reported s t 0x0902 (.port (portA s.chip)) ∧
        t.chip.count = s.chip.count ∧ t.chip.plan = s.chip.plan ∧ t.chip.ports = s.chip.ports))

/-- 10 R316 to R319: a change is scheduled and cancelled at rest, the clock stops at its count and restarts 64 ticks later
at the frequency scheduled with it; a lost reference puts the module in holdover, which a return ends at rest, or the relock after a
run. -/
def Sys2Proof.Claims.FrequencyAndReference : Prop :=
  ∀ (s : State) (x : BitVec 64), Quiet s →
    let due := reg s.chip (key 0x8000 3)
    let wrote := fun (v : Nat) (t : State) => t = { s with chip := { s.chip with
        regs := t.chip.regs, time := { s.chip.time with freqNext := reg s.chip (key 0x8000 2) } } } ∧
      reg t.chip (key 0x8000 3) = v ∧ served s t ∧ Keeps s t [key 0x8000 3, key 0x2002 1]
    let lost := fun (a : Nat) (b : Nat) (t : State) => reg t.chip (key 0x8000 4) = a ∧ reg t.chip (key 0x8010 3) = b ∧
      t.chip.count = s.chip.count ∧ t.chip.plan = s.chip.plan ∧ t.chip.tiles = s.chip.tiles
    (runs s.chip = false → s.chip.plan.loading = none → s.chip.time.changing = false →
      (x.toNat % 2 = 0 → s.chip.count + 524288 ≤ x.toNat → Answers (.freqChangeSchedule x) s (wrote x.toNat)) ∧
      Answers .freqChangeCancel s (wrote (2 ^ 64 - 1)) ∧
      (due ≠ 2 ^ 64 - 1 → Answers .freqChangeStop s (fun t =>
        t = { s with chip := { s.chip with
          count := max s.chip.count due, regs := t.chip.regs, time := { s.chip.time with changing := true } } } ∧
        Keeps s t ticks))) ∧
    (s.chip.time.changing = true → Answers .freqChangeRestart s (fun t => t.chip.count = max s.chip.count (due + 64) ∧
      reg t.chip (key 0x8000 1) = s.chip.time.freqNext ∧ reg t.chip (key 0x8000 3) = 2 ^ 64 - 1 ∧
      Keeps s t (key 0x8000 1 :: key 0x8000 3 :: ticks) ∧ t.chip.time = { s.chip.time with changing := false } ∧
      t.chip.tiles = s.chip.tiles ∧ t.chip.plan = s.chip.plan)) ∧
    (s.chip.time.refLost = false → Answers .referenceLoss s (fun t => lost 1 2 t ∧ t.chip.time.refLost = true ∧
      reg t.chip (key 0x8000 5) = (reg s.chip (key 0x8000 5) + 1) % 2 ^ 32 ∧ Reported s t 0x0903 .modl)) ∧
    (s.chip.time.refLost = true → Answers .referenceReturn s (fun t => t.chip.time.refLost = false ∧
      Reported s t 0x0903 .modl ∧ lost (if runs s.chip then 2 else 0)
        (if runs s.chip then reg s.chip (key 0x8010 3) else 0) t ∧
        (runs s.chip = false → isRoot s.chip = true → countState t.chip = 1))) ∧
    (reg s.chip (key 0x8000 4) = 2 → runs s.chip = false → Answers .referenceRelock s (fun t =>
      lost 0 0 t ∧ Keeps s t [key 0x8000 4, key 0x8010 3] ∧ (isRoot s.chip = true → countState t.chip = 1)))

/-! ## Links (11) -/

/-- Of the units only one port changes. -/
structure Sys2Proof.Claims.OnlyPort (s t : State) (p : Nat) : Prop where
  others : ∀ k, k ≠ p → portAt t.chip k = portAt s.chip k
  plan : t.chip.plan = s.chip.plan
  tiles : t.chip.tiles = s.chip.tiles
  mem : t.chip.mem = s.chip.mem
  fuses : t.fuses = s.fuses
  pending : t.pending = s.pending

/-- Something leaves the module, and besides it at most MSI-X messages. -/
def Sys2Proof.Claims.sentOut (s t : State) (o : Out) : Prop :=
  ∃ l, t.chip.out = l ++ o :: s.chip.out ∧ ∀ y ∈ l, ∃ v, y = Out.msix v

/-- What a port in Active has to send in a slot, in the order of 11 R333: the coach of the slot, the backlog with the coaches
that missed theirs, messages, timed carriages, escaped carts, carts; coaches and carts only on a port that carries them
(12 R388). -/
def Sys2Proof.Claims.toSend (isOpen : Bool) (q : Port) (a : Nat) : List Carriage :=
  (if isOpen then (q.atPort.filter (fun x => x.abs == a)).map coachCarriage ++
    (q.backlog ++ q.atPort.filter (fun x => decide (x.abs < a))).map coachCarriage else []) ++ q.msgs ++ q.timed ++
    (if isOpen then (q.escq ++ q.egress).map cartCarriage else [])

/-- Everything that a port holds to send. -/
def Sys2Proof.Claims.holds (q : Port) : List Carriage :=
  (q.atPort ++ q.backlog).map coachCarriage ++ q.msgs ++ q.timed ++ (q.escq ++ q.egress).map cartCarriage

/-- A slot that a port sends: none has gone for it, no burst is to start in it (`ReplayAndThrough`), no injection waits for a
carriage, the replay buffer has room, and a plan that runs has done its cycles up to the slot (`LineSchedule`). -/
structure Sys2Proof.Claims.SlotReady (s : State) (p a : Nat) : Prop where
  quiet : Quiet s
  sends : portSends (portAt s.chip p).st = true
  next : (portAt s.chip p).slotNext ≤ a
  steady : (portAt s.chip p).st = .active → (portAt s.chip p).burst = [] → ∀ n x, (portAt s.chip p).nakAck = some (n, x) →
    slotStart16 s.chip p a < x + 16
  crc : (portAt s.chip p).badCrc = 0
  calm : s.chip.err.inj = none
  room : (portAt s.chip p).replay.length < 2048
  done : s.chip.plan.state = .running →
    min (s.chip.plan.cyc0 + countCycle { s.chip with count := max s.chip.count (slotStart16 s.chip p a / 16) })
      (stepEnd s.chip) ≤ s.chip.plan.cyc

/-- 11 R326 R328 R331 to R334 R337 R349 R357 R358: the next superframe's marker, at its count, and in Measure its stamp; a slot
sends in the order of R333 with the next sequence number, kept for replay where the carriage is numbered; a burst repeats
the stored carriage first, counted in 5200h:05; a port not yet Active sends idle carriages, in Exchange its training record
until two of the peer's agree, in Measure its stamps and echoes. A NAK raised goes in the first slot a tick after it. -/
def Obligations.SlotSends : Prop :=
  ∀ (s : State) (p : Fin 32) (a : Nat),
    let q := portAt s.chip p.val
    let t16 := slotStart16 s.chip p.val a
    let v2 := portVersion s.chip p.val == 2
    let ack := (q.expect + 65535) % 65536
    let len := superframeLen s.chip p.val
    let nak := q.nakDue && q.nakOut.any (fun n => decide (n + 16 ≤ t16))
    let after := fun (t : State) => OnlyPort s t p.val ∧ t.chip.count = max s.chip.count (t16 / 16) ∧
      (portAt t.chip p.val).slotNext = a + 1 ∧ (portAt t.chip p.val).st = q.st ∧
      (portAt t.chip p.val).nakDue = (q.nakDue && !nak) ∧ (portAt t.chip p.val).nakOut = q.nakOut
    let plainly := fun (x : Carriage) (t : State) => after t ∧
      sentOut s t (.carriage p.val a (carriageBytes v2 x q.nextSeq ack nak false)) ∧
      (portAt t.chip p.val).replay = q.replay ∧ (portAt t.chip p.val).nextSeq = q.nextSeq
    (Quiet s → portSends q.st = true → q.badLane = none → s.chip.err.inj = none → Answers (.superframeStart p) s (fun t =>
      ∃ n, n % len = 0 ∧ (n = s.chip.count ∧ q.superframe ≠ n ∨ s.chip.count < n) ∧ n ≤ s.chip.count + len ∧
        (s.chip.count % len = 0 → q.superframe ≠ s.chip.count → n = s.chip.count) ∧
        OnlyPort s t p.val ∧ Keeps s t ticks ∧ t.chip.count = n ∧ t.chip.out = .marker p.val (markerBytes (n / len)) :: s.chip.out ∧
        portAt t.chip p.val = if q.st = .measure ∧ q.stamps < 64
          then { q with superframe := n, stamps := q.stamps + 1, timed := q.timed ++ [⟨3, 0, 1, List.replicate 256 0⟩] }
          else { q with superframe := n })) ∧
    (SlotReady s p.val a → q.burst = [] → q.st = .active → Answers (.slotTransmit p a) s (fun t =>
      let l := toSend (portOpen s.chip p.val) q a
      let x := sendMessage s.chip p.val t16 (timeStamp s.chip (l.headD idleCarriage) t16)
      let numbered := x.kind = 1 ∨ x.kind = 2 ∨ x.kind = 4
      after t ∧ sentOut s t (.carriage p.val a (carriageBytes v2 x q.nextSeq ack nak false)) ∧
      (portAt t.chip p.val).nextSeq = (if numbered then (q.nextSeq + 1) % 65536 else q.nextSeq) ∧
      (portAt t.chip p.val).replay = q.replay ++ (if numbered then [⟨q.nextSeq, x, t16⟩] else []) ∧
      (holds q).Perm (l.head?.toList ++ holds (portAt t.chip p.val)))) ∧
    (∀ n y b, SlotReady s p.val a → q.burst = (n, y) :: b → b ≠ [] → q.st = .active → Answers (.slotTransmit p a) s (fun t =>
      after t ∧ sentOut s t (.carriage p.val a (carriageBytes v2 y n ack nak true)) ∧
      (portAt t.chip p.val).burst = b ∧ (portAt t.chip p.val).nextSeq = q.nextSeq ∧
      (portAt t.chip p.val).replay.map (·.seq) = q.replay.map (·.seq) ∧
      reg t.chip (key (0x5200 + p.val) 5) = (reg s.chip (key (0x5200 + p.val) 5) + 1) % 2 ^ 64)) ∧
    (SlotReady s p.val a → q.st = .align → Answers (.slotTransmit p a) s (plainly idleCarriage)) ∧
    (SlotReady s p.val a → q.st = .exchange → Answers (.slotTransmit p a) s (plainly
      (if q.record.length = 2 ∧ q.record.head? = q.record.getLast? then idleCarriage
        else ⟨3, 0, 0x10, trainingRecord s.fuses s.chip p.val⟩))) ∧
    (SlotReady s p.val a → q.st = .measure → (∀ x ∈ q.timed, x.kind = 3) → Answers (.slotTransmit p a) s (fun t =>
      plainly (timeStamp s.chip (q.timed.headD idleCarriage) t16) t ∧
      (portAt t.chip p.val).timed = q.timed.drop 1))

/-- A burst of a port that repeats the stored carriages from a sequence number on (11 R337): raised, counted in 5200h:04,
and reported. -/
def Sys2Proof.Claims.bursts (s t : State) (p n : Nat) : Prop :=
  let q := portAt s.chip p
  let l := q.replay.filter (fun x => x.seq == n || serialLt n x.seq)
  portAt t.chip p = { q with burst := l.map (fun x => (x.seq, x.car)), nakAck := none, heldNak := false } ∧
  OnlyPort s t p ∧ reg t.chip (key (0x5200 + p) 4) = (reg s.chip (key (0x5200 + p) 4) + 1) % 2 ^ 64 ∧
  Reported s t 0x0401 (.port p)

/-- 11 R337 R338 R344: a received NAK starts a burst after its acknowledgement, where the next slot begins at least one tick
after it; a transmitter's timeout starts one from the
oldest unacknowledged carriage, a receiver's raises the NAK again, both counted in 5200h:07 (the model's
reading, log 32); the through path hands its oldest carriage to the outbound port, in its slot or in the backlog, and where
that is port 31 without a role, nowhere (log 31). -/
def Obligations.ReplayAndThrough : Prop :=
  ∀ (s : State) (p : Fin 32), Quiet s →
    let q := portAt s.chip p.val
    let late := reg s.chip (key (0x5200 + p.val) 7)
    (∀ a t16 x, q.st = .active → q.nakAck = some (a, t16) → q.burst = [] → x ∈ q.replay →
      x.seq = (a + 1) % 65536 ∨ serialLt ((a + 1) % 65536) x.seq = true →
      let slot16 := slotStart16 s.chip p.val q.slotNext
      (t16 + 16 ≤ slot16 → Answers (.replayBurst p) s (fun t =>
        bursts s t p.val ((a + 1) % 65536) ∧ t.chip.count = max s.chip.count (slot16 / 16))) ∧
      (slot16 < t16 + 16 → Answers (.replayBurst p) s (fun t => t = s))) ∧
    (∀ x r, q.st = .active → q.replay = x :: r → q.burst = [] → Answers (.replayTimeout p true) s (fun t =>
      bursts s t p.val x.seq ∧
      t.chip.count = max s.chip.count (cdiv (x.sent + 2 * lambda16 s.chip p.val + 2048) 16) ∧
      reg t.chip (key (0x5200 + p.val) 7) = (late + 1) % 2 ^ 64)) ∧
    (∀ n, q.st = .active → q.nakOut = some n → Answers (.replayTimeout p false) s (fun t => OnlyPort s t p.val ∧
      portAt t.chip p.val = { q with nakOut := some (n + (2 * lambda16 s.chip p.val + 2048)), nakDue := true } ∧
      t.chip.count = max s.chip.count (cdiv (n + (2 * lambda16 s.chip p.val + 2048)) 16) ∧
      Keeps s t (key (0x5200 + p.val) 7 :: ticks) ∧ reg t.chip (key (0x5200 + p.val) 7) = (late + 1) % 2 ^ 64)) ∧
    (∀ o x t16 rest, q.through = (o, x, t16) :: rest → Answers (.throughHandover p) s (fun t =>
      let w := if o = p.val then { q with through := rest } else portAt s.chip o
      (portAt t.chip p.val).through = rest ∧ t.chip.count = max s.chip.count (cdiv t16 16) ∧ Keeps s t ticks ∧
      (∀ k, k ≠ p.val → k ≠ o → portAt t.chip k = portAt s.chip k) ∧
      portAt t.chip o = (if slotStart16 s.chip o x.abs < t16 ∨ (x.abs < w.slotNext ∧ portOpen s.chip o = true)
        then { w with backlog := w.backlog ++ [x] }
        else if portOpen s.chip o then { w with atPort := w.atPort ++ [x] } else w)))

/-- A carriage as R329 lays it out, with fields that fit. -/
structure Sys2Proof.Claims.Fits (x : Carriage) (seq ack : Nat) : Prop where
  kind : x.kind < 16
  poison : x.poison < 16
  fields : x.fields < 2 ^ 38
  payload : x.payload.length = 256
  seq : seq < 65536
  ack : ack < 65536

/-- The decoder's codewords counted (11 R325 R370): symbols corrected in 5200h:01 and on the physical lane that carries them,
codewords lost in 5200h:02. -/
def Sys2Proof.Claims.tallied (s t : State) (p : Nat) (fec : FecInfo) : Prop :=
  let good := fec.words.filter (fun w => decide (w.length ≤ 15))
  let lost := fec.words.countP (fun w => decide (15 < w.length))
  let width := if reg s.chip (key (0x5100 + p) 5) = 2 then 2 else 4
  let m := reg s.chip (key (0x5100 + p) 6)
  reg t.chip (key (0x5200 + p) 1) = (reg s.chip (key (0x5200 + p) 1) + (good.map List.length).sum) % 2 ^ 64 ∧
  reg t.chip (key (0x5200 + p) 2) = (reg s.chip (key (0x5200 + p) 2) + lost) % 2 ^ 64 ∧
  ∀ l < 5, (∀ k < width, ∀ j < width, mapLane m k = l → mapLane m j = l → k = j) → ∀ k < width, mapLane m k = l →
    reg t.chip (key (0x5200 + p) (14 + l)) = (reg s.chip (key (0x5200 + p) (14 + l)) +
      (good.map (fun w => w.countP (fun i => i.val % width == k))).sum) % 2 ^ 64

/-- The carriage has bits in a codeword that is lost: one that it shows, or the last that an earlier one showed (11 R332). -/
def Sys2Proof.Claims.fails (q : Port) (fec : FecInfo) : Prop :=
  (∃ w ∈ fec.words, 15 < w.length) ∨ ((fec.tail = true ∨ fec.words = []) ∧ q.fecBad = true)

/-- The port after the codewords of a carriage, as its last one says. -/
def Sys2Proof.Claims.heardWords (q : Port) (fec : FecInfo) : Port :=
  { q with fecBad := match fec.words.getLast? with | some w => decide (15 < w.length) | none => q.fecBad }

/-- The port after the acknowledgement of a carriage, with a NAK or without (11 R335 R337): what it covers is freed; a NAK asks
for a burst, or is held while one is in progress. -/
def Sys2Proof.Claims.freed (q : Port) (ack : Nat) (nak : Bool) (t16 : Nat) : Port :=
  let q := { q with replay := q.replay.filter (fun y => serialLt ack y.seq),
                    acked := if serialLt q.acked ack then ack else q.acked }
  if nak = false then q
  else if q.burst ≠ [] then { q with heldNak := true }
  else if q.replay = [] then q
  else { q with nakAck := some (ack, t16) }

/-- 11 R325 R329 R330 R334 to R336 R349, 12 R388: a carriage whose codewords hold and whose CRC is right acknowledges; the one of the
sequence number expected is delivered, an earlier one is a repeat and counted, a later one raises a NAK; one that fails
is counted in 5200h:03 and raises a NAK. A control carriage waits at its port, numbered or timed; a cart joins the receive
queue, and one that finds it full is discarded. Under version 2 a cart carries no epoch and no escape bit, and one bit
stands for its poison. What comes in sequence at port 31 without a role goes nowhere (log 31). -/
def Sys2Proof.Claims.CarriageTaken : Prop :=
  ∀ (s : State) (p : Fin 32) (x : Carriage) (seq ack t16 : Nat) (rep nk : Bool) (fec : FecInfo), Quiet s →
    portCarries (portAt s.chip p.val).st = true → Fits x seq ack →
    let v2 := portVersion s.chip p.val == 2
    let q := portAt s.chip p.val
    let b := carriageBytes v2 x seq ack nk rep
    let free := freed (heardWords q fec) ack nk t16
    let took := { free with expect := (q.expect + 1) % 65536, nakOut := none, nakDue := false }
    let raised := fun (q : Port) => if q.nakOut = none then { q with nakOut := some t16, nakDue := true } else q
    let numbered := x.kind = 1 ∨ x.kind = 2 ∨ x.kind = 4
    let now := max s.chip.count (t16 / 16)
    let cart : Cart := ⟨if v2 then reg s.chip (key 0x5301 1) else x.fields % 2, !v2 && x.fields.testBit 1, x.fields / 4 % 4096,
      x.fields / 2 ^ 14 % 2 ^ 18, if v2 then (if x.poison = 0 then 0 else 15) else x.poison, x.payload⟩
    let type := x.fields % 256
    let brings := fun (y : List Byte) (P : State → Prop) =>
      Answers (.carriageReceive p y t16 fec) s (fun t => OnlyPort s t p.val ∧ t.chip.count = now ∧ tallied s t p.val fec ∧ P t)
    let count := fun (n : Nat) (t : State) =>
      reg t.chip (key (0x5200 + p.val) n) = (reg s.chip (key (0x5200 + p.val) n) + 1) % 2 ^ 64
    let holds := fun (q' : Port) (t : State) => portAt t.chip p.val = q'
    let serves := portOpen s.chip p.val = true
    let fenced := logicalFence s.chip p.val = true
    (∀ y : List Byte, y.length ≠ 270 ∨ fails q fec ∨ crc32c (y.take 266) ≠ field y 266 4 →
      brings y (fun t => holds (raised (heardWords q fec)) t ∧ count 3 t)) ∧
    (¬fails q fec →
      (x.kind = 0 → brings b (holds free)) ∧
      (numbered → serialLt seq q.expect = true → seq ≠ q.expect → brings b (fun t => holds free t ∧ count 6 t)) ∧
      (numbered → serialLt seq q.expect = false → seq ≠ q.expect → brings b (holds (raised free))) ∧
      (x.kind = 4 → seq = q.expect → 0x20 ≤ type → type ≤ 0x26 →
        brings b (holds { took with ctl := q.ctl ++ [⟨4, type, x.payload, t16⟩] })) ∧
      (x.kind = 4 → seq = q.expect → type < 0x20 ∨ 0x26 < type → brings b (fun t => holds took t ∧ count 13 t)) ∧
      (x.kind = 3 → type ∈ [1, 2, 3, 0x10] → brings b (holds { free with ctl := q.ctl ++ [⟨3, type, x.payload, t16⟩] })) ∧
      (x.kind = 3 → type ∉ [1, 2, 3, 0x10] → brings b (fun t => holds free t ∧ count 13 t)) ∧
      (x.kind = 2 → seq = q.expect → serves → ¬fenced ∨ cart.tag = tagNow s.chip →
        (q.recv.length < recvCap s.chip → brings b (fun t => count 23 t ∧ holds { took with recv := q.recv ++ [(cart, now)] } t)) ∧
        (recvCap s.chip ≤ q.recv.length → brings b (fun t => count 23 t ∧ count 19 t ∧ holds took t ∧
          (smGet 0 s.chip.fab.overrun p.val ≠ now / 65536 + 1 → Reported s t 0x0501 (.port p.val)) ∧
          (smGet 0 s.chip.fab.overrun p.val = now / 65536 + 1 → t.chip.err = s.chip.err)))) ∧
      (x.kind = 2 → seq = q.expect → serves → fenced → cart.tag ≠ tagNow s.chip → brings b (fun t => count 21 t ∧ holds took t)) ∧
      (x.kind = 1 → seq = q.expect → serves → fenced → brings b (fun t => count 22 t ∧ holds took t)) ∧
      (x.kind = 1 ∨ x.kind = 2 → seq = q.expect → ¬serves → brings b (holds took)))

/-- Record `sr` names the coach row and the carriage that a slot of a port brings to this module (12 R379): the port carries
the record's hop, the module ends it, and the slot is that of carriage i of the row. -/
structure Sys2Proof.Claims.Arrives (c : Chip) (im : PlanImage) (p slot : Nat) (sr : SlotRec) (r : CoachRow) (i : Nat) : Prop where
  record : sr ∈ im.slots
  row : im.coaches[sr.row]? = some r
  port : hopPort c sr.row sr.hop = some p
  hop : sr.hop ≤ r.hops
  ends : r.path.getD (sr.hop - 1) 0xFFFFFFFF = ownDev c
  slot : 0 < sr.stride ∧ i < r.k ∧ slot = sr.first + i * sr.stride

/-- A plan fault of the coaches of a port, reported once for each kind, port and step (11 R371). -/
def Sys2Proof.Claims.coachFaulted (s t : State) (p kind : Nat) : Prop :=
  ((20 + kind, p) ∉ s.chip.acc.reported → Reported s t 0x0408 (.port p) ∧
    t.chip.acc.reported = (20 + kind, p) :: s.chip.acc.reported) ∧
  ((20 + kind, p) ∈ s.chip.acc.reported → t.chip.err = s.chip.err ∧ t.chip.acc = s.chip.acc)

/-- 11 R340 R343 to R347, 12 R379 R380: a coach accepted at its last hop goes to the yard place of its slot and parity; one that
finds a carriage there, or its place read, is discarded, counted and reported; one on its way goes to the through path for
the slot and the parity of the next hop, 40 core cycles after it came; one that the maps do not hold is discarded. What
comes later than the slack is counted and reported. -/
def Sys2Proof.Claims.CoachDelivered : Prop :=
  ∀ (s : State) (p : Fin 32) (x : Carriage) (ack t16 : Nat) (rep nk : Bool) (fec : FecInfo) (im : PlanImage), Quiet s →
    let q := portAt s.chip p.val
    let v2 := portVersion s.chip p.val == 2
    let slot := x.fields % 2 ^ 25
    let par := x.fields / 2 ^ 25 % 2
    let n := s.chip.plan.step
    let step := if n % 2 = par then n
      else if slotStart16 s.chip p.val (absSlot s.chip p.val (n + 1) slot) ≤ t16 then n + 1 else n - 1
    let late := im.hdr.slack * 32 <
      (t16 - (slotStart16 s.chip p.val (absSlot s.chip p.val step slot) + lambda16 s.chip p.val)) * ccNow s.chip
    let poison := if v2 then (if x.poison = 0 then 0 else 15) else x.poison
    let took := { freed (heardWords q fec) ack nk t16 with expect := (q.expect + 1) % 65536, nakOut := none, nakDue := false }
    let raises := fun (k : Nat) (t : State) =>
      reg t.chip (key (0x5200 + p.val) k) = (reg s.chip (key (0x5200 + p.val) k) + 1) % 2 ^ 64
    let brings := fun (P : State → Prop) =>
      Answers (.carriageReceive p (carriageBytes v2 x q.expect ack nk rep) t16 fec) s (fun t => OnlyPort s t p.val ∧
        t.chip.count = max s.chip.count (t16 / 16) ∧ tallied s t p.val fec ∧ P t)
    let onTime := fun (t : State) => (late → raises 10 t ∧ coachFaulted s t p.val 1) ∧
      (¬late → reg t.chip (key (0x5200 + p.val) 10) = reg s.chip (key (0x5200 + p.val) 10) ∧ t.chip.err = s.chip.err)
    portCarries q.st = true → Fits x q.expect ack → x.kind = 1 → ¬fails q fec → portOpen s.chip p.val = true →
      logicalFence s.chip p.val = false → s.chip.plan.image = some im →
      (∀ sr r i, Arrives s.chip im p.val slot sr r i →
        (∀ sr' r' i', Arrives s.chip im p.val slot sr' r' i' →
          sr' = sr ∨ (r.vmask.testBit s.chip.plan.variant = true ∧ r'.vmask.testBit s.chip.plan.variant = false)) →
        let place := (if par = 0 then sr.even else sr.odd) + i
        (sr.hop = r.hops → smGet none q.yard place = none → nsMem q.yardRead (2 * place + par) = false →
          brings (fun t => onTime t ∧
            portAt t.chip p.val = { took with yard := smSet none q.yard place (some ⟨x.payload, poison⟩) })) ∧
        (sr.hop = r.hops → smGet none q.yard place ≠ none ∨ nsMem q.yardRead (2 * place + par) = true →
          brings (fun t => portAt t.chip p.val = took ∧ raises 11 t ∧ (¬late → coachFaulted s t p.val 2))) ∧
        (∀ o sr', sr.hop < r.hops → hopPort s.chip sr.row (sr.hop + 1) = some o → slotRec s.chip sr.row (sr.hop + 1) = some sr' →
          let step' := step + (if sr'.next = true ∧ sr.next = false then 1 else 0)
          let slot' := sr'.first + i * sr'.stride
          brings (fun t => onTime t ∧ portAt t.chip p.val = { took with through := q.through ++
            [(o, ⟨absSlot s.chip o step' slot', slot', step' % 2, poison, x.payload⟩, t16 + cdiv 1280 (ccNow s.chip))] }))) ∧
      ((∀ sr r i, ¬Arrives s.chip im p.val slot sr r i) →
        brings (fun t => portAt t.chip p.val = took ∧ raises 20 t ∧ coachFaulted s t p.val 3))

/-- 11 R325 to R347 R349, 12 R379 R380 R388 R391 R402: what a port does with a carriage that it receives. -/
def Obligations.CarriageReceives : Prop := CarriageTaken ∧ CoachDelivered

/-- A lane map entry shows lanes 0 to w − 1 and the spare, 7 for none (11 R327). -/
def Sys2Proof.Claims.shows (m w : Nat) (lanes : List Nat) : Prop :=
  (∀ k < w, mapLane m k = lanes.getD k 7) ∧ mapLane m 4 = lanes.getD w 7

/-- A port that leaves Active or training for a state: it holds no burst, no timed carriage, no check in hand and no retrain
asked for or agreed (11 R337 R357 R366). -/
def Sys2Proof.Claims.stopped (c : Chip) (q : Port) (st : PState) : Port :=
  { q with st := st, entered := c.count, burst := [], timed := [], stamp := none, trip := none, retrainOut := none,
           retrainAt := none, acceptW := none,
           msgs := q.msgs.filter (fun x => x.fields % 256 != 0x24 && x.fields % 256 != 0x25) }

/-- 11 R324 R357 to R360 R365 R370: the states of training in their order, what each fixes, and the ways down. An Equalize at full rate
that finds two or three lanes sets width 2 (log 19). -/
def Obligations.Training : Prop :=
  ∀ (s : State) (p : Fin 32) (lanes : BitVec 5), Quiet s →
    let q := portAt s.chip p.val
    let entry := fun (n : Nat) => key (0x5100 + p.val) n
    let port := fun (q' : Port) (t : State) => OnlyPort s t p.val ∧ portAt t.chip p.val = q' ∧ t.chip.count = s.chip.count
    let fallen := fun (q : Port) (t : State) => OnlyPort s t p.val ∧ portAt t.chip p.val = stopped t.chip q .down ∧
      Reported s t 0x0404 (.port p.val) ∧ reg t.chip (entry 4) = 0 ∧
      reg t.chip (entry 2) = if reg s.chip (entry 2) = 1 then 6 else reg s.chip (entry 2)
    let down := fun (q : Port) (t : State) => fallen q t ∧ t.chip.count = s.chip.count
    let logged := fun (t : State) (code : Nat) => 128 ≤ t.chip.err.log.length ∨
      ∃ r ∈ t.chip.err.log, r.code = code ∧ r.loc = locCode (.port p.val)
    let good := (List.range 5).filter (fun l => lanes.getLsbD l)
    let start := s.chip.count / superframeLen s.chip p.val * superframeLen s.chip p.val
    let measuring := fun (q : Port) => { q with st := .measure, entered := s.chip.count, stamps := 0, results := [], stamp := none,
                                                trip := none, timed := [] }
    let late := fun (n : Nat) => Answers (.trainingTimeout p) s (fun t => fallen q t ∧ t.chip.count = max s.chip.count (q.entered + n))
    (q.st = .detect → Answers (.detectDone p) s (fun t => Keeps s t [] ∧
      port { q with st := .equalize, entered := s.chip.count, fullRate := false } t)) ∧
    (q.st = .equalize → 2 ≤ good.length → Answers (.equalizeDone p lanes) s (fun t =>
      let w := if good.length < 4 ∨ (q.fullRate = true ∧ portWidth s.chip p.val = 2) then 2 else 4
      port { q with st := .align, entered := s.chip.count, lanes := lanes.toNat, txMap := (portAt t.chip p.val).txMap,
                    slotNext := firstSlot t.chip p.val s.chip.count } t ∧
      shows (reg t.chip (entry 6)) w good ∧ Keeps s t [entry 5, entry 6] ∧
      (q.fullRate = true → reg t.chip (entry 5) = w ∧
        shows (portAt t.chip p.val).txMap w ((List.range 5).filter (fun l => q.peerLanes.testBit l))) ∧
      (q.fullRate = false → reg t.chip (entry 5) = reg s.chip (entry 5) ∧ (portAt t.chip p.val).txMap = q.txMap))) ∧
    (q.st = .equalize → good.length < 2 → Answers (.equalizeDone p lanes) s (down { q with lanes := lanes.toNat })) ∧
    (q.st = .align → Answers (.alignDone p) s (fun t => Keeps s t [] ∧
      port { (if q.fullRate then measuring q else { q with st := .exchange, entered := s.chip.count }) with
        record := [], rxAlign := start, fecBad := false } t)) ∧
    (∀ x r, q.st = .exchange → takeCtl q 3 0x10 = some (x, r) → Answers (.trainingRecordReceive p) s (fun t =>
      port { r with record := x.payload :: q.record.take 1 } t ∧ Keeps s t [])) ∧
    (∀ a, q.st = .exchange → q.record = [a, a] →
      let v := min (reg s.chip (key 0x5000 1)) (field a 0 1)
      let w := if q.reqWidth = 4 ∧ field a 3 1 = 4 ∧ 4 ≤ (workingLanes q.lanes).length ∧
        4 ≤ (workingLanes (field a 32 1)).length then 4 else 2
      let mismatch := fun (t : State) => (expectedPeer s.chip p.val ≠ some (field a 4 4) → logged t 0x0406) ∧
        (slice a 16 16 ≠ settingsDigest s.chip → logged t 0x0407)
      (max 2 (field a 1 1) ≤ v → Answers (.exchangeDone p) s (fun t => OnlyPort s t p.val ∧
        reg t.chip (entry 4) = v ∧ reg t.chip (entry 5) = w ∧ shows (reg t.chip (entry 6)) w (workingLanes q.lanes) ∧
        reg t.chip (entry 9) = field a 4 4 ∧ reg t.chip (entry 10) = field a 2 1 ∧ reg t.chip (entry 11) = field a 8 8 ∧
        (portAt t.chip p.val).digest = slice a 16 16 ∧
        shows (portAt t.chip p.val).txMap w (workingLanes (field a 32 1 % 32)) ∧
        (portAt t.chip p.val).st = (if v = 2 then .measure else .equalize) ∧
        ((portAt t.chip p.val).fullRate = true ↔ q.fullRate = true ∨ v ≠ 2) ∧
        KeepsButLog s t [entry 4, entry 5, entry 6, entry 9, entry 10, entry 11] ∧
        mismatch t)) ∧
      (v < max 2 (field a 1 1) → Answers (.exchangeDone p) s (fun t => OnlyPort s t p.val ∧ t.chip.count = s.chip.count ∧
        portAt t.chip p.val = stopped t.chip { q with digest := slice a 16 16 } .down ∧ logged t 0x0404 ∧
        reg t.chip (entry 4) = 0 ∧ reg t.chip (entry 9) = field a 4 4 ∧ reg t.chip (entry 10) = field a 2 1 ∧
        reg t.chip (entry 11) = field a 8 8 ∧ mismatch t))) ∧
    (q.st = .measure → q.results.length = 64 → q.replay = [] → s.chip.plan.image = none → Answers (.measureDone p q.results) s (fun t =>
      ∃ l : List Nat, l.Perm q.results ∧ l.Pairwise (· ≤ ·) ∧
        let m := cdiv (l.getD 31 0 + l.getD 32 0) 4
        reg t.chip (entry 7) = m ∧ reg t.chip (entry 8) = 2 * m + 96 ∧
        KeepsButLog s t [entry 2, entry 7, entry 8, key 0x8010 3] ∧
        (reg s.chip (key 0x8010 3) ≠ 3 → reg t.chip (key 0x8010 3) = reg s.chip (key 0x8010 3)) ∧
        (qz5 s.chip = true → p.val = portA s.chip → portVersion s.chip p.val = 2 → reg s.chip (key 0x8010 3) = 3 →
          reg t.chip (key 0x8010 3) = 0) ∧ Reported s t 0x0405 (.port p.val) ∧
        port { q with st := .active, entered := s.chip.count, burst := [], heldNak := false, nakAck := none, timed := [],
                      slotNext := firstSlot s.chip p.val s.chip.count } t)) ∧
    (q.st = .equalize → late 2000000) ∧ (q.st = .align ∨ q.st = .exchange → late 500000) ∧
    (q.st = .measure → late (64 * superframeLen s.chip p.val + 500000)) ∧
    (q.st = .active → Answers (.lockLost p) s (down q)) ∧
    (q.st = .down → Answers (.peerTrainingPatternSeen p) s (fun t => reg t.chip (entry 4) = 0 ∧ reg t.chip (entry 5) = 0 ∧
      Keeps s t [entry 4, entry 5] ∧ port { stopped s.chip q .detect with
        fullRate := false, record := [], ctl := q.ctl.filter (fun x => x.kind != 3) } t)) ∧
    (portSends q.st = true → Answers (.codewordRelock p) s (fun t =>
      port { q with rxAlign := start, fecBad := false } t ∧ Keeps s t []))

/-- What asking for a retrain at a width does (11 R363 R366): an Active port queues a request with its identity, which the
slot that sends it makes outstanding (`PortMessages`); a Disabled
or Fenced one refuses with status 5; any other goes to Detect. -/
def Sys2Proof.Claims.asksRetrain (s t : State) (p w : Nat) : Prop :=
  let q := portAt s.chip p
  let status := reg t.chip (key (0x5100 + p) 2)
  OnlyPort s t p ∧
  (q.st = .active → status = 1 ∧ (portAt t.chip p).retrainOut = q.retrainOut ∧ (portAt t.chip p).reqWidth = w ∧
    gainsMsg s t p 0x24 (some (leBytes 1 w ++ leBytes 7 0 ++ leBytes 8 (s.fuses.unique * 256 + p))) ∧
    (portAt t.chip p).st = .active) ∧
  (q.st = .disabled ∨ q.st = .fenced → status = 5 ∧ (portAt t.chip p).st = q.st ∧ (portAt t.chip p).msgs = q.msgs) ∧
  (q.st ≠ .active → q.st ≠ .disabled → q.st ≠ .fenced → status = 1 ∧ (portAt t.chip p).st = .detect ∧
    (portAt t.chip p).reqWidth = w ∧ reg t.chip (key (0x5100 + p) 4) = 0 ∧ reg t.chip (key (0x5100 + p) 5) = 0)

/-- 11 R363 to R367, 12 R400 to R403: the port commands, the deferred narrowing, and the fence modes: an electrical fence
discards and counts what the port's queues hold; leaving it the port is Down; under it no command moves the port (the
last and the payload of 24h are the model's: log 19; so is status 5 for a retrain of a Disabled or Fenced port: log 32). -/
def Obligations.PortCommands : Prop :=
  ∀ (s : State) (p : Fin 32),
    let q := portAt s.chip p.val
    let entry := fun (n : Nat) => key (0x5100 + p.val) n
    let written := fun (x : Instr) (P : State → Prop) => Serves s → Answers x s (fun t => served s t ∧ P t)
    let fence := fun (v : Nat) (t : State) => OnlyPort s t p.val ∧ reg t.chip (entry 13) = v ∧
      Keeps s t [entry 13, key 0x2002 1] ∧
      portAt t.chip p.val = if q.st = .fenced then { q with st := .down, entered := s.chip.count } else q
    (q.st = .disabled → written (.portEnable p) (fun t => OnlyPort s t p.val ∧
      reg t.chip (entry 2) = 1 ∧ (portAt t.chip p.val).st = .detect ∧
      Keeps s t [entry 2, entry 4, entry 5, key 0x2002 1])) ∧
    written (.portRetrain p) (fun t => asksRetrain s t p.val (if portWidth s.chip p.val = 2 then 2 else 4)) ∧
    written (.portWiden p) (fun t => asksRetrain s t p.val 4) ∧
    (runs s.chip = false ∨ rowsOnPort s.chip p.val = [] → written (.portNarrow p) (fun t => asksRetrain s t p.val 2)) ∧
    (runs s.chip = true → rowsOnPort s.chip p.val ≠ [] → written (.portNarrow p) (fun t =>
      OnlyPort s t p.val ∧ portAt t.chip p.val = { q with deferred := true } ∧ reg t.chip (entry 2) = 3 ∧
      KeepsButLog s t [entry 2, key 0x2002 1] ∧ Reported s t 0x040A (.port p.val))) ∧
    (Quiet s → q.deferred = true → s.chip.plan.state = .halted ∨ s.chip.plan.state = .empty →
      Answers (.deferredNarrow p) s (fun t => asksRetrain s t p.val 2 ∧ (portAt t.chip p.val).deferred = false)) ∧
    (q.st ≠ .fenced → written (.portDisable p) (fun t => OnlyPort s t p.val ∧ reg t.chip (entry 2) = 2 ∧
      reg t.chip (entry 4) = 0 ∧ Keeps s t [entry 2, entry 4, key 0x2002 1] ∧
      portAt t.chip p.val = stopped s.chip q .disabled)) ∧
    (q.st = .fenced → written (.portDisable p) (fun t => OnlyPort s t p.val ∧ reg t.chip (entry 2) = 5 ∧
      Keeps s t [entry 2, key 0x2002 1] ∧ portAt t.chip p.val = q)) ∧
    written (.fenceOpen p) (fence 0) ∧ written (.logicalFence p) (fence 1) ∧
    written (.electricalFence p) (fun t => OnlyPort s t p.val ∧ reg t.chip (entry 13) = 2 ∧
      portAt t.chip p.val = { stopped s.chip q .fenced with egress := [], escq := [] } ∧
      reg t.chip (key 0x5410 4) = (reg s.chip (key 0x5410 4) + (q.escq.length + q.egress.length)) % 2 ^ 64)

/-- What the slot that first sends a message control carriage settles (10 R321, 11 R355 R366): a spare request its proposed
switch count and a retrain accept its start count, the first superframe start at least 5,440 ticks later; a retrain request
is outstanding from then on; a forwarded launch message loses the tick pairs since its receipt (counted from there by the
model: log 23), the root's own none. -/
def Sys2Proof.Claims.SentMessages : Prop :=
  ∀ (s : State) (p : Fin 32) (a : Nat) (x : Carriage), SlotReady s p.val a →
    let q := portAt s.chip p.val
    let t16 := slotStart16 s.chip p.val a
    let v2 := portVersion s.chip p.val == 2
    let soon := superframeAt s.chip p.val (t16 / 16 + 5440)
    let sends := fun (y : Carriage) (P : Port → Prop) => Answers (.slotTransmit p a) s (fun t => P (portAt t.chip p.val) ∧
      sentOut s t (.carriage p.val a (carriageBytes v2 y q.nextSeq ((q.expect + 65535) % 65536)
        (q.nakDue && q.nakOut.any (fun n => decide (n + 16 ≤ t16))) false)))
    q.burst = [] → q.st = .active → (toSend (portOpen s.chip p.val) q a).head? = some x → x.kind = 4 →
      (x.fields % 256 = 0x24 → sends x (fun q' => q'.retrainOut = some (field x.payload 0 1))) ∧
      (∀ w, x.fields % 256 = 0x25 → q.acceptW = some w → soon < 2 ^ 64 →
        sends { x with payload := splice x.payload 0 (leBytes 8 soon) }
          (fun q' => 8 ≤ x.payload.length → q'.retrainAt = some (soon, w) ∧ q'.acceptW = none)) ∧
      (x.fields % 256 = 0x22 → sends { x with payload := splice x.payload 8 (leBytes 8 soon) } (fun _ => True)) ∧
      (∀ o l, x.fields % 256 = 0x21 → q.fwdAt = o :: l → sends
        { x with payload := splice x.payload 0 (leBytes 4 (field x.payload 0 4 -
          (match o with | some u => cdiv (t16 / 16 - u) 2 | none => 0))) }
        (fun q' => q'.fwdAt = l))

/-- 11 R352 to R356 R366: what the control carriages of a port do: retrain request, accept and start, digest notice, the
parent's step-start stamp, and lane sparing; the layouts of the retrain and spare payloads are the model's (log 19), and so is
status 4 for an own request that has not been sent when the peer's comes (log 32). -/
def Obligations.PortMessages : Prop :=
  SentMessages ∧ ∀ (s : State) (p : Fin 32) (x : Ctl) (r : Port), Quiet s →
    let q := portAt s.chip p.val
    let map6 := key (0x5100 + p.val) 6
    let port := fun (q' : Port) (t : State) => OnlyPort s t p.val ∧ portAt t.chip p.val = q'
    let w := field x.payload 0 1
    let accepts := fun (t : State) => port { r with
      retrainAt := none, retrainOut := none, acceptW := some w,
      msgs := r.msgs.filter (fun x => x.fields % 256 != 0x24 && x.fields % 256 != 0x25) ++
        [⟨4, 0, 0x25, List.replicate 256 0⟩] } t
    let asked := q.retrainOut.isSome = true ∨ ∃ y ∈ r.msgs, y.fields % 256 = 0x24
    (takeCtl q 4 0x24 = some (x, r) →
      (¬asked → Answers (.retrainRequestReceive p) s (fun t => accepts t ∧ Keeps s t [])) ∧
      (q.retrainOut.isSome = true → field x.payload 8 8 < s.fuses.unique * 256 + p.val →
        Answers (.retrainRequestReceive p) s (fun t => port r t ∧ Keeps s t [])) ∧
      (asked → q.retrainOut = none ∨ s.fuses.unique * 256 + p.val ≤ field x.payload 8 8 →
        Answers (.retrainRequestReceive p) s (fun t => accepts t ∧ reg t.chip (key (0x5100 + p.val) 2) = 4 ∧
          Reported s t 0x040A (.port p.val)))) ∧
    (∀ o, takeCtl q 4 0x25 = some (x, r) → q.retrainOut = some o → Answers (.retrainAcceptReceive p) s (fun t =>
      port { r with retrainAt := some (field x.payload 0 8, o), retrainOut := none } t ∧ Keeps s t [])) ∧
    (∀ n o, q.retrainAt = some (n, o) → q.st = .active → Answers (.retrainStart p) s (fun t =>
      Keeps s t (key (0x5100 + p.val) 4 :: ticks) ∧ reg t.chip (key (0x5100 + p.val) 4) = 0 ∧
      t.chip.count = max s.chip.count n ∧
      port { q with st := .equalize, entered := max s.chip.count n, fullRate := false, reqWidth := o, retrainAt := none,
                    record := [], burst := [], timed := [], stamp := none, trip := none } t)) ∧
    (takeCtl q 4 0x26 = some (x, r) → Answers (.digestNoticeReceive p) s (fun t =>
      port { r with digest := slice x.payload 0 16 } t ∧ Keeps s t [])) ∧
    (takeCtl q 3 3 = some (x, r) → p.val = portA s.chip → qz5 s.chip = true → s.chip.plan.state = .running →
      s.chip.plan.cut = false → s.chip.time.qz5Adjust = 0 → field x.payload 0 8 = s.chip.plan.step →
      let t16 := x.at16 - lambda16 s.chip p.val - field x.payload 8 4
      let own := 16 * s.chip.plan.stepStart
      Answers (.stepStartStampReceive p) s (fun t => port r t ∧ t.chip.time = { s.chip.time with
        parentStep := some (s.chip.plan.step, t16),
        qz5Adjust := if t16 + 32 ≤ own then -1 else if own + 32 ≤ t16 then 1 else 0 })) ∧
    (∀ (lane : Fin 5) (n : Nat), q.st = .active → reg s.chip (key 0x5000 3) < n →
      (mapLane (reg s.chip map6) 4 = lane.val → Answers (.laneFail p lane (.symbols n)) s (fun t =>
        port { q with lanes := clearBit q.lanes lane.val } t ∧ Reported s t 0x0403 (.port p.val) ∧
        mapLane (reg t.chip map6) 4 = 7 ∧ (∀ k < 4, mapLane (reg t.chip map6) k = mapLane (reg s.chip map6) k) ∧
        KeepsButLog s t [map6])) ∧
      (∀ k < portWidth s.chip p.val, mapLane (reg s.chip map6) k = lane.val →
        (∀ j < k, mapLane (reg s.chip map6) j ≠ lane.val) → mapLane (reg s.chip map6) 4 ≠ lane.val →
        mapLane (reg s.chip map6) 4 ≠ 7 → reg s.chip (key 0x5000 2) = 1 → q.spareRx = none →
        Answers (.laneFail p lane .lock) s (fun t => Keeps s t [] ∧
          port { q with
            lanes := clearBit q.lanes lane.val, spareRx := some (k, none)
            msgs := q.msgs ++
              [⟨4, 0, 0x22, slice (leBytes 1 k ++ leBytes 1 lane.val ++ leBytes 14 0) 0 256⟩] } t))) ∧
    (takeCtl q 4 0x22 = some (x, r) →
      let f := max (field x.payload 8 8) (superframeAt s.chip p.val (cdiv x.at16 16 + 2720))
      Answers (.spareRequest p) s (fun t => Keeps s t [] ∧
        port { r with
          spareTx := some (w, f)
          msgs := r.msgs ++ [⟨4, 0, 0x23, slice (leBytes 1 w ++ leBytes 7 0 ++ leBytes 8 f) 0 256⟩] } t)) ∧
    (∀ k o, takeCtl q 4 0x23 = some (x, r) → q.spareRx = some (k, o) → Answers (.spareAcknowledgement p) s (fun t =>
      port { r with spareRx := some (k, some (field x.payload 8 8)) } t ∧ Keeps s t [])) ∧
    (∀ k f, k < 4 →
      let moved := fun (m m' : Nat) => mapLane m' k = mapLane m 4 ∧ mapLane m' 4 = 7 ∧
        ∀ j < 4, j ≠ k → mapLane m' j = mapLane m j
      (q.spareTx = some (k, f) → Answers (.laneSwitch p true) s (fun t => t.chip.count = max s.chip.count f ∧
        moved q.txMap (portAt t.chip p.val).txMap ∧ Reported s t 0x0402 (.port p.val) ∧
        port { q with txMap := (portAt t.chip p.val).txMap, spareTx := none } t)) ∧
      (q.spareRx = some (k, some f) → Answers (.laneSwitch p false) s (fun t => t.chip.count = max s.chip.count f ∧
        moved (reg s.chip map6) (reg t.chip map6) ∧ Reported s t 0x0402 (.port p.val) ∧
        KeepsButLog s t (map6 :: ticks) ∧ port { q with spareRx := none } t)))

/-! ## Carts and routes (12) -/

/-- The carts of a receive queue. -/
def Sys2Proof.Claims.waitingAt (s : State) (p : Nat) : List Cart := (portAt s.chip p).recv.map (·.1)

/-- A cart with one hop more in its payload (12 R382). -/
def Sys2Proof.Claims.hopped (x : Cart) : Cart := { x with payload := splice x.payload 5 (leBytes 1 (cartHops x + 1)) }

/-- 12 R382 R384 R391 to R396 R403 R406: the dispatcher takes the head of a queue: to an egress queue of the port its route
names, to its consumer, or away where that port is fenced, where it has no route or where it has taken 5 links, the one it
came by among them, of which its field counts those before (log 31); the escape takes a head that has waited its time for a
full queue. The level counted is that of the cart's destination (log 31). -/
def Sys2Proof.Claims.CartMoves : Prop :=
  ∀ (s : State) (die : Fin 4) (p : Fin 32) (x : Cart) (since : Nat) (rest : List (Cart × Nat)), Quiet s →
    s.chip.time.changing = false → p.val / 8 = die.val → (portAt s.chip p.val).recv = (x, since) :: rest →
    let q := fun (o : Nat) => portAt s.chip o
    let route := routeOf s.chip x.epoch x.dst
    let level := fun (n : Nat) => key (0x5400 + cartLevel s.chip x.dst) n
    let gone := fun (t : State) => waitingAt t p.val = rest.map (·.1) ∧ t.chip.tiles = s.chip.tiles ∧
      t.chip.mem = s.chip.mem ∧ t.chip.plan = s.chip.plan
    ((∀ k, k / 8 = die.val → k ≠ p.val → (q k).recv = []) →
      (∀ o, cartHops x < 4 → route = .port o → (q o).st ≠ .fenced → x.escape = false → (q o).egress.length < 256 →
        Answers (.cartDispatch die) s (fun t => gone t ∧ (portAt t.chip o).egress = (q o).egress ++ [hopped x] ∧
          reg t.chip (level 2) = (reg s.chip (level 2) + 1) % 2 ^ 64)) ∧
      (∀ o, cartHops x < 4 → route = .port o → (q o).st ≠ .fenced → x.escape = false → 256 ≤ (q o).egress.length →
        exec (.cartDispatch die) s = .next s) ∧
      (∀ o, route = .port o → (q o).st = .fenced → Answers (.cartDispatch die) s (fun t => gone t ∧
        reg t.chip (key 0x5410 4) = (reg s.chip (key 0x5410 4) + 1) % 2 ^ 64 ∧ Reported s t 0x0501 (.port o) ∧
        ∀ o, (portAt t.chip o).egress = (q o).egress)) ∧
      (route = .noRoute ∨ (∃ o, route = .port o ∧ (q o).st ≠ .fenced ∧ 4 ≤ cartHops x) → Answers (.cartDispatch die) s (fun t => gone t ∧
        reg t.chip (key 0x5410 3) = (reg s.chip (key 0x5410 3) + 1) % 2 ^ 64 ∧ Reported s t 0x0501 (.port p.val) ∧
        ∀ o, (portAt t.chip o).egress = (q o).egress)) ∧
      (route = .deliver → cartType x = 2 → cartTarget x < 4 → (stewAt s.chip (cartTarget x)).inbound.length < 32 →
        Answers (.cartDispatch die) s (fun t => gone t ∧ stewAt t.chip (cartTarget x) = { stewAt s.chip (cartTarget x) with
            inbound := (stewAt s.chip (cartTarget x)).inbound ++ [⟨x.payload, x.poison⟩] } ∧
          reg t.chip (key 0x5410 1) = (reg s.chip (key 0x5410 1) + 1) % 2 ^ 64)) ∧
      (route = .deliver → cartType x = 2 → cartTarget x < 4 → 32 ≤ (stewAt s.chip (cartTarget x)).inbound.length →
        exec (.cartDispatch die) s = .next s)) ∧
    (∀ o, x.escape = false → cartHops x < 4 → route = .port o → (q o).st ≠ .fenced → 256 ≤ (q o).egress.length →
      (q o).escq.length + 1 < 32 → Answers (.cartEscape p) s (fun t => gone t ∧
        t.chip.count = max s.chip.count (since + reg s.chip (key 0x5310 5)) ∧
        (portAt t.chip o).escq = (q o).escq ++ [{ hopped x with escape := true }] ∧
        reg t.chip (level 2) = (reg s.chip (level 2) + 1) % 2 ^ 64 ∧
        reg t.chip (level 4) = (reg s.chip (level 4) + 1) % 2 ^ 64))

/-- 12 R389 R393 R396: injection of the oldest waiting cart, with the tag and the epoch in force. -/
def Sys2Proof.Claims.CartInjection : Prop :=
  ∀ (s : State) (x : Cart) (rest : List Cart) (o : Nat), Quiet s → s.chip.time.changing = false →
    s.chip.fab.waiting = x :: rest → routeOf s.chip (epochNow s.chip) x.dst = .port o →
    let q := portAt s.chip o
    q.st ≠ .fenced → x.escape = false →
    (throttled s.chip (cartLevel s.chip x.dst) = false → q.egress.length + 1 + reg s.chip (key 0x5310 6) ≤ 256 →
      Answers .cartInject s (fun t => t.chip.fab.waiting = rest ∧
        (portAt t.chip o).egress = q.egress ++ [{ x with epoch := epochNow s.chip, tag := tagNow s.chip }] ∧
        (∀ k, k ≠ o → portAt t.chip k = portAt s.chip k) ∧ t.chip.plan = s.chip.plan ∧ t.chip.mem = s.chip.mem)) ∧
    (rest = [] → (throttled s.chip (cartLevel s.chip x.dst) = true ∨
      256 < q.egress.length + 1 + reg s.chip (key 0x5310 6)) → exec .cartInject s = .next s)

/-- 12 R397: pressure carts go to the node mates when a throttle of the group or system level begins and 65,536 ticks
after that level's last, each level by its own last and the carts naming those that are due (log 31); a level's pressure
ends at its count. -/
def Sys2Proof.Claims.Pressure : Prop :=
  ∀ (s : State), Quiet s →
    let (g, n, own) := devParts (devId s.chip)
    let held := fun lv => s.chip.fab.own.getD lv false
    let last := fun lv => s.chip.fab.pressureSent.getD lv none
    let due := fun lv => match last lv with
      | some u => max s.chip.count (u + 65536)
      | none => s.chip.count
    let first := if held 1 ∧ held 2 then min (due 1) (due 2) else if held 1 then due 1 else due 2
    let named := fun lv => held lv ∧ due lv = first
    (held 1 = false → held 2 = false → Answers .pressureCartSend s (fun t =>
      t = { s with chip := { s.chip with fab := { s.chip.fab with pressureSent := [none, none, none] } } })) ∧
    (held 1 ∨ held 2 → (∀ k, (portAt s.chip k).escq.length < 16 ∧ (portAt s.chip k).st ≠ .fenced) →
      Answers .pressureCartSend s (fun t => t.chip.count = first ∧
        (∀ lv, lv = 1 ∨ lv = 2 → t.chip.fab.pressureSent.getD lv none =
          if named lv then some first else if held lv then last lv else none) ∧
        t.chip.plan = s.chip.plan ∧ t.chip.mem = s.chip.mem ∧
        ∀ l < 16, l ≠ own → ∀ o, routeOf s.chip (epochNow s.chip) (devOf g n l) = .port o →
          ∃ x ∈ (portAt t.chip o).escq, x.dst = devOf g n l ∧ cartType x = 6 ∧
            field (cartData x) 0 1 = (if named 1 then 1 else 0) + (if named 2 then 2 else 0))) ∧
    (∀ a, s.chip.fab.pressure = [some a, none] → Answers .pressureExpire s (fun t => t.chip.fab.pressure = [none, none] ∧
      t.chip.count = max s.chip.count a ∧ Reported s t 0x0502 .modl ∧ t.chip.ports = s.chip.ports ∧ KeepsButLog s t ticks))

/-- A default route table of the wiring of R35: node hops by the local position, group and system hops by the holder of the
port and the port (12 R386). -/
structure Sys2Proof.Claims.Wired (d : Nat) (b : List Byte) : Prop where
  length : b.length = 528
  node : ∀ i < 16, field b i 1 = if i = d % 16 then 0xFF else (i + 15 - d % 16) % 16
  group : ∀ i < 128, let o := (i + 127 - d / 16 % 128) % 128
    if i = d / 16 % 128 then field b (0x10 + 2 * i) 2 = 0xFFFF
    else field b (0x10 + 2 * i) 1 = o / 8 ∧ field b (0x11 + 2 * i) 1 = 15 + o % 8
  system : ∀ i < 128, let o := (i + 127 - d / 2048 % 128) % 128
    if i = d / 2048 % 128 then field b (0x110 + 2 * i) 2 = 0xFFFF
    else field b (0x110 + 2 * i) 1 = o / 8 ∧ field b (0x111 + 2 * i) 1 = 23 + o % 8

/-- 01 R34 R35, 12 R385 to R389: a route table is written where no cart of its epoch waits (`cartsHeld`, log 31) and it is not the active one of a
run; a device ID fills both versions, all FFh for none; the role and the substitute of port 31. -/
def Sys2Proof.Claims.RouteWrites : Prop :=
  ∀ (s : State) (v : Fin 2) (bytes : List Byte) (id : BitVec 32) (n : BitVec 8), Serves s →
    let rest := runs s.chip = false ∧ s.chip.plan.loading = none
    (bytes.length = 528 → cartsHeld s.chip v.val = 0 → runs s.chip = false ∨ reg s.chip (key 0x5301 1) ≠ v.val →
      Answers (.routeTableWrite v bytes) s (fun t => served s t ∧ Keeps s t [key 0x2002 1] ∧
        routeTable t.chip v.val = bytes ∧ ∀ e, e ≠ v.val → routeTable t.chip e = routeTable s.chip e)) ∧
    (rest → id.toNat < 2 ^ 18 → Answers (.deviceIdWrite id) s (fun t => served s t ∧ devId t.chip = id.toNat ∧
      Wired id.toNat (routeTable t.chip 0) ∧ routeTable t.chip 1 = routeTable t.chip 0 ∧
      Keeps s t [key 0x1020 1, key 0x2002 1] ∧ t.chip.ports = s.chip.ports)) ∧
    (rest → Answers .deviceIdUnassign s (fun t => served s t ∧ devId t.chip = 2 ^ 32 - 1 ∧
      Keeps s t [key 0x1020 1, key 0x2002 1] ∧ ∀ e < 2, routeTable t.chip e = List.replicate 528 0xFF)) ∧
    (rest → n.toNat ≤ 2 → roleFits n.toNat (reg s.chip (key 0x5010 2)) = true → Answers (.port31RoleWrite n) s (fun t =>
      reg t.chip (key 0x5010 1) = n.toNat ∧ KeepsButLog s t [key 0x5010 1, key 0x2002 1] ∧ served s t ∧
      t.chip.ports = s.chip.ports)) ∧
    (rest → n.toNat ≤ 22 ∨ n.toNat = 0xFF → roleFits (reg s.chip (key 0x5010 1)) n.toNat = true →
      Answers (.port31SubstituteWrite n) s (fun t => reg t.chip (key 0x5010 2) = n.toNat ∧
        Keeps s t [key 0x5010 2, key 0x2002 1] ∧ served s t ∧ t.chip.ports = s.chip.ports))

/-- 12: carts, their injection, pressure, and the entries that route them. -/
def Obligations.CartsAndRoutes : Prop := CartMoves ∧ CartInjection ∧ Pressure ∧ RouteWrites

/-! ## Plans, commits and writes (01, 06, 15) -/

/-- 06 R164 R165 R169 R182, 05 R123: unloading discards the plan and parks every tile; a load discards it too and begins its
phase 1; a re-place begins its phase 4 and keeps plan and tiles until its end. -/
def Sys2Proof.Claims.PlanLoads : Prop :=
  ∀ (s : State), Quiet s → runs s.chip = false → s.chip.plan.loading = none → s.chip.det.importing = none →
    let parked := fun (t : State) => ∀ site, (tileAt t.chip site).ti = 0xFFFF ∧ (tileAt t.chip site).mask = 0
    let empty := fun (t : State) => t.chip.plan.image = none ∧ t.chip.plan.place = none ∧ parked t ∧
      t.chip.plan.state = .empty ∧ t.chip.srv.sess = [] ∧ reg t.chip (key 0x6000 1) = 0 ∧ reg t.chip (key 0x2010 4) = 0 ∧
      reg t.chip (key 0x2000 2) = 2 ^ 64 - 1 ∧ served s t
    (s.chip.plan.state ≠ .empty → Answers .planUnload s (fun t => empty t ∧ t.chip.mem = s.chip.mem ∧
      t.chip.plan = Plan.reset ∧ t.chip.wts.dir = s.chip.wts.dir ∧ t.chip.err = s.chip.err)) ∧
    Answers .planLoad s (fun t => empty t ∧ reg t.chip (key 0x2020 4) = 1 ∧ reg t.chip (key 0x2020 7) = 1 ∧
      t.chip.srv.window = [] ∧ t.chip.plan.loading = some ⟨1, 1, [], [], none, none⟩) ∧
    (s.chip.plan.state = .loaded ∨ s.chip.plan.state = .halted → Answers .replace s (fun t => served s t ∧
      reg t.chip (key 0x2020 4) = 1 ∧ reg t.chip (key 0x2020 7) = 4 ∧ t.chip.tiles = s.chip.tiles ∧
      t.chip.mem = s.chip.mem ∧
      t.chip.plan = { s.chip.plan with loading := some ⟨3, 4, [], [], s.chip.plan.image, none⟩ }))

/-- Checks in their order, each with the status and detail that it gives: the first that fails gives these. -/
def Sys2Proof.Claims.firstFails (l : List (Prop × Nat × Nat)) (st d : Nat) : Prop :=
  ∃ pre p post, l = pre ++ (p, st, d) :: post ∧ (∀ x ∈ pre, x.1) ∧ ¬p

/-- A verdict as a check. -/
def Sys2Proof.Claims.gives (v : Verdict) : List (Prop × Nat × Nat) := v.toList.map (fun e => (False, e.1, e.2))

/-- The checks of phase 2 (06 R165 R152 to R157), of the container's bytes. -/
def Sys2Proof.Claims.verifying (s : State) (b : List Byte) : List (Prop × Nat × Nat) :=
  let sb := b.drop (sigOffset b)
  let all1 := 2 ^ 32 - 1
  [(b.length = field b 16 8, 0x0101, all1), (headerOk b 1 = true, 0x0102, all1)] ++ gives (tableVerdict b (signerCount sb)) ++
    [(sigBlockOk sb = true, 0x0102, all1 - 1)] ++ gives (unknownCritical b) ++
    (secTable b).map (fun e => (sha3_384 (storedBytes b e) = e.hash, 0x0104, e.idx)) ++
    gives (signVerdict s.chip (keySlots s.chip 0xA020 4) (ascii "Terot plan 1") (manifestHash b) sb) ++
    (match plainSections s.fuses s.chip b with
      | .error i => [(False, 0x0204, i)]
      | .ok _ => [])

/-- The checks of phase 3 (06 R165 R158 R159 R168, 05 R119 R149), of the sections. What of a section's form counts as malformed,
and where loops outside 05 R118 stand, is log 24. -/
def Sys2Proof.Claims.checking (s : State) (ss : List Plain) : List (Prop × Nat × Nat) :=
  let hb := theSection ss 1
  let h := readHdr hb
  let ct := theSection ss 6
  let im := planImage ss [] s.fuses.stepping
  let ranges := 2048 ≤ h.stepLen ∧ h.stepLen ≤ 2 ^ 24 ∧ 1 ≤ h.variants ∧ h.variants ≤ 16 ∧ h.dflt < h.variants ∧ 1 ≤ h.tpd ∧
    h.tpd ≤ 48 ∧ h.freq ≤ 3 ∧ 1 ≤ h.devices ∧ h.devices ≤ 2 ^ 18 ∧ 1 ≤ h.slack ∧ h.slack ≤ 65535 ∧ 1 ≤ h.regions ∧
    h.regions ≤ 65536 ∧ h.coachRows ≤ 2 ^ 31 ∧ allZero (slice hb 24 40) = true
  [(countsOk ss = true ∧ hb.length = 64, 0x0301, 0), (ct.length % 48 = 0 ∧ ct.length / 48 = h.coachRows, 0x0301, 0),
    (∃ x ∈ ss, x.1.type = 2 ∧ x.1.stepping = s.fuses.stepping, 0x0302, 0), (ranges, 0x0303, 0),
    (sectionsOk ss h = true, 0x0301, 0), (∀ p ∈ im.progs, loopsOk 0 p = true, 0x0301, 0),
    (h.freq = reg s.chip (key 0x8000 1), 0x0304, 0), (streamFits im = true, 0x0305, 0)] ++
    (List.range im.tmasks.length).map (fun n => ((im.tmasks.getD n 0).testBit 0 = true, 0x0306, n)) ++
    gives (streamVerdict s.chip im)

/-- The checks of phase 4 (06 R165 R34 R162 R163 R174 R175 R179) for a partition map of n devices. The place of the placer's own refusals is
log 24; quarters and channels without a byte bound are log 35. -/
def Sys2Proof.Claims.placing (s : State) (im : PlanImage) (n : Nat) : List (Prop × Nat × Nat) :=
  let c := s.chip
  let id := devId c
  let dev := fun (i : Nat) => im.devIds.getD i (2 ^ 32 - 1)
  let own := im.devIds.findIdx (· == id)
  let hops := ownHops im own
  let r := placeRegions im.regions
  let binds := fun (b : Bind) (fits : Nat → Nat → Prop) =>
    0 < bytesOf im b → ∀ u ∈ b.unit :: b.unit2.toList, fits u (b.off + bytesOf im b)
  [(id ≠ 2 ^ 32 - 1, 0x0401, 0), (id ∈ im.devIds, 0x0402, id),
    (im.tag < 4096 ∧ n = im.hdr.devices ∧ im.devIds.length = n, 0x0403, 0)] ++
    (List.range im.devIds.length).map (fun i => (∀ j < i, dev j ≠ dev i, 0x0403, i)) ++
    im.weights.map (fun e => (e < 66 ∧ ((wentry c e).a.st = .live ∨ (wentry c e).b.st = .live), 0x0404, e)) ++
    (List.range 4).map (fun d => (im.hdr.tpd ≤ (List.range 48).countP (fun k => (s.fuses.maps.getD d 0).testBit k), 0x0501, d)) ++
    hops.flatMap (fun (row, _, other) => [(wiredPort id (dev other) ≠ none, 0x0504, row),
      (∀ p, wiredPort id (dev other) = some p → portFailed c p = true → substitutes c p = true, 0x0505, row)]) ++
    r.hbm.map (fun b => (binds b (fun q top => reg c (key 0x4011 (q + 1)) ≠ 2 ∧
      top + reg c (key 0x4000 1) / 4 ≤ 0x500000000), 0x0502, b.region)) ++
    r.mrd.map (fun b => (binds b (fun ch top => top + reg c (key 0x4000 2) ≤ fitted c ch), 0x0503, b.region)) ++
    [(∀ x ∈ im.init, ∃ y, im.regions.find? (fun r => r.num == x.region) = some y ∧ x.off + x.data.length ≤ y.size, 0x0301, 0),
      (hops.length ≤ 1048576, 0x0506, hops.length)]

/-- The checks of phase 5 (06 R170 to R173, 12 R375 to R381), of a plan's coach rows on a placement. -/
def Sys2Proof.Claims.coaching (s : State) (im : PlanImage) (pl : Place) (bad : Bool × List (Nat × Nat)) :
    List (Prop × Nat × Nat) :=
  let c := setReg { s.chip with plan := { s.chip.plan with image := some im, place := some pl } } (key 0x2010 4) im.hdr.stepLen
  let rows := fun (st : Nat) (ok : Nat → CoachRow → Prop) => im.coaches.zipIdx.map (fun (r, i) => (ok i r, st, i))
  let mine := mineOf pl
  let sends := fun (r : CoachRow) => r.src = pl.own
  let ends := fun (r : CoachRow) => (pathDevs r).getD r.hops (2 ^ 32 - 1) = pl.own
  let res := reservedSlots im pl
  let nth := fun (k : Nat) => res.getD k ⟨0, 0, 0, false, 0⟩
  rows 0x0601 (fun _ r => (sends r → coachIssued c im true r.sendNo r.send r.vmask = true) ∧
      (ends r → coachIssued c im false r.recvNo r.release r.vmask = true)) ++
    [(bad.1 = false, 0x0605, 0)] ++ bad.2.map (fun x => (x.2 ∉ mine x.1, 0x0605, x.1)) ++ gives (recordsVerdict im) ++
    rows 0x0605 (fun i r => mine i ≠ [] → rowRecordsOk im i r (mine i) = true) ++
    pl.hops.map (fun x => (portVersion c x.2.2 = im.slotVersion, 0x0605, x.1)) ++
    (List.range res.length).map (fun k => (∀ j < k, ¬((nth j).port = (nth k).port ∧ (nth j).slot = (nth k).slot ∧
      ((nth j).next = true ∨ (nth k).next = true ∨ (nth j).vmask &&& (nth k).vmask ≠ 0)), 0x0602, (nth k).row)) ++
    (List.range im.hdr.variants).flatMap (fun v =>
      let here := res.filter (fun x => x.next || x.vmask.testBit v)
      here.map (fun x => (¬∀ k < 8, ∃ y ∈ here, y.port = x.port ∧ y.slot = x.slot + k, 0x0602, x.row))) ++
    rows 0x0605 (fun i r => sends r → ∃ a, recOf im i 1 = some a ∧ ∀ k < r.k,
      100 * (r.send + 40 + 4 * (k + 1)) ≤ slotTime im a k 0) ++
    rows 0x0603 (fun i r => ∀ h < r.hops, h ≠ 0 → (pathDevs r).getD h (2 ^ 32 - 1) = pl.own →
      ∃ a b, recOf im i h = some a ∧ recOf im i (h + 1) = some b ∧ ∀ k < r.k,
        slotTime im a k 1 + 100 * (rxLatency c pl i h + im.hdr.slack + 40) ≤ slotTime im b k 0) ++
    rows 0x0603 (fun i r => ends r → ∃ a, recOf im i r.hops = some a ∧ ∀ k < r.k,
      slotTime im a k 1 + 100 * (rxLatency c pl i r.hops + im.hdr.slack) ≤ 100 * releaseCc im r a) ++
    rows 0x0603 (fun i r => mine i ≠ [] → coachTime c i r = true) ++ gives (yardVerdict (stepCc im) (yardStays c im pl)) ++
    rows 0x0601 (fun i r => ends r → ∃ a, recOf im i r.hops = some a ∧
      (a.relNext = true → ∀ v < im.hdr.variants, r.vmask.testBit v = true))

/-- 06 R165 R182: the end of a load or a re-place: with the status and detail of the first check that fails in the phase in
hand (in phase 1 the staging window's), the plan held as it was; or, all phases done, with the plan Loaded and its tiles
bound, or the new placement in force. -/
def Sys2Proof.Claims.LoadCompletes : Prop :=
  ∀ (s : State) (l : Loading), Quiet s → s.chip.plan.loading = some l →
    let ended := fun (st d : Nat) (t : State) => t.chip.plan.loading = none ∧ reg t.chip (key 0x2020 4) = st ∧
      reg t.chip (key 0x2020 5) = d ∧ reg t.chip (key 0x2020 7) = 0
    let failed := fun (st d : Nat) (t : State) => ended st d t ∧ Reported s t 0x0801 .modl ∧
      t.chip.plan = { s.chip.plan with loading := none } ∧ t.chip.tiles = s.chip.tiles ∧ t.chip.mem = s.chip.mem ∧
      KeepsButLog s t [key 0x2020 4, key 0x2020 5, key 0x2020 7]
    let refuses := fun (checks : List (Prop × Nat × Nat)) =>
      ∀ st d, firstFails checks st d → Answers .loadComplete s (failed st d)
    let bad := if l.cmd = 1 then slotsFault l.secs else (false, [])
    (l.phase = 1 → inStaging s.chip (reg s.chip (key 0x2020 2)) (reg s.chip (key 0x2020 3)) = false →
      Answers .loadComplete s (failed 0x0101 (2 ^ 32 - 1))) ∧
    (l.phase = 2 → refuses (verifying s l.copy)) ∧
    (l.phase = 3 → refuses (checking s l.secs)) ∧
    (∀ im, l.phase = 4 → l.image = some im →
      let own := im.devIds.findIdx (· == devId s.chip)
      let checks := placing s im (if l.cmd = 1 then field (theSection l.secs 8) 4 4 else im.hdr.devices)
      refuses checks ∧
      ((∀ x ∈ checks, x.1) → ∃ pl : Place, pl.own = own ∧ pl.sites = placeTiles s.fuses im.hdr.tpd ∧
        pl.hbm = (placeRegions im.regions).hbm ∧ pl.mrd = (placeRegions im.regions).mrd ∧
        pl.hash = sha3_256 (tileTable pl ++ regionTable pl ++ hopTable pl) ∧
        pl.hops.map (fun x => (x.1, x.2.1)) = (ownHops im own).map (fun x => (x.1, x.2.1)) ∧
        refuses (coaching s im pl bad))) ∧
    (∀ im pl, l.phase = 5 → l.image = some im → l.place = some pl → refuses (coaching s im pl bad)) ∧
    (∀ im pl, l.phase = 6 → l.image = some im → l.place = some pl →
      let bound := fun (t : State) => ∀ n < pl.sites.length,
        (∀ m < pl.sites.length, n < m → pl.sites.getD m 0 ≠ pl.sites.getD n 0) →
        let u := tileAt t.chip (pl.sites.getD n 0)
        u.ti = n ∧ u.mask = im.tmasks.getD n 1
      (l.cmd = 1 → Answers .loadComplete s (fun t => ended 0 0 t ∧ bound t ∧ t.chip.plan.state = .loaded ∧
        t.chip.plan.image = some im ∧ t.chip.plan.place = some pl ∧ reg t.chip (key 0x2010 4) = im.hdr.stepLen ∧
        reg t.chip (key 0x8030 4) = 0 ∧ (∀ d < 4, (stewAt t.chip d).code = im.code) ∧
        (∀ site, site ∉ pl.sites → (tileAt t.chip site).ti = 0xFFFF ∧ (tileAt t.chip site).mask = 0))) ∧
      (l.cmd = 3 → Answers .loadComplete s (fun t => ended 0 0 t ∧ bound t ∧ Reported s t 0x0801 .modl ∧
        t.chip.plan = { s.chip.plan with loading := none, place := some pl } ∧ t.chip.mem = s.chip.mem ∧
        (∀ site, site ∉ pl.sites → tileAt t.chip site = tileAt s.chip site) ∧
        (∀ site r, vreg (tileAt t.chip site) r = vreg (tileAt s.chip site) r))))

/-- An entry whose write has no effect but on its own value. -/
def Sys2Proof.Claims.plainEntry (i s : Nat) : Prop :=
  i ∉ [0x2000, 0x5300, 0x5310, 0x7020, 0xA010, 0xA020] ∧ ¬(0x5100 ≤ i ∧ i < 0x5120) ∧
  (i, s) ∉ [(0x1010, 1), (0x1020, 1), (0x2020, 1), (0x5010, 1), (0x6040, 2), (0x6040, 4), (0x7010, 1), (0x8000, 3),
    (0x8010, 1), (0x8030, 1), (0x8030, 5), (0x9000, 3), (0x9001, 3), (0xB011, 1), (0xB020, 5), (0xB040, 5), (0xB050, 1), (0xF010, 6)]

/-- Only entries, shadows and the notices that a changed setting sends to ports change. -/
def Sys2Proof.Claims.OnlyEntries (s t : State) : Prop :=
  t = { s with chip := { s.chip with regs := t.chip.regs, shadow := t.chip.shadow, commitCopy := t.chip.commitCopy,
                                     ports := t.chip.ports } }

/-- What an accepted write of a value leaves of an entry without an effect of its own (15 R448 R450 R451): a w1c entry loses the
bits of the value; a staged one keeps its own value and takes the new one into its shadow; any other takes it. -/
def Sys2Proof.Claims.takes (s t : State) (e : Ent) (k : Nat) (v : List Byte) : Prop :=
  (e.acc = .w1c → Keeps s t [k, key 0x2002 1] ∧
    ∀ b, (reg t.chip k).testBit b = ((reg s.chip k).testBit b && !(leNat v).testBit b)) ∧
  (e.acc ≠ .w1c → e.app = .staged → Keeps s t [key 0x2002 1] ∧ shadowOf t.chip k = leNat v ∧
    ∀ j, j ≠ k → j ≠ key 0x2002 1 → shadowOf t.chip j = shadowOf s.chip j) ∧
  (e.acc ≠ .w1c → e.app ≠ .staged → Keeps s t [k, key 0x2002 1] ∧ reg t.chip k = leNat v ∧ t.chip.shadow = s.chip.shadow)

/-- 15 R448 R450 R451 R467 R468: an accepted write of an entry without an effect of its own: the value is in force, or in the
shadow of a staged entry, or clears bits of a w1c entry; a write that a check refuses changes nothing but the counts of
requests, with its code and entry. -/
def Sys2Proof.Claims.EntryWrites : Prop :=
  ∀ (s : State) (i : BitVec 16) (sub : BitVec 8) (bytes : List Byte), Quiet s →
    let k := key i.toNat sub.toNat
    let code := writeCode s.fuses s.chip i.toNat sub.toNat bytes
    (∀ e, CaughtUp s.chip → entOf i.toNat sub.toNat = some e → code = 0 → plainEntry i.toNat sub.toNat →
      Answers (.entryWrite i sub bytes) s (fun t => OnlyEntries s t ∧ served s t ∧ takes s t e k bytes)) ∧
    (code ≠ 0 → Answers (.entryWrite i sub bytes) s (fun t => t = { s with chip := { s.chip with regs := t.chip.regs } } ∧
      served s t ∧ reg t.chip (key 0x2002 2) = (reg s.chip (key 0x2002 2) + 1) % 2 ^ 64 ∧
      reg t.chip (key 0x2002 3) = code ∧ reg t.chip (key 0x2002 4) = k ∧
      Keeps s t [key 0x2002 1, key 0x2002 2, key 0x2002 3, key 0x2002 4]))

/-- The word in lane l of a register with bits inverted, and its granule poisoned. -/
structure Sys2Proof.Claims.Spoilt (a l mask : Nat) (t t' : Tile) : Prop where
  lanes : ∀ k < 64, lane (vreg t' a) k =
    if k = l then lane (vreg t a) l ^^^ BitVec.ofNat 32 mask else lane (vreg t a) k
  poison : ∀ k < 4, (vreg t' a).poison.getD k false = ((vreg t a).poison.getD k false || decide (k = l / 16))
  others : ∀ r, r ≠ a → vreg t' r = vreg t r
  rest : t' = { t with v := t'.v }

/-- 04 R112 R113 R114, 14 R444, 15 R467, and log 37: an IADD that reads a lane which an error has struck reads it corrected, logged and
counted; or as stored, its granule poisoned, logged and counted. An armed injection of kind 2 on an active lane of the
integer unit leaves the value and taints it, is reported and counted at the boundary, and spends one opportunity; the
same of a predicate register that VCMP writes. A write of an entry that meets an uncorrectable error of the engine's own
storage is refused and writes nothing. -/
def Sys2Proof.Claims.StoredErrors : Prop :=
  (∀ (i : Issue) (g : Gov) (vd a b : Fin 64) (cc : Cc) (pd : Fin 8) (c : Chip) (site l since mask : Nat) (j : Inject),
    since ≤ nowCount c → l < 64 → site < 256 →
    let x := Instr.iadd i g vd a b
    let sum := on2 (fun x y => BitVec.ofNat 32 (x.toNat + y.toNat)) a (plain b)
    let d := tileIssue x c site
    let e := tileIssue (.vcmp i g cc pd a ⟨b, false⟩) c site
    let noted := fun (d : Chip) (code : Nat) (detail : List Nat) => ∃ o, d.err.pend = c.err.pend ++ [o] ∧
      o.code = code ∧ o.loc = locCode (.tile site) ∧ o.detail = detail
    let plus := fun (d : Chip) (k : Nat) => reg d k = (reg c k + 1) % 2 ^ 64 ∧ ∀ m, m ≠ k → reg d m = reg c m
    let others := fun (d : Chip) => (∀ y, y ≠ site → tileAt d y = tileAt c y) ∧ d.mem = c.mem ∧ d.plan = c.plan
    let spent := fun (d : Chip) => (j.left ≤ 1 → d.err.inj = none ∧ reg d (key 0xF010 7) = 3) ∧
      (1 < j.left → d.err.inj = some { j with left := j.left - 1, applied := true } ∧ reg d (key 0xF010 7) = 2) ∧
      smGet 0 d.acc.counts (key 0x3040 4) = smGet 0 c.acc.counts (key 0x3040 4) + 1 ∧
      ∀ m, m ≠ key 0xF010 7 → reg d m = reg c m
    (c.err.inj = none → c.flaws = [⟨.vreg site a.val l, since, false, mask⟩] →
      VecResult false g vd.val (sum (tileAt c site)) (tileAt c site) (tileAt d site) ∧ d.flaws = [] ∧ others d ∧
      plus d (key 0x4031 7) ∧ noted d 0x0203 [1, 64 * a.val + l]) ∧
    (c.err.inj = none → c.flaws = [⟨.vreg site a.val l, since, true, mask⟩] →
      (∃ t, Spoilt a.val l mask (tileAt c site) t ∧ VecResult false g vd.val (sum t) t (tileAt d site)) ∧
      d.flaws = [] ∧ others d ∧ plus d (key 0x4031 8) ∧ noted d 0x0204 [1, 64 * a.val + l]) ∧
    (c.flaws = [] → c.err.inj = some j → j.kind = 2 → injArmed c j = true → bits j.loc 7 0 = site → bits j.loc 13 8 = l →
      bits j.loc 18 16 = 0 → (preg (tileAt c site) g.p.val).val.testBit l = true →
      (VecResult false g vd.val (fun k => ((sum (tileAt c site) k).1, (sum (tileAt c site) k).2 || k == l))
          (tileAt c site) (tileAt d site) ∧ others d ∧ spent d ∧ noted d 0x0102 [l, 0]) ∧
      (preg (tileAt e site) pd.val).val = (preg (tileAt (tileExec (.vcmp i g cc pd a ⟨b, false⟩) c site) site) pd.val).val ∧
      (pd.val ≠ 0 → (preg (tileAt e site) pd.val).taint = true) ∧ others e ∧ spent e ∧ noted e 0x0102 [l, 0])) ∧
  (∀ (s : State) (i : BitVec 16) (sub : BitVec 8) (bytes : List Byte) (since mask : Nat) (y : Ent),
    s.chip.power.phase = .running → s.chip.err.pend = [] → since ≤ nowCount s.chip →
    s.chip.flaws = [⟨.dictionary, since, true, mask⟩] → entOf i.toNat sub.toNat = some y →
    writeCode s.fuses s.chip i.toNat sub.toNat bytes = 0 →
    Answers (.entryWrite i sub bytes) s (fun t =>
      t = { s with chip := { s.chip with regs := t.chip.regs, flaws := [] } } ∧ served s t ∧
      reg t.chip (key 0x2002 2) = (reg s.chip (key 0x2002 2) + 1) % 2 ^ 64 ∧ reg t.chip (key 0x2002 3) = 0x06000001 ∧
      reg t.chip (key 0x2002 4) = key i.toNat sub.toNat ∧
      Keeps s t [key 0x2002 1, key 0x2002 2, key 0x2002 3, key 0x2002 4]))

/-- 01 R29, 15 R451 R454 R455, 12 R389: a commit is scheduled and cancelled in a run and applied at once at rest, where every
staged entry takes its shadow and a requested flip changes the epoch; shadows are discarded; a halt is named for a step
not yet begun. -/
def Obligations.CommitsAndHalt : Prop :=
  ∀ (s : State) (n : BitVec 64), Serves s →
    let set := fun (k v : Nat) (t : State) => t = { s with chip := { s.chip with regs := t.chip.regs } } ∧ served s t ∧
      reg t.chip k = v ∧ Keeps s t [k, key 0x2002 1]
    let want := fun (k : Nat) => shadowOf s.chip k
    let begun := s.chip.plan.state = .running ∨ s.chip.plan.state = .halted ∨
      (s.chip.plan.state = .armed ∧ s.chip.plan.fromHalted = true)
    (runs s.chip = true → n.toNat < 2 ^ 64 - 2 → stepPassed s.chip n.toNat = false →
      Answers (.commitSchedule n) s (set (key 0x2000 2) n.toNat)) ∧
    (runs s.chip = true → Answers .commitCancel s (set (key 0x2000 2) (2 ^ 64 - 1))) ∧
    (runs s.chip = false → Answers .commitNow s (fun t => served s t ∧ reg t.chip (key 0x2000 2) = 2 ^ 64 - 1 ∧
      reg t.chip (key 0x2000 5) = (reg s.chip (key 0x2000 5) + 1) % 2 ^ 64 ∧
      (∀ k ∈ stagedKeys, k ≠ key 0x5301 2 → reg t.chip k = want k) ∧
      (want (key 0x5301 2) = 1 → reg t.chip (key 0x5301 1) = 1 - reg s.chip (key 0x5301 1) ∧
        reg t.chip (key 0x5301 2) = 0 ∧ Reported s t 0x0503 .modl) ∧
      (want (key 0x5301 2) ≠ 1 → reg t.chip (key 0x5301 1) = reg s.chip (key 0x5301 1) ∧ t.chip.err = s.chip.err) ∧
      t.chip.plan = s.chip.plan ∧ t.chip.tiles = s.chip.tiles ∧ t.chip.mem = s.chip.mem)) ∧
    Answers (.discardShadows 1) s (fun t => served s t ∧ Keeps s t [key 0x2002 1] ∧
      (∀ k ∈ stagedKeys, shadowOf t.chip k = reg s.chip k) ∧
      t = { s with chip := { s.chip with regs := t.chip.regs, shadow := t.chip.shadow } }) ∧
    (n.toNat = 2 ^ 64 - 1 ∨ ¬begun ∨ s.chip.plan.step < n.toNat → Answers (.haltAtStep n) s (set (key 0x2010 3) n.toNat))

/-! ## Requests on the dictionary (15) -/

/-- A response frame: command, tag, bytes 02h to 05h of the request, length, zero, data filled up with zeros (15 R460). -/
def Sys2Proof.Claims.answer (cmd : Nat) (r : Request) (d : List Byte) : List Byte :=
  [BitVec.ofNat 8 cmd, r.tag] ++ leBytes 2 r.index.toNat ++ [r.sub, r.flags, BitVec.ofNat 8 d.length, 0] ++
    d ++ List.replicate (56 - d.length) 0

/-- An abort: command FFh with its code. -/
def Sys2Proof.Claims.abort (r : Request) (code : Nat) : List Byte := answer 0xFF r (leBytes 4 code)

/-- The response stands at the path of the request, and the request is counted: in the window Status 2 and one response
more; on CAN FD it waits to be sent. -/
def Sys2Proof.Claims.answered (s t : State) (path : Nat) (b : List Byte) : Prop :=
  served s t ∧
  (path = 1 → t.chip.eng.winResp = b ∧ t.chip.eng.winStatus = 2 ∧
    t.chip.eng.winCount = (s.chip.eng.winCount + 1) % 2 ^ 32 ∧ t.chip.eng.canResp = s.chip.eng.canResp) ∧
  (path = 0 → t.chip.eng.canResp = some b ∧ t.chip.eng.winResp = s.chip.eng.winResp)

/-- Only the engine and entries change. -/
def Sys2Proof.Claims.OnlyEngine (s t : State) : Prop :=
  t = { s with chip := { s.chip with regs := t.chip.regs, eng := t.chip.eng } }

/-- 15 R458 to R463: the eight commands on both paths: read and write of up to 56 bytes, segmented transfers, descriptors,
closing; a segment out of place, without a transfer or against its direction is refused and leaves the transfer; an abort is
answered with its code, counted, among the requests served too (log 27), and changes nothing else. -/
def Sys2Proof.Claims.Commands : Prop :=
  ∀ (s : State) (r : Request) (e : Ent), Quiet s → (r.path = 0 → s.chip.eng.canResp = none) →
    let i := r.index.toNat
    let sub := r.sub.toNat
    let path := r.path.val
    let found := entOf i sub = some e
    let value := readValue s.fuses s.chip e i sub (bit r.flags.toNat 1)
    let data := slice r.data 0 r.len.toNat
    let readable := found ∧ e.acc ≠ .wo ∧ r.len = 0 ∧ (r.flags = 0 ∨ r.flags = 2)
    let quietly := fun (tr : Option Transfer) (b : List Byte) (t : State) => OnlyEngine s t ∧ answered s t path b ∧
      t.chip.eng.transfer = tr ∧ Keeps s t [key 0x2002 1]
    let fails := fun (code k : Nat) (tr : Option Transfer) (b : List Byte) (t : State) => OnlyEngine s t ∧ answered s t path b ∧
      t.chip.eng.transfer = tr ∧
      reg t.chip (key 0x2002 2) = (reg s.chip (key 0x2002 2) + 1) % 2 ^ 64 ∧ reg t.chip (key 0x2002 3) = code ∧
      reg t.chip (key 0x2002 4) = k ∧ Keeps s t [key 0x2002 1, key 0x2002 2, key 0x2002 3, key 0x2002 4]
    (readable → value.length ≤ 56 → Answers (.read r) s (quietly s.chip.eng.transfer (answer 1 r value))) ∧
    (found → e.acc = .wo → (r.flags = 0 ∨ r.flags = 2) → r.len.toNat ≤ 56 →
      Answers (.read r) s (fails 0x02000003 (key i sub) s.chip.eng.transfer (abort r 0x02000003))) ∧
    (found → r.flags = 0 → r.len.toNat ≤ 56 →
      let code := writeCode s.fuses s.chip i sub data
      (code ≠ 0 → Answers (.write r) s (fails code (key i sub) s.chip.eng.transfer (abort r code))) ∧
      (CaughtUp s.chip → code = 0 → plainEntry i sub → Answers (.write r) s (fun t => answered s t path (answer 2 r []) ∧
        takes s t e (key i sub) data ∧ t.chip.tiles = s.chip.tiles ∧ t.chip.plan = s.chip.plan))) ∧
    (readable → value ≠ [] → Answers (.readStart r) s (quietly (some ⟨false, i, sub, value.length, 0, value, s.chip.count⟩)
      (answer 3 r (leBytes 4 value.length)))) ∧
    (found → e.acc ≠ .ro → r.flags = 0 → r.len = 4 → lengthOk e (field r.data 0 4) = true → Answers (.writeStart r) s
      (quietly (some ⟨true, i, sub, field r.data 0 4, 0, [], s.chip.count⟩) (answer 5 r []))) ∧
    (found → r.flags = 0 → r.len = 0 → Answers (.describe r) s (quietly s.chip.eng.transfer
      (answer 7 r (descriptor s.fuses s.chip e i sub)))) ∧
    (r.index = 0 → r.sub = 0 → r.flags = 0 → r.len = 0 → allZero r.data = true →
      Answers (.closeTransfer r) s (quietly none (answer 8 r []))) ∧
    (∀ x, s.chip.eng.transfer = some x → i + sub * 2 ^ 16 + r.flags.toNat * 2 ^ 24 = x.done →
      let n := min 56 (x.total - x.done)
      (x.write = false → r.len = 0 → Answers (.readSegment r) s (quietly
        (if x.total ≤ x.done + n then none else some { x with done := x.done + n, since := s.chip.count })
        (answer 4 r (slice x.data x.done n)))) ∧
      (x.write = true → r.len.toNat ≤ 56 → x.done + r.len.toNat < x.total → Answers (.writeSegment r) s (quietly
        (some { x with done := x.done + r.len.toNat, data := x.data ++ data, since := s.chip.count }) (answer 6 r []))) ∧
      (x.write = true → r.len.toNat ≤ 56 → x.done + r.len.toNat = x.total →
        let code := writeCode s.fuses s.chip x.index x.sub (x.data ++ data)
        (CaughtUp s.chip → entOf x.index x.sub = some e → code = 0 → plainEntry x.index x.sub →
          Answers (.writeSegment r) s (fun t => answered s t path (answer 6 r []) ∧ t.chip.eng.transfer = none ∧
            takes s t e (key x.index x.sub) (x.data ++ data))) ∧
        (code ≠ 0 → Answers (.writeSegment r) s (fails code (key x.index x.sub) none (abort r code))))) ∧
    (r.len.toNat ≤ 56 → s.chip.eng.transfer = none →
      Answers (.readSegment r) s (fails 0x01000003 (key 0 0) none (abort r 0x01000003)) ∧
      Answers (.writeSegment r) s (fails 0x01000003 (key 0 0) none (abort r 0x01000003))) ∧
    (∀ x, r.len.toNat ≤ 56 → s.chip.eng.transfer = some x →
      let o := i + sub * 2 ^ 16 + r.flags.toNat * 2 ^ 24
      let refused := fun (code : Nat) => fails code (key x.index x.sub) (some x) (abort r code)
      (o ≠ x.done → Answers (.readSegment r) s (refused 0x01000002) ∧ Answers (.writeSegment r) s (refused 0x01000002)) ∧
      (o = x.done → x.write = true → x.total < x.done + r.len.toNat → Answers (.writeSegment r) s (refused 0x01000002)) ∧
      (o = x.done → x.write = true → Answers (.readSegment r) s (refused 0x01000003)) ∧
      (o = x.done → x.write = false → Answers (.writeSegment r) s (refused 0x01000003)))

/-- A request that a frame of 64 bytes carries on a path (15 R459). -/
def Sys2Proof.Claims.framed (path : Fin 2) (b : List Byte) : Request :=
  ⟨path, BitVec.ofNat 8 (field b 1 1), BitVec.ofNat 16 (field b 2 2), BitVec.ofNat 8 (field b 4 1),
    BitVec.ofNat 8 (field b 5 1), BitVec.ofNat 8 (field b 6 1), slice b 8 56⟩

/-- The frame's command, as the command of the table that it is. -/
def Sys2Proof.Claims.commandOf (path : Fin 2) (b : List Byte) : Option Instr :=
  match field b 0 1 with
  | 1 => some (.read (framed path b))
  | 2 => some (.write (framed path b))
  | 3 => some (.readStart (framed path b))
  | 4 => some (.readSegment (framed path b))
  | 5 => some (.writeStart (framed path b))
  | 6 => some (.writeSegment (framed path b))
  | 7 => some (.describe (framed path b))
  | 8 => some (.closeTransfer (framed path b))
  | _ => none

/-- 15 R459 R464 to R466: a frame on CAN FD and the request frame of the window run the command they carry; a reserved byte
or an unknown command aborts with 01000001h; frames of other identifiers or lengths are ignored; the response leaves on
the identifier 580h plus the node ID once no event waits. The window answers within the step of its submission, and Status goes
to 2 at once (log 27). An open transfer closes 1 s after its
last segment and is counted. -/
def Sys2Proof.Claims.Frames : Prop :=
  ∀ (s : State) (id : BitVec 11) (b : List Byte), Quiet s →
    let node := 16 * s.chip.eng.canId + s.chip.power.straps
    let bad := fun (path : Fin 2) (b : List Byte) (t : State) => OnlyEngine s t ∧
      answered s t path.val (abort (framed path b) 0x01000001) ∧
      reg t.chip (key 0x2002 2) = (reg s.chip (key 0x2002 2) + 1) % 2 ^ 64 ∧ reg t.chip (key 0x2002 3) = 0x01000001
    let w := s.chip.eng.winReq
    (id.toNat ≠ 0x600 + node ∨ b.length ≠ 64 → exec (.canRequestFrame id b) s = .next s) ∧
    (id.toNat = 0x600 + node → b.length = 64 →
      (∀ x, field b 7 1 = 0 → commandOf 0 b = some x → exec (.canRequestFrame id b) s = exec x s) ∧
      (field b 7 1 ≠ 0 ∨ commandOf 0 b = none → s.chip.eng.canResp = none → Answers (.canRequestFrame id b) s (bad 0 b))) ∧
    (s.chip.eng.winStatus ≠ 1 →
      (∀ x, field w 7 1 = 0 → commandOf 1 w = some x → exec .submit s = exec x s) ∧
      (field w 7 1 ≠ 0 ∨ commandOf 1 w = none → Answers .submit s (bad 1 w))) ∧
    (∀ r, s.chip.err.canq = [] → s.chip.eng.canResp = some r → Answers .canResponseSend s (fun t =>
      t.chip.out = .canFrame (0x580 + node) r :: s.chip.out ∧ t.chip.eng.canResp = none ∧ Keeps s t [] ∧
      t.chip.plan = s.chip.plan ∧ t.chip.tiles = s.chip.tiles)) ∧
    (∀ x, s.chip.eng.transfer = some x → Answers .transferTimeout s (fun t =>
      t = { s with chip := { s.chip with
        count := max s.chip.count (x.since + 500000000), regs := t.chip.regs, eng := { s.chip.eng with transfer := none } } } ∧
      Keeps s t (key 0x2002 5 :: ticks) ∧
      reg t.chip (key 0x2002 5) = (reg s.chip (key 0x2002 5) + 1) % 2 ^ 64))

/-- 15: the engine's commands and the frames that carry them. -/
def Obligations.Requests : Prop := Commands ∧ Frames

/-! ## Mirror, checkpoint and import (13) -/

/-- Carts of a type for a device join those that wait for injection. -/
def Sys2Proof.Claims.cartsTo (s t : State) (dst type : Nat) (l : List Cart) : Prop :=
  t.chip.fab.waiting = s.chip.fab.waiting ++ l ∧ ∀ x ∈ l, x.dst = dst ∧ cartType x = type

/-- Nothing of the plan, its tiles or memory changes. -/
structure Sys2Proof.Claims.SamePlan (s t : State) : Prop where
  plan : t.chip.plan = s.chip.plan
  tiles : t.chip.tiles = s.chip.tiles
  mem : t.chip.mem = s.chip.mem
  count : t.chip.count = s.chip.count
  ports : t.chip.ports = s.chip.ports

/-- 13 R420 to R424: a batch leaves as a start, its lines by three, and an end, for the partner; a full batch is asked for; a
checkpoint is scheduled, its image written by remote writes once the mirror has reached its step, and closed by the
completion word step + 1 once they have left; a checkpoint captured meanwhile comes next, and B030h:01 keeps the step it names
(the image's carts and these two points are the model's: log 21). -/
def Obligations.MirrorAndCheckpoint : Prop :=
  ∀ (s : State) (t : BitVec 64), Serves s →
    let image := reg s.chip (key 0xB030 3)
    let dst := reg s.chip (key 0xB030 2)
    let clocked := s.chip.time.changing = false
    (∀ b rest, clocked → s.chip.det.send = b :: rest → Answers .mirrorBatchSend s (fun u => SamePlan s u ∧ Keeps s u [] ∧
      u.chip.det = { s.chip.det with send := rest } ∧ ∃ l, cartsTo s u (reg s.chip (key 0xB020 1)) 3 l ∧
        l.length = (b.lines.length + 2) / 3 + 2 ∧
        (l.map (fun x => field (cartData x) 0 1)) = 1 :: List.replicate ((b.lines.length + 2) / 3) 2 ++ [3])) ∧
    Answers (.fullBatchRequest 1) s (fun u => SamePlan s u ∧ served s u ∧ Keeps s u [key 0x2002 1] ∧
      u.chip.det = { s.chip.det with fullDue := true }) ∧
    (t.toNat = 2 ^ 64 - 1 ∨ stepPassed s.chip t.toNat = false → Answers (.checkpointSchedule t) s (fun u =>
      SamePlan s u ∧ served s u ∧ Keeps s u [key 0xB030 1, key 0x2002 1] ∧ reg u.chip (key 0xB030 1) = t.toNat)) ∧
    (∀ n rep, s.chip.det.ckptStep = some n → s.chip.det.ckpt = some rep → s.chip.det.ckptWriting = false →
      clocked → s.chip.det.imaged = true → reg s.chip (key 0xB020 3) = n → reg s.chip (key 0xB020 4) ≠ 3 →
      Answers .checkpointWrite s (fun u => SamePlan s u ∧ reg u.chip (key 0xB030 5) = 1 ∧ Keeps s u [key 0xB030 5] ∧
        u.chip.det = { s.chip.det with ckptWriting := true } ∧ ∃ l, cartsTo s u dst 4 l ∧ 63 ≤ l.length ∧
          ∀ k < 63, (l.map cartTarget).getD k 0 = (image + 64 * k) % 2 ^ 64)) ∧
    (∀ n, s.chip.det.ckptStep = some n → s.chip.det.ckptWriting = true → (∀ x ∈ s.chip.fab.waiting, cartType x ≠ 4) →
      Answers .checkpointDone s (fun u => SamePlan s u ∧
        reg u.chip (key 0xB030 1) = (if reg s.chip (key 0xB030 1) = n then 2 ^ 64 - 1 else reg s.chip (key 0xB030 1)) ∧
        reg u.chip (key 0xB030 4) = (reg s.chip (key 0xB030 4) + 1) % 2 ^ 64 ∧ reg u.chip (key 0xB030 5) = 0 ∧
        Keeps s u [key 0xB030 1, key 0xB030 4, key 0xB030 5] ∧
        u.chip.det = { s.chip.det with
          ckpt := s.chip.det.ckptNext.head?.map (·.2), ckptStep := s.chip.det.ckptNext.head?.map (·.1)
          ckptNext := s.chip.det.ckptNext.drop 1, ckptWriting := false } ∧
        ∃ x, cartsTo s u dst 4 [x] ∧ cartTarget x = (image + 4032) % 2 ^ 64 ∧
          field (cartData x) 56 8 = (n + 1) % 2 ^ 64))

/-- 13 R425: an import asks its source for a step; a mirror source that stands at that step answers; the answer is checked
for its lines, its digest and its settings, each with its status, and leaves the plan Halted with the boundary's actions
pending; without an answer in 10 ms it fails with 0201h. -/
def Obligations.Imports : Prop :=
  ∀ (s : State), Quiet s →
    let src := reg s.chip (key 0xB040 2)
    let refused := fun (st : Nat) (moved : List Nat) (u : State) => reg u.chip (key 0xB040 6) = st ∧ u.chip.plan = s.chip.plan ∧
      u.chip.det = { s.chip.det with importing := none } ∧ u.chip.mem = s.chip.mem ∧ Reported s u 0x0A03 .modl ∧
      KeepsButLog s u (key 0xB040 6 :: moved)
    (s.chip.plan.state = .loaded → s.chip.plan.loading = none → s.chip.det.importing = none →
      Answers (.importStart 1) s (fun u => SamePlan s u ∧ served s u ∧ reg u.chip (key 0xB040 6) = 1 ∧
        Keeps s u [key 0xB040 6, key 0x2002 1] ∧ (∃ i, u.chip.det = { s.chip.det with importing := some i } ∧
          i.since = s.chip.count ∧ i.got.started = false ∧ i.got.ended = false) ∧
        ∃ x, cartsTo s u src 5 [x] ∧ field (cartData x) 0 1 = 4 ∧
          field (cartData x) 16 8 = reg s.chip (key 0xB040 4) % 2 ^ 64 ∧ field (cartData x) 24 8 =
            (if reg s.chip (key 0xB040 1) = 2 then reg s.chip (key 0xB040 3) % 2 ^ 64 else 0))) ∧
    (∀ peer d rest, s.chip.time.changing = false → s.chip.det.request = (peer, d) :: rest → s.chip.plan.state = .halted →
      reg s.chip (key 0xB020 4) = 1 → reg s.chip (key 0xB020 3) = field d 16 8 → s.chip.plan.step = field d 16 8 →
      field d 24 8 = 0 → Answers .importRequestAnswer s (fun u => SamePlan s u ∧ Keeps s u [] ∧
        u.chip.det = { s.chip.det with request := rest } ∧ ∃ l, cartsTo s u peer 5 l ∧ 2 ≤ l.length ∧
          (l.map (fun x => field (cartData x) 0 1)).head? = some 1 ∧
          (l.map (fun x => field (cartData x) 0 1)).getLast? = some 3)) ∧
    (∀ i, s.chip.det.importing = some i → i.got.started = true → i.got.ended = true → s.chip.plan.state = .loaded →
      let whole := i.got.lines.length = i.got.count
      let digest := (sha3_256 (slice (partBytes i.got.lines 9) 0 (replicaLen s.chip))).take 16 = i.got.digest
      let settings := settingsDigest s.chip = i.got.settings
      (¬whole → Answers .importComplete s (refused 0x0202 [])) ∧
      (whole → ¬digest → Answers .importComplete s (refused 0x0203 [])) ∧
      (whole → digest → ¬settings → Answers .importComplete s (refused 0x0204 [])) ∧
      (whole → digest → settings → Answers .importComplete s (fun u => reg u.chip (key 0xB040 6) = 0 ∧
        u.chip.plan.state = .halted ∧ u.chip.plan.pendingBoundary = true ∧ u.chip.plan.image = s.chip.plan.image ∧
        u.chip.det.importing = none ∧ u.chip.tiles = s.chip.tiles))) ∧
    (∀ i, s.chip.det.importing = some i → i.got.started = false ∨ i.got.ended = false →
      Answers .importTimeout s (fun u => refused 0x0201 ticks u ∧ u.chip.count = max s.chip.count (i.since + 5000000)))

/-! ## Serving and weights (08, 09) -/

/-- 08 R221 R261 to R263: serving is enabled on a plan that meets R221 and disabled at rest; the consumed count frees the ring
for the oldest record of the backlog, written at its slot. -/
def Sys2Proof.Claims.ServingEntries : Prop :=
  ∀ (s : State) (n : BitVec 32) (r : List Byte), Serves s →
    let rest := runs s.chip = false ∧ s.chip.plan.loading = none
    let set := fun (v : Nat) (t : State) => served s t ∧ reg t.chip (key 0x6000 1) = v ∧ OnlyEntries s t ∧
      Keeps s t [key 0x6000 1, key 0x2002 1]
    let written := reg s.chip (key 0x6040 5)
    let slot := reg s.chip (key 0x6040 1) + 64 * (written % reg s.chip (key 0x6040 2))
    (rest → s.chip.plan.image ≠ none → serveOk s.chip = true → Answers .servingEnable s (set 1)) ∧
    (rest → Answers .servingDisable s (set 0)) ∧
    (s.chip.srv.backlog = [] → Answers (.recordsConsumed n) s (fun t => served s t ∧
      reg t.chip (key 0x6040 4) = n.toNat ∧ Keeps s t [key 0x6040 4, key 0x2002 1] ∧ t.chip.out = s.chip.out)) ∧
    (s.chip.srv.backlog = [r] → hostBlocked s.chip = false → reg s.chip (key 0x6040 6) = 0 →
      (written + 2 ^ 32 - n.toNat) % 2 ^ 32 < reg s.chip (key 0x6040 2) → Answers (.recordsConsumed n) s (fun t =>
        sentOut s t (.hostWrite slot r) ∧ t.chip.srv.backlog = [] ∧ reg t.chip (key 0x6040 4) = n.toNat ∧
        reg t.chip (key 0x6040 5) = (written + 1) % 2 ^ 32 ∧
        smGet 0 t.chip.acc.counts (key 0x6050 13) = smGet 0 s.chip.acc.counts (key 0x6050 13) + 1 ∧
        Keeps s t [key 0x6040 4, key 0x6040 5, key 0x2002 1]))

/-- A build that ends failed or abandoned with a status (09 R276 R295). -/
def Sys2Proof.Claims.buildFails (s t : State) (status : Nat) : Prop :=
  t.chip.wts.build = none ∧ reg t.chip (key 0x7010 10) = status ∧ reg t.chip (key 0x7010 12) = 0xFF ∧
  reg t.chip (key 0x7010 13) = 0 ∧ reg t.chip (key 0x7040 2) = (reg s.chip (key 0x7040 2) + 1) % 2 ^ 64 ∧
  Reported s t 0x0802 .modl

/-- The copies of an entry other than e stay. -/
def Sys2Proof.Claims.onlyEntry (s t : State) (e : Nat) : Prop := ∀ k, k ≠ e → wentry t.chip k = wentry s.chip k

/-- 09 R276 to R284 R295: the build commands. A head image that the checks of R278 accept (they rest on signatures that the
model leaves uninterpreted, log 5) opens a build, or at once takes the lowest free space of its tier; chunks are fed whole
and in order; a finished copy is Ready with its generation hash and discards an earlier Ready one (log 33); an open takes whatever generation it
names (log 25); a failed or abandoned build frees its copy. No test shows an open that succeeds, as it rests on such a signature (log 5). -/
def Sys2Proof.Claims.Builds : Prop :=
  ∀ (s : State), Serves s → reg s.chip (key 0x7010 10) ≠ 1 →
    let off := reg s.chip (key 0x7010 6)
    let len := reg s.chip (key 0x7010 7)
    let placed := off + len ≤ reg s.chip (key 0x4002 1) ∧ len ≤ 17825792
    let wrote := dictWrite s.fuses 0x7010 5 (leBytes 8 (2 ^ 64 - 2)) s.chip
    (s.chip.wts.build = none → s.chip.ecc = [] →
      (∀ b, placed → openHead s.fuses s.chip (readStaging s.chip off len).2 = .ok b → b.openAt ≠ 2 ^ 64 - 2 →
        b.target = 0xFF → Answers .buildOpen s (fun t => t.chip.wts = { s.chip.wts with build := some b } ∧
          reg t.chip (key 0x7010 10) = 2 ∧ reg t.chip (key 0x7010 11) = 0 ∧ reg t.chip (key 0x7010 12) = 0xFF ∧
          reg t.chip (key 0x7010 13) = 0 ∧ served s t ∧ t.chip.mem = s.chip.mem)) ∧
      (¬placed → Answers .buildOpen s (fun t => buildFails s t 0x0101 ∧ t.chip.wts.dir = s.chip.wts.dir) ∧
        Answers .buildOpenAtOnce s (fun t => buildFails s t 0x0101 ∧ t.chip.wts.dir = s.chip.wts.dir)) ∧
      (∀ b o, placed → openHead s.fuses wrote (readStaging wrote off len).2 = .ok b →
        b.openAt = 2 ^ 64 - 2 → b.target < 66 → (wentry s.chip b.target).a = WCopy.none →
        (wentry s.chip b.target).b.st = .free ∨ (wentry s.chip b.target).b.st = .live →
        placeCopy s.chip b.tier (copySpan b.len) = some o → Answers .buildOpenAtOnce s (fun t =>
          let g := if b.genAsk = 0xFF then ((wentry s.chip b.target).last + 1) % 4 else b.genAsk
          t.chip.wts.build = some { b with second := false, building := true } ∧ onlyEntry s t b.target ∧
          wentry t.chip b.target = { wentry s.chip b.target with a := ⟨.building, g, b.tier, b.len, o, []⟩, last := g } ∧
          reg t.chip (key 0x7010 10) = 3 ∧ reg t.chip (key 0x7010 12) = b.target))) ∧
    (∀ b, s.chip.wts.build = some b → b.building = true →
      (∀ k ks l, b.chunks = k :: ks → reg s.chip (key 0x7010 8) = k.sec → reg s.chip (key 0x7010 9) = k.chunk →
        takeRun k.record b.chunks len = some l → off + len ≤ reg s.chip (key 0x4002 1) → Answers .buildFeed s (fun t =>
          reg t.chip (key 0x7010 10) = 1 ∧ t.chip.wts.dir = s.chip.wts.dir ∧ t.chip.mem = s.chip.mem ∧
          ∃ bytes, t.chip.wts.build = some { b with feeding := some (l, bytes) })) ∧
      (b.chunks = [] → Answers .buildFinish s (fun t => t.chip.wts.build = none ∧ reg t.chip (key 0x7010 10) = 0 ∧
        reg t.chip (key 0x7010 12) = 0xFF ∧ reg t.chip (key 0x7010 13) = 0 ∧ onlyEntry s t b.target ∧
        reg t.chip (key 0x7040 1) = (reg s.chip (key 0x7040 1) + 1) % 2 ^ 64 ∧
        let ready := fun (k : WCopy) =>
          if k.st = .building then
            { k with st := .ready, hash := sha3_256 (b.mhash ++ leBytes 1 b.target ++ leBytes 1 k.gen) }
          else if k.st = .ready then WCopy.none else k
        wentry t.chip b.target = { wentry s.chip b.target with
          a := ready (wentry s.chip b.target).a, b := ready (wentry s.chip b.target).b })) ∧
      Answers .buildAbandon s (fun t => buildFails s t 0x0603 ∧ onlyEntry s t b.target ∧
        (b.target ≠ 0xFF → ∀ k ∈ [(wentry t.chip b.target).a, (wentry t.chip b.target).b],
          k.st ≠ .building ∧ k.st ≠ .opening)))

/-- 09 R282: a feed's end: the chunks verified and written leave the build waiting for the next; a chunk whose tag fails ends
the build with 0502h. -/
def Sys2Proof.Claims.FeedEnds : Prop :=
  ∀ (s : State) (b : Build) (l : List WChunk) (bytes : List Byte), Quiet s → s.chip.wts.build = some b →
    b.feeding = some (l, bytes) → spaceHeld s.chip (buildCopy s.chip b) = false →
    s.chip.time.changing = false →
    let done := feedChunks b (buildCopy s.chip b) l bytes s.chip
    (done.2 = none → Answers .buildFeedDone s (fun t => reg t.chip (key 0x7010 10) = 3 ∧ reg t.chip (key 0x7010 11) = 0 ∧
      t.chip.wts = { s.chip.wts with build := some { b with feeding := none, chunks := b.chunks.drop l.length } } ∧
      t.chip.tiles = s.chip.tiles ∧ t.chip.plan = s.chip.plan)) ∧
    (done.2 ≠ none → Answers .buildFeedDone s (fun t => t.chip.wts.build = none ∧ reg t.chip (key 0x7010 10) = 0x0502 ∧
      reg t.chip (key 0x7040 2) = (reg s.chip (key 0x7040 2) + 1) % 2 ^ 64 ∧ onlyEntry s t b.target))

/-- 09 R285 to R288: a switch is scheduled for a step not yet past, cancelled, or made at once at rest: the Ready copy is Live;
the one it replaces drains while a session binds it, and is free where none does. -/
def Sys2Proof.Claims.Switches : Prop :=
  ∀ (s : State) (e : Fin 66) (t : BitVec 64), Serves s →
    let k := key 0x7020 (e.val + 1)
    let x := wentry s.chip e.val
    let set := fun (v : Nat) (u : State) => u = { s with chip := { s.chip with regs := u.chip.regs } } ∧ served s u ∧
      reg u.chip k = v ∧ Keeps s u [k, key 0x2002 1]
    let live := fun (u : State) => (wentry u.chip e.val).a = { x.a with st := .live } ∧ (wentry u.chip e.val).uses = 0 ∧
      reg u.chip k = 2 ^ 64 - 1 ∧ reg u.chip (key 0x7040 3) = (reg s.chip (key 0x7040 3) + 1) % 2 ^ 64 ∧
      onlyEntry s u e.val ∧ served s u ∧ u.chip.plan = s.chip.plan ∧ u.chip.mem = s.chip.mem
    (t.toNat < 2 ^ 64 - 2 → stepPassed s.chip t.toNat = false → Answers (.switchSchedule e t) s (set t.toNat)) ∧
    Answers (.switchCancel e) s (set (2 ^ 64 - 1)) ∧
    (runs s.chip = false → x.a.st = .ready →
      (x.b.st = .free → Answers (.switchAtOnce e) s (fun u => live u ∧ (wentry u.chip e.val).b = x.b)) ∧
      (x.b.st = .live → genPolicy s.chip e.val ≠ 1 → Answers (.switchAtOnce e) s (fun u => live u ∧
        (wentry u.chip e.val).b =
          if boundTo s.chip e.val x.b.gen = 0 then WCopy.none else { x.b with st := .draining })))

/-- 08, 09: serving's entries, builds and switches. -/
def Obligations.ServingAndWeights : Prop := ServingEntries ∧ Builds ∧ FeedEnds ∧ Switches

/-! ## Errors and temperature (14, 19) -/

/-- The first unread record of the same code, location and step (14 R437). -/
def Sys2Proof.Claims.alike (o : Occ) (r : Rec) : Prop := r.code = o.code ∧ r.loc = o.loc ∧ r.step = o.step

/-- 14 R434 to R437: what one occurrence does: it is counted by its class; a capture that is free and asks for the class takes
it; an unread record alike gains a repeat; else a new record with the next sequence number enters the log, or is counted
lost where 128 stand in it. -/
def Sys2Proof.Claims.LogTakes : Prop :=
  ∀ (c : Chip) (o : Occ), c.err.pend = [o] →
    let d := flush c
    let cls := classOf o.code
    let asks := bit (reg c (key 0x9000 4)) cls
    let fields := fun (r : Rec) => r.cls = cls ∧ r.code = o.code ∧ r.loc = o.loc ∧ r.step = o.step ∧ r.cycle = o.cycle ∧
      r.count = o.count ∧ r.detail = o.detail ∧ r.rep = 1 ∧ r.seq = reg c (key 0x9001 5)
    d.err.pend = [] ∧ reg d (key 0x9002 (cls + 1)) = (reg c (key 0x9002 (cls + 1)) + 1) % 2 ^ 64 ∧
    (∀ r, c.err.cap = some r → d.err.cap = some { r with nest := min 0xFFFF (r.nest + 1) }) ∧
    (c.err.cap = none → asks = true → ∃ r, d.err.cap = some r ∧ fields r) ∧
    (c.err.cap = none → asks = false → d.err.cap = none) ∧
    (∀ l r l', c.err.log = l ++ r :: l' → (∀ y ∈ l, ¬alike o y) → alike o r → c.err.cap ≠ none ∨ asks = false →
      d.err.log = l ++ { r with rep := min (2 ^ 32 - 1) (r.rep + 1) } :: l' ∧
      reg d (key 0x9001 5) = reg c (key 0x9001 5)) ∧
    ((∀ y ∈ c.err.log, ¬alike o y) → reg d (key 0x9001 5) = (reg c (key 0x9001 5) + 1) % 2 ^ 64 ∧
      (c.err.log.length < 128 → ∃ r, d.err.log = c.err.log ++ [r] ∧ fields r) ∧
      (128 ≤ c.err.log.length → d.err.log = c.err.log ∧
        reg d (key 0x9001 4) = (reg c (key 0x9001 4) + 1) % 2 ^ 64))

/-- What holds of every state: memory and its stored errors are in their canonical forms, and what there is one of for each
die or decoder stands in a list of four or of two. -/
structure Sys2Proof.Claims.Kept (s : State) : Prop where
  mem : Memory.wf s.chip.mem = true
  ecc : smWf EccMark.none s.chip.ecc = true
  temps : s.chip.power.temps.length = 4
  warned : s.chip.power.warned.length = 4
  tripped : s.chip.power.tripped.length = 4
  jobs : s.chip.srv.jobs.length = 4
  job : s.chip.srv.job.length = 4
  hdm : s.chip.host.hdm.length = 2

/-- 14 R435 R437 R440 R443 R444: the capture is cleared and the oldest record removed, and the latch of the vector stands
where an unread record asks for it; the oldest event frame leaves; an injection starts where its location is right;
INJECTION_APPLY brings an armed one its opportunity where it comes at its place, a write of its granule, the next carriage or
superframe of its port, and otherwise changes nothing (the model's reading: log 26). -/
def Sys2Proof.Claims.LogCommands : Prop :=
  ∀ (s : State), Serves s →
    let asked := fun (l : List Rec) => l.any (fun r => bit (reg s.chip (key 0x9010 1)) r.cls)
    let kind := reg s.chip (key 0xF010 1)
    let loc := reg s.chip (key 0xF010 2)
    let n := reg s.chip (key 0xF010 3)
    (Answers (.clearCapture 1) s (fun t => SamePlan s t ∧ served s t ∧ Keeps s t [key 0x2002 1] ∧
      t.chip.err = { s.chip.err with cap := none, latch := asked s.chip.err.log })) ∧
    (Answers (.removeOldestRecord 1) s (fun t => SamePlan s t ∧ served s t ∧ Keeps s t [key 0x2002 1] ∧
      t.chip.err = { s.chip.err with log := s.chip.err.log.drop 1, latch := asked (s.chip.err.log.drop 1) })) ∧
    (∀ b rest, s.chip.err.canq = b :: rest → Answers .eventFrameSend s (fun t => SamePlan s t ∧ Keeps s t [] ∧
      t.chip.err = { s.chip.err with canq := rest } ∧ t.chip.out =
        .canFrame (reg s.chip (key 0x9010 5) + (16 * s.chip.eng.canId + s.chip.power.straps)) b :: s.chip.out)) ∧
    (reg s.chip (key 0xF000 1) = 1 → Answers (.startInjection 1) s (fun t => SamePlan s t ∧ served s t ∧
      Keeps s t [key 0xF010 7, key 0x2002 1] ∧
      (locOk s.chip kind loc (reg s.chip (key 0xF010 5)) = true → reg t.chip (key 0xF010 7) = 1 ∧
        ∃ j, t.chip.err = { s.chip.err with inj := some j } ∧ j.kind = kind ∧ j.loc = loc ∧ j.left = n) ∧
      (locOk s.chip kind loc (reg s.chip (key 0xF010 5)) = false → reg t.chip (key 0xF010 7) = 4 ∧
        t.chip.err = { s.chip.err with inj := none }))) ∧
    (∀ j, Kept s → s.chip.err.inj = some j → injArmed s.chip j = true →
      let a := lineAddr (bits j.loc 7 0) (bits j.loc 31 16)
      let p := bits j.loc 7 0
      let left := fun (t : State) => (j.left ≤ 1 → t.chip.err = { s.chip.err with inj := none } ∧
          reg t.chip (key 0xF010 7) = 3) ∧
        (1 < j.left → t.chip.err = { s.chip.err with inj := some { j with left := j.left - 1, applied := true } } ∧
          reg t.chip (key 0xF010 7) = 2)
      let marks := fun (a : Nat) (m : EccMark) (t : State) => left t ∧ SamePlan s t ∧
        t.chip.ecc = smSet EccMark.none s.chip.ecc (a / 64) m ∧ Keeps s t [key 0xF010 7]
      (j.kind = 3 → Answers (.injectionApply (a / 64)) s (marks a ⟨false, 1, true⟩)) ∧
      (j.kind = 4 → Answers (.injectionApply (a / 64)) s (marks a ⟨true, 3, true⟩)) ∧
      (j.kind = 5 → Answers (.injectionApply (j.addr / 64)) s (marks j.addr
        (if j.param = 1 then ⟨false, 0xFFFF, true⟩ else ⟨true, 0xFFFFFFFF, true⟩))) ∧
      (j.kind = 6 → Answers (.injectionApply (j.addr / 64)) s (marks j.addr ⟨j.param != 1, deviceMask (j.param != 1), true⟩)) ∧
      (j.kind = 7 → Answers (.injectionApply p) s (fun t => left t ∧
        portAt t.chip p = { portAt s.chip p with badCrc := (portAt s.chip p).badCrc + 1 })) ∧
      (j.kind = 8 → Answers (.injectionApply p) s (fun t => left t ∧
        portAt t.chip p = { portAt s.chip p with badLane := some (bits j.loc 10 8, 1) })) ∧
      (∀ place, j.kind = 1 ∨ j.kind = 2 ∨ place ≠ injPlace j → exec (.injectionApply place) s = .next s))

/-- 14 R442, 19 R553: a die that reaches the warning threshold is recorded once until it has fallen 5 °C below it; at 115 °C
the trip output goes low and stays; 9020h:02 shows the hottest die. -/
def Sys2Proof.Claims.Temperatures : Prop :=
  ∀ (s : State) (die : Fin 4) (t : BitVec 32), Quiet s → s.chip.power.temps.length = 4 →
    s.chip.power.warned.length = 4 → s.chip.power.tripped.length = 4 →
    let deg := f32Scaled t.toNat
    let warm := f32Scaled (reg s.chip (key 0x9020 1))
    let warned := s.chip.power.warned.getD die.val false
    let tripped := s.chip.power.tripped.getD die.val false
    let trips := f32Scaled 0x42E60000
    let shown := fun (u : State) => SamePlan s u ∧ u.chip.power.temps = s.chip.power.temps.set die.val t.toNat ∧
      ∀ y ∈ u.chip.power.temps, f32Scaled y ≤ f32Scaled (reg u.chip (key 0x9020 2))
    (warned = false → warm ≤ deg → deg < trips → Answers (.thermalWarning die t) s (fun u => shown u ∧
      u.chip.power.warned = s.chip.power.warned.set die.val true ∧ u.chip.power.trip = s.chip.power.trip ∧
      Reported s u 0x0B01 (.die die.val))) ∧
    (warned = true → tripped = false → trips ≤ deg → warm < deg + 5 * 2 ^ 149 → Answers (.thermalTrip die t) s (fun u =>
      shown u ∧ u.chip.power.trip = true ∧ u.chip.power.tripped = s.chip.power.tripped.set die.val true ∧
      Reported s u 0x0B02 (.die die.val))) ∧
    (warned = true → deg + 5 * 2 ^ 149 ≤ warm → deg < trips → Answers (.temperatureFall die t) s (fun u => shown u ∧
      u.chip.power.warned = s.chip.power.warned.set die.val false ∧ u.chip.power.trip = s.chip.power.trip ∧
      KeepsButLog s u [key 0x9020 2] ∧ u.chip.err = s.chip.err))

/-- 14, 19: the log, its commands, injection and temperature. -/
def Obligations.ErrorsAndTemperature : Prop := LogTakes ∧ LogCommands ∧ Temperatures

/-! ## Power, boot and fuses (18) -/

/-- Commands that act while no firmware runs: power, reset, temperature, the scan chain, the mailbox and the host link. -/
def Sys2Proof.Claims.actsDown : Instr → Bool
  | .powerGoodRise | .powerGoodFall | .resetAssert _ | .resetRelease _ _ | .bootFailureFrame | .thermalWarning _ _
  | .thermalTrip _ _ | .temperatureFall _ _ | .boundaryScan _ | .getCertificates | .getReport _ | .openSession _ _
  | .closeSession _ | .ownerClaim _ _ | .ownerGrant _ | .doeDiscovery _ | .doeAbort | .cxlLinkTraining _ _ | .perst | .functionLevelReset
  | .surpriseLinkDown | .powerStateChange _ | .hostWritesUnblock | .busMasterEnableClear | .ideKmMessage _ _ _
  | .h2dSnoop _ => true
  | _ => false

/-- 18 R520 R521 R526, 17 R508 R517 R518: in power-off, held reset or after a failed boot only the commands of power, boot, temperature, scan, mailbox and
host link (`actsDown`) change anything. -/
def Obligations.NothingRunsDown : Prop :=
  ∀ (s : State) (x : Instr), s.chip.power.phase ≠ .running → actsDown x = false →
    exec x s = .next s ∨ (x.wf = false ∧ exec x s = .refused .illFormed)

/-- What a reset leaves: nothing but the fuses, the queue, what has left the pins, and the model's own counters of free values
and draws (log 12); the stewards hold what the boot ROM copies to them. -/
structure Sys2Proof.Claims.Wiped (s t : State) : Prop where
  chip : t.chip = { Chip.reset with
    power := t.chip.power, out := s.chip.out, free := s.chip.free, sec := t.chip.sec, stew := t.chip.stew }
  stew : t.chip.power.phase ≠ .running → t.chip.stew = []
  sec : t.chip.sec.grant = [] ∧ t.chip.sec.session = none ∧ t.chip.sec.burnTo = none ∧ t.chip.sec.claim = none
  fuses : t.fuses = s.fuses
  pending : t.pending = s.pending

/-- The image that the boot ROM starts: A where its checks pass, else B; none where both fail (18 R525). -/
def Sys2Proof.Claims.starts (s : State) (b : BootInput) : Option (Nat × List Byte) :=
  let c := { s.chip with power := { Power.reset with phase := .held } }
  if imageCause s.fuses c b.answers b.imageA = 0 then some (0, b.imageA)
  else if imageCause s.fuses c b.answers b.imageB = 0 then some (1, b.imageB) else none

/-- 18 R520 R521 R523 to R526: power and reset discard everything but the fuses; at release the boot ROM samples the straps and
starts the first image that passes its checks (signatures uninterpreted, log 5), or fails with the status of R526 and
sends it; the stewards start at the image's entry point; a scan on the board leaves its note. -/
def Sys2Proof.Claims.PowerAndBoot : Prop :=
  ∀ (s : State) (straps : BitVec 4) (b : BootInput) (ns : Nat), s.chip.err.pend = [] →
    let at' := fun (ph : Phase) (good : Bool) (t : State) => Wiped s t ∧ t.chip.power.phase = ph ∧ t.chip.power.good = good
    let ok := b.romOk = true ∧ b.fusesOk = true
    let failed := fun (st : Nat) (t : State) => at' .bootFailed true t ∧ t.chip.power.boot.status = st ∧
      t.chip.power.straps = straps.toNat
    (s.chip.power.phase = .off → Answers .powerGoodRise s (at' .held true)) ∧
    Answers .powerGoodFall s (at' .off false) ∧
    (s.chip.power.phase ≠ .off → 10000 ≤ ns → Answers (.resetAssert ns) s (at' .held true)) ∧
    (ns < 1000 → exec (.resetAssert ns) s = .next s) ∧
    (1000 ≤ ns → ns < 10000 → exec (.resetAssert ns) s = .refused .resetPulse) ∧
    (s.chip.power.phase = .held →
      (b.fusesOk = false → b.romOk = true → Answers (.resetRelease straps b) s (failed 2)) ∧
      (b.fusesOk = true → b.romOk = false → Answers (.resetRelease straps b) s (failed 3)) ∧
      (ok → starts s b = none → Answers (.resetRelease straps b) s (failed 1)) ∧
      (∀ d, ok → starts s b ≠ none → b.copyBad = some d → Answers (.resetRelease straps b) s (fun t => failed 4 t ∧
        t.chip.power.boot.badDie = d.val)) ∧
      (∀ n i, ok → starts s b = some (n, i) → b.copyBad = none → Answers (.resetRelease straps b) s (fun t =>
        at' .running true t ∧ t.chip.power.straps = straps.toNat ∧ t.chip.power.boot.image = n ∧
        t.chip.power.boot.build = field i 8 8 ∧ t.chip.power.boot.secVersion = field i 0x10 4 ∧
        ∀ d < 4, stewAt t.chip d = { Steward.reset with
          fwPc := field i 0x1C 4
          fwCode := slice i 256 (field i 0x14 4)
          fwData := putBytes [] 0 (slice i (256 + field i 0x14 4) (field i 0x18 4)) }))) ∧
    (s.chip.power.phase = .bootFailed → Answers .bootFailureFrame s (fun t => ∃ bytes,
      t = { s with chip := { s.chip with
        count := (s.chip.count / 500000000 + 1) * 500000000
        out := .canFrame (0x580 + s.chip.power.straps) bytes :: s.chip.out } } ∧
      bytes.length = 64 ∧ field bytes 0 1 = 0xFE ∧ field bytes 2 2 = s.chip.power.boot.status % 2 ^ 16)) ∧
    (s.chip.power.phase ≠ .off → Answers (.boundaryScan true) s (fun t =>
      t = { s with chip := { s.chip with power := { s.chip.power with scan := true } } })) ∧
    exec (.boundaryScan false) s = .next s

/-- The codes of n units of a kind in a record's location (14 R434). -/
def Sys2Proof.Claims.units (kind n : Nat) : List Nat := (List.range n).map (4096 * kind + ·)

/-- The units of a test of R528: the module, its dies, tiles, ports, stacks or channels; none for any other number. -/
def Sys2Proof.Claims.unitsOf : Nat → List Nat
  | 0x01 | 0x02 | 0x03 => [0]
  | 0x10 | 0x20 | 0x23 => units 5 4
  | 0x21 => units 1 192 ++ units 2 32
  | 0x22 => units 1 192
  | 0x30 => units 3 8
  | 0x31 => units 4 8
  | 0x40 => units 2 32
  | _ => []

/-- 18 R527 to R529 R531, 07 R193 R215: self-test runs once, fits the memories it finds and shows its first failure: of a primitive,
of the derived key-agreement identifier, or of those that it meets; its end sets 2001h:01; then the burn of the version of an
image that asks for it begins. -/
def Sys2Proof.Claims.SelfTest : Prop :=
  ∀ (s : State) (r : SelfTestInput), Quiet s →
    let done := reg s.chip (key 0x2001 1)
    let found := r.failures.filter (fun x => x.1.toNat != 3 && (unitsOf x.1.toNat).contains x.2.toNat)
    let agrees := recipientId s.fuses = agreeId s.fuses
    let shows := fun (n : Nat) (t : State) => reg t.chip (key 0x2001 2) = n
    (s.chip.power.tested = false → Answers (.selfTest r) s (fun t => t.chip.power.tested = true ∧
      t.chip.plan = s.chip.plan ∧ t.chip.mem = s.chip.mem ∧ reg t.chip (key 0x2001 1) = done ∧
      (found = [] → r.primitives = [] → agrees → shows 0 t ∧ ∀ k < 8,
        reg t.chip (key 0x4011 (k + 1)) = 1 ∧
        reg t.chip (key 0x4012 (k + 1)) = (if r.dimms.getD k 0 = 0 then 3 else 1) ∧
        reg t.chip (key 0x4010 (k + 1)) = min (r.dimms.getD k 0) 256 * 2 ^ 30) ∧
      (found ≠ [] → r.primitives = [] → agrees → (∃ x ∈ found, shows x.1.toNat t) ∧
        ∀ x ∈ found, reg t.chip (key 0x2001 2) ≤ x.1.toNat) ∧
      (r.primitives ≠ [] → shows 1 t) ∧
      (r.primitives = [] → ¬agrees → (∀ x ∈ found, 3 < x.1.toNat) → shows 3 t))) ∧
    (s.chip.power.tested = true → exec (.selfTest r) s = .next s) ∧
    (s.chip.power.tested = true → done = 0 → Answers .selfTestComplete s (fun t =>
      t = { s with chip := { s.chip with regs := t.chip.regs } } ∧ Keeps s t [key 0x2001 1] ∧
      reg t.chip (key 0x2001 1) = if reg s.chip (key 0x2001 2) = 0 then 1 else 2)) ∧
    let burns := done = 1 ∧ s.chip.power.boot.raise = true ∧ s.fuses.secMin < s.chip.power.boot.secVersion
    (burns → Answers .securityVersionBurn s (fun t => t = { s with chip := { s.chip with
      sec := { s.chip.sec with burnTo := some (min 63 s.chip.power.boot.secVersion) } } })) ∧
    (¬burns → exec .securityVersionBurn s = .next s)

/-- 18 R527 R539: the fuses burn in the ticks that pass after a burn has begun, so that a reset in between leaves those burned so
far: of the version one or none in a tick, until it stands at the image's; of the owner's identifier any, then the valid
fuse, at the latest 200 ms after the claim, which is answered then. Which burn in which tick is free (log 28). -/
def Sys2Proof.Claims.Burns : Prop :=
  ∀ (s : State), Quiet s → s.pending = [] → s.chip.plan.state ≠ .running → s.chip.plan.loading = none →
    (∀ d < 4, (stewAt s.chip d).routine = .none) → s.chip.count + 1 < 2 ^ 64 →
    (∀ v, s.chip.sec.burnTo = some v → s.chip.sec.claim = none → ∃ t, step s = .next t ∧
      t.fuses = { s.fuses with secMin := t.fuses.secMin } ∧
      (v ≤ s.fuses.secMin → t.fuses = s.fuses ∧ t.chip.sec.burnTo = none) ∧
      (s.fuses.secMin < v → (t.fuses.secMin = s.fuses.secMin ∨ t.fuses.secMin = s.fuses.secMin + 1) ∧
        t.chip.sec.burnTo = some v)) ∧
    (∀ k, s.chip.sec.claim = some k → s.chip.sec.burnTo = none → k.root.length = 32 → s.fuses.ownerRoot.length = 32 →
      (∀ i < 32, s.fuses.ownerRoot.getD i 0 &&& k.root.getD i 0 = s.fuses.ownerRoot.getD i 0) → ∃ t, step s = .next t ∧
        t.fuses = { s.fuses with ownerRoot := t.fuses.ownerRoot, ownerValid := t.fuses.ownerValid } ∧
        (∀ i < 32, s.fuses.ownerRoot.getD i 0 &&& t.fuses.ownerRoot.getD i 0 = s.fuses.ownerRoot.getD i 0 ∧
          t.fuses.ownerRoot.getD i 0 &&& k.root.getD i 0 = t.fuses.ownerRoot.getD i 0) ∧
        let ended := t.chip.sec.claim = none ∧ t.fuses.ownerRoot = k.root ∧ t.fuses.ownerValid = true ∧
          t.chip.out = .doe 1 [5, 0, 0, 0, 0, 0, 0, 0] :: s.chip.out
        (ended ∨ (t.chip.sec.claim = some k ∧ t.fuses.ownerValid = s.fuses.ownerValid ∧ t.chip.out = s.chip.out)) ∧
        (k.since + 100000000 ≤ s.chip.count + 1 → ended))

/-- The fuses after a step: what manufacture burned stays; the minimum version only rises; an owner once begun or valid stays so,
and while no claim's burn is in progress nothing of it changes (18 R527 R530 R539). -/
structure Sys2Proof.Claims.FusesKept (s t : State) : Prop where
  rest : t.fuses = { s.fuses with ownerRoot := t.fuses.ownerRoot, ownerBegun := t.fuses.ownerBegun,
                                  ownerValid := t.fuses.ownerValid, secMin := t.fuses.secMin }
  version : s.fuses.secMin ≤ t.fuses.secMin
  begun : s.fuses.ownerBegun = true → t.fuses.ownerBegun = true
  valid : s.fuses.ownerValid = true → t.fuses.ownerValid = true
  still : s.chip.sec.claim = none → s.fuses.ownerBegun = true ∨ s.fuses.ownerValid = true →
    t.fuses.ownerRoot = s.fuses.ownerRoot ∧ t.fuses.ownerBegun = s.fuses.ownerBegun ∧ t.fuses.ownerValid = s.fuses.ownerValid

/-- What every step keeps: no occurrence waits for the log once a command is over, of the queue only the front has gone, and no
command makes an error strike (log 37). -/
def Obligations.InvariantStep : Prop :=
  ∀ (s : State),
    (∀ f, step s ≠ .fault f) ∧
    ∀ t, step s = .next t → (s.chip.err.pend = [] → t.chip.err.pend = []) ∧ t.pending = s.pending.tail ∧
      FusesKept s t ∧ ∀ f ∈ t.chip.flaws, f ∈ s.chip.flaws

/-- Every step keeps it. -/
def Obligations.FormsStay : Prop := ∀ (s t : State), Kept s → step s = .next t → Kept t

/-- The invariants hold after reset. -/
def Obligations.InvariantReset : Prop :=
  State.reset.chip.err.pend = [] ∧ State.reset.pending = [] ∧ Quiet State.reset ∧ Kept State.reset

/-! ## Attestation, ownership and the mailbox (17, 18) -/

/-- A response of type 01h to the host: code, status, length and data (18 R534). -/
def Sys2Proof.Claims.response (code st : Nat) (d : List Byte) : Out :=
  .doe 1 (leBytes 1 code ++ leBytes 1 st ++ [0, 0] ++ leBytes 4 d.length ++ d)

/-- A request object of type 01h to the module, of a code (18 R534). -/
def Sys2Proof.Claims.request (code : Nat) (d : List Byte) : List Byte := leBytes 1 code ++ [0, 0, 0] ++ leBytes 4 d.length ++ d

/-- Only the mailbox's answer leaves. -/
def Sys2Proof.Claims.only (s : State) (o : Out) (t : State) : Prop :=
  t = { s with chip := { s.chip with out := o :: s.chip.out } }

/-- 17 R515, 18 R534 R535: a request object as it arrives runs the request that its code names; one whose header does not hold, or
of a code of no request, is answered with status 01h (that it is not the empty response is the model's reading: log 28);
one past 16 KiB is answered with an empty response. -/
def Sys2Proof.Claims.RequestObjects : Prop :=
  ∀ (s : State) (b nonce ct eph keys signer g : List Byte) (n : BitVec 32), Quiet s → linkUp s.chip = true →
    let code := field b 0 1
    let holds := 8 ≤ b.length ∧ (b.drop 1).take 3 = [0, 0, 0] ∧ field b 4 4 = b.length - 8
    exec (.getReport (request 1 [])) s = exec .getCertificates s ∧
    (ct.length = 1088 → eph.length = 32 → exec (.getReport (request 3 (ct ++ eph))) s = exec (.openSession ct eph) s) ∧
    exec (.getReport (request 4 (leBytes 4 n.toNat))) s = exec (.closeSession n) s ∧
    (keys.length = 1984 → signer.length = 3408 →
      exec (.getReport (request 5 (keys ++ signer))) s = exec (.ownerClaim keys signer) s) ∧
    exec (.getReport (request 6 g)) s = exec (.ownerGrant g) s ∧
    (b.length ≤ 16384 → ¬holds ∨ (code = 0 ∨ 6 < code) → Answers (.getReport b) s (only s (response code 1 []))) ∧
    (nonce.length = 32 → Answers (.getReport (request 2 nonce)) s (fun t => ∃ r, only s (response 2 0 r) t ∧ r.length = 4144 ∧
      field r 0 4 = 1 ∧ field r 8 8 = s.fuses.unique % 2 ^ 64 ∧ slice r 0xA0 32 = nonce ∧ field r 0xC0 8 = s.chip.count % 2 ^ 64)) ∧
    (nonce.length ≠ 32 → nonce.length ≤ 16376 → Answers (.getReport (request 2 nonce)) s (only s (response 2 1 []))) ∧
    (16384 < b.length → Answers (.getReport b) s (only s (.doe 1 []))) ∧
    (16376 < ct.length + eph.length → Answers (.openSession ct eph) s (only s (.doe 1 []))) ∧
    (16376 < keys.length + signer.length → Answers (.ownerClaim keys signer) s (only s (.doe 1 []))) ∧
    (16376 < g.length → Answers (.ownerGrant g) s (only s (.doe 1 [])))

/-- 17 R515, 18 R532 R534 to R540: what the mailbox answers over a host link in L0: discovery (its form PRESUMED: log 29), the
certificates, one session at a time, an owner claim once and only on an unowned module, whose answer comes with the end of
its burn (`Burns`), and grants of the owner. Signatures and keys are uninterpreted (log 5). -/
def Sys2Proof.Claims.Attestation : Prop :=
  ∀ (s : State) (ct eph keys signer g : List Byte) (n : BitVec 32) (index : BitVec 8), Quiet s → linkUp s.chip = true →
    let tells := fun (o : Out) (t : State) => t.chip.out = o :: s.chip.out ∧ SamePlan s t ∧ Keeps s t []
    (index.toNat < 3 → Answers (.doeDiscovery index) s (only s (.doe 0 (leBytes 2 (doeVendor index.toNat) ++
      [index, BitVec.ofNat 8 ((index.toNat + 1) % 3)])))) ∧
    Answers .doeAbort s (fun t => t = { s with chip := { s.chip with sec := { s.chip.sec with session := none } } }) ∧
    Answers .getCertificates s (only s (response 1 0 s.chip.power.boot.certs)) ∧
    (ct.length = 1088 → eph.length = 32 → s.chip.power.rngBad = false → Answers (.openSession ct eph) s (fun t =>
      ∃ x, t.chip.sec = { s.chip.sec with session := some x } ∧ x.rx = 0 ∧ x.tx = 0 ∧
        tells (response 3 0 (leBytes 4 x.num)) t)) ∧
    (ct.length ≠ 1088 ∨ eph.length ≠ 32 → ct.length + eph.length ≤ 16376 →
      Answers (.openSession ct eph) s (only s (response 3 1 []))) ∧
    (ct.length = 1088 → eph.length = 32 → s.chip.power.rngBad = true → Answers (.openSession ct eph) s (only s (response 3 5 []))) ∧
    (∀ x, s.chip.sec.session = some x → (x.num = n.toNat → Answers (.closeSession n) s (fun t =>
        t.chip.sec = { s.chip.sec with session := none } ∧ tells (response 4 0 []) t)) ∧
      (x.num ≠ n.toNat → Answers (.closeSession n) s (only s (response 4 4 [])))) ∧
    (s.chip.sec.session = none → Answers (.closeSession n) s (only s (response 4 4 []))) ∧
    (keys.length ≠ 1984 ∨ signer.length ≠ 3408 → keys.length + signer.length ≤ 16376 →
      Answers (.ownerClaim keys signer) s (only s (response 5 1 []))) ∧
    (keys.length = 1984 → signer.length = 3408 → allZero (slice signer 3405 3) = true →
      let free := s.fuses.ownerValid = false ∧ s.fuses.ownerBegun = false ∧ (∀ b ∈ s.fuses.ownerRoot, b = 0) ∧
        reg s.chip (key 0x2001 1) ≠ 0 ∧ s.chip.plan.state = .empty
      (free → claimValid s.fuses s.chip keys signer = true → Answers (.ownerClaim keys signer) s (fun t =>
        t = { s with
          fuses := { s.fuses with ownerBegun := true }
          chip := { s.chip with sec := { s.chip.sec with claim := some ⟨keyId keys, s.chip.count⟩ } } })) ∧
      (free → claimValid s.fuses s.chip keys signer = false → Answers (.ownerClaim keys signer) s (only s (response 5 3 []))) ∧
      (¬free → Answers (.ownerClaim keys signer) s (only s (response 5 2 [])))) ∧
    (grantForm g = true → (grantOk s.fuses s.chip g = true → Answers (.ownerGrant g) s (fun t =>
        t.chip.sec = { s.chip.sec with grant := grantSlots g } ∧ tells (response 6 0 []) t)) ∧
      (s.fuses.ownerValid = false → Answers (.ownerGrant g) s (only s (response 6 3 [])))) ∧
    (grantForm g = false → g.length ≤ 16376 → Answers (.ownerGrant g) s (only s (response 6 1 [])))

/-- 17 R514, 18 R537: IDE_KM within a session: an object that is not the session's next is refused with status 04h; a key is
programmed; K_SET_GO with a programmed key turns its sub-stream to that set, and with all of them secure frees the traffic
that a failure stopped, and with it the module's writes; K_SET_STOP takes its set's keys, and ends the sub-stream's secure
state where that set is the one in use (PRESUMED, as the sub-streams and bytes of the messages: log 29). -/
def Sys2Proof.Claims.KeyManagement : Prop :=
  ∀ (s : State) (ct : List Byte) (n : BitVec 32) (seq : BitVec 64), Quiet s → linkUp s.chip = true →
    let h := s.chip.host
    let out := s.chip.out
    (s.chip.sec.session = none ∨ 16372 < ct.length → Answers (.ideKmMessage n seq ct) s (only s (.doe 2 []))) ∧
    (∀ x, s.chip.sec.session = some x → x.num ≠ n.toNat ∨ x.rx ≠ seq.toNat → ct.length ≤ 16372 →
      Answers (.ideKmMessage n seq ct) s (fun t => ∃ b, t.chip.out = .doe 2 [b, 4, 0, 0, 0, 0, 0, 0] :: out ∧
        t = { s with chip := { s.chip with out := t.chip.out, free := t.chip.free } })) ∧
    (∀ x m, s.chip.sec.session = some x → x.num = n.toNat → x.rx = seq.toNat → ct.length ≤ 16372 →
      gcmOpen s.chip x.key (sessNonce 0 x.rx) [] ct = some m →
      let sealed := fun (plain : List Byte) => Out.doe 2 (leBytes 4 x.num ++ leBytes 8 x.tx ++
        Config.aesGcmSeal x.key (sessNonce 1 x.tx) [] plain)
      let after := fun (t : State) => SamePlan s t ∧
        t.chip.sec = { s.chip.sec with session := some { x with rx := x.rx + 1, tx := x.tx + 1 } }
      let next := fun (id : Byte) (h' : HostIf) (t : State) => after t ∧ t.chip.host = h' ∧
        t.chip.out = sealed (leBytes 1 (field m 0 1) ++ [id] ++ slice m 2 6) :: out
      let bit' := ideBit m
      let set := field m 6 1 % 2
      let held := h.ideKeys.any (fun y => y.1 == 16 * set + bit') = true
      let go := setBit h.ideGo bit'
      let turned := { h with ideGo := go, ideHalt := h.ideHalt && go != 255,
                             ideSet := if set = 1 then setBit h.ideSet bit' else clearBit h.ideSet bit' }
      let shown := fun (h' : HostIf) (t : State) => next 6 h' t ∧ reg t.chip (key 0x2040 3) = if h'.ideGo = 255 then 1 else 0
      (field m 1 1 = 0 → Answers (.ideKmMessage n seq ct) s (fun t => after t ∧ t.chip.host = h ∧ ∃ b : List Byte, b.length = 8 ∧
        t.chip.out = sealed (leBytes 1 (field m 0 1) ++ [1] ++ b) :: out)) ∧
      (field m 1 1 = 2 → Answers (.ideKmMessage n seq ct) s (next 3 { h with
        ideKeys := (16 * set + bit', slice m 8 40) :: h.ideKeys.filter (fun y => y.1 != 16 * set + bit') })) ∧
      (field m 1 1 = 4 → ¬held → Answers (.ideKmMessage n seq ct) s (next 6 h)) ∧
      (field m 1 1 = 4 → held → h.ideHalt = false ∨ go ≠ 255 ∨ (h.msixPend = [] ∧ s.chip.srv.backlog = []) →
        Answers (.ideKmMessage n seq ct) s (shown turned)) ∧
      (∀ r, field m 1 1 = 4 → held → h.ideHalt = true → go = 255 → h.msixPend = [] → h.bme = true → h.d3 = false →
        s.chip.srv.backlog = [r] → ringFill s.chip < reg s.chip (key 0x6040 2) → Answers (.ideKmMessage n seq ct) s (fun t =>
          t.chip.host.ideHalt = false ∧ t.chip.srv.backlog = [] ∧ .hostWrite (reg s.chip (key 0x6040 1) +
            64 * (reg s.chip (key 0x6040 5) % reg s.chip (key 0x6040 2))) r ∈ t.chip.out)) ∧
      (field m 1 1 = 5 → Answers (.ideKmMessage n seq ct) s (shown { h with
        ideGo := if set = (if h.ideSet.testBit bit' then 1 else 0) then clearBit h.ideGo bit' else h.ideGo
        ideKeys := h.ideKeys.filter (fun y => y.1 != 16 * set + bit') })) ∧
      (field m 1 1 ∉ [0, 2, 4, 5] → Answers (.ideKmMessage n seq ct) s (only s (.doe 2 []))))

/-- 17 R514 R515, 18 R532 R534 to R540: the mailbox. -/
def Obligations.Mailbox : Prop := RequestObjects ∧ Attestation ∧ KeyManagement

/-- 15 R479, 18 R541: a key slot takes a value that an entry of the held grant allows, at rest; where none does the write is
refused with 05000002h; an all-zero value empties the slot. -/
def Sys2Proof.Claims.KeySlots : Prop :=
  ∀ (s : State) (i : BitVec 16) (sub : BitVec 8) (v : List Byte), Quiet s → v.length = 1984 →
    (i = 0xA010 ∧ 1 ≤ sub.toNat ∧ sub.toNat ≤ 8) ∨ (i = 0xA020 ∧ 1 ≤ sub.toNat ∧ sub.toNat ≤ 4) →
    let k := key i.toNat sub.toNat
    (∀ id, (k, id) ∈ s.chip.sec.grant → runs s.chip = false → s.chip.plan.loading = none →
      (allZero id = false → keyId v = id) ∧ (allZero id = true → allZero v = true) →
      Answers (.keySlotWrite i sub v) s (fun t => keySlot t.chip i.toNat sub.toNat = v ∧ served s t ∧
        Keeps s t [key 0x2002 1] ∧ (∀ j n, key j n ≠ k → keySlot t.chip j n = keySlot s.chip j n) ∧
        t = { s with chip := { s.chip with regs := t.chip.regs, blobs := t.chip.blobs } })) ∧
    ((∀ id, (k, id) ∈ s.chip.sec.grant → (allZero id = true ∧ allZero v = false) ∨ (allZero id = false ∧ keyId v ≠ id)) →
      Answers (.keySlotWrite i sub v) s (fun t => reg t.chip (key 0x2002 3) = 0x05000002 ∧
      reg t.chip (key 0x2002 4) = k ∧ served s t ∧ t = { s with chip := { s.chip with regs := t.chip.regs } }))

/-! ## The host (17) -/

/-- The host port after a CXL reset (17 R518). -/
structure Sys2Proof.Claims.HostCleared (s t : State) : Prop where
  host : t.chip.host = { HostIf.reset with fired := s.chip.host.fired, mirrorOwed := s.chip.host.mirrorOwed }
  session : t.chip.sec = { s.chip.sec with session := none }
  ide : reg t.chip (key 0x2040 3) = 0
  plan : SamePlan s t

/-- The module is out of reset, with firmware or in a failed boot, and no occurrence waits for the log. -/
def Sys2Proof.Claims.Powered (s : State) : Prop :=
  (s.chip.power.phase = .running ∨ s.chip.power.phase = .bootFailed) ∧ s.chip.err.pend = []

/-- The host port takes accesses of BAR 0: the link in L0, no IDE failure, Memory Space Enable set, in D0 (17 R514 R517 R518). -/
structure Sys2Proof.Claims.Mapped (s : State) : Prop extends Quiet s where
  link : linkUp s.chip = true
  flows : s.chip.host.ideHalt = false
  space : s.chip.host.mse = true
  awake : s.chip.host.d3 = false

/-- 17 R499 R510 R512 to R518, 18 R522, 08 R263: link training, the resets of the link, power states, Bus Master Enable and a snoop:
the link's rate and width, what a CXL reset clears (the values that the registers take are PRESUMED: log 9), what blocks and
frees the module's writes, and the record of the backlog that leaves when they are free. HOST_WRITES_UNBLOCK sets Bus Master
Enable, and an IDE failure holds writes back: log 29. -/
def Sys2Proof.Claims.LinkAndPower : Prop :=
  ∀ (s : State) (a width : Nat) (r : List Byte), Powered s →
    let up := linkUp s.chip = true
    let link := fun (rate w : Nat) (t : State) => reg t.chip (key 0x2040 1) = rate ∧ reg t.chip (key 0x2040 2) = w ∧
      SamePlan s t ∧ Keeps s t [key 0x2040 1, key 0x2040 2]
    let host := fun (h : HostIf) (t : State) => t = { s with chip := { s.chip with host := h } }
    let h := s.chip.host
    let free := h.msixPend = [] ∧ s.chip.srv.backlog = []
    (free → (width = 16 ∨ width = 8) → Answers (.cxlLinkTraining 64 width) s (link 2 width) ∧
      Answers (.cxlLinkTraining 32 width) s (link 1 width)) ∧
    (width ≠ 16 → width ≠ 8 → Answers (.cxlLinkTraining 64 width) s (link 0 0)) ∧
    Answers .surpriseLinkDown s (link 0 0) ∧
    Answers .perst s (fun t => HostCleared s t ∧ reg t.chip (key 0x2040 1) = 0 ∧ reg t.chip (key 0x2040 2) = 0) ∧
    (up → Answers .functionLevelReset s (fun t => HostCleared s t ∧ Keeps s t [key 0x2040 3]) ∧
      Answers (.powerStateChange true) s (host { h with d3 := true }) ∧
      Answers .busMasterEnableClear s (host { h with bme := false }) ∧
      (free → Answers (.powerStateChange false) s (host { h with d3 := false }) ∧
        Answers .hostWritesUnblock s (host { h with bme := true })) ∧
      (h.msixPend = [] → h.d3 = false → h.ideHalt = false → s.chip.srv.backlog = [r] →
        ringFill s.chip < reg s.chip (key 0x6040 2) → Answers .hostWritesUnblock s (fun t => SamePlan s t ∧
          sentOut s t (.hostWrite (reg s.chip (key 0x6040 1) +
            64 * (reg s.chip (key 0x6040 5) % reg s.chip (key 0x6040 2))) r) ∧ t.chip.srv.backlog = [])) ∧
      (h.ideHalt = false → Answers (.h2dSnoop a) s (fun t =>
        t = { s with chip := { s.chip with out := .snoopResp :: s.chip.out } })))

/-- 17 R513 R514 R516: a vector's mask is cleared by a write of its entry, and its pending message leaves where nothing else holds
it; MSI-X Enable and Function Mask hold messages back too. A failure of integrity ends the secure state of both streams and
their keys, stops the traffic, and shows in AER or in RAS, after the stream that failed (which did is open, the bits are
PRESUMED: log 29); without a secure sub-stream it is none. -/
def Sys2Proof.Claims.MessagesAndIntegrity : Prop :=
  ∀ (s : State) (v : Fin 64) (on mask : Bool),
    let h := s.chip.host
    (Mapped s →
      (h.msixPend = [] → Answers (.msixUnmask v) s (fun t => bit (field (msixEntry t.chip v.val) 12 4) 0 = false ∧
        t.chip.out = s.chip.out ∧ (∀ w, w ≠ v.val → msixEntry t.chip w = msixEntry s.chip w) ∧ SamePlan s t)) ∧
      (h.msixPend = [v.val] → h.bme = true → h.msixOn = true → h.funcMask = false → Answers (.msixUnmask v) s (fun t =>
        t.chip.out = .msix v.val :: s.chip.out ∧ t.chip.host.msixPend = [] ∧ SamePlan s t))) ∧
    (Quiet s → h.mse = false ∨ h.d3 = true ∨ h.ideHalt = true ∨ linkUp s.chip = false → exec (.msixUnmask v) s = .next s) ∧
    (Quiet s → linkUp s.chip = true →
      (h.msixPend = [] → Answers (.bar0Access 0 (.msixControl on mask)) s (fun t =>
        t = { s with chip := { s.chip with host := { h with msixOn := on, funcMask := mask } } })) ∧
      (h.msixPend = [v.val] → hostBlocked s.chip = false → bit (field (msixEntry s.chip v.val) 12 4) 0 = false →
        Answers (.bar0Access 0 (.msixControl true false)) s (fun t => t.chip.out = .msix v.val :: s.chip.out ∧
          t.chip.host.msixPend = [] ∧ SamePlan s t))) ∧
    (Quiet s → (h.ideGo = 0 → exec .ideIntegrityFailure s = .next s) ∧
      (h.ideGo ≠ 0 → Answers .ideIntegrityFailure s (fun t =>
        t.chip.host = { h with ideGo := 0, ideKeys := [], ideHalt := true, aerUnc := t.chip.host.aerUnc, rasUnc := t.chip.host.rasUnc } ∧
        ((t.chip.host.aerUnc = setBit h.aerUnc 28 ∧ t.chip.host.rasUnc = h.rasUnc) ∨
          (t.chip.host.rasUnc = setBit h.rasUnc 16 ∧ t.chip.host.aerUnc = h.aerUnc)) ∧
        reg t.chip (key 0x2040 3) = 0 ∧ Keeps s t [key 0x2040 3] ∧ SamePlan s t)))

/-- 17 R499 R510 R512 to R518, 18 R522, 08 R263: the host link. -/
def Obligations.HostLink : Prop := LinkAndPower ∧ MessagesAndIntegrity

/-- A request is answered as unsupported, which AER shows (17 R516; its bit PRESUMED: log 29). -/
def Sys2Proof.Claims.refusedBar (s t : State) : Prop :=
  t = { s with chip := { s.chip with
    host := { s.chip.host with aerUnc := setBit s.chip.host.aerUnc 20 }, out := .unsupported :: s.chip.out } }

/-- 15 R466, 17 R502 R503 R504: a host access of BAR 0 reads the response window and writes the request frame and the intake
window; a read that is none of R503 is unsupported; one that crosses a field of the window is unsupported by R503 or reads 0 by 15 R466
(which is open: log 27). Without Memory Space Enable or in D3hot BAR 0 takes none (PRESUMED unsupported: log 29). -/
def Sys2Proof.Claims.BarAccesses : Prop :=
  ∀ (s : State) (o n : Nat) (b : List Byte),
    let c := s.chip
    let sends := fun (x : Out) (t : State) => t = { s with chip := { s.chip with out := x :: s.chip.out } }
    (Mapped s →
      (0x10080 ≤ o → 1 ≤ n → o + n ≤ 0x100C0 → o % 64 + n ≤ 64 → Answers (.bar0Access o (.read n)) s
        (sends (.barData (slice (slice c.eng.winResp 0 64) (o - 0x10080) n)))) ∧
      (n = 0 ∨ 64 < o % 64 + n ∨ 0x400000 < o + n → Answers (.bar0Access o (.read n)) s (refusedBar s)) ∧
      (0x10040 ≤ o → o < 0x1004C → 4 < o % 4 + n → o % 64 + n ≤ 64 → Answers (.bar0Access o (.read n)) s (fun t =>
        let c' := { c with free := c.free + 1 }
        t = { s with chip := { c' with out := .barData (List.replicate n 0) :: c.out } } ∨ refusedBar { s with chip := c' } t)) ∧
      (0x10000 ≤ o → b ≠ [] → o + b.length ≤ 0x10040 → c.eng.winStatus ≠ 1 → Answers (.bar0Access o (.write b)) s (fun t =>
        t = { s with chip := { c with eng := { c.eng with winReq := splice (slice c.eng.winReq 0 64) (o - 0x10000) b } } })) ∧
      (exec (.bar0Access 0x10040 (.write [1, 0, 0, 0])) s = exec .submit s) ∧
      (CaughtUp c → 0x200000 ≤ o → b ≠ [] → o % 64 + b.length ≤ 64 → o + b.length ≤ 0x310000 → Answers (.bar0Access o (.write b)) s (fun t =>
        t = { s with chip := { c with srv := { c.srv with window := t.chip.srv.window } } } ∧
        ∀ j, smGet 0 t.chip.srv.window j = if o - 0x200000 ≤ j ∧ j < o - 0x200000 + b.length
          then b.getD (j - (o - 0x200000)) 0 else smGet 0 c.srv.window j))) ∧
    (Quiet s → linkUp c = true → c.host.ideHalt = false → c.host.mse = false ∨ c.host.d3 = true →
      Answers (.bar0Access o (.read n)) s (refusedBar s) ∧ Answers (.bar0Access o (.write b)) s (fun t =>
        t = { s with chip := { c with host := { c.host with aerUnc := setBit c.host.aerUnc 20 } } }))

/-- 17 R501 R502 R506 R516 R518: what the host writes to configuration space that the port keeps, and what the component registers
show of it: the decoders' base, size and skip, and the RAS status, of which a 1 clears a bit (their places: log 29). -/
def Sys2Proof.Claims.ConfigurationWrites : Prop :=
  ∀ (s : State) (o base v : Nat) (mse : Bool) (x : Hdm) (d : Fin 2), Quiet s → linkUp s.chip = true →
    let h := s.chip.host
    let host := fun (h : HostIf) (t : State) => t = { s with chip := { s.chip with host := h } }
    let reads := fun (o n w : Nat) => Answers (.bar0Access o (.read n)) s (fun t =>
      t = { s with chip := { s.chip with out := .barData (leBytes n w) :: s.chip.out } })
    Answers (.bar0Access o (.place base mse)) s (host { h with bar0 := base - base % 2 ^ 22, mse := mse }) ∧
    Answers (.bar0Access o (.aerClear v)) s (host { h with aerUnc := h.aerUnc &&& (2 ^ 32 - 1 - v % 2 ^ 32) }) ∧
    (Mapped s →
      (h.hdm[d.val]? = some x → x.base < 2 ^ 64 → x.size < 2 ^ 64 → x.skip < 2 ^ 64 →
        let at' := 0x1190 + 0x20 * d.val
        reads at' 8 x.base ∧ reads (at' + 8) 8 x.size ∧ reads (at' + 20) 8 x.skip) ∧
      (h.rasUnc < 2 ^ 32 → h.rasCor < 2 ^ 32 → v < 2 ^ 32 → reads 0x1080 4 h.rasUnc ∧ reads 0x108C 4 h.rasCor ∧
        Answers (.bar0Access 0x1080 (.write (leBytes 4 v))) s (host { h with rasUnc := h.rasUnc &&& (2 ^ 32 - 1 - v) }) ∧
        Answers (.bar0Access 0x108C (.write (leBytes 4 v))) s (host { h with rasCor := h.rasCor &&& (2 ^ 32 - 1 - v) })))

/-- 17 R505 to R507 R516 R517, 07 R202, 10 R317: a read of HDM gives the bytes and poison of its granule; a write stores the enabled
bytes of it, completed with Cmp; both carry Light Load; a poisoned write shows in RAS. In D3hot an access is unsupported;
an address that no committed decoder covers does not reach the module (PRESUMED: log 29). What a write may do to bytes that
the receive queues or the mirror hold follows the model's layout of them (logs 21, 32). -/
def Sys2Proof.Claims.HdmAccesses : Prop :=
  ∀ (s : State) (hpa a : Nat) (data : List Byte) (en : BitVec 64) (poison : Bool),
    Quiet s → linkUp s.chip = true → s.chip.host.ideHalt = false →
    let c := s.chip
    (c.host.d3 = false → c.time.changing = false → translate c hpa = some a → a % 64 = 0 → reachable s.fuses c a = true →
      smGet EccMark.none c.ecc (a / 64) = EccMark.none →
      (inWork c a = false → Answers (.cxlMemRead hpa) s (fun t =>
        t.chip.out = .memData (memBytes c.mem a 64) (granPoison c a) .light :: c.out ∧ t.chip.mem = c.mem ∧ SamePlan s t)) ∧
      Answers (.cxlMemWrite hpa en data poison) s (fun t =>
        t.chip.out = .cmp .light :: c.out ∧ t.chip.plan = c.plan ∧ t.chip.tiles = c.tiles ∧
        t.chip.host = { c.host with rasCor := if poison then setBit c.host.rasCor 5 else c.host.rasCor } ∧
        (∀ k < 64, memByte t.chip.mem (a + k) = if en.getLsbD k then data.getD k 0 else memByte c.mem (a + k)) ∧
        granPoison t.chip a = (poison || (decide (en ≠ BitVec.allOnes 64) && granPoison c a)) ∧
        (∀ b, b / 64 ≠ a / 64 → memByte t.chip.mem b = memByte c.mem b) ∧
        ∀ g, g ≠ a / 64 → nsMem t.chip.poison g = nsMem c.poison g)) ∧
    (c.host.d3 = true → translate c hpa = some a →
      Answers (.cxlMemRead hpa) s (refusedBar s) ∧ Answers (.cxlMemWrite hpa en data poison) s (refusedBar s)) ∧
    (translate c hpa = none → exec (.cxlMemRead hpa) s = .next s ∧ exec (.cxlMemWrite hpa en data poison) s = .next s)

/-- 15 R466, 17 R501 to R507 R516 to R518, 07 R202: what the host reads and writes. -/
def Obligations.HostAccesses : Prop := BarAccesses ∧ ConfigurationWrites ∧ HdmAccesses

/-- 17 R506: a decoder is committed where its size and its skip are multiples of 256 MiB, its interleave is one way and the span
it reaches lies in the range of R505; a commit that breaks a rule sets Error Not Committed instead. What the other decoder
reaches plays no part, and a committed decoder translates the addresses it covers, where decoder 0 does not cover them too. That the
span begins at the skip, and that no Lock on Commit stands in the way, is the model's (log 29). -/
def Obligations.DecoderCommit : Prop :=
  ∀ (s : State) (d : Fin 2) (base size skip ways : Nat), Mapped s → s.chip.host.hdm.length = 2 →
    let good := size % 2 ^ 28 = 0 ∧ ways = 1 ∧ skip % 2 ^ 28 = 0 ∧ skip + size ≤ 0x30040000000
    Answers (.hdmDecoderCommit d base size skip ways) s (fun t =>
      (∃ x, x.base = base ∧ x.size = size ∧ x.skip = skip ∧ x.ways = ways ∧ (x.committed = true ↔ good) ∧ (x.error = true ↔ ¬good) ∧
        t = { s with chip := { s.chip with host := { s.chip.host with hdm := s.chip.host.hdm.set d.val x } } }) ∧
      (good → ∀ hpa, base ≤ hpa → hpa < base + size →
        (d = 0 ∨ ∀ y, s.chip.host.hdm[0]? = some y → ¬(y.committed = true ∧ y.base ≤ hpa ∧ hpa < y.base + y.size)) →
        translate t.chip hpa = some (hpa - base + skip)))

/-! ## The actions of a boundary (01 R24) -/

/-- An occurrence joins those that wait for the log. -/
def Sys2Proof.Claims.noted (c d : Chip) (code : Nat) (loc : Loc) (detail : List Nat) : Prop :=
  ∃ o, d.err.pend = c.err.pend ++ [o] ∧ o.code = code ∧ o.loc = locCode loc ∧ o.detail = detail.map (· % 2 ^ 32)

/-- Counters gain, modulo 2^64; every other entry stays. -/
def Sys2Proof.Claims.gains (c d : Chip) (l : List (Nat × Nat)) : Prop :=
  (∀ x ∈ l, reg d x.1 = (reg c x.1 + x.2) % 2 ^ 64) ∧ ∀ k, k ∉ l.map (·.1) → reg d k = reg c k

/-- 01 R24 R29: the actions of a boundary and their order: action 1 of every boundary; then, where the plan goes on, the
residence switch before action 2, results, cancellations, switches, the commit, the inputs and the next work, the variant, the readmission, the
migrations, and the records; the next step begins after them. -/
def Sys2Proof.Claims.ActionOrder : Prop :=
  (∀ s : State, Quiet s → s.chip.plan.state = .running → s.chip.plan.cut = true →
    let n := s.chip.plan.step
    let at' := boundaryAt s.chip
    let c := action1 n (finishStep (reach s.chip at'))
    s.chip.plan.step = (finishStep (reach s.chip at')).plan.step →
    exec .stepBoundary s = .next { s with chip := flush (
      if c.plan.cutHalt = n then
        { c with plan := { c.plan with state := .halted, pendingBoundary := true }, acc := { c.acc with reported := [] } }
      else stepAdjust (sendStamps (n + 1) (beginStep (n + 1) at' (actions n false c)))) }) ∧
  (∀ (c : Chip) (n : Nat) (resume : Bool),
    let c1 := residenceSwitch (readAdmission (atMoment .boundary c))
    let c3 := if serving c1 then action3 (action2 n (engineCheck c1)) else (c1, [])
    let c4 := action4 n c3.1
    let told := noticeDigest c3.1 c4.1
    let c5 := action5 n told
    let c6 := if serving told then action6 n (c5.1, c3.2) else (idleServing c5.1, c3.2)
    let c8 := migrate (action8 n resume (action7 resume c6.1))
    actions n resume c = atMoment .command (replayCompare n (recordWrite (flushOutputs n c6.2 c8) 2 n
      (boundaryPayload (flushOutputs n c6.2 c8) n c4.2
        (reg (flushOutputs n c6.2 c8) (key 0x5301 1) != reg told (key 0x5301 1)) c5.2)))) ∧
  (∀ (c : Chip) (n : Nat), (action7 false c).plan.variant = c.plan.latched.1 ∧ (action7 false c).plan.params = c.plan.latched.2 ∧
    (action7 false c).plan.accepted = none ∧
    (reg c (key 0xB050 2) ≠ 0xFF → (action7 true c).plan.variant = reg c (key 0xB050 2)) ∧
    (c.det.imported = true → (action8 n true c).det.imported = false ∧ gains c (action8 n true c) [(key 0xB050 3, 1)] ∧
      noted c (action8 n true c) 0x0A04 .modl [n + 1]) ∧
    (c.det.imported = false → action8 n true c = c))

/-- 01 R24, 02 R64, 03 R84 R91, 04 R115 R116, 05 R139 R148: action 1 adds the step's counts and events to their entries, each modulo
its width, and clears them; what a program has not issued is counted and reported once for its die; a lag is reported and stays. -/
def Sys2Proof.Claims.StepClosed : Prop :=
  ∀ (c : Chip) (im : PlanImage) (e : Fin 4) (site : Nat) (x : Tile),
    let d := flushCounts c
    let keys := c.acc.counts.map (·.1)
    let events := [key 0x3002 1, key 0x3003 1]
    let q := seqAt c e.val
    let left := fun (exe ended : Bool) (issued : Nat) =>
      if ended then 0 else (instrsOf im c.plan.variant e.val exe).length - issued
    let n := left false q.endA q.issuedA + left true q.endX q.issuedX
    (keys.Nodup → (∀ k ∈ events, k ∉ keys) →
      (∀ y ∈ c.acc.counts, reg d y.1 = (reg c y.1 + y.2) % 2 ^ entBits y.1) ∧
      reg d (key 0x3002 1) = reg c (key 0x3002 1) ||| c.acc.conv ∧ reg d (key 0x3003 1) = reg c (key 0x3003 1) ||| c.acc.vec ∧
      (∀ k, k ∉ keys → k ∉ events → reg d k = reg c k) ∧
      d = { c with regs := d.regs, acc := { c.acc with counts := [], conv := 0, vec := 0 } }) ∧
    (c.plan.image = some im → n = 0 → unissued c e.val = c) ∧
    (c.plan.image = some im → 0 < n → (4, 1000 + e.val) ∉ c.acc.reported →
      let u := unissued c e.val
      smGet 0 u.acc.counts (key 0x3050 4) = smGet 0 c.acc.counts (key 0x3050 4) + n ∧ noted c u 0x0601 (.die e.val) [4, n] ∧
      u.regs = c.regs ∧ u.tiles = c.tiles ∧ u.mem = c.mem) ∧
    (x.lag = 0 → lagFault c (site, x) = c) ∧
    (0 < x.lag → noted c (lagFault c (site, x)) 0x0602 (.tile site) [1, x.lag] ∧ (lagFault c (site, x)).tiles = c.tiles)

/-- 07 R212 R214: before action 2 a finished migration switches the residence of its page, a promoted page to its frame, a demoted
one to none, the page then clean; one not finished is deferred, counted and reported. -/
def Sys2Proof.Claims.ResidenceSwitched : Prop :=
  ∀ (c : Chip) (r : Region) (x : Flight), (poolAt c r.num).flights = [x] →
    let d := switchPool c r
    (x.ready = true → pageAt (poolAt d r.num) x.page =
        { pageAt (poolAt c r.num) x.page with frame := if x.promote then some x.frame else none, dirty := false } ∧
      (∀ g, g ≠ x.page → pageAt (poolAt d r.num) g = pageAt (poolAt c r.num) g) ∧ (poolAt d r.num).flights = [] ∧
      (∀ n, n ≠ r.num → poolAt d n = poolAt c n) ∧ gains c d [(key 0x4021 (if x.promote then 1 else 2), 1)] ∧ d.mem = c.mem) ∧
    (x.ready = false → d.pools = c.pools ∧ gains c d [(key 0x4021 4, 1)] ∧
      noted c d 0x0308 (.die r.home) [poolName c r, x.page])

/-- The first n tokens of a result are kept, and what ends the session with them: 1 a stop token, 2 the maximum, 0 nothing (08
R255). -/
def Sys2Proof.Claims.kept (stops : List Nat) (most gen : Nat) (toks : List Nat) (n fin : Nat) : Prop :=
  let stop := fun (i : Nat) => toks.getD i 0 ∈ stops ∧ toks.getD i 0 ≠ 2 ^ 32 - 1
  n ≤ toks.length ∧ (∀ i, i + 1 < n → ¬stop i ∧ gen + i + 1 < most) ∧
  (fin = 0 ∧ n = toks.length ∧ (∀ i < n, ¬stop i ∧ gen + i + 1 < most) ∨ fin = 1 ∧ 0 < n ∧ stop (n - 1) ∨
    fin = 2 ∧ 0 < n ∧ ¬stop (n - 1) ∧ most ≤ gen + n)

/-- 08 R255 R256 R264 R238: action 2, of a session that shares no prefix (for one that does, the pages that its result completes follow
by `PrefixTree`). A missing result is counted and reported and leaves the session; another gives the tokens up to a stop or the maximum, the new length, the
grammar's state and the poison flag, which stays; the session ends with its status, or at the context limit. A chunk that is not the last adds its tokens to the length. -/
def Sys2Proof.Claims.ResultsApplied : Prop :=
  ∀ (c : Chip) (s step : Nat) (w : Work) (r : List Byte) (bad : Bool),
    engRead c (svRegion c 4) (128 * s) 128 = (c, r, bad) → (sessAt c s).flags.testBit 0 = false →
    let x := sessAt c s
    let pos := x.len + w.c
    let e := field r 3 1
    let toks := (List.range e).map (fun i => field r (8 + 4 * i) 4)
    let missing := field r 0 2 ≠ s ∨ field r 4 4 ≠ pos ∨ field r 2 1 ∉ [0, 3, 5, 6, 7] ∨ 9 < e
    let d := applyResult step w s c
    (missing → d.2 = [] ∧ gains c d.1 [(key 0x6050 10, 1)] ∧ noted c d.1 0x0701 (.die (s / 1024)) [2, s] ∧ d.1.srv = c.srv ∧
      d.1.mem = c.mem) ∧
    (¬missing → ∀ n fin, kept x.stops x.maxNew x.gen toks n fin →
      let l := x.len + w.c + n - 1
      let flags := if bad = true ∨ (field r 0x42 1).testBit 0 = true then setBit x.flags 2 else x.flags
      let low := field r 0x2F 1
      let y : Sess := { x with
        st := 2, flags := flags, len := l, gen := x.gen + n, cur := if n = 0 then x.cur else toks.getD (n - 1) 0 % 2 ^ 20
        gstate := field r 0x2C 2, gdepth := field r 0x2E 1
        gstack := (List.range (min (field r 0x2E 1) 64)).map (fun j =>
          if low ≤ j ∧ j < low + 9 then field r (0x30 + 2 * (j - low)) 2 else x.gstack.getD j 0) }
      let status := if fin ≠ 0 then fin else if field r 2 1 ≠ 0 then field r 2 1
        else if sv c 9 < l + 1 + (if x.flags.testBit 1 then sv c 7 else 0) then 8 else 0
      let out := fun (kind status : Nat) => (⟨x.origin, x.tag, s, kind, toks.take n, pos, status, flags.testBit 2⟩ : OutRec)
      (status = 0 → sessAt d.1 s = y ∧ d.2 = if n = 0 then [] else [out 1 0]) ∧
      (status ≠ 0 → sessAt d.1 s = Sess.free ∧ d.2 = [out 2 status]) ∧
      (∀ k, k ≠ s → sessAt d.1 k = sessAt c k) ∧
      gains c d.1 ([(key 0x6050 6, n)] ++ (if w.k = 0 then [] else [(key 0x6050 11, w.k), (key 0x6050 12, e - 1)]) ++
        (if status = 0 then [] else [(key 0x6050 5, 1)])) ∧
      d.1.srv.prompts = (if w.kind = 1 then c.srv.prompts.filter (fun p => p.1 ≠ x.pline) else c.srv.prompts)) ∧
    (∀ d, d = applyChunk step w s c →
      sessAt d s = { x with len := x.len + w.c } ∧ (∀ k, k ≠ s → sessAt d k = sessAt c k) ∧ d.regs = c.regs ∧
      d.srv.prompts = c.srv.prompts)

/-- 08 R258 R261: a cancellation ends the session that holds its number and tag, whose tokens of the step go into the ending record, and removes
the requests that carry both; one that matches nothing gives a refused record. -/
def Sys2Proof.Claims.Cancellations : Prop :=
  ∀ (c : Chip) (l : List OutRec) (origin s tag : Nat),
    let x := sessAt c s
    let hit := s < 4096 ∧ x.st ≠ 0 ∧ x.tag = tag
    let asks := fun (y : Nat × Nat × Nat × List Byte × Bool) =>
      y.2.2.2.2 = false ∧ field y.2.2.2.1 1 1 = 1 ∧ field y.2.2.2.1 0x10 2 = s ∧ field y.2.2.2.1 8 8 = tag
    let d := cancelOne (c, l) origin s tag
    ((∀ y ∈ regionRecs c, ¬asks y) →
      (hit → sessAt d.1 s = Sess.free ∧ (∀ k, k ≠ s → sessAt d.1 k = sessAt c k) ∧ gains c d.1 [(key 0x6050 5, 1)] ∧
        d.1.srv.region = c.srv.region ∧ d.2 = l.filter (fun r => !(r.s == s && r.kind == 1)) ++
          [match l.find? (fun r => r.s == s && r.kind == 1) with
            | some r => ⟨x.origin, x.tag, s, 2, r.toks, r.pos, 4, x.flags.testBit 2⟩
            | none => ⟨x.origin, x.tag, s, 2, [], x.len, 4, x.flags.testBit 2⟩]) ∧
      (¬hit → d.1.srv = c.srv ∧ gains c d.1 [(key 0x6050 4, 1)] ∧
        d.2 = l ++ [⟨origin, tag, s, 3, [], 0, 0x0208, false⟩])) ∧
    (∀ before i k o r after, regionRecs c = before ++ (i, k, o, r, false) :: after → (∀ y ∈ before ++ after, ¬asks y) →
      asks (i, k, o, r, false) → ¬hit → d.1.srv = (removeReq c i k).srv ∧ gains c d.1 [(key 0x6050 4, 1)] ∧
        d.2 = l ++ [⟨o, tag, s, 3, [], 0, 0x0209, false⟩])

/-- 09 R279 R285 to R290: at action 4 the Ready copy of an entry becomes Live; the former Live copy drains, or where the policy says so
its sessions take the new generation and it is freed; the entry's step returns to all ones. A Draining copy that no session binds is freed. Without a switch, a drained copy or a build due nothing changes. -/
def Sys2Proof.Claims.SwitchesApplied : Prop :=
  ∀ (c : Chip) (e step : Nat) (r l : WCopy), e < 66 →
    let d := applySwitch c e (some step)
    let x := wentry c e
    let counted := reg d.1 (key 0x7040 3) = (reg c (key 0x7040 3) + 1) % 2 ^ 64 ∧ reg d.1 (key 0x7020 (e + 1)) = 2 ^ 64 - 1 ∧
      (∀ k, k ≠ key 0x7040 3 → k ≠ key 0x7020 (e + 1) → reg d.1 k = reg c k) ∧ (∀ k, k ≠ e → wentry d.1 k = wentry c k) ∧ d.2 = true
    let copies := fun (old : WCopy → WCopy) =>
      let f := fun (k : WCopy) => if k.st = .ready then { k with st := .live } else if k.st = .live then old k else k
      wentry d.1 e = { x with a := f x.a, b := f x.b, uses := 0 }
    (x.a.st ≠ .ready → x.b.st ≠ .ready → d = (c, false)) ∧
    (copyIn x .ready = some r → copyIn x .live = none → counted ∧ copies id ∧ d.1.srv = c.srv ∧ d.1.wts.freed = c.wts.freed) ∧
    (copyIn x .ready = some r → copyIn x .live = some l → genPolicy c e ≠ 1 →
      counted ∧ copies (fun k => { k with st := .draining }) ∧ d.1.srv = c.srv ∧ d.1.wts.freed = c.wts.freed) ∧
    (copyIn x .ready = some r → copyIn x .live = some l → genPolicy c e = 1 → (c.srv.sess.map (·.1)).Nodup →
      counted ∧ copies (fun _ => WCopy.none) ∧ d.1.wts.freed = c.wts.freed ++ [(l.tier, l.off, copySpan l.len, step)] ∧
      ∀ n, sessAt d.1 n = if (sessAt c n).st ≠ 0 ∧ bindsGen e l.gen (sessAt c n) = true then
          { sessAt c n with gens := (sessAt c n).gens - l.gen * 2 ^ genShift e + r.gen * 2 ^ genShift e }
        else sessAt c n) ∧
    (copyIn x .draining = some l →
      (boundTo c e l.gen ≠ 0 → freeDrained c [e] (some step) = c) ∧
      (boundTo c e l.gen = 0 → (∀ k, k ≠ e → wentry (freeDrained c [e] (some step)) k = wentry c k) ∧
        (wentry (freeDrained c [e] (some step)) e).a = (if x.a.st = .draining then WCopy.none else x.a) ∧
        (wentry (freeDrained c [e] (some step)) e).b = (if x.b.st = .draining then WCopy.none else x.b))) ∧
    (c.wts.kept = [] → c.wts.build = none → (∀ k < 66, copyIn (wentry c k) .draining = none) → action4 step c = (c, []))

/-- 15 R455, 12 R389: action 5 puts in force the shadows that the cut-off copied and changes the epoch that was asked for; without a
copy nothing changes. -/
def Sys2Proof.Claims.CommitApplied : Prop :=
  ∀ (c : Chip) (step : Nat) (m : SMap Nat),
    let d := action5 step c
    (c.commitCopy = none → d = (c, false)) ∧
    (c.commitCopy = some m → d.2 = true ∧ d.1.commitCopy = none ∧
      reg d.1 (key 0x2000 5) = (reg c (key 0x2000 5) + 1) % 2 ^ 64 ∧
      reg d.1 (key 0x2000 2) = (if reg c (key 0x2000 2) = step then 2 ^ 64 - 1 else reg c (key 0x2000 2)) ∧
      (∀ k ∈ stagedKeys, k ≠ key 0x5301 2 → reg d.1 k = smGet (reg c k) m k) ∧
      (smGet (reg c (key 0x5301 2)) m (key 0x5301 2) = 1 →
        reg d.1 (key 0x5301 1) = 1 - reg c (key 0x5301 1) ∧ reg d.1 (key 0x5301 2) = 0 ∧
        noted c d.1 0x0503 .modl [1 - reg c (key 0x5301 1)]) ∧
      (smGet (reg c (key 0x5301 2)) m (key 0x5301 2) ≠ 1 → reg d.1 (key 0x5301 1) = reg c (key 0x5301 1)) ∧
      d.1.tiles = c.tiles ∧ d.1.mem = c.mem ∧ d.1.srv = c.srv)

/-- 08 R231 R251 R252: a table chunk is refused where a session uses the table or where it leaves the region; else its words
go in and the table is not installed until its final chunk leaves a valid image. -/
def Sys2Proof.Claims.TableChunks : Prop :=
  ∀ (c : Chip) (st : Stage) (r : List Byte),
    let kind := field r 0x12 1
    let n := field r 0x13 1
    let g := svRegion c 7
    let words := slice st.words (4 * field r 4 4) (4 * field r 0x14 4)
    let base := if kind = 1 then n * g else 256 * g + n * (sv c 2 / 8)
    let off := base + field r 0x18 4
    let num := if kind = 1 then n else 256 + n
    let used := ∃ x ∈ liveSessions c, (if kind = 1 then x.2.gram else x.2.mask) = n
    let fits := off + words.length ≤ regionSize c (svRegion c 6)
    let put := engPatch c (svRegion c 6) off words
    let d := applyTable c st r
    let final := (field r 0x2F 1).testBit 0 = true
    let installed := fun (yes : Bool) => d.1.srv.sess = c.srv.sess ∧ d.1.mem = put.mem ∧
      ∀ k, nsMem d.1.srv.tables k = if k = num then yes else nsMem c.srv.tables k
    (used → d = (c, 0x0205)) ∧ (¬used → ¬fits → d = (c, 0x0206)) ∧
    (¬used → fits →
      (¬final → d.2 = 0 ∧ installed false) ∧ (final → kind = 2 → d.2 = 0 ∧ installed true) ∧
      (final → kind = 1 →
        let ok := grammarOk (engRead { put with srv := { put.srv with tables := nsErase put.srv.tables num } } (svRegion c 6) base g).2.1
          g (sv c 2) = true
        (ok → d.2 = 0 ∧ installed true) ∧ (¬ok → d.2 = 0x0207 ∧ installed false)))

/-- A request's tokens have a run of free lines of the prompt store from line o. -/
def Sys2Proof.Claims.freeRun (c : Chip) (p o : Nat) : Prop :=
  o + (p + 15) / 16 ≤ regionSize c (svRegion c 5) / 64 ∧ ∀ x ∈ c.srv.prompts, o + (p + 15) / 16 ≤ x.1 ∨ x.1 + x.2 ≤ o

/-- 08 R221 R230 R231 R260, 09 R268: a request is refused with the status of the first check that fails; else it takes its entry, the lowest free run
of lines, the generations of the copies that are Live, or those last assigned, and the next sequence number. Stated for prompts of one page or less, of which
no page is looked for in the tree (`PrefixTree` says what the walk of a longer one does). -/
def Sys2Proof.Claims.Admissions : Prop :=
  ∀ (c : Chip) (st : Stage) (r : List Byte) (step : Nat), Calm c → c.ecc = [] →
    let s := field r 0x10 2
    let tag := field r 8 8
    let gram := field r 0x12 1
    let mask := field r 0x13 1
    let ad := field r 0x2E 1
    let p := field r 0x14 4
    let live := fun (e : Nat) => (wentry c e).a.st = .live ∨ (wentry c e).b.st = .live
    let checks : List (Prop × Nat × Nat) := [((sessAt c s).st = 0, 0x0201, 0),
      (svRegion c 6 = 2 ^ 32 - 1 → gram = 0xFF ∧ mask = 0xFF, 0x0202, 0),
      ((gram ≠ 0xFF → nsMem c.srv.tables gram = true) ∧ (mask ≠ 0xFF → nsMem c.srv.tables (256 + mask) = true), 0x0202, 0),
      (ad ≠ 0xFF → ad < 64 ∧ live (2 + ad), 0x0203, 0), (∃ o, freeRun c p o, 0x0204, 0)]
    let d := admitRecord step c st r
    (∀ status, firstFails checks status 0 → gains c d.1 [(key 0x6050 4, 1)] ∧ d.1.srv = c.srv ∧ d.1.wts = c.wts ∧
      d.2 = [⟨st.origin, tag, s, 3, [], 0, status, false⟩]) ∧
    ((∀ x ∈ checks, x.1) → p ≤ tau c → ∀ line, freeRun c p line → (∀ o < line, ¬freeRun c p o) →
      let gen := fun (e : Nat) => match copyIn (wentry c e) .live with
        | some k => k.gen
        | none => (wentry c e).last
      let one := fun (e : Nat) => if live e then 1 else 0
      let es := [0, 1] ++ (if ad = 0xFF then [] else [2 + ad])
      d.2 = [⟨st.origin, tag, s, 4, [], 0, 0, false⟩] ∧ gains c d.1 [(key 0x6050 3, 1), (key 0x6050 7, 0)] ∧
      d.1.srv.admSeq = (c.srv.admSeq + 1) % 2 ^ 64 ∧ d.1.srv.prompts = c.srv.prompts ++ [(line, (p + 15) / 16)] ∧
      (∀ k, k ≠ s → sessAt d.1 k = sessAt c k) ∧
      (∀ e < 66, wentry d.1 e = if e ∈ es ∧ live e then { wentry c e with uses := min (2 ^ 32 - 1) ((wentry c e).uses + 1) } else wentry c e) ∧
      sessAt d.1 s = { Sess.free with
        st := 1, flags := field r 0x2F 1 % 4, gram := gram, mask := mask, origin := st.origin, tag := tag, seed := field r 0x18 8
        admSeq := c.srv.admSeq, plen := p, pline := line, maxNew := field r 0x20 4, temp := field r 0x24 4, topp := field r 0x28 4
        topk := field r 0x2C 2, adapter := ad, stops := (List.range 4).map (fun i => field r (0x30 + 4 * i) 4), node := 0
        admStep := step, gens := gen 0 + 4 * gen 1 + (if ad = 0xFF then 0 else 16 * gen (2 + ad))
        binds := one 0 + 2 * one 1 + (if ad = 0xFF then 0 else 4 * one (2 + ad))
        gstate := if gram = 0xFF then 0 else field (engRead c (svRegion c 6) (gram * svRegion c 7 + 0xC) 2).2.1 0 2
        keys := [] })

/-- 08 R234 R237 R238, 07 R213: a session gets the lowest free page of a pool for a page index that it lacks, with the lowest free frame, and where its
directory slot holds no block the lowest free block; what cannot be had ends the allocation, pauses the session and gives back all it took at the boundary; pages past the
length lose the session's reference, and a page without one returns, clean and cold, without a frame. -/
def Sys2Proof.Claims.PagesTaken : Prop :=
  ∀ (c : Chip) (d s p pi first : Nat) (t : Took), p ∈ diePools c d →
    let rank := poolRank c d p
    let rn := poolNum c p
    let e := needPage c d s p pi t
    (t.ok = true → kvPage c d p s pi ≠ none → e = (c, t)) ∧
    (∀ g b, t.ok = true → kvPage c d p s pi = none → freePage c p = some g → g < 2 ^ 20 →
      (dirSlot c s rank (pi / 64) = some b ∨ dirSlot c s rank (pi / 64) = none ∧ freeBlock c d = some b) →
      kvPage e.1 d p s pi = some g ∧ pageRefs e.1 p g = 1 ∧ dirSlot e.1 s rank (pi / 64) = some b ∧
      (∀ k, k ≠ p * 2 ^ 20 + g → smGet 0 e.1.srv.refs k = smGet 0 c.srv.refs k) ∧
      pageAt (poolAt e.1 rn) g = (match freeFrames c rn with
        | f :: _ => { pageAt (poolAt c rn) g with frame := some f, dirty := false, heat := 0 }
        | [] => pageAt (poolAt c rn) g) ∧
      (∀ k, k ≠ g → pageAt (poolAt e.1 rn) k = pageAt (poolAt c rn) k) ∧ e.2.ok = true ∧ e.2.pages = (p, pi) :: t.pages ∧
      e.1.srv.sess = c.srv.sess ∧ e.1.srv.nodes = c.srv.nodes) ∧
    (t.ok = true → kvPage c d p s pi = none → dirSlot c s rank (pi / 64) ≠ none → freePage c p = none → victim c d none = none →
      e.1 = c ∧ e.2.ok = false) ∧
    (∀ n u, (∀ q < 8, poolPages c q ≤ 2 ^ 20) → t.ok = true → (ensurePages c s n t).2 = some u →
      ∀ i < (n + tau c - 1) / tau c, ∀ q ∈ diePools c (s / 1024), kvPage (ensurePages c s n t).1 (s / 1024) q s i ≠ none) ∧
    (∀ (x : Alloc) n k, let r := ensurePages x.chip s ((sessAt x.chip s).len + n + k) (match x.got.find? (fun y => y.1 == s) with
        | some y => y.2.2
        | none => Took.none)
      let y := allocFor x s n k
      (r.2 = none → y.failed = x.failed ++ [s] ∧ (sessAt y.chip s).flags.testBit 3 = true) ∧
      (r.2 ≠ none → y.failed = x.failed ∧ (sessAt y.chip s).flags.testBit 3 = false)) ∧
    (s / 1024 = d → (∀ q ∈ diePools c d, ∀ q' ∈ diePools c d, ∀ i < 64, ∀ i' < 64, ∀ b, dirSlot c s (poolRank c d q) i = some b →
        dirSlot c s (poolRank c d q') i' = some b → q = q' ∧ i = i') → pi < 4096 →
      kvPage (truncateKv c s first) d p s pi = if pi < (first + tau c - 1) / tau c then kvPage c d p s pi else none) ∧
    (∀ g, let f := dropRef c p g
      pageRefs f p g = pageRefs c p g - 1 ∧
      (pageRefs c p g ≤ 1 → pageAt (poolAt f rn) g = { pageAt (poolAt c rn) g with frame := none, dirty := false, heat := 0 } ∧
        (poolAt f rn).flights = (poolAt c rn).flights.filter (fun x => x.page ≠ g)) ∧
      (1 < pageRefs c p g → f.pools = c.pools))

/-- 08 R239 to R244: the walk of an admission takes the child that holds the next key, shares it and its pages and marks it used; it
stops at the first miss. A completed page of a sharing session becomes a node below its deepest one, with the tree's reference on its pages. A session that
ends leaves its path. Eviction takes the cached node used longest ago, the lower number first. -/
def Sys2Proof.Claims.PrefixTree : Prop :=
  ∀ (c : Chip) (d s step i cur : Nat) (k : List Byte) (ks : List (List Byte)), s / 1024 = d →
    (prefixWalk d s step [] cur i c = (c, cur, i) ∧
      (findChild c d cur k = none → prefixWalk d s step (k :: ks) cur i c = (c, cur, i))) ∧
    (∀ n (bs : List Nat), findChild c d cur k = some n → (diePools c d).map (fun p => dirSlot c s (poolRank c d p) (i / 64)) = bs.map some →
      bs.Nodup → (nodeAt c d n).pages.length = (diePools c d).length → (∀ g ∈ (nodeAt c d n).pages, g < 2 ^ 20) →
      ∃ e, prefixWalk d s step (k :: ks) cur i c = prefixWalk d s step ks n (i + 1) e ∧
        nodeAt e d n = { nodeAt c d n with sharing := (nodeAt c d n).sharing + 1, used := step } ∧
        (∀ m, m ≠ n → nodeAt e d m = nodeAt c d m) ∧ e.srv.sess = c.srv.sess ∧ e.regs = c.regs ∧
        ∀ x ∈ (diePools c d).zip (nodeAt c d n).pages, kvPage e d x.1 s i = some x.2 ∧
          pageRefs e x.1 x.2 = (pageRefs c x.1 x.2 + 1) % 65536) ∧
    (∀ n (pages : List Nat), let x := sessAt c s
      x.keys[i]? = some k → x.flags.testBit 0 = true → tau c * (i + 1) ≤ x.len → nodeDepth c d x.node = i →
      nodeUsed c d x.node = true → (diePools c d).map (fun p => kvPage c d p s i) = pages.map some → pages ≠ [] →
      (∀ g ∈ pages, g < 2 ^ 20) → findChild c d x.node k = none → freeNode c d = some n →
      let e := insertPage c s i step
      e.2 = true ∧ sessAt e.1 s = { x with node := n } ∧ (∀ j, j ≠ s → sessAt e.1 j = sessAt c j) ∧
      nodeAt e.1 d n = ⟨k, x.node, 2 ^ 32 - 1, (nodeAt c d x.node).child, 1, step, pages, false⟩ ∧
      nodeAt e.1 d x.node = { nodeAt c d x.node with child := n } ∧
      (∀ m, m ≠ n → m ≠ x.node → nodeAt e.1 d m = nodeAt c d m) ∧
      ∀ y ∈ (diePools c d).zip pages, pageRefs e.1 y.1 y.2 = (pageRefs c y.1 y.2 + 1) % 65536) ∧
    (∀ path, path = pathUp c d (c.srv.nodes.length + 1) (sessAt c s).node → path.Nodup → ∀ m, nodeAt (leavePath c s) d m = if m ∈ path then { nodeAt c d m with sharing := (nodeAt c d m).sharing - 1 } else nodeAt c d m) ∧
    (∀ keep v, (treeNodes c d).Pairwise (· < ·) → victim c d keep = some v →
      v ∈ treeNodes c d ∧ nodeCached c d v = true ∧ keep ≠ some v ∧
      ∀ m ∈ treeNodes c d, nodeCached c d m = true → keep ≠ some m →
        (nodeAt c d v).used < (nodeAt c d m).used ∨ (nodeAt c d v).used = (nodeAt c d m).used ∧ v ≤ m)

/-- 08 R232 R233: the prefill tokens go to the sessions in order, each but the last named with all it wants; a decode session that is not
paused works one token; the step table's and prefill list's entries hold what their layouts say, an idle one zeros. -/
def Sys2Proof.Claims.NextWork : Prop :=
  ∀ (c : Chip) (left : Nat) (ss : List Nat),
    (∀ (l : List (Nat × Nat)) (want : Nat → Nat), l = shareTokens c left ss →
      (∀ s, want s = (sessAt c s).plen - (sessAt c s).len) →
      l.map (·.1) = ss.take l.length ∧ (l.map (·.2)).sum ≤ left ∧ (∀ x ∈ l, 0 < x.2 ∧ x.2 ≤ want x.1) ∧
      (∀ i, i + 1 < l.length → (l.getD i (0, 0)).2 = want (l.getD i (0, 0)).1) ∧
      (l.length < ss.length → (l.map (·.2)).sum = left ∨ want (ss.getD l.length 0) = 0)) ∧
    (∀ (d s : Nat) (failed : List Nat), s ∈ dieSessions c d →
      ((sessAt c s).flags.testBit 3 = true → ∀ w, (s, w) ∉ (dieWork c d failed).1) ∧
      ((sessAt c s).flags.testBit 3 = false → (sessAt c s).st = 2 → (s, ⟨2, 1, workDepth c s, false, false⟩) ∈ (dieWork c d failed).1)) ∧
    (∀ (x : Sess) (w : Work) (first : Nat) (new : Bool),
      let b := tableEntry x w first new
      b.length = 32 ∧ (w.kind = 0 → b = List.replicate 32 0) ∧
      (w.kind = 1 ∨ w.kind = 2 → field b 0 1 = w.kind ∧
        field b 1 1 = (if w.final then 1 else 0) + (if w.k = 0 then 0 else 2) + (if x.flags.testBit 2 then 4 else 0) +
          (if new then 8 else 0) ∧
        field b 2 1 = x.adapter % 2 ^ 8 ∧ field b 3 1 = x.gens % 2 ^ 8 ∧ field b 4 4 = x.len % 2 ^ 32 ∧ field b 8 4 = w.c % 2 ^ 32 ∧
        field b 12 4 = (if w.kind = 2 then x.cur % 2 ^ 32 else 2 ^ 32 - 1) ∧
        field b 16 4 = (if w.kind = 1 then first % 2 ^ 32 else 2 ^ 32 - 1) ∧ field b 20 1 = w.k % 2 ^ 8 ∧
        allZero (slice b 21 11) = true)) ∧
    (∀ (s pos tok : Nat) (last : Bool), let b := listEntry s pos tok last
      b.length = 16 ∧ field b 0 2 = s % 2 ^ 16 ∧ field b 2 1 = (if last then 3 else 1) ∧ field b 4 4 = pos % 2 ^ 32 ∧
      field b 8 4 = tok % 2 ^ 32 ∧ field b 3 1 = 0 ∧ field b 12 4 = 0)

/-- 08 R259 to R263: the layout of an output record; a record of the own origin goes to its place in the ring, or behind the backlog, or is
discarded, counted and reported; the mirror takes the count after the records of every boundary. -/
def Sys2Proof.Claims.OutputRecords : Prop :=
  (∀ (step : Nat) (r : OutRec), r.toks.length ≤ 9 → let b := outBytes step r
    b.length = 64 ∧ field b 0 8 = r.tag % 2 ^ 64 ∧ field b 8 2 = r.s % 2 ^ 16 ∧ field b 10 1 = r.kind % 2 ^ 8 ∧
    field b 11 1 = r.toks.length ∧ field b 12 4 = r.pos % 2 ^ 32 ∧ field b 16 8 = step % 2 ^ 64 ∧
    (∀ i < r.toks.length, field b (24 + 4 * i) 4 = r.toks.getD i 0 % 2 ^ 32) ∧ field b 60 2 = r.status % 2 ^ 16 ∧
    field b 62 1 = (if r.poison then 1 else 0) ∧ field b 63 1 = 0) ∧
  (∀ (c : Chip) (r : List Byte),
    let d := outPut c r
    let w := reg c (key 0x6040 5)
    let size := reg c (key 0x6040 2)
    let room := hostBlocked c = false ∧ (w + 2 ^ 32 - reg c (key 0x6040 4)) % 2 ^ 32 < size
    (c.srv.backlog = [] → room → reg c (key 0x6040 3) = 0 →
      d = { c with regs := d.regs, out := .hostWrite (reg c (key 0x6040 1) + 64 * (w % size)) r :: c.out } ∧
      reg d (key 0x6040 5) = (w + 1) % 2 ^ 32 ∧ reg d (key 0x6050 13) = (reg c (key 0x6050 13) + 1) % 2 ^ 64 ∧
      ∀ k, k ≠ key 0x6040 5 → k ≠ key 0x6050 13 → reg d k = reg c k) ∧
    (c.srv.backlog ≠ [] ∨ ¬room →
      (c.srv.backlog.length < 4096 → d = { c with srv := { c.srv with backlog := c.srv.backlog ++ [r] } }) ∧
      (4096 ≤ c.srv.backlog.length → d.srv = c.srv ∧ d.out = c.out ∧ gains c d [(key 0x6050 14, 1)] ∧
        noted c d 0x0703 .modl [0, 1]))) ∧
  (∀ (c : Chip) (step : Nat) (l : List OutRec),
    let own := match c.plan.place with
      | some pl => pl.own
      | none => 2 ^ 32 - 1
    let a := reg c (key 0x6040 6)
    (reg c (key 0xB011 6) ≤ step → flushOutputs step l c = writeMirror
      ((l.filter (fun r => r.origin == own)).foldl (fun c r => outPut c (outBytes step r)) c)) ∧
    (step < reg c (key 0xB011 6) → flushOutputs step l c = writeMirror c) ∧
    (a = 0 → writeMirror c = c) ∧
    (a ≠ 0 → hostBlocked c = true → writeMirror c = { c with host := { c.host with mirrorOwed := true } }) ∧
    (a ≠ 0 → hostBlocked c = false → writeMirror c = { c with
      host := { c.host with mirrorOwed := false }, out := .hostWrite a (leBytes 4 (reg c (key 0x6040 5))) :: c.out }))

/-! ## Statements in parts -/

/-- 04 R102: integer, bitwise and moving instructions of the vector engine. That VPCNT writes the active lanes is log 34; that effects are
seen from the issue on, log 3. -/
def Obligations.IntegerAndBitwise : Prop := IntegerLanes ∧ BitwiseAndMoves

/-- 04 R93 R98 R102 R114: what the comparisons and the predicate operations write. That the taint of a predicate register comes from the lanes
written alone is log 34; that effects are seen from the issue on, log 3. -/
def Obligations.PredicateResults : Prop := Comparisons ∧ PredicateOperations

/-- 03 R84, 05 R120 R124 R129 to R131 R133 R135 R136 R139, 04 R108: when a stream issues, when it waits, and in which cycles its lines move. How the
commands stand for the streams and what a held instruction holds is log 3; how a tile lags, catches up and counts is log 36. -/
def Obligations.IssueAndStall : Prop := ElasticWait ∧ IssueGate ∧ LineSchedule

/-- 07 R188 R191 R194 R198 R204 to R206, 04 R112 to R114, 14 R444, 15 R467: reads of granules, stored errors and injected ones, late writes, write-backs
and scrub passes. Stored errors stand in a list of the model's own (log 37); a late write goes where its line lies then (log 35); a pass starts at a
module address (log 33); an armed injection takes its next opportunity (log 26). -/
def Obligations.GranulesAndErrors : Prop := GranuleReads ∧ MemoryEvents ∧ StoredErrors

/-- 07 R212, 08 R229 R245 to R250: page copies, the admission read, and the samplers' jobs and results. The pool numbers of a copy are log 35. -/
def Obligations.PagesAndSamplers : Prop := CopyAndAdmission ∧ SamplerJobs ∧ SamplerResults

/-- 16 R482 to R492: the stewards' step routines: entry, waits, ends, instructions and messages. -/
def Obligations.Routines : Prop := StepRoutines ∧ StewardWaits ∧ RoutineInstructions ∧ StewardMessages

/-- 10: arming, the launch message and the begin of a run. That the first copy counts until the launch is over, and that the time to forward runs from its
receipt, is log 23; that an ARM during a load is busy, log 24. -/
def Obligations.Launches : Prop := Arming ∧ LaunchMessage ∧ LaunchBegins

/-- 10: alignment checks, frequency changes and the reference. Rounding of halves and of corrections, and the count in whole ticks, are log 23. -/
def Obligations.ClockChanges : Prop := AlignmentChecks ∧ FrequencyAndReference

/-- 06: loading, unloading and re-placing a plan. The order of the placer's refusals, malformed sections and when a phase ends are log 24; what is bound
where no byte is, log 35. -/
def Obligations.PlanLoading : Prop := PlanLoads ∧ LoadCompletes

/-- 15, 18 R541: writes of entries, the key slots among them. That a row which is a write counts as a request served is log 27. -/
def Obligations.EntryWriting : Prop := EntryWrites ∧ KeySlots

/-- 18: power, reset, boot, self-test and the version fuses. The boot's free choices, the burn in ticks and the order of tests are log 28; the values of
manufacture log 7, and what a reset leaves logs 8 and 14. -/
def Obligations.StartUp : Prop := PowerAndBoot ∧ SelfTest ∧ Burns

/-- 01 R22 to R24 R29, 02 R64, 03 R84 R91, 04 R115 R116, 05 R139 R143 R148, 07 R212 R214, 12 R389, 15 R455, 16 R489: the cut-off and the boundary of a step: what the cut-off
fixes, the order of the actions, the counts, the residence switch, the commit and the start of the next step. The fault of a missing variant record
is reported at die 0 (log 35). -/
def Obligations.StepEnds : Prop :=
  CutOffLatches ∧ BoundaryStartsNext ∧ ActionOrder ∧ StepClosed ∧ ResidenceSwitched ∧ CommitApplied

/-- 07 R213, 08 R221 R230 to R234 R237 to R244 R251 R252 R255 R256 R258 to R264, 09 R268 R279 R285 to R290: the serving actions of a boundary:
results, cancellations, switches, table chunks, admissions, pages, the prefix tree, the next step's work and the output records. What the spec leaves
open of their interleaving is log 33. -/
def Obligations.BoundaryActions : Prop :=
  ResultsApplied ∧ Cancellations ∧ SwitchesApplied ∧ TableChunks ∧ Admissions ∧ PagesTaken ∧ PrefixTree ∧ NextWork ∧ OutputRecords
end

