-- ==== Sys2Proof/Laws/Maps.lean ====
section
/-! SUPPORT. Laws of the sparse maps and of the rising number lists: reading after writing, and the
canonical form. -/

namespace Sys2Proof.Laws

open Sys2Proof Sys2Proof.Machine

variable {α : Type}

/-! ## Reading after writing -/

theorem smGet_smErase_same (d : α) (m : SMap α) (i : Nat) : smGet d (smErase m i) i = d := by
  induction m with
  | nil => rfl
  | cons e t ih =>
    obtain ⟨k, v⟩ := e
    by_cases h : k = i
    · subst h; simpa [smErase] using ih
    · simpa [smErase, smGet, h] using ih

theorem smGet_smErase_ne (d : α) (m : SMap α) {i j : Nat} (h : j ≠ i) :
    smGet d (smErase m i) j = smGet d m j := by
  induction m with
  | nil => rfl
  | cons e t ih =>
    obtain ⟨k, v⟩ := e
    by_cases hk : k = i
    · subst hk
      simpa [smErase, smGet, Ne.symm h] using ih
    · have : smErase ((k, v) :: t) i = (k, v) :: smErase t i := by simp [smErase, hk]
      simp only [this, smGet, ih]

theorem smGet_smPut_same (d : α) (m : SMap α) (i : Nat) (x : α) (h : ∀ e ∈ m, e.1 ≠ i) :
    smGet d (smPut m i x) i = x := by
  induction m with
  | nil => simp [smPut, smGet]
  | cons e t ih =>
    obtain ⟨k, v⟩ := e
    have hk : k ≠ i := h _ (List.mem_cons_self ..)
    simp only [smPut]
    split
    · simp [smGet]
    · simp [smGet, hk, ih (fun e he => h e (List.mem_cons_of_mem _ he))]

theorem smGet_smPut_ne (d : α) (m : SMap α) {i j : Nat} (x : α) (h : j ≠ i) :
    smGet d (smPut m i x) j = smGet d m j := by
  induction m with
  | nil => simp [smPut, smGet, Ne.symm h]
  | cons e t ih =>
    obtain ⟨k, v⟩ := e
    simp only [smPut]
    split
    · simp [smGet, Ne.symm h]
    · simp [smGet, ih]

theorem smErase_avoids (m : SMap α) (i : Nat) : ∀ e ∈ smErase m i, e.1 ≠ i := by
  intro e he
  simpa using (List.mem_filter.mp he).2

@[simp] theorem smGet_smInsert_same (d : α) (m : SMap α) (i : Nat) (x : α) :
    smGet d (smInsert m i x) i = x :=
  smGet_smPut_same d _ i x (smErase_avoids m i)

theorem smGet_smInsert_ne (d : α) (m : SMap α) {i j : Nat} (x : α) (h : j ≠ i) :
    smGet d (smInsert m i x) j = smGet d m j := by
  simp [smInsert, smGet_smPut_ne d _ x h, smGet_smErase_ne d m h]

variable [DecidableEq α]

/-- A key reads as what was written to it. -/
@[simp] theorem smGet_smSet_same (d : α) (m : SMap α) (i : Nat) (x : α) :
    smGet d (smSet d m i x) i = x := by
  unfold smSet
  split
  · next h => simp [smGet_smErase_same, h]
  · simp

/-- A write leaves every other key. -/
theorem smGet_smSet_ne (d : α) (m : SMap α) {i j : Nat} (x : α) (h : j ≠ i) :
    smGet d (smSet d m i x) j = smGet d m j := by
  unfold smSet
  split
  · exact smGet_smErase_ne d m h
  · exact smGet_smInsert_ne d m x h

/-- Reading after a write, for any two keys. -/
theorem smGet_smSet (d : α) (m : SMap α) (i j : Nat) (x : α) :
    smGet d (smSet d m i x) j = if j = i then x else smGet d m j := by
  split
  · next h => subst h; simp
  · next h => exact smGet_smSet_ne d m x h

/-- The same whatever an unlisted key reads as at the other key. -/
theorem smGet_smSet_ne' (d d' : α) (m : SMap α) {i j : Nat} (x : α) (h : j ≠ i) :
    smGet d' (smSet d m i x) j = smGet d' m j := by
  unfold smSet
  split
  · exact smGet_smErase_ne d' m h
  · exact smGet_smInsert_ne d' m x h

@[simp] theorem smGet_smMod_same (d : α) (m : SMap α) (i : Nat) (f : α → α) :
    smGet d (smMod d m i f) i = f (smGet d m i) := by
  simp [smMod]

/-! ## The canonical form -/

theorem smWf_cons (d : α) (k : Nat) (v : α) (t : SMap α) :
    smWf d ((k, v) :: t) = true ↔ v ≠ d ∧ (∀ e ∈ t, k < e.1) ∧ smWf d t = true := by
  induction t generalizing k v with
  | nil => simp [smWf]
  | cons e t ih =>
    obtain ⟨k', v'⟩ := e
    have h := ih k' v'
    constructor
    · intro hw
      simp only [smWf, Bool.and_eq_true, decide_eq_true_eq] at hw
      obtain ⟨⟨h1, h2⟩, h3⟩ := hw
      refine ⟨h1, ?_, h3⟩
      intro e he
      rcases List.mem_cons.mp he with rfl | he
      · exact h2
      · exact Nat.lt_trans h2 ((h.mp h3).2.1 e he)
    · rintro ⟨h1, h2, h3⟩
      simp only [smWf, Bool.and_eq_true, decide_eq_true_eq]
      exact ⟨⟨h1, h2 (k', v') (List.mem_cons_self ..)⟩, h3⟩

theorem smWf_filter (d : α) (m : SMap α) (p : Nat × α → Bool) (h : smWf d m = true) :
    smWf d (m.filter p) = true := by
  induction m with
  | nil => simpa using h
  | cons e t ih =>
    obtain ⟨k, v⟩ := e
    obtain ⟨h1, h2, h3⟩ := (smWf_cons d k v t).mp h
    simp only [List.filter_cons]
    split
    · refine (smWf_cons d k v _).mpr ⟨h1, fun e he => h2 e (List.mem_filter.mp he).1, ih h3⟩
    · exact ih h3

theorem smWf_smErase (d : α) (m : SMap α) (i : Nat) (h : smWf d m = true) :
    smWf d (smErase m i) = true := smWf_filter d m _ h

omit [DecidableEq α] in
theorem mem_smPut {m : SMap α} {i : Nat} {x : α} {e : Nat × α} (h : e ∈ smPut m i x) :
    e = (i, x) ∨ e ∈ m := by
  induction m with
  | nil => simpa [smPut] using h
  | cons a t ih =>
    obtain ⟨k, v⟩ := a
    simp only [smPut] at h
    split at h
    · simpa using h
    · rcases List.mem_cons.mp h with rfl | h
      · simp
      · rcases ih h with h | h
        · exact .inl h
        · exact .inr (List.mem_cons_of_mem _ h)

theorem smWf_smPut (d : α) (m : SMap α) (i : Nat) (x : α) (h : smWf d m = true) (hx : x ≠ d)
    (hi : ∀ e ∈ m, e.1 ≠ i) : smWf d (smPut m i x) = true := by
  induction m with
  | nil => simpa [smPut, smWf] using hx
  | cons e t ih =>
    obtain ⟨k, v⟩ := e
    obtain ⟨h1, h2, h3⟩ := (smWf_cons d k v t).mp h
    simp only [smPut]
    split
    · next hk =>
      refine (smWf_cons d i x _).mpr ⟨hx, ?_, h⟩
      intro e he
      rcases List.mem_cons.mp he with rfl | he
      · exact hk
      · exact Nat.lt_trans hk (h2 e he)
    · next hk =>
      have hne : k ≠ i := hi (k, v) (List.mem_cons_self ..)
      refine (smWf_cons d k v _).mpr ⟨h1, ?_, ih h3 (fun e he => hi e (List.mem_cons_of_mem _ he))⟩
      intro e he
      rcases mem_smPut he with rfl | he
      · exact Nat.lt_of_le_of_ne (Nat.le_of_not_lt hk) hne
      · exact h2 e he

/-- A write keeps the canonical form. -/
theorem smWf_smSet (d : α) (m : SMap α) (i : Nat) (x : α) (h : smWf d m = true) :
    smWf d (smSet d m i x) = true := by
  unfold smSet
  split
  · exact smWf_smErase d m i h
  · next hx => exact smWf_smPut d _ i x (smWf_smErase d m i h) hx (smErase_avoids m i)

/-! ## Number lists -/

theorem mem_nsAdd (s : List Nat) (i j : Nat) : j ∈ nsAdd s i ↔ j = i ∨ j ∈ s := by
  induction s with
  | nil => simp [nsAdd]
  | cons k t ih =>
    simp only [nsAdd]
    split
    · simp
    · simp only [List.mem_cons, ih]
      constructor <;> rintro (h | h | h) <;> simp [h]

@[simp] theorem nsMem_nsInsert (s : List Nat) (i j : Nat) :
    nsMem (nsInsert s i) j = (j == i || nsMem s j) := by
  rw [Bool.eq_iff_iff]
  simp only [nsMem, nsInsert, nsErase, List.contains_iff_mem, mem_nsAdd, List.mem_filter,
    Bool.or_eq_true, beq_iff_eq, bne_iff_ne, ne_eq]
  by_cases h : j = i <;> simp [h]

@[simp] theorem nsMem_nsErase (s : List Nat) (i j : Nat) :
    nsMem (nsErase s i) j = (j != i && nsMem s j) := by
  rw [Bool.eq_iff_iff]
  simp [nsMem, nsErase, List.mem_filter, and_comm]

@[simp] theorem nsMem_nsPut (s : List Nat) (i j : Nat) (b : Bool) :
    nsMem (nsPut s i b) j = if j = i then b else nsMem s j := by
  unfold nsPut
  by_cases h : j = i <;> cases b <;> simp [h]

end Sys2Proof.Laws
end

