-- ==== Sys2Proof/Laws/State.lean ====
section
/-! SUPPORT. One lemma for each field and each update: what an update of the chip or of a tile leaves,
and what it makes of the field it writes. -/

namespace Sys2Proof.Laws

open Sys2Proof Sys2Proof.Machine

/-! ## Fields that an update of the chip leaves -/

@[simp] theorem setTile_power (c : Chip) (site : Nat) (t : Tile) : (setTile c site t).power = c.power := rfl
@[simp] theorem setTile_count (c : Chip) (site : Nat) (t : Tile) : (setTile c site t).count = c.count := rfl
@[simp] theorem setTile_regs (c : Chip) (site : Nat) (t : Tile) : (setTile c site t).regs = c.regs := rfl
@[simp] theorem setTile_shadow (c : Chip) (site : Nat) (t : Tile) : (setTile c site t).shadow = c.shadow := rfl
@[simp] theorem setTile_blobs (c : Chip) (site : Nat) (t : Tile) : (setTile c site t).blobs = c.blobs := rfl
@[simp] theorem setTile_commitCopy (c : Chip) (site : Nat) (t : Tile) : (setTile c site t).commitCopy = c.commitCopy := rfl
@[simp] theorem setTile_eng (c : Chip) (site : Nat) (t : Tile) : (setTile c site t).eng = c.eng := rfl
@[simp] theorem setTile_err (c : Chip) (site : Nat) (t : Tile) : (setTile c site t).err = c.err := rfl
@[simp] theorem setTile_plan (c : Chip) (site : Nat) (t : Tile) : (setTile c site t).plan = c.plan := rfl
@[simp] theorem setTile_seqs (c : Chip) (site : Nat) (t : Tile) : (setTile c site t).seqs = c.seqs := rfl
@[simp] theorem setTile_acts (c : Chip) (site : Nat) (t : Tile) : (setTile c site t).acts = c.acts := rfl
@[simp] theorem setTile_flying (c : Chip) (site : Nat) (t : Tile) : (setTile c site t).flying = c.flying := rfl
@[simp] theorem setTile_mem (c : Chip) (site : Nat) (t : Tile) : (setTile c site t).mem = c.mem := rfl
@[simp] theorem setTile_poison (c : Chip) (site : Nat) (t : Tile) : (setTile c site t).poison = c.poison := rfl
@[simp] theorem setTile_ecc (c : Chip) (site : Nat) (t : Tile) : (setTile c site t).ecc = c.ecc := rfl
@[simp] theorem setTile_flaws (c : Chip) (site : Nat) (t : Tile) : (setTile c site t).flaws = c.flaws := rfl
@[simp] theorem setTile_wbDue (c : Chip) (site : Nat) (t : Tile) : (setTile c site t).wbDue = c.wbDue := rfl
@[simp] theorem setTile_late (c : Chip) (site : Nat) (t : Tile) : (setTile c site t).late = c.late := rfl
@[simp] theorem setTile_pools (c : Chip) (site : Nat) (t : Tile) : (setTile c site t).pools = c.pools := rfl
@[simp] theorem setTile_acc (c : Chip) (site : Nat) (t : Tile) : (setTile c site t).acc = c.acc := rfl
@[simp] theorem setTile_srv (c : Chip) (site : Nat) (t : Tile) : (setTile c site t).srv = c.srv := rfl
@[simp] theorem setTile_wts (c : Chip) (site : Nat) (t : Tile) : (setTile c site t).wts = c.wts := rfl
@[simp] theorem setTile_time (c : Chip) (site : Nat) (t : Tile) : (setTile c site t).time = c.time := rfl
@[simp] theorem setTile_ports (c : Chip) (site : Nat) (t : Tile) : (setTile c site t).ports = c.ports := rfl
@[simp] theorem setTile_fab (c : Chip) (site : Nat) (t : Tile) : (setTile c site t).fab = c.fab := rfl
@[simp] theorem setTile_det (c : Chip) (site : Nat) (t : Tile) : (setTile c site t).det = c.det := rfl
@[simp] theorem setTile_stew (c : Chip) (site : Nat) (t : Tile) : (setTile c site t).stew = c.stew := rfl
@[simp] theorem setTile_host (c : Chip) (site : Nat) (t : Tile) : (setTile c site t).host = c.host := rfl
@[simp] theorem setTile_sec (c : Chip) (site : Nat) (t : Tile) : (setTile c site t).sec = c.sec := rfl
@[simp] theorem setTile_out (c : Chip) (site : Nat) (t : Tile) : (setTile c site t).out = c.out := rfl
@[simp] theorem setTile_free (c : Chip) (site : Nat) (t : Tile) : (setTile c site t).free = c.free := rfl
@[simp] theorem setTile_reg (c : Chip) (site : Nat) (t : Tile) (k : Nat) : reg (setTile c site t) k = reg c k := rfl
@[simp] theorem setTile_portAt (c : Chip) (site : Nat) (t : Tile) (y : Nat) : portAt (setTile c site t) y = portAt c y := rfl
@[simp] theorem setTile_stewAt (c : Chip) (site : Nat) (t : Tile) (y : Nat) : stewAt (setTile c site t) y = stewAt c y := rfl

@[simp] theorem modTile_power (c : Chip) (site : Nat) (f : Tile → Tile) : (modTile c site f).power = c.power := rfl
@[simp] theorem modTile_count (c : Chip) (site : Nat) (f : Tile → Tile) : (modTile c site f).count = c.count := rfl
@[simp] theorem modTile_regs (c : Chip) (site : Nat) (f : Tile → Tile) : (modTile c site f).regs = c.regs := rfl
@[simp] theorem modTile_shadow (c : Chip) (site : Nat) (f : Tile → Tile) : (modTile c site f).shadow = c.shadow := rfl
@[simp] theorem modTile_blobs (c : Chip) (site : Nat) (f : Tile → Tile) : (modTile c site f).blobs = c.blobs := rfl
@[simp] theorem modTile_commitCopy (c : Chip) (site : Nat) (f : Tile → Tile) : (modTile c site f).commitCopy = c.commitCopy := rfl
@[simp] theorem modTile_eng (c : Chip) (site : Nat) (f : Tile → Tile) : (modTile c site f).eng = c.eng := rfl
@[simp] theorem modTile_err (c : Chip) (site : Nat) (f : Tile → Tile) : (modTile c site f).err = c.err := rfl
@[simp] theorem modTile_plan (c : Chip) (site : Nat) (f : Tile → Tile) : (modTile c site f).plan = c.plan := rfl
@[simp] theorem modTile_seqs (c : Chip) (site : Nat) (f : Tile → Tile) : (modTile c site f).seqs = c.seqs := rfl
@[simp] theorem modTile_acts (c : Chip) (site : Nat) (f : Tile → Tile) : (modTile c site f).acts = c.acts := rfl
@[simp] theorem modTile_flying (c : Chip) (site : Nat) (f : Tile → Tile) : (modTile c site f).flying = c.flying := rfl
@[simp] theorem modTile_mem (c : Chip) (site : Nat) (f : Tile → Tile) : (modTile c site f).mem = c.mem := rfl
@[simp] theorem modTile_poison (c : Chip) (site : Nat) (f : Tile → Tile) : (modTile c site f).poison = c.poison := rfl
@[simp] theorem modTile_ecc (c : Chip) (site : Nat) (f : Tile → Tile) : (modTile c site f).ecc = c.ecc := rfl
@[simp] theorem modTile_flaws (c : Chip) (site : Nat) (f : Tile → Tile) : (modTile c site f).flaws = c.flaws := rfl
@[simp] theorem modTile_wbDue (c : Chip) (site : Nat) (f : Tile → Tile) : (modTile c site f).wbDue = c.wbDue := rfl
@[simp] theorem modTile_late (c : Chip) (site : Nat) (f : Tile → Tile) : (modTile c site f).late = c.late := rfl
@[simp] theorem modTile_pools (c : Chip) (site : Nat) (f : Tile → Tile) : (modTile c site f).pools = c.pools := rfl
@[simp] theorem modTile_acc (c : Chip) (site : Nat) (f : Tile → Tile) : (modTile c site f).acc = c.acc := rfl
@[simp] theorem modTile_srv (c : Chip) (site : Nat) (f : Tile → Tile) : (modTile c site f).srv = c.srv := rfl
@[simp] theorem modTile_wts (c : Chip) (site : Nat) (f : Tile → Tile) : (modTile c site f).wts = c.wts := rfl
@[simp] theorem modTile_time (c : Chip) (site : Nat) (f : Tile → Tile) : (modTile c site f).time = c.time := rfl
@[simp] theorem modTile_ports (c : Chip) (site : Nat) (f : Tile → Tile) : (modTile c site f).ports = c.ports := rfl
@[simp] theorem modTile_fab (c : Chip) (site : Nat) (f : Tile → Tile) : (modTile c site f).fab = c.fab := rfl
@[simp] theorem modTile_det (c : Chip) (site : Nat) (f : Tile → Tile) : (modTile c site f).det = c.det := rfl
@[simp] theorem modTile_stew (c : Chip) (site : Nat) (f : Tile → Tile) : (modTile c site f).stew = c.stew := rfl
@[simp] theorem modTile_host (c : Chip) (site : Nat) (f : Tile → Tile) : (modTile c site f).host = c.host := rfl
@[simp] theorem modTile_sec (c : Chip) (site : Nat) (f : Tile → Tile) : (modTile c site f).sec = c.sec := rfl
@[simp] theorem modTile_out (c : Chip) (site : Nat) (f : Tile → Tile) : (modTile c site f).out = c.out := rfl
@[simp] theorem modTile_free (c : Chip) (site : Nat) (f : Tile → Tile) : (modTile c site f).free = c.free := rfl
@[simp] theorem modTile_reg (c : Chip) (site : Nat) (f : Tile → Tile) (k : Nat) : reg (modTile c site f) k = reg c k := rfl
@[simp] theorem modTile_portAt (c : Chip) (site : Nat) (f : Tile → Tile) (y : Nat) : portAt (modTile c site f) y = portAt c y := rfl
@[simp] theorem modTile_stewAt (c : Chip) (site : Nat) (f : Tile → Tile) (y : Nat) : stewAt (modTile c site f) y = stewAt c y := rfl

@[simp] theorem setSeq_power (c : Chip) (d : Nat) (q : Seq) : (setSeq c d q).power = c.power := rfl
@[simp] theorem setSeq_count (c : Chip) (d : Nat) (q : Seq) : (setSeq c d q).count = c.count := rfl
@[simp] theorem setSeq_regs (c : Chip) (d : Nat) (q : Seq) : (setSeq c d q).regs = c.regs := rfl
@[simp] theorem setSeq_shadow (c : Chip) (d : Nat) (q : Seq) : (setSeq c d q).shadow = c.shadow := rfl
@[simp] theorem setSeq_blobs (c : Chip) (d : Nat) (q : Seq) : (setSeq c d q).blobs = c.blobs := rfl
@[simp] theorem setSeq_commitCopy (c : Chip) (d : Nat) (q : Seq) : (setSeq c d q).commitCopy = c.commitCopy := rfl
@[simp] theorem setSeq_eng (c : Chip) (d : Nat) (q : Seq) : (setSeq c d q).eng = c.eng := rfl
@[simp] theorem setSeq_err (c : Chip) (d : Nat) (q : Seq) : (setSeq c d q).err = c.err := rfl
@[simp] theorem setSeq_plan (c : Chip) (d : Nat) (q : Seq) : (setSeq c d q).plan = c.plan := rfl
@[simp] theorem setSeq_acts (c : Chip) (d : Nat) (q : Seq) : (setSeq c d q).acts = c.acts := rfl
@[simp] theorem setSeq_flying (c : Chip) (d : Nat) (q : Seq) : (setSeq c d q).flying = c.flying := rfl
@[simp] theorem setSeq_tiles (c : Chip) (d : Nat) (q : Seq) : (setSeq c d q).tiles = c.tiles := rfl
@[simp] theorem setSeq_mem (c : Chip) (d : Nat) (q : Seq) : (setSeq c d q).mem = c.mem := rfl
@[simp] theorem setSeq_poison (c : Chip) (d : Nat) (q : Seq) : (setSeq c d q).poison = c.poison := rfl
@[simp] theorem setSeq_ecc (c : Chip) (d : Nat) (q : Seq) : (setSeq c d q).ecc = c.ecc := rfl
@[simp] theorem setSeq_flaws (c : Chip) (d : Nat) (q : Seq) : (setSeq c d q).flaws = c.flaws := rfl
@[simp] theorem setSeq_wbDue (c : Chip) (d : Nat) (q : Seq) : (setSeq c d q).wbDue = c.wbDue := rfl
@[simp] theorem setSeq_late (c : Chip) (d : Nat) (q : Seq) : (setSeq c d q).late = c.late := rfl
@[simp] theorem setSeq_pools (c : Chip) (d : Nat) (q : Seq) : (setSeq c d q).pools = c.pools := rfl
@[simp] theorem setSeq_acc (c : Chip) (d : Nat) (q : Seq) : (setSeq c d q).acc = c.acc := rfl
@[simp] theorem setSeq_srv (c : Chip) (d : Nat) (q : Seq) : (setSeq c d q).srv = c.srv := rfl
@[simp] theorem setSeq_wts (c : Chip) (d : Nat) (q : Seq) : (setSeq c d q).wts = c.wts := rfl
@[simp] theorem setSeq_time (c : Chip) (d : Nat) (q : Seq) : (setSeq c d q).time = c.time := rfl
@[simp] theorem setSeq_ports (c : Chip) (d : Nat) (q : Seq) : (setSeq c d q).ports = c.ports := rfl
@[simp] theorem setSeq_fab (c : Chip) (d : Nat) (q : Seq) : (setSeq c d q).fab = c.fab := rfl
@[simp] theorem setSeq_det (c : Chip) (d : Nat) (q : Seq) : (setSeq c d q).det = c.det := rfl
@[simp] theorem setSeq_stew (c : Chip) (d : Nat) (q : Seq) : (setSeq c d q).stew = c.stew := rfl
@[simp] theorem setSeq_host (c : Chip) (d : Nat) (q : Seq) : (setSeq c d q).host = c.host := rfl
@[simp] theorem setSeq_sec (c : Chip) (d : Nat) (q : Seq) : (setSeq c d q).sec = c.sec := rfl
@[simp] theorem setSeq_out (c : Chip) (d : Nat) (q : Seq) : (setSeq c d q).out = c.out := rfl
@[simp] theorem setSeq_free (c : Chip) (d : Nat) (q : Seq) : (setSeq c d q).free = c.free := rfl
@[simp] theorem setSeq_reg (c : Chip) (d : Nat) (q : Seq) (k : Nat) : reg (setSeq c d q) k = reg c k := rfl
@[simp] theorem setSeq_tileAt (c : Chip) (d : Nat) (q : Seq) (y : Nat) : tileAt (setSeq c d q) y = tileAt c y := rfl
@[simp] theorem setSeq_portAt (c : Chip) (d : Nat) (q : Seq) (y : Nat) : portAt (setSeq c d q) y = portAt c y := rfl
@[simp] theorem setSeq_stewAt (c : Chip) (d : Nat) (q : Seq) (y : Nat) : stewAt (setSeq c d q) y = stewAt c y := rfl

@[simp] theorem setReg_power (c : Chip) (k v : Nat) : (setReg c k v).power = c.power := rfl
@[simp] theorem setReg_count (c : Chip) (k v : Nat) : (setReg c k v).count = c.count := rfl
@[simp] theorem setReg_shadow (c : Chip) (k v : Nat) : (setReg c k v).shadow = c.shadow := rfl
@[simp] theorem setReg_blobs (c : Chip) (k v : Nat) : (setReg c k v).blobs = c.blobs := rfl
@[simp] theorem setReg_commitCopy (c : Chip) (k v : Nat) : (setReg c k v).commitCopy = c.commitCopy := rfl
@[simp] theorem setReg_eng (c : Chip) (k v : Nat) : (setReg c k v).eng = c.eng := rfl
@[simp] theorem setReg_err (c : Chip) (k v : Nat) : (setReg c k v).err = c.err := rfl
@[simp] theorem setReg_plan (c : Chip) (k v : Nat) : (setReg c k v).plan = c.plan := rfl
@[simp] theorem setReg_seqs (c : Chip) (k v : Nat) : (setReg c k v).seqs = c.seqs := rfl
@[simp] theorem setReg_acts (c : Chip) (k v : Nat) : (setReg c k v).acts = c.acts := rfl
@[simp] theorem setReg_flying (c : Chip) (k v : Nat) : (setReg c k v).flying = c.flying := rfl
@[simp] theorem setReg_tiles (c : Chip) (k v : Nat) : (setReg c k v).tiles = c.tiles := rfl
@[simp] theorem setReg_mem (c : Chip) (k v : Nat) : (setReg c k v).mem = c.mem := rfl
@[simp] theorem setReg_poison (c : Chip) (k v : Nat) : (setReg c k v).poison = c.poison := rfl
@[simp] theorem setReg_ecc (c : Chip) (k v : Nat) : (setReg c k v).ecc = c.ecc := rfl
@[simp] theorem setReg_flaws (c : Chip) (k v : Nat) : (setReg c k v).flaws = c.flaws := rfl
@[simp] theorem setReg_wbDue (c : Chip) (k v : Nat) : (setReg c k v).wbDue = c.wbDue := rfl
@[simp] theorem setReg_late (c : Chip) (k v : Nat) : (setReg c k v).late = c.late := rfl
@[simp] theorem setReg_pools (c : Chip) (k v : Nat) : (setReg c k v).pools = c.pools := rfl
@[simp] theorem setReg_acc (c : Chip) (k v : Nat) : (setReg c k v).acc = c.acc := rfl
@[simp] theorem setReg_srv (c : Chip) (k v : Nat) : (setReg c k v).srv = c.srv := rfl
@[simp] theorem setReg_wts (c : Chip) (k v : Nat) : (setReg c k v).wts = c.wts := rfl
@[simp] theorem setReg_time (c : Chip) (k v : Nat) : (setReg c k v).time = c.time := rfl
@[simp] theorem setReg_ports (c : Chip) (k v : Nat) : (setReg c k v).ports = c.ports := rfl
@[simp] theorem setReg_fab (c : Chip) (k v : Nat) : (setReg c k v).fab = c.fab := rfl
@[simp] theorem setReg_det (c : Chip) (k v : Nat) : (setReg c k v).det = c.det := rfl
@[simp] theorem setReg_stew (c : Chip) (k v : Nat) : (setReg c k v).stew = c.stew := rfl
@[simp] theorem setReg_host (c : Chip) (k v : Nat) : (setReg c k v).host = c.host := rfl
@[simp] theorem setReg_sec (c : Chip) (k v : Nat) : (setReg c k v).sec = c.sec := rfl
@[simp] theorem setReg_out (c : Chip) (k v : Nat) : (setReg c k v).out = c.out := rfl
@[simp] theorem setReg_free (c : Chip) (k v : Nat) : (setReg c k v).free = c.free := rfl
@[simp] theorem setReg_tileAt (c : Chip) (k v : Nat) (y : Nat) : tileAt (setReg c k v) y = tileAt c y := rfl
@[simp] theorem setReg_portAt (c : Chip) (k v : Nat) (y : Nat) : portAt (setReg c k v) y = portAt c y := rfl
@[simp] theorem setReg_stewAt (c : Chip) (k v : Nat) (y : Nat) : stewAt (setReg c k v) y = stewAt c y := rfl

@[simp] theorem addReg_power (c : Chip) (k n : Nat) : (addReg c k n).power = c.power := rfl
@[simp] theorem addReg_count (c : Chip) (k n : Nat) : (addReg c k n).count = c.count := rfl
@[simp] theorem addReg_shadow (c : Chip) (k n : Nat) : (addReg c k n).shadow = c.shadow := rfl
@[simp] theorem addReg_blobs (c : Chip) (k n : Nat) : (addReg c k n).blobs = c.blobs := rfl
@[simp] theorem addReg_commitCopy (c : Chip) (k n : Nat) : (addReg c k n).commitCopy = c.commitCopy := rfl
@[simp] theorem addReg_eng (c : Chip) (k n : Nat) : (addReg c k n).eng = c.eng := rfl
@[simp] theorem addReg_err (c : Chip) (k n : Nat) : (addReg c k n).err = c.err := rfl
@[simp] theorem addReg_plan (c : Chip) (k n : Nat) : (addReg c k n).plan = c.plan := rfl
@[simp] theorem addReg_seqs (c : Chip) (k n : Nat) : (addReg c k n).seqs = c.seqs := rfl
@[simp] theorem addReg_acts (c : Chip) (k n : Nat) : (addReg c k n).acts = c.acts := rfl
@[simp] theorem addReg_flying (c : Chip) (k n : Nat) : (addReg c k n).flying = c.flying := rfl
@[simp] theorem addReg_tiles (c : Chip) (k n : Nat) : (addReg c k n).tiles = c.tiles := rfl
@[simp] theorem addReg_mem (c : Chip) (k n : Nat) : (addReg c k n).mem = c.mem := rfl
@[simp] theorem addReg_poison (c : Chip) (k n : Nat) : (addReg c k n).poison = c.poison := rfl
@[simp] theorem addReg_ecc (c : Chip) (k n : Nat) : (addReg c k n).ecc = c.ecc := rfl
@[simp] theorem addReg_flaws (c : Chip) (k n : Nat) : (addReg c k n).flaws = c.flaws := rfl
@[simp] theorem addReg_wbDue (c : Chip) (k n : Nat) : (addReg c k n).wbDue = c.wbDue := rfl
@[simp] theorem addReg_late (c : Chip) (k n : Nat) : (addReg c k n).late = c.late := rfl
@[simp] theorem addReg_pools (c : Chip) (k n : Nat) : (addReg c k n).pools = c.pools := rfl
@[simp] theorem addReg_acc (c : Chip) (k n : Nat) : (addReg c k n).acc = c.acc := rfl
@[simp] theorem addReg_srv (c : Chip) (k n : Nat) : (addReg c k n).srv = c.srv := rfl
@[simp] theorem addReg_wts (c : Chip) (k n : Nat) : (addReg c k n).wts = c.wts := rfl
@[simp] theorem addReg_time (c : Chip) (k n : Nat) : (addReg c k n).time = c.time := rfl
@[simp] theorem addReg_ports (c : Chip) (k n : Nat) : (addReg c k n).ports = c.ports := rfl
@[simp] theorem addReg_fab (c : Chip) (k n : Nat) : (addReg c k n).fab = c.fab := rfl
@[simp] theorem addReg_det (c : Chip) (k n : Nat) : (addReg c k n).det = c.det := rfl
@[simp] theorem addReg_stew (c : Chip) (k n : Nat) : (addReg c k n).stew = c.stew := rfl
@[simp] theorem addReg_host (c : Chip) (k n : Nat) : (addReg c k n).host = c.host := rfl
@[simp] theorem addReg_sec (c : Chip) (k n : Nat) : (addReg c k n).sec = c.sec := rfl
@[simp] theorem addReg_out (c : Chip) (k n : Nat) : (addReg c k n).out = c.out := rfl
@[simp] theorem addReg_free (c : Chip) (k n : Nat) : (addReg c k n).free = c.free := rfl
@[simp] theorem addReg_tileAt (c : Chip) (k n : Nat) (y : Nat) : tileAt (addReg c k n) y = tileAt c y := rfl
@[simp] theorem addReg_portAt (c : Chip) (k n : Nat) (y : Nat) : portAt (addReg c k n) y = portAt c y := rfl
@[simp] theorem addReg_stewAt (c : Chip) (k n : Nat) (y : Nat) : stewAt (addReg c k n) y = stewAt c y := rfl

@[simp] theorem addReg32_power (c : Chip) (k n : Nat) : (addReg32 c k n).power = c.power := rfl
@[simp] theorem addReg32_count (c : Chip) (k n : Nat) : (addReg32 c k n).count = c.count := rfl
@[simp] theorem addReg32_shadow (c : Chip) (k n : Nat) : (addReg32 c k n).shadow = c.shadow := rfl
@[simp] theorem addReg32_blobs (c : Chip) (k n : Nat) : (addReg32 c k n).blobs = c.blobs := rfl
@[simp] theorem addReg32_commitCopy (c : Chip) (k n : Nat) : (addReg32 c k n).commitCopy = c.commitCopy := rfl
@[simp] theorem addReg32_eng (c : Chip) (k n : Nat) : (addReg32 c k n).eng = c.eng := rfl
@[simp] theorem addReg32_err (c : Chip) (k n : Nat) : (addReg32 c k n).err = c.err := rfl
@[simp] theorem addReg32_plan (c : Chip) (k n : Nat) : (addReg32 c k n).plan = c.plan := rfl
@[simp] theorem addReg32_seqs (c : Chip) (k n : Nat) : (addReg32 c k n).seqs = c.seqs := rfl
@[simp] theorem addReg32_acts (c : Chip) (k n : Nat) : (addReg32 c k n).acts = c.acts := rfl
@[simp] theorem addReg32_flying (c : Chip) (k n : Nat) : (addReg32 c k n).flying = c.flying := rfl
@[simp] theorem addReg32_tiles (c : Chip) (k n : Nat) : (addReg32 c k n).tiles = c.tiles := rfl
@[simp] theorem addReg32_mem (c : Chip) (k n : Nat) : (addReg32 c k n).mem = c.mem := rfl
@[simp] theorem addReg32_poison (c : Chip) (k n : Nat) : (addReg32 c k n).poison = c.poison := rfl
@[simp] theorem addReg32_ecc (c : Chip) (k n : Nat) : (addReg32 c k n).ecc = c.ecc := rfl
@[simp] theorem addReg32_flaws (c : Chip) (k n : Nat) : (addReg32 c k n).flaws = c.flaws := rfl
@[simp] theorem addReg32_wbDue (c : Chip) (k n : Nat) : (addReg32 c k n).wbDue = c.wbDue := rfl
@[simp] theorem addReg32_late (c : Chip) (k n : Nat) : (addReg32 c k n).late = c.late := rfl
@[simp] theorem addReg32_pools (c : Chip) (k n : Nat) : (addReg32 c k n).pools = c.pools := rfl
@[simp] theorem addReg32_acc (c : Chip) (k n : Nat) : (addReg32 c k n).acc = c.acc := rfl
@[simp] theorem addReg32_srv (c : Chip) (k n : Nat) : (addReg32 c k n).srv = c.srv := rfl
@[simp] theorem addReg32_wts (c : Chip) (k n : Nat) : (addReg32 c k n).wts = c.wts := rfl
@[simp] theorem addReg32_time (c : Chip) (k n : Nat) : (addReg32 c k n).time = c.time := rfl
@[simp] theorem addReg32_ports (c : Chip) (k n : Nat) : (addReg32 c k n).ports = c.ports := rfl
@[simp] theorem addReg32_fab (c : Chip) (k n : Nat) : (addReg32 c k n).fab = c.fab := rfl
@[simp] theorem addReg32_det (c : Chip) (k n : Nat) : (addReg32 c k n).det = c.det := rfl
@[simp] theorem addReg32_stew (c : Chip) (k n : Nat) : (addReg32 c k n).stew = c.stew := rfl
@[simp] theorem addReg32_host (c : Chip) (k n : Nat) : (addReg32 c k n).host = c.host := rfl
@[simp] theorem addReg32_sec (c : Chip) (k n : Nat) : (addReg32 c k n).sec = c.sec := rfl
@[simp] theorem addReg32_out (c : Chip) (k n : Nat) : (addReg32 c k n).out = c.out := rfl
@[simp] theorem addReg32_free (c : Chip) (k n : Nat) : (addReg32 c k n).free = c.free := rfl
@[simp] theorem addReg32_tileAt (c : Chip) (k n : Nat) (y : Nat) : tileAt (addReg32 c k n) y = tileAt c y := rfl
@[simp] theorem addReg32_portAt (c : Chip) (k n : Nat) (y : Nat) : portAt (addReg32 c k n) y = portAt c y := rfl
@[simp] theorem addReg32_stewAt (c : Chip) (k n : Nat) (y : Nat) : stewAt (addReg32 c k n) y = stewAt c y := rfl

@[simp] theorem emit_power (c : Chip) (o : Out) : (emit c o).power = c.power := rfl
@[simp] theorem emit_count (c : Chip) (o : Out) : (emit c o).count = c.count := rfl
@[simp] theorem emit_regs (c : Chip) (o : Out) : (emit c o).regs = c.regs := rfl
@[simp] theorem emit_shadow (c : Chip) (o : Out) : (emit c o).shadow = c.shadow := rfl
@[simp] theorem emit_blobs (c : Chip) (o : Out) : (emit c o).blobs = c.blobs := rfl
@[simp] theorem emit_commitCopy (c : Chip) (o : Out) : (emit c o).commitCopy = c.commitCopy := rfl
@[simp] theorem emit_eng (c : Chip) (o : Out) : (emit c o).eng = c.eng := rfl
@[simp] theorem emit_err (c : Chip) (o : Out) : (emit c o).err = c.err := rfl
@[simp] theorem emit_plan (c : Chip) (o : Out) : (emit c o).plan = c.plan := rfl
@[simp] theorem emit_seqs (c : Chip) (o : Out) : (emit c o).seqs = c.seqs := rfl
@[simp] theorem emit_acts (c : Chip) (o : Out) : (emit c o).acts = c.acts := rfl
@[simp] theorem emit_flying (c : Chip) (o : Out) : (emit c o).flying = c.flying := rfl
@[simp] theorem emit_tiles (c : Chip) (o : Out) : (emit c o).tiles = c.tiles := rfl
@[simp] theorem emit_mem (c : Chip) (o : Out) : (emit c o).mem = c.mem := rfl
@[simp] theorem emit_poison (c : Chip) (o : Out) : (emit c o).poison = c.poison := rfl
@[simp] theorem emit_ecc (c : Chip) (o : Out) : (emit c o).ecc = c.ecc := rfl
@[simp] theorem emit_flaws (c : Chip) (o : Out) : (emit c o).flaws = c.flaws := rfl
@[simp] theorem emit_wbDue (c : Chip) (o : Out) : (emit c o).wbDue = c.wbDue := rfl
@[simp] theorem emit_late (c : Chip) (o : Out) : (emit c o).late = c.late := rfl
@[simp] theorem emit_pools (c : Chip) (o : Out) : (emit c o).pools = c.pools := rfl
@[simp] theorem emit_acc (c : Chip) (o : Out) : (emit c o).acc = c.acc := rfl
@[simp] theorem emit_srv (c : Chip) (o : Out) : (emit c o).srv = c.srv := rfl
@[simp] theorem emit_wts (c : Chip) (o : Out) : (emit c o).wts = c.wts := rfl
@[simp] theorem emit_time (c : Chip) (o : Out) : (emit c o).time = c.time := rfl
@[simp] theorem emit_ports (c : Chip) (o : Out) : (emit c o).ports = c.ports := rfl
@[simp] theorem emit_fab (c : Chip) (o : Out) : (emit c o).fab = c.fab := rfl
@[simp] theorem emit_det (c : Chip) (o : Out) : (emit c o).det = c.det := rfl
@[simp] theorem emit_stew (c : Chip) (o : Out) : (emit c o).stew = c.stew := rfl
@[simp] theorem emit_host (c : Chip) (o : Out) : (emit c o).host = c.host := rfl
@[simp] theorem emit_sec (c : Chip) (o : Out) : (emit c o).sec = c.sec := rfl
@[simp] theorem emit_free (c : Chip) (o : Out) : (emit c o).free = c.free := rfl
@[simp] theorem emit_reg (c : Chip) (o : Out) (k : Nat) : reg (emit c o) k = reg c k := rfl
@[simp] theorem emit_tileAt (c : Chip) (o : Out) (y : Nat) : tileAt (emit c o) y = tileAt c y := rfl
@[simp] theorem emit_portAt (c : Chip) (o : Out) (y : Nat) : portAt (emit c o) y = portAt c y := rfl
@[simp] theorem emit_stewAt (c : Chip) (o : Out) (y : Nat) : stewAt (emit c o) y = stewAt c y := rfl

@[simp] theorem bump_power (c : Chip) (k n : Nat) : (bump c k n).power = c.power := rfl
@[simp] theorem bump_count (c : Chip) (k n : Nat) : (bump c k n).count = c.count := rfl
@[simp] theorem bump_regs (c : Chip) (k n : Nat) : (bump c k n).regs = c.regs := rfl
@[simp] theorem bump_shadow (c : Chip) (k n : Nat) : (bump c k n).shadow = c.shadow := rfl
@[simp] theorem bump_blobs (c : Chip) (k n : Nat) : (bump c k n).blobs = c.blobs := rfl
@[simp] theorem bump_commitCopy (c : Chip) (k n : Nat) : (bump c k n).commitCopy = c.commitCopy := rfl
@[simp] theorem bump_eng (c : Chip) (k n : Nat) : (bump c k n).eng = c.eng := rfl
@[simp] theorem bump_err (c : Chip) (k n : Nat) : (bump c k n).err = c.err := rfl
@[simp] theorem bump_plan (c : Chip) (k n : Nat) : (bump c k n).plan = c.plan := rfl
@[simp] theorem bump_seqs (c : Chip) (k n : Nat) : (bump c k n).seqs = c.seqs := rfl
@[simp] theorem bump_acts (c : Chip) (k n : Nat) : (bump c k n).acts = c.acts := rfl
@[simp] theorem bump_flying (c : Chip) (k n : Nat) : (bump c k n).flying = c.flying := rfl
@[simp] theorem bump_tiles (c : Chip) (k n : Nat) : (bump c k n).tiles = c.tiles := rfl
@[simp] theorem bump_mem (c : Chip) (k n : Nat) : (bump c k n).mem = c.mem := rfl
@[simp] theorem bump_poison (c : Chip) (k n : Nat) : (bump c k n).poison = c.poison := rfl
@[simp] theorem bump_ecc (c : Chip) (k n : Nat) : (bump c k n).ecc = c.ecc := rfl
@[simp] theorem bump_flaws (c : Chip) (k n : Nat) : (bump c k n).flaws = c.flaws := rfl
@[simp] theorem bump_wbDue (c : Chip) (k n : Nat) : (bump c k n).wbDue = c.wbDue := rfl
@[simp] theorem bump_late (c : Chip) (k n : Nat) : (bump c k n).late = c.late := rfl
@[simp] theorem bump_pools (c : Chip) (k n : Nat) : (bump c k n).pools = c.pools := rfl
@[simp] theorem bump_srv (c : Chip) (k n : Nat) : (bump c k n).srv = c.srv := rfl
@[simp] theorem bump_wts (c : Chip) (k n : Nat) : (bump c k n).wts = c.wts := rfl
@[simp] theorem bump_time (c : Chip) (k n : Nat) : (bump c k n).time = c.time := rfl
@[simp] theorem bump_ports (c : Chip) (k n : Nat) : (bump c k n).ports = c.ports := rfl
@[simp] theorem bump_fab (c : Chip) (k n : Nat) : (bump c k n).fab = c.fab := rfl
@[simp] theorem bump_det (c : Chip) (k n : Nat) : (bump c k n).det = c.det := rfl
@[simp] theorem bump_stew (c : Chip) (k n : Nat) : (bump c k n).stew = c.stew := rfl
@[simp] theorem bump_host (c : Chip) (k n : Nat) : (bump c k n).host = c.host := rfl
@[simp] theorem bump_sec (c : Chip) (k n : Nat) : (bump c k n).sec = c.sec := rfl
@[simp] theorem bump_out (c : Chip) (k n : Nat) : (bump c k n).out = c.out := rfl
@[simp] theorem bump_free (c : Chip) (k n : Nat) : (bump c k n).free = c.free := rfl
@[simp] theorem bump_reg (c : Chip) (k n : Nat) (j : Nat) : reg (bump c k n) j = reg c j := rfl
@[simp] theorem bump_tileAt (c : Chip) (k n : Nat) (y : Nat) : tileAt (bump c k n) y = tileAt c y := rfl
@[simp] theorem bump_portAt (c : Chip) (k n : Nat) (y : Nat) : portAt (bump c k n) y = portAt c y := rfl
@[simp] theorem bump_stewAt (c : Chip) (k n : Nat) (y : Nat) : stewAt (bump c k n) y = stewAt c y := rfl

@[simp] theorem vecEv_power (c : Chip) (b : Nat) : (vecEv c b).power = c.power := rfl
@[simp] theorem vecEv_count (c : Chip) (b : Nat) : (vecEv c b).count = c.count := rfl
@[simp] theorem vecEv_regs (c : Chip) (b : Nat) : (vecEv c b).regs = c.regs := rfl
@[simp] theorem vecEv_shadow (c : Chip) (b : Nat) : (vecEv c b).shadow = c.shadow := rfl
@[simp] theorem vecEv_blobs (c : Chip) (b : Nat) : (vecEv c b).blobs = c.blobs := rfl
@[simp] theorem vecEv_commitCopy (c : Chip) (b : Nat) : (vecEv c b).commitCopy = c.commitCopy := rfl
@[simp] theorem vecEv_eng (c : Chip) (b : Nat) : (vecEv c b).eng = c.eng := rfl
@[simp] theorem vecEv_err (c : Chip) (b : Nat) : (vecEv c b).err = c.err := rfl
@[simp] theorem vecEv_plan (c : Chip) (b : Nat) : (vecEv c b).plan = c.plan := rfl
@[simp] theorem vecEv_seqs (c : Chip) (b : Nat) : (vecEv c b).seqs = c.seqs := rfl
@[simp] theorem vecEv_acts (c : Chip) (b : Nat) : (vecEv c b).acts = c.acts := rfl
@[simp] theorem vecEv_flying (c : Chip) (b : Nat) : (vecEv c b).flying = c.flying := rfl
@[simp] theorem vecEv_tiles (c : Chip) (b : Nat) : (vecEv c b).tiles = c.tiles := rfl
@[simp] theorem vecEv_mem (c : Chip) (b : Nat) : (vecEv c b).mem = c.mem := rfl
@[simp] theorem vecEv_poison (c : Chip) (b : Nat) : (vecEv c b).poison = c.poison := rfl
@[simp] theorem vecEv_ecc (c : Chip) (b : Nat) : (vecEv c b).ecc = c.ecc := rfl
@[simp] theorem vecEv_flaws (c : Chip) (b : Nat) : (vecEv c b).flaws = c.flaws := rfl
@[simp] theorem vecEv_wbDue (c : Chip) (b : Nat) : (vecEv c b).wbDue = c.wbDue := rfl
@[simp] theorem vecEv_late (c : Chip) (b : Nat) : (vecEv c b).late = c.late := rfl
@[simp] theorem vecEv_pools (c : Chip) (b : Nat) : (vecEv c b).pools = c.pools := rfl
@[simp] theorem vecEv_srv (c : Chip) (b : Nat) : (vecEv c b).srv = c.srv := rfl
@[simp] theorem vecEv_wts (c : Chip) (b : Nat) : (vecEv c b).wts = c.wts := rfl
@[simp] theorem vecEv_time (c : Chip) (b : Nat) : (vecEv c b).time = c.time := rfl
@[simp] theorem vecEv_ports (c : Chip) (b : Nat) : (vecEv c b).ports = c.ports := rfl
@[simp] theorem vecEv_fab (c : Chip) (b : Nat) : (vecEv c b).fab = c.fab := rfl
@[simp] theorem vecEv_det (c : Chip) (b : Nat) : (vecEv c b).det = c.det := rfl
@[simp] theorem vecEv_stew (c : Chip) (b : Nat) : (vecEv c b).stew = c.stew := rfl
@[simp] theorem vecEv_host (c : Chip) (b : Nat) : (vecEv c b).host = c.host := rfl
@[simp] theorem vecEv_sec (c : Chip) (b : Nat) : (vecEv c b).sec = c.sec := rfl
@[simp] theorem vecEv_out (c : Chip) (b : Nat) : (vecEv c b).out = c.out := rfl
@[simp] theorem vecEv_free (c : Chip) (b : Nat) : (vecEv c b).free = c.free := rfl
@[simp] theorem vecEv_reg (c : Chip) (b : Nat) (k : Nat) : reg (vecEv c b) k = reg c k := rfl
@[simp] theorem vecEv_tileAt (c : Chip) (b : Nat) (y : Nat) : tileAt (vecEv c b) y = tileAt c y := rfl
@[simp] theorem vecEv_portAt (c : Chip) (b : Nat) (y : Nat) : portAt (vecEv c b) y = portAt c y := rfl
@[simp] theorem vecEv_stewAt (c : Chip) (b : Nat) (y : Nat) : stewAt (vecEv c b) y = stewAt c y := rfl

@[simp] theorem convEv_power (c : Chip) (b : Nat) : (convEv c b).power = c.power := rfl
@[simp] theorem convEv_count (c : Chip) (b : Nat) : (convEv c b).count = c.count := rfl
@[simp] theorem convEv_regs (c : Chip) (b : Nat) : (convEv c b).regs = c.regs := rfl
@[simp] theorem convEv_shadow (c : Chip) (b : Nat) : (convEv c b).shadow = c.shadow := rfl
@[simp] theorem convEv_blobs (c : Chip) (b : Nat) : (convEv c b).blobs = c.blobs := rfl
@[simp] theorem convEv_commitCopy (c : Chip) (b : Nat) : (convEv c b).commitCopy = c.commitCopy := rfl
@[simp] theorem convEv_eng (c : Chip) (b : Nat) : (convEv c b).eng = c.eng := rfl
@[simp] theorem convEv_err (c : Chip) (b : Nat) : (convEv c b).err = c.err := rfl
@[simp] theorem convEv_plan (c : Chip) (b : Nat) : (convEv c b).plan = c.plan := rfl
@[simp] theorem convEv_seqs (c : Chip) (b : Nat) : (convEv c b).seqs = c.seqs := rfl
@[simp] theorem convEv_acts (c : Chip) (b : Nat) : (convEv c b).acts = c.acts := rfl
@[simp] theorem convEv_flying (c : Chip) (b : Nat) : (convEv c b).flying = c.flying := rfl
@[simp] theorem convEv_tiles (c : Chip) (b : Nat) : (convEv c b).tiles = c.tiles := rfl
@[simp] theorem convEv_mem (c : Chip) (b : Nat) : (convEv c b).mem = c.mem := rfl
@[simp] theorem convEv_poison (c : Chip) (b : Nat) : (convEv c b).poison = c.poison := rfl
@[simp] theorem convEv_ecc (c : Chip) (b : Nat) : (convEv c b).ecc = c.ecc := rfl
@[simp] theorem convEv_flaws (c : Chip) (b : Nat) : (convEv c b).flaws = c.flaws := rfl
@[simp] theorem convEv_wbDue (c : Chip) (b : Nat) : (convEv c b).wbDue = c.wbDue := rfl
@[simp] theorem convEv_late (c : Chip) (b : Nat) : (convEv c b).late = c.late := rfl
@[simp] theorem convEv_pools (c : Chip) (b : Nat) : (convEv c b).pools = c.pools := rfl
@[simp] theorem convEv_srv (c : Chip) (b : Nat) : (convEv c b).srv = c.srv := rfl
@[simp] theorem convEv_wts (c : Chip) (b : Nat) : (convEv c b).wts = c.wts := rfl
@[simp] theorem convEv_time (c : Chip) (b : Nat) : (convEv c b).time = c.time := rfl
@[simp] theorem convEv_ports (c : Chip) (b : Nat) : (convEv c b).ports = c.ports := rfl
@[simp] theorem convEv_fab (c : Chip) (b : Nat) : (convEv c b).fab = c.fab := rfl
@[simp] theorem convEv_det (c : Chip) (b : Nat) : (convEv c b).det = c.det := rfl
@[simp] theorem convEv_stew (c : Chip) (b : Nat) : (convEv c b).stew = c.stew := rfl
@[simp] theorem convEv_host (c : Chip) (b : Nat) : (convEv c b).host = c.host := rfl
@[simp] theorem convEv_sec (c : Chip) (b : Nat) : (convEv c b).sec = c.sec := rfl
@[simp] theorem convEv_out (c : Chip) (b : Nat) : (convEv c b).out = c.out := rfl
@[simp] theorem convEv_free (c : Chip) (b : Nat) : (convEv c b).free = c.free := rfl
@[simp] theorem convEv_reg (c : Chip) (b : Nat) (k : Nat) : reg (convEv c b) k = reg c k := rfl
@[simp] theorem convEv_tileAt (c : Chip) (b : Nat) (y : Nat) : tileAt (convEv c b) y = tileAt c y := rfl
@[simp] theorem convEv_portAt (c : Chip) (b : Nat) (y : Nat) : portAt (convEv c b) y = portAt c y := rfl
@[simp] theorem convEv_stewAt (c : Chip) (b : Nat) (y : Nat) : stewAt (convEv c b) y = stewAt c y := rfl

@[simp] theorem setPort_power (c : Chip) (p : Nat) (q : Port) : (setPort c p q).power = c.power := rfl
@[simp] theorem setPort_count (c : Chip) (p : Nat) (q : Port) : (setPort c p q).count = c.count := rfl
@[simp] theorem setPort_regs (c : Chip) (p : Nat) (q : Port) : (setPort c p q).regs = c.regs := rfl
@[simp] theorem setPort_shadow (c : Chip) (p : Nat) (q : Port) : (setPort c p q).shadow = c.shadow := rfl
@[simp] theorem setPort_blobs (c : Chip) (p : Nat) (q : Port) : (setPort c p q).blobs = c.blobs := rfl
@[simp] theorem setPort_commitCopy (c : Chip) (p : Nat) (q : Port) : (setPort c p q).commitCopy = c.commitCopy := rfl
@[simp] theorem setPort_eng (c : Chip) (p : Nat) (q : Port) : (setPort c p q).eng = c.eng := rfl
@[simp] theorem setPort_err (c : Chip) (p : Nat) (q : Port) : (setPort c p q).err = c.err := rfl
@[simp] theorem setPort_plan (c : Chip) (p : Nat) (q : Port) : (setPort c p q).plan = c.plan := rfl
@[simp] theorem setPort_seqs (c : Chip) (p : Nat) (q : Port) : (setPort c p q).seqs = c.seqs := rfl
@[simp] theorem setPort_acts (c : Chip) (p : Nat) (q : Port) : (setPort c p q).acts = c.acts := rfl
@[simp] theorem setPort_flying (c : Chip) (p : Nat) (q : Port) : (setPort c p q).flying = c.flying := rfl
@[simp] theorem setPort_tiles (c : Chip) (p : Nat) (q : Port) : (setPort c p q).tiles = c.tiles := rfl
@[simp] theorem setPort_mem (c : Chip) (p : Nat) (q : Port) : (setPort c p q).mem = c.mem := rfl
@[simp] theorem setPort_poison (c : Chip) (p : Nat) (q : Port) : (setPort c p q).poison = c.poison := rfl
@[simp] theorem setPort_ecc (c : Chip) (p : Nat) (q : Port) : (setPort c p q).ecc = c.ecc := rfl
@[simp] theorem setPort_flaws (c : Chip) (p : Nat) (q : Port) : (setPort c p q).flaws = c.flaws := rfl
@[simp] theorem setPort_wbDue (c : Chip) (p : Nat) (q : Port) : (setPort c p q).wbDue = c.wbDue := rfl
@[simp] theorem setPort_late (c : Chip) (p : Nat) (q : Port) : (setPort c p q).late = c.late := rfl
@[simp] theorem setPort_pools (c : Chip) (p : Nat) (q : Port) : (setPort c p q).pools = c.pools := rfl
@[simp] theorem setPort_acc (c : Chip) (p : Nat) (q : Port) : (setPort c p q).acc = c.acc := rfl
@[simp] theorem setPort_srv (c : Chip) (p : Nat) (q : Port) : (setPort c p q).srv = c.srv := rfl
@[simp] theorem setPort_wts (c : Chip) (p : Nat) (q : Port) : (setPort c p q).wts = c.wts := rfl
@[simp] theorem setPort_time (c : Chip) (p : Nat) (q : Port) : (setPort c p q).time = c.time := rfl
@[simp] theorem setPort_fab (c : Chip) (p : Nat) (q : Port) : (setPort c p q).fab = c.fab := rfl
@[simp] theorem setPort_det (c : Chip) (p : Nat) (q : Port) : (setPort c p q).det = c.det := rfl
@[simp] theorem setPort_stew (c : Chip) (p : Nat) (q : Port) : (setPort c p q).stew = c.stew := rfl
@[simp] theorem setPort_host (c : Chip) (p : Nat) (q : Port) : (setPort c p q).host = c.host := rfl
@[simp] theorem setPort_sec (c : Chip) (p : Nat) (q : Port) : (setPort c p q).sec = c.sec := rfl
@[simp] theorem setPort_out (c : Chip) (p : Nat) (q : Port) : (setPort c p q).out = c.out := rfl
@[simp] theorem setPort_free (c : Chip) (p : Nat) (q : Port) : (setPort c p q).free = c.free := rfl
@[simp] theorem setPort_reg (c : Chip) (p : Nat) (q : Port) (k : Nat) : reg (setPort c p q) k = reg c k := rfl
@[simp] theorem setPort_tileAt (c : Chip) (p : Nat) (q : Port) (y : Nat) : tileAt (setPort c p q) y = tileAt c y := rfl
@[simp] theorem setPort_stewAt (c : Chip) (p : Nat) (q : Port) (y : Nat) : stewAt (setPort c p q) y = stewAt c y := rfl

@[simp] theorem modPort_power (c : Chip) (p : Nat) (f : Port → Port) : (modPort c p f).power = c.power := rfl
@[simp] theorem modPort_count (c : Chip) (p : Nat) (f : Port → Port) : (modPort c p f).count = c.count := rfl
@[simp] theorem modPort_regs (c : Chip) (p : Nat) (f : Port → Port) : (modPort c p f).regs = c.regs := rfl
@[simp] theorem modPort_shadow (c : Chip) (p : Nat) (f : Port → Port) : (modPort c p f).shadow = c.shadow := rfl
@[simp] theorem modPort_blobs (c : Chip) (p : Nat) (f : Port → Port) : (modPort c p f).blobs = c.blobs := rfl
@[simp] theorem modPort_commitCopy (c : Chip) (p : Nat) (f : Port → Port) : (modPort c p f).commitCopy = c.commitCopy := rfl
@[simp] theorem modPort_eng (c : Chip) (p : Nat) (f : Port → Port) : (modPort c p f).eng = c.eng := rfl
@[simp] theorem modPort_err (c : Chip) (p : Nat) (f : Port → Port) : (modPort c p f).err = c.err := rfl
@[simp] theorem modPort_plan (c : Chip) (p : Nat) (f : Port → Port) : (modPort c p f).plan = c.plan := rfl
@[simp] theorem modPort_seqs (c : Chip) (p : Nat) (f : Port → Port) : (modPort c p f).seqs = c.seqs := rfl
@[simp] theorem modPort_acts (c : Chip) (p : Nat) (f : Port → Port) : (modPort c p f).acts = c.acts := rfl
@[simp] theorem modPort_flying (c : Chip) (p : Nat) (f : Port → Port) : (modPort c p f).flying = c.flying := rfl
@[simp] theorem modPort_tiles (c : Chip) (p : Nat) (f : Port → Port) : (modPort c p f).tiles = c.tiles := rfl
@[simp] theorem modPort_mem (c : Chip) (p : Nat) (f : Port → Port) : (modPort c p f).mem = c.mem := rfl
@[simp] theorem modPort_poison (c : Chip) (p : Nat) (f : Port → Port) : (modPort c p f).poison = c.poison := rfl
@[simp] theorem modPort_ecc (c : Chip) (p : Nat) (f : Port → Port) : (modPort c p f).ecc = c.ecc := rfl
@[simp] theorem modPort_flaws (c : Chip) (p : Nat) (f : Port → Port) : (modPort c p f).flaws = c.flaws := rfl
@[simp] theorem modPort_wbDue (c : Chip) (p : Nat) (f : Port → Port) : (modPort c p f).wbDue = c.wbDue := rfl
@[simp] theorem modPort_late (c : Chip) (p : Nat) (f : Port → Port) : (modPort c p f).late = c.late := rfl
@[simp] theorem modPort_pools (c : Chip) (p : Nat) (f : Port → Port) : (modPort c p f).pools = c.pools := rfl
@[simp] theorem modPort_acc (c : Chip) (p : Nat) (f : Port → Port) : (modPort c p f).acc = c.acc := rfl
@[simp] theorem modPort_srv (c : Chip) (p : Nat) (f : Port → Port) : (modPort c p f).srv = c.srv := rfl
@[simp] theorem modPort_wts (c : Chip) (p : Nat) (f : Port → Port) : (modPort c p f).wts = c.wts := rfl
@[simp] theorem modPort_time (c : Chip) (p : Nat) (f : Port → Port) : (modPort c p f).time = c.time := rfl
@[simp] theorem modPort_fab (c : Chip) (p : Nat) (f : Port → Port) : (modPort c p f).fab = c.fab := rfl
@[simp] theorem modPort_det (c : Chip) (p : Nat) (f : Port → Port) : (modPort c p f).det = c.det := rfl
@[simp] theorem modPort_stew (c : Chip) (p : Nat) (f : Port → Port) : (modPort c p f).stew = c.stew := rfl
@[simp] theorem modPort_host (c : Chip) (p : Nat) (f : Port → Port) : (modPort c p f).host = c.host := rfl
@[simp] theorem modPort_sec (c : Chip) (p : Nat) (f : Port → Port) : (modPort c p f).sec = c.sec := rfl
@[simp] theorem modPort_out (c : Chip) (p : Nat) (f : Port → Port) : (modPort c p f).out = c.out := rfl
@[simp] theorem modPort_free (c : Chip) (p : Nat) (f : Port → Port) : (modPort c p f).free = c.free := rfl
@[simp] theorem modPort_reg (c : Chip) (p : Nat) (f : Port → Port) (k : Nat) : reg (modPort c p f) k = reg c k := rfl
@[simp] theorem modPort_tileAt (c : Chip) (p : Nat) (f : Port → Port) (y : Nat) : tileAt (modPort c p f) y = tileAt c y := rfl
@[simp] theorem modPort_stewAt (c : Chip) (p : Nat) (f : Port → Port) (y : Nat) : stewAt (modPort c p f) y = stewAt c y := rfl

@[simp] theorem setStew_power (c : Chip) (d : Nat) (x : Steward) : (setStew c d x).power = c.power := rfl
@[simp] theorem setStew_count (c : Chip) (d : Nat) (x : Steward) : (setStew c d x).count = c.count := rfl
@[simp] theorem setStew_regs (c : Chip) (d : Nat) (x : Steward) : (setStew c d x).regs = c.regs := rfl
@[simp] theorem setStew_shadow (c : Chip) (d : Nat) (x : Steward) : (setStew c d x).shadow = c.shadow := rfl
@[simp] theorem setStew_blobs (c : Chip) (d : Nat) (x : Steward) : (setStew c d x).blobs = c.blobs := rfl
@[simp] theorem setStew_commitCopy (c : Chip) (d : Nat) (x : Steward) : (setStew c d x).commitCopy = c.commitCopy := rfl
@[simp] theorem setStew_eng (c : Chip) (d : Nat) (x : Steward) : (setStew c d x).eng = c.eng := rfl
@[simp] theorem setStew_err (c : Chip) (d : Nat) (x : Steward) : (setStew c d x).err = c.err := rfl
@[simp] theorem setStew_plan (c : Chip) (d : Nat) (x : Steward) : (setStew c d x).plan = c.plan := rfl
@[simp] theorem setStew_seqs (c : Chip) (d : Nat) (x : Steward) : (setStew c d x).seqs = c.seqs := rfl
@[simp] theorem setStew_acts (c : Chip) (d : Nat) (x : Steward) : (setStew c d x).acts = c.acts := rfl
@[simp] theorem setStew_flying (c : Chip) (d : Nat) (x : Steward) : (setStew c d x).flying = c.flying := rfl
@[simp] theorem setStew_tiles (c : Chip) (d : Nat) (x : Steward) : (setStew c d x).tiles = c.tiles := rfl
@[simp] theorem setStew_mem (c : Chip) (d : Nat) (x : Steward) : (setStew c d x).mem = c.mem := rfl
@[simp] theorem setStew_poison (c : Chip) (d : Nat) (x : Steward) : (setStew c d x).poison = c.poison := rfl
@[simp] theorem setStew_ecc (c : Chip) (d : Nat) (x : Steward) : (setStew c d x).ecc = c.ecc := rfl
@[simp] theorem setStew_flaws (c : Chip) (d : Nat) (x : Steward) : (setStew c d x).flaws = c.flaws := rfl
@[simp] theorem setStew_wbDue (c : Chip) (d : Nat) (x : Steward) : (setStew c d x).wbDue = c.wbDue := rfl
@[simp] theorem setStew_late (c : Chip) (d : Nat) (x : Steward) : (setStew c d x).late = c.late := rfl
@[simp] theorem setStew_pools (c : Chip) (d : Nat) (x : Steward) : (setStew c d x).pools = c.pools := rfl
@[simp] theorem setStew_acc (c : Chip) (d : Nat) (x : Steward) : (setStew c d x).acc = c.acc := rfl
@[simp] theorem setStew_srv (c : Chip) (d : Nat) (x : Steward) : (setStew c d x).srv = c.srv := rfl
@[simp] theorem setStew_wts (c : Chip) (d : Nat) (x : Steward) : (setStew c d x).wts = c.wts := rfl
@[simp] theorem setStew_time (c : Chip) (d : Nat) (x : Steward) : (setStew c d x).time = c.time := rfl
@[simp] theorem setStew_ports (c : Chip) (d : Nat) (x : Steward) : (setStew c d x).ports = c.ports := rfl
@[simp] theorem setStew_fab (c : Chip) (d : Nat) (x : Steward) : (setStew c d x).fab = c.fab := rfl
@[simp] theorem setStew_det (c : Chip) (d : Nat) (x : Steward) : (setStew c d x).det = c.det := rfl
@[simp] theorem setStew_host (c : Chip) (d : Nat) (x : Steward) : (setStew c d x).host = c.host := rfl
@[simp] theorem setStew_sec (c : Chip) (d : Nat) (x : Steward) : (setStew c d x).sec = c.sec := rfl
@[simp] theorem setStew_out (c : Chip) (d : Nat) (x : Steward) : (setStew c d x).out = c.out := rfl
@[simp] theorem setStew_free (c : Chip) (d : Nat) (x : Steward) : (setStew c d x).free = c.free := rfl
@[simp] theorem setStew_reg (c : Chip) (d : Nat) (x : Steward) (k : Nat) : reg (setStew c d x) k = reg c k := rfl
@[simp] theorem setStew_tileAt (c : Chip) (d : Nat) (x : Steward) (y : Nat) : tileAt (setStew c d x) y = tileAt c y := rfl
@[simp] theorem setStew_portAt (c : Chip) (d : Nat) (x : Steward) (y : Nat) : portAt (setStew c d x) y = portAt c y := rfl

@[simp] theorem setPool_power (c : Chip) (n : Nat) (p : Pool) : (setPool c n p).power = c.power := rfl
@[simp] theorem setPool_count (c : Chip) (n : Nat) (p : Pool) : (setPool c n p).count = c.count := rfl
@[simp] theorem setPool_regs (c : Chip) (n : Nat) (p : Pool) : (setPool c n p).regs = c.regs := rfl
@[simp] theorem setPool_shadow (c : Chip) (n : Nat) (p : Pool) : (setPool c n p).shadow = c.shadow := rfl
@[simp] theorem setPool_blobs (c : Chip) (n : Nat) (p : Pool) : (setPool c n p).blobs = c.blobs := rfl
@[simp] theorem setPool_commitCopy (c : Chip) (n : Nat) (p : Pool) : (setPool c n p).commitCopy = c.commitCopy := rfl
@[simp] theorem setPool_eng (c : Chip) (n : Nat) (p : Pool) : (setPool c n p).eng = c.eng := rfl
@[simp] theorem setPool_err (c : Chip) (n : Nat) (p : Pool) : (setPool c n p).err = c.err := rfl
@[simp] theorem setPool_plan (c : Chip) (n : Nat) (p : Pool) : (setPool c n p).plan = c.plan := rfl
@[simp] theorem setPool_seqs (c : Chip) (n : Nat) (p : Pool) : (setPool c n p).seqs = c.seqs := rfl
@[simp] theorem setPool_acts (c : Chip) (n : Nat) (p : Pool) : (setPool c n p).acts = c.acts := rfl
@[simp] theorem setPool_flying (c : Chip) (n : Nat) (p : Pool) : (setPool c n p).flying = c.flying := rfl
@[simp] theorem setPool_tiles (c : Chip) (n : Nat) (p : Pool) : (setPool c n p).tiles = c.tiles := rfl
@[simp] theorem setPool_mem (c : Chip) (n : Nat) (p : Pool) : (setPool c n p).mem = c.mem := rfl
@[simp] theorem setPool_poison (c : Chip) (n : Nat) (p : Pool) : (setPool c n p).poison = c.poison := rfl
@[simp] theorem setPool_ecc (c : Chip) (n : Nat) (p : Pool) : (setPool c n p).ecc = c.ecc := rfl
@[simp] theorem setPool_flaws (c : Chip) (n : Nat) (p : Pool) : (setPool c n p).flaws = c.flaws := rfl
@[simp] theorem setPool_wbDue (c : Chip) (n : Nat) (p : Pool) : (setPool c n p).wbDue = c.wbDue := rfl
@[simp] theorem setPool_late (c : Chip) (n : Nat) (p : Pool) : (setPool c n p).late = c.late := rfl
@[simp] theorem setPool_acc (c : Chip) (n : Nat) (p : Pool) : (setPool c n p).acc = c.acc := rfl
@[simp] theorem setPool_srv (c : Chip) (n : Nat) (p : Pool) : (setPool c n p).srv = c.srv := rfl
@[simp] theorem setPool_wts (c : Chip) (n : Nat) (p : Pool) : (setPool c n p).wts = c.wts := rfl
@[simp] theorem setPool_time (c : Chip) (n : Nat) (p : Pool) : (setPool c n p).time = c.time := rfl
@[simp] theorem setPool_ports (c : Chip) (n : Nat) (p : Pool) : (setPool c n p).ports = c.ports := rfl
@[simp] theorem setPool_fab (c : Chip) (n : Nat) (p : Pool) : (setPool c n p).fab = c.fab := rfl
@[simp] theorem setPool_det (c : Chip) (n : Nat) (p : Pool) : (setPool c n p).det = c.det := rfl
@[simp] theorem setPool_stew (c : Chip) (n : Nat) (p : Pool) : (setPool c n p).stew = c.stew := rfl
@[simp] theorem setPool_host (c : Chip) (n : Nat) (p : Pool) : (setPool c n p).host = c.host := rfl
@[simp] theorem setPool_sec (c : Chip) (n : Nat) (p : Pool) : (setPool c n p).sec = c.sec := rfl
@[simp] theorem setPool_out (c : Chip) (n : Nat) (p : Pool) : (setPool c n p).out = c.out := rfl
@[simp] theorem setPool_free (c : Chip) (n : Nat) (p : Pool) : (setPool c n p).free = c.free := rfl
@[simp] theorem setPool_reg (c : Chip) (n : Nat) (p : Pool) (k : Nat) : reg (setPool c n p) k = reg c k := rfl
@[simp] theorem setPool_tileAt (c : Chip) (n : Nat) (p : Pool) (y : Nat) : tileAt (setPool c n p) y = tileAt c y := rfl
@[simp] theorem setPool_portAt (c : Chip) (n : Nat) (p : Pool) (y : Nat) : portAt (setPool c n p) y = portAt c y := rfl
@[simp] theorem setPool_stewAt (c : Chip) (n : Nat) (p : Pool) (y : Nat) : stewAt (setPool c n p) y = stewAt c y := rfl

@[simp] theorem reportI_power (b : Bool) (c : Chip) (code : Nat) (l : Loc) (w : When) (d : List Nat) : (reportI b c code l w d).power = c.power := rfl
@[simp] theorem reportI_count (b : Bool) (c : Chip) (code : Nat) (l : Loc) (w : When) (d : List Nat) : (reportI b c code l w d).count = c.count := rfl
@[simp] theorem reportI_regs (b : Bool) (c : Chip) (code : Nat) (l : Loc) (w : When) (d : List Nat) : (reportI b c code l w d).regs = c.regs := rfl
@[simp] theorem reportI_shadow (b : Bool) (c : Chip) (code : Nat) (l : Loc) (w : When) (d : List Nat) : (reportI b c code l w d).shadow = c.shadow := rfl
@[simp] theorem reportI_blobs (b : Bool) (c : Chip) (code : Nat) (l : Loc) (w : When) (d : List Nat) : (reportI b c code l w d).blobs = c.blobs := rfl
@[simp] theorem reportI_commitCopy (b : Bool) (c : Chip) (code : Nat) (l : Loc) (w : When) (d : List Nat) : (reportI b c code l w d).commitCopy = c.commitCopy := rfl
@[simp] theorem reportI_eng (b : Bool) (c : Chip) (code : Nat) (l : Loc) (w : When) (d : List Nat) : (reportI b c code l w d).eng = c.eng := rfl
@[simp] theorem reportI_plan (b : Bool) (c : Chip) (code : Nat) (l : Loc) (w : When) (d : List Nat) : (reportI b c code l w d).plan = c.plan := rfl
@[simp] theorem reportI_seqs (b : Bool) (c : Chip) (code : Nat) (l : Loc) (w : When) (d : List Nat) : (reportI b c code l w d).seqs = c.seqs := rfl
@[simp] theorem reportI_acts (b : Bool) (c : Chip) (code : Nat) (l : Loc) (w : When) (d : List Nat) : (reportI b c code l w d).acts = c.acts := rfl
@[simp] theorem reportI_flying (b : Bool) (c : Chip) (code : Nat) (l : Loc) (w : When) (d : List Nat) : (reportI b c code l w d).flying = c.flying := rfl
@[simp] theorem reportI_tiles (b : Bool) (c : Chip) (code : Nat) (l : Loc) (w : When) (d : List Nat) : (reportI b c code l w d).tiles = c.tiles := rfl
@[simp] theorem reportI_mem (b : Bool) (c : Chip) (code : Nat) (l : Loc) (w : When) (d : List Nat) : (reportI b c code l w d).mem = c.mem := rfl
@[simp] theorem reportI_poison (b : Bool) (c : Chip) (code : Nat) (l : Loc) (w : When) (d : List Nat) : (reportI b c code l w d).poison = c.poison := rfl
@[simp] theorem reportI_ecc (b : Bool) (c : Chip) (code : Nat) (l : Loc) (w : When) (d : List Nat) : (reportI b c code l w d).ecc = c.ecc := rfl
@[simp] theorem reportI_flaws (b : Bool) (c : Chip) (code : Nat) (l : Loc) (w : When) (d : List Nat) : (reportI b c code l w d).flaws = c.flaws := rfl
@[simp] theorem reportI_wbDue (b : Bool) (c : Chip) (code : Nat) (l : Loc) (w : When) (d : List Nat) : (reportI b c code l w d).wbDue = c.wbDue := rfl
@[simp] theorem reportI_late (b : Bool) (c : Chip) (code : Nat) (l : Loc) (w : When) (d : List Nat) : (reportI b c code l w d).late = c.late := rfl
@[simp] theorem reportI_pools (b : Bool) (c : Chip) (code : Nat) (l : Loc) (w : When) (d : List Nat) : (reportI b c code l w d).pools = c.pools := rfl
@[simp] theorem reportI_acc (b : Bool) (c : Chip) (code : Nat) (l : Loc) (w : When) (d : List Nat) : (reportI b c code l w d).acc = c.acc := rfl
@[simp] theorem reportI_srv (b : Bool) (c : Chip) (code : Nat) (l : Loc) (w : When) (d : List Nat) : (reportI b c code l w d).srv = c.srv := rfl
@[simp] theorem reportI_wts (b : Bool) (c : Chip) (code : Nat) (l : Loc) (w : When) (d : List Nat) : (reportI b c code l w d).wts = c.wts := rfl
@[simp] theorem reportI_time (b : Bool) (c : Chip) (code : Nat) (l : Loc) (w : When) (d : List Nat) : (reportI b c code l w d).time = c.time := rfl
@[simp] theorem reportI_ports (b : Bool) (c : Chip) (code : Nat) (l : Loc) (w : When) (d : List Nat) : (reportI b c code l w d).ports = c.ports := rfl
@[simp] theorem reportI_fab (b : Bool) (c : Chip) (code : Nat) (l : Loc) (w : When) (d : List Nat) : (reportI b c code l w d).fab = c.fab := rfl
@[simp] theorem reportI_det (b : Bool) (c : Chip) (code : Nat) (l : Loc) (w : When) (d : List Nat) : (reportI b c code l w d).det = c.det := rfl
@[simp] theorem reportI_stew (b : Bool) (c : Chip) (code : Nat) (l : Loc) (w : When) (d : List Nat) : (reportI b c code l w d).stew = c.stew := rfl
@[simp] theorem reportI_host (b : Bool) (c : Chip) (code : Nat) (l : Loc) (w : When) (d : List Nat) : (reportI b c code l w d).host = c.host := rfl
@[simp] theorem reportI_sec (b : Bool) (c : Chip) (code : Nat) (l : Loc) (w : When) (d : List Nat) : (reportI b c code l w d).sec = c.sec := rfl
@[simp] theorem reportI_out (b : Bool) (c : Chip) (code : Nat) (l : Loc) (w : When) (d : List Nat) : (reportI b c code l w d).out = c.out := rfl
@[simp] theorem reportI_free (b : Bool) (c : Chip) (code : Nat) (l : Loc) (w : When) (d : List Nat) : (reportI b c code l w d).free = c.free := rfl
@[simp] theorem reportI_reg (b : Bool) (c : Chip) (code : Nat) (l : Loc) (w : When) (d : List Nat) (k : Nat) : reg (reportI b c code l w d) k = reg c k := rfl
@[simp] theorem reportI_tileAt (b : Bool) (c : Chip) (code : Nat) (l : Loc) (w : When) (d : List Nat) (y : Nat) : tileAt (reportI b c code l w d) y = tileAt c y := rfl
@[simp] theorem reportI_portAt (b : Bool) (c : Chip) (code : Nat) (l : Loc) (w : When) (d : List Nat) (y : Nat) : portAt (reportI b c code l w d) y = portAt c y := rfl
@[simp] theorem reportI_stewAt (b : Bool) (c : Chip) (code : Nat) (l : Loc) (w : When) (d : List Nat) (y : Nat) : stewAt (reportI b c code l w d) y = stewAt c y := rfl

@[simp] theorem report_power (c : Chip) (code : Nat) (l : Loc) (w : When) (d : List Nat) : (report c code l w d).power = c.power := rfl
@[simp] theorem report_count (c : Chip) (code : Nat) (l : Loc) (w : When) (d : List Nat) : (report c code l w d).count = c.count := rfl
@[simp] theorem report_regs (c : Chip) (code : Nat) (l : Loc) (w : When) (d : List Nat) : (report c code l w d).regs = c.regs := rfl
@[simp] theorem report_shadow (c : Chip) (code : Nat) (l : Loc) (w : When) (d : List Nat) : (report c code l w d).shadow = c.shadow := rfl
@[simp] theorem report_blobs (c : Chip) (code : Nat) (l : Loc) (w : When) (d : List Nat) : (report c code l w d).blobs = c.blobs := rfl
@[simp] theorem report_commitCopy (c : Chip) (code : Nat) (l : Loc) (w : When) (d : List Nat) : (report c code l w d).commitCopy = c.commitCopy := rfl
@[simp] theorem report_eng (c : Chip) (code : Nat) (l : Loc) (w : When) (d : List Nat) : (report c code l w d).eng = c.eng := rfl
@[simp] theorem report_plan (c : Chip) (code : Nat) (l : Loc) (w : When) (d : List Nat) : (report c code l w d).plan = c.plan := rfl
@[simp] theorem report_seqs (c : Chip) (code : Nat) (l : Loc) (w : When) (d : List Nat) : (report c code l w d).seqs = c.seqs := rfl
@[simp] theorem report_acts (c : Chip) (code : Nat) (l : Loc) (w : When) (d : List Nat) : (report c code l w d).acts = c.acts := rfl
@[simp] theorem report_flying (c : Chip) (code : Nat) (l : Loc) (w : When) (d : List Nat) : (report c code l w d).flying = c.flying := rfl
@[simp] theorem report_tiles (c : Chip) (code : Nat) (l : Loc) (w : When) (d : List Nat) : (report c code l w d).tiles = c.tiles := rfl
@[simp] theorem report_mem (c : Chip) (code : Nat) (l : Loc) (w : When) (d : List Nat) : (report c code l w d).mem = c.mem := rfl
@[simp] theorem report_poison (c : Chip) (code : Nat) (l : Loc) (w : When) (d : List Nat) : (report c code l w d).poison = c.poison := rfl
@[simp] theorem report_ecc (c : Chip) (code : Nat) (l : Loc) (w : When) (d : List Nat) : (report c code l w d).ecc = c.ecc := rfl
@[simp] theorem report_flaws (c : Chip) (code : Nat) (l : Loc) (w : When) (d : List Nat) : (report c code l w d).flaws = c.flaws := rfl
@[simp] theorem report_wbDue (c : Chip) (code : Nat) (l : Loc) (w : When) (d : List Nat) : (report c code l w d).wbDue = c.wbDue := rfl
@[simp] theorem report_late (c : Chip) (code : Nat) (l : Loc) (w : When) (d : List Nat) : (report c code l w d).late = c.late := rfl
@[simp] theorem report_pools (c : Chip) (code : Nat) (l : Loc) (w : When) (d : List Nat) : (report c code l w d).pools = c.pools := rfl
@[simp] theorem report_acc (c : Chip) (code : Nat) (l : Loc) (w : When) (d : List Nat) : (report c code l w d).acc = c.acc := rfl
@[simp] theorem report_srv (c : Chip) (code : Nat) (l : Loc) (w : When) (d : List Nat) : (report c code l w d).srv = c.srv := rfl
@[simp] theorem report_wts (c : Chip) (code : Nat) (l : Loc) (w : When) (d : List Nat) : (report c code l w d).wts = c.wts := rfl
@[simp] theorem report_time (c : Chip) (code : Nat) (l : Loc) (w : When) (d : List Nat) : (report c code l w d).time = c.time := rfl
@[simp] theorem report_ports (c : Chip) (code : Nat) (l : Loc) (w : When) (d : List Nat) : (report c code l w d).ports = c.ports := rfl
@[simp] theorem report_fab (c : Chip) (code : Nat) (l : Loc) (w : When) (d : List Nat) : (report c code l w d).fab = c.fab := rfl
@[simp] theorem report_det (c : Chip) (code : Nat) (l : Loc) (w : When) (d : List Nat) : (report c code l w d).det = c.det := rfl
@[simp] theorem report_stew (c : Chip) (code : Nat) (l : Loc) (w : When) (d : List Nat) : (report c code l w d).stew = c.stew := rfl
@[simp] theorem report_host (c : Chip) (code : Nat) (l : Loc) (w : When) (d : List Nat) : (report c code l w d).host = c.host := rfl
@[simp] theorem report_sec (c : Chip) (code : Nat) (l : Loc) (w : When) (d : List Nat) : (report c code l w d).sec = c.sec := rfl
@[simp] theorem report_out (c : Chip) (code : Nat) (l : Loc) (w : When) (d : List Nat) : (report c code l w d).out = c.out := rfl
@[simp] theorem report_free (c : Chip) (code : Nat) (l : Loc) (w : When) (d : List Nat) : (report c code l w d).free = c.free := rfl
@[simp] theorem report_reg (c : Chip) (code : Nat) (l : Loc) (w : When) (d : List Nat) (k : Nat) : reg (report c code l w d) k = reg c k := rfl
@[simp] theorem report_tileAt (c : Chip) (code : Nat) (l : Loc) (w : When) (d : List Nat) (y : Nat) : tileAt (report c code l w d) y = tileAt c y := rfl
@[simp] theorem report_portAt (c : Chip) (code : Nat) (l : Loc) (w : When) (d : List Nat) (y : Nat) : portAt (report c code l w d) y = portAt c y := rfl
@[simp] theorem report_stewAt (c : Chip) (code : Nat) (l : Loc) (w : When) (d : List Nat) (y : Nat) : stewAt (report c code l w d) y = stewAt c y := rfl

@[simp] theorem setPlanState_power (c : Chip) (x : PlanState) : (setPlanState c x).power = c.power := rfl
@[simp] theorem setPlanState_count (c : Chip) (x : PlanState) : (setPlanState c x).count = c.count := rfl
@[simp] theorem setPlanState_regs (c : Chip) (x : PlanState) : (setPlanState c x).regs = c.regs := rfl
@[simp] theorem setPlanState_shadow (c : Chip) (x : PlanState) : (setPlanState c x).shadow = c.shadow := rfl
@[simp] theorem setPlanState_blobs (c : Chip) (x : PlanState) : (setPlanState c x).blobs = c.blobs := rfl
@[simp] theorem setPlanState_commitCopy (c : Chip) (x : PlanState) : (setPlanState c x).commitCopy = c.commitCopy := rfl
@[simp] theorem setPlanState_eng (c : Chip) (x : PlanState) : (setPlanState c x).eng = c.eng := rfl
@[simp] theorem setPlanState_err (c : Chip) (x : PlanState) : (setPlanState c x).err = c.err := rfl
@[simp] theorem setPlanState_seqs (c : Chip) (x : PlanState) : (setPlanState c x).seqs = c.seqs := rfl
@[simp] theorem setPlanState_acts (c : Chip) (x : PlanState) : (setPlanState c x).acts = c.acts := rfl
@[simp] theorem setPlanState_flying (c : Chip) (x : PlanState) : (setPlanState c x).flying = c.flying := rfl
@[simp] theorem setPlanState_tiles (c : Chip) (x : PlanState) : (setPlanState c x).tiles = c.tiles := rfl
@[simp] theorem setPlanState_mem (c : Chip) (x : PlanState) : (setPlanState c x).mem = c.mem := rfl
@[simp] theorem setPlanState_poison (c : Chip) (x : PlanState) : (setPlanState c x).poison = c.poison := rfl
@[simp] theorem setPlanState_ecc (c : Chip) (x : PlanState) : (setPlanState c x).ecc = c.ecc := rfl
@[simp] theorem setPlanState_flaws (c : Chip) (x : PlanState) : (setPlanState c x).flaws = c.flaws := rfl
@[simp] theorem setPlanState_wbDue (c : Chip) (x : PlanState) : (setPlanState c x).wbDue = c.wbDue := rfl
@[simp] theorem setPlanState_late (c : Chip) (x : PlanState) : (setPlanState c x).late = c.late := rfl
@[simp] theorem setPlanState_pools (c : Chip) (x : PlanState) : (setPlanState c x).pools = c.pools := rfl
@[simp] theorem setPlanState_acc (c : Chip) (x : PlanState) : (setPlanState c x).acc = c.acc := rfl
@[simp] theorem setPlanState_srv (c : Chip) (x : PlanState) : (setPlanState c x).srv = c.srv := rfl
@[simp] theorem setPlanState_wts (c : Chip) (x : PlanState) : (setPlanState c x).wts = c.wts := rfl
@[simp] theorem setPlanState_time (c : Chip) (x : PlanState) : (setPlanState c x).time = c.time := rfl
@[simp] theorem setPlanState_ports (c : Chip) (x : PlanState) : (setPlanState c x).ports = c.ports := rfl
@[simp] theorem setPlanState_fab (c : Chip) (x : PlanState) : (setPlanState c x).fab = c.fab := rfl
@[simp] theorem setPlanState_det (c : Chip) (x : PlanState) : (setPlanState c x).det = c.det := rfl
@[simp] theorem setPlanState_stew (c : Chip) (x : PlanState) : (setPlanState c x).stew = c.stew := rfl
@[simp] theorem setPlanState_host (c : Chip) (x : PlanState) : (setPlanState c x).host = c.host := rfl
@[simp] theorem setPlanState_sec (c : Chip) (x : PlanState) : (setPlanState c x).sec = c.sec := rfl
@[simp] theorem setPlanState_out (c : Chip) (x : PlanState) : (setPlanState c x).out = c.out := rfl
@[simp] theorem setPlanState_free (c : Chip) (x : PlanState) : (setPlanState c x).free = c.free := rfl
@[simp] theorem setPlanState_reg (c : Chip) (x : PlanState) (k : Nat) : reg (setPlanState c x) k = reg c k := rfl
@[simp] theorem setPlanState_tileAt (c : Chip) (x : PlanState) (y : Nat) : tileAt (setPlanState c x) y = tileAt c y := rfl
@[simp] theorem setPlanState_portAt (c : Chip) (x : PlanState) (y : Nat) : portAt (setPlanState c x) y = portAt c y := rfl
@[simp] theorem setPlanState_stewAt (c : Chip) (x : PlanState) (y : Nat) : stewAt (setPlanState c x) y = stewAt c y := rfl

/-! ## The field that an update writes -/

@[simp] theorem tileAt_setTile_same (c : Chip) (site : Nat) (t : Tile) : tileAt (setTile c site t) site = t :=
  smGet_smSet_same _ _ _ _

theorem tileAt_setTile_ne (c : Chip) (t : Tile) {site y : Nat} (h : y ≠ site) :
    tileAt (setTile c site t) y = tileAt c y := smGet_smSet_ne _ _ _ h

@[simp] theorem tileAt_modTile_same (c : Chip) (site : Nat) (f : Tile → Tile) :
    tileAt (modTile c site f) site = f (tileAt c site) := tileAt_setTile_same c site _

theorem tileAt_modTile_ne (c : Chip) (f : Tile → Tile) {site y : Nat} (h : y ≠ site) :
    tileAt (modTile c site f) y = tileAt c y := tileAt_setTile_ne c _ h

@[simp] theorem seqAt_setSeq_same (c : Chip) (d : Nat) (q : Seq) : seqAt (setSeq c d q) d = q :=
  smGet_smSet_same _ _ _ _

theorem seqAt_setSeq_ne (c : Chip) (q : Seq) {d y : Nat} (h : y ≠ d) : seqAt (setSeq c d q) y = seqAt c y :=
  smGet_smSet_ne _ _ _ h

@[simp] theorem portAt_setPort_same (c : Chip) (p : Nat) (q : Port) : portAt (setPort c p q) p = q :=
  smGet_smSet_same _ _ _ _

theorem portAt_setPort_ne (c : Chip) (q : Port) {p y : Nat} (h : y ≠ p) : portAt (setPort c p q) y = portAt c y :=
  smGet_smSet_ne _ _ _ h

@[simp] theorem portAt_modPort_same (c : Chip) (p : Nat) (f : Port → Port) :
    portAt (modPort c p f) p = f (portAt c p) := portAt_setPort_same c p _

theorem portAt_modPort_ne (c : Chip) (f : Port → Port) {p y : Nat} (h : y ≠ p) :
    portAt (modPort c p f) y = portAt c y := portAt_setPort_ne c _ h

@[simp] theorem stewAt_setStew_same (c : Chip) (d : Nat) (x : Steward) : stewAt (setStew c d x) d = x :=
  smGet_smSet_same _ _ _ _

theorem stewAt_setStew_ne (c : Chip) (x : Steward) {d y : Nat} (h : y ≠ d) :
    stewAt (setStew c d x) y = stewAt c y := smGet_smSet_ne _ _ _ h

@[simp] theorem poolAt_setPool_same (c : Chip) (n : Nat) (p : Pool) : poolAt (setPool c n p) n = p :=
  smGet_smSet_same _ _ _ _

@[simp] theorem reg_setReg_same (c : Chip) (k v : Nat) : reg (setReg c k v) k = v := smGet_smSet_same _ _ _ _

theorem reg_setReg_ne (c : Chip) (v : Nat) {k j : Nat} (h : j ≠ k) : reg (setReg c k v) j = reg c j :=
  smGet_smSet_ne' _ _ _ _ h

theorem reg_setReg (c : Chip) (k v j : Nat) : reg (setReg c k v) j = if j = k then v else reg c j := by
  split
  · next h => subst h; simp
  · next h => exact reg_setReg_ne c v h

@[simp] theorem reg_addReg_same (c : Chip) (k n : Nat) : reg (addReg c k n) k = m64 (reg c k + n) :=
  reg_setReg_same c k _

theorem reg_addReg_ne (c : Chip) (n : Nat) {k j : Nat} (h : j ≠ k) : reg (addReg c k n) j = reg c j :=
  reg_setReg_ne c _ h

@[simp] theorem setPlanState_state (c : Chip) (x : PlanState) : (setPlanState c x).plan.state = x := rfl

@[simp] theorem bump_vec (c : Chip) (k n : Nat) : (bump c k n).acc.vec = c.acc.vec := rfl

@[simp] theorem bump_conv (c : Chip) (k n : Nat) : (bump c k n).acc.conv = c.acc.conv := rfl

@[simp] theorem bump_reported (c : Chip) (k n : Nat) : (bump c k n).acc.reported = c.acc.reported := rfl

@[simp] theorem vecEv_vec (c : Chip) (b : Nat) : (vecEv c b).acc.vec = c.acc.vec ||| b := rfl

@[simp] theorem vecEv_conv (c : Chip) (b : Nat) : (vecEv c b).acc.conv = c.acc.conv := rfl

@[simp] theorem vecEv_counts (c : Chip) (b : Nat) : (vecEv c b).acc.counts = c.acc.counts := rfl

@[simp] theorem convEv_conv (c : Chip) (b : Nat) : (convEv c b).acc.conv = c.acc.conv ||| b := rfl

@[simp] theorem convEv_vec (c : Chip) (b : Nat) : (convEv c b).acc.vec = c.acc.vec := rfl

@[simp] theorem convEv_counts (c : Chip) (b : Nat) : (convEv c b).acc.counts = c.acc.counts := rfl

/-- A counter of the step gains what was added. -/
@[simp] theorem bump_count_same (c : Chip) (k n : Nat) :
    smGet 0 (bump c k n).acc.counts k = smGet 0 c.acc.counts k + n := by simp [bump]

/-! ## Updates of a tile -/

@[simp] theorem setVreg_ti (t : Tile) (r : Nat) (x : VReg) : (setVreg t r x).ti = t.ti := rfl
@[simp] theorem setVreg_mask (t : Tile) (r : Nat) (x : VReg) : (setVreg t r x).mask = t.mask := rfl
@[simp] theorem setVreg_p (t : Tile) (r : Nat) (x : VReg) : (setVreg t r x).p = t.p := rfl
@[simp] theorem setVreg_a (t : Tile) (r : Nat) (x : VReg) : (setVreg t r x).a = t.a := rfl
@[simp] theorem setVreg_slots (t : Tile) (r : Nat) (x : VReg) : (setVreg t r x).slots = t.slots := rfl
@[simp] theorem setVreg_slotTaint (t : Tile) (r : Nat) (x : VReg) : (setVreg t r x).slotTaint = t.slotTaint := rfl
@[simp] theorem setVreg_q (t : Tile) (r : Nat) (x : VReg) : (setVreg t r x).q = t.q := rfl
@[simp] theorem setVreg_arr (t : Tile) (r : Nat) (x : VReg) : (setVreg t r x).arr = t.arr := rfl
@[simp] theorem setVreg_buf (t : Tile) (r : Nat) (x : VReg) : (setVreg t r x).buf = t.buf := rfl
@[simp] theorem setVreg_lag (t : Tile) (r : Nat) (x : VReg) : (setVreg t r x).lag = t.lag := rfl
@[simp] theorem setVreg_stalled (t : Tile) (r : Nat) (x : VReg) : (setVreg t r x).stalled = t.stalled := rfl
@[simp] theorem setVreg_gath (t : Tile) (r : Nat) (x : VReg) : (setVreg t r x).gath = t.gath := rfl
@[simp] theorem setVreg_stores (t : Tile) (r : Nat) (x : VReg) : (setVreg t r x).stores = t.stores := rfl
@[simp] theorem setVreg_pop (t : Tile) (r : Nat) (x : VReg) : (setVreg t r x).pop = t.pop := rfl

@[simp] theorem setPreg_ti (t : Tile) (r : Nat) (x : PReg) : (setPreg t r x).ti = t.ti := by unfold setPreg; split <;> rfl
@[simp] theorem setPreg_mask (t : Tile) (r : Nat) (x : PReg) : (setPreg t r x).mask = t.mask := by unfold setPreg; split <;> rfl
@[simp] theorem setPreg_v (t : Tile) (r : Nat) (x : PReg) : (setPreg t r x).v = t.v := by unfold setPreg; split <;> rfl
@[simp] theorem setPreg_a (t : Tile) (r : Nat) (x : PReg) : (setPreg t r x).a = t.a := by unfold setPreg; split <;> rfl
@[simp] theorem setPreg_slots (t : Tile) (r : Nat) (x : PReg) : (setPreg t r x).slots = t.slots := by unfold setPreg; split <;> rfl
@[simp] theorem setPreg_slotTaint (t : Tile) (r : Nat) (x : PReg) : (setPreg t r x).slotTaint = t.slotTaint := by unfold setPreg; split <;> rfl
@[simp] theorem setPreg_q (t : Tile) (r : Nat) (x : PReg) : (setPreg t r x).q = t.q := by unfold setPreg; split <;> rfl
@[simp] theorem setPreg_arr (t : Tile) (r : Nat) (x : PReg) : (setPreg t r x).arr = t.arr := by unfold setPreg; split <;> rfl
@[simp] theorem setPreg_buf (t : Tile) (r : Nat) (x : PReg) : (setPreg t r x).buf = t.buf := by unfold setPreg; split <;> rfl
@[simp] theorem setPreg_lag (t : Tile) (r : Nat) (x : PReg) : (setPreg t r x).lag = t.lag := by unfold setPreg; split <;> rfl
@[simp] theorem setPreg_stalled (t : Tile) (r : Nat) (x : PReg) : (setPreg t r x).stalled = t.stalled := by unfold setPreg; split <;> rfl
@[simp] theorem setPreg_gath (t : Tile) (r : Nat) (x : PReg) : (setPreg t r x).gath = t.gath := by unfold setPreg; split <;> rfl
@[simp] theorem setPreg_stores (t : Tile) (r : Nat) (x : PReg) : (setPreg t r x).stores = t.stores := by unfold setPreg; split <;> rfl
@[simp] theorem setPreg_pop (t : Tile) (r : Nat) (x : PReg) : (setPreg t r x).pop = t.pop := by unfold setPreg; split <;> rfl

@[simp] theorem setAreg_ti (t : Tile) (r x : Nat) : (setAreg t r x).ti = t.ti := by unfold setAreg; split <;> rfl
@[simp] theorem setAreg_mask (t : Tile) (r x : Nat) : (setAreg t r x).mask = t.mask := by unfold setAreg; split <;> rfl
@[simp] theorem setAreg_v (t : Tile) (r x : Nat) : (setAreg t r x).v = t.v := by unfold setAreg; split <;> rfl
@[simp] theorem setAreg_p (t : Tile) (r x : Nat) : (setAreg t r x).p = t.p := by unfold setAreg; split <;> rfl
@[simp] theorem setAreg_slots (t : Tile) (r x : Nat) : (setAreg t r x).slots = t.slots := by unfold setAreg; split <;> rfl
@[simp] theorem setAreg_slotTaint (t : Tile) (r x : Nat) : (setAreg t r x).slotTaint = t.slotTaint := by unfold setAreg; split <;> rfl
@[simp] theorem setAreg_q (t : Tile) (r x : Nat) : (setAreg t r x).q = t.q := by unfold setAreg; split <;> rfl
@[simp] theorem setAreg_arr (t : Tile) (r x : Nat) : (setAreg t r x).arr = t.arr := by unfold setAreg; split <;> rfl
@[simp] theorem setAreg_buf (t : Tile) (r x : Nat) : (setAreg t r x).buf = t.buf := by unfold setAreg; split <;> rfl
@[simp] theorem setAreg_lag (t : Tile) (r x : Nat) : (setAreg t r x).lag = t.lag := by unfold setAreg; split <;> rfl
@[simp] theorem setAreg_stalled (t : Tile) (r x : Nat) : (setAreg t r x).stalled = t.stalled := by unfold setAreg; split <;> rfl
@[simp] theorem setAreg_gath (t : Tile) (r x : Nat) : (setAreg t r x).gath = t.gath := by unfold setAreg; split <;> rfl
@[simp] theorem setAreg_stores (t : Tile) (r x : Nat) : (setAreg t r x).stores = t.stores := by unfold setAreg; split <;> rfl
@[simp] theorem setAreg_pop (t : Tile) (r x : Nat) : (setAreg t r x).pop = t.pop := by unfold setAreg; split <;> rfl

@[simp] theorem setSlotCtr_ti (t : Tile) (e x : Nat) : (setSlotCtr t e x).ti = t.ti := rfl
@[simp] theorem setSlotCtr_mask (t : Tile) (e x : Nat) : (setSlotCtr t e x).mask = t.mask := rfl
@[simp] theorem setSlotCtr_v (t : Tile) (e x : Nat) : (setSlotCtr t e x).v = t.v := rfl
@[simp] theorem setSlotCtr_p (t : Tile) (e x : Nat) : (setSlotCtr t e x).p = t.p := rfl
@[simp] theorem setSlotCtr_a (t : Tile) (e x : Nat) : (setSlotCtr t e x).a = t.a := rfl
@[simp] theorem setSlotCtr_slotTaint (t : Tile) (e x : Nat) : (setSlotCtr t e x).slotTaint = t.slotTaint := rfl
@[simp] theorem setSlotCtr_q (t : Tile) (e x : Nat) : (setSlotCtr t e x).q = t.q := rfl
@[simp] theorem setSlotCtr_arr (t : Tile) (e x : Nat) : (setSlotCtr t e x).arr = t.arr := rfl
@[simp] theorem setSlotCtr_buf (t : Tile) (e x : Nat) : (setSlotCtr t e x).buf = t.buf := rfl
@[simp] theorem setSlotCtr_lag (t : Tile) (e x : Nat) : (setSlotCtr t e x).lag = t.lag := rfl
@[simp] theorem setSlotCtr_stalled (t : Tile) (e x : Nat) : (setSlotCtr t e x).stalled = t.stalled := rfl
@[simp] theorem setSlotCtr_gath (t : Tile) (e x : Nat) : (setSlotCtr t e x).gath = t.gath := rfl
@[simp] theorem setSlotCtr_stores (t : Tile) (e x : Nat) : (setSlotCtr t e x).stores = t.stores := rfl
@[simp] theorem setSlotCtr_pop (t : Tile) (e x : Nat) : (setSlotCtr t e x).pop = t.pop := rfl

@[simp] theorem setQueue_ti (t : Tile) (q : Nat) (x : DQueue) : (setQueue t q x).ti = t.ti := rfl
@[simp] theorem setQueue_mask (t : Tile) (q : Nat) (x : DQueue) : (setQueue t q x).mask = t.mask := rfl
@[simp] theorem setQueue_v (t : Tile) (q : Nat) (x : DQueue) : (setQueue t q x).v = t.v := rfl
@[simp] theorem setQueue_p (t : Tile) (q : Nat) (x : DQueue) : (setQueue t q x).p = t.p := rfl
@[simp] theorem setQueue_a (t : Tile) (q : Nat) (x : DQueue) : (setQueue t q x).a = t.a := rfl
@[simp] theorem setQueue_slots (t : Tile) (q : Nat) (x : DQueue) : (setQueue t q x).slots = t.slots := rfl
@[simp] theorem setQueue_slotTaint (t : Tile) (q : Nat) (x : DQueue) : (setQueue t q x).slotTaint = t.slotTaint := rfl
@[simp] theorem setQueue_arr (t : Tile) (q : Nat) (x : DQueue) : (setQueue t q x).arr = t.arr := rfl
@[simp] theorem setQueue_buf (t : Tile) (q : Nat) (x : DQueue) : (setQueue t q x).buf = t.buf := rfl
@[simp] theorem setQueue_lag (t : Tile) (q : Nat) (x : DQueue) : (setQueue t q x).lag = t.lag := rfl
@[simp] theorem setQueue_stalled (t : Tile) (q : Nat) (x : DQueue) : (setQueue t q x).stalled = t.stalled := rfl
@[simp] theorem setQueue_gath (t : Tile) (q : Nat) (x : DQueue) : (setQueue t q x).gath = t.gath := rfl
@[simp] theorem setQueue_stores (t : Tile) (q : Nat) (x : DQueue) : (setQueue t q x).stores = t.stores := rfl
@[simp] theorem setQueue_pop (t : Tile) (q : Nat) (x : DQueue) : (setQueue t q x).pop = t.pop := rfl

@[simp] theorem vreg_setVreg_same (t : Tile) (r : Nat) (x : VReg) : vreg (setVreg t r x) r = x :=
  smGet_smSet_same _ _ _ _

theorem vreg_setVreg_ne (t : Tile) (x : VReg) {r y : Nat} (h : y ≠ r) : vreg (setVreg t r x) y = vreg t y :=
  smGet_smSet_ne _ _ _ h

@[simp] theorem preg_setVreg (t : Tile) (r : Nat) (x : VReg) (p : Nat) : preg (setVreg t r x) p = preg t p := rfl

@[simp] theorem areg_setVreg (t : Tile) (r : Nat) (x : VReg) (a : Nat) : areg (setVreg t r x) a = areg t a := rfl

@[simp] theorem preg_zero (t : Tile) : preg t 0 = ⟨ones64, false⟩ := rfl

/-- A predicate register reads as what was written, but for p0 (04 R92). -/
theorem preg_setPreg_same (t : Tile) {p : Nat} (x : PReg) (h : p ≠ 0) : preg (setPreg t p x) p = x := by
  simp [preg, setPreg, h]

theorem preg_setPreg_ne (t : Tile) (x : PReg) {p y : Nat} (h : y ≠ p) : preg (setPreg t p x) y = preg t y := by
  unfold preg setPreg
  by_cases hp : p = 0
  · simp [hp]
  · simp only [hp, if_false]
    split
    · rfl
    · exact smGet_smSet_ne _ _ _ h

@[simp] theorem areg_zero (t : Tile) : areg t 0 = 0 := rfl

/-- An address register reads as what was written modulo 2^16, but for a0 (04 R92). -/
theorem areg_setAreg_same (t : Tile) {a : Nat} (x : Nat) (h : a ≠ 0) : areg (setAreg t a x) a = x % 65536 := by
  simp [areg, setAreg, h]

theorem areg_setAreg_ne (t : Tile) (x : Nat) {a y : Nat} (h : y ≠ a) : areg (setAreg t a x) y = areg t y := by
  unfold areg setAreg
  by_cases ha : a = 0
  · simp [ha]
  · simp only [ha, if_false]
    split
    · rfl
    · exact smGet_smSet_ne _ _ _ h

@[simp] theorem slotCtr_setSlotCtr_same (t : Tile) (e x : Nat) : slotCtr (setSlotCtr t e x) e = x % 65536 :=
  smGet_smSet_same _ _ _ _

theorem slotCtr_setSlotCtr_ne (t : Tile) (x : Nat) {e y : Nat} (h : y ≠ e) :
    slotCtr (setSlotCtr t e x) y = slotCtr t y := smGet_smSet_ne _ _ _ h

@[simp] theorem queueAt_setQueue_same (t : Tile) (q : Nat) (x : DQueue) : queueAt (setQueue t q x) q = x :=
  smGet_smSet_same _ _ _ _

theorem queueAt_setQueue_ne (t : Tile) (x : DQueue) {q y : Nat} (h : y ≠ q) :
    queueAt (setQueue t q x) y = queueAt t y := smGet_smSet_ne _ _ _ h

end Sys2Proof.Laws
end

