-- ==== Sys2Proof/Laws/Errors.lean ====
section
/-! SUPPORT. What taking occurrences to the log can change, and what a command run on the chip answers
(14 R434 to R440). -/

namespace Sys2Proof.Laws

open Sys2Proof Sys2Proof.Machine

/-- Everything that reporting can change: the error log, the entries of chapter 9000h, the pending messages
and the pins. -/
structure Reports (c d : Chip) : Prop where
  rest : d = { c with err := d.err, regs := d.regs, host := d.host, out := d.out }
  entry : ∀ k, k < 0x900000 ∨ 0x901100 ≤ k → reg d k = reg c k
  host : d.host = { c.host with msixPend := d.host.msixPend }

theorem Reports.refl (c : Chip) : Reports c c := ⟨rfl, fun _ _ => rfl, rfl⟩

theorem Reports.trans {c d e : Chip} (h : Reports c d) (g : Reports d e) : Reports c e := by
  refine ⟨?_, fun k hk => (g.entry k hk).trans (h.entry k hk), ?_⟩
  · rw [g.rest, h.rest]
  · rw [g.host, h.host]

/-- An update of the error log alone. -/
theorem Reports.err (c : Chip) (e : Err) : Reports c { c with err := e } := ⟨rfl, fun _ _ => rfl, rfl⟩

/-- A write of an entry of chapter 9000h. -/
theorem Reports.setReg (c : Chip) {k : Nat} (v : Nat) (h : 0x900000 ≤ k ∧ k < 0x901100) :
    Reports c (Machine.setReg c k v) := by
  refine ⟨rfl, fun j hj => reg_setReg_ne c v ?_, rfl⟩
  rintro rfl
  omega

theorem fireMsix_reports (c : Chip) (v : Nat) : Reports c (fireMsix c v) := by
  unfold fireMsix
  split
  · exact ⟨rfl, fun _ _ => rfl, rfl⟩
  · exact ⟨rfl, fun _ _ => rfl, rfl⟩

theorem announceMsix_reports (c : Chip) (cls : Nat) : Reports c (announceMsix c cls) := by
  unfold announceMsix
  split
  · exact (Reports.err c _).trans (fireMsix_reports _ _)
  · exact Reports.refl c

theorem announceCan_reports (c : Chip) (r : Rec) : Reports c (announceCan c r) := by
  unfold announceCan
  split
  · split
    · exact Reports.err c _
    · exact Reports.setReg c _ (by decide)
  · exact Reports.refl c

theorem announce_reports (c : Chip) (r : Rec) : Reports c (announce c r) :=
  (announceMsix_reports c r.cls).trans (announceCan_reports _ r)

theorem countOcc_reports (c : Chip) {cls : Nat} (h : cls ≤ 7) : Reports c (countOcc c cls) := by
  have h1 : Reports c (addReg c (key 0x9002 (cls + 1)) 1) := Reports.setReg c _ (by unfold key; omega)
  exact h1.trans (Reports.err _ _)

theorem takeCap_reports (c : Chip) (r : Rec) (b : Bool) : Reports c (takeCap c r b) := by
  unfold takeCap
  split
  · exact Reports.err c _
  · exact Reports.refl c

theorem storeRec_reports (c : Chip) (r : Rec) (b : Bool) : Reports c (storeRec c r b) := by
  unfold storeRec
  split
  · exact ((Reports.err c _).trans (takeCap_reports _ _ b)).trans (announce_reports _ _)
  · exact ((Reports.err c _).trans (Reports.setReg _ _ (by decide))).trans (takeCap_reports _ r b)

theorem classOf_le (code : Nat) : classOf code ≤ 7 := by
  unfold classOf; split <;> omega

theorem occur_reports (c : Chip) (o : Occ) : Reports c (occur c o) := by
  refine (countOcc_reports c (classOf_le o.code)).trans ?_
  unfold occur
  simp only
  split
  · exact Reports.err _ _
  · exact (Reports.setReg _ _ (by decide)).trans (storeRec_reports _ _ _)

theorem foldl_occur_reports (l : List Occ) (c : Chip) : Reports c (l.foldl occur c) := by
  induction l generalizing c with
  | nil => exact Reports.refl c
  | cons o t ih => exact (occur_reports c o).trans (ih _)

/-- Everything that taking the occurrences of a command to the log can change. -/
theorem flush_reports (c : Chip) : Reports c (flush c) := by
  unfold flush
  split
  · exact Reports.refl c
  · exact (Reports.err c _).trans (foldl_occur_reports _ _)

/-- Where no occurrence waits the log stays as it is. -/
theorem flush_none {c : Chip} (h : c.err.pend = []) : flush c = c := by
  unfold flush
  rw [h]

/-! ## Everything but what reporting changes -/

section
variable {c d : Chip} (h : Reports c d)
include h

theorem Reports.power : d.power = c.power := by rw [h.rest]
theorem Reports.count : d.count = c.count := by rw [h.rest]
theorem Reports.shadow : d.shadow = c.shadow := by rw [h.rest]
theorem Reports.blobs : d.blobs = c.blobs := by rw [h.rest]
theorem Reports.commitCopy : d.commitCopy = c.commitCopy := by rw [h.rest]
theorem Reports.eng : d.eng = c.eng := by rw [h.rest]
theorem Reports.plan : d.plan = c.plan := by rw [h.rest]
theorem Reports.seqs : d.seqs = c.seqs := by rw [h.rest]
theorem Reports.tiles : d.tiles = c.tiles := by rw [h.rest]
theorem Reports.mem : d.mem = c.mem := by rw [h.rest]
theorem Reports.poison : d.poison = c.poison := by rw [h.rest]
theorem Reports.ecc : d.ecc = c.ecc := by rw [h.rest]
theorem Reports.wbDue : d.wbDue = c.wbDue := by rw [h.rest]
theorem Reports.late : d.late = c.late := by rw [h.rest]
theorem Reports.pools : d.pools = c.pools := by rw [h.rest]
theorem Reports.acc : d.acc = c.acc := by rw [h.rest]
theorem Reports.srv : d.srv = c.srv := by rw [h.rest]
theorem Reports.wts : d.wts = c.wts := by rw [h.rest]
theorem Reports.time : d.time = c.time := by rw [h.rest]
theorem Reports.ports : d.ports = c.ports := by rw [h.rest]
theorem Reports.fab : d.fab = c.fab := by rw [h.rest]
theorem Reports.det : d.det = c.det := by rw [h.rest]
theorem Reports.stew : d.stew = c.stew := by rw [h.rest]
theorem Reports.sec : d.sec = c.sec := by rw [h.rest]
theorem Reports.free : d.free = c.free := by rw [h.rest]

theorem Reports.tileAt (y : Nat) : Machine.tileAt d y = Machine.tileAt c y := by unfold Machine.tileAt; rw [h.tiles]
theorem Reports.portAt (y : Nat) : Machine.portAt d y = Machine.portAt c y := by unfold Machine.portAt; rw [h.ports]
theorem Reports.stewAt (y : Nat) : Machine.stewAt d y = Machine.stewAt c y := by unfold Machine.stewAt; rw [h.stew]
theorem Reports.seqAt (y : Nat) : Machine.seqAt d y = Machine.seqAt c y := by unfold Machine.seqAt; rw [h.seqs]

end

@[simp] theorem flush_power (c : Chip) : (flush c).power = c.power := (flush_reports c).power
@[simp] theorem flush_count (c : Chip) : (flush c).count = c.count := (flush_reports c).count
@[simp] theorem flush_shadow (c : Chip) : (flush c).shadow = c.shadow := (flush_reports c).shadow
@[simp] theorem flush_blobs (c : Chip) : (flush c).blobs = c.blobs := (flush_reports c).blobs
@[simp] theorem flush_commitCopy (c : Chip) : (flush c).commitCopy = c.commitCopy := (flush_reports c).commitCopy
@[simp] theorem flush_eng (c : Chip) : (flush c).eng = c.eng := (flush_reports c).eng
@[simp] theorem flush_plan (c : Chip) : (flush c).plan = c.plan := (flush_reports c).plan
@[simp] theorem flush_seqs (c : Chip) : (flush c).seqs = c.seqs := (flush_reports c).seqs
@[simp] theorem flush_tiles (c : Chip) : (flush c).tiles = c.tiles := (flush_reports c).tiles
@[simp] theorem flush_mem (c : Chip) : (flush c).mem = c.mem := (flush_reports c).mem
@[simp] theorem flush_poison (c : Chip) : (flush c).poison = c.poison := (flush_reports c).poison
@[simp] theorem flush_ecc (c : Chip) : (flush c).ecc = c.ecc := (flush_reports c).ecc
@[simp] theorem flush_wbDue (c : Chip) : (flush c).wbDue = c.wbDue := (flush_reports c).wbDue
@[simp] theorem flush_late (c : Chip) : (flush c).late = c.late := (flush_reports c).late
@[simp] theorem flush_pools (c : Chip) : (flush c).pools = c.pools := (flush_reports c).pools
@[simp] theorem flush_acc (c : Chip) : (flush c).acc = c.acc := (flush_reports c).acc
@[simp] theorem flush_srv (c : Chip) : (flush c).srv = c.srv := (flush_reports c).srv
@[simp] theorem flush_wts (c : Chip) : (flush c).wts = c.wts := (flush_reports c).wts
@[simp] theorem flush_time (c : Chip) : (flush c).time = c.time := (flush_reports c).time
@[simp] theorem flush_ports (c : Chip) : (flush c).ports = c.ports := (flush_reports c).ports
@[simp] theorem flush_fab (c : Chip) : (flush c).fab = c.fab := (flush_reports c).fab
@[simp] theorem flush_det (c : Chip) : (flush c).det = c.det := (flush_reports c).det
@[simp] theorem flush_stew (c : Chip) : (flush c).stew = c.stew := (flush_reports c).stew
@[simp] theorem flush_sec (c : Chip) : (flush c).sec = c.sec := (flush_reports c).sec
@[simp] theorem flush_free (c : Chip) : (flush c).free = c.free := (flush_reports c).free

@[simp] theorem flush_tileAt (c : Chip) (y : Nat) : tileAt (flush c) y = tileAt c y := (flush_reports c).tileAt y
@[simp] theorem flush_portAt (c : Chip) (y : Nat) : portAt (flush c) y = portAt c y := (flush_reports c).portAt y
@[simp] theorem flush_stewAt (c : Chip) (y : Nat) : stewAt (flush c) y = stewAt c y := (flush_reports c).stewAt y
@[simp] theorem flush_seqAt (c : Chip) (y : Nat) : seqAt (flush c) y = seqAt c y := (flush_reports c).seqAt y

/-- An entry outside chapter 9000h stays as it is when the log is written. -/
theorem flush_reg (c : Chip) {k : Nat} (h : k < 0x900000 ∨ 0x901100 ≤ k) : reg (flush c) k = reg c k :=
  (flush_reports c).entry k h

/-! ## No occurrence waits after a command -/

theorem fireMsix_err (c : Chip) (v : Nat) : (fireMsix c v).err = c.err := by
  unfold fireMsix; split <;> rfl

theorem announce_pend (c : Chip) (r : Rec) : (announce c r).err.pend = c.err.pend := by
  have h1 : (announceMsix c r.cls).err.pend = c.err.pend := by
    unfold announceMsix
    split
    · rw [fireMsix_err]
    · rfl
  have h2 : ∀ d : Chip, (announceCan d r).err.pend = d.err.pend := by
    intro d
    unfold announceCan
    split
    · split <;> rfl
    · rfl
  exact (h2 _).trans h1

theorem takeCap_pend (c : Chip) (r : Rec) (b : Bool) : (takeCap c r b).err.pend = c.err.pend := by
  unfold takeCap; split <;> rfl

theorem storeRec_pend (c : Chip) (r : Rec) (b : Bool) : (storeRec c r b).err.pend = c.err.pend := by
  unfold storeRec
  split
  · rw [announce_pend, takeCap_pend]
  · rw [takeCap_pend]; rfl

theorem occur_pend (c : Chip) (o : Occ) : (occur c o).err.pend = c.err.pend := by
  unfold occur
  simp only
  split
  · rfl
  · rw [storeRec_pend]; rfl

theorem foldl_occur_pend (l : List Occ) (c : Chip) : (l.foldl occur c).err.pend = c.err.pend := by
  induction l generalizing c with
  | nil => rfl
  | cons o t ih => exact (ih _).trans (occur_pend c o)

/-- The log has taken every occurrence. -/
@[simp] theorem flush_pend (c : Chip) : (flush c).err.pend = [] := by
  unfold flush
  split
  · assumption
  · rw [foldl_occur_pend]

/-! ## Commands on the chip -/

theorem onChip_eq (s : State) (f : Chip → Chip) : onChip s f = .next { s with chip := flush (f s.chip) } := rfl

/-- A command on a running module acts. -/
theorem onRunning_running {s : State} (f : Chip → Chip) (h : s.chip.power.phase = .running) :
    onRunning s f = .next { s with chip := flush (f s.chip) } := by
  simp [onRunning, h, onChip]

/-- A command on a module that does not run changes nothing. -/
theorem onRunning_idle {s : State} (f : Chip → Chip) (h : s.chip.power.phase ≠ .running) :
    onRunning s f = .next s := by
  simp [onRunning, h]

/-- A command that needs no firmware changes nothing, or acts on the chip. -/
theorem onPowered_cases (s : State) (f : Chip → Chip) :
    onPowered s f = .next s ∨ onPowered s f = .next { s with chip := flush (f s.chip) } := by
  by_cases h : s.chip.power.phase = .running ∨ s.chip.power.phase = .bootFailed
  · exact .inr (by simp [onPowered, h, onChip])
  · exact .inl (by simp [onPowered, h])

/-- Everything a command on the chip can do. -/
theorem onRunning_cases (s : State) (f : Chip → Chip) :
    onRunning s f = .next s ∨ onRunning s f = .next { s with chip := flush (f s.chip) } := by
  by_cases h : s.chip.power.phase = .running
  · exact .inr (onRunning_running f h)
  · exact .inl (onRunning_idle f h)

end Sys2Proof.Laws
end

