-- ==== Sys2Proof/Laws/Hash.lean ====
section
/-! SUPPORT. Laws of little-endian numbers and of the hash functions' lengths. -/

namespace Sys2Proof.Machine

@[simp] theorem length_leBytes (n : Nat) : ∀ x, (leBytes n x).length = n := by
  induction n with
  | zero => intro x; rfl
  | succ n ih => intro x; simp [leBytes, ih]

theorem leNat_leBytes (n : Nat) : ∀ x, leNat (leBytes n x) = x % 256 ^ n := by
  induction n with
  | zero => intro x; simp [leBytes, leNat, Nat.mod_one]
  | succ n ih =>
    intro x
    rw [leBytes, leNat, ih, BitVec.toNat_ofNat, Nat.pow_succ 256 n, Nat.mul_comm (256 ^ n) 256, Nat.mod_mul]

theorem length_keccakRound (a : List Nat) (rc : Nat) : (keccakRound a rc).length = 25 := by
  unfold keccakRound; dsimp only
  generalize hE : (List.range 25).map _ = e
  have h : e.length = 25 := by rw [← hE]; simp
  match e, h with
  | _ :: _, h => simpa using h

theorem length_foldl_keccak (l : List Nat) : ∀ a : List Nat, a.length = 25 → (l.foldl keccakRound a).length = 25 := by
  induction l with
  | nil => intro a h; exact h
  | cons x t ih => intro a _; exact ih _ (length_keccakRound a x)

theorem length_keccakAbsorb (rate n : Nat) : ∀ (bs : List Byte) (a : List Nat), a.length = 25 →
    (keccakAbsorb rate n bs a).length = 25 := by
  induction n with
  | zero => intro bs a h; exact h
  | succ n ih => intro bs a _; exact ih _ _ (length_foldl_keccak _ _ (by simp))

theorem length_flatMap_leBytes (a : List Nat) : (a.flatMap (leBytes 8)).length = 8 * a.length := by
  induction a with
  | nil => rfl
  | cons x t ih => simp [ih]; omega

theorem length_sha3 (n : Nat) (bs : List Byte) (h : n ≤ 200) : (sha3 n bs).length = n := by
  unfold sha3; dsimp only
  rw [List.length_take, length_flatMap_leBytes, length_keccakAbsorb _ _ _ _ (by simp)]
  omega

@[simp] theorem length_sha3_256 (bs : List Byte) : (sha3_256 bs).length = 32 := length_sha3 32 bs (by decide)

@[simp] theorem length_sha3_384 (bs : List Byte) : (sha3_384 bs).length = 48 := length_sha3 48 bs (by decide)

end Sys2Proof.Machine
end

