-- ==== Sys2Proof/Laws/Memory.lean ====
section
/-! SUPPORT. Laws of memory: a read after a write, and the canonical form that every operation keeps. -/

namespace Sys2Proof.Machine

open Sys2Proof.Laws

/-! ## Read after write -/

@[simp] theorem memByte_setByte_same (m : List Host.Cell) (a : Nat) (b : Byte) : memByte (setByte m a b) a = b :=
  smGet_smSet_same unlisted m a b

theorem memByte_setByte_ne (m : List Host.Cell) {a x : Nat} (b : Byte) (h : x ≠ a) :
    memByte (setByte m a b) x = memByte m x := smGet_smSet_ne unlisted m b h

theorem memByte_setBytes (l : List Byte) : ∀ (m : List Host.Cell) (a x : Nat),
    memByte (setBytes m a l) x = if a ≤ x ∧ x < a + l.length then l.getD (x - a) 0 else memByte m x := by
  induction l with
  | nil => intro m a x; simp [setBytes]
  | cons b t ih =>
    intro m a x
    simp only [setBytes, ih, List.length_cons]
    by_cases h0 : x = a
    · subst h0; simp
    · rw [memByte_setByte_ne m b h0]
      by_cases h1 : a + 1 ≤ x ∧ x < a + 1 + t.length
      · have h2 : a ≤ x ∧ x < a + (t.length + 1) := by omega
        rw [if_pos h1, if_pos h2]
        obtain ⟨k, hk⟩ : ∃ k, x - a = k + 1 := ⟨x - a - 1, by omega⟩
        have : x - (a + 1) = k := by omega
        rw [this, hk]; simp
      · have h2 : ¬(a ≤ x ∧ x < a + (t.length + 1)) := by omega
        rw [if_neg h1, if_neg h2]

theorem memByte_setBytes_out (m : List Host.Cell) {a x : Nat} (l : List Byte) (h : x < a ∨ a + l.length ≤ x) :
    memByte (setBytes m a l) x = memByte m x := by
  rw [memByte_setBytes, if_neg (by omega)]

@[simp] theorem length_memBytes (m : List Host.Cell) (n : Nat) : ∀ a, (memBytes m a n).length = n := by
  induction n with
  | zero => intro a; rfl
  | succ n ih => intro a; simp [memBytes, ih]

theorem memBytes_congr {m m' : List Host.Cell} (n : Nat) : ∀ a, (∀ x, a ≤ x → x < a + n → memByte m' x = memByte m x) →
    memBytes m' a n = memBytes m a n := by
  induction n with
  | zero => intro a _; rfl
  | succ n ih =>
    intro a h
    rw [memBytes, memBytes, h a (by omega) (by omega), ih (a + 1) (fun x h1 h2 => h x (by omega) (by omega))]

theorem memBytes_setBytes_same (l : List Byte) : ∀ (m : List Host.Cell) (a : Nat),
    memBytes (setBytes m a l) a l.length = l := by
  induction l with
  | nil => intro m a; rfl
  | cons b t ih =>
    intro m a
    simp only [setBytes, List.length_cons, memBytes, ih]
    rw [memByte_setBytes_out _ t (Or.inl (by omega)), memByte_setByte_same]

theorem memBytes_setBytes_out (m : List Host.Cell) {a x n : Nat} (l : List Byte) (h : x + n ≤ a ∨ a + l.length ≤ x) :
    memBytes (setBytes m a l) x n = memBytes m x n :=
  memBytes_congr n x (fun y h1 h2 => memByte_setBytes_out m l (by omega))

@[simp] theorem length_slice (b : List Byte) (o n : Nat) : (slice b o n).length = n := by
  simp [slice]

/-! ## The canonical form -/

theorem wf_setByte (m : List Host.Cell) (a : Nat) (b : Byte) (h : Memory.wf m = true) : Memory.wf (setByte m a b) = true :=
  smWf_smSet unlisted m a b h

theorem wf_setBytes (l : List Byte) : ∀ (m : List Host.Cell) (a : Nat), Memory.wf m = true →
    Memory.wf (setBytes m a l) = true := by
  induction l with
  | nil => intro m a h; exact h
  | cons b t ih => intro m a h; exact ih _ _ (wf_setByte m a b h)

theorem wf_filter (m : List Host.Cell) (p : Host.Cell → Bool) (h : Memory.wf m = true) : Memory.wf (m.filter p) = true :=
  smWf_filter unlisted m p h

@[simp] theorem storeGran_mem (c : Chip) (a : Nat) (d : List Byte) (p : Bool) :
    (storeGran c a d p).mem = setBytes c.mem a (slice d 0 64) := rfl

@[simp] theorem storeGran_poison (c : Chip) (a : Nat) (d : List Byte) (p : Bool) :
    (storeGran c a d p).poison = nsPut c.poison (a / 64) p := rfl

@[simp] theorem storeGran_err (c : Chip) (a : Nat) (d : List Byte) (p : Bool) : (storeGran c a d p).err = c.err := rfl

theorem spendInj_rest (c : Chip) (j : Inject) :
    spendInj c j = { c with regs := (spendInj c j).regs, err := (spendInj c j).err } := by
  unfold spendInj; split <;> rfl

theorem markInjected_rest (c : Chip) (a : Nat) (j : Inject) :
    markInjected c a j = { c with ecc := (markInjected c a j).ecc } := by
  unfold markInjected; split <;> (try split) <;> rfl

/-- A write that meets an injection stores what it writes: the injection touches the granule's mark and its own state
alone. -/
theorem injectWrite_rest (c : Chip) (a : Nat) : injectWrite c a =
    { c with ecc := (injectWrite c a).ecc, regs := (injectWrite c a).regs, err := (injectWrite c a).err } := by
  unfold injectWrite; split
  · next j _ => rw [markInjected_rest, spendInj_rest]
  · rfl

@[simp] theorem injectWrite_mem (c : Chip) (a : Nat) : (injectWrite c a).mem = c.mem := by rw [injectWrite_rest]

@[simp] theorem injectWrite_poison (c : Chip) (a : Nat) : (injectWrite c a).poison = c.poison := by rw [injectWrite_rest]

/-- Without an injection a write is a plain store. -/
theorem writeGran_calm {c : Chip} (a : Nat) (d : List Byte) (p : Bool) (h : c.err.inj = none) :
    writeGran c a d p = storeGran c a d p := by
  unfold writeGran injectWrite injFor; rw [storeGran_err, h]

theorem writeGran_mem (c : Chip) (a : Nat) (d : List Byte) (p : Bool) :
    (writeGran c a d p).mem = setBytes c.mem a (slice d 0 64) := by unfold writeGran; simp

theorem wf_writeGran (c : Chip) (a : Nat) (d : List Byte) (p : Bool) (h : Memory.wf c.mem = true) :
    Memory.wf (writeGran c a d p).mem = true := by rw [writeGran_mem]; exact wf_setBytes _ _ _ h

@[simp] theorem dropFlaw_mem (c : Chip) (x : Spot) : (dropFlaw c x).mem = c.mem := rfl

@[simp] theorem clearMark_mem (c : Chip) (g : Nat) : (clearMark c g).mem = c.mem := rfl

@[simp] theorem report_mem (b : Bool) (c : Chip) (k : Nat) (l : Loc) (w : When) (d : List Nat) :
    (reportI b c k l w d).mem = c.mem := rfl

@[simp] theorem addReg_mem (c : Chip) (k n : Nat) : (addReg c k n).mem = c.mem := rfl

@[simp] theorem readGran_mem (c : Chip) (a : Nat) (w : When) (x : Bool) : (readGran c a w x).1.mem = c.mem := by
  have hd : (onDieCheck c a w).mem = c.mem := by
    unfold onDieCheck; split
    · split <;> rfl
    · rfl
  unfold readGran; dsimp only
  by_cases h : markAt c (a / 64) = EccMark.none
  · rw [if_pos h]; exact hd
  · rw [if_neg h]; split <;> exact hd

@[simp] theorem refuseAccess_mem (c : Chip) (a w d : Nat) : (refuseAccess c a w d).mem = c.mem := rfl

@[simp] theorem bgRead_mem (f : Fuses) (c : Chip) (a w d : Nat) : (bgRead f c a w d).1.mem = c.mem := by
  unfold bgRead; dsimp only; split
  · split
    · exact readGran_mem c _ _ _
    · exact readGran_mem c _ _ _
  · rfl

theorem wf_writeBack (c : Chip) (g : Nat) (h : Memory.wf c.mem = true) : Memory.wf (writeBack c g).mem = true := by
  unfold writeBack; dsimp only; split
  · exact wf_setBytes _ _ _ h
  · exact h

theorem wf_writePart (c : Chip) (a : Nat) (d : List Byte) (en : Nat) (p : Bool) (h : Memory.wf c.mem = true) :
    Memory.wf (writePart c a d en p).mem = true := by
  unfold writePart; split
  · exact wf_writeGran c a d p h
  · have h' : Memory.wf (readGran c a .apart false).1.mem = true := by rw [readGran_mem]; exact h
    exact wf_writeGran _ _ _ _ h'

@[simp] theorem soilPage_mem (c : Chip) (rn page : Nat) : (soilPage c rn page).mem = c.mem := by
  unfold soilPage; dsimp only; split <;> rfl

@[simp] theorem soilFrame_mem (c : Chip) (a : Nat) : (soilFrame c a).mem = c.mem := by
  have fold : ∀ (l : List (Nat × Nat)) (c : Chip), (l.foldl (fun c x => soilPage c x.1 x.2) c).mem = c.mem := by
    intro l; induction l with
    | nil => intro c; rfl
    | cons x t ih => intro c; rw [List.foldl_cons, ih, soilPage_mem]
  unfold soilFrame; split
  · exact fold _ _
  · rfl

theorem wf_bgWrite (f : Fuses) (c : Chip) (a : Nat) (d : List Byte) (en : Nat) (p : Bool) (w x : Nat)
    (h : Memory.wf c.mem = true) : Memory.wf (bgWrite f c a d en p w x).mem = true := by
  unfold bgWrite; dsimp only; split
  · rw [soilFrame_mem]; exact wf_writePart _ _ _ _ _ h
  · exact h

theorem wf_bgWriteRun (f : Fuses) (w x n : Nat) (pz : Nat → Bool) : ∀ (c : Chip) (a : Nat) (d : List Byte),
    Memory.wf c.mem = true → Memory.wf (bgWriteRun f w x n c a d pz).mem = true := by
  induction n with
  | zero => intro c a d h; exact h
  | succ n ih =>
    intro c a d h
    unfold bgWriteRun; split
    · exact h
    · exact ih _ _ _ (wf_bgWrite _ _ _ _ _ _ _ _ h)

theorem wf_writeGranWords (c : Chip) (site g : Nat) (ws : List (Nat × TW)) (b : Bool) (l : List (Nat × Bool))
    (h : Memory.wf c.mem = true) : Memory.wf (writeGranWords c site g ws b l).mem = true := wf_setBytes _ _ _ h

theorem wf_foldl {β : Type} (f : Chip → β → Chip) (hf : ∀ c x, Memory.wf c.mem = true → Memory.wf (f c x).mem = true)
    (l : List β) : ∀ c : Chip, Memory.wf c.mem = true → Memory.wf (l.foldl f c).mem = true := by
  induction l with
  | nil => intro c h; exact h
  | cons x t ih => intro c h; exact ih _ (hf c x h)

theorem wf_writeWords (c : Chip) (site : Nat) (ws : List (Nat × TW)) (l : List Nat) (k : List (Nat × Bool))
    (h : Memory.wf c.mem = true) : Memory.wf (writeWords c site ws l k).mem = true :=
  wf_foldl _ (fun c g h => wf_writeGranWords c site g _ _ _ h) _ c h

theorem wf_clearOpc (c : Chip) (h : Memory.wf c.mem = true) : Memory.wf (clearOpc c).mem = true := wf_filter _ _ h

theorem wf_zeroSpan (c : Chip) (lo n : Nat) (h : Memory.wf c.mem = true) : Memory.wf (zeroSpan c lo n).mem = true :=
  wf_filter _ _ h

/-- Memory after reset lists nothing, in its form. -/
theorem wf_reset : Memory.wf State.reset.chip.mem = true := by decide

/-! ## Whole granules -/

theorem memBytes_writeGran (c : Chip) (a : Nat) (d : List Byte) (p : Bool) :
    memBytes (writeGran c a d p).mem a 64 = slice d 0 64 := by
  rw [writeGran_mem]
  have h := memBytes_setBytes_same (slice d 0 64) c.mem a
  rw [length_slice] at h; exact h

theorem memByte_writeGran_ne (c : Chip) {a x : Nat} (d : List Byte) (p : Bool) (h : x < a ∨ a + 64 ≤ x) :
    memByte (writeGran c a d p).mem x = memByte c.mem x := by
  rw [writeGran_mem]
  exact memByte_setBytes_out c.mem (slice d 0 64) (by rw [length_slice]; exact h)

@[simp] theorem granPoison_writeGran (c : Chip) (a : Nat) (d : List Byte) (p : Bool) :
    granPoison (writeGran c a d p) a = p := by
  unfold granPoison writeGran; rw [injectWrite_poison]; simp

/-- What a read of a granule without an error answers, no error having struck anywhere. -/
theorem readGran_clean {c : Chip} {a : Nat} (w : When) (x : Bool) (h : smGet EccMark.none c.ecc (a / 64) = EccMark.none)
    (hf : c.flaws = []) : readGran c a w x = (c, memBytes c.mem a 64, granPoison c a) := by
  have hd : onDieCheck c a w = c := by unfold onDieCheck; split <;> first | rfl | simp [flawAt, hf]
  unfold readGran
  simp [markAt, h, flawAt, hf, hd]

/-- A background access that reaches an unreachable granule is refused. -/
theorem bgRead_refused {f : Fuses} {c : Chip} {a : Nat} (w d : Nat) (h : reachable f c (a / 64 * 64) = false) :
    bgRead f c a w d = (refuseAccess c (a / 64 * 64) w d, List.replicate 64 0, true) := by
  unfold bgRead; simp [h]

end Sys2Proof.Machine
end

