-- ==== Sys2Proof/Laws/Tiles.lean ====
section
/-! SUPPORT. Laws of the tiles: what the writers of registers and predicate registers leave in each lane, and
what an instruction that acts on each issuing tile by itself does to the chip (04 R93 R98 R114). -/

namespace Sys2Proof.Laws

open Sys2Proof Sys2Proof.Machine

/-! ## Lanes and poison after a write -/

/-- A lane after lanes are written. -/
theorem lane_writeLanes (old : VReg) (f : Nat → Option TW) {l : Nat} (h : l < 64) :
    lane (writeLanes old f) l = match f l with
      | some w => w.1
      | none => lane old l := by
  simp only [lane, writeLanes, List.getD_eq_getElem?_getD, List.getElem?_map, List.getElem?_range h,
    Option.map_some, Option.getD_some]
  try (cases f l <;> rfl)

/-- A granule's poison after lanes are written. -/
theorem poison_writeLanes (old : VReg) (f : Nat → Option TW) {k : Nat} (h : k < 4) :
    (writeLanes old f).poison.getD k false = true ↔ ∃ l < 64, l / 16 = k ∧
      match f l with
      | some w => w.2 = true
      | none => old.poison.getD k false = true := by
  have e : (writeLanes old f).poison.getD k false =
      (List.range 16).any (fun i => match f (16 * k + i) with
        | some w => w.2
        | none => old.poison.getD k false) := by
    simp only [writeLanes, List.getD_eq_getElem?_getD, List.getElem?_map, List.getElem?_range h,
      Option.map_some, Option.getD_some]
    try exact congrArg _ (funext fun i => by cases f (16 * k + i) <;> rfl)
  rw [e, List.any_eq_true]
  constructor
  · rintro ⟨i, hi, hb⟩
    have hi := List.mem_range.mp hi
    refine ⟨16 * k + i, by omega, by omega, ?_⟩
    revert hb
    cases f (16 * k + i) <;> simp
  · rintro ⟨l, hl, rfl, hb⟩
    refine ⟨l % 16, List.mem_range.mpr (by omega), ?_⟩
    have : 16 * (l / 16) + l % 16 = l := by omega
    rw [this]
    revert hb
    cases f l <;> simp

/-- Every lane of a register that `writeVecUnder` writes. -/
theorem lane_writeVecUnder (b : Bool) (t : Tile) (g : Gov) (vd : Nat) (f : Nat → TW) {l : Nat} (h : l < 64) :
    lane (vreg (writeVecUnder b t g vd f) vd) l =
      if (preg t g.p.val).val.testBit l then (f l).1 else if g.zero then 0 else lane (vreg t vd) l := by
  unfold writeVecUnder
  simp only [vreg_setVreg_same]
  rw [lane_writeLanes _ _ h]
  by_cases h1 : (preg t g.p.val).val.testBit l = true <;> by_cases h2 : g.zero = true <;>
    by_cases h3 : ((preg t g.p.val).taint || b) = true <;> simp [h1, h2, h3]

/-- The poison of a register that `writeVecUnder` writes. -/
theorem poison_writeVecUnder (b : Bool) (t : Tile) (g : Gov) (vd : Nat) (f : Nat → TW) {k : Nat} (h : k < 4) :
    (vreg (writeVecUnder b t g vd f) vd).poison.getD k false = true ↔ ∃ l < 64, l / 16 = k ∧
      ((preg t g.p.val).taint = true ∨ b = true ∨
        if (preg t g.p.val).val.testBit l then (f l).2 = true
        else g.zero = false ∧ (vreg t vd).poison.getD k false = true) := by
  unfold writeVecUnder
  simp only [vreg_setVreg_same]
  rw [poison_writeLanes _ _ h]
  refine exists_congr fun l => and_congr_right fun _ => and_congr_right fun _ => ?_
  by_cases h1 : (preg t g.p.val).val.testBit l = true <;> by_cases h2 : g.zero = true <;>
    cases h3 : (preg t g.p.val).taint <;> cases b <;> simp [h1, h2]

theorem vreg_writeVecUnder_ne (b : Bool) (t : Tile) (g : Gov) (f : Nat → TW) {vd r : Nat} (h : r ≠ vd) :
    vreg (writeVecUnder b t g vd f) r = vreg t r := vreg_setVreg_ne _ _ h

/-- A register write leaves the rest of the tile. -/
theorem writeVecUnder_rest (b : Bool) (t : Tile) (g : Gov) (vd : Nat) (f : Nat → TW) :
    writeVecUnder b t g vd f = { t with v := (writeVecUnder b t g vd f).v } := rfl

/-! ## Predicate bits -/

theorem testBit_laneBits_aux (f : Nat → Bool) (n l : Nat) :
    ((List.range n).foldl (fun m l => if f l then m + 2 ^ l else m) 0).testBit l = (decide (l < n) && f l) ∧
      (List.range n).foldl (fun m l => if f l then m + 2 ^ l else m) 0 < 2 ^ n := by
  induction n generalizing l with
  | zero => simp
  | succ n ih =>
    rw [List.range_succ, List.foldl_append]
    generalize hs : (List.range n).foldl (fun m l => if f l then m + 2 ^ l else m) 0 = s at ih
    have hlt : s < 2 ^ n := (ih 0).2
    simp only [List.foldl_cons, List.foldl_nil]
    by_cases hf : f n = true
    · have hadd : s + 2 ^ n = 2 ^ n + s := Nat.add_comm _ _
      simp only [hf, if_true]
      constructor
      · rw [hadd]
        rcases Nat.lt_trichotomy l n with h | h | h
        · rw [Nat.testBit_two_pow_add_gt h, (ih l).1]
          simp [h, Nat.lt_succ_of_lt h]
        · subst h
          rw [Nat.testBit_two_pow_add_eq, (ih l).1]
          simp [hf]
        · have : 2 ^ n + s < 2 ^ l := by
            calc 2 ^ n + s < 2 ^ n + 2 ^ n := by omega
              _ = 2 ^ (n + 1) := by rw [Nat.pow_succ]; omega
              _ ≤ 2 ^ l := Nat.pow_le_pow_right (by decide) h
          rw [Nat.testBit_lt_two_pow this]
          simp; omega
      · rw [Nat.pow_succ]; omega
    · simp only [hf]
      constructor
      · simp only [Bool.false_eq_true, if_false]
        rw [(ih l).1]
        by_cases h : l = n
        · subst h; simp [hf]
        · have : l < n + 1 ↔ l < n := by omega
          simp [this]
      · simp only [Bool.false_eq_true, if_false]
        exact Nat.lt_of_lt_of_le hlt (Nat.pow_le_pow_right (by decide) (Nat.le_succ n))

/-- Bit l of the number that `laneBits` makes. -/
theorem testBit_laneBits (f : Nat → Bool) {l : Nat} (h : l < 64) : (laneBits f).testBit l = f l := by
  unfold laneBits
  rw [(testBit_laneBits_aux f 64 l).1]
  simp [h]

/-! ## Instructions that act on each tile by itself -/

/-- An effect on one tile that reads the entries and that tile alone, and changes that tile and the event bits
and counters of the step. -/
def ActsLocally (f : Chip → Nat → Chip) (h : SMap Nat → Tile → Tile) (e : SMap Nat → Tile → Acc → Acc) : Prop :=
  ∀ c site, f c site = { c with tiles := smSet Tile.reset c.tiles site (h c.regs (tileAt c site)),
                                acc := e c.regs (tileAt c site) c.acc }

variable {f : Chip → Nat → Chip} {h : SMap Nat → Tile → Tile} {e : SMap Nat → Tile → Acc → Acc}

theorem ActsLocally.tile_same (H : ActsLocally f h e) (c : Chip) (site : Nat) :
    tileAt (f c site) site = h c.regs (tileAt c site) := by
  rw [H]; exact smGet_smSet_same _ _ _ _

theorem ActsLocally.tile_ne (H : ActsLocally f h e) (c : Chip) {site y : Nat} (hy : y ≠ site) :
    tileAt (f c site) y = tileAt c y := by
  rw [H]; exact smGet_smSet_ne _ _ _ hy

theorem ActsLocally.rest (H : ActsLocally f h e) (c : Chip) (site : Nat) :
    f c site = { c with tiles := (f c site).tiles, acc := (f c site).acc } := by
  rw [H]

/-- What the fold over distinct tiles makes of the chip. -/
theorem ActsLocally.foldl (H : ActsLocally f h e) (l : List Nat) (hl : l.Nodup) (c : Chip) :
    (∀ y, tileAt (l.foldl f c) y = if y ∈ l then h c.regs (tileAt c y) else tileAt c y) ∧
      (l.foldl f c).acc = l.foldl (fun a site => e c.regs (tileAt c site) a) c.acc ∧
      l.foldl f c = { c with tiles := (l.foldl f c).tiles, acc := (l.foldl f c).acc } := by
  induction l generalizing c with
  | nil => simp
  | cons site t ih =>
    have hnd := List.nodup_cons.mp hl
    obtain ⟨h1, h2, h3⟩ := ih hnd.2 (f c site)
    have hregs : (f c site).regs = c.regs := by rw [H]
    refine ⟨?_, ?_, ?_⟩
    · intro y
      rw [List.foldl_cons, h1 y, hregs]
      by_cases hy : y = site
      · subst hy
        simp [hnd.1, H.tile_same]
      · rw [H.tile_ne c hy]
        simp [hy]
    · rw [List.foldl_cons, h2, hregs, List.foldl_cons]
      have : (f c site).acc = e c.regs (tileAt c site) c.acc := by rw [H]
      rw [this]
      refine List.foldl_ext _ _ _ (fun a y hy => ?_)
      have hne : y ≠ site := by rintro rfl; exact hnd.1 hy
      rw [H.tile_ne c hne]
    · rw [List.foldl_cons]
      conv_lhs => rw [h3]
      rw [H]

theorem dieSites_nodup (d : Nat) : (dieSites d).Nodup := by
  unfold dieSites
  exact List.Nodup.map (fun a b h => by simpa using h) List.nodup_range

theorem issueSites_nodup (c : Chip) (i : Issue) : (issueSites c i).Nodup := (dieSites_nodup _).filter _

/-- Where no error strikes and no injection is armed, an instruction in a tile has its effect and nothing else. -/
theorem tileIssue_calm {x : Instr} {c : Chip} {site : Nat} (h : c.flaws = []) (hf : (tileExec x c site).flaws = [])
    (hi : (tileExec x c site).err.inj = none) : tileIssue x c site = tileExec x c site := by
  unfold tileIssue checkLanes injFor
  simp [flawsOf, h, hf, hi]

/-- A tile that keeps pace and which nothing freezes issues what reaches it. -/
theorem arrive_ready {x : Instr} {c : Chip} {site : Nat} (h1 : (tileAt c site).lag = 0)
    (h2 : frozen c (tileAt c site) = false) : arrive x c site = tileIssue x c site := by
  unfold arrive
  simp [h1, h2]

/-- Where every tile of a list issues at once, what reaches the tiles is performed in each. -/
theorem foldl_arrive {x : Instr} (H : ActsLocally (tileExec x) h e)
    (l : List Nat) (hl : l.Nodup) (c : Chip) (hs : c.flaws = []) (hi : c.err.inj = none)
    (hr : ∀ y ∈ l, (tileAt c y).lag = 0 ∧ frozen c (tileAt c y) = false) :
    l.foldl (arrive x) c = l.foldl (tileExec x) c := by
  induction l generalizing c with
  | nil => rfl
  | cons site t ih =>
    have hnd := List.nodup_cons.mp hl
    obtain ⟨hb, hf⟩ := hr site (List.mem_cons_self ..)
    have hflaws : (tileExec x c site).flaws = [] := by rw [H]; exact hs
    have hinj : (tileExec x c site).err.inj = none := by rw [H]; exact hi
    rw [List.foldl_cons, List.foldl_cons, arrive_ready hb hf, tileIssue_calm hs hflaws hinj]
    refine ih hnd.2 _ hflaws hinj (fun y hy => ?_)
    have hne : y ≠ site := by rintro rfl; exact hnd.1 hy
    have hregs : (tileExec x c site).regs = c.regs := by rw [H]
    have hplan : (tileExec x c site).plan = c.plan := by rw [H]
    rw [H.tile_ne c hne]
    refine ⟨(hr y (List.mem_cons_of_mem _ hy)).1, ?_⟩
    rw [← (hr y (List.mem_cons_of_mem _ hy)).2]
    simp [frozen, elastic, reg, hregs, starvedOf, arrNeeds, arrClock, hplan]

/-! ## The issue of an instruction -/

/-- The sequencer notes an issue in its own state alone. -/
theorem noteIssue_rest (c : Chip) (i : Issue) (exe : Bool) (x : Instr) :
    noteIssue c i exe x = { c with seqs := (noteIssue c i exe x).seqs } := rfl

/-- An instruction that issues in the present cycle has its effect after the sequencer's note. -/
theorem issueWith_now {s : State} {i : Issue} {exe : Bool} {x : Instr} (f : Chip → Chip) (hwf : x.wf = true)
    (hrun : s.chip.power.phase = .running) (hm : mayIssue s.chip i.die.val exe = true)
    (hnow : s.chip.plan.cyc0 + countCycle s.chip ≤ s.chip.plan.cyc)
    (hdue : issueCycle s.chip i exe x ≤ s.chip.plan.cyc) (hin : s.chip.plan.cyc < stepEnd s.chip)
    (hs : s.chip.flaws = []) :
    issueWith s i exe x f = .next { s with chip := flush (f (noteIssue s.chip i exe x)) } := by
  have hpass : passed s.chip = s.chip := by
    unfold passed
    split
    · rw [Nat.sub_eq_zero_of_le (Nat.le_trans (Nat.min_le_left _ _) hnow)]; rfl
    · rfl
  have hwait : awaitIssue i exe x (stepEnd s.chip - s.chip.plan.cyc) s.chip = s.chip := by
    obtain ⟨n, hn⟩ : ∃ n, stepEnd s.chip - s.chip.plan.cyc = n + 1 := ⟨stepEnd s.chip - s.chip.plan.cyc - 1, by omega⟩
    rw [hn]
    unfold awaitIssue
    simp [hdue]
  unfold issueWith
  simp only [hwf, if_true]
  rw [onRunning_running _ hrun]
  simp only [hpass, hm, if_true, hwait]
  rw [if_pos ⟨hdue, hin⟩]
  simp [fetchWord, flawsOf, controlCheck, flawAt, hs]

/-- Everything an execute instruction that acts on each tile by itself does, where every issuing tile is
ready. -/
theorem issueX_local {x : Instr} {s : State} {i : Issue} (H : ActsLocally (tileExec x) h e) (hwf : x.wf = true)
    (hrun : s.chip.power.phase = .running) (hp : s.chip.err.pend = []) (hm : mayIssue s.chip i.die.val true = true)
    (hnow : s.chip.plan.cyc0 + countCycle s.chip ≤ s.chip.plan.cyc)
    (hdue : issueCycle s.chip i true x ≤ s.chip.plan.cyc) (hin : s.chip.plan.cyc < stepEnd s.chip)
    (hs : s.chip.flaws = []) (hi : s.chip.err.inj = none)
    (hr : ∀ y ∈ issueSites s.chip i, (tileAt s.chip y).lag = 0 ∧ frozen s.chip (tileAt s.chip y) = false) :
    ∃ t, issueX s i x = .next t ∧
      t = { s with chip := { s.chip with seqs := (noteIssue s.chip i true x).seqs, tiles := t.chip.tiles,
                                         acc := t.chip.acc } } ∧
      (∀ y, tileAt t.chip y =
        if y ∈ issueSites s.chip i then h s.chip.regs (tileAt s.chip y) else tileAt s.chip y) ∧
      t.chip.acc = (issueSites s.chip i).foldl (fun a y => e s.chip.regs (tileAt s.chip y) a) s.chip.acc := by
  have hf := foldl_arrive H (issueSites s.chip i) (issueSites_nodup _ _) (noteIssue s.chip i true x) hs hi hr
  obtain ⟨h1, h2, h3⟩ := H.foldl (issueSites s.chip i) (issueSites_nodup _ _) (noteIssue s.chip i true x)
  refine ⟨{ s with chip := (issueSites s.chip i).foldl (tileExec x) (noteIssue s.chip i true x) }, ?_, ?_, h1, h2⟩
  · unfold issueX
    rw [issueWith_now _ hwf hrun hm hnow hdue hin hs]
    have hsites : issueSites (noteIssue s.chip i true x) i = issueSites s.chip i := rfl
    unfold onSites
    rw [hsites, hf, flush_none]
    rw [h3]; exact hp
  · conv_lhs => rw [h3]
    rfl

end Sys2Proof.Laws
end

