-- ==== Sys2Proof/Tests/States.lean ====
section
/-! SUPPORT. Small states for the tests and witnesses. -/

namespace Sys2Proof.Tests

open Sys2Proof Sys2Proof.Machine Sys2Proof.Claims

/-- A plan of one tile a die, steps of 4,096 ticks, two variants. -/
def im : PlanImage :=
  { hash := [], hdr := ⟨2048, 2, 0, 1, 0, 1, 0, 0, 0⟩, tmasks := [], regions := [], coaches := [], slotVersion := 3,
    slots := [], tag := 0, devIds := [], weights := [], code := [], data := [], entry := 0, init := [], stream := [], progs := [] }

/-- A state with another chip. -/
def withChip (f : Chip → Chip) : State := { State.reset with chip := f Chip.reset }

/-- A plan in a state of its run. -/
def planIn (st : PlanState) (c : Chip) : Chip :=
  { c with plan := { c.plan with state := st, image := some im }, regs := [(key 0x2010 4, 2048)] }

/-- Logical tile 0 at site 0. -/
def tile0 : Tile := { Tile.reset with ti := 0, mask := 1 }

/-- A running plan with a tile at site 0. -/
def playWith (t : Tile) : State := withChip (fun c => { planIn .running c with tiles := [(0, t)] })

/-- The same with an empty tile. -/
def play : State := playWith tile0

/-- An issue on die 0 under mask bit 0. -/
def is0 : Issue := ⟨0, 0, 0, 0, 0, 0, 0⟩

/-- Every lane active, merge mode. -/
def g0 : Gov := ⟨0, false⟩

/-- A constant line address. -/
def atLine (n : Int) : LineAddr := ⟨n, 0, 0, 0, 0, 0, none⟩

/-- What holds at the only site that issues holds at all of them. -/
theorem onlySite {c : Chip} {i : Issue} {P : Nat → Prop} (n : Nat) (h : issueSites c i = [n]) (hp : P n) :
    ∀ site ∈ issueSites c i, P site := by
  intro site hs; rw [h] at hs; simp at hs; subst hs; exact hp

theorem sites_one {c : Chip} {t : Tile} (hc : c.tiles = [(0, t)]) (h : (t.ti != 0xFFFF && t.mask.testBit 0) = true) :
    issueSites c is0 = [0] := by
  have hz : ∀ n, n ≠ 0 → tileAt c n = Tile.reset := by
    intro n hn; simp [tileAt, hc, smGet, Ne.symm hn]
  have h0 : tileAt c 0 = t := by simp [tileAt, hc, smGet]
  have hp : ∀ n, siteIssues c is0 n = decide (n = 0) := by
    intro n
    by_cases hn : n = 0
    · subst hn; rw [siteIssues, h0]; exact h
    · rw [siteIssues, hz n hn]; simp [Tile.reset, hn]
  have he : issueSites c is0 = (dieSites 0).filter (fun n => decide (n = 0)) := by
    rw [issueSites]; exact congrArg (fun f => (dieSites 0).filter f) (funext hp)
  rw [he]; decide

theorem quiet_play (t : Tile) : Quiet (playWith t) := ⟨rfl, rfl, rfl⟩

theorem now_play : play.chip.plan.cyc0 + countCycle play.chip ≤ play.chip.plan.cyc := by decide +kernel

theorem inStep_play : play.chip.plan.cyc < stepEnd play.chip := by decide +kernel

/-- An instruction that nothing holds in cycle 0 issues in it. -/
theorem issues_play (t : Tile) {exe : Bool} {x : Instr} (h : heldTo play.chip 0 exe x = 0 := by decide)
    (w : x.wf = true := by rfl) : Issues (playWith t) is0 exe x :=
  { wf := w, quiet := quiet_play t, may := by cases exe <;> rfl, now := now_play,
    due := by
      have h' : heldTo (playWith t).chip 0 exe x = 0 := h
      have e : eligible (playWith t).chip is0 exe = 0 := by cases exe <;> rfl
      change max (eligible (playWith t).chip is0 exe) (heldTo (playWith t).chip 0 exe x) ≤ 0
      rw [h', e]; decide
    inStep := inStep_play, calm := rfl }

theorem sites_play (t : Tile) (h : (t.ti != 0xFFFF && t.mask.testBit 0) = true) :
    issueSites (playWith t).chip is0 = [0] := sites_one rfl h

/-- A plan with a region of two lines in HBM, and a coach of one carriage from this module to itself over port 5. -/
def im1 : PlanImage :=
  { im with regions := [⟨0, 0, 0, 0, false, false, 128, 0⟩], coaches := [⟨0, 0, 0, 0, 0, 1, 1, 1, [0]⟩],
            slots := [⟨0, 1, false, false, 1, 0, 0, 0⟩] }

/-- Its placement. -/
def pl1 : Place := ⟨0, [0, 1], [⟨0, 0, 0, none, 0, 0⟩], [], [(0, 1, 5)], []⟩

/-- That plan running, with logical tile 0 at site 0. -/
def placed : State :=
  { play with chip := { play.chip with plan := { play.chip.plan with image := some im1, place := some pl1 } } }

theorem sites_placed : issueSites placed.chip is0 = [0] := sites_one rfl rfl

end Sys2Proof.Tests
end

