-- ==== Sys2Proof/Tests/Slice0.lean ====
section
/-! SUPPORT. Tests: ill-formed commands are refused, and single steps against the spec's tables and worked
examples. Expected values come from the spec or from hand calculation by its rules. -/

namespace Sys2Proof.Tests

-- One proof at a time: together they ask for more threads than the memory limit has room for.
set_option Elab.async false

open Sys2Proof Sys2Proof.Machine

/-! ## Operands that break a bound of the spec -/

theorem test_wf_mpre_format : (Instr.mpre is0 .fp32 0 none).wf = false := by decide
theorem test_wf_mpre_pair : (Instr.mpre is0 .int8 1 none).wf = false := by decide
theorem test_wf_mpre_scale : (Instr.mpre is0 .bf16 0 (some 2)).wf = false := by decide
theorem test_wf_mstr_format : (Instr.mstr is0 .ternary (.one 0) none 0 1 true false false).wf = false := by decide
theorem test_wf_mstr_int32 : (Instr.mstr is0 .int32 (.one 0) none 0 1 true false false).wf = false := by decide
theorem test_wf_mstr_pair : (Instr.mstr is0 .int8 (.pair 3) none 0 1 true false false).wf = false := by decide
theorem test_wf_mstr_scale : (Instr.mstr is0 .fp16 (.one 0) (some 1) 0 1 true false false).wf = false := by decide
theorem test_wf_mstr_none : (Instr.mstr is0 .int8 (.one 0) none 0 0 true false false).wf = false := by decide
theorem test_wf_mstr_many : (Instr.mstr is0 .int8 (.one 0) none 0 257 true false false).wf = false := by decide
theorem test_wf_vrmaxi : (Instr.vrmaxi is0 g0 3 1).wf = false := by decide
theorem test_wf_vqnt_offset : (Instr.vqnt is0 g0 1 2 3 .e2m3 .computed 240).wf = false := by decide
theorem test_wf_vqnt_scale : (Instr.vqnt is0 g0 1 2 3 .bf16 .given 0).wf = false := by decide
theorem test_wf_vqnt_format : (Instr.vqnt is0 g0 1 2 3 .int32 .unscaled 0).wf = false := by decide
theorem test_wf_vdq_offset : (Instr.vdq is0 g0 1 2 3 .int8 true 32).wf = false := by decide
theorem test_wf_vdq_scale : (Instr.vdq is0 g0 1 2 3 .fp16 true 0).wf = false := by decide
theorem test_wf_vgath : (Instr.vgath is0 g0 1 2 0 3).wf = false := by decide
theorem test_wf_vscat : (Instr.vscat is0 g0 1 2 0 128).wf = false := by decide
theorem test_wf_vslot : (Instr.vslot is0 g0 1 1 2 0).wf = false ∧ (Instr.vslot is0 g0 1 1 2 257).wf = false := by decide
theorem test_wf_tqp : (Instr.tqp is0 1 (atLine 0) 1).wf = false := by decide
theorem test_wf_counts : ([.tql is0 0 (atLine 0) 0, .qts is0 (atLine 0) 0 4097, .ocfl is0 (atLine 0) (atLine 0) 0,
    .ocwb is0 (atLine 0) (atLine 0) 4097, .oczr is0 (atLine 0) 0, .mld is0 (atLine 0) (.region 0) (atLine 0) 4097 [],
    .mst is0 (.region 0) (atLine 0) (atLine 0) 0 [], .mvt is0 (.abs 0) (atLine 0) (atLine 0) 0,
    .mrx is0 (.abs 0) (atLine 0) 4097, .swr is0 (atLine 0) (atLine 0) 0, .tqp is0 0 (atLine 0) 0] : List Instr).map
      Instr.wf = List.replicate 11 false := by decide

/-- What an ill-formed command meets. -/
theorem test_refused_vrmaxi : exec (.vrmaxi is0 g0 3 1) play = .refused .illFormed := rfl
theorem test_refused_tql : exec (.tql is0 0 (atLine 0) 0) play = .refused .illFormed := rfl
theorem test_refused_mpre : exec (.mpre is0 .fp32 0 none) play = .refused .illFormed := rfl

/-- The table gives no bits (05 R149). -/
theorem test_decode_none : decodeTableWord 32 0xFFFFFFFF = none := rfl

/-! ## Vector operations -/

/-- The chip after a command that answers a next state. -/
def run (x : Instr) (s : State) : Option Chip := match exec x s with
  | .next t => some t.chip
  | _ => none

/-- A tile whose registers hold values from lane 0 on. -/
def holdsV (l : SMap (List Word)) : Tile := { tile0 with v := l.map (fun x => (x.1, ⟨x.2, []⟩)) }

/-- The first n lanes of a register after a command. -/
def lanesOf (n r : Nat) (x : Instr) (t : Tile) : Option (List Word) :=
  (run x (playWith t)).map (fun c => (List.range n).map (lane (vreg (tileAt c 0) r)))

/-- Registers 2 and 3. -/
def two (a b : List Word) : Tile := holdsV [(2, a), (3, b)]

-- R98, and R97 under the saturate policy: 1 + 2 = 3; infinity − infinity; the largest finite value doubled.
theorem test_vadd : lanesOf 3 1 (.vadd is0 g0 1 2 ⟨3, false⟩)
    (two [0x3F800000, 0x7F800000, 0x7F7FFFFF] [0x40000000, 0xFF800000, 0x7F7FFFFF]) =
      some [0x40400000, 0x7FC00000, 0x7F7FFFFF] := by decide +kernel
theorem test_vsub_broadcast : lanesOf 2 1 (.vsub is0 g0 1 2 ⟨3, true⟩) (two [0x40400000, 0x3F800000] [0x3F800000, 0x40400000]) =
    some [0x40000000, 0x00000000] := by decide +kernel
theorem test_vmul_subnormal : lanesOf 2 1 (.vmul is0 g0 1 2 ⟨3, false⟩) (two [0x00000001, 0xC0000000] [0x3F000000, 0x40400000]) =
    some [0x00000000, 0xC0C00000] := by decide +kernel
-- One rounding: (1 + 2^-23)² − (1 + 2^-22) = 2^-46.
theorem test_vfma : lanesOf 2 1 (.vfma is0 g0 1 2 ⟨2, false⟩ ⟨3, false⟩) (two [0x3F800001, 0x7F800000] [0xBF800002, 0x3F800000]) =
    some [0x28800000, 0x7F800000] := by decide +kernel
theorem test_vmin_zeros : lanesOf 2 1 (.vmin is0 g0 1 2 ⟨3, false⟩) (two [0x00000000, 0x7FC00001] [0x80000000, 0x3F800000]) =
    some [0x80000000, 0x7FC00000] := by decide +kernel
theorem test_vmax_zeros : lanesOf 2 1 (.vmax is0 g0 1 2 ⟨3, false⟩) (two [0x80000000, 0xBF800000] [0x00000000, 0xC0000000]) =
    some [0x00000000, 0xBF800000] := by decide +kernel
theorem test_vabs_vneg : lanesOf 2 1 (.vabs is0 g0 1 2) (two [0xBF800000, 0xFFC00001] []) = some [0x3F800000, 0x7FC00000] ∧
    lanesOf 2 1 (.vneg is0 g0 1 2) (two [0x00000000, 0xFFC00001] []) = some [0x80000000, 0x7FC00000] := by
  constructor <;> decide +kernel
-- −0 equals +0; a NaN makes only NE true.
theorem test_vcmp : (run (.vcmp is0 g0 .eq 1 2 ⟨3, false⟩) (playWith (two [0x80000000, 0x7FC00000, 1] []))).map
    (fun c => (preg (tileAt c 0) 1).val % 8) = some 1 ∧
    (run (.vcmp is0 g0 .ne 1 2 ⟨3, false⟩) (playWith (two [0x80000000, 0x7FC00000, 1] []))).map
      (fun c => (preg (tileAt c 0) 1).val % 8) = some 6 := by constructor <;> decide +kernel
-- R99: 64 ones sum to 64.
theorem test_vrsum : lanesOf 1 1 (.vrsum is0 g0 1 2) (two (List.replicate 64 0x3F800000) []) = some [0x42800000] := by decide +kernel
-- The highest value stands first in lane 2; its index goes to register vd + 1.
theorem test_vrmaxi : lanesOf 1 4 (.vrmaxi is0 g0 4 2) (two [0, 0xBF800000, 0x3F800000, 0x3F800000] []) = some [0x3F800000] ∧
    lanesOf 1 5 (.vrmaxi is0 g0 4 2) (two [0, 0xBF800000, 0x3F800000, 0x3F800000] []) = some [2] := by
  constructor <;> decide +kernel
-- R101, and 1/3 to nearest.
theorem test_vdiv : lanesOf 4 1 (.vdiv is0 g0 1 2 3) (two [0x3F800000, 0xBF800000, 0, 0x7F800000] [0x40400000, 0, 0, 0x40000000]) =
    some [0x3EAAAAAB, 0xFF800000, 0x7FC00000, 0x7F800000] := by decide +kernel
theorem test_vrcp : lanesOf 3 1 (.vrcp is0 g0 1 2) (two [0x80000000, 0x00000001, 0x40800000] []) =
    some [0xFF800000, 0x7F7FFFFF, 0x3E800000] := by decide +kernel
theorem test_vrsq : lanesOf 4 1 (.vrsq is0 g0 1 2) (two [0x40800000, 0x80000000, 0xBF800000, 0x40000000] []) =
    some [0x3F000000, 0xFF800000, 0x7FC00000, 0x3F3504F3] := by decide +kernel
theorem test_vexp2_vlog2 : lanesOf 3 1 (.vexp2 is0 g0 1 2) (two [0xFF800000, 0x80000000, 0x43000000] []) =
    some [0, 0x3F800000, 0x7F7FFFFF] ∧
    lanesOf 3 1 (.vlog2 is0 g0 1 2) (two [0x3F800000, 0x80000000, 0xBF800000] []) = some [0, 0xFF800000, 0x7FC00000] := by
  constructor <;> decide +kernel
-- R102.
theorem test_iadd_wraps : lanesOf 1 1 (.iadd is0 g0 1 2 3) (two [0xFFFFFFFF] [2]) = some [1] := by decide +kernel
theorem test_iadds : lanesOf 2 1 (.iadds is0 g0 1 2 3) (two [0x7FFFFFFF, 0x80000000] [1, 0xFFFFFFFF]) =
    some [0x7FFFFFFF, 0x80000000] := by decide +kernel
theorem test_isubs : lanesOf 1 1 (.isubs is0 g0 1 2 3) (two [0x80000000] [1]) = some [0x80000000] := by decide +kernel
theorem test_imulh : lanesOf 1 1 (.imulh is0 g0 true 1 2 3) (two [0xFFFFFFFF] [0xFFFFFFFF]) = some [0xFFFFFFFE] ∧
    lanesOf 1 1 (.imulh is0 g0 false 1 2 3) (two [0xFFFFFFFF] [0xFFFFFFFF]) = some [0] := by constructor <;> decide +kernel
theorem test_imin_signed : lanesOf 1 1 (.imin is0 g0 false 1 2 3) (two [0xFFFFFFFF] [1]) = some [0xFFFFFFFF] ∧
    lanesOf 1 1 (.imin is0 g0 true 1 2 3) (two [0xFFFFFFFF] [1]) = some [1] := by constructor <;> decide +kernel
theorem test_vsra : lanesOf 1 1 (.vsra is0 g0 1 2 3) (two [0x80000000] [4]) = some [0xF8000000] := by decide +kernel
theorem test_vmovi_lanes : lanesOf 2 1 (.vmovi is0 g0 1 0x1234) tile0 = some [0x1234, 0x1234] ∧
    lanesOf 3 1 (.vlane is0 g0 1) tile0 = some [0, 1, 2] := by constructor <;> decide +kernel
theorem test_vcvt : lanesOf 2 1 (.vcvt is0 g0 .toInt .rtz 1 2) (two [0xC0200000, 0x7F000000] []) = some [0xFFFFFFFE, 0x7FFFFFFF] ∧
    lanesOf 1 1 (.vcvt is0 g0 .fromInt .rne 1 2) (two [0xFFFFFFFF] []) = some [0xBF800000] := by constructor <;> decide +kernel
theorem test_vrnd : lanesOf 3 1 (.vrnd is0 g0 .rne 1 2) (two [0x40200000, 0x40600000, 0xBF000000] []) =
    some [0x40000000, 0x40800000, 0x80000000] := by decide +kernel

/-- The worked example of 02: a block of 13.0, −2.7, 0.9, 20.5, 5.1, −0.3, 0.14, NaN and zeros. -/
def block : Tile := two [0x41500000, 0xC02CCCCD, 0x3F666666, 0x41A40000, 0x40A33333, 0xBE99999A, 0x3E0F5C29, 0x7FC00000] []

-- Bytes 95h 70h 83h 00h at offset 32, which is lane 8; scale code 81h.
theorem test_vqnt_e2m1 : lanesOf 9 1 (.vqnt is0 g0 1 2 3 .e2m1 .computed 32) block =
    some [0, 0, 0, 0, 0, 0, 0, 0, 0x00837095] := by decide +kernel
theorem test_vqnt_code : lanesOf 1 3 (.vqnt is0 g0 1 2 3 .e2m1 .computed 32) block = some [0x81] := by decide +kernel
-- The same table read backwards: 12, −2, 0, 24, 6, −0, 0, 0.
theorem test_vdq_e2m1 : lanesOf 8 1 (.vdq is0 g0 1 2 3 .e2m1 true 0) (two [0x00837095] [0x81, 0x7F]) =
    some [0x41400000, 0xC0000000, 0, 0x41C00000, 0x40C00000, 0x80000000, 0, 0] := by decide +kernel

/-- The worked example of 04 R110: capacity 3, counters 2, 5, 17 and 40; lane 6 and the lanes from 10 on inactive. -/
def experts : Tile :=
  { two [5, 40, 17, 5, 2, 5, 40, 40, 300] [] with p := [(1, ⟨0x1BF, false⟩)], slots := [(2, 2), (5, 1), (17, 3)] }

theorem test_vslot : lanesOf 9 4 (.vslot is0 ⟨1, false⟩ 4 2 2 3) { experts with v := experts.v ++ [(4, ⟨List.replicate 64 7, []⟩)] } =
    some [1, 0, 0xFFFFFFFF, 2, 2, 0xFFFFFFFF, 7, 1, 0xFFFFFFFF] := by decide +kernel

theorem test_vslot_counters : (run (.vslot is0 ⟨1, false⟩ 4 2 2 3) (playWith experts)).map (fun c =>
    ([2, 5, 17, 40].map (smGet 0 (tileAt c 0).slots), (preg (tileAt c 0) 2).val)) = some ([3, 3, 3, 2], 0x9B) := by decide +kernel

/-! ## Worked examples of the other chapters -/

/-- What a chip shows of a command. -/
def shows {α : Type} (x : Instr) (s : State) (f : Chip → α) : Option α := (run x s).map f

/-- A module with changes. -/
def chipWith (f : Chip → Chip) : State := withChip f

-- 06 R180: die 1 of a QZ7-176 with sites 5, 17, 31 and 40 disabled and Tpd = 40: logical tiles 40, 45, 49, 50, 70 and 79.
theorem test_placer : [40, 45, 49, 50, 70, 79].map (fun n =>
      (placeTiles { Fuses.reset with maps := [0xFFFFFFFFFFFF, 0xFEFF7FFDFFDF, 0xFFFFFFFFFFFF, 0xFFFFFFFFFFFF] } 40).getD n 0) =
    [48 + 0, 48 + 6, 48 + 10, 48 + 12, 48 + 36, 48 + 46] := by decide +kernel

-- 07: line 1,000 of region 7, striped over stacks 4 and 5 in quarter 1 at C0000000h.
theorem test_bind : bindAddr ⟨7, 0, 4, some 5, 1, 0xC0000000⟩ 1000 = 0x69C0007A00 := by decide

/-- A module with a device ID and its default routes. -/
def device (d : Nat) : Chip := (chipWith (fun c => fillRoutes (setReg c (key 0x1020 1) d) d)).chip

-- 12 R387: from module 134Ah to (83, 7, 3).
theorem test_route : [(2, 52, 10), (83, 52, 5), (83, 52, 10), (83, 7, 5), (83, 7, 3)].map (fun (g, n, l) =>
      routeOf (device (2048 * g + 16 * n + l)) 0 (2048 * 83 + 16 * 7 + 3)) =
    [.port 23, .port 4, .port 17, .port 13, .deliver] := by decide +kernel

/-- Module 134Ah of 15: straps 10, 1010h:01 in force 3. -/
def node58 : State :=
  chipWith (fun c => { c with power := { c.power with straps := 10 }, eng := { c.eng with canId := 3 } })

/-- The write of 64 to 4020h:02. -/
def frame4020 : List Byte := [0x02, 0x11, 0x20, 0x40, 0x02, 0x00, 0x02, 0x00, 0x40, 0x00] ++ List.replicate 54 0

-- 15: identifier 63Ah; the shadow takes 64, the value in force stays 32, and 2000h:03 reads 1.
theorem test_can_write : shows (.canRequestFrame 0x63A frame4020) node58 (fun c =>
    (shadowOf c (key 0x4020 2), reg c (key 0x4020 2), shadowsDiffering c)) = some (64, 32, 1) := by decide +kernel
theorem test_can_answer : shows (.canRequestFrame 0x63A frame4020) node58 (fun c => c.eng.canResp.map (·.take 8)) =
    some (some [0x02, 0x11, 0x20, 0x40, 0x02, 0x00, 0x00, 0x00]) := by decide +kernel
theorem test_can_other : shows (.canRequestFrame 0x63B frame4020) node58 (fun c =>
    (shadowOf c (key 0x4020 2), c.eng.canResp)) = some (32, none) := by decide +kernel

/-- An unowned time root whose launch is at 1,000,000. -/
def rootArmed : State :=
  chipWith (fun c => { c with
    plan := { c.plan with state := .armed, image := some { im with hdr := ⟨20834, 2, 0, 1, 0, 1, 0, 0, 0⟩ } },
    regs := [(key 0x1020 1, 7), (key 0x2010 4, 20834), (key 0x8010 1, 7), (key 0x8030 1, 1000000)] })

-- 10: the root sends at L − E = 983,616; step 0 begins at 1,000,000, step 1 at 1,041,668 (01 R22).
theorem test_launch_emit : shows .launchEmit rootArmed (·.count) = some 983616 := by decide +kernel
theorem test_launch_start : shows .launchStart { rootArmed with chip := { rootArmed.chip with
      regs := (key 0x8030 4, 2) :: rootArmed.chip.regs } } (fun c =>
    (c.count, c.plan.state, c.plan.step)) = some (1000000, .running, 0) := by decide +kernel

-- 14: classes of a residue mismatch, a corrected HBM error and an uncorrectable tile-store line.
theorem test_classes : [0x0101, 0x0301, 0x0202].map classOf = [4, 1, 4] := by decide

-- 15 R467: a missing entry, a read-only entry, a wrong length, a value out of range.
theorem test_write_codes : [writeCode Fuses.reset Chip.reset 0x9FFF 1 [0], writeCode Fuses.reset Chip.reset 0x2040 1 [0],
    writeCode Fuses.reset Chip.reset 0x4020 2 [0], writeCode Fuses.reset Chip.reset 0x4020 1 [200]] =
      [0x02000001, 0x02000002, 0x02000004, 0x04000001] := by decide +kernel

-- 18 R521, R526.
theorem test_reset_short : exec (.resetAssert 999) State.reset = .next State.reset := rfl
theorem test_reset_pulse : exec (.resetAssert 1000) State.reset = .refused .resetPulse := rfl

/-! ## Published values of the functions that the spec takes over -/

-- FIPS 202: the digests of the empty string. RFC 3720: CRC-32C of 123456789.
theorem test_sha3_256 : (sha3_256 []).take 8 = [0xa7, 0xff, 0xc6, 0xf8, 0xbf, 0x1e, 0xd7, 0x66] := by decide +kernel
theorem test_sha3_384 : (sha3_384 []).take 8 = [0x0c, 0x63, 0xa7, 0x5b, 0x84, 0x5e, 0x4f, 0x7d] := by decide +kernel
theorem test_crc32c : crc32c [0x31, 0x32, 0x33, 0x34, 0x35, 0x36, 0x37, 0x38, 0x39] = 0xE3069283 := by decide +kernel

end Sys2Proof.Tests
end

