-- ==== Sys2Proof/Tests/Witness1.lean ====
section
/-! SUPPORT. Witnesses: for each obligation about tiles and streams, states and operands that meet its hypotheses. -/

namespace Sys2Proof.Tests

-- One proof at a time: together they ask for more threads than the memory limit has room for.
set_option Elab.async false

open Sys2Proof Sys2Proof.Machine Sys2Proof.Claims

theorem ready_play {t : Tile} (h : (t.ti != 0xFFFF && t.mask.testBit 0) = true) (hb : t.lag = 0) :
    AllReady (playWith t) is0 :=
  onlySite 0 (sites_play t h) ⟨hb, rfl⟩

/-- What `Vec`, `Completes` and the execute statements ask of a state: in the first cycle of a step every instruction of
the execute stream may issue. -/
theorem witness_vector (x : Instr) (h : heldTo play.chip 0 true x = 0) (w : x.wf = true) :
    Issues play is0 true x ∧ AllReady play is0 :=
  ⟨issues_play _ h w, ready_play rfl rfl⟩

/-- The bounds that the vector and array statements ask of operands. -/
theorem witness_operands :
    (Instr.iadd is0 g0 1 2 3).wf = true ∧ (Instr.vmovi is0 g0 1 7).wf = true ∧ (Instr.vsel is0 g0 1 2 ⟨3, false⟩ 4).wf = true ∧
    (Instr.vperm is0 g0 1 2 3).wf = true ∧ (Instr.vadd is0 g0 1 2 ⟨3, true⟩).wf = true ∧ (Instr.vcmp is0 g0 .lt 1 2 ⟨3, true⟩).wf = true ∧
    (Instr.pand is0 g0 1 2 3).wf = true ∧ (Instr.amov is0 g0 1 5).wf = true ∧ (Instr.vcvt is0 g0 .toInt .rtz 1 2).wf = true ∧
    (Instr.vdq is0 g0 1 2 3 .int4 true 224).wf = true ∧ (Instr.vqnt is0 g0 1 2 3 .int8 .computed 192).wf = true ∧
    (Instr.vgath is0 g0 1 2 1 1).wf = true ∧ (Instr.vscat is0 g0 1 2 1 64).wf = true ∧ (Instr.vslot is0 g0 1 1 2 256).wf = true ∧
    (Instr.mpre is0 .e4m3 0 (some 2)).wf = true ∧ (Instr.mdrn is0 255 1 2 true).wf = true ∧ (Instr.vslset is0 g0 1 3).wf = true := by
  decide

theorem witness_SelectAndPermute : Issues play is0 true (.vsel is0 g0 1 2 ⟨3, false⟩ 4) ∧ AllReady play is0 ∧
    (Instr.vsel is0 g0 1 2 ⟨3, false⟩ 4).wf = true ∧ (Instr.vperm is0 g0 1 2 3).wf = true :=
  ⟨issues_play _, ready_play rfl rfl, rfl, rfl⟩

theorem witness_FpElementwise : Issues play is0 true (.vfma is0 g0 1 2 ⟨3, true⟩ ⟨4, false⟩) ∧ AllReady play is0 ∧ (Instr.vadd is0 g0 1 2 ⟨3, true⟩).wf = true ∧
    (Instr.vfma is0 g0 1 2 ⟨3, true⟩ ⟨4, false⟩).wf = true := ⟨issues_play _, ready_play rfl rfl, rfl, rfl⟩

theorem witness_IntegerAndBitwise : Issues play is0 true (.iadd is0 g0 1 2 3) ∧ AllReady play is0 ∧ (Instr.iadd is0 g0 1 2 3).wf = true ∧
    (Instr.vpcnt is0 g0 1 0).wf = true := ⟨issues_play _, ready_play rfl rfl, rfl, rfl⟩

theorem witness_PredicateResults : Issues play is0 true (.vcmp is0 g0 .lt 0 2 ⟨3, true⟩) ∧ AllReady play is0 ∧
    (Instr.vcmp is0 g0 .lt 0 2 ⟨3, true⟩).wf = true ∧ (Instr.pand is0 g0 0 2 3).wf = true :=
  ⟨issues_play _, ready_play rfl rfl, rfl, rfl⟩

theorem witness_AddressRegisters : Issues play is0 true (.amov is0 g0 0 0xFFFF) ∧ AllReady play is0 ∧ (Instr.amov is0 g0 0 0xFFFF).wf = true :=
  ⟨issues_play _, ready_play rfl rfl, rfl⟩

theorem witness_Conversions : Issues play is0 true (.vdq is0 g0 1 2 3 .int4 true 224) ∧ AllReady play is0 ∧
    (Instr.vdq is0 g0 1 2 3 .int4 true 224).wf = true ∧ (Instr.vcvt is0 g0 .toInt .rtz 1 2).wf = true :=
  ⟨issues_play _, ready_play rfl rfl, rfl, rfl⟩

theorem witness_RoundsToNearest : finite 0x3F800000 ∧ finite (fadd true 0x3F800000 0xBF800000).1 ∧
    finite (fmul false 0x00000001 0x3F800000).1 :=
  ⟨⟨_, _, _, rfl⟩, ⟨false, 0, -149, by decide +kernel⟩, ⟨false, 1, -149, by decide +kernel⟩⟩

theorem witness_SpecialInputs : isNaN32 0xFFC00001 = true ∧
    ((0x80000001 : Word).msb = true ∧ isNaN32 0x80000001 = false ∧ (0x80000001 : Word) ≠ 0x80000000) ∧
    (finite 0x43000000 ∧ 128 ≤ ratOf 0x43000000) ∧ (finite 0xC3160000 ∧ ratOf 0xC3160000 ≤ -150) ∧
    (finite 0x00200000 ∧ ratOf 0x00200000 ≠ 0 ∧ |ratOf 0x00200000| ≤ (2 : ℚ) ^ (-128 : ℤ)) := by
  have h1 : f32 0x43000000 = .fin false 8388608 (-16) := by decide +kernel
  have h2 : f32 0xC3160000 = .fin true 9830400 (-16) := by decide +kernel
  have h3 : f32 0x00200000 = .fin false 2097152 (-149) := by decide +kernel
  refine ⟨by decide, by decide, ⟨⟨_, _, _, h1⟩, ?_⟩, ⟨⟨_, _, _, h2⟩, ?_⟩, ⟨⟨_, _, _, h3⟩, ?_, ?_⟩⟩
  · rw [ratOf, h1]; norm_num
  · rw [ratOf, h2]; norm_num
  · rw [ratOf, h3]; norm_num
  · rw [ratOf, h3]; norm_num

theorem witness_Reductions : Issues play is0 true (.vrmaxi is0 g0 62 1) ∧ AllReady play is0 ∧ (62 : Fin 64).val % 2 = 0 ∧ (63 : Fin 64).val % 2 = 1 :=
  ⟨issues_play _, ready_play rfl rfl, rfl, rfl⟩

theorem witness_QuantizePacks : Issues play is0 true (.vqnt is0 g0 1 2 3 .int8 .computed 192) ∧ AllReady play is0 ∧
    (Instr.vqnt is0 g0 1 2 3 .int8 .computed 192).wf = true ∧ (Instr.vqnt is0 g0 1 2 1 .int8 .computed 0).wf = true ∧
    (Instr.vqnt is0 g0 1 2 3 .fp16 .unscaled 128).wf = true :=
  ⟨issues_play _, ready_play rfl rfl, rfl, rfl, rfl⟩

theorem clean_play (t : Tile) (site : Nat) : CacheClean (playWith t).chip site := fun _ _ => rfl

theorem witness_CacheLoads : Issues play is0 true (.vld is0 g0 1 1 0xFFFF) ∧ AllReady play is0 ∧ ∀ site ∈ issueSites play.chip is0, CacheClean play.chip site :=
  ⟨issues_play _, ready_play rfl rfl, fun site _ => clean_play tile0 site⟩

/-- All lanes of register 2 name word 0. -/
theorem indexed_zero (l : Nat) : indexed tile0 1 2 l = 0 := by
  simp [indexed, tile0, Tile.reset, areg, vreg, lane, smGet, VReg.zero]

theorem asks_zero : asks tile0 g0 1 2 0 0 := ⟨by decide, rfl, by rw [indexed_zero]; rfl⟩

theorem served_zero (b : Nat) (hb : 0 < b) {l w : Nat} (h : asks tile0 g0 1 2 l w) : servedIn tile0 g0 1 2 b w := by
  have hw : w = 0 := by have := h.2.2; rw [indexed_zero] at this; simp [wordAt] at this; exact this.symm
  subst hw
  refine ⟨0, asks_zero, fun k hk => absurd hk (by omega), ?_⟩
  have : {w' : Nat | w' % 64 = 0 % 64 ∧ w' ≠ 0 ∧ ∃ k < 0, asks tile0 g0 1 2 k w'} = ∅ := by
    ext x; simp
  rw [this]; simpa using hb

/-- A tile of which every lane is served leaves no lane unserved. -/
theorem unserved_zero (b : Nat) (hb : 0 < b) : unservedLanes tile0 g0 1 2 b = 0 := by
  have h : {l : Nat | ∃ w, asks tile0 g0 1 2 l w ∧ ¬servedIn tile0 g0 1 2 b w} = ∅ := by
    ext l
    constructor
    · rintro ⟨w, hw, hn⟩; exact hn (served_zero b hb hw)
    · intro h; exact h.elim
  rw [unservedLanes, h]; simp

theorem unservedSites_play (b : Nat) (hb : 0 < b) : unservedSites play is0 g0 1 2 b = [] := by
  have hs : issueSites play.chip is0 = [0] := sites_play tile0 rfl
  have hu : unservedLanes (tileAt play.chip 0) g0 1 2 b = 0 := unserved_zero b hb
  rw [unservedSites, hs, List.filter_cons, hu]; rfl

/-- A gather in which every lane is served, with the least and the greatest bound. -/
theorem witness_GatherServes : Issues play is0 true (.vgath is0 g0 1 2 1 1) ∧ AllReady play is0 ∧
    (∀ site ∈ issueSites play.chip is0, CacheClean play.chip site) ∧
    (∀ site ∈ issueSites play.chip is0, (tileAt play.chip site).gath = none) ∧ (Instr.vgath is0 g0 1 2 1 1).wf = true ∧
    (Instr.vgath is0 g0 1 2 1 64).wf = true ∧ unservedSites play is0 g0 1 2 1 = [] ∧
    ∀ site ∈ issueSites play.chip is0, ∀ l w, asks (tileAt play.chip site) g0 1 2 l w →
      servedIn (tileAt play.chip site) g0 1 2 1 w :=
  ⟨issues_play _, ready_play rfl rfl, fun site _ => clean_play tile0 site, onlySite 0 (sites_play tile0 rfl) rfl, rfl, rfl,
    unservedSites_play 1 (by decide), onlySite 0 (sites_play tile0 rfl) (fun _ _ h => served_zero 1 (by decide) h)⟩

/-- Lanes 0 and 1 of register 2 name words 0 and 64, which share a bank. -/
def tileB : Tile := { tile0 with v := [(2, ⟨[0, 64], []⟩)] }

/-- A lane that one round leaves unserved. -/
theorem witness_GatherServes_unserved : Issues (playWith tileB) is0 true (.vgath is0 g0 1 2 1 1) ∧
    Issues (playWith tileB) is0 true (.vscat is0 g0 1 2 1 1) ∧ AllReady (playWith tileB) is0 ∧
    (tileAt (playWith tileB).chip 0).gath = none ∧ (tileAt (playWith tileB).chip 0).stores = [] ∧ asks tileB g0 1 2 1 64 ∧ ¬servedIn tileB g0 1 2 1 64 := by
  have h0 : asks tileB g0 1 2 0 0 := ⟨by decide, by decide, by decide⟩
  have h1 : asks tileB g0 1 2 1 64 := ⟨by decide, by decide, by decide⟩
  refine ⟨issues_play _, issues_play _, ready_play rfl rfl, rfl, rfl, h1, ?_⟩
  rintro ⟨l, hl, hk, hc⟩
  have hl1 : l = 1 := by
    by_contra hne
    have hlt : l < 64 := hl.1
    have hall : ∀ m < 64, m ≠ 1 → wordAt (indexed tileB 1 2 m) ≠ some 64 := by decide +kernel
    exact hall l hlt hne hl.2.2
  subst hl1
  have hs : {w' : Nat | w' % 64 = 64 % 64 ∧ w' ≠ 64 ∧ ∃ k < 1, asks tileB g0 1 2 k w'} = {0} := by
    ext x
    constructor
    · rintro ⟨-, -, k, hk1, ha⟩
      have hk0 : k = 0 := by omega
      subst hk0
      have := ha.2.2
      have h2 : wordAt (indexed tileB 1 2 0) = some 0 := by decide
      rw [h2] at this; simpa using this.symm
    · rintro rfl; exact ⟨by decide, by decide, 0, by decide, h0⟩
  rw [hs] at hc; simp at hc

theorem witness_CacheStores : Issues play is0 true (.vscat is0 g0 1 2 1 1) ∧ Issues play is0 true (.vst is0 g0 1 1 0xFFFF) ∧
    AllReady play is0 ∧ (∀ site ∈ issueSites play.chip is0, (tileAt play.chip site).stores = []) ∧
    (Instr.vscat is0 g0 1 2 1 1).wf = true ∧ unservedSites play is0 g0 1 2 1 = [] ∧
    (∀ w l, lastWriter tile0 g0 (fun l => wordAt (contiguous tile0 1 0xFFFF + l)) w l → l < 64) ∧
    lastWriter tile0 g0 (fun l => wordAt (contiguous tile0 1 0xFFFF + l)) 62 63 :=
  ⟨issues_play _, issues_play _, ready_play rfl rfl, onlySite 0 (sites_play tile0 rfl) rfl, rfl, unservedSites_play 1 (by decide),
    fun _ _ h => h.1, by decide, by decide, by decide, fun k h1 h2 => absurd h2 (by omega)⟩

/-- A tile whose queue 3 holds n entries from tag p on, written long ago. -/
def tileQ (n p : Nat) : Tile :=
  { tile0 with q := [(3, ⟨(List.range n).map (fun k => ⟨(p + k) % 65536, 0, [], false⟩), (p + n) % 65536, p⟩)] }

theorem witness_QueueAccess : Issues play is0 true (.vpop is0 g0 1 3) ∧ Issues play is0 true (.vpush is0 g0 1 3) ∧
    AllReady play is0 ∧ (Instr.vpush is0 g0 1 3).wf = true :=
  ⟨issues_play _, issues_play _, ready_play rfl rfl, rfl⟩

/-- A VPOP in its last cycle, and the module in cycle 2. -/
def popping (n : Nat) : Chip :=
  { play.chip with plan := { play.chip.plan with cyc := 2 },
                   tiles := [(0, { tileQ n 65535 with pop := some ⟨⟨2 ^ 64 - 1, false⟩, false, 1, 3, 3⟩ })] }

theorem witness_QueueAccess_pop : ∃ p, (tileAt (popping 1) 0).pop = some p ∧ p.i < 4 ∧
    ∃ e rest, (queueAt (tileAt (popping 1) 0) p.q).entries = e :: rest ∧
      e.tag = (queueAt (tileAt (popping 1) 0) p.q).pop ∧ e.wrote + 2 ≤ (popping 1).plan.cyc :=
  ⟨_, rfl, by decide, _, _, rfl, rfl, by decide⟩

/-- The same of an empty queue for which the tile has stalled. -/
def poppingStalled : Chip := { popping 0 with tiles := [(0, { tileAt (popping 0) 0 with stalled := [3] })] }

theorem witness_QueueAccess_empty : (∃ p, (tileAt (popping 0) 0).pop = some p ∧ p.i < 4 ∧
      (queueAt (tileAt (popping 0) 0) p.q).entries = [] ∧ p.q ∉ (tileAt (popping 0) 0).stalled) ∧
    ∃ p, (tileAt poppingStalled 0).pop = some p ∧ p.i < 4 ∧ (queueAt (tileAt poppingStalled 0) p.q).entries = [] ∧
      p.q ∈ (tileAt poppingStalled 0).stalled := ⟨⟨_, rfl, by decide, rfl, by decide⟩, _, rfl, by decide, rfl, by decide⟩

theorem witness_Slotting : Issues play is0 true (.vslot is0 g0 1 1 2 256) ∧ AllReady play is0 ∧ (Instr.vslot is0 g0 1 1 2 1).wf = true ∧
    (Instr.vslot is0 g0 1 1 2 256).wf = true := ⟨issues_play _, ready_play rfl rfl, rfl, rfl⟩

theorem witness_ArrayPorts : Issues play is0 true (.mdrn is0 255 1 2 true) ∧ Issues play is0 true (.mskl is0 1) ∧
    Issues play is0 true (.mpre is0 .e4m3 0 (some 2)) ∧ Issues play is0 true (.mstr is0 .int8 (.pair 2) none 0 256 true true true) ∧
    AllReady play is0 ∧ (Instr.mdrn is0 255 1 2 true).wf = true ∧ (Instr.mskl is0 1).wf = true ∧
    (Instr.mpre is0 .e4m3 0 (some 2)).wf = true ∧ (Instr.mstr is0 .int8 (.pair 2) none 0 256 true true true).wf = true ∧
    ∀ site ∈ issueSites play.chip is0, Settled (tileAt play.chip site).arr 255 :=
  ⟨issues_play _, issues_play _, issues_play _, issues_play _, ready_play rfl rfl, rfl, rfl, rfl, rfl,
    onlySite 0 (sites_play tile0 rfl) (fun op h => by cases h)⟩

theorem witness_AccumulatorTiming : Arr.reset.ops = [] ∧ (127 < 128 ∧ 0 < 4 ∧ 4 < 0 + 5 ∧ 4 + 138 ≤ 142) ∧
    (0 < 5 ∧ ¬5 < 0 + 5 ∧ 5 + 138 ≤ 143) ∧ Settled Arr.reset 255 ∧ 0 + 1 < 2 :=
  ⟨rfl, by decide, by decide, fun op h => (by cases h), by decide⟩

/-- An MSTR of two vectors of queue 3 to entry 255. -/
def mstr0 (f : Fmt) (fresh swap mask : Bool) : MStr := ⟨f, .one 3, none, 255, 2, fresh, swap, mask, 2, 0, [], []⟩

/-- A tile with weights in a format, one vector in queue 3 and the MSTR that takes it. -/
def tileM (w f : Fmt) (fresh swap mask : Bool) (m : Nat) : Tile := { tileQ 1 65535 with
  arr := { Arr.reset with active := { WTile.none with fmt := some w }, shadow := { WTile.none with fmt := some w }, mask := m,
                          str := [.mstr (mstr0 f fresh swap mask)] } }

/-- The module in cycle 2 with that tile. -/
def at2 (t : Tile) : Chip := { play.chip with plan := { play.chip.plan with cyc := 2 }, tiles := [(0, t)] }

/-- The module in cycle 2 with a vector of E4M3 on INT8 weights. -/
def streaming : Chip := at2 (tileM .int8 .e4m3 true false false 0)

/-- The entry of queue 3. -/
def entry3 : DEntry := ⟨65535, 0, [], false⟩

theorem presents (w f : Fmt) (fresh swap mask : Bool) (m : Nat) (hd : dataQueues (mstr0 f fresh swap mask) 2 = [3])
    (hw : vecWhole { mstr0 f fresh swap mask with got := [some entry3] } 2 = true) :
    Presents (at2 (tileM w f fresh swap mask m)) 0 (mstr0 f fresh swap mask) [] [entry3] [] :=
  { sound := rfl, calm := rfl, still := rfl, head := rfl, due := (by change 2 + 0 * vecCycles f ≤ 2; omega),
    given := by
      change Given 2 _ (dataQueues (mstr0 f fresh swap mask) 2 ++ []) _
      rw [hd]
      exact ⟨[], rfl, rfl, (by decide), trivial⟩
    split := by change 1 = (dataQueues (mstr0 f fresh swap mask) 2).length; rw [hd]; rfl
    whole := hw, found := fun x hx => by cases hx }

/-- Vectors of an 8-bit, a 4-bit and a 6-bit format, fresh and not, one that swaps, and one that the mask lets through. -/
theorem witness_StreamVectors :
    (Presents (at2 (tileM .int8 .e4m3 true false false 0)) 0 (mstr0 .e4m3 true false false) [] [entry3] [] ∧
      pairing (some .int8) .e4m3 (.one 3) = true) ∧
    (Presents (at2 (tileM .int4 .int4 false true false 0)) 0 (mstr0 .int4 false true false) [] [entry3] [] ∧
      pairing (some .int4) .int4 (.one 3) = true ∧ swapsNow (mstr0 .int4 false true false) ∧ ¬swapsNow (mstr0 .int4 false false false)) ∧
    (Presents (at2 (tileM .e2m3 .e2m3 false false true 1)) 0 (mstr0 .e2m3 false false true) [] [entry3] [] ∧
      pairing (some .e2m3) .e2m3 (.one 3) = true ∧
      (tileAt (at2 (tileM .e2m3 .e2m3 false false true 1)) 0).arr.mask.testBit 0 = true) :=
  ⟨⟨presents _ _ _ _ _ _ rfl rfl, rfl⟩, ⟨presents _ _ _ _ _ _ rfl rfl, rfl, ⟨rfl, rfl, rfl, rfl⟩, fun h => by cases h.1⟩,
    presents _ _ _ _ _ _ rfl rfl, rfl, by decide⟩

/-- A vector of a 16-bit format whose first half came in the cycle before, on weights of the other 16-bit format. -/
theorem witness_StreamVectors_wide : ∃ (c : Chip) (m : MStr), m.f = .bf16 ∧ m.got = [some entry3] ∧
    Presents c 0 m [] [entry3] [] ∧ (tileAt c 0).arr.active.fmt = some .fp16 ∧ pairing (some .fp16) m.f m.qa = true :=
  ⟨at2 { tileQ 1 65535 with arr := { Arr.reset with
      active := { WTile.none with fmt := some .fp16 }, str := [.mstr ⟨.bf16, .one 3, none, 255, 2, true, false, false, 1, 0, [some entry3], []⟩] } }, _, rfl, rfl,
    { sound := rfl, calm := rfl, still := rfl, head := rfl, due := (by decide),
      given := ⟨[], rfl, rfl, by decide, trivial⟩, split := rfl, whole := rfl,
      found := fun x hx => by simp at hx; subst hx; rfl }, rfl, rfl⟩

/-- A vector that the mask leaves out, and one whose queue is empty. -/
theorem witness_StreamBubbles :
    (Presents (at2 (tileM .int8 .e4m3 true false true 2)) 0 (mstr0 .e4m3 true false true) [] [entry3] [] ∧
      (tileAt (at2 (tileM .int8 .e4m3 true false true 2)) 0).arr.mask.testBit 0 = false) ∧
    ∃ c : Chip, c.flaws = [] ∧ c.err.inj = none ∧ (tileAt c 0).arr.ops = [] ∧
      (tileAt c 0).arr.str = [.mstr (mstr0 .e4m3 true false false)] ∧ presentAt (mstr0 .e4m3 true false false) ≤ c.plan.cyc - (tileAt c 0).lag ∧
      fmtWidth (mstr0 .e4m3 true false false).f = 8 ∧ (tileAt c 0).stalled = [] ∧ (queueAt (tileAt c 0) 3).entries = [] :=
  ⟨⟨presents _ _ _ _ _ _ rfl rfl, by decide⟩, at2 { tileM .int8 .e4m3 true false false 0 with q := [] },
    rfl, rfl, rfl, rfl, by decide, rfl, rfl, rfl⟩

/-- A tile with a preload of 8-bit rows without scales from queues 3 and 4. -/
def tileP (rows : List (Option DEntry)) (q : SMap DQueue) : Tile :=
  { tile0 with q := q, arr := { Arr.reset with pre := [⟨.e4m3, 3, none, 0, rows, []⟩] } }

theorem given_two (a b : DEntry) (t : Tile) (ha : queueAt t 3 = ⟨[a], (a.tag + 1) % 65536, a.tag⟩)
    (hb : queueAt (setQueue t 3 { queueAt t 3 with entries := [], pop := ((queueAt t 3).pop + 1) % 65536 }) 4 = ⟨[b], (b.tag + 1) % 65536, b.tag⟩) (h2 : a.wrote + 2 ≤ 2) (h3 : b.wrote + 2 ≤ 2) :
    Given 2 t [3, 4] [a, b] :=
  ⟨[], by rw [ha], by rw [ha], h2, [], by rw [hb], by rw [hb], h3, trivial⟩

/-- The third row of a preload in cycle 2, and the end of one in cycle 64. -/
theorem witness_PreloadLoads :
    (∃ c : Chip, (tileAt c 0).arr.pre = [⟨.e4m3, 3, none, 0, List.replicate 4 (some entry3), []⟩] ∧
      c.plan.cyc - (tileAt c 0).lag - 0 < 64 ∧ (List.replicate 4 (some entry3)).length = (rowBytes .e4m3 * 2 + 63) / 64 ∧
      c.plan.cyc - (tileAt c 0).lag - 0 = 2 ∧ Given c.plan.cyc (tileAt c 0) [3, 4] [entry3, entry3]) ∧
    ∃ c : Chip, (tileAt c 0).arr.pre = [⟨.e4m3, 3, none, 0, (List.replicate 128 entry3).map some, []⟩] ∧
      0 + 64 ≤ c.plan.cyc - (tileAt c 0).lag ∧ (List.replicate 128 entry3).length = rowBytes .e4m3 ∧
      Given c.plan.cyc (tileAt c 0) [] [] :=
  ⟨⟨at2 (tileP (List.replicate 4 (some entry3)) [(3, ⟨[entry3], 0, 65535⟩), (4, ⟨[entry3], 0, 65535⟩)]), rfl, by decide, rfl, rfl,
      given_two _ _ _ rfl rfl (by decide) (by decide)⟩,
    { at2 (tileP ((List.replicate 128 entry3).map some) []) with plan := { play.chip.plan with cyc := 64 } }, rfl, by decide,
    List.length_replicate, trivial⟩

/-- A tile whose MSTR waits for an operand. -/
def tileS : Tile := { tileM .int8 .e4m3 true false false 0 with q := [] }

/-- Elastic stall mode, with that tile. -/
def stalled : State := { play with chip := { at2 tileS with regs := (key 0x3010 1, 1) :: play.chip.regs } }

theorem frozen_stalled : frozen stalled.chip (tileAt stalled.chip 0) = true := by decide

/-- A frozen tile, in which an instruction waits; and one that lags with nothing to do. -/
theorem witness_ElasticWait : (issueOf (.iadd is0 g0 1 2 3) = some (is0, true) ∧ Issues stalled is0 true (.iadd is0 g0 1 2 3) ∧
      ∀ site ∈ issueSites stalled.chip is0, ¬Ready stalled.chip site) ∧
    (frozen stalled.chip (tileAt stalled.chip 0) = true ∧ (starvedOf stalled.chip tileS).diff tileS.stalled ≠ []) ∧
    ∃ t : Tile, t.lag = 64 ∧ t.stalled = [3] ∧ { t with lag := 0, stalled := [] }.still = true :=
  ⟨⟨rfl, { wf := rfl, quiet := ⟨rfl, rfl, rfl⟩, may := rfl, now := by decide +kernel, due := (by decide +kernel),
           inStep := by decide +kernel, calm := rfl },
      onlySite 0 (sites_one (t := tileS) rfl rfl) (fun h => by have := h.thawed; rw [frozen_stalled] at this; cases this)⟩,
    ⟨frozen_stalled, by decide⟩, { tile0 with lag := 64, stalled := [3] }, rfl, rfl, by decide⟩

/-- An operand out of bounds; a program that may not issue; a step that is over; a hold that reaches beyond the step. -/
theorem witness_IssueGate : (streamOf (.mpre is0 .e4m3 7 none) = some (is0, true) ∧ (Instr.mpre is0 .e4m3 7 none).wf = false) ∧
    (streamOf (.tql is0 3 (atLine 0) 1) = some (is0, false) ∧ Quiet State.reset ∧ mayIssue State.reset.chip 0 true = false ∧
      mayIssue State.reset.chip 0 false = false ∧ State.reset.chip.plan.cyc0 + countCycle State.reset.chip ≤ State.reset.chip.plan.cyc) ∧
    (Quiet play ∧ play.chip.plan.cyc0 + countCycle play.chip ≤ play.chip.plan.cyc ∧
      ∃ c : Chip, c = { play.chip with plan := { play.chip.plan with cyc := 14336 } } ∧ stepEnd c ≤ c.plan.cyc) ∧
    ∃ i : Issue, Quiet play ∧ mayIssue play.chip i.die.val true = true ∧ play.chip.plan.cyc < stepEnd play.chip ∧
      (Instr.iadd i g0 1 2 3).wf = true ∧ stepEnd play.chip ≤ issueCycle play.chip i true (.iadd i g0 1 2 3) :=
  ⟨⟨rfl, by decide⟩, ⟨rfl, ⟨rfl, rfl, rfl⟩, rfl, rfl, by decide +kernel⟩, ⟨quiet_play tile0, now_play, _, rfl, by decide +kernel⟩,
    { is0 with wait := 16384 }, quiet_play tile0, rfl, inStep_play, by decide, by decide +kernel⟩

/-- Two acts of one die that want bank 3, one through the stop inbound. -/
def acts2 : List Act :=
  [⟨0, .mrx is0 (.abs 0) (atLine 3) 2, 0, 0, 0, 0, 2, 3, 0, []⟩, ⟨0, .tql is0 3 (atLine 3) 1, 0, 0, 0, 0, 1, 3, 1, []⟩]

theorem witness_LineSchedule : (∀ a ∈ acts2, a.slip = 0 ∧ lineRate a.x = 1 ∧ banked a.x = true ∧ a.k < a.n ∧ a.due a.k ≤ 1) ∧
    (acts2.map (fun a => (a.bank + a.k) % 16) = [3, 3] ∧ acts2.map (fun a => inboundAct a.x) = [true, false]) ∧
    (let a : Act := ⟨0, .tql is0 3 (atLine 3) 1, 0, 0, 0, 0, 1, 3, 1, []⟩;
      a.slip = 0 ∧ a.k = min a.n (lineRate a.x * (1 - (a.s + a.lead))) ∧ a.s + a.lead ≤ 1) ∧
    Calm play.chip ∧ (seqAt play.chip 0).clock.reads ≤ 0 ∧ (seqAt play.chip 0).clock.writes ≤ 0 :=
  ⟨by decide, by decide, by decide, ⟨rfl, rfl⟩, by decide, by decide⟩

/-! ## The access stream -/

theorem lineClean_play (t : Tile) (site : Nat) {x : Int} (h : 0 ≤ x ∧ x < 49152) : LineClean (playWith t).chip site x :=
  ⟨h.1, h.2, rfl⟩

/-- What `Begins` asks, for the instructions of each statement. -/
theorem witness_Begins :
    (∀ x ∈ ([.tql is0 3 (atLine 49150) 2, .tqp is0 2 (atLine 0) 4096, .bpq is0 0 3, .qts is0 (atLine 0) 3 1,
        .ocfl is0 (atLine 4095) (atLine 49151) 1, .ocwb is0 (atLine 0) (atLine 0) 1, .oczr is0 (atLine 0) 1,
        .mst is0 (.region 0) (atLine 0) (atLine 0) 1 [], .mvt is0 (.abs 0) (atLine 0) (atLine 0) 1, .mrx is0 (.abs 0) (atLine 0) 1,
        .swr is0 (atLine 0) (atLine 0) 1] : List Instr), Issues play is0 false x ∧ x.wf = true) := by
  have h : ∀ x ∈ ([.tql is0 3 (atLine 49150) 2, .tqp is0 2 (atLine 0) 4096, .bpq is0 0 3, .qts is0 (atLine 0) 3 1,
        .ocfl is0 (atLine 4095) (atLine 49151) 1, .ocwb is0 (atLine 0) (atLine 0) 1, .oczr is0 (atLine 0) 1,
        .mst is0 (.region 0) (atLine 0) (atLine 0) 1 [], .mvt is0 (.abs 0) (atLine 0) (atLine 0) 1, .mrx is0 (.abs 0) (atLine 0) 1,
        .swr is0 (atLine 0) (atLine 0) 1] : List Instr), heldTo play.chip 0 false x = 0 ∧ x.wf = true := by decide
  exact fun x hx => ⟨issues_play tile0 (h x hx).1 (h x hx).2, (h x hx).2⟩

theorem witness_QueueLoads : Calm play.chip ∧ LineClean play.chip 0 49151 ∧
    ((queueAt (tileQ 31 65535) 3).entries.length < 32 ∧
      serialLt (queueAt (tileQ 31 65535) 3).push (queueAt (tileQ 31 65535) 3).pop = false) ∧
    32 ≤ (queueAt (tileQ 32 65535) 3).entries.length ∧
    ((queueAt { tile0 with q := [(3, ⟨[], 65535, 0⟩)] } 3).entries.length < 32 ∧ serialLt 65535 0 = true) :=
  ⟨⟨rfl, rfl⟩, lineClean_play tile0 0 (by decide), by decide, by decide, by decide⟩

/-- A QTS of one entry of queue 3 in cycle 2. -/
def actQ : Act := ⟨0, .qts is0 (atLine 49151) 3 1, 0, 0, 0, 0, 1, 15, 1, [⟨0, 0, 49151, 0, [], []⟩]⟩

theorem witness_QueueStores : actQ.x = .qts is0 (atLine 49151) 3 1 ∧
    (0 + ([] : List (List Byte × Bool)).length < actQ.n ∧ actQ.s + 0 + actQ.slip ≤ streaming.plan.cyc) ∧
    (∃ e rest, (queueAt (tileAt streaming 0) 3).entries = e :: rest ∧ e.tag = (queueAt (tileAt streaming 0) 3).pop ∧
      e.wrote + 2 ≤ streaming.plan.cyc) ∧
    (queueAt (tileAt play.chip 0) 3).entries = [] ∧ Calm streaming ∧ (49151 : Int) < 49152 :=
  ⟨rfl, by decide, ⟨_, _, rfl, rfl, by decide⟩, rfl, ⟨rfl, rfl⟩, by decide⟩

theorem witness_CacheLines : Calm play.chip ∧ LineClean play.chip 0 49151 ∧
    ∀ k, smGet EccMark.none play.chip.ecc (cached ⟨0, 0, 0, 4095, [], []⟩ k / 64) = EccMark.none :=
  ⟨⟨rfl, rfl⟩, lineClean_play tile0 0 (by decide), fun _ => rfl⟩

/-! ## Stored errors (04 R112 R113, 15 R467) -/

/-- A lane of register 2 of the tile at site 0 with an error. -/
def flawed (unc : Bool) : Chip := { play.chip with flaws := [⟨.vreg 0 2 63, 0, unc, 1⟩] }

/-- An injection of kind 2 at lane 63 of the integer unit of site 0. -/
def inj2 : Inject := ⟨2, 63 * 256, 1, none, 0, 0, false⟩

theorem witness_StoredErrors :
    (∀ unc, (flawed unc).flaws = [⟨.vreg 0 (2 : Fin 64).val 63, 0, unc, 1⟩] ∧ (flawed unc).err.inj = none ∧ 0 ≤ nowCount (flawed unc)) ∧
    (∃ c : Chip, c = { play.chip with err := { play.chip.err with inj := some inj2 } } ∧ c.flaws = [] ∧ c.err.inj = some inj2 ∧
      inj2.kind = 2 ∧ injArmed c inj2 = true ∧ bits inj2.loc 7 0 = 0 ∧ bits inj2.loc 13 8 = 63 ∧ bits inj2.loc 18 16 = 0 ∧
      (preg (tileAt c 0) g0.p.val).val.testBit 63 = true) ∧
    (∃ s : State, s = withChip (fun c => { c with flaws := [⟨.dictionary, 0, true, 0⟩] }) ∧ s.chip.power.phase = .running ∧
      s.chip.err.pend = [] ∧ s.chip.flaws = [⟨.dictionary, 0, true, 0⟩] ∧
      (∃ e, entOf (0x9010 : BitVec 16).toNat (2 : BitVec 8).toNat = some e) ∧
      writeCode s.fuses s.chip (0x9010 : BitVec 16).toNat (2 : BitVec 8).toNat [7] = 0) :=
  ⟨fun unc => ⟨rfl, rfl, Nat.zero_le _⟩,
    ⟨_, rfl, rfl, rfl, rfl, rfl, rfl, rfl, rfl, by decide⟩,
    ⟨_, rfl, rfl, rfl, rfl, ⟨_, rfl⟩, by decide +kernel⟩⟩

end Sys2Proof.Tests
end

