-- ==== Sys2Proof/Tests/Witness2.lean ====
section
/-! SUPPORT. Witnesses, continued: regions, tiles, coaches, the step, memory and launch. -/

namespace Sys2Proof.Tests

-- One proof at a time: together they ask for more threads than the memory limit has room for.
set_option Elab.async false

open Sys2Proof Sys2Proof.Machine Sys2Proof.Claims

/-! ## Regions, tiles and coaches -/

theorem issues_placed {x : Instr} (h : heldTo placed.chip 0 false x = 0 := by decide)
    (w : x.wf = true := by rfl) : Issues placed is0 false x :=
  { wf := w, quiet := ⟨rfl, rfl, rfl⟩, may := rfl, now := by decide +kernel,
    due := by
      have e : eligible placed.chip is0 false = 0 := rfl
      change max (eligible placed.chip is0 false) (heldTo placed.chip 0 false x) ≤ 0
      rw [h, e]; decide
    inStep := by decide +kernel, calm := rfl }

theorem lineClean_placed (site : Nat) {x : Int} (h : 0 ≤ x ∧ x < 49152) : LineClean placed.chip site x := ⟨h.1, h.2, rfl⟩

/-- The region of `placed`. -/
def r1 : Region := ⟨0, 0, 0, 0, false, false, 128, 0⟩

/-- An MLD of two lines in progress, its tile, and the module in the memory cycle of its second line. -/
def tileMld : ActTile := ⟨0, 0, 49150, 0, [(.at [0] none, none), (.at [64] none, none)], []⟩
def actMld (late : List Nat) : Act := ⟨0, .mld is0 (atLine 49150) (.region 0) (atLine 0) 2 late, 0, 0, 0, 0, 2, 14, 448, [tileMld]⟩
def inCycle (n : Nat) : Chip := { placed.chip with plan := { placed.chip.plan with cyc := n } }

theorem witness_PlainLines : Issues placed is0 false (.mld is0 (atLine 49150) (.region 0) (atLine 0) 2 []) ∧
    Issues placed is0 false (.mst is0 (.region 0) (atLine 0) (atLine 49150) 2 [0]) ∧ (Instr.mld is0 (atLine 49150) (.region 0) (atLine 0) 2 []).wf = true ∧ regionOf placed.chip 0 = some r1 ∧
    PlainLine placed.chip 0 r1 1 ∧ Calm (inCycle 42) ∧
    (∀ late, (actMld late).x = .mld is0 (atLine 49150) (.region 0) (atLine 0) 2 late ∧
      (inCycle 42).plan.cyc = (actMld late).s + 41 + 1 ∧ 1 < (actMld late).n) ∧
    tileMld.target[1]? = some (.at [64] none, none) ∧ 64 % 64 = 0 ∧
    smGet EccMark.none (inCycle 42).ecc (64 / 64) = EccMark.none ∧ ([] : List Nat).contains 1 = false ∧ [1].contains 1 = true ∧
    (∀ j ∈ (inCycle 42).srv.job, j = none) ∧ LineClean (inCycle 42) 0 49151 :=
  ⟨issues_placed, issues_placed, rfl, rfl, ⟨rfl, by decide, by decide, by decide, by decide, by decide, rfl⟩, ⟨rfl, rfl⟩,
    fun _ => ⟨rfl, rfl, Nat.lt_succ_self 1⟩, rfl, rfl, rfl, rfl, rfl, by decide, ⟨by decide, by decide, rfl⟩⟩

/-- A line that lands in memory where no write waits, and where one of its stack does. -/
theorem witness_PlainLines_lands : Calm (inCycle 42) ∧ (inCycle 42).srv.snap = none ∧ (∀ x ∈ (inCycle 42).late, x.unit ≠ unitOf 64) ∧
    ∃ c : Chip, c = { inCycle 42 with late := [⟨unitOf 64, [0], none, [1], true, none⟩] } ∧ Calm c ∧ (0 : Nat) % 64 = 0 ∧
      (∀ j ∈ c.srv.job, j = none) ∧ c.late = [⟨unitOf 64, [0], none, [1], true, none⟩] :=
  ⟨⟨rfl, rfl⟩, rfl, (fun x hx => by cases hx), _, rfl, ⟨rfl, rfl⟩, rfl, by decide, rfl⟩

/-- A region of tier 2. -/
def r3 : Region := ⟨3, 2, 0, 0, false, false, 4194304, 0⟩

/-- Serving enabled with that region as pool 0, and session 1 with page 2 of the pool as its page 1, which n others share. -/
def pooled (n : Nat) : Chip := { placed.chip with
  plan := { placed.chip.plan with image := some { im1 with regions := [r3] },
                                  place := some { pl1 with mrd := [⟨3, 1, 0, none, 0xFF, 0⟩] } }
  regs := (key 0x6000 1, 1) :: (key 0x6002 1, 3) :: placed.chip.regs
  srv := { placed.chip.srv with sess := [(1, { Sess.free with st := 2 })], dir := [(dirKey 1 0 0, 7)], blocks := [(7, [(1, 2)])],
                                refs := [(2, n)] } }

/-- A free session, and a page of one session and of two. -/
theorem witness_PoolLines : (∀ n, Calm (pooled n) ∧ regionOf (pooled n) 3 = some r3 ∧ r3.tier = 2 ∧ r3.num = 3 ∧ r3.home = 0) ∧
    poolOf (pooled 1) r3 = some 0 ∧ (sessAt (pooled 1) (1024 * 0 + 5 / 4194304)).st = 0 ∧
    (∀ n, n = 1 ∨ n = 2 → (sessAt (pooled n) (1024 * 0 + 4195333 / 4194304)).st ≠ 0 ∧
      kvPage (pooled n) 0 0 (1024 * 0 + 4195333 / 4194304) (4195333 / 1024 % 4096) = some 2) ∧ 4195333 < 4294967296 ∧
    pageRefs (pooled 1) 0 2 ≤ 1 ∧ 1 < pageRefs (pooled 2) 0 2 ∧ (∀ f ∈ (poolAt (pooled 1) 3).flights, f.page ≠ 2) ∧
    residence (pooled 1) r3 2 (4195333 % 1024) % 64 = 0 ∧
    smGet EccMark.none (pooled 1).ecc (residence (pooled 1) r3 2 (4195333 % 1024) / 64) = EccMark.none ∧
    ∀ z ∈ (pooled 1).late, False :=
  ⟨fun _ => ⟨⟨rfl, rfl⟩, rfl, rfl, rfl, rfl⟩, by decide +kernel, by decide +kernel,
    by rintro n (rfl | rfl) <;> exact ⟨by decide +kernel, by decide +kernel⟩, by decide,
    by decide +kernel, by decide +kernel, (fun f hf => by cases hf), by decide +kernel, by decide +kernel, fun z hz => by cases hz⟩

/-- A Live copy of two lines, and beside it a Draining one. -/
def viewed (d : CopySt) : Chip := { placed.chip with wts := { placed.chip.wts with
  dir := [(5, ⟨⟨.live, 1, 0, 128, 0, []⟩, ⟨d, 0, 1, 64, 4096, []⟩, 1, 0⟩)] } }

theorem witness_ViewLines : copyIn (wentry placed.chip 5) .live = none ∧
    (∀ d, copyIn (wentry (viewed d) 5) .live = some ⟨.live, 1, 0, 128, 0, []⟩) ∧
    copyIn (wentry (viewed .free) 5) .draining = none ∧ copyIn (wentry (viewed .draining) 5) .draining = some ⟨.draining, 0, 1, 64, 4096, []⟩ ∧
    (1073741823 < 1073741824 ∧ 1073741824 < 2147483648) := ⟨rfl, fun _ => rfl, rfl, rfl, by decide⟩

/-- Lines below and beyond the tile store, and beyond a region. -/
theorem witness_LinesOut : (-1 : Int) < 0 ∧ (49152 : Int) ≤ 49152 ∧ regionOf placed.chip 0 = some r1 ∧ r1.tier ≠ 2 ∧
    ((r1.size / 64 : Nat) : Int) ≤ 2 ∧ ∃ c : Chip, regionOf c 3 = some r3 ∧ poolOf c r3 = none :=
  ⟨by decide, by decide, rfl, by decide, by decide, { pooled 0 with regs := [] }, rfl, by decide +kernel⟩

/-- A line at the stop of site 0 from tile 1, and one that is not yet there. -/
def atStops : Chip := { inCycle 39 with
  flying := [⟨40, .stop 0 1 [1] false⟩, ⟨39, .stop 0 1 [2] true⟩, ⟨39, .stop 0 1 [3] false⟩] }

theorem witness_TileMoves : siteOf placed.chip (tileNum placed.chip (tileAt placed.chip 0) (.abs 1)) = some 1 ∧
    LineClean atStops 0 49151 ∧ Calm atStops ∧
    (atStops.flying = [⟨40, .stop 0 1 [1] false⟩] ++ ⟨39, .stop 0 1 [2] true⟩ :: [⟨39, .stop 0 1 [3] false⟩] ∧
      (∀ y ∈ ([⟨40, .stop 0 1 [1] false⟩] : List Flying), ¬atStopFrom atStops.plan.cyc 0 1 y) ∧ 39 ≤ atStops.plan.cyc) ∧
    ∀ y ∈ placed.chip.flying, ¬atStopFrom placed.chip.plan.cyc 0 1 y :=
  ⟨rfl, ⟨by decide, by decide, rfl⟩, ⟨rfl, rfl⟩,
    ⟨rfl, fun y hy h => by rw [List.mem_singleton.mp hy] at h; exact absurd h.1 (by decide), by decide⟩,
    fun y hy => by cases hy⟩

/-- The coach of `placed`. -/
def row1 : CoachRow := ⟨0, 0, 0, 0, 0, 1, 1, 1, [0]⟩

/-- A CRCV of that coach in its first cycle. -/
def actCrcv : Act := ⟨0, .crcv is0 0 (atLine 49148), 0, 0, 0, 0, 4, 12, 40, [⟨0, 0, 49148, 0, [], []⟩]⟩

theorem witness_Coaches : Issues placed is0 false (.csnd is0 0 (atLine 49148)) ∧ Issues placed is0 false (.crcv is0 0 (atLine 49148)) ∧
    is0.ok = true ∧ (atLine 49148).ok = true ∧ 0 < row1.k ∧
    (sendRow placed.chip 0 = some (0, row1) ∧ hopPort placed.chip 0 1 = some 5 ∧
      slotRec placed.chip 0 1 = some ⟨0, 1, false, false, 1, 0, 0, 0⟩) ∧
    recvRow placed.chip 0 = some (0, row1) ∧ hopPort placed.chip 0 row1.hops = some 5 ∧
    slotRec placed.chip 0 row1.hops = some ⟨0, 1, false, false, 1, 0, 0, 0⟩ ∧ Calm placed.chip ∧
    (actCrcv.x = .crcv is0 0 (atLine 49148) ∧ placed.chip.plan.cyc = actCrcv.s + 4 * 0 ∧ 4 * 0 < actCrcv.n) ∧
    LineClean placed.chip 0 49151 ∧ ((5 : Nat) ≠ 31 ∨ reg placed.chip (key 0x5010 1) ≠ 0) :=
  ⟨issues_placed, issues_placed, rfl, rfl, by decide, ⟨rfl, rfl, rfl⟩, rfl, rfl, rfl, ⟨rfl, rfl⟩, ⟨rfl, rfl, by decide⟩,
    lineClean_placed 0 (by decide), by decide⟩

theorem witness_StewardAndControl : Issues play is0 false (.xbar is0 false 7) ∧ Issues play is0 true (.xbar is0 true 7) ∧
    Issues play is0 true (.ends is0 true) ∧ is0.ok = true ∧ Calm play.chip ∧ LineClean play.chip 0 0 ∧ 1023 < 1024 :=
  ⟨issues_play _, issues_play _, issues_play _, rfl, ⟨rfl, rfl⟩, lineClean_play tile0 0 (by decide), by decide⟩

/-! ## The step -/

/-- A running plan with changes to its plan. -/
def step0 (f : Plan → Plan) : State := { play with chip := { play.chip with plan := f play.chip.plan } }

/-- A running plan with a steward of die 0 in a routine. -/
def stew0 (x : Steward) : State := { play with chip := { play.chip with stew := [(0, x)] } }

/-- A step with a variant record accepted, and one without. -/
theorem witness_CutOffLatches : (Quiet play ∧ play.chip.plan.state = .running ∧ play.chip.plan.cut = false ∧
      still play.chip = true ∧ play.chip.plan.stepStart ≤ play.chip.count) ∧
    (play.chip.plan.accepted = none ∧ (7, 0) ∉ play.chip.acc.reported) ∧
    (step0 (fun p => { p with accepted := some (1, []) })).chip.plan.accepted ≠ none :=
  ⟨⟨⟨rfl, rfl, rfl⟩, rfl, rfl, rfl, by decide⟩, ⟨rfl, by decide⟩, by decide⟩

theorem witness_BoundaryStartsNext :
    (Quiet (step0 (fun p => { p with cut := true, cutHalt := 0 })) ∧
      (step0 (fun p => { p with cut := true, cutHalt := 0 })).chip.plan.state = .running ∧
      (step0 (fun p => { p with cut := true, cutHalt := 0 })).chip.plan.cutHalt =
        (step0 (fun p => { p with cut := true, cutHalt := 0 })).chip.plan.step) ∧
    (step0 (fun p => { p with cut := true })).chip.plan.cutHalt ≠ (step0 (fun p => { p with cut := true })).chip.plan.step ∧
    still (step0 (fun p => { p with cut := true })).chip = true ∧
    (step0 (fun p => { p with cut := true })).chip.plan.stepStart ≤ (step0 (fun p => { p with cut := true })).chip.count :=
  ⟨⟨⟨rfl, rfl, rfl⟩, rfl, rfl⟩, by decide, rfl, by decide⟩

theorem witness_StepRoutines : (Quiet play ∧ play.chip.plan.state = .running ∧ play.chip.plan.fresh = false ∧ play.chip.plan.cut = false) ∧
    (Quiet (stew0 { Steward.reset with routine := .running }) ∧
      (stewAt (stew0 { Steward.reset with routine := .running }).chip 0).routine = .running ∧
      reg (stew0 { Steward.reset with routine := .running }).chip (key 0x2030 1) < 2 ^ 64) :=
  ⟨⟨⟨rfl, rfl, rfl⟩, rfl, rfl, rfl⟩, ⟨rfl, rfl, rfl⟩, rfl, by decide⟩

/-- A running routine whose registers x10 and x11 hold values, with its first instruction in the plan code. -/
def hart (a b : Nat) : State :=
  stew0 { Steward.reset with routine := .running, pc := 0x20000, x := [(10, a), (11, b)], code := leBytes 4 0x00B53423 }

/-- The edges of the windows: the plan data area, the session window, misaligned, unlisted, without the right, and below the
plan code. -/
theorem witness_RoutineInstructions : (hart 0 0).chip.flaws = [] ∧
    (let a := fun (v : Nat) => (xreg (stewAt (hart v 0).chip 0) 10 + 8).toNat;
      (a 0x1001FFF8 = 0x10020000 ∧ a 0x1001FFF8 % 8 = 0) ∧ (a 0x1006FFF0 = 0x1006FFF8 ∧ a 0x1006FFF0 < 0x10070000) ∧
      (0x30000000 ≤ a 0x300FFFF0 ∧ a 0x300FFFF0 < 0x30100000) ∧ a 0x1001FFF9 % 8 ≠ 0 ∧ stewWindow 0 (a 0x40000) = none ∧
      (0x10070000 ≤ a 0x1006FFF8 ∧ a 0x1006FFF8 < 0x10080000) ∧ a 0 < 0x20000) ∧
    xreg (stewAt (hart 0 0).chip 0) 11 = 0 ∧ xreg (stewAt (hart 1 0).chip 0) 10 = 1 ∧
    ((stewAt (hart 1 0).chip 0).routine = .running ∧ (stewAt (hart 1 0).chip 0).pc % 2 = 0 ∧
      leNat (slice (stewAt (hart 1 0).chip 0).code 0 2) % 4 = 3) :=
  ⟨rfl, by decide, rfl, rfl, rfl, by decide, by decide⟩

/-- Waits that suspend and waits that are met, at the plan cycle 0 of the step's first tick. -/
theorem witness_StewardWaits :
    planCycle (stew0 { Steward.reset with routine := .running }).chip < 1 ∧
    0 ≤ planCycle (stew0 { Steward.reset with routine := .running }).chip ∧
    (stew0 { Steward.reset with routine := .running }).chip.plan.done &&& 1 ≠ 1 ∧
    (stew0 { Steward.reset with routine := .running }).chip.plan.done &&& 0 = 0 ∧
    ((stewAt (stew0 { Steward.reset with routine := .waitCycle 7 }).chip 0).routine = .waitCycle 7 ∧
      (stew0 { Steward.reset with routine := .waitCycle 7 }).chip.plan.stepStart +
          (2 * 7 + ccNow (stew0 { Steward.reset with routine := .waitCycle 7 }).chip - 1) /
            ccNow (stew0 { Steward.reset with routine := .waitCycle 7 }).chip <
        boundaryAt (stew0 { Steward.reset with routine := .waitCycle 7 }).chip - 256) ∧
    (stewAt (stew0 { Steward.reset with routine := .waitDies 0 }).chip 0).routine = .waitDies 0 :=
  ⟨by decide, by decide, by decide, by decide, ⟨rfl, by decide⟩, rfl⟩

/-- A running plan at the instant of its cut-off. -/
def later : State := { play with chip := { play.chip with count := 3840 } }

/-- The four outcomes of a post: accepted and refused before the cut-off, late at it, and for another step. -/
theorem witness_VariantPost : Quiet play ∧ play.chip.plan.state = .running ∧ play.chip.plan.image = some im ∧
    (1 : Nat) = play.chip.plan.step + 1 ∧ (play.chip.plan.cut = false ∧ play.chip.count < boundaryAt play.chip - 256) ∧
    1 < im.hdr.variants ∧ im.hdr.variants ≤ 2 ∧ (2 : Nat) ≠ play.chip.plan.step + 1 ∧
    ¬((step0 (fun p => { p with cut := true })).chip.plan.cut = false) ∧
    ¬(later.chip.count < boundaryAt later.chip - 256) :=
  ⟨⟨rfl, rfl, rfl⟩, rfl, rfl, rfl, ⟨rfl, by decide⟩, by decide, by decide, by decide, by decide, by decide⟩

/-- The routine of die 0 running, in the first step and at the instant of the cut-off. -/
theorem witness_VariantPost_routine : (stewAt (hart 0 0).chip 0).routine = .running ∧ (hart 0 0).chip.plan.state = .running ∧
    (hart 0 0).chip.plan.image = some im ∧ Quiet (hart 0 0) := ⟨rfl, rfl, rfl, ⟨rfl, rfl, rfl⟩⟩

/-- A module with device ID 16 whose carts for device 0 leave by port 15, and what its steward waits with. -/
def sender (w : List (Nat × List Byte)) : State :=
  let c := { play.chip with regs := (key 0x1020 1, 16) :: play.chip.regs }
  let c := { c with blobs := [(key 0x5300 1, List.replicate 16 0xFF ++ [0, 15] ++ List.replicate 510 0xFF)] }
  { play with chip := { c with stew := [(0, { Steward.reset with routine := .running, waiting := w })] } }

theorem witness_StewardMessages : Quiet (sender []) ∧ (stewAt (sender []).chip 0).routine = .running ∧
    (stewAt (sender []).chip 0).waiting = [] ∧ (stewAt (sender [(0, [])]).chip 0).waiting = (0, []) :: [] ∧
    routeOf (sender []).chip (epochNow (sender []).chip) 0 = .port 15 ∧ (portAt (sender []).chip 15).st ≠ .fenced ∧
    throttled (sender []).chip (cartLevel (sender []).chip 0) = false ∧
    (portAt (sender []).chip 15).egress.length + 1 + reg (sender []).chip (key 0x5310 6) ≤ 256 :=
  ⟨⟨rfl, rfl, rfl⟩, rfl, rfl, by decide, by decide, by decide, by decide, by decide⟩

end Sys2Proof.Tests
end

