-- ==== Sys2Proof/Tests/Witness3.lean ====
section
/-! SUPPORT. Witnesses, continued: memory, pages, samplers, the tick, launch and the clock. -/

namespace Sys2Proof.Tests

-- One proof at a time: together they ask for more threads than the memory limit has room for.
set_option Elab.async false

open Sys2Proof Sys2Proof.Machine Sys2Proof.Claims

/-! ## Memory events and samplers -/

/-- A chip with changes. -/
def chipOf (f : Chip → Chip) : State := { State.reset with chip := f Chip.reset }

/-- A corrected and an uncorrectable granule, each with its write-back due, in HBM stack 0 after training, and a late
write. -/
def hurt : State :=
  chipOf (fun c => { c with regs := [(key 0x4011 1, 1)], ecc := [(0, ⟨false, 1, false⟩), (1, ⟨true, 3, false⟩)],
                            wbDue := [0, 1], late := [⟨2, [128], none, [1], true, none⟩] })

theorem witness_MemoryEvents : Quiet hurt ∧ hurt.chip.time.changing = false ∧
    hurt.chip.late.find? (fun y => y.unit == 2) = some ⟨2, [128], none, [1], true, none⟩ ∧
    (Machine.placed hurt.chip [128] none).1 = [128] ∧ 128 % 64 = 0 ∧ nsMem hurt.chip.wbDue (0 / 64) = true ∧ nsMem hurt.chip.wbDue (127 / 64) = true ∧
    reg hurt.chip (key 0x4030 1) ≠ 0 ∧ smWf EccMark.none hurt.chip.ecc = true ∧
    (0 / 64 ≤ 1 ∧ 1 < 0 / 64 + 2 ∧ scrubs hurt.chip (64 * 1) = true ∧ 1 ∈ hurt.chip.ecc.map (·.1)) :=
  ⟨⟨rfl, rfl, rfl⟩, rfl, rfl, rfl, rfl, by decide, by decide, by decide, by decide, by decide⟩

theorem witness_GranuleReads : hurt.chip.flaws = [] ∧ smGet EccMark.none Chip.reset.ecc (64 / 64) = EccMark.none ∧
    smGet EccMark.none hurt.chip.ecc (0 / 64) ≠ EccMark.none ∧ smGet EccMark.none hurt.chip.ecc (64 / 64) ≠ EccMark.none := ⟨rfl, by decide⟩

/-- A plan with a KV pool that serving does not use, and a page of it in flight, up or down. -/
def flying (up : Bool) : State :=
  let p := { placed.chip.plan with image := some { im1 with regions := [⟨3, 2, 0, 0, false, false, 65536, 1⟩] },
                                   place := some { pl1 with hbm := [⟨3, 0, 0, none, 0, 0⟩], mrd := [⟨3, 1, 0, none, 0xFF, 0⟩] } }
  let c := { placed.chip with pools := [(3, ⟨[], [⟨0, 0, up, false, false⟩]⟩)] }
  { placed with chip := { c with plan := p } }

theorem slot_flying (up : Bool) (o : Nat) : slotAddr (flying up).chip 3 (1024 * 0 + o) = 0x10000000000 + 64 * o := by
  change 0x10000000000 + 0 * 0x4000000000 + (0 + 64 * (1024 * 0 + o)) = _; omega

theorem frame_flying (up : Bool) (o : Nat) : frameAddr (flying up).chip 3 0 o = 64 * o := by
  change 0 * 0x1400000000 + (0 * 0x500000000 + 0 + 64 * (1024 * 0 + o)) = _; omega

/-- A running plan with serving on. -/
def serves : State := { play with chip := { play.chip with regs := [(key 0x6000 1, 1)] } }

theorem witness_CopyAndAdmission : (∀ up, Quiet (flying up) ∧ (flying up).chip.time.changing = false ∧ (flying up).chip.err.inj = none ∧
      poolNamed (flying up).chip 0 = some ⟨3, 2, 0, 0, false, false, 65536, 1⟩ ∧
      (poolAt (flying up).chip 3).flights.find? (fun y => y.page == 0 && !y.done) = some ⟨0, 0, up, false, false⟩ ∧
      ∀ o < 1024, slotAddr (flying up).chip 3 (1024 * 0 + o) % 64 = 0 ∧ frameAddr (flying up).chip 3 0 o % 64 = 0 ∧
        smGet EccMark.none (flying up).chip.ecc (slotAddr (flying up).chip 3 (1024 * 0 + o) / 64) = EccMark.none ∧
        smGet EccMark.none (flying up).chip.ecc (frameAddr (flying up).chip 3 0 o / 64) = EccMark.none ∧
        ∀ k < 1024, slotAddr (flying up).chip 3 (1024 * 0 + o) ≠ frameAddr (flying up).chip 3 0 k ∧
          (slotAddr (flying up).chip 3 (1024 * 0 + o) = slotAddr (flying up).chip 3 (1024 * 0 + k) → o = k) ∧
          (frameAddr (flying up).chip 3 0 o = frameAddr (flying up).chip 3 0 k → o = k)) ∧
    Quiet serves ∧ serves.chip.plan.state = .running ∧ serving serves.chip = true ∧ serves.chip.srv.readDone = false :=
  ⟨fun up => ⟨⟨rfl, rfl, rfl⟩, rfl, rfl, rfl, by cases up <;> decide, fun o _ => by
      rw [slot_flying, frame_flying]
      refine ⟨by omega, by omega, rfl, rfl, fun k hk => ?_⟩
      rw [slot_flying, frame_flying]; omega⟩, ⟨rfl, rfl, rfl⟩, rfl, by decide, rfl⟩

/-- Serving with a job in the queue of die 0 or in its sampler, and a command line that is due. -/
def sampling (l : List Job) (j : Option Job) : State :=
  let v := { Serving.reset with jobs := [l, [], [], []], job := [j, none, none, none], cmdDue := [(0, 5, [0, 0, 0])] }
  chipOf (fun c => { c with regs := [(key 0x6000 1, 1)], srv := v })

/-- A job not yet started. -/
def job1 : Job := ⟨1, [], 0, 0, Sess.free, []⟩

theorem witness_SamplerJobs : Quiet (sampling [] none) ∧ UpToDate (sampling [] none).chip ∧
    (sampling [] none).chip.srv.jobs.length = 4 ∧ (sampling [] none).chip.srv.job.length = 4 ∧
    (sampling [] none).chip.srv.cmdDue.find? (fun x => x.1 == (0 : Fin 4).val) = some (0, 5, [0, 0, 0]) ∧
    ((sampling (List.replicate 31 job1) none).chip.srv.jobs.getD 0 []).length < 32 ∧
    32 ≤ ((sampling (List.replicate 32 job1) none).chip.srv.jobs.getD 0 []).length ∧
    leNat (([0, 0, 0] : List Byte).drop 2 |>.take 1) = 0 ∧
    (serving (sampling [job1] none).chip = true ∧ (sampling [job1] none).chip.srv.job.getD 0 none = none ∧
      (sampling [job1] none).chip.srv.jobs.getD 0 [] = job1 :: []) ∧
    ((sampling [] (some job1)).chip.srv.job.getD 0 none = some job1 ∧ serving (sampling [] (some job1)).chip = true ∧
      still (sampling [] (some job1)).chip = true ∧
      (sampling [] (some job1)).chip.plan.stepStart ≤ (sampling [] (some job1)).chip.count) :=
  ⟨⟨rfl, rfl, rfl⟩, fun h => absurd h (by decide), rfl, rfl, by decide, by decide, by decide, by decide, ⟨by decide, rfl, rfl⟩,
    ⟨rfl, by decide, rfl, by decide⟩⟩

/-- A plan with a logits region 0 and the sampler region 1 of die 0, a vocabulary of 32 tokens, serving on. -/
def greedyChip (j : Job) (m : List Host.Cell) : Chip :=
  let p := { placed.chip.plan with
    image := some { im1 with regions := [⟨0, 0, 0, 0, false, false, 65536, 0⟩, ⟨1, 0, 0, 0, false, false, 131072, 0⟩] }
    place := some { pl1 with hbm := [⟨0, 0, 0, none, 0, 0⟩, ⟨1, 0, 0, none, 0, 65536⟩] } }
  { placed.chip with plan := p, mem := m, regs := (key 0x6000 1, 1) :: (key 0x6000 2, 32) :: (key 0x6003 1, 1) :: placed.chip.regs
                     srv := { Serving.reset with job := [some j, none, none, none] } }

/-- A job of a mode and a number of rows for session 1, at temperature 0. -/
def greedyJob (mode rows : Byte) : Job :=
  ⟨5, [1, 0, mode, rows, 0, 0, 0, 0, 0, 0, 0, 0, 0, 0, 0, 0, 3, 0, 0, 0, 7, 0, 0, 0], 0, 0, { Sess.free with topk := 1 }, []⟩

theorem logits_addr (j : Job) (m : List Host.Cell) (l : Nat) :
    regionAddr (greedyChip j m) ⟨0, 0, 0, 0, false, false, 65536, 0⟩ l = 64 * l := by
  change 0 * 0x1400000000 + (0 * 0x500000000 + 0 + 64 * l) = _; omega

theorem sampler_addr (j : Job) (m : List Host.Cell) (l : Nat) :
    regionAddr (greedyChip j m) ⟨1, 0, 0, 0, false, false, 131072, 0⟩ l = 65536 + 64 * l := by
  change 0 * 0x1400000000 + (0 * 0x500000000 + 65536 + 64 * l) = _; omega

/-- Of a row of zeros the lowest token is the greedy one. -/
theorem greedy_zeros (x : Nat → Word) (h : ∀ i < 32, x i = 0) : IsGreedy 32 x 0 := by
  have hz : logit (0 : Word) = some 0 := by decide
  refine ⟨by decide, 0, by rw [h 0 (by decide)]; exact hz, fun i hi u hu => ?_⟩
  rw [h i hi, hz] at hu
  cases hu
  exact .inr ⟨rfl, Nat.zero_le _⟩

theorem greedyJob_ok (mode rows : Byte) (n d0 : Nat) (m : List Host.Cell) (hr : rows.toNat = n) (hn : n ≤ 2)
    (hok : jobOk (greedyJob mode rows).bytes = true)
    (hm : ∀ i < 2, ∀ k < 32, logitAt (greedyChip (greedyJob mode rows) m) ⟨0, 0, 0, 0, false, false, 65536, 0⟩ (2 * i) false k = 0)
    (hd : leNat (memBytes m (65536 + 64 * 768) 4) = d0) :
    GreedyJob (greedyChip (greedyJob mode rows) m) 0 (greedyJob mode rows) ⟨1, 0, 0, 0, false, false, 131072, 0⟩
      ⟨0, 0, 0, 0, false, false, 65536, 0⟩ (fun _ => 0) (fun _ => d0) false := by
  have hrow : jobRow (greedyChip (greedyJob mode rows) m) (greedyJob mode rows).bytes = 2 := by
    change reg (greedyChip (greedyJob mode rows) m) (key 0x6000 2) / 16 = 2
    rw [show reg (greedyChip (greedyJob mode rows) m) (key 0x6000 2) = 32 from rfl]
  have hrows : leNat (((greedyJob mode rows).bytes.drop 3).take 1) = n := by
    change rows.toNat + 256 * 0 = n; omega
  refine { serves := rfl, running := rfl, still := rfl, begun := Nat.zero_le _, ok := hok, fresh := rfl, calm := rfl,
           greedy := ⟨rfl, Nat.le_refl 1, rfl, rfl⟩,
           vocabulary := (by rw [show reg (greedyChip (greedyJob mode rows) m) (key 0x6000 2) = 32 from rfl]), region := ?_, rows := ?_, tokens := ?_, drafts := ?_,
           room := by decide }
  · intro l hl
    have hl' : l < 2048 := hl
    have ha := sampler_addr (greedyJob mode rows) m l
    refine ⟨rfl, by decide, by omega, by change (l : Int) < (2048 : Nat); omega, ?_, ?_, rfl⟩ <;> simp only [Int.toNat_natCast] <;>
      rw [ha] <;> omega
  · intro i hi k hk
    rw [hrows] at hi; rw [hrow] at hk ⊢
    have ha := logits_addr (greedyJob mode rows) m (0 + 2 * i + k)
    refine ⟨⟨rfl, by decide, by omega, by change ((0 + 2 * i + k : Nat) : Int) < (1024 : Nat); omega, ?_, ?_, rfl⟩, rfl⟩
    · change regionAddr (greedyChip (greedyJob mode rows) m) _ (0 + 2 * i + k) % 64 = 0; rw [ha]; omega
    · change regionAddr (greedyChip (greedyJob mode rows) m) _ (0 + 2 * i + k) < 0x30000000000; rw [ha]; omega
  · intro i hi
    rw [hrows] at hi; rw [hrow]
    have h := hm i (by omega)
    have e : leNat (((greedyJob mode rows).bytes.drop 0xC).take 4) + 2 * i = 2 * i := by change 0 + 2 * i = _; omega
    rw [e]
    exact greedy_zeros _ h
  · intro i hi
    rw [hrows] at hi
    have : i = 0 := by omega
    subst this
    refine ⟨fun k hk => ⟨?_, rfl⟩, ?_⟩
    · change 768 + 288 * 0 + 36 * 0 + k < 2048; omega
    · have ha := sampler_addr (greedyJob mode rows) m 768
      change d0 = leNat (memBytes m (regionAddr _ _ 768) 4)
      rw [ha, ← hd]

/-- That plan as a state. -/
def greedy (j : Job) (m : List Host.Cell) : State := { placed with chip := greedyChip j m }

/-- A target draw, a verification whose draft is the greedy token, one whose draft is not, and a first draft. -/
theorem witness_SamplerResults :
    (∀ j m, Quiet (greedy j m)) ∧ (∀ mode rows, UpToDate (greedy (greedyJob mode rows) []).chip) ∧
    (∃ d bad, GreedyJob (greedy (greedyJob 0 1) []).chip 0 (greedyJob 0 1) ⟨1, 0, 0, 0, false, false, 131072, 0⟩
      ⟨0, 0, 0, 0, false, false, 65536, 0⟩ (fun _ => 0) d bad) ∧
    GreedyJob (greedy (greedyJob 2 2) []).chip 0 (greedyJob 2 2) ⟨1, 0, 0, 0, false, false, 131072, 0⟩
      ⟨0, 0, 0, 0, false, false, 65536, 0⟩ (fun _ => 0) (fun _ => 0) false ∧
    GreedyJob (greedy (greedyJob 2 2) [⟨65536 + 64 * 768, 9⟩]).chip 0 (greedyJob 2 2) ⟨1, 0, 0, 0, false, false, 131072, 0⟩
      ⟨0, 0, 0, 0, false, false, 65536, 0⟩ (fun _ => 0) (fun _ => 9) false ∧
    (∃ d bad, GreedyJob (greedy (greedyJob 1 1) []).chip 0 (greedyJob 1 1) ⟨1, 0, 0, 0, false, false, 131072, 0⟩
      ⟨0, 0, 0, 0, false, false, 65536, 0⟩ (fun _ => 0) d bad) ∧
    leNat (((greedyJob 1 1).bytes.drop 5).take 1) = 0 ∧
    768 + 288 * leNat (((greedyJob 1 1).bytes.drop 6).take 2) + 36 ≤ 131072 / 64 :=
  ⟨fun _ _ => ⟨rfl, rfl, rfl⟩, fun _ _ _ => by change 0 + countCycle placed.chip ≤ 0; decide +kernel,
    ⟨_, _, greedyJob_ok 0 1 1 0 [] rfl (by decide) rfl (by decide +kernel) (by decide +kernel)⟩,
    greedyJob_ok 2 2 2 0 [] rfl (by decide) rfl (by decide +kernel) (by decide +kernel),
    greedyJob_ok 2 2 2 9 _ rfl (by decide) rfl (by decide +kernel) (by decide +kernel),
    ⟨_, _, greedyJob_ok 1 1 1 0 [] rfl (by decide) rfl (by decide +kernel) (by decide +kernel)⟩, by decide, by decide⟩

/-! ## Queue, tick and launch -/

theorem witness_StepRunsFront : ({ State.reset with pending := [.submit, .perst] } : State).pending = .submit :: [.perst] := rfl

theorem witness_IdleTick : State.reset.pending = [] ∧ Quiet State.reset ∧ State.reset.chip.plan.state ≠ .running ∧
    (State.reset.chip.power.phase = .running ∧ State.reset.chip.count + 1 < 2 ^ 64 ∧ State.reset.chip.plan.loading = none ∧
      State.reset.chip.sec.burnTo = none ∧ State.reset.chip.sec.claim = none) ∧
    (Quiet play ∧ play.pending = [] ∧ play.chip.plan.state = .running ∧ still play.chip = true ∧
      (∀ d < 4, (stewAt play.chip d).routine = .none) ∧ play.chip.count + 1 < boundaryAt play.chip - 256) ∧
    (chipOf (fun c => { c with power := { c.power with phase := .off } })).chip.power.phase ≠ .running :=
  ⟨rfl, ⟨rfl, rfl, rfl⟩, by decide, ⟨rfl, by decide, rfl, rfl, rfl⟩,
    ⟨⟨rfl, rfl, rfl⟩, rfl, rfl, rfl, by decide, by decide⟩, by decide⟩

/-- A plan in a state, with entries. -/
def armable (st : PlanState) (l : SMap Nat) (f : Time → Time) : State :=
  chipOf (fun c => { c with plan := { c.plan with state := st, image := some { im with devIds := [7] } }, regs := l,
                            time := f c.time })

/-- Device 7, a time root. -/
def rootRegs : SMap Nat := [(key 0x1020 1, 7), (key 0x8010 1, 7)]

/-- Device 8 under root 7, its parents on ports 1 and 2. -/
def leafRegs : SMap Nat :=
  [(key 0x1020 1, 8), (key 0x8010 1, 7), (key 0x8030 5, 1), (key 0x8030 6, 2), (key 0x5101 9, 7), (key 0x5102 9, 7),
   (key 0x8010 3, 1)]

theorem witness_Arming :
    (Quiet (armable .loaded rootRegs id) ∧ MayArm (armable .loaded rootRegs id).chip .loaded) ∧
    MayArm (armable .loaded leafRegs id).chip .loaded ∧
    (armsAt (armable .loaded rootRegs id).chip (2 ^ 64 - 4) ∧ armsAt (armable .loaded leafRegs id).chip (2 ^ 64 - 4)) ∧
    (MayArm (armable .loaded ((key 0x8040 1, 1) :: leafRegs) id).chip .loaded ∧
      qz5 (armable .loaded ((key 0x8040 1, 1) :: leafRegs) id).chip = true ∧
      armsAt (armable .loaded ((key 0x8040 1, 1) :: leafRegs) id).chip (2 ^ 64 - 2)) ∧
    (MayArm (armable .halted leafRegs id).chip .halted ∧ (armable .halted leafRegs id).chip.plan.loading = none) ∧
    ((armable .armed ((key 0x8030 1, 2 ^ 32) :: leafRegs) id).chip.plan.state = .armed ∧
      (armable .armed ((key 0x8030 1, 2 ^ 32) :: leafRegs) id).chip.count <
        launchL (armable .armed ((key 0x8030 1, 2 ^ 32) :: leafRegs) id).chip -
          launchD (armable .armed ((key 0x8030 1, 2 ^ 32) :: leafRegs) id).chip) :=
  ⟨⟨⟨rfl, rfl, rfl⟩, rfl, rfl, rfl, by decide, by decide⟩, ⟨rfl, rfl, rfl, by decide, by decide⟩, ⟨by unfold armsAt; decide, by unfold armsAt; decide⟩,
    ⟨⟨rfl, rfl, rfl, by decide, by decide⟩, by decide, by unfold armsAt; decide⟩, ⟨⟨rfl, rfl, rfl, by decide, by decide⟩, rfl⟩, rfl, by decide⟩

/-- A first copy that agrees with a module whose launch is at L. -/
def copyFor (c : Chip) (hops : Nat) : List Byte :=
  leBytes 8 (launchL c) ++ slice (settingsDigest c) 0 16 ++ leBytes 4 (reg c (key 0x8010 1)) ++ leBytes 2 (tagNow c) ++
    leBytes 1 (reg c (key 0x8040 1)) ++ leBytes 1 hops ++ List.replicate 32 0

/-- An armed module that a copy has reached on its parent port A. -/
def hears (l : SMap Nat) (b : List Byte) (t : Nat) : State :=
  let s := armable .armed ((key 0x8030 4, 1) :: (key 0x8030 1, 2 ^ 32) :: l) id
  { s with chip := { s.chip with ports := [(1, { Port.reset with ctl := [⟨4, 0x20, b, 16 * t⟩] })] } }

theorem length_settingsDigest (c : Chip) : (settingsDigest c).length = 16 := by simp [settingsDigest]

theorem slice_exact {b : List Byte} {n : Nat} (h : b.length = n) : slice b 0 n = b := by
  subst h; simp [slice]

/-- The fields of a launch message made of its parts. -/
theorem copy_fields (l r t m h : Nat) (d : List Byte) (hd : d.length = 16) :
    let b := leBytes 8 l ++ d ++ leBytes 4 r ++ leBytes 2 t ++ leBytes 1 m ++ leBytes 1 h ++ List.replicate 32 0
    b.length = 64 ∧ field b 0 8 = l % 256 ^ 8 ∧ slice b 8 16 = d ∧ field b 24 4 = r % 256 ^ 4 ∧ field b 28 2 = t % 256 ^ 2 ∧
      field b 30 1 = m % 256 ^ 1 ∧ field b 31 1 = h % 256 ^ 1 := by
  match d, hd with
  | [d0, d1, d2, d3, d4, d5, d6, d7, d8, d9, d10, d11, d12, d13, d14, d15], _ =>
    refine ⟨by simp, ?_, rfl, ?_, ?_, ?_, ?_⟩ <;> rw [← leNat_leBytes] <;> rfl

/-- A first copy that agrees and comes in time, one that differs in its count, and one that comes at L − D. -/
theorem agrees_copy (c : Chip) (h : Nat) (hh : h ≤ 8) (hl : launchL c < 2 ^ 64) (hr : reg c (key 0x8010 1) < 2 ^ 18)
    (ht : tagNow c < 4096) (hm : reg c (key 0x8040 1) < 256) : Agrees c (slice (copyFor c h) 0 64) := by
  have hs : slice (settingsDigest c) 0 16 = settingsDigest c := slice_exact (length_settingsDigest c)
  have hc := copy_fields (launchL c) (reg c (key 0x8010 1)) (tagNow c) (reg c (key 0x8040 1)) h (settingsDigest c)
    (length_settingsDigest c)
  unfold copyFor; rw [hs, slice_exact hc.1]
  exact ⟨by rw [hc.2.1]; omega, hc.2.2.1, by rw [hc.2.2.2.1]; omega, by rw [hc.2.2.2.2.1]; omega,
    by rw [hc.2.2.2.2.2.1]; omega, by rw [hc.2.2.2.2.2.2]; omega⟩

/-- An armed leaf; the copy is made for it. -/
def armedLeaf : State := hears leafRegs [] 0

/-- The leaf with that copy. -/
def leafHears (t : Nat) : State := hears leafRegs (copyFor armedLeaf.chip 1) t

theorem witness_LaunchMessage_root : Listens (hears rootRegs [] 0) ∧ isRoot (hears rootRegs [] 0).chip = true ∧
    (hears rootRegs [] 0).chip.time.emitted = false :=
  ⟨⟨⟨rfl, rfl, rfl⟩, rfl, by decide, by decide⟩, by decide, rfl⟩

theorem witness_LaunchMessage_copy :
    Listens (leafHears 9) ∧ (1 : Nat) = portA (leafHears 9).chip ∧ isRoot (leafHears 9).chip = false ∧
    takeLaunch (portAt (leafHears 9).chip 1) = some (0x20, ⟨4, 0x20, copyFor armedLeaf.chip 1, 16 * 9⟩, Port.reset) ∧
    (leafHears 9).chip.time.copyEnd ≤ 16 * 9 / 16 ∧ Agrees (leafHears 9).chip (slice (copyFor armedLeaf.chip 1) 0 64) ∧
    16 * 9 / 16 < launchL (leafHears 9).chip - launchD (leafHears 9).chip ∧
    launchL (leafHears (2 ^ 32)).chip - launchD (leafHears (2 ^ 32)).chip ≤ 16 * 2 ^ 32 / 16 := by
  refine ⟨⟨⟨rfl, rfl, rfl⟩, rfl, by decide, by decide⟩, by decide, by decide, rfl, by decide, ?_, by decide, by decide⟩
  have h := agrees_copy (leafHears 9).chip 1 (by decide) (by decide) (by decide) (by decide) (by decide)
  exact h

/-- A copy with another digest. -/
def otherCopy : List Byte :=
  leBytes 8 (2 ^ 32) ++ (settingsDigest armedLeaf.chip).map (fun x => x ^^^ 1) ++ leBytes 4 0 ++ leBytes 2 0 ++
    leBytes 1 0 ++ leBytes 1 8 ++ List.replicate 32 0

/-- A copy of another launch count, and one of other settings. -/
theorem witness_LaunchMessage_refused :
    (field (slice (leBytes 8 5) 0 64) 31 1 ≤ 8 ∧ field (slice (leBytes 8 5) 0 64) 0 8 ≠ launchL (hears leafRegs (leBytes 8 5) 9).chip ∧
      16 * 9 / 16 < launchL (hears leafRegs (leBytes 8 5) 9).chip - launchD (hears leafRegs (leBytes 8 5) 9).chip) ∧
    (slice otherCopy 0 64 = otherCopy ∧ field otherCopy 31 1 ≤ 8 ∧ field otherCopy 0 8 = launchL armedLeaf.chip ∧
      slice otherCopy 8 16 ≠ settingsDigest armedLeaf.chip) := by
  refine ⟨by decide, ?_⟩
  have hd : ((settingsDigest armedLeaf.chip).map (fun x => x ^^^ 1)).length = 16 := by
    rw [List.length_map, length_settingsDigest]
  have hc := copy_fields (2 ^ 32) 0 0 0 8 _ hd
  unfold otherCopy
  refine ⟨slice_exact hc.1, by rw [hc.2.2.2.2.2.2]; decide, by rw [hc.2.1]; decide, ?_⟩
  rw [hc.2.2.1]
  intro h
  match hs : settingsDigest armedLeaf.chip, length_settingsDigest armedLeaf.chip with
  | x :: t, _ =>
    rw [hs, List.map_cons, List.cons.injEq] at h
    exact absurd h.1 ((by decide : ∀ y : Byte, y ^^^ 1 ≠ y) x)

theorem witness_LaunchBegins :
    (Quiet (armable .armed ((key 0x8030 4, 2) :: leafRegs) id) ∧
      (armable .armed ((key 0x8030 4, 2) :: leafRegs) id).chip.plan.state = .armed ∧
      qz5 (armable .armed ((key 0x8030 4, 2) :: leafRegs) id).chip = false ∧
      reg (armable .armed ((key 0x8030 4, 2) :: leafRegs) id).chip (key 0x8030 4) = 2) ∧
    (let s := armable .armed ((key 0x8040 1, 1) :: (key 0x8030 4, 2) :: rootRegs)
        (fun t => { t with qz5Start := some 64, qz5Emit := some 32 });
      s.chip.time.qz5Start = some 64 ∧ s.chip.time.qz5Emit = some 32 ∧ qz5 s.chip = true ∧ isRoot s.chip = true ∧
        reg s.chip (key 0x8030 4) = 2) :=
  ⟨⟨⟨rfl, rfl, rfl⟩, rfl, by decide, by decide⟩, rfl, rfl, by decide, by decide, by decide⟩

/-! ## The clock -/

/-- A leaf whose parent port 1 is in a state and holds a control carriage. -/
def checks (st : PlanState) (l : SMap Nat) (q : Port) : State :=
  let s := armable st (l ++ leafRegs) id
  { s with chip := { s.chip with count := 100, ports := [(1, q)] } }

/-- A stamp of count 90 and its answer. -/
def stampOf (type at16 : Nat) : Ctl := ⟨3, type, leBytes 8 90 ++ [0, 0, 0, 0] ++ leBytes 4 0, at16⟩

/-- Port 1 has trained at link version 3. -/
def v3 : SMap Nat := [(key 0x5101 4, 3)]

theorem witness_AlignmentChecks :
    (Quiet (checks .running [] { Port.reset with ctl := [stampOf 1 1600] }) ∧
      takeCtl { Port.reset with ctl := [stampOf 1 1600] } 3 1 = some (stampOf 1 1600, Port.reset) ∧ Port.reset.st ≠ .active) ∧
    (let q := { Port.reset with st := .active, stamp := some (64, 0), ctl := [stampOf 2 1440] };
      takeCtl q 3 2 = some (stampOf 2 1440, { q with ctl := [] }) ∧ q.st = .active ∧ q.stamp = some (64, 0) ∧
      portVersion (checks .running v3 q).chip 1 = 3 ∧ runs (checks .running v3 q).chip = true ∧ follows (checks .running v3 q).chip 1 = true ∧
      ((64 : Int) - (((1440 - (16 * field (stampOf 2 1440).payload 0 8 + field (stampOf 2 1440).payload 8 1) -
        field (stampOf 2 1440).payload 12 4) / 2 : Nat) : Int)).natAbs ≤ 64) ∧
    (let q := { Port.reset with st := .active, stamp := some (65, 0), ctl := [stampOf 2 1440] };
      64 < ((65 : Int) - (((1440 - (16 * field (stampOf 2 1440).payload 0 8 + field (stampOf 2 1440).payload 8 1) -
        field (stampOf 2 1440).payload 12 4) / 2 : Nat) : Int)).natAbs ∧ q.stamp = some (65, 0)) ∧
    (let q := { Port.reset with st := .active, trip := some 0, ctl := [stampOf 1 1442] };
      takeCtl q 3 1 = some (stampOf 1 1442, { q with ctl := [] }) ∧ q.trip = some 0 ∧ portVersion (checks .loaded v3 q).chip 1 = 3 ∧ runs (checks .loaded v3 q).chip = false ∧
      follows (checks .loaded v3 q).chip 1 = true ∧ reg (checks .loaded v3 q).chip (key 0x8010 3) < 2 ∧
      (checks .loaded v3 q).chip.count < 2 ^ 64) ∧
    (isRoot (checks .loaded [] Port.reset).chip = false ∧ portA (checks .loaded [] Port.reset).chip < 32 ∧
      quietA (checks .loaded [] Port.reset).chip = false ∧ reg (checks .loaded [] Port.reset).chip (key 0x8010 3) ≠ 3 ∧
      (portAt (checks .loaded [] Port.reset).chip (portA (checks .loaded [] Port.reset).chip)).st ≠ .active) :=
  ⟨⟨⟨rfl, rfl, rfl⟩, rfl, by decide⟩, ⟨rfl, rfl, rfl, by decide, by decide, by decide, by decide⟩, ⟨by decide, rfl⟩,
    ⟨rfl, rfl, by decide, by decide, by decide, by decide, by decide⟩, by decide, by decide, by decide, by decide, by decide⟩

theorem witness_FrequencyAndReference :
    (Quiet State.reset ∧ runs State.reset.chip = false ∧ State.reset.chip.plan.loading = none ∧
      State.reset.chip.time.changing = false ∧ 524288 % 2 = 0 ∧ State.reset.chip.count + 524288 ≤ 524288) ∧
    reg (chipOf (fun c => { c with regs := [(key 0x8000 3, 600000)] })).chip (key 0x8000 3) ≠ 2 ^ 64 - 1 ∧
    (chipOf (fun c => { c with time := { c.time with changing := true } })).chip.time.changing = true ∧
    State.reset.chip.time.refLost = false ∧
    (chipOf (fun c => { c with time := { c.time with refLost := true } })).chip.time.refLost = true ∧
    reg (chipOf (fun c => { c with regs := [(key 0x8000 4, 2)] })).chip (key 0x8000 4) = 2 :=
  ⟨⟨⟨rfl, rfl, rfl⟩, by decide, rfl, rfl, by decide, by decide⟩, by decide, rfl, rfl, rfl, by decide⟩

end Sys2Proof.Tests
end

