-- ==== Sys2Proof/Tests/Witness4.lean ====
section
/-! SUPPORT. Witnesses, continued: links. -/

namespace Sys2Proof.Tests

-- One proof at a time: together they ask for more threads than the memory limit has room for.
set_option Elab.async false

open Sys2Proof Sys2Proof.Machine Sys2Proof.Claims

/-- A module with a state of port 4, entries of version 3 and width 4, and more entries. -/
def linkWith (q : Port) (l : SMap Nat) : State :=
  chipOf (fun c => { c with ports := [(4, q)], regs := l ++ [(key 0x5104 4, 3), (key 0x5104 5, 4)] })

/-- A message control carriage, and a coach. -/
def msg0 : Carriage := ⟨4, 0, 0x20, List.replicate 256 0⟩

/-- A port that sends is ready for slot 0: no plan runs. -/
theorem slotReady_link (q : Port) (l : SMap Nat) (h : portSends q.st = true) (hn : q.slotNext = 0) (hk : q.nakAck = none)
    (hc : q.badCrc = 0) (hr : q.replay.length < 2048) : SlotReady (linkWith q l) 4 0 :=
  { quiet := ⟨rfl, rfl, rfl⟩, sends := h, next := Nat.le_of_eq hn, steady := (fun _ _ n x h => by change q.nakAck = some (n, x) at h; rw [hk] at h; cases h), crc := hc, calm := rfl, room := hr,
    done := fun h => absurd h (by change PlanState.empty ≠ PlanState.running; decide) }

/-- The four messages whose payload the slot that sends them settles. -/
def msgOf (type : Nat) : Carriage := ⟨4, 0, type, List.replicate 256 0⟩

/-- A port that has one to send. -/
def sending (type : Nat) : Port :=
  { Port.reset with st := .active, msgs := [msgOf type], acceptW := some 2, fwdAt := [some 0] }

theorem witness_SlotSends :
    (let q := { Port.reset with st := .measure };
      Quiet (linkWith q []) ∧ portSends q.st = true ∧ q.badLane = none ∧ (linkWith q []).chip.err.inj = none ∧
        (linkWith q []).chip.count % superframeLen (linkWith q []).chip 4 = 0) ∧
    (SlotReady (linkWith (sending 0x20) []) 4 0 ∧ (sending 0x20).burst = [] ∧ (sending 0x20).st = .active) ∧
    (SlotReady (linkWith { Port.reset with st := .active, burst := [(7, msg0), (8, msg0)] } []) 4 0 ∧
      (portAt (linkWith { Port.reset with st := .active, burst := [(7, msg0), (8, msg0)] } []).chip 4).burst = (7, msg0) :: [(8, msg0)] ∧
      [(8, msg0)] ≠ []) ∧
    SlotReady (linkWith { Port.reset with st := .align } []) 4 0 ∧ SlotReady (linkWith { Port.reset with st := .exchange } []) 4 0 ∧
    (let q := { Port.reset with st := .measure, timed := [⟨3, 0, 1, List.replicate 256 0⟩] };
      SlotReady (linkWith q []) 4 0 ∧ ∀ x ∈ q.timed, x.kind = 3) :=
  ⟨⟨⟨rfl, rfl, rfl⟩, rfl, rfl, rfl, rfl⟩, ⟨slotReady_link _ _ rfl rfl rfl rfl (by decide), rfl, rfl⟩,
    ⟨slotReady_link _ _ rfl rfl rfl rfl (by decide), rfl, by decide⟩, slotReady_link _ _ rfl rfl rfl rfl (by decide),
    slotReady_link _ _ rfl rfl rfl rfl (by decide), slotReady_link _ _ rfl rfl rfl rfl (by decide), by decide⟩

theorem witness_SentMessages (type : Nat) (h : type ∈ [0x21, 0x22, 0x24, 0x25]) :
    SlotReady (linkWith (sending type) []) 4 0 ∧ (sending type).burst = [] ∧ (sending type).st = .active ∧
    (toSend (portOpen (linkWith (sending type) []).chip 4) (sending type) 0).head? = some (msgOf type) ∧
    (msgOf type).kind = 4 ∧ (msgOf type).fields % 256 = type ∧ (sending type).acceptW = some 2 ∧ (sending type).fwdAt = some 0 :: [] ∧
    superframeAt (linkWith (sending type) []).chip 4 (slotStart16 (linkWith (sending type) []).chip 4 0 / 16 + 5440) < 2 ^ 64 ∧
    8 ≤ (msgOf type).payload.length := by
  refine ⟨slotReady_link _ _ rfl rfl rfl rfl (Nat.zero_lt_succ 2047), rfl, rfl, rfl, rfl, ?_, rfl, rfl, ?_, ?_⟩
  · simp only [List.mem_cons, List.not_mem_nil, or_false] at h
    rcases h with rfl | rfl | rfl | rfl <;> rfl
  · simp only [List.mem_cons, List.not_mem_nil, or_false] at h
    rcases h with rfl | rfl | rfl | rfl <;> decide
  · change 8 ≤ (List.replicate 256 (0 : Byte)).length; rw [List.length_replicate]; omega

/-- A port with a carriage to repeat, whose next slot begins before the NAK is a tick old, or after it. -/
def stored : Port := { Port.reset with st := .active, replay := [⟨0, msg0, 160⟩], nakAck := some (65535, 320), nakOut := some 5 }

/-- A coach for port 6 on port 4's through path. -/
def passing : Port := { Port.reset with through := [(6, ⟨0, 0, 0, 0, []⟩, 32)] }

theorem witness_ReplayAndThrough : Quiet (linkWith stored []) ∧ (portAt (linkWith stored []).chip 4).nakAck = some (65535, 320) ∧
    (portAt (linkWith stored []).chip 4).burst = [] ∧ (⟨0, msg0, 160⟩ : Stored) ∈ (portAt (linkWith stored []).chip 4).replay ∧
    (⟨0, msg0, 160⟩ : Stored).seq = (65535 + 1) % 65536 ∧ (portAt (linkWith stored []).chip 4).replay = ⟨0, msg0, 160⟩ :: [] ∧
    (portAt (linkWith stored []).chip 4).nakOut = some 5 ∧
    (portAt (linkWith passing []).chip 4).through = (6, ⟨0, 0, 0, 0, []⟩, 32) :: [] ∧
    slotStart16 (linkWith stored []).chip 4 stored.slotNext < 320 + 16 ∧
    320 + 16 ≤ slotStart16 (linkWith { stored with slotNext := 40 } []).chip 4 { stored with slotNext := 40 }.slotNext :=
  ⟨⟨rfl, rfl, rfl⟩, rfl, rfl, List.mem_singleton.mpr rfl, rfl, rfl, rfl, rfl, by decide, by decide⟩

/-- A carriage of a kind that fits. -/
def carr (k fields : Nat) : Carriage := ⟨k, 0, fields, List.replicate 256 0⟩

theorem fits_carr (k fields seq : Nat) (hk : k < 16) (hf : fields < 2 ^ 38) (hs : seq < 65536) : Fits (carr k fields) seq 65535 :=
  ⟨hk, (by decide : (0 : Nat) < 16), hf, List.length_replicate, hs, by decide⟩

/-- A port that expects carriage 5, without and with a logical fence. -/
def expects (l : SMap Nat) : State := linkWith { Port.reset with st := .active, expect := 5 } l

/-- Codewords with 15 wrong symbols, and with 16. -/
def good15 : FecInfo := ⟨[List.replicate 15 0, []], true⟩
def lost16 : FecInfo := ⟨[[], List.replicate 16 0], false⟩

theorem sound15 (q : Port) (h : q.fecBad = false) : ¬fails q good15 := by
  rintro (⟨w, hw, hl⟩ | ⟨_, hb⟩)
  · simp only [good15, List.mem_cons, List.not_mem_nil, or_false] at hw
    rcases hw with rfl | rfl <;> simp at hl
  · rw [h] at hb; cases hb

theorem witness_CarriageTaken : Quiet (expects []) ∧ portCarries (portAt (expects []).chip 4).st = true ∧
    portVersion (expects []).chip 4 ≠ 2 ∧ portVersion (expects [(key 0x5104 4, 2)]).chip 4 = 2 ∧ Fits (carr 0 0) 0 65535 ∧
    ¬fails (portAt (expects []).chip 4) good15 ∧ fails (portAt (expects []).chip 4) lost16 ∧
    fails { portAt (expects []).chip 4 with fecBad := true } ⟨[], false⟩ ∧
    (Fits (carr 4 0x20) 5 65535 ∧ Fits (carr 4 0x26) 5 65535 ∧ 0x20 ≤ (carr 4 0x20).fields % 256 ∧
      (carr 4 0x26).fields % 256 ≤ 0x26 ∧ (carr 4 0x1F).fields % 256 < 0x20 ∧ 0x26 < (carr 4 0x27).fields % 256) ∧
    ((carr 3 0x10).fields % 256 ∈ [1, 2, 3, 0x10] ∧ (carr 3 4).fields % 256 ∉ [1, 2, 3, 0x10]) ∧
    (Fits (carr 1 0) 4 65535 ∧ serialLt 4 (portAt (expects []).chip 4).expect = true) ∧
    (Fits (carr 1 0) 6 65535 ∧ serialLt 6 (portAt (expects []).chip 4).expect = false) ∧
    (Fits (carr 2 0) 5 65535 ∧ logicalFence (expects [(key 0x4002 2, 320)]).chip 4 = false ∧
      portOpen (expects [(key 0x4002 2, 320)]).chip 4 = true ∧
      (portAt (expects [(key 0x4002 2, 320)]).chip 4).recv.length < recvCap (expects [(key 0x4002 2, 320)]).chip) ∧
    (∃ c : Chip, c = { (expects [(key 0x4002 2, 319)]).chip with fab := { (expects []).chip.fab with overrun := [(4, 1)] } } ∧
      recvCap c ≤ (portAt c 4).recv.length ∧ smGet 0 c.fab.overrun 4 = 15 / 65536 + 1 ∧
      smGet 0 (expects []).chip.fab.overrun 4 ≠ 15 / 65536 + 1) ∧
    (logicalFence (expects [(key 0x5104 13, 1)]).chip 4 = true ∧ (carr 2 4).fields / 4 % 4096 ≠ tagNow (expects [(key 0x5104 13, 1)]).chip) ∧
    (∃ s : State, Quiet s ∧ portCarries (portAt s.chip 31).st = true ∧ portOpen s.chip 31 = false) ∧ ([] : List Byte).length ≠ 270 :=
  ⟨⟨rfl, rfl, rfl⟩, rfl, by decide, by decide, fits_carr _ _ _ (by decide) (by decide) (by decide),
    sound15 _ rfl, .inl ⟨List.replicate 16 0, by simp [lost16], by decide⟩, .inr ⟨.inr rfl, rfl⟩,
    ⟨fits_carr _ _ _ (by decide) (by decide) (by decide), fits_carr _ _ _ (by decide) (by decide) (by decide), by decide, by decide,
      by decide, by decide⟩, ⟨by decide, by decide⟩,
    ⟨fits_carr _ _ _ (by decide) (by decide) (by decide), by decide⟩, ⟨fits_carr _ _ _ (by decide) (by decide) (by decide), by decide⟩,
    ⟨fits_carr _ _ _ (by decide) (by decide) (by decide), by decide, by decide, by decide⟩, ⟨_, rfl, by decide, by decide, by decide⟩,
    ⟨by decide, by decide⟩, ⟨chipOf (fun c => { c with ports := [(31, { Port.reset with st := .active })] }), ⟨rfl, rfl, rfl⟩, rfl, by decide⟩,
    by decide⟩

/-- A running plan with a coach from port 5, and a port of it. -/
def carrying (q : Port) : State := { placed with chip := { placed.chip with ports := [(5, q)] } }

/-- The record of the coach's only hop. -/
def rec1 : SlotRec := ⟨0, 1, false, false, 1, 0, 0, 0⟩

/-- The coach comes to this module in slot 0 of port 5, and in no other. -/
theorem arrives_rec1 (c : Chip) (h : c.plan.place = some pl1) : Arrives c im1 5 0 rec1 ⟨0, 0, 0, 0, 0, 1, 1, 1, [0]⟩ 0 :=
  ⟨List.mem_singleton.mpr rfl, rfl, by rw [hopPort, h]; rfl, by decide, by rw [ownDev, h]; rfl, by decide⟩

theorem only_rec1 (c : Chip) (p slot : Nat) (sr : SlotRec) (r : CoachRow) (i : Nat) (h : Arrives c im1 p slot sr r i) :
    sr = rec1 ∧ slot = 0 := by
  have hs : sr = rec1 := List.mem_singleton.mp h.record
  have hr : r = ⟨0, 0, 0, 0, 0, 1, 1, 1, [0]⟩ := by
    have := h.row; rw [hs] at this; exact (Option.some.inj this).symm
  have h3 := h.slot
  subst hs; subst hr
  have h4 : slot = 0 + i * 1 := h3.2.2
  have h5 : i < 1 := h3.2.1
  exact ⟨rfl, by omega⟩

/-- A plan whose coach goes on by port 6. -/
def im2 : PlanImage := { im1 with coaches := [⟨0, 0, 0, 0, 0, 1, 1, 2, [0, 1]⟩], slots := [rec1, ⟨0, 2, true, false, 1, 3, 0, 0⟩] }
def relaying : State := { placed with chip := { placed.chip with
  plan := { placed.chip.plan with image := some im2, place := some { pl1 with hops := [(0, 1, 5), (0, 2, 6)] } }
  ports := [(5, { Port.reset with st := .active })] } }

/-- A coach for a free place, for one that is taken, for one that is read, and for a slot of no coach. -/
theorem witness_CoachDelivered : (∀ q, Quiet (carrying q) ∧ (carrying q).chip.plan.image = some im1 ∧
      portOpen (carrying q).chip 5 = true ∧ logicalFence (carrying q).chip 5 = false) ∧
    portCarries Port.reset.st = false ∧ portCarries .active = true ∧ Fits (carr 1 0) Port.reset.expect 65535 ∧
    ¬fails Port.reset good15 ∧
    (∀ q, Arrives (carrying q).chip im1 5 ((carr 1 0).fields % 2 ^ 25) rec1 ⟨0, 0, 0, 0, 0, 1, 1, 1, [0]⟩ 0 ∧
      ∀ sr r i, Arrives (carrying q).chip im1 5 ((carr 1 0).fields % 2 ^ 25) sr r i → sr = rec1) ∧
    (smGet none Port.reset.yard 0 = none ∧ nsMem Port.reset.yardRead (2 * 0 + 0) = false) ∧
    (∃ q : Port, smGet none q.yard 0 ≠ none) ∧ (∃ q : Port, nsMem q.yardRead (2 * 0 + 0) = true) ∧
    (∀ q sr r i, ¬Arrives (carrying q).chip im1 5 ((carr 1 1).fields % 2 ^ 25) sr r i) ∧
    (Arrives relaying.chip im2 5 0 rec1 ⟨0, 0, 0, 0, 0, 1, 1, 2, [0, 1]⟩ 0 ∧ hopPort relaying.chip 0 2 = some 6 ∧
      slotRec relaying.chip 0 2 = some ⟨0, 2, true, false, 1, 3, 0, 0⟩ ∧
      ∀ sr r i, Arrives relaying.chip im2 5 0 sr r i → sr = rec1) := by
  refine ⟨fun q => ⟨⟨rfl, rfl, rfl⟩, rfl, rfl, rfl⟩, rfl, rfl, fits_carr _ _ _ (by decide) (by decide) (by decide), sound15 _ rfl,
    fun q => ⟨arrives_rec1 _ rfl, fun sr r i h => (only_rec1 _ _ _ _ _ _ h).1⟩, ⟨rfl, rfl⟩,
    ⟨{ Port.reset with yard := [(0, some ⟨[], 0⟩)] }, by decide⟩, ⟨{ Port.reset with yardRead := [0] }, by decide⟩, ?_, ?_, rfl, rfl, ?_⟩
  · intro q sr r i h
    have := (only_rec1 _ _ _ _ _ _ h).2
    change 1 % 2 ^ 25 = 0 at this; omega
  · exact ⟨List.mem_cons_self .., rfl, rfl, by decide, rfl, by decide⟩
  · intro sr r i h
    have hm := h.record
    simp only [im2, List.mem_cons, List.not_mem_nil, or_false] at hm
    rcases hm with rfl | rfl
    · rfl
    · exact absurd h.port (by decide)

/-- Training records of version 3 that ask for at least version 2, and for at least version 4. -/
def recordOf (lo : Byte) : List Byte := [3, lo, 0, 4] ++ List.replicate 28 0 ++ [31]

theorem witness_Training :
    (Quiet (linkWith { Port.reset with st := .detect } []) ∧ (portAt (linkWith { Port.reset with st := .detect } []).chip 4).st = .detect) ∧
    ((portAt (linkWith { Port.reset with st := .equalize } []).chip 4).st = .equalize ∧
      2 ≤ ((List.range 5).filter (fun l => (24 : BitVec 5).getLsbD l)).length ∧
      ((List.range 5).filter (fun l => (16 : BitVec 5).getLsbD l)).length < 2) ∧
    (portAt (linkWith { Port.reset with st := .align } []).chip 4).st = .align ∧
    (let q := { Port.reset with st := .exchange, ctl := [⟨3, 0x10, recordOf 2, 0⟩] };
      q.st = .exchange ∧ takeCtl q 3 0x10 = some (⟨3, 0x10, recordOf 2, 0⟩, { q with ctl := [] })) ∧
    (let q := { Port.reset with st := .exchange, record := [recordOf 2, recordOf 2] };
      q.record = [recordOf 2, recordOf 2] ∧
        max 2 (field (recordOf 2) 1 1) ≤ min (reg (linkWith q []).chip (key 0x5000 1)) (field (recordOf 2) 0 1)) ∧
    min (reg (linkWith Port.reset []).chip (key 0x5000 1)) (field (recordOf 4) 0 1) < max 2 (field (recordOf 4) 1 1) ∧
    (let q := { Port.reset with st := .measure, results := (List.range 64).reverse };
      q.st = .measure ∧ q.results.length = 64 ∧ q.replay = [] ∧ (linkWith q []).chip.plan.image = none) ∧
    (portAt (linkWith { Port.reset with st := .active } []).chip 4).st = .active ∧
    (portAt (linkWith { Port.reset with st := .down } []).chip 4).st = .down ∧ portSends .align = true :=
  ⟨⟨⟨rfl, rfl, rfl⟩, rfl⟩, ⟨rfl, by decide, by decide⟩, rfl, ⟨rfl, rfl⟩, ⟨rfl, by decide⟩, by decide,
    ⟨rfl, by decide, rfl, rfl⟩, rfl, rfl, rfl⟩

theorem witness_PortCommands : (Serves State.reset ∧ (portAt State.reset.chip 4).st = .disabled ∧ runs State.reset.chip = false) ∧
    (runs (carrying Port.reset).chip = true ∧ rowsOnPort (carrying Port.reset).chip 5 ≠ [] ∧ rowsOnPort (carrying Port.reset).chip 6 = []) ∧
    ((portAt (linkWith { Port.reset with deferred := true } []).chip 4).deferred = true ∧
      (linkWith { Port.reset with deferred := true } []).chip.plan.state = .empty) ∧
    reg State.reset.chip (key 0x5410 4) < 2 ^ 64 ∧ (portAt (linkWith { Port.reset with st := .fenced } []).chip 4).st = .fenced :=
  ⟨⟨⟨⟨rfl, rfl, rfl⟩, fun h => absurd h (by decide)⟩, rfl, rfl⟩, ⟨by decide, by decide, by decide⟩, ⟨rfl, rfl⟩, by decide, rfl⟩

/-- A port with a control carriage. -/
def gets (type : Nat) (b : List Byte) (f : Port → Port) : Port := f { Port.reset with st := .active, ctl := [⟨4, type, b, 1600⟩] }

/-- The port without it. -/
def got (f : Port → Port) : Port := f { Port.reset with st := .active }

theorem witness_PortMessages_retrain :
    (Quiet (linkWith (gets 0x24 [2] id) []) ∧ takeCtl (gets 0x24 [2] id) 4 0x24 = some (⟨4, 0x24, [2], 1600⟩, got id) ∧
      (gets 0x24 [2] id).retrainOut = none ∧ ¬∃ y ∈ (got id).msgs, y.fields % 256 = 0x24) ∧
    ((gets 0x24 [2] (fun q => { q with msgs := [msgOf 0x24] })).retrainOut = none ∧
      ∃ y ∈ (got (fun q => { q with msgs := [msgOf 0x24] })).msgs, y.fields % 256 = 0x24) ∧
    ((gets 0x24 [2] (fun q => { q with retrainOut := some 4 })).retrainOut = some 4 ∧
      field ([2] : List Byte) 8 8 < (linkWith Port.reset []).fuses.unique * 256 + 4 ∧
      (linkWith Port.reset []).fuses.unique * 256 + 4 ≤ field (List.replicate 16 (255 : Byte)) 8 8) ∧
    takeCtl (gets 0x25 [0] (fun q => { q with retrainOut := some 4 })) 4 0x25 =
      some (⟨4, 0x25, [0], 1600⟩, got (fun q => { q with retrainOut := some 4 })) ∧
    ((got (fun q => { q with retrainAt := some (680, 2) })).retrainAt = some (680, 2) ∧ (got id).st = .active) ∧
    takeCtl (gets 0x26 [9] id) 4 0x26 = some (⟨4, 0x26, [9], 1600⟩, got id) :=
  ⟨⟨⟨rfl, rfl, rfl⟩, rfl, rfl, (by rintro ⟨y, hy, -⟩; cases hy)⟩, ⟨rfl, msgOf 0x24, List.mem_singleton.mpr rfl, rfl⟩,
    ⟨rfl, by decide, by decide⟩, rfl, ⟨rfl, rfl⟩, rfl⟩

/-- A step-start stamp from the parent in QZ5 time mode. -/
def stamped : State :=
  let c := { play.chip with regs := [(key 0x8040 1, 1), (key 0x8030 5, 4), (key 0x2010 4, 2048)] }
  { play with chip := { c with ports := [(4, { Port.reset with st := .active, ctl := [⟨3, 3, leBytes 8 0, 1600⟩] })] } }

theorem witness_PortMessages_stamp : Quiet stamped ∧
    takeCtl (portAt stamped.chip 4) 3 3 = some (⟨3, 3, leBytes 8 0, 1600⟩, got id) ∧ (4 : Nat) = portA stamped.chip ∧
    qz5 stamped.chip = true ∧ stamped.chip.plan.state = .running ∧ stamped.chip.plan.cut = false ∧
    stamped.chip.time.qz5Adjust = 0 ∧ field (leBytes 8 0) 0 8 = stamped.chip.plan.step :=
  ⟨⟨rfl, rfl, rfl⟩, rfl, by decide, by decide, rfl, rfl, rfl, by decide⟩

/-- Lanes 0 to 3 in use and lane 4 spare. -/
def spareMap : SMap Nat := [(key 0x5104 6, 8 ^ 1 + 2 * 8 ^ 2 + 3 * 8 ^ 3 + 4 * 8 ^ 4)]

theorem witness_PortMessages_lanes :
    (Quiet (linkWith (got id) spareMap) ∧ (portAt (linkWith (got id) spareMap).chip 4).st = .active ∧
      reg (linkWith (got id) spareMap).chip (key 0x5000 3) < 513 ∧
      mapLane (reg (linkWith (got id) spareMap).chip (key 0x5104 6)) 4 = (4 : Fin 5).val) ∧
    ((3 : Nat) < portWidth (linkWith (got id) spareMap).chip 4 ∧
      mapLane (reg (linkWith (got id) spareMap).chip (key 0x5104 6)) 3 = (3 : Fin 5).val ∧
      (∀ j < 3, mapLane (reg (linkWith (got id) spareMap).chip (key 0x5104 6)) j ≠ (3 : Fin 5).val) ∧
      mapLane (reg (linkWith (got id) spareMap).chip (key 0x5104 6)) 4 ≠ (3 : Fin 5).val ∧
      mapLane (reg (linkWith (got id) spareMap).chip (key 0x5104 6)) 4 ≠ 7 ∧
      reg (linkWith (got id) spareMap).chip (key 0x5000 2) = 1 ∧ (portAt (linkWith (got id) spareMap).chip 4).spareRx = none) ∧
    takeCtl (gets 0x22 [3] id) 4 0x22 = some (⟨4, 0x22, [3], 1600⟩, got id) ∧
    (takeCtl (gets 0x23 [3] (fun q => { q with spareRx := some (3, none) })) 4 0x23 =
        some (⟨4, 0x23, [3], 1600⟩, got (fun q => { q with spareRx := some (3, none) })) ∧
      (got (fun q => { q with spareTx := some (3, 9) })).spareTx = some (3, 9) ∧
      (got (fun q => { q with spareRx := some (0, some 9) })).spareRx = some (0, some 9)) :=
  ⟨⟨⟨rfl, rfl, rfl⟩, rfl, by decide, by decide⟩, ⟨by decide, by decide, by decide, by decide, by decide, by decide, rfl⟩, rfl, rfl, rfl, rfl⟩

end Sys2Proof.Tests
end

