-- ==== Sys2Proof/Tests/Witness5.lean ====
section
/-! SUPPORT. Witnesses, continued: carts, plans, entries and commits. -/

namespace Sys2Proof.Tests

-- One proof at a time: together they ask for more threads than the memory limit has room for.
set_option Elab.async false

open Sys2Proof Sys2Proof.Machine Sys2Proof.Claims

/-! ## Carts -/

/-- Device 0 with the routes of R35 and a state of port 0. -/
def netOf (q : Port) (f : Chip → Chip) : State :=
  chipOf (fun c => f { c with regs := [(key 0x1020 1, 0)], blobs := [(key 0x5300 1, defaultRoutes 0)], ports := [(0, q)] })

/-- A cart with no data for a device. -/
def cartTo (dst type hops : Nat) : Cart := ⟨0, false, 0, dst, 0, [0, 0, 0, 0] ++ leBytes 1 type ++ leBytes 1 hops ++ List.replicate 250 0⟩

/-- A port that has received a cart, with carts in its egress queue. -/
def brings (x : Cart) (n : Nat) : Port := { Port.reset with st := .active, recv := [(x, 0)], egress := List.replicate n (cartTo 1 0 0) }

theorem ports_one (c : Chip) (q : Port) (h : c.ports = [(0, q)]) (k : Nat) (hk : k ≠ 0) : portAt c k = Port.reset := by
  simp [portAt, h, smGet, Ne.symm hk]

theorem others_empty (c : Chip) (q : Port) (h : c.ports = [(0, q)]) :
    ∀ k, k / 8 = (0 : Fin 4).val → k ≠ (0 : Fin 32).val → (portAt c k).recv = [] := by
  intro k _ hk; rw [ports_one c q h k hk]; rfl

/-- What the head of port 0's queue has in common in the witnesses. -/
theorem cart_waits (x : Cart) (n : Nat) : Quiet (netOf (brings x n) id) ∧ (netOf (brings x n) id).chip.time.changing = false ∧
    (0 : Fin 32).val / 8 = (0 : Fin 4).val ∧ (portAt (netOf (brings x n) id).chip (0 : Fin 32).val).recv = (x, 0) :: [] ∧
    (∀ k, k / 8 = (0 : Fin 4).val → k ≠ (0 : Fin 32).val → (portAt (netOf (brings x n) id).chip k).recv = []) :=
  ⟨⟨rfl, rfl, rfl⟩, rfl, rfl, rfl, others_empty _ _ rfl⟩

/-- A cart for device 1 takes port 0, with three hops taken and 255 carts in the queue, and stays with 256; a cart of four hops
and one for a group without a route go; a cart for this device meets the die's receive buffer with 31 and 32 messages. -/
theorem witness_CartMoves :
    (cartHops (cartTo 1 0 3) < 4 ∧ routeOf (netOf (brings (cartTo 1 0 3) 255) id).chip 0 1 = .port 0 ∧
      (portAt (netOf (brings (cartTo 1 0 3) 255) id).chip 0).st ≠ .fenced ∧
      (portAt (netOf (brings (cartTo 1 0 3) 255) id).chip 0).egress.length < 256) ∧
    (routeOf (netOf (brings (cartTo 1 0 3) 256) id).chip 0 1 = .port 0 ∧
      256 ≤ (portAt (netOf (brings (cartTo 1 0 3) 256) id).chip 0).egress.length ∧
      (portAt (netOf (brings (cartTo 1 0 3) 256) id).chip 0).escq.length + 1 < 32) ∧
    (routeOf (netOf (brings (cartTo 1 0 4) 0) id).chip 0 1 = .port 0 ∧ 4 ≤ cartHops (cartTo 1 0 4) ∧
      (portAt (netOf { brings (cartTo 1 0 4) 0 with st := .fenced } id).chip 0).st = .fenced) ∧
    routeOf (netOf (brings ⟨1, false, 0, 1, 0, []⟩ 0) id).chip 1 1 = .noRoute ∧
    (routeOf (netOf (brings (cartTo 0 2 0) 0) id).chip 0 0 = .deliver ∧ cartType (cartTo 0 2 0) = 2 ∧
      cartTarget (cartTo 0 2 0) < 4 ∧ cartTarget ⟨0, false, 0, 0, 0, [0, 0, 0, 0, 2, 0, 0, 0, 3]⟩ = 3) ∧
    (stewAt (netOf (brings (cartTo 0 2 0) 0) id).chip 0).inbound.length < 32 ∧
    32 ≤ (stewAt (netOf (brings (cartTo 0 2 0) 0) (fun c => { c with stew := [(0, { Steward.reset with
      inbound := List.replicate 32 ⟨[], 0⟩ })] })).chip 0).inbound.length := by
  refine ⟨⟨?_, ?_, ?_, ?_⟩, ⟨?_, ?_, ?_⟩, ⟨?_, ?_, ?_⟩, ?_, ⟨?_, ?_, ?_, ?_⟩, ?_, ?_⟩ <;> decide +kernel

/-- A cart that waits for injection to device 1, with a number of carts in the queue. -/
def injects (n : Nat) (own : List Bool) : State :=
  netOf (brings (cartTo 1 0 0) n) (fun c => { c with fab := { c.fab with waiting := [cartTo 1 0 0], own := own } })

theorem witness_CartInjection :
    (Quiet (injects 0 [false, false, false]) ∧ (injects 0 [false, false, false]).chip.time.changing = false ∧
      (injects 0 [false, false, false]).chip.fab.waiting = cartTo 1 0 0 :: [] ∧
      routeOf (injects 0 [false, false, false]).chip (epochNow (injects 0 [false, false, false]).chip) 1 = .port 0 ∧
      (portAt (injects 0 [false, false, false]).chip 0).st ≠ .fenced ∧ (cartTo 1 0 0).escape = false ∧
      throttled (injects 0 [false, false, false]).chip (cartLevel (injects 0 [false, false, false]).chip 1) = false ∧
      (portAt (injects 0 [false, false, false]).chip 0).egress.length + 1 + reg (injects 0 [false, false, false]).chip (key 0x5310 6) ≤ 256) ∧
    throttled (injects 0 [true, false, false]).chip (cartLevel (injects 0 [true, false, false]).chip 1) = true ∧
    256 < (portAt (injects 256 [false, false, false]).chip 0).egress.length + 1 + reg (injects 256 [false, false, false]).chip (key 0x5310 6) := by
  refine ⟨⟨⟨rfl, rfl, rfl⟩, rfl, rfl, ?_, ?_, ?_, ?_, ?_⟩, ?_, ?_⟩ <;> decide +kernel

/-- A module whose group and system levels are throttled or not, with when they sent their last pressure carts, under
pressure from outside. -/
def pressing (grp sys : Bool) (sent : List (Option Nat)) : State :=
  chipOf (fun c => { c with fab := { c.fab with own := [false, grp, sys], pressureSent := sent, pressure := [some 9, none] } })

theorem witness_Pressure : Quiet State.reset ∧ (∀ b k sent, (pressing b k sent).chip.fab.own.getD 1 false = b ∧
      (pressing b k sent).chip.fab.own.getD 2 false = k ∧ Quiet (pressing b k sent) ∧
      (pressing b k sent).chip.fab.pressure = [some 9, none] ∧
      ∀ p, (portAt (pressing b k sent).chip p).escq.length < 16 ∧ (portAt (pressing b k sent).chip p).st ≠ .fenced) :=
  ⟨⟨rfl, rfl, rfl⟩, fun _ _ _ => ⟨rfl, rfl, ⟨rfl, rfl, rfl⟩, rfl,
    fun _ => ⟨by show (0 : Nat) < 16; decide, by show PState.disabled ≠ .fenced; decide⟩⟩⟩

/-- 12 R397: both levels begin at once in one cart each; then each keeps its own 65,536 ticks. -/
theorem test_pressure_levels :
    (pressureNext (pressing true true [none, none, none]).chip = some 0 ∧
      pressureBits (pressing true true [none, none, none]).chip 0 = 3) ∧
    (pressureNext (pressing true true [none, some 0, some 100]).chip = some 65536 ∧
      pressureBits (pressing true true [none, some 0, some 100]).chip 65536 = 1) ∧
    (pressureNext (pressing false true [none, some 0, none]).chip = some 0 ∧
      pressureBits (pressing false true [none, some 0, none]).chip 0 = 2) := by decide

/-- The module right after reset serves a request. -/
theorem serves_reset : Serves State.reset := ⟨⟨rfl, rfl, rfl⟩, fun h => absurd h (by decide)⟩

theorem witness_RouteWrites : Serves State.reset ∧ (runs State.reset.chip = false ∧ State.reset.chip.plan.loading = none) ∧
    ((List.replicate 528 (0 : Byte)).length = 528 ∧ cartsHeld State.reset.chip (1 : Fin 2).val = 0) ∧
    (runs play.chip = true ∧ cartsHeld play.chip (1 : Fin 2).val = 0 ∧ reg play.chip (key 0x5301 1) ≠ (1 : Fin 2).val) ∧
    (0x3FFFF : BitVec 32).toNat < 2 ^ 18 ∧
    ((2 : BitVec 8).toNat ≤ 2 ∧ roleFits (2 : BitVec 8).toNat (reg State.reset.chip (key 0x5010 2)) = true) ∧
    ((255 : BitVec 8).toNat = 0xFF ∧ roleFits (reg State.reset.chip (key 0x5010 1)) (255 : BitVec 8).toNat = true) ∧
    (let s := linkWith Port.reset [(key 0x5010 1, 2)]; (22 : BitVec 8).toNat ≤ 22 ∧
      roleFits (reg s.chip (key 0x5010 1)) (22 : BitVec 8).toNat = true) := by
  refine ⟨serves_reset, ⟨?_, ?_⟩, ⟨List.length_replicate, ?_⟩, ⟨?_, ?_, ?_⟩, ?_, ⟨?_, ?_⟩, ⟨?_, ?_⟩, ⟨?_, ?_⟩⟩ <;> decide +kernel

/-! ## Plans, entries and commits -/

theorem witness_PlanLoads : (Quiet State.reset ∧ runs State.reset.chip = false ∧ State.reset.chip.plan.loading = none ∧
      State.reset.chip.det.importing = none) ∧
    ((armable .loaded [] id).chip.plan.state ≠ .empty ∧ (armable .halted [] id).chip.plan.state = .halted) :=
  ⟨⟨⟨rfl, rfl, rfl⟩, rfl, rfl, rfl⟩, ⟨by decide, rfl⟩⟩

/-- A load or re-place in progress, with a staging window outside the memory that is fitted. -/
def loads (l : Loading) : State :=
  chipOf (fun c => { c with plan := { c.plan with loading := some l }, regs := [(key 0x2020 3, 2 ^ 63)] })

/-- A plan of one tile a die on devices 16 and 17, whose coach goes from here to device 17 in no variant. -/
def im3 : PlanImage := { im with
  hdr := { im.hdr with devices := 2 }, devIds := [16, 17]
  coaches := [⟨0, 0, 0, 0, 0, 0, 1, 1, [1]⟩], slots := [⟨0, 1, false, false, 1, 0, 0, 0⟩] }

/-- Its placement. -/
def pl3 : Place := ⟨0, [0], [], [], [(0, 1, 0)], []⟩

/-- Device 16 with its port to device 17 in order. -/
def placing16 : State :=
  chipOf (fun c => { c with regs := [(key 0x1020 1, 16), (key 0x5100 5, 4), (key 0x5100 9, 17)],
                            ports := [(0, { Port.reset with st := .active })] })

/-- Every check of phase 4 holds. -/
theorem placing_ok : ∀ x ∈ placing placing16 im3 2, x.1 := by
  have h : placing placing16 im3 2 = [(devId placing16.chip ≠ 2 ^ 32 - 1, 0x0401, 0), (devId placing16.chip ∈ im3.devIds, 0x0402, 16),
    (im3.tag < 4096 ∧ 2 = im3.hdr.devices ∧ im3.devIds.length = 2, 0x0403, 0),
    (∀ j < 0, im3.devIds.getD j (2 ^ 32 - 1) ≠ im3.devIds.getD 0 (2 ^ 32 - 1), 0x0403, 0),
    (∀ j < 1, im3.devIds.getD j (2 ^ 32 - 1) ≠ im3.devIds.getD 1 (2 ^ 32 - 1), 0x0403, 1),
    (im3.hdr.tpd ≤ (List.range 48).countP (fun k => (placing16.fuses.maps.getD 0 0).testBit k), 0x0501, 0),
    (im3.hdr.tpd ≤ (List.range 48).countP (fun k => (placing16.fuses.maps.getD 1 0).testBit k), 0x0501, 1),
    (im3.hdr.tpd ≤ (List.range 48).countP (fun k => (placing16.fuses.maps.getD 2 0).testBit k), 0x0501, 2),
    (im3.hdr.tpd ≤ (List.range 48).countP (fun k => (placing16.fuses.maps.getD 3 0).testBit k), 0x0501, 3),
    (wiredPort (devId placing16.chip) (im3.devIds.getD 1 (2 ^ 32 - 1)) ≠ none, 0x0504, 0),
    (∀ p, wiredPort (devId placing16.chip) (im3.devIds.getD 1 (2 ^ 32 - 1)) = some p →
      portFailed placing16.chip p = true → substitutes placing16.chip p = true, 0x0505, 0),
    (∀ x ∈ im3.init, ∃ y, im3.regions.find? (fun r => r.num == x.region) = some y ∧ x.off + x.data.length ≤ y.size, 0x0301, 0),
    ((ownHops im3 0).length ≤ 1048576, 0x0506, 1)] := rfl
  rw [h]
  simp only [List.forall_mem_cons, List.not_mem_nil, false_implies, implies_true, and_true]
  refine ⟨by decide, by decide, by decide, by decide, by decide, by decide, by decide, by decide, by decide, by decide, ?_,
    (fun x hx => by cases hx), by decide⟩
  intro p hp
  have e : wiredPort (devId placing16.chip) (im3.devIds.getD 1 (2 ^ 32 - 1)) = some 0 := by decide
  rw [e] at hp
  cases hp
  decide

/-- The first check of phase 5 that fails: the slot map's version is not the port's. -/
theorem coaching_fails : firstFails (coaching placing16 im3 pl3 (false, [])) 0x0605 0 :=
  let c := setReg { placing16.chip with plan := { placing16.chip.plan with image := some im3, place := some pl3 } } (key 0x2010 4) 2048
  ⟨[((0 = 0 → coachIssued c im3 true 0 0 0 = true) ∧
      ((pathDevs ⟨0, 0, 0, 0, 0, 0, 1, 1, [1]⟩).getD 1 (2 ^ 32 - 1) = 0 → coachIssued c im3 false 0 0 0 = true), 0x0601, 0),
    (false = false, 0x0605, 0),
    (mineOf pl3 0 ≠ [] → rowRecordsOk im3 0 ⟨0, 0, 0, 0, 0, 0, 1, 1, [1]⟩ (mineOf pl3 0) = true, 0x0605, 0)], _, _, rfl,
    by simp only [List.forall_mem_cons, List.not_mem_nil, false_implies, implies_true, and_true]
       exact ⟨⟨fun _ => by decide +kernel, fun h => absurd h (by decide)⟩, trivial, fun _ => by decide⟩,
    by decide⟩

/-- In each phase a first check that fails; a phase 4 whose checks all hold, with a placement that phase 5 refuses; and the
last phase. -/
theorem witness_LoadCompletes :
    (∀ l, Quiet (loads l) ∧ (loads l).chip.plan.loading = some l) ∧
    inStaging (loads ⟨1, 1, [], [], none, none⟩).chip (reg (loads ⟨1, 1, [], [], none, none⟩).chip (key 0x2020 2))
      (reg (loads ⟨1, 1, [], [], none, none⟩).chip (key 0x2020 3)) = false ∧
    firstFails (verifying State.reset [0]) 0x0101 (2 ^ 32 - 1) ∧ firstFails (checking State.reset []) 0x0301 0 ∧
    firstFails (placing State.reset im3 2) 0x0401 0 ∧
    ((∀ x ∈ placing placing16 im3 2, x.1) ∧ pl3.own = im3.devIds.findIdx (· == devId placing16.chip) ∧
      firstFails (coaching placing16 im3 pl3 (false, [])) 0x0605 0) ∧
    (∀ cmd, (⟨cmd, 6, [], [], some im1, some pl1⟩ : Loading).image = some im1 ∧
      (⟨cmd, 6, [], [], some im1, some pl1⟩ : Loading).place = some pl1) ∧
    (∀ n < pl1.sites.length, ∀ m < pl1.sites.length, n < m → pl1.sites.getD m 0 ≠ pl1.sites.getD n 0) := by
  refine ⟨fun l => ⟨⟨rfl, rfl, rfl⟩, rfl⟩, by decide, ⟨[], _, _, rfl, (fun x hx => by cases hx), by decide⟩,
    ⟨[], _, _, rfl, (fun x hx => by cases hx), fun h => absurd h.1 (by decide +kernel)⟩,
    ⟨[], _, _, rfl, (fun x hx => by cases hx), by decide⟩, ⟨placing_ok, by decide, coaching_fails⟩, fun _ => ⟨rfl, rfl⟩, by decide⟩

/-- The events of 3002h:01 are cleared, 4020h:01 is staged, 9020h:01 is written at once; 1000h:01 does not exist, 2040h:01 is not written. -/
theorem witness_EntryWrites : Quiet State.reset ∧ CaughtUp State.reset.chip ∧
    ((entOf 0x3002 1).isSome = true ∧ writeCode Fuses.reset Chip.reset 0x3002 1 [31, 0, 0, 0] = 0 ∧ plainEntry 0x3002 1 ∧
      (entOf 0x3002 1).map (·.acc) = some .w1c) ∧
    ((entOf 0x4020 1).isSome = true ∧ writeCode Fuses.reset Chip.reset 0x4020 1 [0] = 0 ∧ plainEntry 0x4020 1 ∧
      (entOf 0x4020 1).map (·.app) = some .staged ∧ (entOf 0x4020 1).map (·.acc) = some .rw) ∧
    ((entOf 0x9020 1).isSome = true ∧ writeCode Fuses.reset Chip.reset 0x9020 1 [0, 0, 160, 66] = 0 ∧ plainEntry 0x9020 1 ∧
      (entOf 0x9020 1).map (·.app) = some .immediate) ∧
    (writeCode Fuses.reset Chip.reset 0x1000 1 [0] ≠ 0 ∧ writeCode Fuses.reset Chip.reset 0x2040 1 [0] ≠ 0) := by
  refine ⟨⟨rfl, rfl, rfl⟩, (fun h => absurd h (by decide)), ⟨?_, ?_, ?_, ?_⟩, ⟨?_, ?_, ?_, ?_, ?_⟩, ⟨?_, ?_, ?_, ?_⟩, ?_, ?_⟩ <;> first | decide +kernel | (unfold plainEntry; decide +kernel)

/-- A grant of an empty slot at A010h:01. -/
def granted : State := chipOf (fun c => { c with sec := { c.sec with grant := [(key 0xA010 1, keyId (List.replicate 1984 0))] } })

theorem witness_KeySlots : Quiet granted ∧ (List.replicate 1984 (0 : Byte)).length = 1984 ∧
    ((0xA010 : BitVec 16) = 0xA010 ∧ 1 ≤ (1 : BitVec 8).toNat ∧ (1 : BitVec 8).toNat ≤ 8) ∧
    ((0xA020 : BitVec 16) = 0xA020 ∧ 1 ≤ (4 : BitVec 8).toNat ∧ (4 : BitVec 8).toNat ≤ 4) ∧
    granted.chip.sec.grant.find? (fun g => g.1 == key (0xA010 : BitVec 16).toNat (1 : BitVec 8).toNat) =
      some (key (0xA010 : BitVec 16).toNat (1 : BitVec 8).toNat, keyId (List.replicate 1984 0)) ∧
    runs granted.chip = false ∧ granted.chip.plan.loading = none ∧
    (allZero (keyId (List.replicate 1984 (0 : Byte))) = false → keyId (List.replicate 1984 0) = keyId (List.replicate 1984 (0 : Byte))) ∧
    (allZero (keyId (List.replicate 1984 (0 : Byte))) = true → allZero (List.replicate 1984 (0 : Byte)) = true) ∧
    State.reset.chip.sec.grant = [] :=
  ⟨⟨rfl, rfl, rfl⟩, List.length_replicate, ⟨rfl, by decide, by decide⟩, ⟨rfl, by decide, by decide⟩, rfl, rfl, rfl, fun _ => rfl,
    fun _ => by decide +kernel, rfl⟩

/-- A plan in step 5 of its run. -/
def atFive (cut : Bool) : State := { play with chip := { play.chip with plan := { play.chip.plan with step := 5, cut := cut } } }

/-- The last step that is not past: the current one before its cut-off, the next one after it. -/
theorem witness_CommitsAndHalt :
    (Serves (atFive false) ∧ runs (atFive false).chip = true ∧ (5 : BitVec 64).toNat < 2 ^ 64 - 2 ∧
      stepPassed (atFive false).chip (5 : BitVec 64).toNat = false ∧ stepPassed (atFive true).chip (6 : BitVec 64).toNat = false) ∧
    (runs State.reset.chip = false ∧ shadowOf State.reset.chip (key 0x5301 2) ≠ 1 ∧
      shadowOf (chipOf (fun c => { c with shadow := [(key 0x5301 2, 1)] })).chip (key 0x5301 2) = 1) ∧
    ((BitVec.allOnes 64).toNat = 2 ^ 64 - 1 ∧ (atFive false).chip.plan.step < (6 : BitVec 64).toNat ∧
      State.reset.chip.plan.state = .empty) :=
  ⟨⟨⟨⟨rfl, rfl, rfl⟩, fun _ => Or.inr (by decide)⟩, rfl, by decide, by decide, by decide⟩, ⟨rfl, by decide, by decide⟩, rfl, by decide, rfl⟩

end Sys2Proof.Tests
end

