-- ==== Sys2Proof/Tests/Witness6.lean ====
section
/-! SUPPORT. Witnesses, continued: requests, mirrors, imports, serving and weights. -/

namespace Sys2Proof.Tests

-- One proof at a time: together they ask for more threads than the memory limit has room for.
set_option Elab.async false

open Sys2Proof Sys2Proof.Machine Sys2Proof.Claims

/-! ## Requests -/

/-- A request on an entry, over CAN FD. -/
def ask (i : BitVec 16) (sub flags len : BitVec 8) (d : List Byte) : Request := ⟨0, 7, i, sub, flags, len, d⟩

/-- A transfer that is open on 9020h:01. -/
def transfers (w : Bool) (total done : Nat) (d : List Byte) : State :=
  chipOf (fun c => { c with eng := { c.eng with transfer := some ⟨w, 0x9020, 1, total, done, d, 0⟩ } })

/-- Reads and writes of 9020h:01, written at once; F010h:06 is not read; 2040h:01 is not written; 5300h:01 holds 528
bytes, which a transfer reads. -/
theorem witness_Commands : Serves State.reset ∧ State.reset.chip.eng.canResp = none ∧
    ((entOf 0x9020 1).map (fun e => (e.acc, e.app)) = some (.rw, .immediate) ∧ plainEntry 0x9020 1 ∧
      ((entOf 0x9020 1).map (fun e => (readValue Fuses.reset Chip.reset e 0x9020 1 false).length)) = some 4 ∧
      writeCode Fuses.reset Chip.reset 0x9020 1 (slice ([0, 0, 160, 66] : List Byte) 0 (4 : BitVec 8).toNat) = 0 ∧
      (entOf 0x9020 1).map (fun e => lengthOk e (field ([4, 0, 0, 0] : List Byte) 0 4)) = some true) ∧
    ((entOf 0xF010 6).map (·.acc) = some .wo ∧ (56 : BitVec 8).toNat ≤ 56) ∧
    ((entOf 0x2040 1).isSome = true ∧ writeCode Fuses.reset Chip.reset 0x2040 1 (slice ([0] : List Byte) 0 1) ≠ 0) ∧
    (entOf 0x5300 1).map (fun e => (readValue Fuses.reset Chip.reset e 0x5300 1 false).length) = some 528 ∧
    allZero (List.replicate 56 (0 : Byte)) = true ∧
    (let s := transfers false 528 0x180 (List.replicate 528 0); s.chip.eng.transfer = some ⟨false, 0x9020, 1, 528, 0x180, List.replicate 528 0, 0⟩ ∧
      (ask 0x0180 0 0 0 []).index.toNat + (ask 0x0180 0 0 0 []).sub.toNat * 2 ^ 16 + (ask 0x0180 0 0 0 []).flags.toNat * 2 ^ 24 = 0x180) ∧
    ((2 : BitVec 8).toNat ≤ 56 ∧ 0 + (2 : BitVec 8).toNat < 4 ∧ 2 + (2 : BitVec 8).toNat = 4 ∧
      writeCode Fuses.reset (transfers true 4 2 [0, 0]).chip 0x9020 1 ([0, 0] ++ slice ([160, 66] : List Byte) 0 (2 : BitVec 8).toNat) = 0) := by
  refine ⟨serves_reset, rfl, ⟨?_, ?_, ?_, ?_, ?_⟩, ⟨?_, ?_⟩, ⟨?_, ?_⟩, ?_, ?_, ⟨rfl, ?_⟩, ?_, ?_, ?_, ?_⟩ <;>
    first | decide +kernel | (unfold plainEntry; decide +kernel)

/-- A segment without a transfer, at another offset than the one due, past the end, and of the other direction. -/
theorem witness_Commands_refused :
    let o := fun (r : Request) => r.index.toNat + r.sub.toNat * 2 ^ 16 + r.flags.toNat * 2 ^ 24
    (State.reset.chip.eng.transfer = none ∧ (56 : BitVec 8).toNat ≤ 56) ∧
    ((transfers true 4 2 [0, 0]).chip.eng.transfer = some ⟨true, 0x9020, 1, 4, 2, [0, 0], 0⟩ ∧ o (ask 1 0 0 2 []) ≠ 2) ∧
    (o (ask 2 0 0 3 []) = 2 ∧ 4 < 2 + (ask 2 0 0 3 []).len.toNat) ∧
    ((transfers false 528 0 []).chip.eng.transfer = some ⟨false, 0x9020, 1, 528, 0, [], 0⟩ ∧ o (ask 0 0 0 2 []) = 0) :=
  ⟨⟨rfl, by decide⟩, ⟨rfl, by decide⟩, ⟨by decide, by decide⟩, rfl, by decide⟩

/-- A frame of a command with byte 7 as given. -/
def frameOf (cmd r : Byte) : List Byte := [cmd, 9, 0, 0x90, 1, 0, 0, r] ++ List.replicate 56 0

/-- A module whose window holds a frame, and one with a response for CAN FD and an open transfer. -/
def windowed (b : List Byte) : State := chipOf (fun c => { c with eng := { c.eng with winReq := b } })

/-- The node ID of the module after reset is 15: identifier 60Fh. -/
theorem witness_Frames : Quiet State.reset ∧ (0x60E : BitVec 11).toNat ≠ 0x600 + (16 * Chip.reset.eng.canId + Chip.reset.power.straps) ∧
    ((0x60F : BitVec 11).toNat = 0x600 + (16 * Chip.reset.eng.canId + Chip.reset.power.straps) ∧ (frameOf 8 0).length = 64 ∧
      field (frameOf 8 0) 7 1 = 0 ∧ (commandOf 0 (frameOf 8 0)).isSome = true ∧ (commandOf 0 (frameOf 1 0)).isSome = true) ∧
    (field (frameOf 8 1) 7 1 ≠ 0 ∧ commandOf 0 (frameOf 9 0) = none ∧ commandOf 0 (frameOf 0 0) = none) ∧
    ((windowed (frameOf 8 0)).chip.eng.winStatus ≠ 1 ∧ (commandOf 1 (windowed (frameOf 8 0)).chip.eng.winReq).isSome = true ∧
      commandOf 1 (windowed (frameOf 9 0)).chip.eng.winReq = none) ∧
    (let s := chipOf (fun c => { c with eng := { c.eng with canResp := some (frameOf 8 0) } }); s.chip.err.canq = [] ∧
      s.chip.eng.canResp = some (frameOf 8 0)) ∧
    (transfers true 4 2 [0, 0]).chip.eng.transfer = some ⟨true, 0x9020, 1, 4, 2, [0, 0], 0⟩ := by
  refine ⟨⟨rfl, rfl, rfl⟩, ?_, ⟨?_, ?_, ?_, ?_, ?_⟩, ⟨?_, ?_, ?_⟩, ⟨?_, ?_, ?_⟩, ⟨rfl, rfl⟩, rfl⟩ <;> decide +kernel

/-! ## Mirror, checkpoint and import -/

/-- A batch of four lines, which takes two carts of lines. -/
def four : Batch := ⟨6, true, true, false, [], [], 4, List.replicate 4 ⟨0, 9, false, List.replicate 64 0⟩⟩

/-- A module with a state of its mirror. -/
def mirrors (l : SMap Nat) (f : Det → Det) : State := chipOf (fun c => { c with regs := l, det := f c.det })

theorem witness_MirrorAndCheckpoint : Serves (mirrors [] id) ∧ (mirrors [] id).chip.time.changing = false ∧ (mirrors [] (fun d => { d with send := [four] })).chip.det.send = four :: [] ∧
    ((BitVec.allOnes 64).toNat = 2 ^ 64 - 1 ∧ stepPassed (mirrors [] id).chip (0 : BitVec 64).toNat = false) ∧
    (let s := mirrors [(key 0xB020 3, 6), (key 0xB020 4, 1)] (fun d => { d with ckptStep := some 6, ckpt := some [], imaged := true });
      s.chip.time.changing = false ∧ s.chip.det.imaged = true ∧ s.chip.det.ckptStep = some 6 ∧ s.chip.det.ckpt = some [] ∧ s.chip.det.ckptWriting = false ∧ reg s.chip (key 0xB020 3) = 6 ∧
      reg s.chip (key 0xB020 4) ≠ 3) ∧
    (let s := fun n => mirrors [(key 0xB030 1, n)] (fun d => { d with ckptStep := some 6, ckptWriting := true });
      ∀ n, (s n).chip.det.ckptStep = some 6 ∧ (s n).chip.det.ckptWriting = true ∧ ∀ x ∈ (s n).chip.fab.waiting, cartType x ≠ 4) ∧
    (let s := mirrors [(key 0xB030 1, 9)] (fun d => { d with ckptStep := some 6, ckptWriting := true, ckptNext := [(9, [])] });
      reg s.chip (key 0xB030 1) ≠ 6 ∧ s.chip.det.ckptNext.head? = some (9, [])) :=
  ⟨⟨⟨rfl, rfl, rfl⟩, fun h => absurd h (by decide)⟩, rfl, rfl, ⟨rfl, by decide⟩, ⟨rfl, rfl, rfl, rfl, rfl, rfl, by decide⟩,
    fun _ => ⟨rfl, rfl, fun _ h => nomatch h⟩, by decide, rfl⟩

/-- A Loaded plan whose import has come with a digest and a settings digest, and a count of lines. -/
def imports (st : PlanState) (n : Nat) (digest settings : List Byte) (ended : Bool) : State :=
  chipOf (fun c => { c with plan := { c.plan with state := st }, det := { c.det with
    importing := some ⟨0, ⟨6, true, ended, true, settings, digest, n, []⟩⟩ } })

/-- The settings digest after reset. -/
def here : List Byte := settingsDigest (imports .loaded 0 [] [] true).chip

/-- The digest of no line. -/
def none16 : List Byte := (sha3_256 (slice (partBytes [] 9) 0 (replicaLen Chip.reset))).take 16

theorem length_none16 : none16.length = 16 := by simp [none16]

theorem length_here : here.length = 16 := by simp [here, settingsDigest]

theorem here_same (st : PlanState) (d z : List Byte) : settingsDigest (imports st 0 d z true).chip = here := rfl

/-- A mirror source Halted at step 6 that has been asked for it. -/
def asked : State :=
  let d := [(1, List.replicate 16 (0 : Byte) ++ leBytes 8 6 ++ leBytes 8 0)]
  let l := [(key 0xB020 3, 6), (key 0xB020 4, 1)]
  chipOf (fun c => { c with plan := { c.plan with state := .halted, step := 6 }, regs := l, det := { c.det with request := d } })

theorem imports_len (n : Nat) (d z : List Byte) (e : Bool) : replicaLen (imports .loaded n d z e).chip = replicaLen Chip.reset := rfl

theorem witness_Imports : (Quiet (armable .loaded [] id) ∧ (armable .loaded [] id).chip.plan.state = .loaded ∧
      (armable .loaded [] id).chip.plan.loading = none ∧ (armable .loaded [] id).chip.det.importing = none) ∧
    (let s := asked; s.chip.time.changing = false ∧ s.chip.det.request = (1, List.replicate 16 0 ++ leBytes 8 6 ++ leBytes 8 0) :: [] ∧ s.chip.plan.state = .halted ∧
      reg s.chip (key 0xB020 4) = 1 ∧ reg s.chip (key 0xB020 3) = field (List.replicate 16 0 ++ leBytes 8 6 ++ leBytes 8 0) 16 8 ∧
      s.chip.plan.step = field (List.replicate 16 0 ++ leBytes 8 6 ++ leBytes 8 0) 16 8 ∧
      field (List.replicate 16 0 ++ leBytes 8 6 ++ leBytes 8 0) 24 8 = 0) ∧
    (Quiet (imports .loaded 1 [] [] true) ∧ (imports .loaded 1 [] [] true).chip.plan.state = .loaded ∧ ([] : List PartLine).length ≠ 1) ∧
    (([] : List PartLine).length = 0 ∧ none16 ≠ []) ∧
    ((sha3_256 (slice (partBytes [] 9) 0 (replicaLen Chip.reset))).take 16 = none16 ∧ settingsDigest (imports .loaded 0 none16 [] true).chip ≠ []) ∧
    settingsDigest (imports .loaded 0 none16 here true).chip = here ∧
    (∃ i, (imports .empty 0 [] [] false).chip.det.importing = some i ∧ i.got.ended = false) := by
  refine ⟨⟨⟨rfl, rfl, rfl⟩, rfl, rfl, rfl⟩, ⟨rfl, rfl, rfl, ?_, ?_, ?_, ?_⟩, ⟨⟨rfl, rfl, rfl⟩, rfl, by decide⟩, ⟨rfl, ?_⟩, ⟨rfl, ?_⟩, here_same _ _ _, _, rfl, rfl⟩
  · decide
  · decide
  · decide
  · decide
  · intro h; have hl := length_none16; rw [h] at hl; exact absurd hl (by decide)
  · intro h; have hl := length_here; rw [← here_same .loaded none16 [], h] at hl; exact absurd hl (by decide)

/-! ## Serving and weights -/

/-- A Loaded plan of five regions with steps of 65,536 ticks, which the region entries name. -/
def servable : State :=
  let i := { im with hdr := ⟨65536, 2, 0, 1, 0, 1, 0, 0, 0⟩, regions := (List.range 5).map (fun n => ⟨n, 0, 0, 0, false, false, 2 ^ 34, 0⟩) }
  let l := (List.range 5).map (fun n => (key 0x6001 (n + 1), n))
  chipOf (fun c => { c with plan := { c.plan with state := .loaded, image := some i }, regs := l })

/-- A record that waits, of a ring of two, with the host's writes open: full until the host has taken one. -/
def behind : State :=
  let l := [(key 0x2040 1, 1), (key 0x6040 2, 2), (key 0x6040 4, 2 ^ 32 - 2)]
  chipOf (fun c => { c with host := { c.host with bme := true }, regs := l, srv := { c.srv with backlog := [[1]] } })

theorem witness_ServingEntries : (Serves servable ∧ runs servable.chip = false ∧ servable.chip.plan.loading = none ∧
      servable.chip.plan.image ≠ none ∧ serveOk servable.chip = true) ∧ servable.chip.srv.backlog = [] ∧
    (Serves behind ∧ behind.chip.srv.backlog = [[1]] ∧ hostBlocked behind.chip = false ∧ reg behind.chip (key 0x6040 6) = 0 ∧
      (reg behind.chip (key 0x6040 5) + 2 ^ 32 - (0xFFFFFFFF : BitVec 32).toNat) % 2 ^ 32 < reg behind.chip (key 0x6040 2)) := by
  refine ⟨⟨⟨⟨rfl, rfl, rfl⟩, fun h => absurd h (by decide)⟩, rfl, rfl, ?_, ?_⟩, rfl,
    ⟨⟨rfl, rfl, rfl⟩, fun h => absurd h (by decide)⟩, rfl, ?_, ?_, ?_⟩ <;> decide +kernel

/-- A build of entry 65 with its chunks and its feed. -/
def builds (chunks : List WChunk) (feed : Option (List WChunk × List Byte)) (l : SMap Nat) (bad : List Nat) : State :=
  let b : Build := ⟨65, false, true, 0xFF, 2 ^ 64 - 2, 0, 32, [], [], [], [], chunks, feed⟩
  chipOf (fun c => { c with wts := { c.wts with build := some b, dir := [(65, { WEntry.reset with a := ⟨.building, 0, 0, 32, 0, []⟩ })] },
                            regs := l, power := { c.power with badPrims := bad } })

/-- The chunk of 16 bytes of record 0. -/
def chunk16 : WChunk := ⟨0, 0, 0, 0, 16⟩

/-- A head image outside the window; a feed of one whole chunk; a build with no chunk left. The clauses of a head image that
passes its checks rest on signatures that the model leaves open (log 5): no state written out here meets them. -/
theorem witness_Builds :
    (Serves (linkWith Port.reset [(key 0x7010 7, 17825793)]) ∧ reg (linkWith Port.reset [(key 0x7010 7, 17825793)]).chip (key 0x7010 10) ≠ 1 ∧
      (linkWith Port.reset [(key 0x7010 7, 17825793)]).chip.wts.build = none ∧ (linkWith Port.reset [(key 0x7010 7, 17825793)]).chip.ecc = [] ∧
      ¬reg (linkWith Port.reset [(key 0x7010 7, 17825793)]).chip (key 0x7010 7) ≤ 17825792) ∧
    (let s := builds [chunk16] none [(key 0x4002 1, 2 ^ 20), (key 0x7010 7, 32)] []; Serves s ∧
      reg s.chip (key 0x7010 8) = chunk16.sec ∧ reg s.chip (key 0x7010 9) = chunk16.chunk ∧ takeRun 0 [chunk16] 32 = some [chunk16] ∧
      reg s.chip (key 0x7010 6) + reg s.chip (key 0x7010 7) ≤ reg s.chip (key 0x4002 1)) ∧
    (∃ b, (builds [] none [] []).chip.wts.build = some b ∧ b.building = true ∧ b.chunks = [] ∧ b.target ≠ 0xFF) := by
  refine ⟨⟨⟨⟨rfl, rfl, rfl⟩, fun h => absurd h (by decide)⟩, ?_, rfl, rfl, ?_⟩,
    ⟨⟨⟨rfl, rfl, rfl⟩, fun h => absurd h (by decide)⟩, ?_, ?_, ?_, ?_⟩, _, rfl, rfl, rfl, ?_⟩ <;> decide

/-- A feed of nothing, which verifies, and a chunk whose tag fails for want of a working AES-256-GCM (18 R529). -/
theorem witness_FeedEnds :
    (let s := builds [chunk16] (some ([], [])) [] []; Quiet s ∧ s.chip.time.changing = false ∧ ∃ b, s.chip.wts.build = some b ∧ b.feeding = some ([], []) ∧
      spaceHeld s.chip (buildCopy s.chip b) = false ∧ (feedChunks b (buildCopy s.chip b) [] [] s.chip).2 = none) ∧
    (let s := builds [chunk16] (some ([chunk16], List.replicate 32 0)) [] [2]; Quiet s ∧ ∃ b, s.chip.wts.build = some b ∧
      b.feeding = some ([chunk16], List.replicate 32 0) ∧ spaceHeld s.chip (buildCopy s.chip b) = false ∧
      (feedChunks b (buildCopy s.chip b) [chunk16] (List.replicate 32 0) s.chip).2 ≠ none) :=
  ⟨⟨⟨rfl, rfl, rfl⟩, rfl, _, rfl, rfl, rfl, rfl⟩, ⟨rfl, rfl, rfl⟩, _, rfl, rfl, rfl, by
    show (some chunk16 : Option WChunk) ≠ none
    exact Option.some_ne_none _⟩

/-- Entry 65 with a Ready copy beside none and beside a Live one, that a session binds or not. -/
def readies (b : WCopy) (l : SMap Sess) : State :=
  chipOf (fun c => { c with wts := { c.wts with dir := [(65, ⟨⟨.ready, 1, 0, 32, 0, []⟩, b, 1, 0⟩)] }, srv := { c.srv with sess := l } })

theorem witness_Switches : (Serves (atFive false) ∧ (2 ^ 64 - 3 : BitVec 64).toNat < 2 ^ 64 - 2 ∧
      stepPassed (atFive false).chip (5 : BitVec 64).toNat = false) ∧
    (Serves (readies WCopy.none []) ∧ runs (readies WCopy.none []).chip = false ∧
      (wentry (readies WCopy.none []).chip (65 : Fin 66).val).a.st = .ready ∧ (wentry (readies WCopy.none []).chip (65 : Fin 66).val).b.st = .free) ∧
    (let s := readies ⟨.live, 0, 0, 32, 64, []⟩ []; (wentry s.chip (65 : Fin 66).val).b.st = .live ∧ genPolicy s.chip (65 : Fin 66).val ≠ 1 ∧
      boundTo s.chip 65 0 = 0) ∧
    (let s := readies ⟨.live, 0, 0, 32, 64, []⟩ [(0, { Sess.free with st := 1, binds := 4, adapter := 63, gens := 0 })];
      boundTo s.chip 65 0 = 1) := by
  refine ⟨⟨⟨⟨rfl, rfl, rfl⟩, fun _ => Or.inr ?_⟩, ?_, ?_⟩, ⟨⟨⟨rfl, rfl, rfl⟩, fun h => absurd h (by decide)⟩, rfl, rfl, rfl⟩,
    ⟨rfl, ?_, ?_⟩, ?_⟩ <;> decide +kernel

end Sys2Proof.Tests
end

