-- ==== Sys2Proof/Tests/Witness7.lean ====
section
/-! SUPPORT. Witnesses, continued: errors, temperature, power, security and the host. -/

namespace Sys2Proof.Tests

-- One proof at a time: together they ask for more threads than the memory limit has room for.
set_option Elab.async false

open Sys2Proof Sys2Proof.Machine Sys2Proof.Claims

/-! ## Errors and temperature -/

/-- An occurrence, and records of it and of another. -/
def occ : Occ := ⟨0x0401, 7, 5, 9, 100, 0, []⟩

/-- A record at a step. -/
def recAt (step : Nat) : Rec := ⟨0, 4, 0, 0x0401, 7, 0, step, 9, 1, 100, []⟩

/-- A chip with one occurrence to log. -/
def logs (l : List Rec) (cap : Option Rec) (mask : Nat) : Chip :=
  (chipOf (fun c => { c with err := { c.err with pend := [occ], log := l, cap := cap }, regs := [(key 0x9000 4, mask)] })).chip

theorem witness_LogTakes : (logs [] none 0).err.pend = [occ] ∧ (logs [] (some (recAt 5)) 0).err.cap = some (recAt 5) ∧
    ((logs [] none 0xFFFF).err.cap = none ∧ bit (reg (logs [] none 0xFFFF) (key 0x9000 4)) (classOf occ.code) = true ∧
      bit (reg (logs [] none 0) (key 0x9000 4)) (classOf occ.code) = false) ∧
    ((logs [recAt 4, recAt 5] none 0).err.log = [recAt 4] ++ recAt 5 :: [] ∧ (∀ y ∈ [recAt 4], ¬alike occ y) ∧ alike occ (recAt 5)) ∧
    ((logs (List.replicate 127 (recAt 4)) none 0).err.log.length < 128 ∧ 128 ≤ (logs (List.replicate 128 (recAt 4)) none 0).err.log.length ∧
      ∀ y ∈ List.replicate 128 (recAt 4), ¬alike occ y) := by
  have h : ¬alike occ (recAt 4) := by unfold alike; decide
  refine ⟨rfl, rfl, ⟨rfl, by decide, by decide⟩, ⟨rfl, ?_, rfl, rfl, rfl⟩, by decide +kernel, by decide +kernel, ?_⟩
  · intro y hy; rw [List.mem_singleton] at hy; rw [hy]; exact h
  · intro y hy; rw [List.eq_of_mem_replicate hy]; exact h

/-- A module with an injection. -/
def injected (kind left : Nat) (l : SMap Nat) : State :=
  chipOf (fun c => { c with err := { c.err with inj := some ⟨kind, 0, left, none, 1, 64, false⟩ }, regs := l })

/-- Tests enabled, a carriage injection at a port. -/
def testing (st : PState) : State := linkWith { Port.reset with st := st } [(key 0xF000 1, 1), (key 0xF010 1, 7), (key 0xF010 2, 4)]

/-- Injections of every kind, the last of its number and one before it. -/
theorem injected_armed : (∀ k < 9, injArmed (injected k 1 []).chip ⟨k, 0, 1, none, 1, 64, false⟩ = true) ∧
    1 < (⟨7, 0, 2, none, 1, 64, false⟩ : Inject).left ∧
    injArmed (injected 7 2 []).chip ⟨7, 0, 2, none, 1, 64, false⟩ = true := by decide

theorem kept_injected (kind left : Nat) : Kept (injected kind left []) := ⟨rfl, rfl, rfl, rfl, rfl, rfl, rfl, rfl⟩

/-- It serves a request too. -/
theorem serves_injected (kind left : Nat) : Serves (injected kind left []) := ⟨⟨rfl, rfl, rfl⟩, serves_reset.2⟩

theorem witness_LogCommands : Serves State.reset ∧ (chipOf (fun c => { c with err := { c.err with canq := [[1]] } })).chip.err.canq = [1] :: [] ∧
    (reg (testing .active).chip (key 0xF000 1) = 1 ∧
      locOk (testing .active).chip (reg (testing .active).chip (key 0xF010 1)) (reg (testing .active).chip (key 0xF010 2))
        (reg (testing .active).chip (key 0xF010 5)) = true ∧
      locOk (testing .down).chip (reg (testing .down).chip (key 0xF010 1)) (reg (testing .down).chip (key 0xF010 2))
        (reg (testing .down).chip (key 0xF010 5)) = false) ∧
    ∀ k, Serves (injected k 1 []) ∧ Kept (injected k 1 []) ∧ (injected k 1 []).chip.err.inj = some ⟨k, 0, 1, none, 1, 64, false⟩ := by
  refine ⟨serves_reset, rfl, ⟨?_, ?_, ?_⟩, fun k => ⟨serves_injected k 1, kept_injected k 1, rfl⟩⟩ <;> decide

/-- Die 3 warned or not. -/
def warm (w : Bool) : State :=
  chipOf (fun c => { c with power := { c.power with warned := [false, false, false, w] }, regs := [(key 0x9020 1, 0x42C80000)] })

/-- A threshold of 100 °C: reached at 100 °C and just below 115 °C; the trip at 115 °C; cooled at 95 °C. -/
theorem witness_Temperatures : (Quiet (warm false) ∧ (warm false).chip.power.temps.length = 4 ∧ (warm false).chip.power.warned.length = 4 ∧
      (warm false).chip.power.tripped.length = 4 ∧ (warm false).chip.power.warned.getD (3 : Fin 4).val false = false ∧
      f32Scaled (reg (warm false).chip (key 0x9020 1)) ≤ f32Scaled (0x42C80000 : BitVec 32).toNat ∧
      f32Scaled (0x42E5FFFF : BitVec 32).toNat < f32Scaled 0x42E60000) ∧
    ((warm true).chip.power.warned.getD (3 : Fin 4).val false = true ∧ (warm true).chip.power.tripped.getD (3 : Fin 4).val false = false ∧
      f32Scaled 0x42E60000 ≤ f32Scaled (0x42E60000 : BitVec 32).toNat ∧
      f32Scaled (reg (warm true).chip (key 0x9020 1)) < f32Scaled (0x42E60000 : BitVec 32).toNat + 5 * 2 ^ 149) ∧
    (f32Scaled (0x42BE0000 : BitVec 32).toNat + 5 * 2 ^ 149 ≤ f32Scaled (reg (warm true).chip (key 0x9020 1)) ∧
      f32Scaled (0x42BE0000 : BitVec 32).toNat < f32Scaled 0x42E60000) := by
  refine ⟨⟨⟨rfl, rfl, rfl⟩, rfl, rfl, rfl, rfl, ?_, ?_⟩, ⟨rfl, rfl, ?_, ?_⟩, ?_, ?_⟩ <;> decide +kernel

/-! ## Power, boot and fuses -/

/-- A module in a phase, with its boot. -/
def phased (p : Phase) : State := chipOf (fun c => { c with power := { c.power with phase := p } })

/-- Boot inputs without images. -/
def boots (fuses rom : Bool) : BootInput := ⟨false, [], [], [], fuses, rom, none⟩

theorem witness_NothingRunsDown : (phased .held).chip.power.phase ≠ .running ∧ (phased .off).chip.power.phase ≠ .running ∧
    (phased .bootFailed).chip.power.phase ≠ .running ∧ actsDown .submit = false ∧ actsDown (.boundaryScan true) = true := by decide

/-- The clauses of a boot that starts an image rest on signatures that the model leaves open (log 5); the others: power and
reset at the ends of their ranges, and boots that find no image, no fuses or no sound ROM. -/
theorem witness_PowerAndBoot : (phased .off).chip.err.pend = [] ∧ (phased .off).chip.power.phase = .off ∧
    (phased .held).chip.power.phase ≠ .off ∧ (10000 : Nat) ≤ 10000 ∧ (999 : Nat) < 1000 ∧ (1000 : Nat) ≤ 1000 ∧ (9999 : Nat) < 10000 ∧
    ((phased .held).chip.power.phase = .held ∧ (boots false true).fusesOk = false ∧ (boots false true).romOk = true ∧
      (boots true false).romOk = false ∧ (boots true true).romOk = true ∧ (boots true true).fusesOk = true) ∧
    starts (phased .held) (boots true true) = none ∧ (phased .bootFailed).chip.power.phase = .bootFailed := by
  refine ⟨rfl, rfl, ?_, ?_, ?_, ?_, ?_, ⟨rfl, rfl, rfl, rfl, rfl, rfl⟩, ?_, rfl⟩
  all_goals decide

/-- Before and after self-test, at its end, and with an image that raises the minimum version or not. -/
def tested (t : Bool) (done : Nat) (raise : Bool) : State :=
  chipOf (fun c => { c with power := { c.power with tested := t, boot := { c.power.boot with raise := raise } },
                            regs := [(key 0x2001 1, done)] })

/-- Two failures that self-test can meet, one that it cannot, one of its own comparison. -/
def failing : List (BitVec 16 × BitVec 32) := [(0x40, 4096 * 2 + 31), (0x30, 4096 * 3 + 7), (0x30, 4096 * 3 + 8), (3, 0)]

/-- Fuses that name the identifier of the derived keys, and fuses that do not. -/
def agreeing : Fuses := { Fuses.reset with agree := recipientId Fuses.reset }

theorem agreeing_agrees : recipientId agreeing = agreeId agreeing := by
  have h : recipientId agreeing = recipientId Fuses.reset := rfl
  have l : (recipientId Fuses.reset).length = 32 := length_sha3_256 _
  rw [h]; simp [agreeId, agreeing, slice, List.take_of_length_le, l]

/-- Whatever the derived identifier is, some fuses differ from it. -/
theorem disagreeing : ∃ f : Fuses, recipientId f ≠ agreeId f := by
  by_cases h : recipientId Fuses.reset = List.replicate 32 0
  · refine ⟨{ Fuses.reset with agree := List.replicate 32 1 }, ?_⟩
    have e : recipientId { Fuses.reset with agree := List.replicate 32 1 } = recipientId Fuses.reset := rfl
    rw [e, h]; decide
  · refine ⟨{ Fuses.reset with agree := [] }, ?_⟩
    have e : recipientId { Fuses.reset with agree := [] } = recipientId Fuses.reset := rfl
    rw [e]; exact h

/-- What self-test finds of a list of failures. -/
def foundOf (l : List (BitVec 16 × BitVec 32)) : List (BitVec 16 × BitVec 32) :=
  l.filter (fun x => x.1.toNat != 3 && (unitsOf x.1.toNat).contains x.2.toNat)

theorem found_failing : foundOf failing = [(0x40, 4096 * 2 + 31), (0x30, 4096 * 3 + 7)] := rfl

theorem witness_SelfTest : (Quiet (tested false 0 false) ∧ (tested false 0 false).chip.power.tested = false) ∧
    (foundOf [] = [] ∧ foundOf failing = [(0x40, 4096 * 2 + 31), (0x30, 4096 * 3 + 7)] ∧ (∀ x ∈ foundOf failing, 3 < x.1.toNat) ∧
      ([6] : List (Fin 7)) ≠ [] ∧ recipientId agreeing = agreeId agreeing ∧ ∃ f, recipientId f ≠ agreeId f) ∧
    ((tested true 0 false).chip.power.tested = true ∧ reg (tested true 0 false).chip (key 0x2001 1) = 0) ∧
    (reg (tested true 1 true).chip (key 0x2001 1) = 1 ∧ (tested true 1 true).chip.power.boot.raise = true ∧
      (tested true 1 true).fuses.secMin < 63) ∧
    (reg (tested true 2 true).chip (key 0x2001 1) ≠ 1 ∧ (tested true 1 false).chip.power.boot.raise = false) := by
  refine ⟨⟨⟨rfl, rfl, rfl⟩, rfl⟩, ⟨rfl, found_failing, (by rw [found_failing]; simp), by decide, agreeing_agrees, disagreeing⟩,
    ⟨rfl, by decide +kernel⟩, ⟨by decide +kernel, rfl, by decide⟩, by decide +kernel, rfl⟩

/-- A burn of the security version to 5 in progress, from a minimum. -/
def burning (n : Nat) : State :=
  { chipOf (fun c => { c with sec := { c.sec with burnTo := some 5 } }) with fuses := { Fuses.reset with secMin := n } }

/-- A claim's burn in progress: half of its identifier's first byte is burned. -/
def claiming (since : Nat) : State :=
  { chipOf (fun c => { c with sec := { c.sec with claim := some ⟨List.replicate 32 0xFF, since⟩ } }) with
      fuses := { Fuses.reset with ownerBegun := true, ownerRoot := 0x0F :: List.replicate 31 0 } }

theorem witness_Burns : (Quiet (burning 4) ∧ (burning 4).pending = [] ∧ (burning 4).chip.plan.state ≠ .running ∧
      (burning 4).chip.plan.loading = none ∧ (∀ d < 4, (stewAt (burning 4).chip d).routine = .none) ∧
      (burning 4).chip.count + 1 < 2 ^ 64) ∧
    ((burning 4).chip.sec.burnTo = some 5 ∧ (burning 4).chip.sec.claim = none ∧ (burning 4).fuses.secMin < 5 ∧
      5 ≤ (burning 5).fuses.secMin) ∧
    (Quiet (claiming 0) ∧ (claiming 0).chip.sec.burnTo = none ∧ (List.replicate 32 (0xFF : Byte)).length = 32 ∧
      (claiming 0).fuses.ownerRoot.length = 32 ∧ ∀ i < 32, (claiming 0).fuses.ownerRoot.getD i 0 &&&
        (List.replicate 32 (0xFF : Byte)).getD i 0 = (claiming 0).fuses.ownerRoot.getD i 0) := by
  refine ⟨⟨⟨rfl, rfl, rfl⟩, rfl, nofun, rfl, ?_, ?_⟩, ⟨rfl, rfl, ?_, ?_⟩, ⟨rfl, rfl, rfl⟩, rfl, ?_, ?_, ?_⟩ <;> decide +kernel

/-! ## Invariants -/

theorem witness_InvariantStep : step State.reset = .next { State.reset with chip := (tick State.reset).chip } ∧
    State.reset.chip.err.pend = [] := ⟨rfl, rfl⟩

theorem witness_FormsStay : Kept State.reset ∧ ∃ t, step State.reset = .next t :=
  ⟨⟨rfl, rfl, rfl, rfl, rfl, rfl, rfl, rfl⟩, _, rfl⟩

/-! ## The mailbox and the host -/

/-- A host link at 64 GT/s and a session. -/
def linked (x : Option Session) (f : HostIf → HostIf) : State :=
  chipOf (fun c => { c with regs := [(key 0x2040 1, 2)], sec := { c.sec with session := x }, host := f c.host })

/-- A grant of one entry, as to its form. -/
def grant1 : List Byte := leBytes 4 1 ++ leBytes 4 1 ++ List.replicate (0x7F0 + 40 + 3408 - 8) 0

/-- A request object whose length field is wrong. -/
def short1 : List Byte := [2, 0, 0, 0, 1, 0, 0, 0]

theorem witness_RequestObjects : (Quiet (linked none id) ∧ linkUp (linked none id).chip = true) ∧
    ((List.replicate 1088 (0 : Byte)).length = 1088 ∧ (List.replicate 32 (0 : Byte)).length = 32 ∧
      (List.replicate 1984 (0 : Byte)).length = 1984 ∧ (List.replicate 3408 (0 : Byte)).length = 3408) ∧
    (field short1 4 4 ≠ short1.length - 8 ∧ short1.length ≤ 16384 ∧ field (request 0 []) 0 1 = 0 ∧ field (request 7 []) 0 1 = 7) ∧
    ((List.replicate 31 (0 : Byte)).length ≠ 32 ∧ (List.replicate 31 (0 : Byte)).length ≤ 16376) ∧
    (16384 < (List.replicate 16385 (0 : Byte)).length ∧ 16376 < (List.replicate 16377 (0 : Byte)).length) := by
  refine ⟨⟨⟨rfl, rfl, rfl⟩, by decide⟩, ?_, by decide +kernel, ?_, ?_⟩ <;> simp only [List.length_replicate] <;> decide

/-- An owned module, one whose claim was interrupted, one with part of an identifier burned. -/
def owned (v b : Bool) (root : List Byte) : State :=
  { linkWith Port.reset [(key 0x2001 1, 1), (key 0x2040 1, 2)] with
      fuses := { Fuses.reset with ownerValid := v, ownerBegun := b, ownerRoot := root } }

/-- A claim is free only where the owner fuses and 2001h:01 allow it. That both signatures hold, or a grant's do, rests on
primitives that the model leaves open (log 5). -/
theorem witness_Attestation : (Quiet (linked none id) ∧ linkUp (linked none id).chip = true ∧ (2 : BitVec 8).toNat < 3 ∧
      (linked none id).chip.power.rngBad = false ∧
      (chipOf (fun c => { c with regs := [(key 0x2040 1, 2)], power := { c.power with rngBad := true } })).chip.power.rngBad = true) ∧
    ((List.replicate 1087 (0 : Byte)).length ≠ 1088 ∧ (List.replicate 1087 (0 : Byte)).length + 32 ≤ 16376) ∧
    ((linked (some ⟨4, [], 0, 0⟩) id).chip.sec.session = some ⟨4, [], 0, 0⟩ ∧ (4 : BitVec 32).toNat = 4 ∧ (5 : BitVec 32).toNat ≠ 4) ∧
    (linked none id).chip.sec.session = none ∧ allZero (slice (List.replicate 3408 (0 : Byte)) 3405 3) = true ∧
    ((owned false false (List.replicate 32 0)).fuses.ownerValid = false ∧ (owned false false (List.replicate 32 0)).fuses.ownerBegun = false ∧
      (∀ b ∈ (owned false false (List.replicate 32 0)).fuses.ownerRoot, b = 0) ∧
      reg (owned false false (List.replicate 32 0)).chip (key 0x2001 1) ≠ 0 ∧
      (owned false false (List.replicate 32 0)).chip.plan.state = .empty) ∧
    ((owned true true []).fuses.ownerValid = true ∧ (owned false true []).fuses.ownerBegun = true ∧
      ¬∀ b ∈ (owned false false [1]).fuses.ownerRoot, b = 0) ∧
    (grantForm grant1 = true ∧ (owned false false []).fuses.ownerValid = false ∧ grantForm [] = false) := by
  refine ⟨⟨⟨rfl, rfl, rfl⟩, ?_, ?_, ?_, ?_⟩, ?_, ⟨rfl, ?_, ?_⟩, rfl, ?_, ⟨rfl, rfl, ?_, ?_, rfl⟩, ⟨rfl, rfl, ?_⟩, ?_, rfl, ?_⟩
  all_goals decide +kernel

/-- A session, with keys programmed in the last of its sub-streams. -/
def keyed (n : Nat) (halt : Bool) (log : List (List Byte)) : State :=
  chipOf (fun c => { c with
    regs := [(key 0x2040 1, 2), (key 0x6040 2, 1)]
    sec := { c.sec with session := some ⟨4, [], 0, 0⟩ }
    srv := { c.srv with backlog := log }
    host := { c.host with ideGo := n, ideKeys := [(7, []), (23, [])], ideHalt := halt, bme := true } })

/-- The message of a session as it opens: what opens to it is left open (log 5). -/
def ideMessage (code : Byte) : List Byte := [1, code, 0, 0, 0, 0, 2]

theorem witness_KeyManagement : Quiet (keyed 127 true []) ∧ linkUp (keyed 127 true []).chip = true ∧
    (linked none id).chip.sec.session = none ∧ 16372 < (List.replicate 16373 (0 : Byte)).length ∧
    (keyed 127 true []).chip.sec.session = some ⟨4, [], 0, 0⟩ ∧ (4 : BitVec 32).toNat = 4 ∧ (5 : BitVec 32).toNat ≠ 4 ∧
    (0 : BitVec 64).toNat = 0 ∧ (1 : BitVec 64).toNat ≠ 0 ∧
    (field (ideMessage 4) 1 1 = 4 ∧ ideBit (ideMessage 4) = 7 ∧ setBit 127 (ideBit (ideMessage 4)) = 255 ∧
      (keyed 127 true []).chip.host.ideKeys.any (fun y => y.1 == 16 * (field (ideMessage 4) 6 1 % 2) + ideBit (ideMessage 4)) = true ∧
      (linked none id).chip.host.ideKeys = []) ∧
    ((keyed 127 true [[]]).chip.host.ideHalt = true ∧ (keyed 127 true [[]]).chip.host.msixPend = [] ∧
      (keyed 127 true [[]]).chip.host.bme = true ∧ (keyed 127 true [[]]).chip.host.d3 = false ∧ (keyed 127 true [[]]).chip.srv.backlog = [[]] ∧
      ringFill (keyed 127 true [[]]).chip < reg (keyed 127 true [[]]).chip (key 0x6040 2)) ∧
    (keyed 127 false [[]]).chip.host.ideHalt = false ∧ field (ideMessage 1) 1 1 ∉ [0, 2, 4, 5] := by
  refine ⟨⟨rfl, rfl, rfl⟩, ?_, rfl, ?_, rfl, ?_, ?_, ?_, ?_, ⟨?_, ?_, ?_, ?_, rfl⟩, ⟨rfl, rfl, rfl, rfl, rfl, ?_⟩, rfl, ?_⟩
  all_goals first | (simp only [List.length_replicate]; decide) | decide +kernel

/-- A record in the backlog, and a ring of one record with nothing in it. -/
def kept1 : State :=
  chipOf (fun c => { c with regs := [(key 0x2040 1, 2), (key 0x6040 2, 1)], srv := { c.srv with backlog := [[]] } })

theorem witness_LinkAndPower : (Powered (linked none id) ∧ Powered (phased .bootFailed) ∧ linkUp (linked none id).chip = true ∧
      (linked none id).chip.host.msixPend = [] ∧ (linked none id).chip.srv.backlog = [] ∧
      (linked none id).chip.host.ideHalt = false) ∧ (4 : Nat) ≠ 16 ∧ (4 : Nat) ≠ 8 ∧
    (kept1.chip.host.msixPend = [] ∧ kept1.chip.host.d3 = false ∧ kept1.chip.host.ideHalt = false ∧ kept1.chip.srv.backlog = [[]] ∧
      ringFill kept1.chip < reg kept1.chip (key 0x6040 2) ∧ linkUp kept1.chip = true) := by
  refine ⟨⟨⟨.inl rfl, rfl⟩, ⟨.inr rfl, rfl⟩, ?_, rfl, rfl, rfl⟩, ?_, ?_, rfl, rfl, rfl, rfl, ?_, ?_⟩ <;> decide

/-- A message of vector 63 waits for its vector, or for MSI-X Enable; the port takes accesses of BAR 0 or, in D3hot, not. -/
def waiting (on d3 : Bool) (open' : SMap (List Byte)) : State :=
  linked none (fun h => { h with msixPend := [63], bme := true, mse := true, msixOn := on, d3 := d3, msix := open' })

theorem witness_MessagesAndIntegrity : Mapped (waiting true false []) ∧
    ((waiting true false []).chip.host.msixPend = [(63 : Fin 64).val] ∧ (waiting true false []).chip.host.bme = true ∧
      (waiting true false []).chip.host.msixOn = true ∧ (waiting true false []).chip.host.funcMask = false) ∧
    (Mapped (linked none (fun h => { h with mse := true })) ∧ (linked none (fun h => { h with mse := true })).chip.host.msixPend = []) ∧
    (Quiet (waiting true true []) ∧ (waiting true true []).chip.host.d3 = true ∧ (linked none id).chip.host.mse = false ∧
      linkUp State.reset.chip = false) ∧
    (hostBlocked (waiting false false [(63, List.replicate 16 0)]).chip = false ∧
      bit (field (msixEntry (waiting false false [(63, List.replicate 16 0)]).chip 63) 12 4) 0 = false) ∧
    (State.reset.chip.host.ideGo = 0 ∧ (keyed 1 false []).chip.host.ideGo ≠ 0) := by
  refine ⟨⟨⟨rfl, rfl, rfl⟩, ?_, rfl, rfl, rfl⟩, ⟨rfl, rfl, rfl, rfl⟩, ⟨⟨⟨rfl, rfl, rfl⟩, ?_, rfl, rfl, rfl⟩, rfl⟩,
    ⟨⟨rfl, rfl, rfl⟩, rfl, rfl, ?_⟩, ⟨?_, ?_⟩, ?_, ?_⟩ <;> decide +kernel

/-- Stack 0 trained and a decoder of 256 MiB at host address 2^40 over its second 256 MiB; in D3hot or not. -/
def mappedIn (d3 mse : Bool) : State :=
  chipOf (fun c => { c with regs := [(key 0x2040 1, 2), (key 0x4011 1, 1), (key 0x4000 1, 0)], host := { c.host with
    hdm := [⟨2 ^ 40, 2 ^ 28, 2 ^ 28, true, false, 1⟩, Hdm.reset]
    mse := mse
    d3 := d3
    rasUnc := 2 ^ 16
    rasCor := 2 ^ 5 } })

/-- The same where the port takes every access. -/
def mapped : State := mappedIn false true

theorem mapped_mapped : Mapped mapped := ⟨⟨rfl, rfl, rfl⟩, by decide, rfl, rfl, rfl⟩

theorem witness_BarAccesses : Mapped mapped ∧
    (0x10080 ≤ 0x10080 ∧ 1 ≤ 64 ∧ 0x10080 + 64 ≤ 0x100C0 ∧ 0x10080 % 64 + 64 ≤ 64) ∧ (64 < 1 % 64 + 64 ∧ 0x400000 < 0x3FFFFF + 2) ∧
    (0x10040 ≤ 0x1004B ∧ 0x1004B < 0x1004C ∧ 4 < 0x1004B % 4 + 2 ∧ 0x1004B % 64 + 2 ≤ 64) ∧
    (0x10000 ≤ 0x1003F ∧ ([0] : List Byte) ≠ [] ∧ 0x1003F + 1 ≤ 0x10040 ∧ mapped.chip.eng.winStatus ≠ 1) ∧
    (CaughtUp mapped.chip ∧ 0x200000 ≤ 0x30FFFF ∧ 0x30FFFF % 64 + 1 ≤ 64 ∧ 0x30FFFF + 1 ≤ 0x310000) ∧
    (Quiet (mappedIn true true) ∧ linkUp (mappedIn true true).chip = true ∧ (mappedIn true true).chip.host.ideHalt = false ∧
      (mappedIn true true).chip.host.d3 = true ∧ (mappedIn false false).chip.host.mse = false) := by
  refine ⟨mapped_mapped, ?_, ?_, ?_, ?_, ⟨nofun, ?_, ?_, ?_⟩, ⟨⟨rfl, rfl, rfl⟩, ?_, rfl, rfl, rfl⟩⟩ <;> decide

theorem witness_ConfigurationWrites : Mapped mapped ∧ mapped.chip.host.hdm[(0 : Fin 2).val]? = some ⟨2 ^ 40, 2 ^ 28, 2 ^ 28, true, false, 1⟩ ∧
    mapped.chip.host.hdm[(1 : Fin 2).val]? = some Hdm.reset ∧ (2 ^ 40 < 2 ^ 64 ∧ 2 ^ 28 < 2 ^ 64) ∧
    (mapped.chip.host.rasUnc = 2 ^ 16 ∧ 2 ^ 16 < 2 ^ 32 ∧ mapped.chip.host.rasCor = 2 ^ 5 ∧ 2 ^ 5 < 2 ^ 32 ∧ 0xFFFFFFFF < 2 ^ 32) :=
  ⟨mapped_mapped, rfl, rfl, by decide, rfl, by decide, rfl, by decide, by decide⟩

theorem witness_HdmAccesses : (Quiet mapped ∧ linkUp mapped.chip = true ∧ mapped.chip.host.ideHalt = false ∧ mapped.chip.host.d3 = false ∧
      mapped.chip.time.changing = false) ∧
    (translate mapped.chip (2 ^ 40 + 2 ^ 28 - 64) = some (2 ^ 29 - 64) ∧ (2 ^ 29 - 64) % 64 = 0 ∧
      reachable mapped.fuses mapped.chip (2 ^ 29 - 64) = true ∧ inWork mapped.chip (2 ^ 29 - 64) = false ∧
      smGet EccMark.none mapped.chip.ecc ((2 ^ 29 - 64) / 64) = EccMark.none) ∧
    ((mappedIn true true).chip.host.d3 = true ∧ translate (mappedIn true true).chip (2 ^ 40) = some (2 ^ 28)) ∧
    (translate mapped.chip (2 ^ 40 - 1) = none ∧ translate mapped.chip (2 ^ 40 + 2 ^ 28) = none) := by
  refine ⟨⟨⟨rfl, rfl, rfl⟩, ?_, rfl, rfl, rfl⟩, ⟨?_, ?_, ?_, ?_, ?_⟩, ⟨rfl, ?_⟩, ?_, ?_⟩ <;> decide +kernel

/-- The largest span that R505 admits, one that passes it, and an address that decoder 0 leaves to decoder 1. -/
theorem witness_DecoderCommit : Mapped mapped ∧ mapped.chip.host.hdm.length = 2 ∧
    (∀ y, mapped.chip.host.hdm[0]? = some y → ¬(y.committed = true ∧ y.base ≤ 2 ^ 40 + 2 ^ 28 ∧ 2 ^ 40 + 2 ^ 28 < y.base + y.size)) := by
  refine ⟨mapped_mapped, rfl, ?_⟩
  intro y hy
  have h : mapped.chip.host.hdm[0]? = some ⟨2 ^ 40, 2 ^ 28, 2 ^ 28, true, false, 1⟩ := rfl
  rw [h] at hy; cases hy; simp

/-- A span that ends where R505 ends, and one that passes it. -/
theorem witness_DecoderCommit_span : (0x30030000000 : Nat) % 2 ^ 28 = 0 ∧ (0x10000000 + 0x30030000000 : Nat) ≤ 0x30040000000 ∧
    ¬(0x20000000 + 0x30030000000 : Nat) ≤ 0x30040000000 := by decide

end Sys2Proof.Tests
end

