-- ==== Sys2Proof/Tests/Witness8.lean ====
section
/-! SUPPORT. Witnesses, continued: the actions of a boundary. -/

namespace Sys2Proof.Tests

-- One proof at a time: together they ask for more threads than the memory limit has room for.
set_option Elab.async false

open Sys2Proof Sys2Proof.Machine Sys2Proof.Claims

/-! ## The step's end -/

/-- A step whose last cycle and cut-off are over. -/
def ending (h : Nat) : State := step0 (fun p => { p with cut := true, cutHalt := h, cyc := 1000000 })

/-- A chip with entries, imported or not. -/
def entered (l : SMap Nat) (i : Bool) : Chip := { play.chip with regs := l ++ play.chip.regs, det := { play.chip.det with imported := i } }

theorem witness_ActionOrder : (Quiet (ending 0) ∧ (ending 0).chip.plan.state = .running ∧ (ending 0).chip.plan.cut = true ∧
      (ending 0).chip.plan.step = (finishStep (reach (ending 0).chip (boundaryAt (ending 0).chip))).plan.step ∧
      (ending 0).chip.plan.cutHalt = (ending 0).chip.plan.step ∧ (ending 5).chip.plan.cutHalt ≠ (ending 5).chip.plan.step) ∧
    reg (entered [(key 0xB050 2, 1)] true) (key 0xB050 2) ≠ 0xFF ∧ (entered [] true).det.imported = true ∧
    (entered [] false).det.imported = false := by
  refine ⟨⟨⟨rfl, rfl, rfl⟩, rfl, rfl, ?_, rfl, ?_⟩, ?_, rfl, rfl⟩ <;> decide +kernel

/-- A plan whose access programs are one instruction, with counts of the step. -/
def counted (q : Seq) : Chip :=
  { play.chip with
    plan := { play.chip.plan with image := some { im with progs := [[.instr is0 (.ends is0 false)]] } }
    seqs := [(0, q)]
    acc := { play.chip.acc with counts := [(key 0x3040 1, 2 ^ 64 - 1), (key 0x3050 4, 1)] } }

theorem witness_StepClosed : (((counted Seq.start).acc.counts.map (·.1)).Nodup ∧
      ∀ k ∈ [key 0x3002 1, key 0x3003 1], k ∉ (counted Seq.start).acc.counts.map (·.1)) ∧
    ((counted Seq.start).plan.image = some { im with progs := [[.instr is0 (.ends is0 false)]] } ∧
      (instrsOf { im with progs := [[.instr is0 (.ends is0 false)]] } (counted Seq.start).plan.variant (0 : Fin 4).val false).length - 0 = 1 ∧
      (4, 1000 + (0 : Fin 4).val) ∉ (counted Seq.start).acc.reported) ∧
    ((seqAt (counted { Seq.start with endA := true, endX := true }) 0).endA = true ∧
      (seqAt (counted { Seq.start with endA := true, endX := true }) 0).endX = true) ∧
    Tile.reset.lag = 0 ∧ 0 < ({ Tile.reset with lag := 64 } : Tile).lag := by
  refine ⟨⟨?_, ?_⟩, ⟨rfl, ?_, ?_⟩, ⟨rfl, rfl⟩, rfl, ?_⟩ <;> decide +kernel

/-- A promotion in flight, finished by the cut-off or not. -/
def switches (ready : Bool) : Chip := { play.chip with pools := [(3, ⟨[], [⟨7, 1, true, true, ready⟩]⟩)] }

theorem witness_ResidenceSwitched (b : Bool) : (poolAt (switches b) 3).flights = [⟨7, 1, true, true, b⟩] := rfl

/-- A commit whose shadow asks for the other epoch, and one of nothing. -/
theorem witness_CommitApplied : Chip.reset.commitCopy = none ∧
    (∃ c : Chip, c.commitCopy = some [(key 0x5301 2, 1)] ∧ smGet (reg c (key 0x5301 2)) [(key 0x5301 2, 1)] (key 0x5301 2) = 1) ∧
    ∃ c : Chip, c.commitCopy = some [] ∧ smGet (reg c (key 0x5301 2)) [] (key 0x5301 2) ≠ 1 :=
  ⟨rfl, ⟨{ Chip.reset with commitCopy := some [(key 0x5301 2, 1)] }, rfl, by decide +kernel⟩,
    { Chip.reset with commitCopy := some [] }, rfl, by decide +kernel⟩

/-! ## Results and cancellations -/

/-- A result of session 0: two tokens, 7 and 9, at position 1. -/
def result0 : List Byte := splice (splice (List.replicate 128 0) 3 [2, 1]) 8 [7, 0, 0, 0, 9]

/-- The plan of two lines in HBM, which hold the bytes, as the sampler results of session 0. -/
def resulted (m : List Host.Cell) (x : Sess) : Chip :=
  { placed.chip with mem := m, regs := (key 0x6001 4, 0) :: placed.chip.regs, srv := { placed.chip.srv with sess := [(0, x)] } }

/-- The cells of `result0`. -/
def cells0 : List Host.Cell := [⟨3, 2⟩, ⟨4, 1⟩, ⟨8, 7⟩, ⟨12, 9⟩]

/-- A decode session that has stopped at 9, reaches its maximum of two tokens, or goes on. -/
def decodes (stops : List Nat) (most : Nat) : Sess := { Sess.free with st := 2, stops := stops, maxNew := most }

theorem read_resulted : ∀ x ∈ [decodes [] 9, decodes [9] 9, decodes [] 2],
    engRead (resulted cells0 x) (svRegion (resulted cells0 x) 4) (128 * 0) 128 = (resulted cells0 x, result0, false) := by decide +kernel

theorem kept_result (stops : List Nat) (most fin : Nat) (h7 : 7 ∉ stops) (hm : 2 ≤ most)
    (h : fin = 0 ∧ 9 ∉ stops ∧ 2 < most ∨ fin = 1 ∧ 9 ∈ stops ∨ fin = 2 ∧ 9 ∉ stops ∧ most = 2) :
    kept stops most 0 [7, 9] 2 fin := by
  refine ⟨by simp, fun i hi => ?_, ?_⟩
  · obtain rfl : i = 0 := by omega
    exact ⟨fun hs => h7 hs.1, by omega⟩
  · rcases h with ⟨rfl, h9, h⟩ | ⟨rfl, h9⟩ | ⟨rfl, h9, h⟩
    · refine .inl ⟨rfl, rfl, fun i hi => ?_⟩
      obtain rfl | rfl : i = 0 ∨ i = 1 := by omega
      · exact ⟨fun hs => h7 hs.1, by omega⟩
      · exact ⟨fun hs => h9 hs.1, by omega⟩
    · exact .inr (.inl ⟨rfl, by omega, h9, by decide⟩)
    · exact .inr (.inr ⟨rfl, by omega, fun hs => h9 hs.1, by omega⟩)

/-- A result that is there, with each way to end or none; and one that is missing, as the record's position is not the
session's. -/
theorem witness_ResultsApplied : (∀ x ∈ [decodes [] 9, decodes [9] 9, decodes [] 2], engRead (resulted cells0 x) (svRegion (resulted cells0 x) 4) (128 * 0) 128 =
      (resulted cells0 x, result0, false)) ∧
    (sessAt (resulted cells0 (decodes [] 9)) 0).flags.testBit 0 = false ∧
    (field result0 0 2 = 0 ∧ field result0 4 4 = 0 + (⟨2, 1, 0, false, false⟩ : Work).c ∧ field result0 2 1 ∈ [0, 3, 5, 6, 7] ∧
      ¬9 < field result0 3 1 ∧ (List.range (field result0 3 1)).map (fun i => field result0 (8 + 4 * i) 4) = [7, 9]) ∧
    (kept [] 9 0 [7, 9] 2 0 ∧ kept [9] 9 0 [7, 9] 2 1 ∧ kept [] 2 0 [7, 9] 2 2) ∧
    field result0 4 4 ≠ 0 + (⟨2, 2, 0, false, false⟩ : Work).c := by
  refine ⟨read_resulted, ?_, ?_, ⟨kept_result _ _ _ (by simp) (by omega) (by simp), kept_result _ _ _ (by simp) (by omega) (by simp),
    kept_result _ _ _ (by simp) (by omega) (by simp)⟩, ?_⟩ <;> decide +kernel

/-- The request of session 5 with tag 7. -/
def request5 : List Byte := splice (splice (splice (List.replicate 256 0) 1 [1]) 8 [7]) 0x10 [5]

/-- A module with an admission region, and session 5 in use or not. -/
def cancels (l : List Stage) (x : Sess) : Chip :=
  { play.chip with srv := { play.chip.srv with region := l, sess := [(5, x)] } }

theorem witness_Cancellations :
    (5 < 4096 ∧ (sessAt (cancels [] { Sess.free with st := 2, tag := 7 }) 5).st ≠ 0 ∧
      (sessAt (cancels [] { Sess.free with st := 2, tag := 7 }) 5).tag = 7 ∧
      ∀ y ∈ regionRecs (cancels [] { Sess.free with st := 2, tag := 7 }), False) ∧
    (sessAt (cancels [] Sess.free) 5).st = 0 ∧
    (regionRecs (cancels [⟨9, [request5], [false], []⟩] Sess.free) = [] ++ (0, 0, 9, request5, false) :: [] ∧
      field request5 1 1 = 1 ∧ field request5 0x10 2 = 5 ∧ field request5 8 8 = 7) :=
  ⟨⟨by decide, by decide, rfl, fun y hy => by cases hy⟩, rfl, rfl, by decide, by decide, by decide⟩

/-! ## Switches and table chunks -/

theorem witness_SwitchesApplied :
    ((wentry (readies WCopy.none []).chip 0).a.st ≠ .ready ∧ (wentry (readies WCopy.none []).chip 0).b.st ≠ .ready) ∧
    (copyIn (wentry (readies WCopy.none []).chip 65) .ready = some ⟨.ready, 1, 0, 32, 0, []⟩ ∧
      copyIn (wentry (readies WCopy.none []).chip 65) .live = none) ∧
    (let c := (readies ⟨.live, 0, 0, 32, 64, []⟩ []).chip; copyIn (wentry c 65) .ready = some ⟨.ready, 1, 0, 32, 0, []⟩ ∧
      copyIn (wentry c 65) .live = some ⟨.live, 0, 0, 32, 64, []⟩ ∧ genPolicy c 65 ≠ 1 ∧ (c.srv.sess.map (·.1)).Nodup) ∧
    genPolicy (chipOf (fun c => { c with regs := [(key 0x7001 3, 1)] })).chip 65 = 1 ∧
    (let c := (readies ⟨.draining, 0, 0, 32, 64, []⟩ []).chip; copyIn (wentry c 65) .draining = some ⟨.draining, 0, 0, 32, 64, []⟩ ∧ boundTo c 65 0 = 0) ∧
    boundTo (readies ⟨.draining, 0, 0, 32, 64, []⟩ [(0, { Sess.free with st := 1, binds := 4, adapter := 63 })]).chip 65 0 ≠ 0 ∧
    (Chip.reset.wts.kept = [] ∧ Chip.reset.wts.build = none ∧ ∀ k < 66, copyIn (wentry Chip.reset k) .draining = none) := by
  refine ⟨⟨?_, ?_⟩, ⟨rfl, rfl⟩, ⟨rfl, rfl, ?_, ?_⟩, ?_, ⟨rfl, ?_⟩, ?_, rfl, rfl, fun _ _ => rfl⟩ <;> decide +kernel

/-- A grammar image of one state, one class and one mask, for eight tokens. -/
def grammar0 : List Byte := [1, 0, 0, 0, 0, 0, 0, 0, 1, 0, 1, 0, 0, 0, 0, 0, 32, 0, 0, 0, 40, 0, 0, 0, 40, 0, 0, 0, 56] ++ List.replicate 35 0

/-- The chunk of grammar 0, or of vocabulary mask 0, of sixteen words, final or not. -/
def chunk0 (kind : Byte) (final : Byte) : List Byte :=
  splice (splice (splice (List.replicate 256 0) 0x12 [kind]) 0x14 [16]) 0x2F [final]

/-- The serving tables in the plan's two lines, grammars of g bytes and eight tokens, with a session that uses grammar 0 or
not. -/
def tabled (g : Nat) (x : Sess) : Chip :=
  { placed.chip with
    regs := (key 0x6000 2, 8) :: (key 0x6001 6, 0) :: (key 0x6001 7, g) :: placed.chip.regs
    srv := { placed.chip.srv with sess := [(0, x)] } }

theorem witness_TableChunks : (∃ x ∈ liveSessions (tabled 64 { Sess.free with st := 1, gram := 0 }), x.2.gram = 0) ∧
    liveSessions (tabled 64 Sess.free) = [] ∧
    (svRegion (tabled 64 Sess.free) 6 = 0 ∧ regionSize (tabled 64 Sess.free) 0 = 128 ∧ field (chunk0 1 1) 0x12 1 = 1 ∧ field (chunk0 1 1) 0x13 1 = 0 ∧
      field (chunk0 1 1) 0x18 4 = 0 ∧ 4 * field (chunk0 1 1) 4 4 = 0 ∧ 4 * field (chunk0 1 1) 0x14 4 = 64 ∧
      (field (chunk0 1 1) 0x2F 1).testBit 0 = true ∧ (field (chunk0 1 0) 0x2F 1).testBit 0 = false ∧
      field (chunk0 2 1) 0x12 1 = 2 ∧ svRegion (tabled 0 Sess.free) 7 = 0) ∧
    (∀ k < 2, let put := engPatch (tabled 64 Sess.free) 0 0 (if k = 0 then grammar0 else List.replicate 64 0)
      grammarOk (engRead { put with srv := { put.srv with tables := nsErase put.srv.tables 0 } } 0 0 64).2.1 64 8 = (k == 0)) := by
  refine ⟨?_, ?_, ?_, ?_⟩ <;> decide +kernel

/-! ## Admission, pages and the prefix tree -/

/-- The plan's two lines as the prompt store, pages of 16 tokens, with a session and the prompt store's runs. -/
def admits (x : Sess) (l : List (Nat × Nat)) : Chip :=
  { placed.chip with
    regs := (key 0x6000 8, 4096) :: (key 0x6001 5, 0) :: placed.chip.regs
    srv := { placed.chip.srv with sess := [(5, x)], prompts := l } }

/-- A request of session 5 of sixteen tokens, without tables or an adapter. -/
def request16 : List Byte := splice (splice (splice request5 0x12 [0xFF, 0xFF]) 0x14 [16]) 0x2E [0xFF]

theorem freeRun_admits : freeRun (admits Sess.free [(0, 1)]) 16 1 ∧ ¬freeRun (admits Sess.free [(0, 1)]) 16 0 ∧
    ∀ o, ¬freeRun (admits Sess.free [(0, 2)]) 16 o := by
  have n : regionSize (admits Sess.free [(0, 2)]) (svRegion (admits Sess.free [(0, 2)]) 5) / 64 = 2 := by decide +kernel
  refine ⟨⟨by decide +kernel, ?_⟩, ?_, ?_⟩
  · intro x hx; obtain rfl := List.mem_singleton.mp hx; right; decide
  · intro h
    have := h.2 (0, 1) (List.mem_singleton.mpr rfl)
    omega
  · intro o h
    have h1 := h.1
    rw [n] at h1
    have := h.2 (0, 2) (List.mem_singleton.mpr rfl)
    omega

/-- A request that is taken behind another's prompt; one of a session in use; one without room for its prompt. -/
theorem witness_Admissions : Calm (admits Sess.free [(0, 1)]) ∧ (admits Sess.free [(0, 1)]).ecc = [] ∧
    (sessAt (admits { Sess.free with st := 1 } []) 5).st ≠ 0 ∧
    ((sessAt (admits Sess.free [(0, 1)]) 5).st = 0 ∧ field request16 0x10 2 = 5 ∧ field request16 0x12 1 = 0xFF ∧
      field request16 0x13 1 = 0xFF ∧ field request16 0x2E 1 = 0xFF ∧ field request16 0x14 4 = 16 ∧ 16 ≤ tau (admits Sess.free [(0, 1)])) ∧
    (freeRun (admits Sess.free [(0, 1)]) 16 1 ∧ ∀ o < 1, ¬freeRun (admits Sess.free [(0, 1)]) 16 o) ∧
    ¬∃ o, freeRun (admits Sess.free [(0, 2)]) 16 o := by
  refine ⟨⟨rfl, rfl⟩, rfl, by decide, ⟨rfl, by decide, by decide, by decide, by decide, by decide, by decide +kernel⟩, ⟨freeRun_admits.1, ?_⟩,
    fun ⟨o, h⟩ => freeRun_admits.2.2 o h⟩
  intro o h; obtain rfl : o = 0 := by omega
  exact freeRun_admits.2.1

/-- A KV pool of one page, with one frame, of die 0; pages of 16 tokens; what the serving engine holds. -/
def pool1 (v : Serving) : Chip :=
  { placed.chip with
    plan := { placed.chip.plan with image := some { im1 with regions := [⟨3, 2, 0, 0, false, false, 65536, 1⟩] } }
    regs := (key 0x6000 1, 1) :: (key 0x6000 8, 4096) :: (key 0x6002 1, 3) :: placed.chip.regs
    srv := v }

/-- Nothing is taken. -/
def pool0 : Chip := pool1 Serving.reset

/-- A session 0 with page 0 of the pool as its first, and the page's references. -/
def paged (x : Sess) (n : Nat) (nodes : SMap Node) : Chip :=
  pool1 { Serving.reset with sess := [(0, x)], dir := [(0, 7)], blocks := [(7, [(0, 0)])], refs := [(0, n)], nodes := nodes }

theorem witness_PagesTaken : (diePools pool0 0 = [0] ∧ diePools (paged Sess.free 1 []) 0 = [0]) ∧
    (Took.none.ok = true ∧ kvPage (paged Sess.free 1 []) 0 0 0 0 = some 0) ∧
    (kvPage pool0 0 0 0 0 = none ∧ freePage pool0 0 = some 0 ∧ dirSlot pool0 0 0 (0 / 64) = none ∧
      freeBlock pool0 0 = some 0 ∧ dirSlot (paged Sess.free 0 []) 0 0 (0 / 64) = some 7) ∧
    (kvPage (paged Sess.free 1 []) 0 0 0 1 = none ∧ dirSlot (paged Sess.free 1 []) 0 (poolRank (paged Sess.free 1 []) 0 0) (1 / 64) ≠ none ∧
      freePage (paged Sess.free 1 []) 0 = none ∧ victim (paged Sess.free 1 []) 0 none = none) ∧
    (∀ q < 8, poolPages pool0 q ≤ 2 ^ 20) ∧
    ((ensurePages pool0 0 16 Took.none).2 ≠ none ∧ (ensurePages pool0 0 17 Took.none).2 = none) ∧
    (∀ i < 64, ∀ i' < 64, dirSlot (paged Sess.free 1 []) 0 (poolRank (paged Sess.free 1 []) 0 0) i ≠ none →
      dirSlot (paged Sess.free 1 []) 0 (poolRank (paged Sess.free 1 []) 0 0) i' ≠ none → i = i') ∧
    pageRefs (paged Sess.free 1 []) 0 0 ≤ 1 ∧ 1 < pageRefs (paged Sess.free 2 []) 0 0 := by
  refine ⟨⟨?_, ?_⟩, ⟨rfl, ?_⟩, ⟨?_, ?_, ?_, ?_, ?_⟩, ⟨?_, ?_, ?_, ?_⟩, ?_, ⟨?_, ?_⟩, ?_, ?_, ?_⟩ <;> decide +kernel

/-- Node 1 below the root, with page 0, cached or shared. -/
def tree1 (sharing : Nat) : SMap Node :=
  [(0, { Node.root with child := 1 }), (1, ⟨[1], 0, 2 ^ 32 - 1, 2 ^ 32 - 1, sharing, 3, [0], false⟩)]

/-- A session that shares, with a prompt of one whole page that it has worked. -/
def sharer (node : Nat) : Sess := { Sess.free with st := 2, flags := 1, len := 16, keys := [[1]], node := node }

theorem witness_PrefixTree :
    (findChild (paged (sharer 0) 1 (tree1 0)) 0 0 [2] = none ∧ findChild (paged (sharer 0) 1 (tree1 0)) 0 0 [1] = some 1 ∧
      (diePools (paged (sharer 0) 1 (tree1 0)) 0).map (fun p => dirSlot (paged (sharer 0) 1 (tree1 0)) 0
        (poolRank (paged (sharer 0) 1 (tree1 0)) 0 p) (0 / 64)) = [7].map some ∧ [7].Nodup ∧
      (nodeAt (paged (sharer 0) 1 (tree1 0)) 0 1).pages.length = (diePools (paged (sharer 0) 1 (tree1 0)) 0).length ∧
      ∀ g ∈ (nodeAt (paged (sharer 0) 1 (tree1 0)) 0 1).pages, g < 2 ^ 20) ∧
    ((sharer 0).keys[0]? = some [1] ∧ (sharer 0).flags.testBit 0 = true ∧ tau (paged (sharer 0) 1 []) * (0 + 1) ≤ (sharer 0).len ∧
      nodeDepth (paged (sharer 0) 1 []) 0 (sharer 0).node = 0 ∧ nodeUsed (paged (sharer 0) 1 []) 0 (sharer 0).node = true ∧
      (diePools (paged (sharer 0) 1 []) 0).map (fun p => kvPage (paged (sharer 0) 1 []) 0 p 0 0) = [0].map some ∧
      findChild (paged (sharer 0) 1 []) 0 (sharer 0).node [1] = none ∧ freeNode (paged (sharer 0) 1 []) 0 = some 1) ∧
    (pathUp (paged (sharer 1) 1 (tree1 1)) 0 3 1 = [1] ∧ [1].Nodup) ∧
    ((treeNodes (paged (sharer 0) 1 (tree1 0)) 0).Pairwise (· < ·) ∧ victim (paged (sharer 0) 1 (tree1 0)) 0 none = some 1) := by
  refine ⟨⟨?_, ?_, ?_, ?_, ?_, ?_⟩, ⟨rfl, ?_, ?_, ?_, ?_, ?_, ?_, ?_⟩, ⟨?_, ?_⟩, ?_, ?_⟩ <;> decide +kernel

/-! ## The next step's work and the output records -/

/-- Sessions 0 to 2 of die 0: a prompt of forty tokens, a decode session, and a paused one. -/
def working : Chip :=
  { play.chip with srv := { play.chip.srv with sess := [(0, { Sess.free with st := 1, plen := 40 }), (1, { Sess.free with st := 2 }),
    (2, { Sess.free with st := 2, flags := 8 })] } }

theorem witness_NextWork : (shareTokens working 30 [0] = [(0, 30)] ∧ shareTokens working 50 [0, 1] = [(0, 40)]) ∧
    (1 ∈ dieSessions working 0 ∧ (sessAt working 1).flags.testBit 3 = false ∧ (sessAt working 1).st = 2) ∧
    (2 ∈ dieSessions working 0 ∧ (sessAt working 2).flags.testBit 3 = true) ∧
    (Work.idle.kind = 0 ∧ (⟨1, 5, 0, true, false⟩ : Work).kind = 1) := by
  refine ⟨⟨?_, ?_⟩, ⟨?_, ?_, ?_⟩, ⟨?_, ?_⟩, rfl, rfl⟩ <;> decide +kernel

/-- A ring of two records that holds n, the host's writes open, with a backlog. -/
def ringed (n : Nat) (l : List (List Byte)) : Chip :=
  { Chip.reset with
    regs := [(key 0x2040 1, 1), (key 0x6040 2, 2), (key 0x6040 5, n), (key 0x6040 6, 64)]
    host := { HostIf.reset with bme := true }
    srv := { Serving.reset with backlog := l } }

theorem witness_OutputRecords : (⟨0, 0, 0, 2, List.replicate 9 5, 0, 1, false⟩ : OutRec).toks.length ≤ 9 ∧
    ((ringed 1 []).srv.backlog = [] ∧ hostBlocked (ringed 1 []) = false ∧
      (reg (ringed 1 []) (key 0x6040 5) + 2 ^ 32 - reg (ringed 1 []) (key 0x6040 4)) % 2 ^ 32 < reg (ringed 1 []) (key 0x6040 2) ∧
      reg (ringed 1 []) (key 0x6040 3) = 0) ∧
    ¬(reg (ringed 2 []) (key 0x6040 5) + 2 ^ 32 - reg (ringed 2 []) (key 0x6040 4)) % 2 ^ 32 < reg (ringed 2 []) (key 0x6040 2) ∧
    ((ringed 1 [[]]).srv.backlog ≠ [] ∧ (ringed 1 [[]]).srv.backlog.length < 4096 ∧
      4096 ≤ (ringed 1 (List.replicate 4096 [])).srv.backlog.length) ∧
    (reg Chip.reset (key 0xB011 6) ≤ 0 ∧ reg Chip.reset (key 0x6040 6) = 0) ∧
    (reg (ringed 1 []) (key 0x6040 6) ≠ 0 ∧ hostBlocked { ringed 1 [] with host := HostIf.reset } = true) ∧
    3 < reg { Chip.reset with regs := [(key 0xB011 6, 4)] } (key 0xB011 6) := by
  refine ⟨?_, ⟨rfl, ?_, ?_, ?_⟩, ?_, ⟨?_, ?_, ?_⟩, ⟨?_, ?_⟩, ⟨?_, ?_⟩, ?_⟩ <;> decide +kernel

end Sys2Proof.Tests
end

section
/-! PROOFS. Writes of dictionary entries that no check refuses, one occurrence on its way to the log, and the commit of the
staged entries (14 R434 to R440, 15 R451 to R455 R467 R468). -/

namespace Sys2Proof.Proofs

open Sys2Proof Sys2Proof.Machine Sys2Proof.Claims Sys2Proof.Laws

/-! ## An accepted write of an entry -/

/-- Where no cut-off is due a request finds the module as it stands. -/
theorem catchUp_of_caughtUp {c : Chip} (h : CaughtUp c) : catchUp c = c := by
  have hnot : (c.plan.state == .running && !c.plan.cut && decide (cutoffAt c ≤ c.count)) = false := by
    by_cases hrun : c.plan.state = .running
    · rcases h hrun with hcut | hcount
      · rw [hcut, Bool.not_true, Bool.and_false, Bool.false_and]
      · have hlate : ¬cutoffAt c ≤ c.count := Nat.not_le.mpr hcount
        rw [decide_eq_false hlate, Bool.and_false]
    · rw [beq_false_of_ne hrun, Bool.false_and, Bool.false_and]
  rw [catchUp, hnot, if_neg Bool.false_ne_true]

/-- Where no error strikes the storage takes the write. -/
theorem storeWrite_sound {c : Chip} (h : c.flaws = []) (f : Chip → Chip) : storeWrite c f = (f c, 0) := by
  simp [storeWrite, flawAt, h]

/-- A write that no check refuses is carried out and counted (15 R467 R468). -/
theorem writeRow_accepted {s : State} (h : Serves s) {i sub n v : Nat} {e : Ent} (he : entOf i sub = some e)
    (hc : writeCode s.fuses s.chip i sub (leBytes n v) = 0) :
    writeRow s i sub n v = .next { s with
      chip := flush (addReg (applyWrite s.fuses s.chip e i sub (leBytes n v)) (key 0x2002 1) 1) } := by
  have hw : dictWrite s.fuses i sub (leBytes n v) s.chip =
      addReg (applyWrite s.fuses s.chip e i sub (leBytes n v)) (key 0x2002 1) 1 := by
    simp [dictWrite, tryWrite, he, hc, storeWrite_sound h.sound, catchUp_of_caughtUp h.caught, countRequest]
  rw [writeRow, onRunning_running _ h.runs, hw]

/-- A number that fits its bytes reads back. -/
theorem leNat_leBytes_of_lt {n v : Nat} (h : v < 256 ^ n) : leNat (leBytes n v) = v := by
  rw [leNat_leBytes, Nat.mod_eq_of_lt h]

/-- The checks that a write of a plain scalar entry passes (15 R467). -/
theorem writeCode_scalar {f : Fuses} {c : Chip} {i sub n v : Nat} {e : Ent} (he : entOf i sub = some e)
    (hfit : v < 256 ^ n) (hlen : lengthOk e n = true) (hacc : e.acc ≠ .ro) (happ : e.app ≠ .halted)
    (hinj : i ≠ 0xF010) (hslot : isKeySlot i = false) (hstate : stateCode c i sub v = 0)
    (hvalue : valueOk f e i sub v = true) (hagree : agrees c i sub v = true) :
    writeCode f c i sub (leBytes n v) = 0 := by
  simp [writeCode, he, hacc, hlen, hinj, hslot, classCode, happ, leNat_leBytes_of_lt hfit, hstate, hvalue, hagree]

/-- What an accepted write of one plain entry leaves: the entry at its value, the request counted, all else as it was. -/
def EntrySet (s : State) (k v : Nat) (t : State) : Prop :=
  t = { s with chip := { s.chip with regs := t.chip.regs } } ∧ served s t ∧ reg t.chip k = v ∧ Keeps s t [k, key 0x2002 1]

/-- A write that sets one entry leaves that, where no occurrence waits. -/
theorem entrySet_setReg {s : State} (h : Quiet s) {k v : Nat} (hk : k ≠ key 0x2002 1) :
    EntrySet s k v { s with chip := flush (addReg (setReg s.chip k v) (key 0x2002 1) 1) } := by
  have hf : flush (addReg (setReg s.chip k v) (key 0x2002 1) 1) = addReg (setReg s.chip k v) (key 0x2002 1) 1 :=
    flush_none h.none
  rw [hf]
  refine ⟨rfl, ?_, ?_, ?_⟩
  · simp [Claims.served, m64, reg_setReg_ne _ _ (Ne.symm hk)]
  · simp [reg_addReg_ne _ _ hk]
  · intro j hj
    simp only [List.mem_cons, List.not_mem_nil, or_false, not_or] at hj
    simp [reg_addReg_ne _ _ hj.2, reg_setReg_ne _ _ hj.1]

/-! ## One occurrence reaches the log -/

theorem reg_fireMsix (c : Chip) (v k : Nat) : reg (fireMsix c v) k = reg c k := by
  unfold fireMsix; split <;> rfl

/-- Announcing a record changes no entry but the count of events lost on CAN FD. -/
theorem reg_announce (c : Chip) (r : Rec) {k : Nat} (h : k ≠ key 0x9010 6) : reg (announce c r) k = reg c k := by
  have hmsix : reg (announceMsix c r.cls) k = reg c k := by
    unfold announceMsix
    split
    · exact reg_fireMsix _ _ _
    · rfl
  unfold announce announceCan
  split
  · split
    · exact hmsix
    · rw [reg_addReg_ne _ _ h, hmsix]
  · exact hmsix

theorem reg_takeCap (c : Chip) (r : Rec) (b : Bool) (k : Nat) : reg (takeCap c r b) k = reg c k := by
  unfold takeCap; split <;> rfl

/-- Storing a record changes no entry but the counts of records and of events lost. -/
theorem reg_storeRec (c : Chip) (r : Rec) (b : Bool) {k : Nat} (hlost : k ≠ key 0x9001 4) (hcan : k ≠ key 0x9010 6) :
    reg (storeRec c r b) k = reg c k := by
  unfold storeRec
  split
  · rw [reg_announce _ _ hcan, reg_takeCap]; rfl
  · rw [reg_takeCap, reg_addReg_ne _ _ hlost]; rfl

theorem announce_log (c : Chip) (r : Rec) : (announce c r).err.log = c.err.log := by
  have hmsix : (announceMsix c r.cls).err.log = c.err.log := by
    unfold announceMsix
    split
    · rw [fireMsix_err]
    · rfl
  unfold announce announceCan
  split
  · split <;> exact hmsix
  · exact hmsix

theorem takeCap_log (c : Chip) (r : Rec) (b : Bool) : (takeCap c r b).err.log = c.err.log := by
  unfold takeCap; split <;> rfl

/-- A record stands in the log after it is stored, unless the log was full. -/
theorem storeRec_log (c : Chip) (r : Rec) (b : Bool) :
    (∃ x ∈ (storeRec c r b).err.log, x.code = r.code ∧ x.loc = r.loc) ∨ 128 ≤ c.err.log.length := by
  unfold storeRec
  split
  · refine .inl ⟨if c.err.lostSince then { r with flags := r.flags + 4 } else r, ?_, ?_⟩
    · simp [announce_log, takeCap_log]
    · split <;> exact ⟨rfl, rfl⟩
  · next h => exact .inr (Nat.le_of_not_lt h)

/-- Where an occurrence merges, its record stands among the merged ones. -/
theorem mergeRec_mem {o : Occ} {l m : List Rec} (h : mergeRec o l = some m) : ∃ r ∈ m, r.code = o.code ∧ r.loc = o.loc := by
  induction l generalizing m with
  | nil => simp [mergeRec] at h
  | cons r t ih =>
    simp only [mergeRec] at h
    split at h
    · next hsame =>
      obtain rfl := Option.some.inj h
      exact ⟨_, List.mem_cons_self .., hsame.1, hsame.2.1⟩
    · obtain ⟨m', hm', rfl⟩ := Option.map_eq_some_iff.mp h
      obtain ⟨x, hx, hs⟩ := ih hm'
      exact ⟨x, List.mem_cons_of_mem _ hx, hs⟩

/-- An occurrence is counted by its class (14 R436). -/
theorem reg_occur_class (c : Chip) (o : Occ) :
    reg (occur c o) (key 0x9002 (classOf o.code + 1)) = m64 (reg c (key 0x9002 (classOf o.code + 1)) + 1) := by
  have hcount : reg (countOcc c (classOf o.code)) (key 0x9002 (classOf o.code + 1)) =
      m64 (reg c (key 0x9002 (classOf o.code + 1)) + 1) := reg_addReg_same _ _ _
  have hcls := classOf_le o.code
  have hkey : ∀ {i sub : Nat}, i ≠ 0x9002 → sub < 256 → key 0x9002 (classOf o.code + 1) ≠ key i sub := by
    intro i sub hi hsub; unfold key; omega
  unfold occur
  simp only
  split
  · exact hcount
  · rw [reg_storeRec _ _ _ (hkey (by decide) (by decide)) (hkey (by decide) (by decide)),
      reg_setReg_ne _ _ (hkey (by decide) (by decide)), hcount]

/-- An occurrence stands in the log, unless the log was full (14 R435 R437). -/
theorem occur_log (c : Chip) (o : Occ) :
    (∃ r ∈ (occur c o).err.log, r.code = o.code ∧ r.loc = o.loc) ∨ 128 ≤ c.err.log.length := by
  unfold occur
  simp only
  split
  · next h =>
    split at h
    · simp at h
    · exact .inl (mergeRec_mem h)
  · exact storeRec_log _ _ _

/-- Where one occurrence waits the log takes it. -/
theorem flush_single {c : Chip} {o : Occ} (h : c.err.pend = [o]) :
    flush c = occur { c with err := { c.err with pend := [] } } o := by
  simp [flush, h, sortBy, sortIns]

/-- The one occurrence that a command put by on an unchanged log is reported. -/
theorem reported_of_noted {s : State} {d : Chip} {code : Nat} {loc : Loc} {detail : List Nat} (hnone : s.chip.err.pend = [])
    (hnoted : noted s.chip d code loc detail) (hlog : d.err.log = s.chip.err.log)
    (hreg : reg d (key 0x9002 (classOf code + 1)) = reg s.chip (key 0x9002 (classOf code + 1))) :
    Reported s { s with chip := flush d } code loc := by
  obtain ⟨o, hpend, rfl, hloc, -⟩ := hnoted
  rw [hnone, List.nil_append] at hpend
  rw [Reported, flush_single hpend, ← hloc, ← hlog, ← hreg]
  exact ⟨reg_occur_class _ o, occur_log _ o⟩

/-! ## The commit of the staged entries (15 R451 R455, 12 R389) -/

/-- One staged entry takes its copied shadow. -/
def takeShadow (copy : SMap Nat) (c : Chip) (k : Nat) : Chip := setReg c k (smGet (reg c k) copy k)

/-- Taking shadows changes registers alone. -/
theorem foldl_takeShadow_frame (copy : SMap Nat) (l : List Nat) (c : Chip) :
    l.foldl (takeShadow copy) c = { c with regs := (l.foldl (takeShadow copy) c).regs } := by
  induction l generalizing c with
  | nil => rfl
  | cons k t ih => exact ih (takeShadow copy c k)

/-- Each entry of the list holds its shadow, every other what it held. -/
theorem reg_foldl_takeShadow (copy : SMap Nat) (l : List Nat) (c : Chip) (k : Nat) (h : l.Nodup) :
    reg (l.foldl (takeShadow copy) c) k = if k ∈ l then smGet (reg c k) copy k else reg c k := by
  induction l generalizing c with
  | nil => rfl
  | cons a t ih =>
    obtain ⟨ha, ht⟩ := List.nodup_cons.mp h
    rw [List.foldl_cons, ih _ ht]
    by_cases hk : k = a
    · subst hk; simp [ha, takeShadow]
    · simp [hk, takeShadow, reg_setReg_ne _ _ hk]

/-- The staged entries in force after a commit, before a requested flip. -/
def shadowsTaken (copy : SMap Nat) (c : Chip) : Chip := stagedKeys.foldl (takeShadow copy) c

theorem shadowsTaken_frame (copy : SMap Nat) (c : Chip) :
    shadowsTaken copy c = { c with regs := (shadowsTaken copy c).regs } := foldl_takeShadow_frame copy stagedKeys c

@[simp] theorem shadowsTaken_err (copy : SMap Nat) (c : Chip) : (shadowsTaken copy c).err = c.err := by
  rw [shadowsTaken_frame]

@[simp] theorem shadowsTaken_plan (copy : SMap Nat) (c : Chip) : (shadowsTaken copy c).plan = c.plan := by
  rw [shadowsTaken_frame]

@[simp] theorem shadowsTaken_tiles (copy : SMap Nat) (c : Chip) : (shadowsTaken copy c).tiles = c.tiles := by
  rw [shadowsTaken_frame]

@[simp] theorem shadowsTaken_mem (copy : SMap Nat) (c : Chip) : (shadowsTaken copy c).mem = c.mem := by
  rw [shadowsTaken_frame]

theorem reg_shadowsTaken (copy : SMap Nat) (c : Chip) (k : Nat) :
    reg (shadowsTaken copy c) k = if k ∈ stagedKeys then smGet (reg c k) copy k else reg c k :=
  reg_foldl_takeShadow copy stagedKeys c k (by decide)

/-- A digest notice changes ports alone. -/
theorem noticeDigest_frame (b c : Chip) : noticeDigest b c = { c with ports := (noticeDigest b c).ports } := by
  have hfold : ∀ (d : List Byte) (l : List Nat) (c : Chip),
      l.foldl (fun c p => sendMsg c p 0x26 d) c =
        { c with ports := (l.foldl (fun c p => sendMsg c p 0x26 d) c).ports } := by
    intro d l
    induction l with
    | nil => intro c; rfl
    | cons p t ih => intro c; exact ih (sendMsg c p 0x26 d)
  unfold noticeDigest
  simp only
  split
  · rfl
  · exact hfold _ _ _

@[simp] theorem noticeDigest_reg (b c : Chip) (k : Nat) : reg (noticeDigest b c) k = reg c k := by
  rw [noticeDigest_frame]; rfl

@[simp] theorem noticeDigest_err (b c : Chip) : (noticeDigest b c).err = c.err := by rw [noticeDigest_frame]

@[simp] theorem noticeDigest_plan (b c : Chip) : (noticeDigest b c).plan = c.plan := by rw [noticeDigest_frame]

@[simp] theorem noticeDigest_tiles (b c : Chip) : (noticeDigest b c).tiles = c.tiles := by rw [noticeDigest_frame]

@[simp] theorem noticeDigest_mem (b c : Chip) : (noticeDigest b c).mem = c.mem := by rw [noticeDigest_frame]

/-- Where no flip is asked for none takes effect. -/
theorem flipEpoch_unasked (late : Bool) (w : When) {c : Chip} (h : reg c (key 0x5301 2) ≠ 1) : flipEpoch late w c = c :=
  if_neg h

/-- A flip asked for writes the epoch and its request. -/
theorem flipEpoch_regs (late : Bool) (w : When) {c : Chip} (h : reg c (key 0x5301 2) = 1) :
    (flipEpoch late w c).regs = (setReg (setReg c (key 0x5301 1) (1 - reg c (key 0x5301 1))) (key 0x5301 2) 0).regs := by
  unfold flipEpoch
  rw [if_pos h]
  cases late <;> rfl

/-- The entries of a chip are those of its register map. -/
theorem reg_of_regs {c d : Chip} (h : d.regs = c.regs) (k : Nat) : reg d k = reg c k := by
  unfold reg; rw [h]

/-- A flip touches no entry but the epoch and its request. -/
theorem reg_flipEpoch (late : Bool) (w : When) (c : Chip) {k : Nat} (hepoch : k ≠ key 0x5301 1) (hask : k ≠ key 0x5301 2) :
    reg (flipEpoch late w c) k = reg c k := by
  by_cases h : reg c (key 0x5301 2) = 1
  · rw [reg_of_regs (flipEpoch_regs late w h), reg_setReg_ne _ _ hask, reg_setReg_ne _ _ hepoch]
  · rw [flipEpoch_unasked late w h]

/-- A flip asked for changes the epoch, returns its request to 0 and is reported (12 R389). -/
theorem flipEpoch_asked (late : Bool) (w : When) {c : Chip} (h : reg c (key 0x5301 2) = 1) :
    reg (flipEpoch late w c) (key 0x5301 1) = 1 - reg c (key 0x5301 1) ∧ reg (flipEpoch late w c) (key 0x5301 2) = 0 ∧
      noted c (flipEpoch late w c) 0x0503 .modl [1 - reg c (key 0x5301 1)] := by
  refine ⟨?_, ?_, ?_⟩
  · rw [reg_of_regs (flipEpoch_regs late w h), reg_setReg_ne _ _ (by decide), reg_setReg_same]
  · rw [reg_of_regs (flipEpoch_regs late w h), reg_setReg_same]
  · unfold flipEpoch
    rw [if_pos h]
    cases late <;> exact ⟨_, rfl, rfl, rfl, rfl⟩

section
variable (late : Bool) (w : When) (c : Chip)

@[simp] theorem flipEpoch_log : (flipEpoch late w c).err.log = c.err.log := by
  unfold flipEpoch; split <;> cases late <;> rfl

@[simp] theorem flipEpoch_plan : (flipEpoch late w c).plan = c.plan := by
  unfold flipEpoch; split <;> cases late <;> rfl

@[simp] theorem flipEpoch_tiles : (flipEpoch late w c).tiles = c.tiles := by
  unfold flipEpoch; split <;> cases late <;> rfl

@[simp] theorem flipEpoch_mem : (flipEpoch late w c).mem = c.mem := by
  unfold flipEpoch; split <;> cases late <;> rfl

end

section
variable (copy : SMap Nat) (w : When) (c : Chip)

/-- A commit in its parts. -/
theorem applyShadows_eq : applyShadows copy w c =
    noticeDigest c (addReg (flipEpoch (smGet 0 copy 0 == 1) w (shadowsTaken copy c)) (key 0x2000 5) 1) := rfl

@[simp] theorem applyShadows_log : (applyShadows copy w c).err.log = c.err.log := by simp [applyShadows_eq]

@[simp] theorem applyShadows_plan : (applyShadows copy w c).plan = c.plan := by simp [applyShadows_eq]

@[simp] theorem applyShadows_tiles : (applyShadows copy w c).tiles = c.tiles := by simp [applyShadows_eq]

@[simp] theorem applyShadows_mem : (applyShadows copy w c).mem = c.mem := by simp [applyShadows_eq]

/-- After a commit a staged entry holds its shadow and every other entry what it held, but for the commit's count and the
entries of the epoch. -/
theorem reg_applyShadows {k : Nat} (hcount : k ≠ key 0x2000 5) (hepoch : k ≠ key 0x5301 1) (hask : k ≠ key 0x5301 2) :
    reg (applyShadows copy w c) k = if k ∈ stagedKeys then smGet (reg c k) copy k else reg c k := by
  rw [applyShadows_eq, noticeDigest_reg, reg_addReg_ne _ _ hcount, reg_flipEpoch _ _ _ hepoch hask, reg_shadowsTaken]

/-- A commit is counted. -/
theorem reg_applyShadows_count : reg (applyShadows copy w c) (key 0x2000 5) = m64 (reg c (key 0x2000 5) + 1) := by
  rw [applyShadows_eq, noticeDigest_reg, reg_addReg_same, reg_flipEpoch _ _ _ (by decide) (by decide), reg_shadowsTaken,
    if_neg (by decide)]

/-- The flip request that a commit finds. -/
theorem reg_shadowsTaken_ask :
    reg (shadowsTaken copy c) (key 0x5301 2) = smGet (reg c (key 0x5301 2)) copy (key 0x5301 2) := by
  rw [reg_shadowsTaken, if_pos (by decide)]

/-- The epoch that a commit finds. -/
theorem reg_shadowsTaken_epoch : reg (shadowsTaken copy c) (key 0x5301 1) = reg c (key 0x5301 1) := by
  rw [reg_shadowsTaken, if_neg (by decide)]

end

/-- A commit whose shadows ask for a flip changes the epoch and reports it (12 R389). -/
theorem applyShadows_flip {copy : SMap Nat} (w : When) {c : Chip}
    (h : smGet (reg c (key 0x5301 2)) copy (key 0x5301 2) = 1) :
    reg (applyShadows copy w c) (key 0x5301 1) = 1 - reg c (key 0x5301 1) ∧
      reg (applyShadows copy w c) (key 0x5301 2) = 0 ∧
      noted c (applyShadows copy w c) 0x0503 .modl [1 - reg c (key 0x5301 1)] := by
  obtain ⟨hepoch, hask, o, hpend, ho⟩ := flipEpoch_asked (smGet 0 copy 0 == 1) w ((reg_shadowsTaken_ask copy c).trans h)
  rw [reg_shadowsTaken_epoch] at hepoch ho
  rw [shadowsTaken_err] at hpend
  refine ⟨?_, ?_, o, ?_, ho⟩
  · rw [applyShadows_eq, noticeDigest_reg, reg_addReg_ne _ _ (by decide), hepoch]
  · rw [applyShadows_eq, noticeDigest_reg, reg_addReg_ne _ _ (by decide), hask]
  · rw [applyShadows_eq, noticeDigest_err, addReg_err, hpend]

/-- A commit whose shadows ask for none leaves epoch and log. -/
theorem applyShadows_stay {copy : SMap Nat} (w : When) {c : Chip}
    (h : smGet (reg c (key 0x5301 2)) copy (key 0x5301 2) ≠ 1) :
    reg (applyShadows copy w c) (key 0x5301 1) = reg c (key 0x5301 1) ∧ (applyShadows copy w c).err = c.err := by
  rw [← reg_shadowsTaken_ask] at h
  rw [applyShadows_eq, flipEpoch_unasked _ w h]
  constructor
  · rw [noticeDigest_reg, reg_addReg_ne _ _ (by decide), reg_shadowsTaken_epoch]
  · rw [noticeDigest_err, addReg_err, shadowsTaken_err]

/-! ## The commands of 2000h and 2010h:03 -/

/-- What a write of an entry of 2000h does. -/
theorem applyWrite_commit (f : Fuses) (c : Chip) (e : Ent) (sub : Nat) (b : List Byte) :
    applyWrite f c e 0x2000 sub b = writeCommit c sub (leNat b) := rfl

/-- What a write of 2010h:03 does. -/
theorem applyWrite_halt (f : Fuses) (c : Chip) (e : Ent) (b : List Byte) :
    applyWrite f c e 0x2010 3 b = storeValue c e 0x2010 3 (leNat b) := rfl

/-- The row of 2000h:01. -/
def commitRow : Ent := ⟨0x2000, 0x2000, 1, 1, .u64, .wo, .immediate, 0, false, false⟩

/-- The row of 2000h:04. -/
def discardRow : Ent := ⟨0x2000, 0x2000, 4, 4, .u8, .wo, .immediate, 0, false, false⟩

/-- The row of 2010h:03. -/
def haltRow : Ent := ⟨0x2010, 0x2010, 3, 3, .u64, .rw, .immediate, 0xFFFFFFFFFFFFFFFF, false, false⟩

theorem entOf_commit : entOf 0x2000 1 = some commitRow := by decide
theorem entOf_discard : entOf 0x2000 4 = some discardRow := by decide
theorem entOf_halt : entOf 0x2010 3 = some haltRow := by decide

/-- A value that fits its type and range is one the entry defines where the entry asks for no multiple and no shape. -/
theorem valueOk_plain {f : Fuses} {e : Ent} {i sub v : Nat} (htype : typeOk e v = true) (hrange : inValueRange i sub v = true)
    (hmult : multipleOf i sub = 1) (hshape : shapeOk f i sub v = true) : valueOk f e i sub v = true := by
  simp [valueOk, htype, hrange, hmult, hshape, Nat.mod_one]

/-- An entry without a range takes every value. -/
theorem inValueRange_unbounded {i sub : Nat} (h : rangeOf i sub = none) (v : Nat) : inValueRange i sub v = true := by
  simp [inValueRange, h]

/-- A write of 2000h:01 is refused for the plan's state alone (15 R454). -/
theorem writeCode_commit {f : Fuses} {c : Chip} {v : Nat} (hfit : v < 256 ^ 8) (hcode : commitCode c v = 0) :
    writeCode f c 0x2000 1 (leBytes 8 v) = 0 := by
  have hrange : rangeOf 0x2000 1 = none := by decide
  have hvalue : valueOk f commitRow 0x2000 1 v = true := valueOk_plain rfl (inValueRange_unbounded hrange v) rfl rfl
  exact writeCode_scalar entOf_commit hfit rfl (by decide) (by decide) (by decide) rfl hcode hvalue rfl

/-- A write of 2000h:01 that names a step, or cancels, sets the scheduled step. -/
theorem writeCommit_answers {s : State} (h : Serves s) {v : Nat} (hfit : v < 256 ^ 8) (hcode : commitCode s.chip v = 0)
    (honce : v ≠ atOnce64) : ∃ t, writeRow s 0x2000 1 8 v = .next t ∧ EntrySet s (key 0x2000 2) v t := by
  have happly : applyWrite s.fuses s.chip commitRow 0x2000 1 (leBytes 8 v) = setReg s.chip (key 0x2000 2) v := by
    rw [applyWrite_commit, leNat_leBytes_of_lt hfit, writeCommit, if_neg (by decide), if_neg honce]
  refine ⟨_, writeRow_accepted h entOf_commit (writeCode_commit hfit hcode), ?_⟩
  rw [happly]
  exact entrySet_setReg h.toQuiet (by decide)

/-- The chip after a commit at once, the request counted. -/
def committedNow (c : Chip) : Chip := addReg (commitAtOnce c) (key 0x2002 1) 1

/-- But for the count of requests and the scheduled step it is the commit of the shadows. -/
theorem reg_committedNow (c : Chip) {k : Nat} (hserved : k ≠ key 0x2002 1) (hstep : k ≠ key 0x2000 2) :
    reg (committedNow c) k = reg (applyShadows c.shadow .apart { c with commitCopy := none }) k := by
  rw [committedNow, reg_addReg_ne _ _ hserved, commitAtOnce, reg_setReg_ne _ _ hstep]

theorem committedNow_err (c : Chip) :
    (committedNow c).err = (applyShadows c.shadow .apart { c with commitCopy := none }).err := rfl

/-- A staged entry that is no flip request holds its shadow. -/
theorem reg_committedNow_staged (c : Chip) {k : Nat} (hstaged : k ∈ stagedKeys) (hask : k ≠ key 0x5301 2) :
    reg (committedNow c) k = shadowOf c k := by
  have hout : ∀ j, j ∉ stagedKeys → k ≠ j := fun j hj hkj => hj (hkj ▸ hstaged)
  rw [reg_committedNow c (hout _ (by decide)) (hout _ (by decide)),
    reg_applyShadows _ _ _ (hout _ (by decide)) (hout _ (by decide)) hask, if_pos hstaged]
  rfl

/-- COMMIT_NOW of a module at rest (15 R454). -/
theorem commitNow_chip {s : State} (h : Serves s) (hrest : runs s.chip = false) :
    exec .commitNow s = .next { s with chip := flush (committedNow s.chip) } := by
  have hfit : atOnce64 < 256 ^ 8 := by decide
  have hcode : commitCode s.chip atOnce64 = 0 := by
    rw [commitCode, if_neg (by rw [hrest]; exact Bool.false_ne_true), if_pos rfl]
  have happly : applyWrite s.fuses s.chip commitRow 0x2000 1 (leBytes 8 atOnce64) = commitAtOnce s.chip := by
    rw [applyWrite_commit, leNat_leBytes_of_lt hfit, writeCommit, if_neg (by decide), if_pos rfl]
  have hrow := writeRow_accepted h entOf_commit (writeCode_commit (f := s.fuses) hfit hcode)
  rw [happly] at hrow
  exact hrow

/-- What a commit at once does to the entries of the commit and the staged ones. -/
theorem committedNow_entries (c : Chip) :
    reg (committedNow c) (key 0x2002 1) = (reg c (key 0x2002 1) + 1) % 2 ^ 64 ∧
      reg (committedNow c) (key 0x2000 2) = 2 ^ 64 - 1 ∧
      reg (committedNow c) (key 0x2000 5) = (reg c (key 0x2000 5) + 1) % 2 ^ 64 := by
  refine ⟨?_, ?_, ?_⟩
  · rw [committedNow, reg_addReg_same, commitAtOnce, reg_setReg_ne _ _ (by decide),
      reg_applyShadows _ _ _ (by decide) (by decide) (by decide), if_neg (by decide)]
    rfl
  · rw [committedNow, reg_addReg_ne _ _ (by decide), commitAtOnce, reg_setReg_same]
    rfl
  · rw [reg_committedNow c (by decide) (by decide), reg_applyShadows_count]
    rfl

/-- The class counter of a flip's report is as it was before the report is taken. -/
theorem reg_committedNow_class (c : Chip) : reg (committedNow c) (key 0x9002 1) = reg c (key 0x9002 1) := by
  rw [reg_committedNow c (by decide) (by decide), reg_applyShadows _ _ _ (by decide) (by decide) (by decide),
    if_neg (by decide)]
  rfl

/-- A flip asked for by a shadow takes effect in a commit at once, and is reported. -/
theorem commitNow_flip {s : State} (h : Quiet s) (hflip : shadowOf s.chip (key 0x5301 2) = 1) :
    reg (flush (committedNow s.chip)) (key 0x5301 1) = 1 - reg s.chip (key 0x5301 1) ∧
      reg (flush (committedNow s.chip)) (key 0x5301 2) = 0 ∧
      Reported s { s with chip := flush (committedNow s.chip) } 0x0503 .modl := by
  obtain ⟨hepoch, hask, hnoted⟩ :=
    applyShadows_flip (copy := s.chip.shadow) .apart (c := { s.chip with commitCopy := none }) hflip
  refine ⟨?_, ?_, reported_of_noted h.none hnoted ?_ (reg_committedNow_class s.chip)⟩
  · rw [flush_reg _ (by decide), reg_committedNow _ (by decide) (by decide), hepoch]; rfl
  · rw [flush_reg _ (by decide), reg_committedNow _ (by decide) (by decide), hask]
  · rw [committedNow_err, applyShadows_log]

/-- Without one the epoch and the log stay. -/
theorem commitNow_stay {s : State} (h : Quiet s) (hstay : shadowOf s.chip (key 0x5301 2) ≠ 1) :
    reg (flush (committedNow s.chip)) (key 0x5301 1) = reg s.chip (key 0x5301 1) ∧
      (flush (committedNow s.chip)).err = s.chip.err := by
  obtain ⟨hepoch, herr⟩ :=
    applyShadows_stay (copy := s.chip.shadow) .apart (c := { s.chip with commitCopy := none }) hstay
  have hpend : (committedNow s.chip).err.pend = [] := by rw [committedNow_err, herr]; exact h.none
  rw [flush_none hpend]
  refine ⟨?_, ?_⟩
  · rw [reg_committedNow _ (by decide) (by decide), hepoch]; rfl
  · rw [committedNow_err, herr]

/-- The staged entries lie outside what the log writes. -/
theorem stagedKeys_outside_log : ∀ k ∈ stagedKeys, k < 0x900000 ∨ 0x901100 ≤ k := by decide

/-- Dropped shadows read as the values in force. -/
theorem smGet_foldl_shadows (c : Chip) (l : List Nat) (m : SMap Nat) (k d : Nat) :
    smGet d (l.foldl (fun m k => smInsert m k (reg c k)) m) k = if k ∈ l then reg c k else smGet d m k := by
  induction l generalizing m with
  | nil => rfl
  | cons a t ih =>
    rw [List.foldl_cons, ih]
    by_cases hk : k = a
    · subst hk; simp
    · simp [hk, smGet_smInsert_ne d m _ hk]

/-- DISCARD_SHADOWS (15 R451). -/
theorem discardShadows_answers {s : State} (h : Serves s) : Answers (.discardShadows 1) s (fun t =>
    served s t ∧ Keeps s t [key 0x2002 1] ∧ (∀ k ∈ stagedKeys, shadowOf t.chip k = reg s.chip k) ∧
      t = { s with chip := { s.chip with regs := t.chip.regs, shadow := t.chip.shadow } }) := by
  have hvalue : valueOk s.fuses discardRow 0x2000 4 1 = true := valueOk_plain rfl (by decide) rfl rfl
  have hcode : writeCode s.fuses s.chip 0x2000 4 (leBytes 1 1) = 0 :=
    writeCode_scalar entOf_discard (by decide) rfl (by decide) (by decide) (by decide) rfl rfl hvalue rfl
  have happly : applyWrite s.fuses s.chip discardRow 0x2000 4 (leBytes 1 1) = dropShadows s.chip := rfl
  have hreg : ∀ k, reg (dropShadows s.chip) k = reg s.chip k := reg_of_regs rfl
  have hflush : flush (addReg (dropShadows s.chip) (key 0x2002 1) 1) = addReg (dropShadows s.chip) (key 0x2002 1) 1 :=
    flush_none h.none
  have hrow := writeRow_accepted h entOf_discard hcode
  rw [happly, hflush] at hrow
  refine ⟨_, hrow, ?_, ?_, ?_, ?_⟩
  · rw [Claims.served, reg_addReg_same, hreg]
    rfl
  · intro k hk
    rw [reg_addReg_ne _ _ (by simpa using hk), hreg]
  · intro k hk
    rw [shadowOf, addReg_shadow, dropShadows, smGet_foldl_shadows, if_pos hk]
  · rw [dropShadows]
    rfl

/-- HALT_AT_STEP of a step not yet begun, or of none (01 R29). -/
theorem haltAtStep_answers {s : State} (h : Serves s) {v : Nat} (hfit : v < 256 ^ 8) (hcode : haltCode s.chip v = 0) :
    ∃ t, writeRow s 0x2010 3 8 v = .next t ∧ EntrySet s (key 0x2010 3) v t := by
  have hrange : rangeOf 0x2010 3 = none := by decide
  have hvalue : valueOk s.fuses haltRow 0x2010 3 v = true := valueOk_plain rfl (inValueRange_unbounded hrange v) rfl rfl
  have happly : applyWrite s.fuses s.chip haltRow 0x2010 3 (leBytes 8 v) = setReg s.chip (key 0x2010 3) v := by
    rw [applyWrite_halt, leNat_leBytes_of_lt hfit]
    rfl
  have hrow := writeRow_accepted h entOf_halt
    (writeCode_scalar entOf_halt hfit rfl (by decide) (by decide) (by decide) rfl hcode hvalue rfl)
  rw [happly] at hrow
  exact ⟨_, hrow, entrySet_setReg h.toQuiet (by decide)⟩

/-- A halt is accepted for no step, or for one not yet begun. -/
theorem haltCode_accepts {c : Chip} {v : Nat} (h : v = 2 ^ 64 - 1 ∨ ¬(c.plan.state = .running ∨ c.plan.state = .halted ∨
    (c.plan.state = .armed ∧ c.plan.fromHalted = true)) ∨ c.plan.step < v) : haltCode c v = 0 := by
  refine if_neg ?_
  rintro ⟨hnone, hbegun, hle⟩
  simp only [Bool.or_eq_true, Bool.and_eq_true, beq_iff_eq, or_assoc] at hbegun
  rcases h with h | h | h
  · exact hnone h
  · exact h hbegun
  · exact absurd hle (Nat.not_le.mpr h)

/-! ## The obligation -/

/-- Settles O34: each command is a write of one entry that no check refuses, and a commit puts the shadows in force entry by
entry before a requested flip. -/
theorem commitsAndHalt : Obligations.CommitsAndHalt := by
  intro s n h
  have hfit : n.toNat < 256 ^ 8 := n.isLt
  refine ⟨?_, ?_, ?_, discardShadows_answers h, ?_⟩
  · intro hruns hlt hpassed
    have hcode : commitCode s.chip n.toNat = 0 := by
      rw [commitCode, if_pos hruns, if_neg (show n.toNat ≠ ones64 by unfold ones64; omega),
        if_neg (show n.toNat ≠ atOnce64 by unfold atOnce64; omega), hpassed, if_neg Bool.false_ne_true]
    exact writeCommit_answers h hfit hcode (by unfold atOnce64; omega)
  · intro hruns
    have hcode : commitCode s.chip ones64 = 0 := by rw [commitCode, if_pos hruns, if_pos rfl]
    exact writeCommit_answers h (by decide) hcode (by decide)
  · intro hrest
    obtain ⟨hserved, hstep, hcount⟩ := committedNow_entries s.chip
    refine ⟨_, commitNow_chip h hrest, ?_, ?_, ?_, ?_, ?_, ?_, ?_, ?_, ?_⟩
    · exact (flush_reg _ (by decide)).trans hserved
    · exact (flush_reg _ (by decide)).trans hstep
    · exact (flush_reg _ (by decide)).trans hcount
    · intro k hk hask
      exact (flush_reg _ (stagedKeys_outside_log k hk)).trans (reg_committedNow_staged s.chip hk hask)
    · exact commitNow_flip h.toQuiet
    · exact commitNow_stay h.toQuiet
    · rw [flush_plan]; exact applyShadows_plan ..
    · rw [flush_tiles]; exact applyShadows_tiles ..
    · rw [flush_mem]; exact applyShadows_mem ..
  · intro hstep
    exact haltAtStep_answers h hfit (haltCode_accepts hstep)

end Sys2Proof.Proofs
end

section
/-! PROOFS. A cut-off whose plan fault finds no room in the log (14 R434 R437 R438). -/

namespace Sys2Proof.Proofs

open Sys2Proof Sys2Proof.Machine Sys2Proof.Claims

/-- A record that was never removed from the log. -/
def staleRecord : Rec :=
  { seq := 0, cls := 5, flags := 0, code := 0x0803, loc := 0, nest := 0, step := 0, cycle := 0, rep := 1, count := 0,
    detail := [] }

/-- A step of 613,566,884 tick pairs one tick past its cut-off, in plan cycle FFFFFFFFh, with no variant record accepted; intake
is on, recording is on while host writes are blocked, and the log has one free place. -/
def lateCutOff : State :=
  { State.reset with chip := { Chip.reset with
    count := 1227133513
    regs := [(key 0x2010 4, 613566884), (key 0x6000 1, 1), (key 0x6000 12, 0), (key 0xB010 1, 1)]
    err := { Err.reset with log := List.replicate 127 staleRecord }
    plan := { Plan.reset with state := .running } } }

/-- Of the two occurrences of this cut-off, 0601h in its cycle and 0703h at the boundary, only the second reaches the log: it
sorts first and takes the last place. -/
theorem lateCutOff_codes :
    (flush (fCutOff lateCutOff.chip)).err.log.map (·.code) = List.replicate 127 0x0803 ++ [0x0703] := by decide +kernel

/-- The plan fault of the missing variant record is in no record of the log, and the log was not full. -/
theorem lateCutOff_unreported :
    ¬Reported lateCutOff { lateCutOff with chip := flush (fCutOff lateCutOff.chip) } 0x0601 (.die 0) := by
  rintro ⟨-, ⟨r, hr, hcode, -⟩ | hfull⟩
  · dsimp only at hr
    have hmem := List.mem_map_of_mem (f := (·.code)) hr
    rw [lateCutOff_codes, hcode] at hmem
    simp at hmem
  · have hroom : lateCutOff.chip.err.log.length = 127 := List.length_replicate
    omega

/-- The cut-off of that step does not report its plan fault as `CutOffLatches` says. -/
theorem not_cutOffLatches : ¬CutOffLatches := by
  intro h
  obtain ⟨t, hexec, hafter⟩ := h lateCutOff ⟨rfl, rfl, rfl⟩ rfl rfl rfl (by decide)
  obtain ⟨-, -, -, -, -, -, -, hreport, -⟩ := hafter
  have hstep : exec .stepCutOff lateCutOff = .next { lateCutOff with chip := flush (fCutOff lateCutOff.chip) } :=
    Laws.onRunning_running (s := lateCutOff) fCutOff rfl
  rw [hstep] at hexec
  injection hexec with ht
  subst ht
  exact lateCutOff_unreported (hreport rfl (by decide)).2

/-- Refutes O59, in its part `CutOffLatches`: a plan fault detected in a plan cycle that is FFFFFFFFh modulo 2^32 sorts behind
what is detected at a boundary (FFFFFFFEh) at the same count, so that with one free place in the log the lost recording takes it
and the fault of the missing variant record is itself lost, though the log was not full. -/
theorem not_stepEnds : ¬Obligations.StepEnds := by
  intro h
  exact not_cutOffLatches h.1

end Sys2Proof.Proofs
end

section
/-! PROOFS. Execute instructions that change each issuing tile by itself, where no error strikes (05 R120 R124). -/

namespace Sys2Proof.Proofs

open Sys2Proof Sys2Proof.Machine Sys2Proof.Claims Sys2Proof.Laws

/-! ## No error strikes -/

theorem flawsOf_sound {c : Chip} (h : c.flaws = []) (p : Spot → Bool) : flawsOf c p = [] := by
  simp [flawsOf, h]

theorem accCheck_sound {c : Chip} (h : c.flaws = []) (site e lo hi : Nat) : accCheck c site e lo hi = c := by
  rw [accCheck, flawsOf_sound h, List.foldl_nil]

/-! ## The tiles that issue, one after the other -/

/-- An effect that changes each tile of a list by itself, as the tile stood before, does so in all of them. -/
theorem foldl_modTile {f : Chip → Nat → Chip} {h : Tile → Tile} (l : List Nat) (hl : l.Nodup) (c : Chip)
    (H : ∀ T, ∀ site ∈ l, tileAt { c with tiles := T } site = tileAt c site →
      f { c with tiles := T } site = modTile { c with tiles := T } site h) :
    ∃ T, l.foldl f c = { c with tiles := T } ∧
      ∀ y, tileAt { c with tiles := T } y = if y ∈ l then h (tileAt c y) else tileAt c y := by
  induction l generalizing c with
  | nil => exact ⟨c.tiles, rfl, fun y => (if_neg List.not_mem_nil).symm⟩
  | cons site rest ih =>
    obtain ⟨hsite, hrest⟩ := List.nodup_cons.mp hl
    have hfirst : f c site = modTile c site h := H c.tiles site (List.mem_cons_self ..) rfl
    obtain ⟨T, hT, htiles⟩ := ih hrest (modTile c site h) (fun T y hy hkept =>
      H T y (List.mem_cons_of_mem _ hy) (hkept.trans (tileAt_modTile_ne c h (by rintro rfl; exact hsite hy))))
    refine ⟨T, ?_, fun y => ?_⟩
    · rw [List.foldl_cons, hfirst, hT]
      rfl
    · rw [show tileAt { c with tiles := T } y = _ from htiles y]
      by_cases hy : y = site
      · subst hy
        simp [hsite]
      · simp [hy, tileAt_modTile_ne c h hy]

/-- What an execute instruction that issues does: after the sequencer's note it reaches each tile that issues. -/
theorem issueX_now {s : State} {i : Issue} {x : Instr} (h : Issues s i true x) :
    issueX s i x = .next { s with
      chip := flush ((issueSites s.chip i).foldl (arrive x) (noteIssue s.chip i true x)) } :=
  issueWith_now _ h.wf h.quiet.runs h.may h.now h.due h.inStep h.quiet.sound

/-- An execute instruction that changes each issuing tile by itself leaves the rest of the state, but for the note of the
sequencer. -/
theorem issueX_modTile {s : State} {i : Issue} {x : Instr} (h : Issues s i true x) {m : Tile → Tile}
    (H : ∀ c : Chip, c.flaws = [] → c.err = s.chip.err → c.regs = s.chip.regs → c.plan = s.chip.plan →
      ∀ site ∈ issueSites s.chip i, tileAt c site = tileAt s.chip site → arrive x c site = modTile c site m) :
    ∃ T, issueX s i x = .next { s with chip := { noteIssue s.chip i true x with tiles := T } } ∧
      ∀ y, tileAt { noteIssue s.chip i true x with tiles := T } y =
        if y ∈ issueSites s.chip i then m (tileAt s.chip y) else tileAt s.chip y := by
  obtain ⟨T, hT, htiles⟩ := foldl_modTile (f := arrive x) (h := m) (issueSites s.chip i) (issueSites_nodup _ _)
    (noteIssue s.chip i true x) (fun T => H { noteIssue s.chip i true x with tiles := T } h.quiet.sound rfl rfl rfl)
  refine ⟨T, ?_, htiles⟩
  rw [issueX_now h, hT, flush_none]
  exact h.quiet.none

/-- Only the issuing tiles change. -/
theorem onlyTiles_of_tiles {s : State} {i : Issue} {x : Instr} {T : SMap Tile} {m : Tile → Tile}
    (htiles : ∀ y, tileAt { noteIssue s.chip i true x with tiles := T } y =
      if y ∈ issueSites s.chip i then m (tileAt s.chip y) else tileAt s.chip y) :
    OnlyTiles s { s with chip := { noteIssue s.chip i true x with tiles := T } } i true x :=
  ⟨rfl, fun y hy => (htiles y).trans (if_neg hy)⟩

theorem eventsGain_none (n : Nat) (s : State) (i : Issue) (g : Gov) : EventsGain n n s i g noEvent := by
  intro b
  simp [noEvent]

/-- An execute instruction without events completes where it makes of each tile what `P` says, no error striking. -/
theorem completes_of_modTile {x : Instr} {i : Issue} {g : Gov} {P : State → Tile → Tile → Prop}
    (m : Nat → Tile → Tile) (hexec : ∀ s, exec x s = issueX s i x)
    (hstep : ∀ (c : Chip) (site : Nat), c.flaws = [] → tileExec x c site = modTile c site (m c.plan.cyc))
    (hP : ∀ (s : State) (t : Tile), t.lag = 0 → P s t (m s.chip.plan.cyc t)) :
    Completes x i g noEvent noEvent P := by
  intro s hissues hready _
  obtain ⟨T, hnext, htiles⟩ := issueX_modTile hissues (m := m s.chip.plan.cyc) (by
    intro c hsound herr hregs hplan site hsite hkept
    obtain ⟨hlag, hthawed⟩ := hready site hsite
    have hthawed' : frozen c (tileAt c site) = false := by
      rw [← hthawed, hkept]
      simp [frozen, elastic, reg, starvedOf, arrNeeds, arrClock, hregs, hplan]
    rw [arrive_ready (hkept ▸ hlag) hthawed', tileIssue_calm hsound, hstep c site hsound, hplan]
    · rw [hstep c site hsound]; exact hsound
    · rw [hstep c site hsound, modTile_err, herr]; exact hissues.calm)
  refine ⟨_, (hexec s).trans hnext, onlyTiles_of_tiles htiles, fun site hsite => ?_, eventsGain_none _ _ _ _,
    eventsGain_none _ _ _ _⟩
  rw [show tileAt { noteIssue s.chip i true x with tiles := T } site = _ from (htiles site).trans (if_pos hsite)]
  exact hP s _ (hready site hsite).current

end Sys2Proof.Proofs
end

section
/-! PROOFS. The accumulator as its reads find it while vectors and clears are on their way to it (03 R78 to R80 R89). -/

namespace Sys2Proof.Proofs

open Sys2Proof Sys2Proof.Machine Sys2Proof.Claims Sys2Proof.Laws

/-! ## The last change of a column -/

/-- A column is changed before an instant. -/
def changesBefore (e col at' : Nat) (op : AccOp) : Bool :=
  (opWrites op e col).any (fun w => decide (w < at'))

theorem changesBefore_iff {e col at' : Nat} {op : AccOp} :
    changesBefore e col at' op = true ↔ ∃ w, opWrites op e col = some w ∧ w < at' := by
  unfold changesBefore
  cases opWrites op e col <;> simp

theorem changesBefore_mono {e col at₁ at₂ : Nat} (h : at₁ ≤ at₂) {op : AccOp} (hop : changesBefore e col at₁ op = true) :
    changesBefore e col at₂ op = true := by
  obtain ⟨w, hw, hlt⟩ := changesBefore_iff.mp hop
  exact changesBefore_iff.mpr ⟨w, hw, by omega⟩

/-- An op that concerns another entry changes no column of this one. -/
theorem opWrites_other {op : AccOp} {e : Nat} (h : opEntry op ≠ e) (col : Nat) : opWrites op e col = none := by
  cases op <;> simp_all [opWrites, opEntry]

theorem opPoisons_other {op : AccOp} {e : Nat} (h : opEntry op ≠ e) (col : Nat) : opPoisons op e col = none := by
  cases op <;> simp_all [opPoisons, opEntry]

/-- What clears the poison of a column changes the column. -/
theorem opCleans_opWrites {op : AccOp} {e col w : Nat} (h : opCleans op e col = some w) : opWrites op e col = some w := by
  cases op with
  | vec _ _ _ fresh _ _ _ _ => cases fresh <;> simp_all [opCleans]
  | clear _ _ _ => exact h
  | flip _ _ _ _ => cases h

theorem opCleans_none {op : AccOp} {e col : Nat} (h : opWrites op e col = none) : opCleans op e col = none := by
  cases hc : opCleans op e col with
  | none => rfl
  | some w => rw [opCleans_opWrites hc] at h; cases h

/-- One step of the search for the last change. -/
def laterChange (e col at' : Nat) (best : Option (Nat × AccOp)) (op : AccOp) : Option (Nat × AccOp) :=
  match opWrites op e col with
  | some w => if w < at' then laterOp best w op else best
  | none => best

theorem lastWrite_eq (ops : List AccOp) (e col at' : Nat) :
    lastWrite ops e col at' = (ops.foldl (laterChange e col at') none).map (·.2) := rfl

theorem laterChange_unchanged {e col at' : Nat} {op : AccOp} (h : changesBefore e col at' op = false)
    (best : Option (Nat × AccOp)) : laterChange e col at' best op = best := by
  unfold laterChange
  cases hw : opWrites op e col with
  | none => rfl
  | some w =>
    have : ¬w < at' := by simpa [changesBefore, hw] using h
    simp [this]

theorem laterChange_hit {e col at' w : Nat} {op : AccOp} (hw : opWrites op e col = some w) (hlt : w < at')
    (best : Option (Nat × AccOp)) : laterChange e col at' best op = laterOp best w op := by
  simp [laterChange, hw, hlt]

/-- What the search holds is an op of the list that changes the column before the instant. -/
theorem laterChange_found {e col at' : Nat} {op x : AccOp} {best : Option (Nat × AccOp)} {w : Nat}
    (h : laterChange e col at' best op = some (w, x)) :
    best = some (w, x) ∨ x = op ∧ opWrites op e col = some w ∧ w < at' := by
  unfold laterChange at h
  cases hw : opWrites op e col with
  | none => rw [hw] at h; exact .inl h
  | some v =>
    rw [hw] at h
    dsimp only at h
    split at h
    · next hlt =>
      unfold laterOp at h
      split at h
      · cases h; exact .inr ⟨rfl, rfl, hlt⟩
      · split at h
        · cases h; exact .inr ⟨rfl, rfl, hlt⟩
        · exact .inl h
    · exact .inl h

theorem foldl_laterChange_found {e col at' : Nat} {x : AccOp} {w : Nat} (ops : List AccOp)
    (best : Option (Nat × AccOp)) (h : ops.foldl (laterChange e col at') best = some (w, x)) :
    best = some (w, x) ∨ x ∈ ops ∧ opWrites x e col = some w ∧ w < at' := by
  induction ops generalizing best with
  | nil => exact .inl h
  | cons op rest ih =>
    rcases ih _ h with hfirst | ⟨hmem, hw⟩
    · rcases laterChange_found hfirst with hbest | ⟨rfl, hw⟩
      · exact .inl hbest
      · exact .inr ⟨List.mem_cons_self .., hw⟩
    · exact .inr ⟨List.mem_cons_of_mem _ hmem, hw⟩

/-- The last change is an op on its way that changes the column before the instant. -/
theorem lastWrite_some {ops : List AccOp} {e col at' : Nat} {x : AccOp} (h : lastWrite ops e col at' = some x) :
    x ∈ ops ∧ ∃ w, opWrites x e col = some w ∧ w < at' := by
  obtain ⟨⟨w, y⟩, hfold, rfl⟩ := Option.map_eq_some_iff.mp (lastWrite_eq ops e col at' ▸ h)
  rcases foldl_laterChange_found ops none hfold with hnone | ⟨hmem, hw⟩
  · cases hnone
  · exact ⟨hmem, w, hw⟩

/-- Where nothing changes a column before an instant there is no last change. -/
theorem lastWrite_none {ops : List AccOp} {e col at' : Nat} (h : ∀ op ∈ ops, changesBefore e col at' op = false) :
    lastWrite ops e col at' = none := by
  cases hl : lastWrite ops e col at' with
  | none => rfl
  | some x =>
    obtain ⟨hmem, hw⟩ := lastWrite_some hl
    have hw := changesBefore_iff.mpr hw
    rw [h x hmem] at hw
    cases hw

/-- Of two instants before which the same ops change a column the last change is the same. -/
theorem lastWrite_congr {ops : List AccOp} {e col at₁ at₂ : Nat}
    (h : ∀ op ∈ ops, ∀ w, opWrites op e col = some w → (w < at₁ ↔ w < at₂)) :
    lastWrite ops e col at₁ = lastWrite ops e col at₂ := by
  rw [lastWrite_eq, lastWrite_eq]
  congr 1
  refine List.foldl_ext _ _ _ (fun best op hop => ?_)
  unfold laterChange
  cases hw : opWrites op e col with
  | none => rfl
  | some w => simp [h op hop w hw]

/-- An op that does not change a column before an instant may be left out. -/
theorem lastWrite_append_unchanged {ops : List AccOp} {e col at' : Nat} {op : AccOp}
    (h : changesBefore e col at' op = false) : lastWrite (ops ++ [op]) e col at' = lastWrite ops e col at' := by
  rw [lastWrite_eq, lastWrite_eq, List.foldl_append, List.foldl_cons, List.foldl_nil, laterChange_unchanged h]

/-- An op later than all others is the last change. -/
theorem lastWrite_append_last {ops : List AccOp} {e col at' : Nat} {op : AccOp} {w : Nat}
    (hw : opWrites op e col = some w) (hlt : w < at')
    (hlater : ∀ x ∈ ops, ∀ v, opWrites x e col = some v → v < w) :
    lastWrite (ops ++ [op]) e col at' = some op := by
  rw [lastWrite_eq, List.foldl_append, List.foldl_cons, List.foldl_nil]
  rw [laterChange_hit hw hlt]
  cases hb : ops.foldl (laterChange e col at') none with
  | none => rfl
  | some b =>
    obtain ⟨v, x⟩ := b
    rcases foldl_laterChange_found ops none hb with hnone | ⟨hmem, hv, -⟩
    · cases hnone
    · simp [laterOp, hlater x hmem v hv]

/-! ## The value of a column -/

theorem accSeen_succ (a : Arr) (e col fuel at' : Nat) : accSeen a e col (fuel + 1) at' =
    match lastWrite a.ops e col at' with
    | none => (accAt a e col, nsMem a.accPoison (8 * e + col / 16))
    | some (.clear ..) => (negZero, false)
    | some (.flip t _ _ mask) => ((accSeen a e col fuel (2 * t + 1)).1 ^^^ BitVec.ofNat 32 mask, true)
    | some (.vec t _ wide fresh ie sums bad ups) =>
      let old := if fresh then (negZero, false) else accSeen a e col fuel (2 * vecReads t wide col)
      (match sums with
        | some s => vecColumn ie ups col old.1 (s.getD col [])
        | none => old.1, old.2 || bad.contains (col / 16)) := by
  rfl

/-- A column that nothing on its way has changed reads as the file holds it. -/
theorem accSeen_file {a : Arr} {e col at' : Nat} (h : ∀ op ∈ a.ops, changesBefore e col at' op = false) (fuel : Nat) :
    accSeen a e col fuel at' = (accAt a e col, nsMem a.accPoison (8 * e + col / 16)) := by
  cases fuel with
  | zero => rfl
  | succ fuel => rw [accSeen_succ, lastWrite_none h]

theorem vecReads_lt_vecWrites (t : Nat) (wide : Bool) (col : Nat) : vecReads t wide col < vecWrites t wide col := by
  cases wide <;> simp [vecReads, vecWrites]

theorem opWrites_vec {t e' : Nat} {wide fresh ie : Bool} {sums : Option (List (List Word))} {bad : List Nat}
    {ups : List AddUpset} {e col w : Nat} (h : opWrites (.vec t e' wide fresh ie sums bad ups) e col = some w) :
    w = 2 * vecWrites t wide col := by
  simp only [opWrites] at h
  split at h
  · exact (Option.some.inj h).symm
  · cases h

theorem opWrites_flip {t e' k mask e col w : Nat} (h : opWrites (.flip t e' k mask) e col = some w) : w = 2 * t + 1 := by
  simp only [opWrites] at h
  split at h
  · exact (Option.some.inj h).symm
  · cases h

/-- The ops that change a column before an instant. -/
def countBefore (a : Arr) (e col at' : Nat) : Nat := a.ops.countP (changesBefore e col at')

/-- Fewer ops change a column before the instant of its own change. -/
theorem countBefore_lt {a : Arr} {e col at₁ at₂ : Nat} {x : AccOp} (hx : x ∈ a.ops)
    (hold : changesBefore e col at₂ x = true) (hnew : changesBefore e col at₁ x = false) (hle : at₁ ≤ at₂) :
    countBefore a e col at₁ < countBefore a e col at₂ := by
  unfold countBefore
  generalize a.ops = ops at hx
  have hmono : ∀ l : List AccOp, l.countP (changesBefore e col at₁) ≤ l.countP (changesBefore e col at₂) :=
    fun l => List.countP_mono_left (fun _ _ h => changesBefore_mono hle h)
  obtain ⟨l, r, rfl⟩ := List.append_of_mem hx
  have hl := hmono l
  have hr := hmono r
  simp only [List.countP_append, List.countP_cons, hold, hnew, if_true, Bool.false_eq_true, if_false]
  omega

/-- Fuel for the changes of a column before an instant is enough (03 R78). -/
theorem accSeen_fuel (a : Arr) (e col : Nat) (fuel fuel' at' : Nat) (h : countBefore a e col at' ≤ fuel)
    (h' : countBefore a e col at' ≤ fuel') : accSeen a e col fuel at' = accSeen a e col fuel' at' := by
  induction fuel generalizing fuel' at' with
  | zero =>
    have hnone : ∀ op ∈ a.ops, changesBefore e col at' op = false := by
      simpa [countBefore, List.countP_eq_zero] using h
    rw [accSeen_file hnone, accSeen_file hnone]
  | succ fuel ih =>
    cases fuel' with
    | zero =>
      have hnone : ∀ op ∈ a.ops, changesBefore e col at' op = false := by
        simpa [countBefore, List.countP_eq_zero] using h'
      rw [accSeen_file hnone, accSeen_file hnone]
    | succ fuel' =>
      rw [accSeen_succ, accSeen_succ]
      cases hl : lastWrite a.ops e col at' with
      | none => rfl
      | some x =>
        obtain ⟨hmem, w, hw, hlt⟩ := lastWrite_some hl
        have hstep : ∀ at₁ ≤ w, accSeen a e col fuel at₁ = accSeen a e col fuel' at₁ := by
          intro at₁ hle
          have := countBefore_lt (at₁ := at₁) hmem (changesBefore_iff.mpr ⟨w, hw, hlt⟩)
            (by simp [changesBefore, hw, hle]) (by omega)
          exact ih _ _ (by omega) (by omega)
        cases x with
        | clear t e' h => rfl
        | flip t e' k mask => simp only [hstep (2 * t + 1) (opWrites_flip hw).ge]
        | vec t e' wide fresh ie sums bad ups =>
          have hreads : 2 * vecReads t wide col ≤ w := by
            have := vecReads_lt_vecWrites t wide col
            have := opWrites_vec hw
            omega
          simp only [hstep _ hreads]

/-! ## The poison of a column -/

theorem lastClean_none {ops : List AccOp} {e col at' : Nat} (h : ∀ op ∈ ops, opCleans op e col = none) :
    lastClean ops e col at' = none := by
  have : ops.filterMap (fun op => opCleans op e col) = [] := List.filterMap_eq_nil_iff.mpr h
  rw [lastClean, this]
  rfl

/-- What clears no poison of a column may be left out. -/
theorem lastClean_append_unchanged {ops : List AccOp} {e col at' : Nat} {op : AccOp} (h : opCleans op e col = none) :
    lastClean (ops ++ [op]) e col at' = lastClean ops e col at' := by
  have hop : [op].filterMap (fun op => opCleans op e col) = [] := by simpa using h
  rw [lastClean, List.filterMap_append, hop, List.append_nil]
  rfl

/-- The only clearing of a column's poison. -/
theorem lastClean_append_only {ops : List AccOp} {e col at' w : Nat} {op : AccOp} (h : ∀ x ∈ ops, opCleans x e col = none)
    (hw : opCleans op e col = some w) (hlt : w < at') : lastClean (ops ++ [op]) e col at' = some w := by
  have hops : ops.filterMap (fun op => opCleans op e col) = [] := List.filterMap_eq_nil_iff.mpr h
  have hop : [op].filterMap (fun op => opCleans op e col) = [w] := by simp [hw]
  rw [lastClean, List.filterMap_append, hops, hop]
  simp [hlt]

/-- What poisons the granule of a column: the file's poison where nothing has cleared it, and what passed since. -/
theorem stickyBad_iff (a : Arr) (e col at' : Nat) : stickyBad a e col at' = true ↔
    lastClean a.ops e col at' = none ∧ nsMem a.accPoison (8 * e + col / 16) = true ∨
      ∃ op ∈ a.ops, ∃ w, opPoisons op e col = some w ∧ w < at' ∧ (lastClean a.ops e col at').getD 0 ≤ w := by
  simp only [stickyBad, Bool.or_eq_true, Bool.and_eq_true, Option.isNone_iff_eq_none, List.any_eq_true, List.mem_filterMap,
    decide_eq_true_eq]
  refine or_congr_right ⟨?_, ?_⟩
  · rintro ⟨w, ⟨op, hop, hw⟩, hlt⟩
    exact ⟨op, hop, w, hw, hlt⟩
  · rintro ⟨op, hop, w, hw, hlt⟩
    exact ⟨w, ⟨op, hop, hw⟩, hlt⟩

theorem accRead_fst (a : Arr) (e col n : Nat) : (accRead a e col n).1 = (accSeen a e col (a.ops.length + 1) (2 * n)).1 := rfl

theorem accRead_snd (a : Arr) (e col n : Nat) : (accRead a e col n).2 = true ↔
    (accSeen a e col (a.ops.length + 1) (2 * n)).2 = true ∨ stickyBad a e col (2 * n) = true := by
  simp [accRead]

/-- A column of an entry on the way to which nothing is reads as the file holds it. -/
theorem accRead_settled {a : Arr} {e : Nat} (h : Settled a e) (col n : Nat) :
    accRead a e col n = (accAt a e col, nsMem a.accPoison (8 * e + col / 16)) := by
  have hfile : ∀ op ∈ a.ops, changesBefore e col (2 * n) op = false := fun op hop => by
    simp [changesBefore, opWrites_other (h op hop)]
  have hclean : lastClean a.ops e col (2 * n) = none := lastClean_none fun op hop => opCleans_none (opWrites_other (h op hop) col)
  have hpoison : a.ops.filterMap (fun op => opPoisons op e col) = [] :=
    List.filterMap_eq_nil_iff.mpr fun op hop => opPoisons_other (h op hop) col
  simp [accRead, accSeen_file hfile, stickyBad, hclean, hpoison]

/-! ## Vectors and clears on their way (03 R78 R79 R80 R89) -/

theorem opWrites_narrow {t e col : Nat} {fresh ie : Bool} {s : List (List Word)} {bad : List Nat} {ups : List AddUpset} :
    opWrites (.vec t e false fresh ie (some s) bad ups) e col = some (2 * (t + (10 + col))) := by
  simp [opWrites, vecWrites]

theorem opPoisons_narrow {t e col : Nat} {fresh ie : Bool} {s : Option (List (List Word))} {bad : List Nat} {ups : List AddUpset} :
    opPoisons (.vec t e false fresh ie s bad ups) e col =
      if bad.contains (col / 16) then some (2 * (t + (10 + col))) else none := by
  simp [opPoisons, vecWrites]

/-- The value of a column that two vectors of a stream have passed: the second adds to what the first left where the first
has written it by then (03 R80). -/
theorem accSeen_two_vectors {ie₁ ie₂ : Bool} {a : Arr} {e col t₁ t₂ n : Nat} {s₁ s₂ : List (List Word)} {bad₁ bad₂ : List Nat}
    (hops : a.ops = [.vec t₁ e false false ie₁ (some s₁) bad₁ [], .vec t₂ e false false ie₂ (some s₂) bad₂ []])
    (hcol : col < 128) (ht : t₁ < t₂) (hn : t₂ + 138 ≤ n) :
    accSeen a e col 3 (2 * n) =
      let old := if t₂ < t₁ + 5 then (accAt a e col, nsMem a.accPoison (8 * e + col / 16)) else
        (columnAdd ie₁ (accAt a e col) (s₁.getD col []),
          nsMem a.accPoison (8 * e + col / 16) || bad₁.contains (col / 16))
      (columnAdd ie₂ old.1 (s₂.getD col []), old.2 || bad₂.contains (col / 16)) := by
  have hlast : lastWrite a.ops e col (2 * n) = some (.vec t₂ e false false ie₂ (some s₂) bad₂ []) := by
    rw [hops]
    refine lastWrite_append_last (ops := [_]) opWrites_narrow (by omega) (fun x hx v hv => ?_)
    rw [List.mem_singleton.mp hx, opWrites_narrow, Option.some.injEq] at hv
    omega
  have hreads : vecReads t₂ false col = t₂ + (6 + col) := by simp [vecReads]
  rw [accSeen_succ, hlast]
  by_cases h5 : t₂ < t₁ + 5
  · have hnone : ∀ op ∈ a.ops, changesBefore e col (2 * (t₂ + (6 + col))) op = false := by
      rw [hops]
      simp only [List.mem_cons, List.not_mem_nil, or_false, forall_eq_or_imp, forall_eq, changesBefore, opWrites_narrow,
        Option.any_some, decide_eq_false_iff_not]
      omega
    simp [hreads, accSeen_file hnone, h5, vecColumn]
  · have hfirst : lastWrite a.ops e col (2 * (t₂ + (6 + col))) = some (.vec t₁ e false false ie₁ (some s₁) bad₁ []) := by
      rw [hops]
      refine (lastWrite_append_unchanged (ops := [_]) ?_).trans
        (lastWrite_append_last (ops := []) opWrites_narrow (by omega) (by simp))
      simp only [changesBefore, opWrites_narrow, Option.any_some, decide_eq_false_iff_not]
      omega
    have hreads₁ : vecReads t₁ false col = t₁ + (6 + col) := by simp [vecReads]
    have hnone : ∀ op ∈ a.ops, changesBefore e col (2 * (t₁ + (6 + col))) op = false := by
      rw [hops]
      simp only [List.mem_cons, List.not_mem_nil, or_false, forall_eq_or_imp, forall_eq, changesBefore, opWrites_narrow,
        Option.any_some, decide_eq_false_iff_not]
      omega
    have hold : accSeen a e col 2 (2 * (t₂ + (6 + col))) = (columnAdd ie₁ (accAt a e col) (s₁.getD col []),
        nsMem a.accPoison (8 * e + col / 16) || bad₁.contains (col / 16)) := by
      rw [accSeen_succ, hfirst]
      simp [hreads₁, accSeen_file hnone, vecColumn]
    simp [hreads, hold, h5, vecColumn]

/-- 03 R80 R89: the second of two vectors of a stream and the poison of both. -/
theorem column_two_vectors (ie₁ ie₂ : Bool) (a : Arr) (e col t₁ t₂ n : Nat) (s₁ s₂ : List (List Word)) (bad₁ bad₂ : List Nat)
    (hcol : col < 128) (ht : t₁ < t₂) (hn : t₂ + 138 ≤ n) :
    column { a with ops := [.vec t₁ e false false ie₁ (some s₁) bad₁ [], .vec t₂ e false false ie₂ (some s₂) bad₂ []] } e col n =
      (if t₂ < t₁ + 5 then columnAdd ie₂ (accAt a e col) (s₂.getD col [])
      else columnAdd ie₂ (columnAdd ie₁ (accAt a e col) (s₁.getD col [])) (s₂.getD col []),
        nsMem a.accPoison (8 * e + col / 16) || bad₁.contains (col / 16) || bad₂.contains (col / 16)) := by
  generalize hb : ({ a with ops := [.vec t₁ e false false ie₁ (some s₁) bad₁ [], .vec t₂ e false false ie₂ (some s₂) bad₂ []] } : Arr) = b
  have hops : b.ops = [.vec t₁ e false false ie₁ (some s₁) bad₁ [], .vec t₂ e false false ie₂ (some s₂) bad₂ []] := by rw [← hb]
  have hfile : accAt b e col = accAt a e col := by rw [← hb]; rfl
  have hpoison : b.accPoison = a.accPoison := by rw [← hb]
  have hclean : lastClean b.ops e col (2 * n) = none := lastClean_none (by rw [hops]; simp [opCleans])
  have hseen := accSeen_two_vectors hops hcol ht hn
  have hsticky : stickyBad b e col (2 * n) =
      (nsMem a.accPoison (8 * e + col / 16) || bad₁.contains (col / 16) || bad₂.contains (col / 16)) := by
    rw [Bool.eq_iff_iff, stickyBad_iff, hclean, hops, hpoison]
    simp only [List.mem_cons, List.not_mem_nil, or_false, exists_eq_or_imp, exists_eq_left, opPoisons_narrow,
      Option.ite_none_right_eq_some, Option.some.injEq, Bool.or_eq_true, true_and, Option.getD_none, Nat.zero_le, and_true]
    have h₁ : (∃ w, (bad₁.contains (col / 16) = true ∧ 2 * (t₁ + (10 + col)) = w) ∧ w < 2 * n) ↔ bad₁.contains (col / 16) = true :=
      ⟨fun ⟨_, h, _⟩ => h.1, fun h => ⟨_, ⟨h, rfl⟩, by omega⟩⟩
    have h₂ : (∃ w, (bad₂.contains (col / 16) = true ∧ 2 * (t₂ + (10 + col)) = w) ∧ w < 2 * n) ↔ bad₂.contains (col / 16) = true :=
      ⟨fun ⟨_, h, _⟩ => h.1, fun h => ⟨_, ⟨h, rfl⟩, by omega⟩⟩
    rw [h₁, h₂, or_assoc]
  have hlen : b.ops.length + 1 = 3 := by rw [hops]; rfl
  unfold column accRead
  rw [hlen, hseen, hsticky, hfile, hpoison]
  by_cases h5 : t₂ < t₁ + 5
  · simp only [h5, if_true, Prod.mk.injEq, true_and]
    grind
  · simp only [h5, if_false, Prod.mk.injEq, true_and]
    grind

/-- A change of another column leaves this one (03 R79). -/
theorem accRead_append_other {a : Arr} {x col : Nat} {op : AccOp} (hwrites : opWrites op x col = none)
    (hpoisons : opPoisons op x col = none) (n : Nat) :
    accRead { a with ops := a.ops ++ [op] } x col n = accRead a x col n := by
  have hlast : ∀ at', lastWrite (a.ops ++ [op]) x col at' = lastWrite a.ops x col at' := fun at' =>
    lastWrite_append_unchanged (by simp [changesBefore, hwrites])
  have hseen : ∀ fuel at', accSeen { a with ops := a.ops ++ [op] } x col fuel at' = accSeen a x col fuel at' := by
    intro fuel
    induction fuel with
    | zero => exact fun _ => rfl
    | succ fuel ih =>
      intro at'
      rw [accSeen_succ, accSeen_succ, hlast]
      simp only [ih]
      rfl
  have hsticky : stickyBad { a with ops := a.ops ++ [op] } x col (2 * n) = stickyBad a x col (2 * n) := by
    rw [Bool.eq_iff_iff, stickyBad_iff, stickyBad_iff, lastClean_append_unchanged (opCleans_none hwrites)]
    simp [or_and_right, exists_or, hpoisons]
  have hfuel : accSeen a x col (a.ops.length + 1 + 1) (2 * n) = accSeen a x col (a.ops.length + 1) (2 * n) := by
    have : countBefore a x col (2 * n) ≤ a.ops.length := List.countP_le_length
    exact accSeen_fuel _ _ _ _ _ _ (by omega) (by omega)
  simp only [accRead, hseen, hsticky, List.length_append, List.length_singleton, hfuel]

/-- 03 R79: a drain with clear leaves −0, clean, in its half. -/
theorem column_clear (a : Arr) (e h now x col n : Nat) (hset : Settled a e) (hn : now + 1 < n) :
    column { a with ops := a.ops ++ [.clear now e h] } x col n =
      if x = e ∧ col / 64 = h then (0x80000000, false) else column a x col n := by
  split
  · next hhalf =>
    obtain ⟨rfl, rfl⟩ := hhalf
    have hclear : opWrites (.clear now x (col / 64)) x col = some (2 * (now + 1)) := by simp [opWrites]
    have hlast : lastWrite (a.ops ++ [.clear now x (col / 64)]) x col (2 * n) = some (.clear now x (col / 64)) := by
      refine lastWrite_append_last hclear (by omega) (fun y hy v hv => ?_)
      rw [opWrites_other (hset y hy)] at hv
      cases hv
    have hsticky : stickyBad { a with ops := a.ops ++ [.clear now x (col / 64)] } x col (2 * n) = false := by
      have hclean : lastClean (a.ops ++ [.clear now x (col / 64)]) x col (2 * n) = some (2 * (now + 1)) :=
        lastClean_append_only (fun op hop => opCleans_none (opWrites_other (hset op hop) col)) hclear (by omega)
      rw [Bool.eq_false_iff, Ne, stickyBad_iff, hclean]
      rintro (⟨hnone, -⟩ | ⟨op, hop, w, hw, -⟩)
      · cases hnone
      · rcases List.mem_append.mp hop with hop | hop
        · rw [opPoisons_other (hset op hop)] at hw
          cases hw
        · rw [List.mem_singleton.mp hop] at hw
          cases hw
    unfold column accRead
    rw [hsticky, accSeen_succ, hlast]
    rfl
  · next hhalf =>
    refine accRead_append_other ?_ rfl n
    simp only [opWrites, ite_eq_right_iff]
    rintro ⟨rfl, rfl⟩
    exact absurd ⟨rfl, rfl⟩ hhalf

theorem accumulatorTiming : AccumulatorTiming := by
  refine ⟨?_, ?_⟩
  · intro ie₁ ie₂ a e col t₁ t₂ n s₁ s₂ bad₁ bad₂ _ hcol ht hn
    exact column_two_vectors ie₁ ie₂ a e col t₁ t₂ n s₁ s₂ bad₁ bad₂ hcol ht hn
  · intro a e h now x col n hset hn _
    exact column_clear a e h now x col n hset hn

end Sys2Proof.Proofs
end

section
/-! PROOFS. An entry that enters the accumulator's file, and the array instructions at their issue (03 R74 R76 R78 R79 R81 R89). -/

namespace Sys2Proof.Proofs

open Sys2Proof Sys2Proof.Machine Sys2Proof.Claims Sys2Proof.Laws

/-! ## An entry enters the file (03 R78 R79) -/

theorem vecWrites_lt {col : Nat} (h : col < 128) (t : Nat) (wide : Bool) : vecWrites t wide col < t + 138 := by
  unfold vecWrites
  split <;> omega

/-- What is done by an array cycle has changed its columns before. -/
theorem opWrites_done {op : AccOp} {now e col w : Nat} (hdone : opDone now op = true) (hcol : col < 128)
    (hw : opWrites op e col = some w) : w < 2 * now := by
  cases op with
  | vec t e' wide fresh ie sums bad ups =>
    have := vecWrites_lt hcol t wide
    have := opWrites_vec hw
    simp only [opDone, decide_eq_true_eq] at hdone
    omega
  | clear t e' h =>
    simp only [opWrites, Option.ite_none_right_eq_some, Option.some.injEq] at hw
    simp only [opDone, decide_eq_true_eq] at hdone
    omega
  | flip t e' k mask =>
    have := opWrites_flip hw
    simp only [opDone, decide_eq_true_eq] at hdone
    omega

theorem opPoisons_done {op : AccOp} {now e col w : Nat} (hdone : opDone now op = true) (hcol : col < 128)
    (hw : opPoisons op e col = some w) : w < 2 * now := by
  cases op with
  | vec t e' wide fresh ie sums bad ups =>
    have := vecWrites_lt hcol t wide
    simp only [opPoisons, Option.ite_none_right_eq_some, Option.some.injEq] at hw
    simp only [opDone, decide_eq_true_eq] at hdone
    omega
  | clear t e' h => cases hw
  | flip t e' k mask =>
    simp only [opPoisons, Option.ite_none_right_eq_some, Option.some.injEq] at hw
    simp only [opDone, decide_eq_true_eq] at hdone
    omega

/-- The ops of an entry are all done by an array cycle. -/
def EntryDone (a : Arr) (e now : Nat) : Prop := ∀ op ∈ a.ops, opEntry op = e → opDone now op = true

theorem EntryDone.writes {a : Arr} {e now col w : Nat} (h : EntryDone a e now) (hcol : col < 128) {op : AccOp}
    (hop : op ∈ a.ops) (hw : opWrites op e col = some w) : w < 2 * now := by
  by_cases he : opEntry op = e
  · exact opWrites_done (h op hop he) hcol hw
  · rw [opWrites_other he] at hw
    cases hw

theorem EntryDone.poisons {a : Arr} {e now col w : Nat} (h : EntryDone a e now) (hcol : col < 128) {op : AccOp}
    (hop : op ∈ a.ops) (hw : opPoisons op e col = some w) : w < 2 * now := by
  by_cases he : opEntry op = e
  · exact opPoisons_done (h op hop he) hcol hw
  · rw [opPoisons_other he] at hw
    cases hw

/-- Of two instants after all clearings the last clearing is the same. -/
theorem lastClean_congr {ops : List AccOp} {e col at₁ at₂ : Nat}
    (h : ∀ op ∈ ops, ∀ w, opCleans op e col = some w → (w < at₁ ↔ w < at₂)) :
    lastClean ops e col at₁ = lastClean ops e col at₂ := by
  unfold lastClean
  congr 1
  refine List.filter_congr fun w hw => ?_
  obtain ⟨op, hop, hclean⟩ := List.mem_filterMap.mp hw
  simp [h op hop w hclean]

/-- Once everything on its way to an entry is done its columns read the same in every later cycle. -/
theorem accRead_done {a : Arr} {e now col n : Nat} (h : EntryDone a e now) (hcol : col < 128) (hn : now ≤ n) :
    accRead a e col n = accRead a e col now := by
  have hlast : lastWrite a.ops e col (2 * n) = lastWrite a.ops e col (2 * now) :=
    lastWrite_congr fun op hop w hw => by have := h.writes hcol hop hw; omega
  have hclean : lastClean a.ops e col (2 * n) = lastClean a.ops e col (2 * now) :=
    lastClean_congr fun op hop w hw => by have := h.writes hcol hop (opCleans_opWrites hw); omega
  have hseen : accSeen a e col (a.ops.length + 1) (2 * n) = accSeen a e col (a.ops.length + 1) (2 * now) := by
    rw [accSeen_succ, accSeen_succ, hlast]
  have hsticky : stickyBad a e col (2 * n) = stickyBad a e col (2 * now) := by
    rw [Bool.eq_iff_iff, stickyBad_iff, stickyBad_iff, hclean]
    refine or_congr_right (exists_congr fun op => and_congr_right fun hop => exists_congr fun w =>
      and_congr_right fun hw => and_congr_left' ?_)
    have := h.poisons hcol hop hw
    omega
  rw [accRead, accRead, hseen, hsticky]

/-- Columns of an entry are written to the file. -/
theorem accAt_foldl_setAcc (e : Nat) (f : Nat → Word) (l : List Nat) (a : Arr) (col : Nat) :
    accAt (l.foldl (fun b k => setAcc b e k (f k)) a) e col = if col ∈ l then f col else accAt a e col := by
  induction l generalizing a with
  | nil => simp
  | cons k rest ih =>
    rw [List.foldl_cons, ih]
    by_cases hk : col = k
    · subst hk
      simp [accAt, setAcc]
    · simp [accAt, setAcc, smGet_smSet, hk]

theorem foldl_setAcc_frame (e : Nat) (f : Nat → Word) (l : List Nat) (a : Arr) :
    l.foldl (fun b k => setAcc b e k (f k)) a = { a with acc := (l.foldl (fun b k => setAcc b e k (f k)) a).acc } := by
  induction l generalizing a with
  | nil => rfl
  | cons k rest ih => rw [List.foldl_cons, ih]; rfl

/-- The poison of granules of an entry is written to the file. -/
theorem accPoison_foldl_set (e : Nat) (f : Nat → Bool) (l : List Nat) (a : Arr) (g : Nat) :
    nsMem (l.foldl (fun b k => setAccPoison b e k (f k)) a).accPoison (8 * e + g) =
      if g ∈ l then f g else nsMem a.accPoison (8 * e + g) := by
  induction l generalizing a with
  | nil => simp
  | cons k rest ih =>
    rw [List.foldl_cons, ih]
    by_cases hk : g = k
    · subst hk
      simp [setAccPoison]
    · simp [setAccPoison, hk]

theorem foldl_setAccPoison_frame (e : Nat) (f : Nat → Bool) (l : List Nat) (a : Arr) :
    l.foldl (fun b k => setAccPoison b e k (f k)) a =
      { a with accPoison := (l.foldl (fun b k => setAccPoison b e k (f k)) a).accPoison } := by
  induction l generalizing a with
  | nil => rfl
  | cons k rest ih => rw [List.foldl_cons, ih]; rfl

/-- An array with the 128 columns and the 8 granules of an entry written to its file. -/
def fileEntry (a : Arr) (e : Nat) (f : Nat → Word) (p : Nat → Bool) : Arr :=
  (List.range 8).foldl (fun b g => setAccPoison b e g (p g)) ((List.range 128).foldl (fun b col => setAcc b e col (f col)) a)

theorem fileEntry_frame (a : Arr) (e : Nat) (f : Nat → Word) (p : Nat → Bool) : fileEntry a e f p =
    { a with acc := (fileEntry a e f p).acc, accPoison := (fileEntry a e f p).accPoison } := by
  unfold fileEntry
  rw [foldl_setAccPoison_frame, foldl_setAcc_frame]

theorem accAt_fileEntry (a : Arr) (e : Nat) (f : Nat → Word) (p : Nat → Bool) {col : Nat} (hcol : col < 128) :
    accAt (fileEntry a e f p) e col = f col := by
  have hacc : accAt (fileEntry a e f p) e col = accAt ((List.range 128).foldl (fun b k => setAcc b e k (f k)) a) e col := by
    unfold fileEntry
    rw [foldl_setAccPoison_frame]
    rfl
  rw [hacc, accAt_foldl_setAcc, if_pos (List.mem_range.mpr hcol)]

theorem accPoison_fileEntry (a : Arr) (e : Nat) (f : Nat → Word) (p : Nat → Bool) {g : Nat} (hg : g < 8) :
    nsMem (fileEntry a e f p).accPoison (8 * e + g) = p g := by
  rw [fileEntry, accPoison_foldl_set, if_pos (List.mem_range.mpr hg)]

/-- An array in which an entry has entered the file, as its columns read in an array cycle. -/
def entered (now : Nat) (a : Arr) (e : Nat) : Arr :=
  { fileEntry a e (fun col => (accRead a e col now).1) (fun g => granRead a e g now) with
    ops := a.ops.filter (fun op => opEntry op != e) }

theorem accAt_withOps (a : Arr) (ops : List AccOp) (e col : Nat) : accAt { a with ops := ops } e col = accAt a e col := rfl

theorem accPoison_withOps (a : Arr) (ops : List AccOp) : ({ a with ops := ops } : Arr).accPoison = a.accPoison := rfl

theorem accAt_entered (now : Nat) (a : Arr) (e : Nat) {col : Nat} (hcol : col < 128) :
    accAt (entered now a e) e col = (accRead a e col now).1 := by
  rw [entered, accAt_withOps, accAt_fileEntry a e _ _ hcol]

theorem accPoison_entered (now : Nat) (a : Arr) (e : Nat) {g : Nat} (hg : g < 8) :
    nsMem (entered now a e).accPoison (8 * e + g) = granRead a e g now := by
  rw [entered, accPoison_withOps, accPoison_fileEntry a e _ _ hg]

/-- An entry stays on its way, or all of it is done and it enters the file. -/
theorem foldEntry_cases (now : Nat) (a : Arr) (e : Nat) :
    foldEntry now a e = a ∨ EntryDone a e now ∧ foldEntry now a e = entered now a e := by
  by_cases hdone : (!(a.ops.filter (fun op => opEntry op == e)).isEmpty &&
      (a.ops.filter (fun op => opEntry op == e)).all (opDone now)) = true
  · refine .inr ⟨fun op hop he => ?_, if_pos hdone⟩
    exact List.all_eq_true.mp (Bool.and_eq_true_iff.mp hdone).2 op (List.mem_filter.mpr ⟨hop, by simp [he]⟩)
  · exact .inl (if_neg hdone)

/-- The entry that has entered the file is on its way no more. -/
theorem settled_entered (now : Nat) (a : Arr) (e : Nat) : Settled (entered now a e) e := by
  intro op hop
  simpa using (List.mem_filter.mp hop).2

theorem foldEntry_settled {a : Arr} {e : Nat} (h : Settled a e) (now : Nat) : foldEntry now a e = a := by
  have hmine : a.ops.filter (fun op => opEntry op == e) = [] := List.filter_eq_nil_iff.mpr fun op hop => by simp [h op hop]
  simp [foldEntry, hmine]

theorem foldEntry_frame (now : Nat) (a : Arr) (e : Nat) : foldEntry now a e =
    { a with acc := (foldEntry now a e).acc, accPoison := (foldEntry now a e).accPoison, ops := (foldEntry now a e).ops } := by
  rcases foldEntry_cases now a e with h | ⟨-, h⟩
  · rw [h]
  · rw [h, entered, fileEntry_frame]

/-- A column that enters the file keeps its value. -/
theorem accRead_foldEntry {a : Arr} {e now n col : Nat} (hn : now ≤ n) (hcol : col < 128) :
    (accRead (foldEntry now a e) e col n).1 = (accRead a e col n).1 := by
  rcases foldEntry_cases now a e with h | ⟨hdone, h⟩
  · rw [h]
  · rw [h, accRead_settled (settled_entered now a e), accRead_done hdone hcol hn, accAt_entered now a e hcol]

/-- A granule that enters the file keeps its poison. -/
theorem granRead_foldEntry {a : Arr} {e now n g : Nat} (hn : now ≤ n) (hg : g < 8) :
    granRead (foldEntry now a e) e g n = granRead a e g n := by
  rcases foldEntry_cases now a e with h | ⟨hdone, h⟩
  · rw [h]
  · have hold : granRead a e g n = granRead a e g now := by
      unfold granRead
      rw [Bool.eq_iff_iff, List.any_eq_true, List.any_eq_true]
      refine exists_congr fun k => and_congr_right fun hk => ?_
      rw [accRead_done hdone (by have := List.mem_range.mp hk; omega) hn]
    have hnew : ∀ k < 16, (accRead (entered now a e) e (16 * g + k) n).2 = granRead a e g now := fun k hk => by
      rw [accRead_settled (settled_entered now a e), show (16 * g + k) / 16 = g by omega,
        accPoison_entered now a e hg]
    rw [h, hold, Bool.eq_iff_iff, granRead, List.any_eq_true]
    exact ⟨fun ⟨k, hk, hbad⟩ => hnew k (List.mem_range.mp hk) ▸ hbad,
      fun hbad => ⟨0, by simp, (hnew 0 (by omega)).trans hbad⟩⟩

theorem granRead_iff (a : Arr) (e g n : Nat) : granRead a e g n = true ↔ ∃ j < 16, (column a e (16 * g + j) n).2 = true := by
  simp [granRead, column]

/-! ## The array instructions at their issue (03 R74) -/

/-- The number that n words make, the first lowest. -/
def wordsNat (w : Nat → Word) (n : Nat) : Nat := (List.range n).foldl (fun m l => m + (w l).toNat * 2 ^ (32 * l)) 0

theorem wordsNat_succ (w : Nat → Word) (n : Nat) : wordsNat w (n + 1) = 2 ^ (32 * n) * (w n).toNat + wordsNat w n := by
  simp only [wordsNat, List.range_succ, List.foldl_append, List.foldl_cons, List.foldl_nil]
  ring

theorem wordsNat_lt (w : Nat → Word) (n : Nat) : wordsNat w n < 2 ^ (32 * n) := by
  induction n with
  | zero => exact Nat.one_pos
  | succ n ih =>
    have hmul : 2 ^ (32 * n) * (w n).toNat + 2 ^ (32 * n) ≤ 2 ^ (32 * n) * 2 ^ 32 := by
      rw [← Nat.mul_succ]
      exact Nat.mul_le_mul_left _ (w n).isLt
    rw [wordsNat_succ, Nat.mul_succ, pow_add]
    omega

theorem testBit_wordsNat (w : Nat → Word) {n b : Nat} (h : b < 32 * n) :
    (wordsNat w n).testBit b = (w (b / 32)).getLsbD (b % 32) := by
  induction n with
  | zero => omega
  | succ n ih =>
    rw [wordsNat_succ, Nat.testBit_two_pow_mul_add _ (wordsNat_lt w n)]
    split
    · next hlow => exact ih hlow
    · rw [show b / 32 = n by omega, show b - 32 * n = b % 32 by omega]
      rfl

section
variable (i : Issue) (g : Gov) (v : Fin 64) (f : Fmt) (qp : Fin 8) (qs : Option (Fin 8)) (e : Fin 256)

/-- What MDRN makes of a tile. -/
def drained (h : Fin 2) (clear : Bool) (cyc : Nat) (t : Tile) : Tile :=
  let now := cyc - t.lag
  let a := foldEntry now t.arr e.val
  let t := setVreg { t with arr := a } v.val
    { lanes := (List.range 64).map (fun l => (accRead a e.val (64 * h.val + l) (now + 1)).1),
      poison := (List.range 4).map (fun g => granRead a e.val (4 * h.val + g) (now + 1)) }
  if clear then { t with arr := { a with ops := a.ops ++ [.clear now e.val h.val] } } else t

theorem tileExec_mdrn (h : Fin 2) (clear : Bool) (c : Chip) (site : Nat) (hs : c.flaws = []) :
    tileExec (.mdrn i e h v clear) c site = modTile c site (drained v e h clear c.plan.cyc) := by
  have hexec : tileExec (.mdrn i e h v clear) c site = tMdrn e h v clear c site := rfl
  rw [hexec, tMdrn, accCheck_sound hs]
  rfl

theorem vreg_drained (h : Fin 2) (clear : Bool) (cyc : Nat) (t : Tile) (r : Nat) : vreg (drained v e h clear cyc t) r =
    if r = v.val then
      { lanes := (List.range 64).map
          (fun l => (accRead (foldEntry (cyc - t.lag) t.arr e.val) e.val (64 * h.val + l) (cyc - t.lag + 1)).1),
        poison := (List.range 4).map
          (fun g => granRead (foldEntry (cyc - t.lag) t.arr e.val) e.val (4 * h.val + g) (cyc - t.lag + 1)) }
    else vreg t r := by
  unfold drained vreg
  cases clear <;> simp [setVreg, smGet_smSet]

/-- 03 R79: MDRN takes the columns of its half as they stand in the next cycle. -/
theorem lane_drained (h : Fin 2) (clear : Bool) (cyc : Nat) (t : Tile) (hlag : t.lag = 0) {l : Nat} (hl : l < 64) :
    lane (vreg (drained v e h clear cyc t) v.val) l = (column t.arr e.val (64 * h.val + l) (cyc + 1)).1 := by
  rw [vreg_drained, if_pos rfl, hlag, lane, List.getD_eq_getElem?_getD, List.getElem?_map, List.getElem?_range hl]
  exact accRead_foldEntry (Nat.le_succ cyc) (by omega)

theorem poison_drained (h : Fin 2) (clear : Bool) (cyc : Nat) (t : Tile) (hlag : t.lag = 0) {k : Nat} (hk : k < 4) :
    (vreg (drained v e h clear cyc t) v.val).poison.getD k false = true ↔
      ∃ j < 16, (column t.arr e.val (64 * h.val + 16 * k + j) (cyc + 1)).2 = true := by
  rw [vreg_drained, if_pos rfl, hlag, List.getD_eq_getElem?_getD, List.getElem?_map, List.getElem?_range hk,
    Option.map_some, Option.getD_some, Nat.sub_zero, granRead_foldEntry (Nat.le_succ cyc) (by omega), granRead_iff]
  simp only [show 16 * (4 * h.val + k) = 64 * h.val + 16 * k by omega]

theorem arr_drained (h : Fin 2) (clear : Bool) (cyc : Nat) (t : Tile) : (drained v e h clear cyc t).arr =
    let a := foldEntry (cyc - t.lag) t.arr e.val
    if clear then { a with ops := a.ops ++ [.clear (cyc - t.lag) e.val h.val] } else a := by
  unfold drained
  cases clear <;> rfl

theorem drained_frame (h : Fin 2) (clear : Bool) (cyc : Nat) (t : Tile) : drained v e h clear cyc t =
    { t with v := (drained v e h clear cyc t).v, arr := (drained v e h clear cyc t).arr } := by
  unfold drained
  cases clear <;> rfl

/-- 03 R74 R79 R89: MDRN copies a half of an entry with its poison and may send −0 after it. -/
theorem completes_mdrn (h : Fin 2) (clear : Bool) :
    Completes (.mdrn i e h v clear) i g noEvent noEvent (fun s t t' =>
      (∀ l < 64, lane (vreg t' v.val) l = (column t.arr e.val (64 * h.val + l) (s.chip.plan.cyc + 1)).1) ∧
      (∀ k < 4, (vreg t' v.val).poison.getD k false = true ↔
        ∃ j < 16, (column t.arr e.val (64 * h.val + 16 * k + j) (s.chip.plan.cyc + 1)).2 = true) ∧
      (Settled t.arr e.val → t'.arr =
        if clear then { t.arr with ops := t.arr.ops ++ [.clear s.chip.plan.cyc e.val h.val] } else t.arr) ∧
      (∀ r, r ≠ v.val → vreg t' r = vreg t r) ∧
      t' = { t with v := t'.v,
                    arr := { t.arr with acc := t'.arr.acc, accPoison := t'.arr.accPoison, ops := t'.arr.ops } }) := by
  refine completes_of_modTile (drained v e h clear) (fun _ => rfl)
    (fun c site hs => tileExec_mdrn i v e h clear c site hs) fun s t hlag => ⟨fun l hl => lane_drained v e h clear _ t hlag hl,
      fun k hk => poison_drained v e h clear _ t hlag hk, fun hset => ?_, fun r hr => ?_, ?_⟩
  · simp only [arr_drained, foldEntry_settled hset, hlag, Nat.sub_zero]
  · rw [vreg_drained, if_neg hr]
  · have harr : (drained v e h clear s.chip.plan.cyc t).arr = { t.arr with
        acc := (drained v e h clear s.chip.plan.cyc t).arr.acc
        accPoison := (drained v e h clear s.chip.plan.cyc t).arr.accPoison
        ops := (drained v e h clear s.chip.plan.cyc t).arr.ops } := by
      rw [arr_drained]
      dsimp only
      rw [foldEntry_frame]
      cases clear <;> rfl
    rw [← harr]
    exact drained_frame v e h clear _ t

/-- An instruction that changes the array of each tile by its cycle and the tile completes. -/
theorem completes_array {x : Instr} (m : Nat → Tile → Arr) (hexec : ∀ s, exec x s = issueX s i x)
    (hstep : ∀ (c : Chip) (site : Nat), tileExec x c site =
      modTile c site (fun t => { t with arr := m (c.plan.cyc - t.lag) t })) :
    Completes x i g noEvent noEvent (fun s t t' => t' = { t with arr := m s.chip.plan.cyc t }) :=
  completes_of_modTile (fun cyc t => { t with arr := m (cyc - t.lag) t }) hexec (fun c site _ => hstep c site)
    (fun s t hlag => by simp only [hlag, Nat.sub_zero])

/-- The array with an MSKL in its stream port. -/
def withMskl (now : Nat) (t : Tile) : Arr :=
  { t.arr with
    str := t.arr.str ++ [.mskl (max now t.arr.strFree) (wordsNat (lane (vreg t v.val)) 8) (laneBad (vreg t v.val) 0)]
    strFree := max now t.arr.strFree + 1 }

/-- The array with an MPRE in its preload port. -/
def withMpre (now : Nat) (t : Tile) : Arr :=
  let start := preStart now t.arr.preFree t.arr.swapped
  { t.arr with
    pre := t.arr.pre ++ [⟨f, qp.val, qs.map (·.val), start, [], []⟩]
    preFree := start + 64
    loaded := start + 64 }

/-- The array with an MSTR in its stream port. -/
def withMstr (qa : QSrc) (n : Nat) (fresh swap mask : Bool) (now : Nat) (t : Tile) : Arr :=
  let start := strStart now t.arr.strFree t.arr.loaded swap
  { t.arr with
    str := t.arr.str ++ [.mstr ⟨f, qa, qs.map (·.val), e.val, n, fresh, swap, mask, start, 0, [], []⟩]
    strFree := start + n * vecCycles f
    swapped := if swap then start + 1 else t.arr.swapped }

theorem completes_mskl :
    Completes (.mskl i v) i g noEvent noEvent (fun s t t' => t' = { t with arr := withMskl v s.chip.plan.cyc t }) :=
  completes_array i g (withMskl v) (fun _ => rfl) (fun _ _ => rfl)

theorem completes_mpre :
    Completes (.mpre i f qp qs) i g noEvent noEvent (fun s t t' => t' = { t with arr := withMpre f qp qs s.chip.plan.cyc t }) :=
  completes_array i g (withMpre f qp qs) (fun _ => rfl) (fun _ _ => rfl)

theorem completes_mstr (qa : QSrc) (n : Nat) (fresh swap mask : Bool) :
    Completes (.mstr i f qa qs e n fresh swap mask) i g noEvent noEvent
      (fun s t t' => t' = { t with arr := withMstr f qs e qa n fresh swap mask s.chip.plan.cyc t }) :=
  completes_array i g (withMstr f qs e qa n fresh swap mask) (fun _ => rfl) (fun _ _ => rfl)

end

/-- An instruction completes with what follows from what each tile holds. -/
theorem completes_mono {x : Instr} {i : Issue} {g : Gov} {vec conv : State → Tile → Nat → Nat} {P Q : State → Tile → Tile → Prop}
    (hPQ : ∀ s t t', P s t t' → Q s t t') (h : Completes x i g vec conv P) : Completes x i g vec conv Q := by
  intro s hissues hready hwf
  obtain ⟨t, hnext, honly, htiles, hevents⟩ := h s hissues hready hwf
  exact ⟨t, hnext, honly, fun site hsite => hPQ _ _ _ (htiles site hsite), hevents⟩

/-- Settles O14: vectors and clears on their way by the last change of a column, MDRN by what entering the file keeps, and the
commands of the ports by what each makes of its tile. -/
theorem arrayPorts : Obligations.ArrayPorts := by
  refine ⟨accumulatorTiming, ?_⟩
  intro i e h v clear f qp qs qa n fresh swap mask g
  refine ⟨completes_mdrn i g v e h clear, ?_, completes_mpre i g f qp qs, completes_mstr i g f qs e qa n fresh swap mask⟩
  exact completes_mono (fun _ t _ ht => ⟨_, fun _ hb => testBit_wordsNat (lane (vreg t v.val)) hb, ht⟩) (completes_mskl i g v)

end Sys2Proof.Proofs
end

section
/-! PROOFS. The gate of a program, and elastic stall (03 R84, 05 R120 R124 R129 R136 R139 R147). -/

namespace Sys2Proof.Proofs

open Sys2Proof Sys2Proof.Machine Sys2Proof.Claims Sys2Proof.Laws

/-! ## How an instruction of the streams is performed -/

/-- An instruction of a stream issues under the gate of its program. -/
theorem exec_of_issueOf {x : Instr} {i : Issue} {exe : Bool} (h : issueOf x = some (i, exe)) (s : State) :
    exec x s = if exe then issueX s i x else issueA s i x := by
  cases x <;> cases h <;> rfl

/-- The instructions of a program: its control instructions, and those of its stream. -/
theorem streamOf_cases {x : Instr} {i : Issue} {exe : Bool} (h : streamOf x = some (i, exe)) :
    (∃ k, x = .xbar i exe k) ∨ x = .ends i exe ∨ issueOf x = some (i, exe) := by
  fun_cases streamOf x with
  | case1 j b k => cases h; exact .inl ⟨k, rfl⟩
  | case2 j b => cases h; exact .inr (.inl rfl)
  | case3 x hxbar hends =>
    have hstream : streamOf x = issueOf x := by
      unfold streamOf
      split <;> simp_all
    exact .inr (.inr (hstream ▸ h))

theorem issueCtl_eq (s : State) (i : Issue) (exe : Bool) (x : Instr) (f : Nat → Seq → Seq) : issueCtl s i exe x f =
    issueWith s i exe x (fun c => setSeq c i.die.val (f c.plan.cyc (seqAt c i.die.val))) := rfl

/-- Every instruction of a program issues under its gate, with some effect of its own. -/
theorem exec_of_streamOf {x : Instr} {i : Issue} {exe : Bool} (h : streamOf x = some (i, exe)) (s : State) :
    ∃ f, exec x s = issueWith s i exe x f := by
  rcases streamOf_cases h with ⟨k, rfl⟩ | rfl | hissue
  · have hexec : exec (.xbar i exe k) s = issueCtl s i exe (.xbar i exe k) (doXbar exe k.val) := rfl
    exact ⟨_, hexec.trans (issueCtl_eq ..)⟩
  · have hexec : exec (.ends i exe) s = issueCtl s i exe (.ends i exe) (fun _ => doEnds exe) := rfl
    exact ⟨_, hexec.trans (issueCtl_eq ..)⟩
  · rw [exec_of_issueOf hissue]
    cases exe
    · exact ⟨beginAct x, rfl⟩
    · exact ⟨fun c => onSites c i (arrive x), rfl⟩

/-! ## The gate of a program (05 R120 R124 R136 R139) -/

/-- A sequencer one of whose programs is held beyond the step. -/
def heldPast (exe : Bool) (q : Seq) : Seq := if exe then { q with pastX := true } else { q with pastA := true }

/-- The cycles that the count has passed are over. -/
theorem passed_of_caught {c : Chip} (h : c.plan.cyc0 + countCycle c ≤ c.plan.cyc) : passed c = c := by
  unfold passed
  split
  · rw [Nat.sub_eq_zero_of_le ((Nat.min_le_left _ _).trans h)]
    rfl
  · rfl

theorem issueWith_illFormed {s : State} {i : Issue} {exe : Bool} {x : Instr} (f : Chip → Chip) (h : x.wf = false) :
    issueWith s i exe x f = .refused .illFormed := by
  simp [issueWith, h]

section
variable {s : State} {i : Issue} {exe : Bool} {x : Instr} (f : Chip → Chip) (hwf : x.wf = true) (hquiet : Quiet s)
  (hcaught : s.chip.plan.cyc0 + countCycle s.chip ≤ s.chip.plan.cyc)
include hwf hquiet hcaught

/-- What an instruction does before the effect of its issue, once no earlier cycle is due. -/
theorem issueWith_gate : issueWith s i exe x f = .next { s with chip := flush (
    if mayIssue s.chip i.die.val exe then
      let w := awaitIssue i exe x (stepEnd s.chip - s.chip.plan.cyc) s.chip
      if issueCycle w i exe x ≤ w.plan.cyc ∧ w.plan.cyc < stepEnd w then
        fetchWord (controlCheck w i.die.val 0 .cycle) i exe (fun c => f (noteIssue c i exe x))
      else holdOver s.chip i.die.val exe
    else s.chip) } := by
  rw [issueWith, if_pos hwf, onRunning_running _ hquiet.runs, passed_of_caught hcaught]

/-- A program that may not issue changes nothing. -/
theorem issueWith_closed (hmay : mayIssue s.chip i.die.val exe = false) : issueWith s i exe x f = .next s := by
  rw [issueWith_gate f hwf hquiet hcaught, hmay, if_neg Bool.false_ne_true, flush_none hquiet.none]

/-- A step that is over issues nothing. -/
theorem issueWith_over (hover : stepEnd s.chip ≤ s.chip.plan.cyc) : issueWith s i exe x f = .next s := by
  rw [issueWith_gate f hwf hquiet hcaught, Nat.sub_eq_zero_of_le hover]
  have hlate : ¬s.chip.plan.cyc < stepEnd s.chip := Nat.not_lt.mpr hover
  simp [awaitIssue, holdOver, hlate, flush_none hquiet.none]

/-- An instruction that is held beyond the step holds its program (log 3). -/
theorem issueWith_held (hmay : mayIssue s.chip i.die.val exe = true) (hin : s.chip.plan.cyc < stepEnd s.chip)
    (hheld : stepEnd s.chip ≤ issueCycle s.chip i exe x) :
    issueWith s i exe x f =
      .next { s with chip := setSeq s.chip i.die.val (heldPast exe (seqAt s.chip i.die.val)) } := by
  have hwait : awaitIssue i exe x (stepEnd s.chip - s.chip.plan.cyc) s.chip = s.chip := by
    obtain ⟨n, hn⟩ := Nat.exists_eq_add_of_lt hin
    rw [show stepEnd s.chip - s.chip.plan.cyc = n + 1 by omega, awaitIssue, if_pos (.inr hheld)]
  have hlate : ¬(issueCycle s.chip i exe x ≤ s.chip.plan.cyc ∧ s.chip.plan.cyc < stepEnd s.chip) := by omega
  rw [issueWith_gate f hwf hquiet hcaught, if_pos hmay, hwait]
  dsimp only
  rw [if_neg hlate, holdOver, if_pos hin, flush_none (c := setSeq _ _ _) hquiet.none]
  rfl

end

theorem mayIssue_past {c : Chip} {d : Nat} {exe : Bool} (h : (if exe then (seqAt c d).pastX else (seqAt c d).pastA) = true) :
    mayIssue c d exe = false := by
  cases exe <;> simp_all [mayIssue]

/-- 05 R120 R124 R136 R139: the gate of a program. -/
theorem issueGate : IssueGate := by
  intro x i exe s hstream
  obtain ⟨f, hexec⟩ := exec_of_streamOf hstream s
  refine ⟨fun hwf => hexec.trans (issueWith_illFormed f hwf), fun hwf hquiet hcaught => ⟨?_, fun hmay hin hheld => ?_⟩⟩
  · rintro (hmay | hover)
    · exact hexec.trans (issueWith_closed f hwf hquiet hcaught hmay)
    · exact hexec.trans (issueWith_over f hwf hquiet hcaught hover)
  · refine ⟨_, hexec.trans (issueWith_held f hwf hquiet hcaught hmay hin hheld), rfl, ?_, fun d hd => ?_, ?_⟩
    · refine mayIssue_past ?_
      rw [seqAt_setSeq_same]
      cases exe <;> rfl
    · exact seqAt_setSeq_ne _ _ hd
    · exact seqAt_setSeq_same _ _ _

/-! ## Elastic stall (03 R84) -/

theorem arrive_waits {x : Instr} {c : Chip} {site : Nat} (h : ¬Ready c site) :
    arrive x c site = modTile c site (fun t => { t with buf := t.buf ++ [(c.plan.cyc, x)] }) := by
  have hwait : (frozen c (tileAt c site) || (tileAt c site).lag != 0) = true := by
    by_contra hgo
    simp only [Bool.not_eq_true, Bool.or_eq_false_iff, bne_eq_false_iff_eq] at hgo
    exact h ⟨hgo.2, hgo.1⟩
  rw [arrive, if_pos hwait]
  rfl

/-- A tile's readiness depends on its own state, the entries and the plan. -/
theorem ready_congr {c d : Chip} {site : Nat} (hregs : d.regs = c.regs) (hplan : d.plan = c.plan)
    (htile : tileAt d site = tileAt c site) : Ready d site ↔ Ready c site := by
  have hfrozen : frozen d (tileAt d site) = frozen c (tileAt c site) := by
    rw [htile]
    simp [frozen, elastic, reg, starvedOf, arrNeeds, arrClock, hregs, hplan]
  exact ⟨fun h => ⟨htile ▸ h.current, hfrozen ▸ h.thawed⟩, fun h => ⟨htile ▸ h.current, hfrozen ▸ h.thawed⟩⟩

/-- 05 R129: what reaches a frozen or lagging tile waits there. -/
theorem waits_in_buffer {x : Instr} {i : Issue} {s : State} (hx : issueOf x = some (i, true)) (hissues : Issues s i true x)
    (hnot : ∀ site ∈ issueSites s.chip i, ¬Ready s.chip site) :
    Answers x s (fun t => OnlyTiles s t i true x ∧ t.chip.acc = s.chip.acc ∧
      ∀ site ∈ issueSites s.chip i,
        let u := tileAt s.chip site
        tileAt t.chip site = { u with buf := u.buf ++ [(s.chip.plan.cyc, x)] }) := by
  obtain ⟨T, hnext, htiles⟩ := issueX_modTile hissues (m := fun t => { t with buf := t.buf ++ [(s.chip.plan.cyc, x)] })
    (fun c _ _ hregs hplan site hsite hkept => by
      rw [arrive_waits ((ready_congr hregs hplan hkept).not.mpr (hnot site hsite)), hplan])
  exact ⟨_, (exec_of_issueOf hx s).trans hnext, onlyTiles_of_tiles (m := fun t => { t with buf := t.buf ++ [(s.chip.plan.cyc, x)] }) htiles, rfl,
    fun site hsite => (htiles site).trans (if_pos hsite)⟩

/-! ### Counters of the step and reports -/

theorem smGet_bump (c : Chip) (k n j : Nat) :
    smGet 0 (bump c k n).acc.counts j = if j = k then smGet 0 c.acc.counts k + n else smGet 0 c.acc.counts j := by
  simp only [bump, smMod, smGet_smSet]

/-- A report once for a tile and step changes the error log and notes that it was made. -/
theorem reportOnce_frame (c : Chip) (kind unit code : Nat) (loc : Loc) (w : When) (detail : List Nat) :
    reportOnce c kind unit code loc w detail =
      { c with acc := { c.acc with reported := (reportOnce c kind unit code loc w detail).acc.reported }
               err := (reportOnce c kind unit code loc w detail).err } := by
  unfold reportOnce
  split <;> rfl

theorem reportOnce_reported (c : Chip) (kind unit code : Nat) (loc : Loc) (w : When) (detail : List Nat) :
    (kind, unit) ∈ (reportOnce c kind unit code loc w detail).acc.reported := by
  unfold reportOnce
  split
  · next h => exact List.contains_iff_mem.mp h
  · exact List.mem_cons_self ..

/-- A stream fault changes the counters and the reports of the step and the error log. -/
theorem streamFault_frame (c : Chip) (row site n : Nat) : streamFault c row site n =
    { c with acc := { c.acc with counts := (streamFault c row site n).acc.counts
                                 reported := (streamFault c row site n).acc.reported }
             err := (streamFault c row site n).err } := by
  unfold streamFault
  split
  · rfl
  · rw [reportOnce_frame]
    rfl

theorem streamFault_counts (c : Chip) (row site n j : Nat) : smGet 0 (streamFault c row site n).acc.counts j =
    if j = key 0x3050 row then smGet 0 c.acc.counts (key 0x3050 row) + n else smGet 0 c.acc.counts j := by
  unfold streamFault
  split
  · next h => subst h; split <;> simp_all
  · rw [reportOnce_frame, ← smGet_bump]

theorem streamFault_reported (c : Chip) (row site n : Nat) (h : n ≠ 0) :
    (row, site) ∈ (streamFault c row site n).acc.reported := by
  rw [streamFault, if_neg h]
  exact reportOnce_reported ..

/-! ### A frozen cycle, and one in which nothing is under way -/

/-- 03 R84, 05 R129 R147: a frozen cycle of a tile. -/
theorem frozen_cycle (c : Chip) (site : Nat) (heard : Bool) (h : frozen c (tileAt c site) = true) :
    let u := tileAt c site
    let d := tileCycle heard c site
    let new := (starvedOf c u).diff u.stalled
    tileAt d site = { u with lag := u.lag + 1, stalled := u.stalled ++ new } ∧
      (∀ y, y ≠ site → tileAt d y = tileAt c y) ∧
      Counts c d (key 0x3030 4) 1 [key 0x3050 2] ∧ Counts c d (key 0x3050 2) new.length [key 0x3030 4] ∧
      (new ≠ [] → (2, site) ∈ d.acc.reported) ∧
      d = { c with tiles := d.tiles, acc := { c.acc with counts := d.acc.counts, reported := d.acc.reported }, err := d.err } := by
  intro u d new
  have hnew : u.stalled.foldl (fun l q => l.erase q) (starvedOf c u) = new := (List.diff_eq_foldl _ _).symm
  let e := bump (streamFault c 2 site new.length) (key 0x3030 4) 1
  have hd : d = modTile e site (fun t => { t with lag := t.lag + 1, stalled := t.stalled ++ new }) := by
    have hrun : d = frozenCycle c site := by
      simp only [d, tileCycle, h, Bool.or_true, if_true, runTile]
    rw [hrun, frozenCycle]
    rw [hnew]
  have hrest : e = { c with acc := { c.acc with counts := e.acc.counts, reported := e.acc.reported }, err := e.err } := by
    simp only [e]
    rw [streamFault_frame]
    rfl
  have htiles : ∀ y, tileAt e y = tileAt c y := fun y => by rw [hrest]; rfl
  have hkeys : key 0x3030 4 ≠ key 0x3050 2 := by decide
  have hcount : ∀ j, smGet 0 d.acc.counts j = if j = key 0x3030 4 then smGet 0 c.acc.counts (key 0x3030 4) + 1
      else if j = key 0x3050 2 then smGet 0 c.acc.counts (key 0x3050 2) + new.length else smGet 0 c.acc.counts j := by
    intro j
    rw [hd, modTile_acc, smGet_bump, streamFault_counts, streamFault_counts, if_neg hkeys]
  refine ⟨?_, fun y hy => ?_, ⟨?_, fun j hj halso => ?_⟩, ⟨?_, fun j hj halso => ?_⟩, fun hne => ?_, ?_⟩
  · rw [hd, tileAt_modTile_same, htiles]
  · rw [hd, tileAt_modTile_ne _ _ hy, htiles]
  · rw [hcount, if_pos rfl]
  · rw [hcount, if_neg hj, if_neg (by simpa using halso)]
  · rw [hcount, if_neg hkeys.symm, if_pos rfl]
  · rw [hcount, if_neg (by simpa using halso), if_neg hj]
  · rw [hd, modTile_acc]
    exact streamFault_reported c 2 site _ (by simpa using hne)
  · rw [hd, hrest]
    rfl

/-- Nothing is under way in a tile, apart from its lag and what it has stalled for. -/
structure AtRest (t : Tile) : Prop where
  pre : t.arr.pre = []
  str : t.arr.str = []
  pop : t.pop = none
  buf : t.buf = []
  gath : t.gath = none
  stores : t.stores = []

theorem atRest_of_still {t : Tile} (h : { t with lag := 0, stalled := [] }.still = true) : AtRest t := by
  simp only [Tile.still, Bool.and_eq_true, List.isEmpty_iff, Option.isNone_iff_eq_none] at h
  obtain ⟨⟨⟨⟨⟨⟨⟨hpre, hstr⟩, hpop⟩, hbuf⟩, -⟩, -⟩, hgath⟩, hstores⟩ := h
  exact ⟨hpre, hstr, hpop, hbuf, hgath, hstores⟩

theorem AtRest.not_frozen {t : Tile} (h : AtRest t) (c : Chip) : frozen c t = false := by
  simp [frozen, starvedOf, arrNeeds, h.pre, h.str, h.pop, preNeeds, lacking]

/-- A cycle of a tile in which nothing is under way. -/
theorem playCycle_atRest {c : Chip} {site : Nat} (h : AtRest (tileAt c site)) :
    playCycle c site = modTile c site (fun t => { t with stalled := [] }) := by
  have hhead : issueHead c site = c := by simp [issueHead, h.buf]
  have harr : arrCycle c site = c := by simp [arrCycle, preDone, strCycle, preCycle, h.pre, h.str]
  have hunits : unitCycle c site = c := by
    simp [unitCycle, harr, popCycle, storeCycle, gathRound, h.pop, h.stores, h.gath]
  rw [playCycle, hhead, hunits]

theorem runTile_atRest {c : Chip} {site : Nat} (h : AtRest (tileAt c site)) :
    runTile c site = modTile c site (fun t => { t with stalled := [] }) := by
  rw [runTile, h.not_frozen, if_neg Bool.false_ne_true, playCycle_atRest h]

/-- A lagging tile in which nothing is under way loses a cycle of its lag where the broadcast is silent (log 36). -/
theorem lagging_cycle (c : Chip) (site : Nat) (heard : Bool) (hlag : (tileAt c site).lag ≠ 0) (h : AtRest (tileAt c site)) :
    let u := tileAt c site
    let d := tileCycle heard c site
    d = { c with tiles := d.tiles } ∧ (∀ y, y ≠ site → tileAt d y = tileAt c y) ∧
      tileAt d site = { u with lag := if heard then u.lag else u.lag - 1, stalled := [] } := by
  intro u d
  cases heard with
  | true =>
    have hd : d = modTile c site (fun t => { t with stalled := [] }) := by
      simp only [d, tileCycle, Bool.true_or, if_true, runTile_atRest h]
    rw [hd]
    exact ⟨rfl, fun y hy => tileAt_modTile_ne _ _ hy, tileAt_modTile_same ..⟩
  | false =>
    let e := modTile (playCycle c site) site (fun t => { t with lag := t.lag - 1 })
    have he : e = modTile (modTile c site (fun t => { t with stalled := [] })) site (fun t => { t with lag := t.lag - 1 }) := by
      simp only [e, playCycle_atRest h]
    have hrest : AtRest (tileAt e site) := by
      rw [he, tileAt_modTile_same, tileAt_modTile_same]
      exact ⟨h.pre, h.str, h.pop, h.buf, h.gath, h.stores⟩
    have hd : d = modTile e site (fun t => { t with stalled := [] }) := by
      have hcond : (false || (tileAt c site).lag == 0 || frozen c (tileAt c site)) = false := by simp [hlag, h.not_frozen]
      simp only [d, tileCycle]
      rw [hcond, if_neg Bool.false_ne_true]
      exact runTile_atRest hrest
    rw [hd, he]
    refine ⟨rfl, fun y hy => ?_, ?_⟩
    · rw [tileAt_modTile_ne _ _ hy, tileAt_modTile_ne _ _ hy, tileAt_modTile_ne _ _ hy]
    · simp only [tileAt_modTile_same]
      rfl

/-- 03 R84, 05 R129 R147: elastic stall. -/
theorem elasticWait : ElasticWait :=
  ⟨fun _ _ _ hx hissues hnot => waits_in_buffer hx hissues hnot, fun c site heard =>
    ⟨frozen_cycle c site heard, fun hlag hstill => lagging_cycle c site heard hlag (atRest_of_still hstill)⟩⟩

end Sys2Proof.Proofs
end

section
/-! PROOFS. The cycles in which the lines of the access stream meet their banks (05 R130 R131 R133 R135, 04 R108). -/

namespace Sys2Proof.Proofs

open Sys2Proof Sys2Proof.Machine Sys2Proof.Claims Sys2Proof.Laws

/-! ## The cycles in which lines meet their banks (05 R131 R133, 04 R108) -/

theorem lineRate_bounds (x : Instr) : 1 ≤ lineRate x ∧ lineRate x ≤ 4 := by
  unfold lineRate
  split <;> decide

theorem serveLines_idle {t r : Nat} {a : Act} {taken : List Nat} (h : ¬(a.k < a.n ∧ a.due a.k ≤ t)) :
    serveLines t r a taken = (a, taken) := by
  cases r with
  | zero => rfl
  | succ r => rw [serveLines, if_neg h]

/-- Up to r due lines whose banks nothing takes move, fewer where the act has no more. -/
theorem serveLines_free {t r : Nat} {a : Act} {taken : List Nat} (hdue : ∀ j < r, a.due (a.k + j) ≤ t)
    (hfree : ∀ b ∈ taken, ∀ j < r, b ≠ (a.bank + (a.k + j)) % 16) (hr : r ≤ 16) (hk : a.k ≤ a.n) :
    (serveLines t r a taken).1 = { a with k := min a.n (a.k + r) } := by
  induction r generalizing a taken with
  | zero => simp [serveLines, hk]
  | succ r ih =>
    by_cases hmore : a.k < a.n
    · have hdue₀ : a.due a.k ≤ t := hdue 0 (by omega)
      have hbank : taken.contains ((a.bank + a.k) % 16) = false := by
        rw [Bool.eq_false_iff, Ne, List.contains_iff_mem]
        exact fun hmem => hfree _ hmem 0 (by omega) rfl
      have hfree' : ∀ b ∈ (if banked a.x then (a.bank + a.k) % 16 :: taken else taken), ∀ j < r,
          b ≠ (a.bank + (a.k + 1 + j)) % 16 := by
        intro b hb j hj
        have hcases : b = (a.bank + a.k) % 16 ∨ b ∈ taken := by
          split at hb
          · exact List.mem_cons.mp hb
          · exact .inr hb
        rcases hcases with rfl | hb
        · omega
        · have := hfree b hb (j + 1) (by omega)
          rwa [show a.k + (j + 1) = a.k + 1 + j by omega] at this
      have hnext := ih (a := { a with k := a.k + 1 }) (taken := if banked a.x then (a.bank + a.k) % 16 :: taken else taken)
        (fun j hj => by rw [show a.k + 1 + j = a.k + (j + 1) by omega]; exact hdue (j + 1) (by omega)) hfree' (by omega) hmore
      rw [serveLines, if_pos ⟨hmore, hdue₀⟩]
      simp only [hbank, Bool.and_false, Bool.false_eq_true, if_false, hnext]
      rw [show a.k + 1 + r = a.k + (r + 1) by omega]
    · rw [serveLines_idle (fun h => hmore h.1), show min a.n (a.k + (r + 1)) = a.k by omega]

/-- The operand cache, read and written no more, keeps no act waiting. -/
theorem cacheHolds_free {k : Clock} {t : Nat} (hreads : k.reads ≤ t) (hwrites : k.writes ≤ t) (x : Instr) :
    cacheHolds k x t = false := by
  unfold cacheHolds
  split <;> simp <;> omega

/-- Of the acts of a die one is served by itself. -/
theorem serveDie_single (k : Clock) (t : Nat) (a : Act) : serveDie k t [a] = [(serveAct k t a []).1] := by
  unfold serveDie
  cases h : inboundAct a.x <;> simp [h, serveAll]

/-- The lines of an act that have met their banks by a cycle, where none of them has lost one. -/
def linesBy (a : Act) (t : Nat) : Nat := min a.n (lineRate a.x * (t - (a.s + a.lead)))

/-- An act alone on its die moves its lines at their rate from its lead on. -/
theorem serveDie_alone {k : Clock} {t : Nat} {a : Act} (hslip : a.slip = 0) (hk : a.k = linesBy a t)
    (hreads : k.reads ≤ t) (hwrites : k.writes ≤ t) :
    serveDie k t [a] = [{ a with k := if t < a.s + a.lead then 0 else linesBy a (t + 1) }] := by
  have hserve : serveAct k t a [] = serveLines t (lineRate a.x) a [] := by
    rw [serveAct, cacheHolds_free hreads hwrites, Bool.false_and, Bool.false_and, if_neg Bool.false_ne_true]
  obtain ⟨hpos, hrate⟩ := lineRate_bounds a.x
  rw [serveDie_single, hserve]
  unfold linesBy at *
  split
  · next hearly =>
    have hk0 : a.k = 0 := by rw [hk, show t - (a.s + a.lead) = 0 by omega, Nat.mul_zero, Nat.min_zero]
    rw [serveLines_idle, ← hk0]
    rintro ⟨-, hdue⟩
    rw [Act.due, hk0, Nat.zero_div] at hdue
    omega
  · next hlead =>
    obtain ⟨d, rfl⟩ := Nat.exists_eq_add_of_le (Nat.not_lt.mp hlead)
    rw [Nat.add_sub_cancel_left] at hk
    rw [show a.s + a.lead + d + 1 - (a.s + a.lead) = d + 1 by omega, Nat.mul_succ]
    by_cases hmore : a.k < a.n
    · have hk' : a.k = lineRate a.x * d := by omega
      rw [serveLines_free (fun j hj => ?_) (by simp) (by omega) hmore.le, hk']
      unfold Act.due
      rw [hk', Nat.mul_add_div hpos, Nat.div_eq_of_lt hj, hslip]
      omega
    · rw [serveLines_idle (fun h => hmore h.1), show min a.n (lineRate a.x * d + lineRate a.x) = a.k by omega]

/-- An act that moves a line of the tile store a cycle does not wait for the operand cache. -/
theorem cacheHolds_single {x : Instr} (h : lineRate x = 1) (k : Clock) (t : Nat) : cacheHolds k x t = false := by
  cases x <;> simp_all [lineRate, cacheHolds]

/-- A due line of an act of one line a cycle meets its bank, or loses it and waits (05 R133). -/
theorem serveAct_single {k : Clock} {t : Nat} {a : Act} {taken : List Nat} (hrate : lineRate a.x = 1)
    (hbanked : banked a.x = true) (hmore : a.k < a.n) (hdue : a.due a.k ≤ t) :
    serveAct k t a taken = if taken.contains ((a.bank + a.k) % 16) then ({ a with slip := a.slip + 1 }, taken)
      else ({ a with k := a.k + 1 }, (a.bank + a.k) % 16 :: taken) := by
  rw [serveAct, cacheHolds_single hrate, Bool.false_and, Bool.false_and, if_neg Bool.false_ne_true, hrate, serveLines,
    if_pos ⟨hmore, hdue⟩]
  simp [serveLines, hbanked]

/-- Of two acts of one die whose lines want one bank the first in order moves and the other waits (05 R133). -/
theorem serveDie_conflict {k : Clock} {t : Nat} {a b : Act} (ha : lineRate a.x = 1) (hb : lineRate b.x = 1)
    (hbankA : banked a.x = true) (hbankB : banked b.x = true) (hmoreA : a.k < a.n) (hmoreB : b.k < b.n)
    (hdueA : a.due a.k ≤ t) (hdueB : b.due b.k ≤ t) (hbank : (a.bank + a.k) % 16 = (b.bank + b.k) % 16)
    (horder : inboundAct b.x = false ∨ inboundAct a.x = true) :
    serveDie k t [a, b] = [{ a with k := a.k + 1 }, { b with slip := b.slip + 1 }] := by
  have hsort : [a, b].filter (fun a => inboundAct a.x) ++ [a, b].filter (fun a => !inboundAct a.x) = [a, b] := by
    cases hia : inboundAct a.x <;> cases hib : inboundAct b.x <;> simp_all
  rw [serveDie, hsort, serveAll, serveAct_single ha hbankA hmoreA hdueA]
  simp only [List.contains_nil, Bool.false_eq_true, if_false, serveAll]
  rw [serveAct_single hb hbankB hmoreB hdueB, ← hbank]
  simp

/-! ## The lines of an act that is alone move (05 R131) -/

theorem inTiles_id {f : Chip → ActTile → Chip × ActTile} (h : ∀ c u, f c u = (c, u)) (us : List ActTile) (c : Chip) :
    inTiles f c us = (c, us) := by
  induction us with
  | nil => rfl
  | cons u rest ih => rw [inTiles, h, ih]

theorem stageActs_id {f : Act → Chip → ActTile → Chip × ActTile} {l : List Act} (h : ∀ a ∈ l, ∀ c u, f a c u = (c, u))
    (c : Chip) : stageActs f l c = (c, l) := by
  induction l generalizing c with
  | nil => rfl
  | cons a rest ih =>
    rw [stageActs, inTiles_id (h a (List.mem_cons_self ..)), ih (fun b hb => h b (List.mem_cons_of_mem _ hb))]

/-- A stage that does nothing in any tile leaves the chip. -/
theorem withStage_id {f : Act → Chip → ActTile → Chip × ActTile} {c : Chip} (h : ∀ a ∈ c.acts, ∀ d u, f a d u = (d, u)) :
    withStage f c = c := by
  rw [withStage, stageActs_id h]

/-- Only an MLD reads at a memory point. -/
theorem memoryStage_other {a : Act} (h : ∀ j l r o n late, a.x ≠ .mld j l r o n late) (c : Chip) (u : ActTile) :
    memoryStage a c u = (c, u) := by
  unfold memoryStage
  split
  · next hx => exact absurd hx (h _ _ _ _ _ _)
  · rfl

/-- Only a QTS reads a queue. -/
theorem queueStage_other {a : Act} (h : ∀ j q l n, a.x ≠ .qts j l q n) (c : Chip) (u : ActTile) :
    queueStage a c u = (c, u) := by
  unfold queueStage
  split
  · next hx => exact absurd hx (h _ _ _ _)
  · rfl

/-- Only a CRCV takes from the yard. -/
theorem yardStage_other {a : Act} (h : ∀ j m l, a.x ≠ .crcv j m l) (c : Chip) : yardStage a c = (c, a.tiles) := by
  unfold yardStage
  split
  · next hx => exact absurd hx (h _ _ _)
  · rfl

theorem controlCheck_sound {c : Chip} (h : c.flaws = []) (die unit : Nat) (w : When) : controlCheck c die unit w = c := by
  simp [controlCheck, flawAt, h]

theorem mortarChecks_sound {c : Chip} (h : c.flaws = []) : mortarChecks c = c := by
  unfold mortarChecks
  generalize List.range 4 = l
  induction l with
  | nil => rfl
  | cons d rest ih => rw [List.foldl_cons, controlCheck_sound h, ite_self, ih]

theorem sortDue_same (c : Chip) : sortDue c.srv.cmdDue.length c = c := by
  simp [sortDue, sortBy]

/-- What one act makes of the chip once its banks are dealt out. -/
theorem moveAct_single (c : Chip) (a : Act) (k : Nat) : moveAct [a] c { a with k := k } =
    ((moveLines a.x (k - a.k) a.k c a.tiles).1, { a with k := k, tiles := (moveLines a.x (k - a.k) a.k c a.tiles).2 }) := by
  simp [moveAct]

/-- Banks are dealt out to one act, whose lines then move. -/
theorem moveDies_single {c : Chip} {a : Act} {k : Nat} (hacts : c.acts = [a]) (hdie : a.die < 4)
    (hserve : serveDie (seqAt c a.die).clock c.plan.cyc [a] = [{ a with k := k }]) :
    moveDies c = { (moveLines a.x (k - a.k) a.k c a.tiles).1 with
      acts := [{ a with k := k, tiles := (moveLines a.x (k - a.k) a.k c a.tiles).2 }] } := by
  have hnew : (List.range 4).flatMap (fun d => serveDie (seqAt c d).clock c.plan.cyc (c.acts.filter (fun a => a.die == d))) =
      [{ a with k := k }] := by
    have hone : ∀ d, serveDie (seqAt c d).clock c.plan.cyc ([a].filter (fun a => a.die == d)) =
        if d = a.die then [{ a with k := k }] else [] := by
      intro d
      split
      · next hd => subst hd; simpa using hserve
      · next hd => simp [Ne.symm hd, serveDie, serveAll]
    rw [hacts]
    simp only [hone]
    obtain hd | hd | hd | hd : a.die = 0 ∨ a.die = 1 ∨ a.die = 2 ∨ a.die = 3 := by omega
    all_goals rw [hd]; rfl
  unfold moveDies
  rw [hnew, hacts]
  cases hin : inboundAct a.x <;> simp [hin, moveActs, moveAct_single]

/-- In its cycle an act that is alone moves its lines, and nothing else happens. -/
theorem lineCycle_alone {c : Chip} {a : Act} {k : Nat} (hcalm : Calm c) (hacts : c.acts = [a]) (hfly : c.flying = [])
    (hdie : a.die < 4) (hqts : ∀ j q l n, a.x ≠ .qts j l q n) (hmld : ∀ j l r o n late, a.x ≠ .mld j l r o n late)
    (hcrcv : ∀ j m l, a.x ≠ .crcv j m l) (hserve : serveDie (seqAt c a.die).clock c.plan.cyc [a] = [{ a with k := k }]) :
    lineCycle c = { (moveLines a.x (k - a.k) a.k c a.tiles).1 with
      acts := [{ a with k := k, tiles := (moveLines a.x (k - a.k) a.k c a.tiles).2 }] } := by
  have hlanding : landing c = [] := by simp [landing, hfly]
  have hlanded : landed c = c := by
    have : c.flying.filter (fun f => decide (c.plan.cyc < f.cycle) || atStop f.what) = c.flying := by rw [hfly]; rfl
    rw [landed, this]
  have hmemory : withStage memoryStage c = c := withStage_id fun b hb => by
    rw [hacts, List.mem_singleton] at hb
    exact hb ▸ memoryStage_other hmld
  have hyard : yardActs c.acts c = (c, c.acts) := by
    rw [hacts]
    simp [yardActs, yardStage_other hcrcv]
  have hsort : sortBy (fun a b => decide (writerTile a < writerTile b)) [] = [] := rfl
  unfold lineCycle
  simp only [hlanding, hlanded, List.foldl_nil, hmemory, hsort, sortDue_same, hyard, mortarChecks_sound hcalm.sound,
    moveDies_single hacts hdie hserve]
  refine withStage_id fun b hb => ?_
  rw [List.mem_singleton.mp hb]
  exact queueStage_other hqts

/-- 05 R130 R131 R133 R135, 04 R108: when lines meet their banks. -/
theorem lineSchedule : LineSchedule := by
  refine ⟨fun k t a hslip hk hreads hwrites => ?_, ?_, ?_⟩
  · rw [serveDie_alone hslip hk hreads hwrites]
    split
    · rw [Nat.min_zero]
    · rfl
  · intro k t a b ha hb hbankA hbankB hmoreA hmoreB hdueA hdueB hbank horder
    exact serveDie_conflict ha hb hbankA hbankB hmoreA hmoreB hdueA hdueB hbank horder
  · intro c a hcalm hacts hfly hdie hslip hqts hmld hcrcv hk hlead hreads hwrites m r
    have hserve := serveDie_alone hslip hk hreads hwrites
    rw [if_neg (Nat.not_lt.mpr hlead)] at hserve
    have hmono : a.k + m = linesBy a (c.plan.cyc + 1) := by
      have hle : lineRate a.x * (c.plan.cyc - (a.s + a.lead)) ≤ lineRate a.x * (c.plan.cyc + 1 - (a.s + a.lead)) :=
        Nat.mul_le_mul_left _ (by omega)
      simp only [m, linesBy]
      omega
    rw [lineCycle_alone hcalm hacts hfly hdie hqts hmld hcrcv hserve, ← hmono, Nat.add_sub_cancel_left]

/-- Settles O50: elastic stall tile by tile, the gate of a program from what it performs before an issue, and the cycles of the
lines by induction on those of one cycle. -/
theorem issueAndStall : Obligations.IssueAndStall := ⟨elasticWait, issueGate, lineSchedule⟩

end Sys2Proof.Proofs
end

section
/-! PROOFS. Operands that the queues give, and a column that one vector passes (03 R75 R77 R78 R83 R89, 05 R126 R128). -/

namespace Sys2Proof.Proofs

open Sys2Proof Sys2Proof.Machine Sys2Proof.Claims Sys2Proof.Laws

/-! ## One tile changes -/

/-- Of a chip one tile changes, and nothing else. -/
structure OneTile (c d : Chip) (site : Nat) (u : Tile) : Prop where
  rest : d = { c with tiles := d.tiles }
  here : tileAt d site = u
  others : ∀ y, y ≠ site → tileAt d y = tileAt c y

theorem OneTile.refl (c : Chip) (site : Nat) : OneTile c c site (tileAt c site) := ⟨rfl, rfl, fun _ _ => rfl⟩

theorem OneTile.trans {c d e : Chip} {site : Nat} {u w : Tile} (h : OneTile c d site u) (g : OneTile d e site w) :
    OneTile c e site w := by
  refine ⟨?_, g.here, fun y hy => (g.others y hy).trans (h.others y hy)⟩
  rw [g.rest, h.rest]

theorem OneTile.modTile (c : Chip) (site : Nat) (f : Tile → Tile) :
    OneTile c (modTile c site f) site (f (tileAt c site)) :=
  ⟨rfl, tileAt_modTile_same .., fun _ hy => tileAt_modTile_ne _ _ hy⟩

theorem OneTile.modArr (c : Chip) (site : Nat) (f : Arr → Arr) :
    OneTile c (modArr c site f) site { tileAt c site with arr := f (tileAt c site).arr } :=
  OneTile.modTile c site fun t => { t with arr := f t.arr }

section
variable {c d : Chip} {site : Nat} {u : Tile} (h : OneTile c d site u)
include h

theorem OneTile.plan : d.plan = c.plan := by rw [h.rest]
theorem OneTile.flaws : d.flaws = c.flaws := by rw [h.rest]
theorem OneTile.err : d.err = c.err := by rw [h.rest]
theorem OneTile.acc : d.acc = c.acc := by rw [h.rest]
theorem OneTile.regs : d.regs = c.regs := by rw [h.rest]

end

/-! ## Operands that the queues give (03 R75 R81, 05 R126 R128) -/

theorem taken_append (u : Tile) (qs rs : List Nat) : taken u (qs ++ rs) = taken (taken u qs) rs := List.foldl_append ..

/-- Taking entries concerns the queues alone. -/
theorem taken_withArr (u : Tile) (a : Arr) (qs : List Nat) : taken { u with arr := a } qs = { taken u qs with arr := a } := by
  induction qs generalizing u with
  | nil => rfl
  | cons q rest ih => exact ih (setQueue u q (qTake (queueAt u q)))

theorem given_cons {now : Nat} {u : Tile} {q : Nat} {qs : List Nat} {d : DEntry} {ds : List DEntry} :
    Given now u (q :: qs) (d :: ds) ↔ ((∃ rest, (queueAt u q).entries = d :: rest) ∧ d.tag = (queueAt u q).pop ∧
      d.wrote + 2 ≤ now) ∧ Given now (setQueue u q (qTake (queueAt u q))) qs ds := by
  have htake : ∀ rest, (queueAt u q).entries = d :: rest →
      qTake (queueAt u q) = { queueAt u q with entries := rest, pop := ((queueAt u q).pop + 1) % 65536 } := by
    intro rest hrest
    simp [qTake, hrest]
  constructor
  · rintro ⟨rest, hrest, htag, hwrote, hgiven⟩
    exact ⟨⟨⟨rest, hrest⟩, htag, hwrote⟩, htake rest hrest ▸ hgiven⟩
  · rintro ⟨⟨⟨rest, hrest⟩, htag, hwrote⟩, hgiven⟩
    exact ⟨rest, hrest, htag, hwrote, htake rest hrest ▸ hgiven⟩

theorem given_length {now : Nat} {u : Tile} {qs : List Nat} {ds : List DEntry} (h : Given now u qs ds) :
    ds.length = qs.length := by
  induction qs generalizing u ds with
  | nil => cases ds with
    | nil => rfl
    | cons d ds => exact h.elim
  | cons q qs ih => cases ds with
    | nil => exact h.elim
    | cons d ds => rw [List.length_cons, List.length_cons, ih (given_cons.mp h).2]

theorem given_withArr {now : Nat} {u : Tile} {qs : List Nat} {ds : List DEntry} (h : Given now u qs ds) (a : Arr) :
    Given now { u with arr := a } qs ds := by
  induction qs generalizing u ds with
  | nil => cases ds with
    | nil => trivial
    | cons d ds => exact h.elim
  | cons q qs ih => cases ds with
    | nil => exact h.elim
    | cons d ds =>
      obtain ⟨hhead, hrest⟩ := given_cons.mp h
      exact given_cons.mpr ⟨hhead, ih hrest⟩

/-- Entries given one after the other are given in two parts. -/
theorem given_split {now : Nat} {u : Tile} {qs rs : List Nat} {ds ss : List DEntry} (h : Given now u (qs ++ rs) (ds ++ ss))
    (hlen : ds.length = qs.length) : Given now u qs ds ∧ Given now (taken u qs) rs ss := by
  induction qs generalizing u ds with
  | nil =>
    obtain rfl := List.length_eq_zero_iff.mp hlen
    exact ⟨trivial, h⟩
  | cons q qs ih => cases ds with
    | nil => cases hlen
    | cons d ds =>
      obtain ⟨hhead, hrest⟩ := given_cons.mp h
      obtain ⟨hfirst, hsecond⟩ := ih hrest (Nat.succ.inj hlen)
      exact ⟨given_cons.mpr ⟨hhead, hfirst⟩, hsecond⟩

/-- An operand is the head of its queue where that has its tag and came two cycles before (05 R126 R128). -/
theorem takeOperand_head {c : Chip} {site q : Nat} {d : DEntry} (hhead : ∃ rest, (queueAt (tileAt c site) q).entries = d :: rest)
    (htag : d.tag = (queueAt (tileAt c site) q).pop) (hwrote : d.wrote + 2 ≤ c.plan.cyc) : takeOperand c site q =
      (modTile c site (fun t => setQueue t q (qTake (queueAt (tileAt c site) q))), some d) := by
  obtain ⟨rest, hrest⟩ := hhead
  have hpeek : qPeek (queueAt (tileAt c site) q) c.plan.cyc = .got d := by
    simp [qPeek, hrest, htag, Nat.not_lt.mpr hwrote]
  rw [takeOperand, hpeek]

/-- The operands that the queues give are taken, and the tile is without them. -/
theorem takeOperands_given {site : Nat} {qs : List Nat} {ds : List DEntry} {c : Chip}
    (h : Given c.plan.cyc (tileAt c site) qs ds) : (takeOperands site qs c).2 = ds.map some ∧
      OneTile c (takeOperands site qs c).1 site (taken (tileAt c site) qs) := by
  induction qs generalizing c ds with
  | nil => cases ds with
    | nil => exact ⟨rfl, OneTile.refl c site⟩
    | cons d ds => exact h.elim
  | cons q qs ih => cases ds with
    | nil => exact h.elim
    | cons d ds =>
      obtain ⟨⟨hhead, htag, hwrote⟩, hrest⟩ := given_cons.mp h
      have hone := OneTile.modTile c site fun t => setQueue t q (qTake (queueAt (tileAt c site) q))
      obtain ⟨htaken, hnext⟩ := ih (c := modTile c site fun t => setQueue t q (qTake (queueAt (tileAt c site) q)))
        (ds := ds) (by rw [hone.here]; exact hrest)
      rw [takeOperands, takeOperand_head hhead htag hwrote]
      refine ⟨congrArg (some d :: ·) htaken, hone.trans ?_⟩
      rw [hone.here] at hnext
      exact hnext

/-! ## A column that one vector passes (03 R75 R77 R78 R83 R89) -/

/-- What a vector makes of a column that it writes, from what stands there or from −0. -/
def passedValue (fresh ie : Bool) (sums : Option (List (List Word))) (col : Nat) (old : Word) : Word :=
  match sums with
  | some s => columnAdd ie (if fresh then negZero else old) (s.getD col [])
  | none => if fresh then negZero else old

section
variable {b : Arr} {t e : Nat} {wide fresh ie : Bool} {sums : Option (List (List Word))} {bad : List Nat}
  (hops : b.ops = [.vec t e wide fresh ie sums bad []])
include hops

/-- A column before the vector writes it, or of those it does not write. -/
theorem accSeen_unpassed {y col at' : Nat} (h : ¬((y = e ∧ 2 * vecWrites t wide col < at') ∧ (wide = true → col < 64) ∧
    (fresh || sums.isSome) = true)) (fuel : Nat) :
    accSeen b y col fuel at' = (accAt b y col, nsMem b.accPoison (8 * y + col / 16)) := by
  refine accSeen_file (fun op hop => ?_) fuel
  rw [hops, List.mem_singleton] at hop
  rw [hop, Bool.eq_false_iff, Ne, changesBefore_iff]
  rintro ⟨w, hw, hlt⟩
  have hwrites := opWrites_vec hw
  simp only [opWrites, Option.ite_none_right_eq_some] at hw
  obtain ⟨⟨rfl, hcols, hsums⟩, -⟩ := hw
  refine h ⟨⟨rfl, by omega⟩, fun hwide => ?_, hsums⟩
  simpa [hwide] using hcols

/-- A column that the vector has written. -/
theorem accSeen_passed {y col n : Nat} (hy : y = e) (hlt : vecWrites t wide col < n) (hcols : wide = true → col < 64)
    (hsums : (fresh || sums.isSome) = true) : accSeen b y col 2 (2 * n) =
      (passedValue fresh ie sums col (accAt b y col),
        (!fresh && nsMem b.accPoison (8 * y + col / 16)) || bad.contains (col / 16)) := by
  have hwrites : opWrites (.vec t e wide fresh ie sums bad []) y col = some (2 * vecWrites t wide col) := by
    have hcols' : (!wide || decide (col < 64)) = true := by cases wide <;> simp_all
    rw [opWrites, if_pos ⟨hy.symm, hcols', hsums⟩]
  have hlast : lastWrite b.ops y col (2 * n) = some (.vec t e wide fresh ie sums bad []) := by
    rw [hops]
    exact lastWrite_append_last (ops := []) hwrites (by omega) (by simp)
  have hreads := vecReads_lt_vecWrites t wide col
  have hold := accSeen_unpassed hops (y := y) (col := col) (at' := 2 * vecReads t wide col)
    (by rintro ⟨⟨-, hlate⟩, -⟩; omega) 1
  rw [accSeen_succ, hlast]
  dsimp only
  rw [hold]
  cases fresh <;> cases sums <;> simp [passedValue, vecColumn]

/-- What a vector poisons as it passes, and what a fresh one clears. -/
theorem stickyBad_vector (y col n : Nat) : stickyBad b y col (2 * n) = true ↔
    ¬((y = e ∧ vecWrites t wide col < n) ∧ fresh = true ∧ (wide = true → col < 64)) ∧
        nsMem b.accPoison (8 * y + col / 16) = true ∨
      (y = e ∧ vecWrites t wide col < n) ∧ bad.contains (col / 16) = true := by
  have hcleans : opCleans (.vec t e wide fresh ie sums bad []) y col =
      if y = e ∧ fresh = true ∧ (wide = true → col < 64) then some (2 * vecWrites t wide col) else none := by
    cases fresh <;> cases wide <;> simp [opCleans, opWrites, eq_comm]
  have hclean : lastClean b.ops y col (2 * n) =
      if (y = e ∧ vecWrites t wide col < n) ∧ fresh = true ∧ (wide = true → col < 64) then some (2 * vecWrites t wide col)
      else none := by
    rw [hops, lastClean, List.filterMap_cons, hcleans]
    by_cases hcond : y = e ∧ fresh = true ∧ (wide = true → col < 64)
    · rw [if_pos hcond]
      by_cases hlt : vecWrites t wide col < n
      · rw [if_pos ⟨⟨hcond.1, hlt⟩, hcond.2⟩]
        simp [hlt]
      · rw [if_neg (fun h => hlt h.1.2)]
        simp [hlt]
    · rw [if_neg hcond, if_neg (fun h => hcond ⟨h.1.1, h.2⟩)]
      rfl
  have hpoisons : opPoisons (.vec t e wide fresh ie sums bad []) y col =
      if y = e ∧ bad.contains (col / 16) = true then some (2 * vecWrites t wide col) else none := by
    simp [opPoisons, eq_comm]
  have hafter : (lastClean b.ops y col (2 * n)).getD 0 ≤ 2 * vecWrites t wide col := by
    rw [hclean]
    split <;> simp
  rw [stickyBad_iff]
  refine or_congr (and_congr_left' ?_) ?_
  · rw [hclean, ite_eq_right_iff]
    exact ⟨fun h hc => Option.some_ne_none _ (h hc), fun h hc => absurd hc h⟩
  · rw [hops] at hafter ⊢
    simp only [List.mem_singleton, exists_eq_left, hpoisons, Option.ite_none_right_eq_some, Option.some.injEq]
    constructor
    · rintro ⟨w, ⟨⟨hy, hbad⟩, rfl⟩, hlt, -⟩
      exact ⟨⟨hy, by omega⟩, hbad⟩
    · rintro ⟨⟨hy, hlt⟩, hbad⟩
      exact ⟨_, ⟨⟨hy, hbad⟩, rfl⟩, by omega, hafter⟩

/-- The value of a column of an entry to which one vector is on its way. -/
theorem column_vector_value (y col n : Nat) : (column b y col n).1 =
    if (y = e ∧ vecWrites t wide col < n) ∧ (wide = true → col < 64) then passedValue fresh ie sums col (accAt b y col)
    else accAt b y col := by
  have hlen : b.ops.length + 1 = 2 := by rw [hops]; rfl
  unfold column
  rw [accRead_fst, hlen]
  by_cases hsums : (fresh || sums.isSome) = true
  · split
    · next h => rw [accSeen_passed hops h.1.1 h.1.2 h.2 hsums]
    · next h => rw [accSeen_unpassed hops (fun hc => h ⟨⟨hc.1.1, by omega⟩, hc.2.1⟩)]
  · have hvalue : passedValue fresh ie sums col (accAt b y col) = accAt b y col := by
      cases fresh <;> cases sums <;> simp_all [passedValue]
    rw [accSeen_unpassed hops (fun hc => hsums hc.2.2), hvalue, ite_self]

/-- The poison of a column of an entry to which one vector is on its way. -/
theorem column_vector_poison (y col n : Nat) : (column b y col n).2 = true ↔
    ¬((y = e ∧ vecWrites t wide col < n) ∧ fresh = true ∧ (wide = true → col < 64)) ∧
        nsMem b.accPoison (8 * y + col / 16) = true ∨
      (y = e ∧ vecWrites t wide col < n) ∧ bad.contains (col / 16) = true := by
  have hlen : b.ops.length + 1 = 2 := by rw [hops]; rfl
  unfold column
  rw [accRead_snd, hlen, stickyBad_vector hops]
  refine or_iff_right_of_imp fun hseen => ?_
  by_cases hpassed : ((y = e ∧ vecWrites t wide col < n) ∧ (wide = true → col < 64)) ∧ (fresh || sums.isSome) = true
  · obtain ⟨⟨⟨hy, hlt⟩, hcols⟩, hsums⟩ := hpassed
    rw [accSeen_passed hops hy hlt hcols hsums, Bool.or_eq_true, Bool.and_eq_true, Bool.not_eq_true'] at hseen
    rcases hseen with ⟨hfresh, hfile⟩ | hbad
    · exact .inl ⟨fun h => Bool.false_ne_true (hfresh.symm.trans h.2.1), hfile⟩
    · exact .inr ⟨⟨hy, hlt⟩, hbad⟩
  · rw [accSeen_unpassed hops (fun hc => hpassed ⟨⟨⟨hc.1.1, by omega⟩, hc.2.1⟩, hc.2.2⟩)] at hseen
    exact .inl ⟨fun h => hpassed ⟨⟨h.1, h.2.2⟩, by rw [h.2.1]; rfl⟩, hseen⟩

end

end Sys2Proof.Proofs
end

section
/-! PROOFS. The sums of a vector (03 R68 R69 R70 R71 R75). -/

namespace Sys2Proof.Proofs

open Sys2Proof Sys2Proof.Machine Sys2Proof.Claims Sys2Proof.Laws

/-! ## The sums of a vector (03 R68 R69 R70 R71 R75) -/

theorem outCols_eq (f : Fmt) : outCols f = columns f := rfl

/-- Of a pairing both formats have as many columns (03 R68). -/
theorem columns_of_pairing {wf f : Fmt} {qa : QSrc} (h : pairing (some wf) f qa = true) : outCols wf = columns f := by
  have hscale : noScale wf = noScale f := by
    cases wf <;> cases f <;> simp_all [pairing, noScale]
  rw [outCols_eq, columns, columns, hscale]

theorem getD_loadedRows (w : WTile) (f : Fmt) {r : Nat} (hr : r < 64) :
    (loadedRows w f).getD r 0 = leNat (slice w.cells (rowBytes f * r) (rowBytes f)) := by
  simp [loadedRows, hr]

/-- The weights of a row group of a column, where no upset has struck them. -/
theorem tileGroup_loaded {w : WTile} (hflips : w.flips = []) (f : Fmt) (col : Nat) {k : Nat} (hk : k < 4) :
    tileGroup w f (tileRows w f) col k = weightGroup w f col k := by
  have hrows : tileRows w f = loadedRows w f := by simp [tileRows, hflips]
  have hscale : ∀ b, tileScale w f col b =
      if w.scaled then (w.scales.getD (2 * cellElems f * col + b) 0x7F).toNat else 0x7F := fun b => by
    rw [tileScale, Nat.mul_comm col]
  rw [hrows, tileGroup, weightGroup]
  refine List.flatMap_congr fun r hr => ?_
  have hr := List.mem_range.mp hr
  dsimp only
  rw [getD_loadedRows w f (by omega)]
  simp only [hscale]

/-- The elements of a vector are packed in the bytes of its entries (03 R75). -/
theorem activation_eq (m : MStr) (p g k : Nat) : activation m p g k =
    elemVal m.f (packedElem (fmtWidth m.f) (leNat (vecBytes m)) (16 * p * g + k))
      (if m.qs.isSome then ((m.sc.flatMap (entryBytes 0x7F)).getD ((16 * p * g + k) / 32) 0x7F).toNat else 0x7F) := rfl

theorem actGroups_eq (m : MStr) (p : Nat) :
    actGroups m p = (List.range 4).map (fun k => (List.range (16 * p)).map (activation m p k)) := by
  unfold actGroups
  simp only [funext (activation_eq m p _)]

/-- The value that a row group adds to a column. -/
def groupWord (ie : Bool) (w : WTile) (wf : Fmt) (m : MStr) (col k : Nat) : Word :=
  (valF32 ie (groupSum (weightGroup w wf col k) ((List.range (16 * cellElems wf)).map (activation m (cellElems wf) k)))).1

/-- What a valid vector adds to a column: its four row groups in order (03 R71). -/
theorem streamSums_getD {a : Arr} (hflips : a.active.flips = []) (ie : Bool) (wf : Fmt) (m : MStr) {col : Nat}
    (hcol : col < outCols wf) : (streamSums ie a wf m).getD col [] = (List.range 4).map (groupWord ie a.active wf m col) := by
  have hweights : (List.range 4).map (tileGroup a.active wf (tileRows a.active wf) col) =
      (List.range 4).map (weightGroup a.active wf col) :=
    List.map_congr_left fun k hk => tileGroup_loaded hflips wf col (List.mem_range.mp hk)
  rw [streamSums, List.getD_eq_getElem?_getD, List.getElem?_map, List.getElem?_range hcol, Option.map_some, Option.getD_some,
    hweights, actGroups_eq, columnSums, List.zip_map', List.map_map]
  rfl

/-- The row groups are added one after the other, each sum rounded (03 R71). -/
theorem columnAdd_groups (ie : Bool) (w : WTile) (wf : Fmt) (m : MStr) (col : Nat) (old : Word) :
    columnAdd ie old ((List.range 4).map (groupWord ie w wf m col)) =
      (List.range 4).foldl (fun acc k => (addVal ie (f32 acc) (f32 (groupWord ie w wf m col k))).1) old := by
  rw [columnAdd, List.foldl_map]

end Sys2Proof.Proofs
end

section
/-! PROOFS. A vector in the stream port: it takes its operands and goes on its way (03 R74 R75 R77 R78 R81 R83 R87 R89). -/

namespace Sys2Proof.Proofs

open Sys2Proof Sys2Proof.Machine Sys2Proof.Claims Sys2Proof.Laws

/-! ## The vector in hand takes its last operands (03 R74 R75 R81) -/

/-- The vector in hand with these entries. -/
def inHand (m : MStr) (ds ss : List (Option DEntry)) : MStr := { m with got := m.got ++ ds, sc := m.sc ++ ss }

/-- The array after the swap that the first vector of an MSTR may make. -/
def swapped (m : MStr) (a : Arr) : Arr :=
  if m.swap = true ∧ m.done = 0 ∧ m.got.isEmpty = true ∧ m.sc.isEmpty = true then doSwap a else a

theorem swapped_swaps {m : MStr} (h : swapsNow m) (a : Arr) : swapped m a = doSwap a := by
  obtain ⟨hswap, hdone, hgot, hsc⟩ := h
  simp [swapped, hswap, hdone, hgot, hsc]

theorem swapped_stays {m : MStr} (h : ¬swapsNow m) (a : Arr) : swapped m a = a := by
  rw [swapped, if_neg]
  rintro ⟨hswap, hdone, hgot, hsc⟩
  exact h ⟨hswap, hdone, List.isEmpty_iff.mp hgot, List.isEmpty_iff.mp hsc⟩

theorem swapped_frame (m : MStr) (a : Arr) :
    swapped m a = { a with active := (swapped m a).active, shadow := (swapped m a).shadow } := by
  unfold swapped
  split <;> rfl

@[simp] theorem swapped_ops (m : MStr) (a : Arr) : (swapped m a).ops = a.ops := by rw [swapped_frame]
@[simp] theorem swapped_mask (m : MStr) (a : Arr) : (swapped m a).mask = a.mask := by rw [swapped_frame]
@[simp] theorem swapped_maskTaint (m : MStr) (a : Arr) : (swapped m a).maskTaint = a.maskTaint := by rw [swapped_frame]
@[simp] theorem swapped_acc (m : MStr) (a : Arr) : (swapped m a).acc = a.acc := by rw [swapped_frame]
@[simp] theorem swapped_accPoison (m : MStr) (a : Arr) : (swapped m a).accPoison = a.accPoison := by rw [swapped_frame]

/-- The chip after the swap that the first vector of an MSTR may make in a tile. -/
def swapIn (c : Chip) (site : Nat) (m : MStr) : Chip :=
  if m.swap = true ∧ m.done = 0 ∧ m.got.isEmpty = true ∧ m.sc.isEmpty = true then modArr c site doSwap else c

theorem swapIn_oneTile (c : Chip) (site : Nat) (m : MStr) :
    OneTile c (swapIn c site m) site { tileAt c site with arr := swapped m (tileAt c site).arr } := by
  unfold swapIn swapped
  split
  · exact OneTile.modArr c site doSwap
  · exact OneTile.refl c site

/-- A cycle of the stream port in which the vector in hand gets the last of its operands, present or missing: it goes on its
way. -/
theorem strCycle_whole {c x y : Chip} {site : Nat} {m : MStr} {after : List StrCmd} {got sc : List (Option DEntry)}
    (hhead : (tileAt c site).arr.str = .mstr m :: after) (hdue : presentAt m ≤ c.plan.cyc - (tileAt c site).lag)
    (hgot : takeOperands site (dataQueues m (c.plan.cyc - (tileAt c site).lag)) (swapIn c site m) = (x, got))
    (hsc : takeOperands site (vecScaleQueues m (c.plan.cyc - (tileAt c site).lag)) x = (y, sc))
    (hwhole : vecWhole (inHand m got sc) (c.plan.cyc - (tileAt c site).lag) = true) :
    strCycle c site = modArr (streamVector y site (presentAt m) (inHand m got sc)) site
      (fun a => { a with str := nextVector (inHand m got sc) ++ after }) := by
  have hclock : arrClock c (tileAt c site) = c.plan.cyc - (tileAt c site).lag := rfl
  have hswap : (if m.swap = true ∧ m.done = 0 ∧ m.got.isEmpty = true ∧ m.sc.isEmpty = true then modArr c site doSwap else c) =
      swapIn c site m := rfl
  unfold strCycle
  simp only [hhead, hclock, if_neg (Nat.not_lt.mpr hdue), hswap, hgot, hsc]
  exact if_pos hwhole

/-- A cycle of the stream port in which the vector in hand gets its last operands: they are taken, and it goes on its way. -/
theorem strCycle_presents {c : Chip} {site : Nat} {m : MStr} {after : List StrCmd} {ds ss : List DEntry}
    (h : Presents c site m after ds ss) : ∃ y, OneTile c y site
      { taken (tileAt c site) (dataQueues m (c.plan.cyc - (tileAt c site).lag) ++
          vecScaleQueues m (c.plan.cyc - (tileAt c site).lag)) with arr := swapped m (tileAt c site).arr } ∧
      strCycle c site = modArr (streamVector y site (presentAt m) (inHand m (ds.map some) (ss.map some))) site
        (fun a => { a with str := nextVector (inHand m (ds.map some) (ss.map some)) ++ after }) := by
  have hswap := swapIn_oneTile c site m
  obtain ⟨hdata, hscale⟩ := given_split h.given h.split
  obtain ⟨hgot, hfirst⟩ := takeOperands_given (c := swapIn c site m) (site := site)
    (by rw [hswap.plan, hswap.here]; exact given_withArr hdata _)
  generalize hx : takeOperands site (dataQueues m (c.plan.cyc - (tileAt c site).lag)) (swapIn c site m) = x at hgot hfirst
  have hone := hswap.trans hfirst
  rw [hswap.here, taken_withArr] at hone
  obtain ⟨hsc, hsecond⟩ := takeOperands_given (c := x.1) (site := site)
    (by rw [hone.plan, hone.here]; exact given_withArr hscale _)
  generalize hy : takeOperands site (vecScaleQueues m (c.plan.cyc - (tileAt c site).lag)) x.1 = y at hsc hsecond
  have hboth := hone.trans hsecond
  rw [hone.here, taken_withArr, ← taken_append] at hboth
  exact ⟨y.1, hboth, strCycle_whole h.head h.due (hx.trans (Prod.ext rfl hgot)) (hy.trans (Prod.ext rfl hsc)) h.whole⟩

/-! ## A vector goes on its way (03 R77 R78 R83 R87 R89) -/

theorem accFresh_sound {c : Chip} (h : c.flaws = []) (site e lo hi : Nat) : accFresh c site e lo hi = c := by
  rw [accFresh, flawsOf_sound h, List.foldl_nil]

theorem upsetWeights_sound {c : Chip} (h : c.flaws = []) (site : Nat) : upsetWeights c site = c := by
  rw [upsetWeights, flawsOf_sound h, List.foldl_nil]

/-- A vector is put on its way to its entry where no error strikes. -/
theorem putVector_sound {c : Chip} (hs : c.flaws = []) (site t : Nat) (m : MStr) (sums : Option (List (List Word)))
    (bad : List Nat) (ups : List AddUpset) : putVector c site t m sums bad ups = modArr c site (fun a =>
      { foldEntry t a ((m.e + m.done) % 256) with
        ops := (foldEntry t a ((m.e + m.done) % 256)).ops ++
          [.vec t ((m.e + m.done) % 256) (noScale m.f) m.fresh (ieee c) sums bad ups] }) := by
  unfold putVector
  simp only [accFresh_sound hs, accCheck_sound hs, ite_self]

/-- It is alone on its way where nothing else is. -/
theorem putVector_oneTile {c : Chip} (hs : c.flaws = []) {site : Nat} (hops : (tileAt c site).arr.ops = []) (t : Nat) (m : MStr)
    (sums : Option (List (List Word))) (bad : List Nat) (ups : List AddUpset) :
    OneTile c (putVector c site t m sums bad ups) site { tileAt c site with arr := { (tileAt c site).arr with
      ops := [.vec t ((m.e + m.done) % 256) (noScale m.f) m.fresh (ieee c) sums bad ups] } } := by
  have hset : Settled (tileAt c site).arr ((m.e + m.done) % 256) := fun op hop => by rw [hops] at hop; cases hop
  have hone := OneTile.modArr c site (fun a =>
      { foldEntry t a ((m.e + m.done) % 256) with
        ops := (foldEntry t a ((m.e + m.done) % 256)).ops ++
          [.vec t ((m.e + m.done) % 256) (noScale m.f) m.fresh (ieee c) sums bad ups] })
  rw [← putVector_sound hs, foldEntry_settled hset, hops] at hone
  exact hone

/-- What the checks of a vector report does not concern the tiles, and strikes nothing anew. -/
theorem weightFails_tiles (w : WTile) (wf : Fmt) (acts : List (List FVal)) (site e : Nat) (l : List (Nat × Nat)) (x : Checked) :
    (l.foldl (weightFails w wf acts site e) x).chip.tiles = x.chip.tiles ∧
      (l.foldl (weightFails w wf acts site e) x).chip.flaws = x.chip.flaws := by
  induction l generalizing x with
  | nil => exact ⟨rfl, rfl⟩
  | cons g rest ih =>
    have hstep : (weightFails w wf acts site e x g).chip.tiles = x.chip.tiles ∧
        (weightFails w wf acts site e x g).chip.flaws = x.chip.flaws := by
      unfold weightFails
      split <;> exact ⟨rfl, rfl⟩
    rw [List.foldl_cons]
    exact ⟨(ih _).1.trans hstep.1, (ih _).2.trans hstep.2⟩

theorem injArray_none {c : Chip} (h : c.err.inj = none) (site : Nat) : injArray c site = none := by
  simp [injArray, injFor, h]

theorem validSums_frame (c : Chip) (a : Arr) (m : MStr) : (validSums c a m).1.tiles = c.tiles ∧
    (validSums c a m).1.flaws = c.flaws ∧ (validSums c a m).1.err = c.err := by
  unfold validSums
  split
  · split <;> exact ⟨rfl, rfl, rfl⟩
  · exact ⟨rfl, rfl, rfl⟩

theorem meetUpsets_tiles {c : Chip} (hs : c.flaws = []) (site : Nat) (a : Arr) (m : MStr) (sums : List (List Word)) :
    (meetUpsets c site a m sums).chip.tiles = c.tiles ∧ (meetUpsets c site a m sums).chip.flaws = c.flaws := by
  unfold meetUpsets
  split
  · simp only [flawsOf_sound hs, List.foldl_nil]
    exact weightFails_tiles ..
  · exact ⟨rfl, rfl⟩

/-- An operand of the vector in hand is missing. -/
def missing (m : MStr) : Bool := (vecEntries m).any (·.isNone) || m.sc.any (·.isNone)

/-- An operand of the vector in hand is poisoned. -/
def hurt (m : MStr) : Bool := (vecEntries m ++ m.sc).any (fun x => match x with
  | some x => x.poison
  | none => false)

/-- What the vector in hand forms is poisoned in every column: by an operand, or by the mask (03 R89). -/
def taintIn (m : MStr) (a : Arr) : Bool := hurt m || (m.mask && a.maskTaint)

/-- Where a vector is gated every cell is, for as many cycles as it takes (log 17). -/
def allGated (f : Fmt) : Nat := if noScale f then 16384 else 8192

section
variable {c : Chip} {site t : Nat} {m : MStr}

/-- The vector in hand is valid, or forms no product (03 R77 R83). -/
theorem streamVector_eq (c : Chip) (site t : Nat) (m : MStr) :
    let a := (tileAt c site).arr
    streamVector c site t m =
      if (!missing m && (!m.mask || a.mask.testBit m.done)) = true then
        let c := upsetWeights c site
        let a' := (tileAt c site).arr
        let r := validSums c a' m
        let k := checkVector r.1 site a' m r.2
        putVector k.chip site t m (some k.sums)
          (if (hurt m || missing m || (m.mask && a.maskTaint)) = true then List.range 8 else a'.active.bad ++ k.bad) k.ups
      else
        let c := bump c (key 0x3030 5) (allGated m.f)
        let c := if missing m then c else bump c (key 0x3030 2) 1
        if (m.fresh || missing m) = true then putVector c site t m none
          (if (hurt m || missing m || (m.mask && a.maskTaint)) = true then List.range 8 else []) [] else c := rfl

/-- A valid vector is checked and put on its way (03 R87 R89). -/
theorem streamVector_valid {a : Arr} (ha : (tileAt c site).arr = a) (hs : c.flaws = []) (hi : c.err.inj = none)
    (hfound : missing m = false) (hmask : m.mask = true → a.mask.testBit m.done = true) :
    let k := meetUpsets (validSums c a m).1 site a m (validSums c a m).2
    streamVector c site t m =
      putVector k.chip site t m (some k.sums) (if taintIn m a then List.range 8 else a.active.bad ++ k.bad) k.ups := by
  have hvalid : (!missing m && (!m.mask || a.mask.testBit m.done)) = true := by
    cases h : m.mask
    · simp [hfound]
    · simpa [hfound] using hmask h
  have hcheck : checkVector (validSums c a m).1 site a m (validSums c a m).2 =
      meetUpsets (validSums c a m).1 site a m (validSums c a m).2 := by
    rw [checkVector, injArray_none ((validSums_frame c a m).2.2 ▸ hi)]
  rw [streamVector_eq, ha, if_pos hvalid, upsetWeights_sound hs, hfound, Bool.or_false]
  simp only [ha, hcheck]
  rfl

/-- A vector that the mask leaves out is counted, its cells gated; a fresh one starts its entry from −0 (03 R77). -/
theorem streamVector_masked (hfound : missing m = false) (hmask : m.mask = true)
    (hout : (tileAt c site).arr.mask.testBit m.done = false) :
    let k := bump (bump c (key 0x3030 5) (allGated m.f)) (key 0x3030 2) 1
    streamVector c site t m = if m.fresh then
      putVector k site t m none (if taintIn m (tileAt c site).arr then List.range 8 else []) [] else k := by
  have hvalid : ¬(!missing m && (!m.mask || (tileAt c site).arr.mask.testBit m.done)) = true := by
    simp [hmask, hout]
  rw [streamVector_eq, if_neg hvalid, hfound]
  simp only [Bool.or_false, Bool.false_eq_true, if_false]
  rfl

/-- A vector whose operands are not all there has its cells gated and poisons its entry (03 R83). -/
theorem streamVector_missing (hmiss : missing m = true) : streamVector c site t m =
    putVector (bump c (key 0x3030 5) (allGated m.f)) site t m none (List.range 8) [] := by
  have hvalid : ¬(!missing m && (!m.mask || (tileAt c site).arr.mask.testBit m.done)) = true := by simp [hmiss]
  rw [streamVector_eq, if_neg hvalid, hmiss]
  simp only [Bool.or_true, Bool.true_or, if_true]

/-- A valid vector leaves the weights. -/
theorem streamVector_active {a : Arr} (ha : (tileAt c site).arr = a) (hs : c.flaws = []) (hi : c.err.inj = none)
    (hfound : missing m = false) (hmask : m.mask = true → a.mask.testBit m.done = true) :
    (tileAt (streamVector c site t m) site).arr.active = a.active := by
  obtain ⟨htiles, hflaws, -⟩ := validSums_frame c a m
  have hmeet := meetUpsets_tiles (hflaws.trans hs) site a m (validSums c a m).2
  rw [streamVector_valid ha hs hi hfound hmask, putVector_sound (hmeet.2.trans (hflaws.trans hs)), modArr, tileAt_modTile_same,
    foldEntry_frame, tileAt, hmeet.1, htiles, ← ha]
  rfl

/-- Weights that no upset has struck fail no check. -/
theorem meetUpsets_none (hs : c.flaws = []) {a : Arr} (hflips : a.active.flips = []) (sums : List (List Word)) :
    meetUpsets c site a m sums = ⟨c, sums, [], []⟩ := by
  unfold meetUpsets
  split
  · simp [upsetGroups, hflips, flawsOf_sound hs]
  · rfl

/-- A valid vector of a pairing, no upset struck: it is counted with its gated cells, and put on its way with its sums. -/
theorem streamVector_sums {a : Arr} {wf : Fmt} (ha : (tileAt c site).arr = a) (hs : c.flaws = []) (hi : c.err.inj = none)
    (hfound : missing m = false) (hmask : m.mask = true → a.mask.testBit m.done = true)
    (hfmt : a.active.fmt = some wf) (hpair : pairing (some wf) m.f m.qa = true) (hflips : a.active.flips = []) :
    ∃ gated, streamVector c site t m = putVector (bump (bump c (key 0x3030 1) 1) (key 0x3030 5) gated) site t m
      (some (streamSums (ieee c) a wf m)) (if taintIn m a then List.range 8 else a.active.bad) [] := by
  have hsums : validSums c a m = (bump (bump c (key 0x3030 1) 1) (key 0x3030 5)
      (gatedCells m.f wf m (tileRows a.active wf)), streamSums (ieee c) a wf m) := by
    unfold validSums
    rw [hfmt]
    exact if_pos hpair
  refine ⟨gatedCells m.f wf m (tileRows a.active wf), ?_⟩
  rw [streamVector_valid ha hs hi hfound hmask, hsums]
  dsimp only
  rw [meetUpsets_none (by exact hs) hflips, List.append_nil]

end

/-! ## What a vector leaves -/

/-- A vector leaves the entries taken, the port, the swap and counts, whatever it puts on its way. -/
theorem vectorLeaves_of {c x k d : Chip} {site : Nat} {m : MStr} {after : List StrCmd} {ds ss : List (Option DEntry)}
    {ops : List AccOp}
    (hx : OneTile c x site { taken (tileAt c site) (dataQueues m (c.plan.cyc - (tileAt c site).lag) ++
      vecScaleQueues m (c.plan.cyc - (tileAt c site).lag)) with arr := swapped m (tileAt c site).arr })
    (hk : k = { x with acc := { x.acc with counts := k.acc.counts } })
    (hd : OneTile k d site { tileAt x site with arr := { swapped m (tileAt c site).arr with
      ops := ops, str := portAfter m (inHand m ds ss) ++ after } }) :
    VectorLeaves c d site m (inHand m ds ss) after (tileAt d site) := by
  have htiles : ∀ y, tileAt k y = tileAt x y := fun y => by rw [hk]; rfl
  have harr : (tileAt d site).arr = { swapped m (tileAt c site).arr with
      ops := ops, str := portAfter m (inHand m ds ss) ++ after } := by rw [hd.here]
  refine ⟨?_, fun y hy => ?_, ?_, fun hswap => ?_, fun hswap => ?_⟩
  · rw [hd.rest, hk, hx.rest]
  · rw [hd.others y hy, htiles, hx.others y hy]
  · rw [hd.here, hx.here, swapped_frame]
  · rw [harr, swapped_swaps hswap]
    exact ⟨rfl, rfl⟩
  · rw [harr, swapped_stays hswap]
    exact ⟨rfl, rfl⟩

/-- The columns of an entry that a vector on its way passes, in the words of the spec (03 R68 R75 R78). -/
theorem column_passed {a b : Arr} {t e : Nat} {f : Fmt} {fresh ie : Bool} {sums : Option (List (List Word))} {bad : List Nat}
    (hacc : b.acc = a.acc) (hpoison : b.accPoison = a.accPoison)
    (hops : b.ops = [.vec t e (noScale f) fresh ie sums bad []]) (hstill : a.ops = []) {col : Nat} (hcol : col < 128)
    (y n : Nat) :
    let old := column a y col n
    let passed := y = e ∧ writtenAt t f col < n
    (column b y col n).1 = (if passed ∧ col < columns f then passedValue fresh ie sums col old.1 else old.1) ∧
      ((column b y col n).2 = true ↔
        ((passed ∧ fresh = true ∧ col < columns f) → False) ∧ old.2 = true ∨ passed ∧ bad.contains (col / 16) = true) := by
  intro old passed
  have hset : Settled a y := fun op hop => by rw [hstill] at hop; cases hop
  have hold : old = (accAt b y col, nsMem b.accPoison (8 * y + col / 16)) := by
    simp only [old, column]
    rw [accRead_settled hset, accAt, accAt, hacc, hpoison]
  have hcols : (noScale f = true → col < 64) ↔ col < columns f := by
    cases h : noScale f <;> simp [columns, h, hcol]
  rw [column_vector_value hops, column_vector_poison hops, hold]
  simp only [hcols]
  exact ⟨rfl, Iff.rfl⟩

theorem contains_granules {b : Bool} {l : List Nat} {g : Nat} (hg : g < 8) :
    (if b then List.range 8 else l).contains g = true ↔ b = true ∨ l.contains g = true := by
  cases b <;> simp [hg]

theorem found_presents {c : Chip} {site : Nat} {m : MStr} {after : List StrCmd} {ds ss : List DEntry}
    (h : Presents c site m after ds ss) : missing (inHand m (ds.map some) (ss.map some)) = false := by
  have hgot : ∀ x ∈ (inHand m (ds.map some) (ss.map some)).got, x.isNone = false := by
    intro x hx
    rcases List.mem_append.mp hx with hx | hx
    · exact Option.isNone_eq_false_iff.mpr (h.found x (List.mem_append_left _ hx))
    · obtain ⟨d, -, rfl⟩ := List.mem_map.mp hx
      rfl
  have hsc : ∀ x ∈ (inHand m (ds.map some) (ss.map some)).sc, x.isNone = false := by
    intro x hx
    rcases List.mem_append.mp hx with hx | hx
    · exact Option.isNone_eq_false_iff.mpr (h.found x (List.mem_append_right _ hx))
    · obtain ⟨d, -, rfl⟩ := List.mem_map.mp hx
      rfl
  have hentries : ∀ x ∈ vecEntries (inHand m (ds.map some) (ss.map some)), x.isNone = false := by
    intro x hx
    unfold vecEntries at hx
    split at hx
    · exact hgot x (List.mem_of_mem_drop (List.mem_of_mem_take hx))
    · exact hgot x hx
  rw [missing, Bool.or_eq_false_iff, List.any_eq_false, List.any_eq_false]
  exact ⟨fun x hx => by simp [hentries x hx], fun x hx => by simp [hsc x hx]⟩

end Sys2Proof.Proofs
end

section
/-! PROOFS. Valid vectors (03 R68 to R71 R74 R75 R77 R78 R81 R89 R91). -/

namespace Sys2Proof.Proofs

open Sys2Proof Sys2Proof.Machine Sys2Proof.Claims Sys2Proof.Laws

theorem ieee_congr {c d : Chip} (h : d.regs = c.regs) : ieee d = ieee c := by
  simp only [ieee, reg, h]

/-- The stream port goes on after the vector that is on its way. -/
theorem oneTile_port {x k e : Chip} {site : Nat} {m : MStr} {a : Arr} {after : List StrCmd} {ds ss : List (Option DEntry)}
    {ops : List AccOp} (hxarr : (tileAt x site).arr = a)
    (he : OneTile k e site { tileAt x site with arr := { (tileAt x site).arr with ops := ops } }) :
    OneTile k (modArr e site (fun a => { a with str := nextVector (inHand m ds ss) ++ after })) site
      { tileAt x site with arr := { a with ops := ops, str := portAfter m (inHand m ds ss) ++ after } } := by
  have hone := he.trans (OneTile.modArr e site (fun a => { a with str := nextVector (inHand m ds ss) ++ after }))
  rw [he.here, hxarr] at hone
  exact hone

section
variable {c : Chip} {site : Nat} {m : MStr} {after : List StrCmd} {ds ss : List DEntry} (h : Presents c site m after ds ss)
include h

/-- A valid vector meets the weights that stand in the active registers after its swap. -/
theorem active_strCycle (hmask : m.mask = true → (tileAt c site).arr.mask.testBit m.done = true) :
    (tileAt (strCycle c site) site).arr.active = (swapped m (tileAt c site).arr).active := by
  obtain ⟨x, hx, hd⟩ := strCycle_presents h
  have hxarr : (tileAt x site).arr = swapped m (tileAt c site).arr := by rw [hx.here]
  rw [hd, modArr, tileAt_modTile_same]
  exact streamVector_active hxarr (hx.flaws.trans h.sound) (hx.err ▸ h.calm) (found_presents h)
    (by rw [swapped_mask]; exact hmask)

/-- What the cycle of a valid vector makes of the chip: its operands are taken, it is counted, and it is on its way. -/
theorem strCycle_valid {wf : Fmt} (hmask : m.mask = true → (tileAt c site).arr.mask.testBit m.done = true)
    (hfmt : (swapped m (tileAt c site).arr).active.fmt = some wf) (hpair : pairing (some wf) m.f m.qa = true)
    (hflips : (swapped m (tileAt c site).arr).active.flips = []) :
    let a := swapped m (tileAt c site).arr
    let v := inHand m (ds.map some) (ss.map some)
    ∃ x gated, OneTile c x site { taken (tileAt c site) (dataQueues m (c.plan.cyc - (tileAt c site).lag) ++
        vecScaleQueues m (c.plan.cyc - (tileAt c site).lag)) with arr := a } ∧
      OneTile (bump (bump x (key 0x3030 1) 1) (key 0x3030 5) gated) (strCycle c site) site
        { tileAt x site with arr := { a with
          ops := [.vec (presentAt m) ((m.e + m.done) % 256) (noScale m.f) m.fresh (ieee c)
            (some (streamSums (ieee c) a wf v)) (if taintIn v a then List.range 8 else a.active.bad) []]
          str := portAfter m v ++ after } } := by
  intro a v
  obtain ⟨x, hx, hd⟩ := strCycle_presents h
  have hxarr : (tileAt x site).arr = a := by rw [hx.here]
  obtain ⟨gated, hstream⟩ := streamVector_sums (t := presentAt m) (m := v) hxarr (hx.flaws.trans h.sound) (hx.err ▸ h.calm)
    (found_presents h) (by rw [swapped_mask]; exact hmask) hfmt hpair hflips
  have hput := putVector_oneTile (c := bump (bump x (key 0x3030 1) 1) (key 0x3030 5) gated) (site := site)
    (hx.flaws.trans h.sound) (by rw [bump_tileAt, bump_tileAt, hxarr, swapped_ops]; exact h.still) (presentAt m) v
    (some (streamSums (ieee x) a wf v)) (if taintIn v a then List.range 8 else a.active.bad) []
  rw [← hstream] at hput
  have hone := oneTile_port (m := m) (after := after) (ds := ds.map some) (ss := ss.map some) hxarr hput
  rw [← hd, show ieee (bump (bump x (key 0x3030 1) 1) (key 0x3030 5) gated) = ieee c from ieee_congr hx.regs,
    ieee_congr hx.regs] at hone
  exact ⟨x, gated, hx, hone⟩

end

/-- Two counters of the step that rise, one after the other. -/
theorem counts_bump_bump {c x d : Chip} {k l p q : Nat} (hkl : k ≠ l) (hx : x.acc = c.acc)
    (hd : d.acc = (bump (bump x k p) l q).acc) : Counts c d k p [l] ∧ Counts c d l q [k] := by
  have hcounts : ∀ j, smGet 0 d.acc.counts j = if j = l then smGet 0 c.acc.counts l + q
      else if j = k then smGet 0 c.acc.counts k + p else smGet 0 c.acc.counts j := by
    intro j
    rw [hd, smGet_bump, smGet_bump, smGet_bump, hx, if_neg hkl.symm]
  refine ⟨⟨?_, fun j hj hl => ?_⟩, ?_, fun j hj hk => ?_⟩
  · rw [hcounts, if_neg hkl, if_pos rfl]
  · rw [hcounts, if_neg (by simpa using hl), if_neg hj]
  · rw [hcounts, if_pos rfl]
  · rw [hcounts, if_neg hj, if_neg (by simpa using hk)]

/-- 03 R68 to R71 R74 R75 R77 R78 R81 R89 R91: a valid vector. -/
theorem streamVectors : StreamVectors := by
  intro c site m wf after ds ss h u d u' v e w taint hfmt hpair hflips hmask
  have hactive : w = (swapped m u.arr).active := active_strCycle h hmask
  rw [hactive] at hfmt hflips
  obtain ⟨x, gated, hx, hone⟩ := strCycle_valid h hmask hfmt hpair hflips
  refine ⟨vectorLeaves_of hx rfl hone, (counts_bump_bump (by decide) hx.acc hone.acc).1, fun y col n hcol => ?_⟩
  have harr : u'.arr = _ := congrArg Tile.arr hone.here
  obtain ⟨hvalue, hpoison⟩ := column_passed (a := u.arr) (b := u'.arr) (by rw [harr]; exact swapped_acc m u.arr)
    (by rw [harr]; exact swapped_accPoison m u.arr) (by rw [harr]) h.still hcol y n
  refine ⟨hvalue.trans (ite_congr rfl (fun hc => ?_) fun _ => rfl), hpoison.trans (or_congr_right (and_congr_right fun _ => ?_))⟩
  · have hcols : col < outCols wf := (columns_of_pairing hpair).symm ▸ hc.2
    rw [passedValue, streamSums_getD hflips _ _ _ hcols, columnAdd_groups, ← hactive]
    rfl
  · rw [contains_granules (by omega), hactive, taintIn, swapped_maskTaint]
    rfl

end Sys2Proof.Proofs
end

section
/-! PROOFS. Vectors that form no product: masked, or with an operand missing (03 R77 R83). -/

namespace Sys2Proof.Proofs

open Sys2Proof Sys2Proof.Machine Sys2Proof.Claims Sys2Proof.Laws

/-! ## Vectors that form no product (03 R77 R83) -/

/-- A column of an entry that a vector without a product passes, with what the column was: a fresh one starts it from −0, and
`bad` poisons it. -/
def BubbleColumn (a b : Arr) (m : MStr) (bad : Bool) (y col n : Nat) : Prop :=
  let old := column a y col n
  let passed := y = (m.e + m.done) % 256 ∧ writtenAt (presentAt m) m.f col < n
  (column b y col n).1 = (if passed ∧ m.fresh = true ∧ col < columns m.f then 0x80000000 else old.1) ∧
    ((column b y col n).2 = true ↔
      ((passed ∧ m.fresh = true ∧ col < columns m.f) → False) ∧ old.2 = true ∨ passed ∧ bad = true)

section
variable {a b : Arr} {m : MStr} (hacc : b.acc = a.acc) (hpoison : b.accPoison = a.accPoison) (hstill : a.ops = [])
include hacc hpoison hstill

/-- A vector without a product on its way. -/
theorem bubbleColumn_put {ie bad : Bool} (hops : b.ops = [.vec (presentAt m) ((m.e + m.done) % 256) (noScale m.f) m.fresh ie none
    (if bad then List.range 8 else []) []]) {col : Nat} (hcol : col < 128) (y n : Nat) : BubbleColumn a b m bad y col n := by
  obtain ⟨hvalue, hbad⟩ := column_passed hacc hpoison hops hstill hcol y n
  refine ⟨hvalue.trans ?_, hbad.trans (or_congr_right (and_congr_right fun _ => ?_))⟩
  · cases hfresh : m.fresh <;> simp [passedValue, negZero]
  · rw [contains_granules (by omega)]
    simp

/-- Nothing on its way. -/
theorem bubbleColumn_none (hops : b.ops = []) (hfresh : m.fresh = false) (y col n : Nat) : BubbleColumn a b m false y col n := by
  have hset : ∀ x : Arr, x.ops = [] → Settled x y := fun x hx op hop => by rw [hx] at hop; cases hop
  have hsame : column b y col n = column a y col n := by
    rw [column, column, accRead_settled (hset a hstill), accRead_settled (hset b hops), accAt, accAt, hacc, hpoison]
  simp [BubbleColumn, hsame, hfresh]

end

theorem withOps_self {a : Arr} {ops : List AccOp} (h : a.ops = ops) : { a with ops := ops } = a := by
  subst h
  rfl

/-- What the cycle of a vector that the mask leaves out makes of the chip. -/
theorem strCycle_masked {c : Chip} {site : Nat} {m : MStr} {after : List StrCmd} {ds ss : List DEntry}
    (h : Presents c site m after ds ss) (hmask : m.mask = true) (hout : (tileAt c site).arr.mask.testBit m.done = false) :
    let a := swapped m (tileAt c site).arr
    let v := inHand m (ds.map some) (ss.map some)
    ∃ x, OneTile c x site { taken (tileAt c site) (dataQueues m (c.plan.cyc - (tileAt c site).lag) ++
        vecScaleQueues m (c.plan.cyc - (tileAt c site).lag)) with arr := a } ∧
      OneTile (bump (bump x (key 0x3030 5) (allGated m.f)) (key 0x3030 2) 1) (strCycle c site) site
        { tileAt x site with arr := { a with
          ops := if m.fresh then [.vec (presentAt m) ((m.e + m.done) % 256) (noScale m.f) m.fresh (ieee c) none
            (if taintIn v a then List.range 8 else []) []] else []
          str := portAfter m v ++ after } } := by
  intro a v
  obtain ⟨x, hx, hd⟩ := strCycle_presents h
  have hxarr : (tileAt x site).arr = a := by rw [hx.here]
  have hxops : (tileAt x site).arr.ops = [] := by rw [hxarr, swapped_ops]; exact h.still
  have hstream := streamVector_masked (c := x) (site := site) (t := presentAt m) (m := v) (found_presents h) hmask
    (by rw [hxarr, swapped_mask]; exact hout)
  dsimp only at hstream
  rw [hxarr] at hstream
  refine ⟨x, hx, ?_⟩
  rw [hd, hstream]
  refine oneTile_port hxarr ?_
  cases hfresh : m.fresh with
  | true =>
    have hput := putVector_oneTile (c := bump (bump x (key 0x3030 5) (allGated m.f)) (key 0x3030 2) 1) (site := site)
      (hx.flaws.trans h.sound) hxops (presentAt m) v none (if taintIn v a then List.range 8 else []) []
    rw [show ieee (bump (bump x (key 0x3030 5) (allGated m.f)) (key 0x3030 2) 1) = ieee c from ieee_congr hx.regs,
      show v.fresh = true from hfresh] at hput
    rw [show v.fresh = true from hfresh]
    exact hput
  | false =>
    rw [show v.fresh = false from hfresh]
    simp only [Bool.false_eq_true, if_false]
    rw [withOps_self hxops]
    exact OneTile.refl _ site

/-- 03 R77: a vector that the mask leaves out. -/
theorem masked_vector {c : Chip} {site : Nat} {m : MStr} {after : List StrCmd} {ds ss : List DEntry}
    (h : Presents c site m after ds ss) (hmask : m.mask = true) (hout : (tileAt c site).arr.mask.testBit m.done = false) :
    let d := strCycle c site
    let v := inHand m (ds.map some) (ss.map some)
    VectorLeaves c d site m v after (tileAt d site) ∧
      Counts c d (key 0x3030 2) 1 [key 0x3030 5] ∧ Counts c d (key 0x3030 5) (allGated m.f) [key 0x3030 2] ∧
      ∀ y col n, col < 128 → BubbleColumn (tileAt c site).arr (tileAt d site).arr m
        (m.fresh && ((tileAt c site).arr.maskTaint || hurt v)) y col n := by
  intro d v
  obtain ⟨x, hx, hone⟩ := strCycle_masked h hmask hout
  obtain ⟨hgated, hcount⟩ := counts_bump_bump (by decide) hx.acc hone.acc
  refine ⟨vectorLeaves_of hx rfl hone, hcount, hgated, fun y col n hcol => ?_⟩
  have harr : (tileAt d site).arr = _ := congrArg Tile.arr hone.here
  have hacc : (tileAt d site).arr.acc = (tileAt c site).arr.acc := by rw [harr]; exact swapped_acc ..
  have hpoison : (tileAt d site).arr.accPoison = (tileAt c site).arr.accPoison := by rw [harr]; exact swapped_accPoison ..
  have htaint : taintIn v (swapped m (tileAt c site).arr) = ((tileAt c site).arr.maskTaint || hurt v) := by
    rw [taintIn, swapped_maskTaint, show v.mask = true from hmask, Bool.true_and, Bool.or_comm]
  cases hfresh : m.fresh with
  | true =>
    rw [Bool.true_and, ← htaint]
    exact bubbleColumn_put hacc hpoison h.still (by rw [harr]; exact if_pos hfresh) hcol y n
  | false =>
    rw [Bool.false_and]
    exact bubbleColumn_none hacc hpoison h.still (by rw [harr]; exact if_neg (by simp [hfresh])) hfresh y col n

/-! ## A missing operand (03 R83, 05 R128 R148) -/

theorem narrow_of_width {f : Fmt} (h : fmtWidth f = 8) : sixBit f = false ∧ noScale f = false := by
  cases f <;> simp_all [fmtWidth, sixBit, noScale]

/-- The tag of an operand that an empty queue does not give is passed. -/
theorem qSkip_empty {q : DQueue} (h : q.entries = []) : qSkip q = ({ q with pop := (q.pop + 1) % 65536 }, 0) := by
  obtain ⟨entries, push, pop⟩ := q
  subst h
  rfl

/-- The tile after an operand was missing in an empty queue, for which it had not stalled. -/
def passedTag (t : Tile) (q : Nat) : Tile :=
  setQueue { t with stalled := t.stalled.erase q } q { queueAt t q with pop := ((queueAt t q).pop + 1) % 65536 }

/-- What an operand missing in an empty queue makes of the chip: its tag is passed, it is counted twice and reported. -/
theorem arrayMiss_empty {c : Chip} {site q : Nat} (hempty : (queueAt (tileAt c site) q).entries = [])
    (hknown : (tileAt c site).stalled.contains q = false) : arrayMiss c site q =
      reportOnce (bump (bump (modTile c site (fun t => passedTag t q)) (key 0x3050 2) 1) (key 0x3030 3) 1) 9 site 0x0602
        (.tile site) .cycle [0, 0] := by
  unfold arrayMiss
  simp only [qSkip_empty hempty, hknown, streamFault, if_true, Bool.false_eq_true, if_false]
  rfl

theorem takeOperand_empty {c : Chip} {site q : Nat} (hempty : (queueAt (tileAt c site) q).entries = []) :
    takeOperand c site q = (arrayMiss c site q, none) := by
  have hpeek : qPeek (queueAt (tileAt c site) q) c.plan.cyc = .empty := by simp [qPeek, hempty]
  rw [takeOperand, hpeek]

/-- A vector of an 8-bit format takes one data entry, and nothing else where it is not scaled (03 R75). -/
theorem operands_narrow {m : MStr} {q : Fin 8} {now : Nat} (hwidth : fmtWidth m.f = 8) (hqa : m.qa = .one q) (hqs : m.qs = none)
    (hdue : presentAt m ≤ now) : dataQueues m now = (if m.got.isEmpty then [q.val] else []) ∧ vecScaleQueues m now = [] := by
  obtain ⟨hsix, hscale⟩ := narrow_of_width hwidth
  simp [dataQueues, vecScaleQueues, vecQueue, hsix, hscale, hqa, hqs, Nat.not_lt.mpr hdue]

/-- What stands at the head of the stream port: the first vector of an unscaled 8-bit MSTR whose queue is empty when it is
presented, nothing being on its way to the accumulator. -/
structure Starves (c : Chip) (site : Nat) (m : MStr) (after : List StrCmd) (q : Fin 8) : Prop where
  sound : c.flaws = []
  still : (tileAt c site).arr.ops = []
  head : (tileAt c site).arr.str = .mstr m :: after
  due : presentAt m ≤ c.plan.cyc - (tileAt c site).lag
  width : fmtWidth m.f = 8
  data : m.qa = .one q
  scale : m.qs = none
  got : m.got = []
  sc : m.sc = []
  fresh : (tileAt c site).stalled = []
  empty : (queueAt (tileAt c site) q.val).entries = []

section
variable {c : Chip} {site : Nat} {m : MStr} {after : List StrCmd} {q : Fin 8} (h : Starves c site m after q)
include h

/-- The chip once the operand was found missing. -/
theorem missing_oneTile : ∃ x y, OneTile c x site (passedTag { tileAt c site with arr := swapped m (tileAt c site).arr } q.val) ∧
    y = reportOnce (bump (bump x (key 0x3050 2) 1) (key 0x3030 3) 1) 9 site 0x0602 (.tile site) .cycle [0, 0] ∧
    strCycle c site = modArr (streamVector y site (presentAt m) (inHand m [none] [])) site
      (fun a => { a with str := nextVector (inHand m [none] []) ++ after }) := by
  have hswap := swapIn_oneTile c site m
  have hx := hswap.trans (OneTile.modTile (swapIn c site m) site fun t => passedTag t q.val)
  rw [hswap.here] at hx
  obtain ⟨hdata, hscale⟩ := operands_narrow h.width h.data h.scale h.due
  have hmiss : takeOperands site (dataQueues m (c.plan.cyc - (tileAt c site).lag)) (swapIn c site m) =
      (arrayMiss (swapIn c site m) site q.val, [none]) := by
    rw [hdata, h.got]
    simp only [List.isEmpty_nil, if_true, takeOperands]
    rw [takeOperand_empty (by rw [hswap.here]; exact h.empty)]
  have hwhole : vecWhole (inHand m [none] []) (c.plan.cyc - (tileAt c site).lag) = true := by
    obtain ⟨hdata', hscale'⟩ := operands_narrow (m := inHand m [none] []) h.width h.data h.scale h.due
    have hsome : (inHand m [none] []).got.isEmpty = false := by simp [inHand]
    rw [hsome] at hdata'
    have hdue : presentAt (inHand m [none] []) ≤ c.plan.cyc - (tileAt c site).lag := h.due
    have hformat : noScale (inHand m [none] []).f = false := (narrow_of_width h.width).2
    simp [vecWhole, hdata', hscale', hdue, hformat]
  refine ⟨_, _, hx, rfl, ?_⟩
  rw [← arrayMiss_empty (by rw [hswap.here]; exact h.empty) (by rw [hswap.here]; simp [h.fresh])]
  exact strCycle_whole h.head h.due hmiss (by rw [hscale]; rfl) hwhole

/-- What the cycle of a vector with a missing operand makes of the chip. -/
theorem strCycle_missing : ∃ x y, OneTile c x site (passedTag { tileAt c site with arr := swapped m (tileAt c site).arr } q.val) ∧
    y = reportOnce (bump (bump x (key 0x3050 2) 1) (key 0x3030 3) 1) 9 site 0x0602 (.tile site) .cycle [0, 0] ∧
    OneTile (bump y (key 0x3030 5) (allGated m.f)) (strCycle c site) site
      { tileAt x site with arr := { swapped m (tileAt c site).arr with
        ops := [.vec (presentAt m) ((m.e + m.done) % 256) (noScale m.f) m.fresh (ieee c) none (List.range 8) []]
        str := portAfter m (inHand m [none] []) ++ after } } := by
  obtain ⟨x, y, hx, hy, hd⟩ := missing_oneTile h
  have hframe := reportOnce_frame (bump (bump x (key 0x3050 2) 1) (key 0x3030 3) 1) 9 site 0x0602 (.tile site) .cycle [0, 0]
  rw [← hy] at hframe
  have hyx : tileAt y site = tileAt x site := by rw [hframe]; rfl
  have hsound : y.flaws = [] := by rw [hframe]; exact hx.flaws.trans h.sound
  have hregs : y.regs = c.regs := by rw [hframe]; exact hx.regs
  have hyarr : (tileAt y site).arr = swapped m (tileAt c site).arr := by rw [hyx, hx.here]; rfl
  have hlost : missing (inHand m [none] []) = true := by
    have hentries : vecEntries (inHand m [none] []) = [none] := by
      have hsix : sixBit (inHand m [none] []).f = false := (narrow_of_width h.width).1
      rw [vecEntries, if_neg (by simp [hsix]), inHand, h.got]
      rfl
    simp [missing, hentries]
  have hput := putVector_oneTile (c := bump y (key 0x3030 5) (allGated m.f)) (site := site) hsound
    (by rw [bump_tileAt, hyarr, swapped_ops]; exact h.still) (presentAt m) (inHand m [none] []) none (List.range 8) []
  rw [show ieee (bump y (key 0x3030 5) (allGated m.f)) = ieee c from ieee_congr hregs] at hput
  have hstream : streamVector y site (presentAt m) (inHand m [none] []) = _ := streamVector_missing hlost
  refine ⟨x, y, hx, hy, ?_⟩
  rw [hd, hstream, ← hyx]
  exact oneTile_port hyarr hput

/-- 03 R83: a vector whose entry is missing. -/
theorem missing_vector :
    let u := tileAt c site
    let d := strCycle c site
    let u' := tileAt d site
    Counts c d (key 0x3030 3) 1 [key 0x3030 5, key 0x3050 2] ∧ Counts c d (key 0x3050 2) 1 [key 0x3030 5, key 0x3030 3] ∧
      Counts c d (key 0x3030 5) (allGated m.f) [key 0x3030 3, key 0x3050 2] ∧
      queueAt u' q.val = { queueAt u q.val with pop := ((queueAt u q.val).pop + 1) % 65536 } ∧
      (9, site) ∈ d.acc.reported ∧ u'.arr.str = portAfter m m ++ after ∧
      ∀ y col n, col < 128 → BubbleColumn u.arr u'.arr m true y col n := by
  intro u d u'
  obtain ⟨x, y, hx, hy, hone⟩ := strCycle_missing h
  have harr : u'.arr = _ := congrArg Tile.arr hone.here
  have hyacc : y.acc.counts = (bump (bump x (key 0x3050 2) 1) (key 0x3030 3) 1).acc.counts := by
    rw [hy, reportOnce_frame]
  have hcounts : ∀ j, smGet 0 d.acc.counts j = if j = key 0x3030 5 then smGet 0 c.acc.counts (key 0x3030 5) + allGated m.f
      else if j = key 0x3030 3 then smGet 0 c.acc.counts (key 0x3030 3) + 1
      else if j = key 0x3050 2 then smGet 0 c.acc.counts (key 0x3050 2) + 1 else smGet 0 c.acc.counts j := by
    intro j
    rw [hone.acc]
    simp only [smGet_bump, hyacc, hx.acc]
    rw [if_neg (show key 0x3030 5 ≠ key 0x3030 3 by decide), if_neg (show key 0x3030 5 ≠ key 0x3050 2 by decide),
      if_neg (show key 0x3030 3 ≠ key 0x3050 2 by decide)]
  have hsix : sixBit m.f = false := (narrow_of_width h.width).1
  refine ⟨⟨?_, fun j hj halso => ?_⟩, ⟨?_, fun j hj halso => ?_⟩, ⟨?_, fun j hj halso => ?_⟩, ?_, ?_, ?_, fun y col n hcol => ?_⟩
  · rw [hcounts, if_neg (by decide), if_pos rfl]
  · simp only [List.mem_cons, List.not_mem_nil, or_false, not_or] at halso
    rw [hcounts, if_neg halso.1, if_neg hj, if_neg halso.2]
  · rw [hcounts, if_neg (by decide), if_neg (by decide), if_pos rfl]
  · simp only [List.mem_cons, List.not_mem_nil, or_false, not_or] at halso
    rw [hcounts, if_neg halso.1, if_neg halso.2, if_neg hj]
  · rw [hcounts, if_pos rfl]
  · simp only [List.mem_cons, List.not_mem_nil, or_false, not_or] at halso
    rw [hcounts, if_neg hj, if_neg halso.1, if_neg halso.2]
  · have hbefore : (tileAt x site).q = (passedTag { u with arr := swapped m u.arr } q.val).q :=
      congrArg Tile.q hx.here
    have hqueues : (tileAt d site).q = (tileAt x site).q := by rw [hone.here]
    rw [queueAt, hqueues, hbefore]
    exact smGet_smSet_same ..
  · rw [hone.acc, bump_reported, hy]
    exact reportOnce_reported ..
  · rw [harr]
    simp [portAfter, hsix]
  · exact bubbleColumn_put (by rw [harr]; exact swapped_acc ..) (by rw [harr]; exact swapped_accPoison ..) h.still
      (by rw [harr]; rfl) hcol y n

end

/-- 03 R77 R83: what forms no product. -/
theorem streamBubbles : StreamBubbles := by
  intro c site m after ds ss u d u' e v gated column'
  refine ⟨fun h hmask hout => masked_vector h hmask hout, ?_⟩
  intro q hsound _ hstill hhead hdue hwidth hdata hscale hgot hsc hfresh hempty
  exact missing_vector ⟨hsound, hstill, hhead, hdue, hwidth, hdata, hscale, hgot, hsc, hfresh, hempty⟩

end Sys2Proof.Proofs
end

section
/-! PROOFS. Preloads (03 R69 R70 R74 R81). -/

namespace Sys2Proof.Proofs

open Sys2Proof Sys2Proof.Machine Sys2Proof.Claims Sys2Proof.Laws

/-! ## A cycle of the preload port (03 R69 R74 R81) -/

theorem taken_arr (u : Tile) (qs : List Nat) : (taken u qs).arr = u.arr := by
  have h : taken u qs = { taken u qs with arr := u.arr } := taken_withArr u u.arr qs
  rw [h]

/-- Operands that the queues give are taken, and then the array of the tile changes. -/
theorem modArr_takeOperands {c : Chip} {site : Nat} {qs : List Nat} {ds : List DEntry}
    (h : Given c.plan.cyc (tileAt c site) qs ds) (f : Arr → Arr) : OneTile c (modArr (takeOperands site qs c).1 site f) site
      { taken (tileAt c site) qs with arr := f (tileAt c site).arr } := by
  have hone := (takeOperands_given h).2
  have hstep := hone.trans (OneTile.modArr (takeOperands site qs c).1 site f)
  rwa [hone.here, taken_arr] at hstep

/-- The rows up to one of the 64 need no more entries than the tile has. -/
theorem rowsNeed_le (f : Fmt) {k : Nat} (hk : k < 64) : cdiv (rowBytes f * (k + 1)) 64 ≤ rowBytes f := by
  have h : rowBytes f * (k + 1) ≤ rowBytes f * 64 := Nat.mul_le_mul_left _ hk
  rw [cdiv]
  omega

/-- The queues of a row of a preload, of which the rows before it are taken. -/
theorem rowQueues_row {p : PreCmd} {now : Nat} (hdue : p.start ≤ now) (hrow : now - p.start < 64) : rowQueues p now =
    (List.range ((rowBytes p.f * (now - p.start + 1) + 63) / 64 - p.rows.length)).map
      (fun j => p.qp + (p.rows.length + j) % 2) := by
  rw [rowQueues, if_neg (Nat.not_lt.mpr hdue), min_eq_left (rowsNeed_le p.f hrow)]
  rfl

/-- The cycle of a row whose entries the queues give. -/
theorem preCycle_row {c : Chip} {site : Nat} {p : PreCmd} {after : List PreCmd} {ds : List DEntry} {qs : List Nat}
    (hhead : (tileAt c site).arr.pre = p :: after) (hdue : p.start ≤ c.plan.cyc - (tileAt c site).lag)
    (hqs : rowQueues p (c.plan.cyc - (tileAt c site).lag) = qs) (hgiven : Given c.plan.cyc (tileAt c site) qs ds) :
    OneTile c (preCycle c site) site { taken (tileAt c site) qs with
      arr := { (tileAt c site).arr with pre := { p with rows := p.rows ++ ds.map some } :: after } } := by
  have hcycle : preCycle c site = modArr (takeOperands site qs c).1 site (fun a => { a with
      pre := { p with rows := p.rows ++ ds.map some } :: after }) := by
    rw [← (takeOperands_given hgiven).1, preCycle, hhead, ← hqs]
    exact if_neg (Nat.not_lt.mpr hdue)
  rw [hcycle]
  exact modArr_takeOperands hgiven _

/-- The queue that gives a preload its scale entries, once its rows are in. -/
theorem scaleQueues_rowsIn {p : PreCmd} {now : Nat} (hdue : p.start + 64 ≤ now) (hscs : p.scs = []) : scaleQueues p now =
    match p.qs with
    | some q => if noScale p.f then [] else List.replicate (4 * cellElems p.f) q
    | none => [] := by
  rw [scaleQueues]
  cases p.qs with
  | none => rfl
  | some q =>
    simp only [if_pos hdue, hscs, List.length_nil, Nat.sub_zero, scaleEntries]
    cases noScale p.f <;> rfl

/-- The cycle after the last row, when the queue gives the scale entries. -/
theorem preDone_given {c : Chip} {site : Nat} {p : PreCmd} {after : List PreCmd} {ds : List DEntry} {qs : List Nat}
    (hhead : (tileAt c site).arr.pre = p :: after) (hdue : p.start + 64 ≤ c.plan.cyc - (tileAt c site).lag)
    (hqs : scaleQueues p (c.plan.cyc - (tileAt c site).lag) = qs) (hgiven : Given c.plan.cyc (tileAt c site) qs ds) :
    OneTile c (preDone c site) site { taken (tileAt c site) qs with
      arr := { (tileAt c site).arr with pre := after, shadow := buildTile { p with scs := p.scs ++ ds.map some } } } := by
  have hdone : preDone c site = modArr (takeOperands site qs c).1 site (fun a => { a with
      shadow := buildTile { p with scs := p.scs ++ ds.map some }, pre := after }) := by
    rw [← (takeOperands_given hgiven).1, preDone, hhead, ← hqs]
    exact if_pos hdue
  rw [hdone]
  exact modArr_takeOperands hgiven _

/-! ## The tile that entries make (03 R69 R70 R89) -/

theorem entryBad_some (l : List DEntry) (i : Nat) : entryBad (l.map some) i = (l[i]?).any (·.poison) := by
  rw [entryBad, List.getD_eq_getElem?_getD, List.getElem?_map]
  cases l[i]? <;> rfl

theorem entryBytes_some (d : Byte) (l : List DEntry) :
    (l.map some).flatMap (entryBytes d) = l.flatMap (fun x => slice x.data 0 64) := List.flatMap_map ..

/-- The bits of a column in a row are some, and fewer than those of an entry. -/
theorem cellBits_bounds (f : Fmt) : 0 < cellElems f * fmtWidth f ∧ cellElems f * fmtWidth f ≤ 32 := by
  cases f <;> decide

/-- A column is poisoned whose bits some poisoned entry holds (03 R89). -/
theorem colBad_iff (f : Fmt) (rows : List DEntry) (col : Nat) : colBad f (rows.map some) col = true ↔
    ∃ r < 64, ∃ x, (rows[x]?).any (·.poison) = true ∧
      8 * (64 * x) < 8 * rowBytes f * r + (col + 1) * (cellElems f * fmtWidth f) ∧
      8 * rowBytes f * r + col * (cellElems f * fmtWidth f) < 8 * (64 * x) + 512 := by
  obtain ⟨hw, hw'⟩ := cellBits_bounds f
  unfold colBad
  generalize cellElems f * fmtWidth f = w at hw hw'
  have hoverlap : ∀ r x, 8 * (64 * x) < 8 * rowBytes f * r + (col + 1) * w ∧
      8 * rowBytes f * r + col * w < 8 * (64 * x) + 512 ↔
        x = (rowBytes f * r + col * w / 8) / 64 ∨ x = (rowBytes f * r + (col * w + w - 1) / 8) / 64 := by
    intro r x
    rw [Nat.mul_assoc 8, Nat.add_one_mul col]
    omega
  rw [List.any_eq_true]
  simp only [List.mem_range, entryBad_some, Bool.or_eq_true, hoverlap, and_or_left, exists_or, exists_eq_right]

/-- The granules of a tile all of whose entries came. -/
theorem buildTile_bad_iff {p : PreCmd} {rows ds : List DEntry} (hrows : p.rows = rows.map some) (hscs : p.scs = ds.map some)
    (g : Nat) : (buildTile p).bad.contains g = true ↔ g < 8 ∧ ∃ col, col / 16 = g ∧ col < columns p.f ∧
      (colBad p.f (rows.map some) col = true ∨ ∃ x, (ds[x]?).any (·.poison) = true ∧ 2 * cellElems p.f * col / 64 = x) := by
  have hfound : ¬(p.rows ++ p.scs).any (·.isNone) = true := by simp [hrows, hscs]
  have hentry : ∀ col, col * 2 * cellElems p.f = 2 * cellElems p.f * col := fun col => by ring
  have hcols : outCols p.f = columns p.f := rfl
  rw [show (buildTile p).bad = _ from if_neg hfound]
  simp only [List.contains_iff_mem, List.mem_filter, List.mem_range,
    List.any_eq_true, Bool.and_eq_true, decide_eq_true_eq, Bool.or_eq_true, hrows, hscs, entryBad_some, hentry, hcols,
    exists_eq_right']
  refine and_congr_right fun _ => ?_
  constructor
  · rintro ⟨k, hk, hcol⟩
    exact ⟨16 * g + k, by omega, hcol⟩
  · rintro ⟨col, hg, hcol⟩
    refine ⟨col % 16, Nat.mod_lt _ (by decide), ?_⟩
    rwa [← hg, Nat.div_add_mod]

/-- 03 R69 R70 R74 R81: the cycles of a preload. -/
theorem preloadLoads : PreloadLoads := by
  constructor
  · intro c site p after ds u k before qs hhead hdue hrow hbefore hgiven
    have hqs : rowQueues p (c.plan.cyc - u.lag) = qs := by
      rw [rowQueues_row hdue hrow, hbefore]
    have hone := preCycle_row hhead hdue hqs hgiven
    exact ⟨given_length hgiven, hone.rest, hone.here, hone.others⟩
  · intro c site p after rows ds u qs hhead hdue hrows _ hscs hgiven d w
    have hone := preDone_given hhead hdue (scaleQueues_rowsIn hdue hscs) hgiven
    have htile : w = buildTile { p with scs := ds.map some } := by
      rw [hscs, List.nil_append] at hone
      exact congrArg (fun t : Tile => t.arr.shadow) hone.here
    refine ⟨hone.rest, hone.others, ?_, ?_⟩
    · rw [hone.here, htile, hscs]
      rfl
    rw [htile]
    refine ⟨rfl, ?_, entryBytes_some .., rfl, rfl, fun g => ?_⟩
    · exact (congrArg (List.flatMap (entryBytes 0)) hrows).trans (entryBytes_some ..)
    · simp only [← colBad_iff]
      exact buildTile_bad_iff (p := { p with scs := ds.map some }) hrows rfl g

/-- Settles O15: vectors by the cycle in which the port presents one and the column that it passes (`streamVectors`), bubbles
as vectors without sums (`streamBubbles`), preloads by the operands that the queues give (`preloadLoads`). -/
theorem streamedVectors : Obligations.StreamedVectors := ⟨streamVectors, streamBubbles, preloadLoads⟩

end Sys2Proof.Proofs
end

section
/-! PROOFS. Execute instructions in the tiles that issue, with the event bits and counters of the step (04 R93 R114 R115). -/

namespace Sys2Proof.Proofs

open Sys2Proof Sys2Proof.Machine Sys2Proof.Claims Sys2Proof.Laws

/-! ## The tiles that issue, one after the other -/

/-- An effect that gives each tile of a list a new state of its own and adds to what the step adds up does so in all of
them. -/
theorem foldl_sites {f : Chip → Nat → Chip} {m : Nat → Tile} {e : Nat → Acc → Acc} (l : List Nat) (hl : l.Nodup) (c : Chip)
    (H : ∀ T A, ∀ site ∈ l, tileAt { c with tiles := T } site = tileAt c site →
      f { c with tiles := T, acc := A } site = { setTile { c with tiles := T } site (m site) with acc := e site A }) :
    ∃ T, l.foldl f c = { c with tiles := T, acc := l.foldl (fun A site => e site A) c.acc } ∧
      ∀ y, tileAt { c with tiles := T } y = if y ∈ l then m y else tileAt c y := by
  induction l generalizing c with
  | nil => exact ⟨c.tiles, rfl, fun y => (if_neg List.not_mem_nil).symm⟩
  | cons site rest ih =>
    obtain ⟨hsite, hrest⟩ := List.nodup_cons.mp hl
    have hfirst : f c site = { setTile c site (m site) with acc := e site c.acc } :=
      H c.tiles c.acc site (List.mem_cons_self ..) rfl
    obtain ⟨T, hT, htiles⟩ := ih hrest { setTile c site (m site) with acc := e site c.acc } (fun T A y hy hkept =>
      H T A y (List.mem_cons_of_mem _ hy) (hkept.trans (tileAt_setTile_ne c _ (by rintro rfl; exact hsite hy))))
    refine ⟨T, ?_, fun y => ?_⟩
    · rw [List.foldl_cons, hfirst, hT]
      rfl
    · rw [show tileAt { c with tiles := T } y = _ from htiles y]
      by_cases hy : y = site
      · subst hy
        simp only [hsite, if_false, List.mem_cons, true_or, if_true]
        exact tileAt_setTile_same c y (m y)
      · rw [show tileAt { setTile c site (m site) with acc := e site c.acc } y = tileAt c y from tileAt_setTile_ne c _ hy]
        simp [hy]

/-- The chip after the sequencer's note of an issue, with tiles and sums of the step. -/
def issued (s : State) (i : Issue) (x : Instr) (T : SMap Tile) (A : Acc) : Chip :=
  { noteIssue s.chip i true x with tiles := T, acc := A }

/-- An execute instruction that gives each issuing tile a state of its own and adds to what the step adds up leaves the rest of
the state, but for the note of the sequencer. -/
theorem issueX_tiles {s : State} {i : Issue} {x : Instr} (h : Issues s i true x) (hready : AllReady s i) {m : Nat → Tile}
    {e : Nat → Acc → Acc} (H : ∀ T A, ∀ site ∈ issueSites s.chip i, tileAt (issued s i x T A) site = tileAt s.chip site →
      tileExec x (issued s i x T A) site = { setTile (issued s i x T A) site (m site) with acc := e site A }) :
    ∃ T, issueX s i x = .next { s with
        chip := issued s i x T ((issueSites s.chip i).foldl (fun A site => e site A) s.chip.acc) } ∧
      ∀ A y, tileAt (issued s i x T A) y = if y ∈ issueSites s.chip i then m y else tileAt s.chip y := by
  obtain ⟨T, hT, htiles⟩ := foldl_sites (f := arrive x) (m := m) (e := e) (issueSites s.chip i) (issueSites_nodup _ _)
    (noteIssue s.chip i true x) (by
      intro T A site hsite hkept
      obtain ⟨hlag, hthawed⟩ := hready site hsite
      change arrive x (issued s i x T A) site = { setTile (issued s i x T A) site (m site) with acc := e site A }
      change tileAt (issued s i x T A) site = tileAt s.chip site at hkept
      have hthawed' : frozen (issued s i x T A) (tileAt (issued s i x T A) site) = false := by
        rw [hkept, ← hthawed]
        rfl
      have hexec := H T A site hsite hkept
      rw [arrive_ready (by rw [hkept]; exact hlag) hthawed', tileIssue_calm, hexec]
      · exact h.quiet.sound
      · rw [hexec]; exact h.quiet.sound
      · rw [hexec]; exact h.calm)
  refine ⟨T, ?_, fun _ => htiles⟩
  rw [issueX_now h, hT, flush_none]
  · rfl
  · exact h.quiet.none

/-- Only the issuing tiles and the event bits change. -/
theorem onlyTiles_issued {s : State} {i : Issue} {x : Instr} {T : SMap Tile} {m : Nat → Tile} (v w : Nat)
    (htiles : ∀ A y, tileAt (issued s i x T A) y = if y ∈ issueSites s.chip i then m y else tileAt s.chip y) :
    OnlyTiles s { s with chip := issued s i x T { s.chip.acc with vec := v, conv := w } } i true x :=
  ⟨rfl, fun y hy => (htiles _ y).trans (if_neg hy)⟩

/-! ## Event bits (04 R93 R115, 02 R64) -/

theorem testBit_foldl_or {α : Type} (f : α → Nat) (l : List α) (n b : Nat) :
    (l.foldl (fun n x => n ||| f x) n).testBit b = true ↔ n.testBit b = true ∨ ∃ x ∈ l, (f x).testBit b = true := by
  induction l generalizing n with
  | nil => simp
  | cons x rest ih => simp [ih, Nat.testBit_or, or_assoc]

/-- The event bits of a tile are those of its active lanes. -/
theorem testBit_laneEv (t : Tile) (g : Gov) (f : Nat → Nat) (b : Nat) : (laneEv t g f).testBit b = true ↔
    ∃ l < 64, (preg t g.p.val).val.testBit l = true ∧ (f l).testBit b = true := by
  have hfold : laneEv t g f =
      (List.range 64).foldl (fun n l => n ||| if (preg t g.p.val).val.testBit l then f l else 0) 0 := by
    refine List.foldl_ext _ _ _ fun n l _ => ?_
    split <;> simp
  rw [hfold, testBit_foldl_or]
  simp only [Nat.zero_testBit, Bool.false_eq_true, false_or, List.mem_range]
  refine exists_congr fun l => and_congr_right fun _ => ?_
  split <;> simp [*]

/-- Lanes without an event set no bit. -/
@[simp] theorem laneEv_none (t : Tile) (g : Gov) : laneEv t g (fun _ => 0) = 0 :=
  Nat.eq_of_testBit_eq fun b => by
    rw [Nat.zero_testBit, Bool.eq_false_iff]
    intro h
    obtain ⟨l, -, -, h⟩ := (testBit_laneEv t g _ b).mp h
    simp at h

@[simp] theorem vecEv_none (c : Chip) : vecEv c 0 = c := by simp [vecEv]

@[simp] theorem convEv_none (c : Chip) : convEv c 0 = c := by simp [convEv]

/-- The bits that the tiles that issue collect. -/
theorem eventsGain_foldl {s : State} {i : Issue} {g : Gov} {n : Nat} {ev : State → Tile → Nat → Nat} :
    EventsGain n ((issueSites s.chip i).foldl (fun n site => n ||| laneEv (tileAt s.chip site) g (ev s (tileAt s.chip site))) n)
      s i g ev := fun b => by
  rw [testBit_foldl_or]
  exact or_congr_right (exists_congr fun site => and_congr_right fun _ => testBit_laneEv _ _ _ _)

/-! ## Instructions that change each tile and set event bits -/

/-- What the step adds up, with event bits. -/
def withEvents (a : Acc) (v w : Nat) : Acc := { a with vec := a.vec ||| v, conv := a.conv ||| w }

theorem foldl_withEvents (v w : Nat → Nat) (l : List Nat) (a : Acc) :
    l.foldl (fun a site => withEvents a (v site) (w site)) a =
      { a with vec := l.foldl (fun n site => n ||| v site) a.vec, conv := l.foldl (fun n site => n ||| w site) a.conv } := by
  induction l generalizing a with
  | nil => rfl
  | cons site rest ih => rw [List.foldl_cons, ih]; rfl

/-- An execute instruction completes where in each tile it collects the events of the active lanes and makes of the tile what
`P` says. -/
theorem completes_of_tiles {x : Instr} {i : Issue} {g : Gov} {vec conv : State → Tile → Nat → Nat}
    {P : State → Tile → Tile → Prop} (m : State → Tile → Tile) (hexec : ∀ s, exec x s = issueX s i x)
    (H : ∀ (s : State) (c : Chip) (site : Nat), c.regs = s.chip.regs → tileExec x c site =
      setTile (convEv (vecEv c (laneEv (tileAt c site) g (vec s (tileAt c site)))) (laneEv (tileAt c site) g (conv s (tileAt c site))))
        site (m s (tileAt c site)))
    (hP : ∀ (s : State) (t : Tile), P s t (m s t)) : Completes x i g vec conv P := by
  intro s hissues hready _
  obtain ⟨T, hnext, htiles⟩ := issueX_tiles hissues hready (m := fun site => m s (tileAt s.chip site))
    (e := fun site a => withEvents a (laneEv (tileAt s.chip site) g (vec s (tileAt s.chip site)))
      (laneEv (tileAt s.chip site) g (conv s (tileAt s.chip site)))) (by
      intro T A site _ hkept
      have hstep := H s (issued s i x T A) site rfl
      rw [hkept] at hstep
      exact hstep)
  rw [foldl_withEvents] at hnext
  refine ⟨_, (hexec s).trans hnext, onlyTiles_issued _ _ htiles, fun site hsite => ?_, eventsGain_foldl, eventsGain_foldl⟩
  rw [show tileAt (issued s i x T _) site = _ from (htiles _ site).trans (if_pos hsite)]
  exact hP s _

/-- The same for an instruction without events. -/
theorem completes_of_tile {x : Instr} {i : Issue} {g : Gov} {P : State → Tile → Tile → Prop} (m : Tile → Tile)
    (hexec : ∀ s, exec x s = issueX s i x) (H : ∀ (c : Chip) (site : Nat), tileExec x c site = modTile c site m)
    (hP : ∀ (s : State) (t : Tile), P s t (m t)) : Completes x i g noEvent noEvent P :=
  completes_of_modTile (fun _ => m) hexec (fun c site _ => H c site) (fun s t _ => hP s t)

/-! ## Results (04 R92 R93 R98 R114) -/

theorem vecResult_writeVecUnder (b : Bool) (t : Tile) (g : Gov) (vd : Nat) (f : Nat → TW) :
    VecResult b g vd f t (writeVecUnder b t g vd f) :=
  ⟨fun _ hl => lane_writeVecUnder b t g vd f hl, fun _ hk => poison_writeVecUnder b t g vd f hk,
    fun _ hr => vreg_writeVecUnder_ne b t g f hr, writeVecUnder_rest b t g vd f⟩

theorem vecResult_writeVec (t : Tile) (g : Gov) (vd : Nat) (f : Nat → TW) : VecResult false g vd f t (writeVec t g vd f) :=
  vecResult_writeVecUnder false t g vd f

/-- A predicate register that takes the active lanes' bits, and `off` in the others. -/
theorem predResult_setPreg (t : Tile) (g : Gov) (pd : Nat) (f : Nat → Bool × Bool) (off : Nat → Bool) :
    PredResult g pd f off t (setPreg t pd
      ⟨laneBits (fun l => if (preg t g.p.val).val.testBit l then (f l).1 else off l),
        (preg t g.p.val).taint || (List.range 64).any (fun l => (preg t g.p.val).val.testBit l && (f l).2)⟩) where
  bits := fun hpd l hl => by rw [preg_setPreg_same t _ hpd, testBit_laneBits _ hl]
  taint := fun hpd => by rw [preg_setPreg_same t _ hpd]; simp
  zero := fun hpd => by simp [setPreg, hpd]
  others := fun r hr => preg_setPreg_ne t _ hr
  rest := by unfold setPreg; split <;> rfl

theorem predResult_writePred (t : Tile) (g : Gov) (pd : Nat) (f : Nat → Bool × Bool) :
    PredResult g pd f (fun l => !g.zero && (preg t pd).val.testBit l) t (writePred t g pd f) := by
  have h : (fun l => !g.zero && (preg t pd).val.testBit l) = (fun l => if g.zero then false else (preg t pd).val.testBit l) := by
    funext l
    cases g.zero <;> rfl
  rw [h]
  exact predResult_setPreg t g pd f _

theorem predResult_writeCmp (t : Tile) (g : Gov) (pd : Nat) (f : Nat → Bool × Bool) :
    PredResult g pd f (fun _ => false) t (writeCmp t g pd f) := by
  have h : (fun l => (preg t g.p.val).val.testBit l && (f l).1) =
      (fun l => if (preg t g.p.val).val.testBit l then (f l).1 else false) := by
    funext l
    cases (preg t g.p.val).val.testBit l <;> rfl
  have hwrite := predResult_setPreg t g pd f (fun _ => false)
  rw [← h] at hwrite
  exact hwrite

theorem addrResult_setAreg (t : Tile) (ad x : Nat) : AddrResult ad x t (setAreg t ad x) where
  value := fun h => areg_setAreg_same t x h
  zero := fun h => by simp [setAreg, h]
  others := fun r hr => areg_setAreg_ne t x hr
  rest := by unfold setAreg; split <;> rfl

end Sys2Proof.Proofs
end

section
/-! PROOFS. Integer, bitwise and moving instructions, comparisons, predicate operations and address registers (04 R92 R93 R94
R98 R102 R114). -/

namespace Sys2Proof.Proofs

open Sys2Proof Sys2Proof.Machine Sys2Proof.Claims Sys2Proof.Laws

/-! ## Lanes of integers in closed form (04 R102) -/

theorem satInt_eq (x : Int) : satInt x = BitVec.ofInt 32 (max (-2 ^ 31) (min (2 ^ 31 - 1) x)) := rfl

theorem ofInt_mul_eq (x y : Word) : x * y = BitVec.ofInt 32 (x.toInt * y.toInt) := by
  rw [BitVec.ofInt_mul, BitVec.ofInt_toInt, BitVec.ofInt_toInt]

theorem ofInt_mul_add_eq (x y z : Word) : x * y + z = BitVec.ofInt 32 (x.toInt * y.toInt + z.toInt) := by
  rw [BitVec.ofInt_add, BitVec.ofInt_mul, BitVec.ofInt_toInt, BitVec.ofInt_toInt, BitVec.ofInt_toInt]

theorem sub_eq_ofInt (x y : Word) : x - y = BitVec.ofInt 32 (x.toInt - y.toInt) := by
  refine BitVec.eq_of_toInt_eq ?_
  rw [BitVec.toInt_sub, BitVec.toInt_ofInt]

/-- The high half of a signed product, as 32 bits of the 64-bit one. -/
theorem imulh_signed (x y : Word) : imulh false x y = ((x.signExtend 64) * (y.signExtend 64)).extractLsb' 32 32 := by
  have hprod : x.signExtend 64 * y.signExtend 64 = BitVec.ofInt 64 (x.toInt * y.toInt) := by
    refine BitVec.eq_of_toInt_eq ?_
    rw [BitVec.toInt_mul, BitVec.toInt_ofInt, BitVec.toInt_signExtend_of_le (by decide),
      BitVec.toInt_signExtend_of_le (by decide)]
  refine BitVec.eq_of_toNat_eq ?_
  rw [hprod, BitVec.extractLsb'_toNat, Nat.shiftRight_eq_div_pow, BitVec.toNat_ofInt]
  simp only [imulh, Bool.false_eq_true, if_false, BitVec.toNat_ofInt]
  generalize x.toInt * y.toInt = p
  omega

/-- The high half of an unsigned product. -/
theorem imulh_unsigned (x y : Word) : imulh true x y = ((x.zeroExtend 64) * (y.zeroExtend 64)).extractLsb' 32 32 := by
  have hx : x.toNat < 2 ^ 64 := by have := x.isLt; omega
  have hy : y.toNat < 2 ^ 64 := by have := y.isLt; omega
  have hprod : x.toNat * y.toNat < 2 ^ 64 := by
    calc x.toNat * y.toNat < 2 ^ 32 * 2 ^ 32 := Nat.mul_lt_mul'' x.isLt y.isLt
      _ = 2 ^ 64 := by norm_num
  refine BitVec.eq_of_toNat_eq ?_
  rw [BitVec.extractLsb'_toNat, Nat.shiftRight_eq_div_pow, BitVec.toNat_mul]
  simp only [imulh, if_true, BitVec.zeroExtend, BitVec.toNat_setWidth, BitVec.toNat_ofNat, Nat.mod_eq_of_lt hx, Nat.mod_eq_of_lt hy,
    Nat.mod_eq_of_lt hprod]

theorem imin_signed (x y : Word) : imin false x y = BitVec.ofInt 32 (min x.toInt y.toInt) := by
  simp only [imin, Bool.false_eq_true, if_false]
  split
  · rw [min_eq_right (by omega), BitVec.ofInt_toInt]
  · rw [min_eq_left (by omega), BitVec.ofInt_toInt]

theorem imin_unsigned (x y : Word) : imin true x y = BitVec.ofNat 32 (min x.toNat y.toNat) := by
  simp only [imin, if_true]
  split
  · rw [min_eq_right (by omega), BitVec.ofNat_toNat, BitVec.setWidth_eq]
  · rw [min_eq_left (by omega), BitVec.ofNat_toNat, BitVec.setWidth_eq]

theorem imax_signed (x y : Word) : imax false x y = BitVec.ofInt 32 (max x.toInt y.toInt) := by
  simp only [imax, Bool.false_eq_true, if_false]
  split
  · rw [max_eq_right (by omega), BitVec.ofInt_toInt]
  · rw [max_eq_left (by omega), BitVec.ofInt_toInt]

theorem imax_unsigned (x y : Word) : imax true x y = BitVec.ofNat 32 (max x.toNat y.toNat) := by
  simp only [imax, if_true]
  split
  · rw [max_eq_right (by omega), BitVec.ofNat_toNat, BitVec.setWidth_eq]
  · rw [max_eq_left (by omega), BitVec.ofNat_toNat, BitVec.setWidth_eq]

theorem add_eq_ofNat (x y : Word) : x + y = BitVec.ofNat 32 (x.toNat + y.toNat) := by
  rw [BitVec.ofNat_add, BitVec.ofNat_toNat, BitVec.ofNat_toNat, BitVec.setWidth_eq, BitVec.setWidth_eq]

/-! ## Shifts (04 R102) -/

theorem ishl_eq (x y : Word) : ishl x y = BitVec.ofNat 32 (if y.toNat < 32 then x.toNat * 2 ^ y.toNat else 0) := by
  unfold ishl
  split
  · refine BitVec.eq_of_toNat_eq ?_
    rw [BitVec.toNat_shiftLeft, Nat.shiftLeft_eq, BitVec.toNat_ofNat]
  · rfl

theorem ishr_eq (x y : Word) : ishr x y = BitVec.ofNat 32 (x.toNat / 2 ^ y.toNat) := by
  refine BitVec.eq_of_toNat_eq ?_
  have hdiv : x.toNat / 2 ^ y.toNat < 2 ^ 32 := (Nat.div_le_self _ _).trans_lt x.isLt
  rw [BitVec.toNat_ofNat, Nat.mod_eq_of_lt hdiv]
  unfold ishr
  split
  · rw [BitVec.toNat_ushiftRight, Nat.shiftRight_eq_div_pow]
  · next hy =>
    have hbig : x.toNat < 2 ^ y.toNat := x.isLt.trans_le (Nat.pow_le_pow_right (by decide) (not_lt.mp hy))
    rw [Nat.div_eq_of_lt hbig]
    rfl

/-- A word shifted right by 31 places or more is a copy of its sign. -/
theorem toInt_div_two_pow {x : Word} {n : Nat} (hn : 31 ≤ n) : x.toInt / (2 ^ n : Int) = x.toInt / (2 ^ 31 : Int) := by
  have hlo : -2 ^ 31 ≤ x.toInt := BitVec.le_toInt x
  have hhi : x.toInt < 2 ^ 31 := BitVec.toInt_lt
  have hpow : (2 ^ 31 : Int) ≤ 2 ^ n := pow_le_pow_right₀ (by decide) hn
  by_cases hneg : x.toInt < 0
  · have hdiv : ∀ d : Int, 2 ^ 31 ≤ d → x.toInt / d = -1 := fun d hd =>
      (Int.ediv_eq_iff_of_pos (by omega)).mpr ⟨by omega, by omega⟩
    rw [hdiv _ hpow, hdiv _ le_rfl]
  · rw [Int.ediv_eq_zero_of_lt (by omega) (by omega), Int.ediv_eq_zero_of_lt (by omega) (by omega)]

theorem isra_eq (x y : Word) : isra x y = BitVec.ofInt 32 (x.toInt / 2 ^ y.toNat) := by
  rw [isra, ← BitVec.ofInt_toInt (x := x.sshiftRight _), BitVec.toInt_sshiftRight, Int.shiftRight_eq_div_pow]
  by_cases hy : y.toNat ≤ 31
  · rw [min_eq_right hy]
    norm_num
  · rw [min_eq_left (by omega), toInt_div_two_pow (x := x) (n := y.toNat) (by omega)]
    norm_num

theorem vnot_eq (x : Word) : ~~~x = x ^^^ 0xFFFFFFFF := by
  rw [← BitVec.xor_allOnes]
  rfl

/-! ## The shapes of the instructions -/

section
variable {i : Issue} {g : Gov} {vd a b : Fin 64} {x : Instr}

/-- A lane operation of two registers. -/
theorem vec_int2 {op op' : Word → Word → Word} (hop : ∀ p q, op p q = op' p q) (hexec : ∀ s, exec x s = issueX s i x)
    (hstep : ∀ c site, tileExec x c site = tInt2 op g vd.val a.val b.val c site) :
    Vec x i g vd (fun _ => on2 op' a (plain b)) := by
  obtain rfl : op = op' := funext fun p => funext fun q => hop p q
  exact completes_of_tile _ hexec hstep fun _ t => vecResult_writeVec t g vd.val _

/-- A lane operation of one register. -/
theorem vec_int1 {op op' : Word → Word} (hop : ∀ p, op p = op' p) (hexec : ∀ s, exec x s = issueX s i x)
    (hstep : ∀ c site, tileExec x c site = tInt1 op g vd.val a.val c site) : Vec x i g vd (fun _ => on1 op' a) := by
  obtain rfl : op = op' := funext hop
  exact completes_of_tile _ hexec hstep fun _ t => vecResult_writeVec t g vd.val _

/-- A value of the tile and the lane number. -/
theorem vec_const {f : Tile → Nat → Word} (hexec : ∀ s, exec x s = issueX s i x)
    (hstep : ∀ c site, tileExec x c site = tConst f g vd.val c site) : Vec x i g vd (fun _ t l => (f t l, false)) :=
  completes_of_tile _ hexec hstep fun _ t => vecResult_writeVec t g vd.val _

end

/-! ## The obligations -/

theorem vec_imad (i : Issue) (g : Gov) (vd a b c : Fin 64) : Vec (.imad i g vd a b c) i g vd (fun _ t l =>
    (BitVec.ofInt 32 ((lane (vreg t a.val) l).toInt * (lane (vreg t b.val) l).toInt + (lane (vreg t c.val) l).toInt),
      laneBad (vreg t a.val) l || laneBad (vreg t b.val) l || laneBad (vreg t c.val) l)) := by
  simp only [← ofInt_mul_add_eq]
  exact completes_of_tile _ (fun _ => rfl) (fun _ _ => rfl) fun _ t => vecResult_writeVec t g vd.val _

theorem integerLanes : IntegerLanes := fun i g vd a b c =>
  ⟨vec_int2 add_eq_ofNat (fun _ => rfl) (fun _ _ => rfl), vec_int2 sub_eq_ofInt (fun _ => rfl) (fun _ _ => rfl),
    vec_int2 (fun _ _ => satInt_eq _) (fun _ => rfl) (fun _ _ => rfl), vec_int2 (fun _ _ => satInt_eq _) (fun _ => rfl) (fun _ _ => rfl),
    vec_int2 ofInt_mul_eq (fun _ => rfl) (fun _ _ => rfl), vec_int2 imulh_signed (fun _ => rfl) (fun _ _ => rfl),
    vec_int2 imulh_unsigned (fun _ => rfl) (fun _ _ => rfl), vec_imad i g vd a b c,
    vec_int2 imin_signed (fun _ => rfl) (fun _ _ => rfl), vec_int2 imin_unsigned (fun _ => rfl) (fun _ _ => rfl),
    vec_int2 imax_signed (fun _ => rfl) (fun _ _ => rfl), vec_int2 imax_unsigned (fun _ => rfl) (fun _ _ => rfl)⟩

theorem vec_vpcnt (i : Issue) (g : Gov) (vd : Fin 64) (ps : Fin 8) : Vec (.vpcnt i g vd ps) i g vd (fun _ t _ =>
    (BitVec.ofNat 32 ((List.range 64).countP (fun k => (preg t ps.val).val.testBit k)), (preg t ps.val).taint)) := by
  simp only [List.countP_eq_length_filter]
  exact completes_of_tile _ (fun _ => rfl) (fun _ _ => rfl) fun _ t => vecResult_writeVec t g vd.val _

theorem bitwiseAndMoves : BitwiseAndMoves := fun i g vd _ _ _ ps =>
  ⟨vec_int2 (fun _ _ => rfl) (fun _ => rfl) (fun _ _ => rfl), vec_int2 (fun _ _ => rfl) (fun _ => rfl) (fun _ _ => rfl),
    vec_int2 (fun _ _ => rfl) (fun _ => rfl) (fun _ _ => rfl), vec_int1 vnot_eq (fun _ => rfl) (fun _ _ => rfl),
    vec_int2 ishl_eq (fun _ => rfl) (fun _ _ => rfl), vec_int2 ishr_eq (fun _ => rfl) (fun _ _ => rfl),
    vec_int2 isra_eq (fun _ => rfl) (fun _ _ => rfl), vec_int1 (fun _ => rfl) (fun _ => rfl) (fun _ _ => rfl),
    vec_const (fun _ => rfl) (fun _ _ => rfl), vec_const (fun _ => rfl) (fun _ _ => rfl), vec_const (fun _ => rfl) (fun _ _ => rfl),
    vec_vpcnt i g vd ps⟩

/-- Settles O48: each instruction makes of a tile a vector result whose lanes are the operation's, and each operation has its
closed form. -/
theorem integerAndBitwise : Obligations.IntegerAndBitwise := ⟨integerLanes, bitwiseAndMoves⟩

/-! ## Comparisons and predicate operations (04 R93 R98 R102 R114) -/

theorem fcmp_eq (cc : Cc) (x y : Word) : fcmp cc x y = cmpHolds cc x y := by
  unfold fcmp cmpHolds ccInt
  cases cc <;> rfl

/-- ICMP in the relations of bit vectors. -/
def intHolds (cc : Cc) (u : Bool) (x y : Word) : Bool :=
  match cc, u with
  | .eq, _ => x == y
  | .ne, _ => x != y
  | .lt, false => x.slt y
  | .lt, true => x.ult y
  | .le, false => x.sle y
  | .le, true => x.ule y
  | .gt, false => y.slt x
  | .gt, true => y.ult x
  | .ge, false => y.sle x
  | .ge, true => y.ule x

theorem beq_toInt (x y : Word) : (x.toInt == y.toInt) = (x == y) := by
  rw [Bool.eq_iff_iff, beq_iff_eq, beq_iff_eq, BitVec.toInt_inj]

theorem beq_toNat (x y : Word) : ((x.toNat : Int) == (y.toNat : Int)) = (x == y) := by
  rw [Bool.eq_iff_iff, beq_iff_eq, beq_iff_eq, Nat.cast_inj, BitVec.toNat_inj]

theorem icmpLane_eq (cc : Cc) (u : Bool) (x y : Word) : icmpLane cc u x y = intHolds cc u x y := by
  cases u <;> cases cc <;>
    simp [icmpLane, intHolds, ccInt, beq_toInt, beq_toNat, bne, BitVec.slt, BitVec.sle, BitVec.ult, BitVec.ule]

/-- A comparison writes its predicate register. -/
theorem completes_compare {x : Instr} {i : Issue} {g : Gov} {pd : Fin 8} {a : Fin 64} {b : Src} {op op' : Word → Word → Bool}
    (hop : ∀ p q, op p q = op' p q) (hexec : ∀ s, exec x s = issueX s i x)
    (hstep : ∀ c site, tileExec x c site = tCmp op g pd.val a.val b c site) :
    Completes x i g noEvent noEvent (fun _ t t' =>
      PredResult g pd.val (fun l => (op' (lane (vreg t a.val) l) (lane (vreg t b.r.val) (if b.b then 0 else l)),
        laneBad (vreg t a.val) l || laneBad (vreg t b.r.val) (if b.b then 0 else l))) (fun _ => false) t t') := by
  obtain rfl : op = op' := funext fun p => funext fun q => hop p q
  exact completes_of_tile _ hexec hstep fun _ t => predResult_writeCmp t g pd.val _

theorem comparisons : Comparisons := fun _ _ cc _ _ vb _ =>
  ⟨completes_compare (fcmp_eq cc) (fun _ => rfl) (fun _ _ => rfl),
    fun u => completes_compare (b := ⟨vb, false⟩) (icmpLane_eq cc u) (fun _ => rfl) (fun _ _ => rfl)⟩

/-- An operation of two predicate registers. -/
theorem completes_pred2 {x : Instr} {i : Issue} {g : Gov} {pd a b : Fin 8} {op : Bool → Bool → Bool}
    (hexec : ∀ s, exec x s = issueX s i x) (hstep : ∀ c site, tileExec x c site = tPred2 op g pd.val a.val b.val c site) :
    Completes x i g noEvent noEvent (fun _ t t' =>
      PredResult g pd.val (fun l => (op ((preg t a.val).val.testBit l) ((preg t b.val).val.testBit l),
        (preg t a.val).taint || (preg t b.val).taint)) (fun l => !g.zero && (preg t pd.val).val.testBit l) t t') :=
  completes_of_tile _ hexec hstep fun _ t => predResult_writePred t g pd.val _

theorem completes_pnot (i : Issue) (g : Gov) (pd a : Fin 8) :
    Completes (.pnot i g pd a) i g noEvent noEvent (fun _ t t' =>
      PredResult g pd.val (fun l => (!(preg t a.val).val.testBit l, (preg t a.val).taint))
        (fun l => !g.zero && (preg t pd.val).val.testBit l) t t') :=
  completes_of_tile _ (fun _ => rfl) (fun _ _ => rfl) fun _ t => predResult_writePred t g pd.val _

theorem completes_pfrom (i : Issue) (g : Gov) (pd : Fin 8) (va : Fin 64) :
    Completes (.pfrom i g pd va) i g noEvent noEvent (fun _ t t' =>
      PredResult g pd.val (fun l => (decide (lane (vreg t va.val) l ≠ 0), laneBad (vreg t va.val) l))
        (fun l => !g.zero && (preg t pd.val).val.testBit l) t t') := by
  have hne : ∀ w : Word, decide (w ≠ 0) = (w != 0) := fun w => by rw [Bool.eq_iff_iff]; simp
  simp only [hne]
  exact completes_of_tile _ (fun _ => rfl) (fun _ _ => rfl) fun _ t => predResult_writePred t g pd.val _

theorem predicateOperations : PredicateOperations := fun i g pd a _ va =>
  ⟨completes_pred2 (fun _ => rfl) (fun _ _ => rfl), completes_pred2 (fun _ => rfl) (fun _ _ => rfl),
    completes_pred2 (fun _ => rfl) (fun _ _ => rfl), completes_pnot i g pd a, completes_pfrom i g pd va⟩

/-- Settles O49: a comparison and a predicate operation make of a tile a predicate result, whose bits are the relation's. -/
theorem predicateResults : Obligations.PredicateResults := ⟨comparisons, predicateOperations⟩

/-! ## Address registers (04 R92 R94) -/

/-- Settles O6: each of the three puts its value into an address register of the tile. -/
theorem addressRegisters : Obligations.AddressRegisters := fun _ _ ad _ _ =>
  ⟨completes_of_tile _ (fun _ => rfl) (fun _ _ => rfl) fun _ t => addrResult_setAreg t ad.val _,
    completes_of_tile _ (fun _ => rfl) (fun _ _ => rfl) fun _ t => addrResult_setAreg t ad.val _,
    completes_of_tile _ (fun _ => rfl) (fun _ _ => rfl) fun _ t => addrResult_setAreg t ad.val _⟩

end Sys2Proof.Proofs
end

section
/-! PROOFS. FP32 elementwise operations, selections, permutations and conversions (04 R98 R101 to R104 R114 R115, 02 R64). -/

namespace Sys2Proof.Proofs

open Sys2Proof Sys2Proof.Machine Sys2Proof.Claims Sys2Proof.Laws

/-! ## Selections and permutations (04 R98 R102) -/

theorem completes_vsel (i : Issue) (g : Gov) (vd a : Fin 64) (b : Src) (ps : Fin 8) :
    Completes (.vsel i g vd a b ps) i g noEvent noEvent (fun _ t t' =>
      VecResult (preg t ps.val).taint g vd.val
        (fun l => if (preg t ps.val).val.testBit l then on1 id a t l else on1 id b.r t (if b.b then 0 else l)) t t') :=
  completes_of_tile _ (fun _ => rfl) (fun _ _ => rfl) fun _ t => vecResult_writeVecUnder (preg t ps.val).taint t g vd.val _

/-- A vector instruction that collects vector events of its lanes. -/
theorem vec_of_lanes {x : Instr} {i : Issue} {g : Gov} {vd : Fin 64} {f : State → Tile → Nat → TW}
    {ev : State → Tile → Nat → Nat} (hexec : ∀ s, exec x s = issueX s i x)
    (H : ∀ (s : State) (c : Chip) (site : Nat), c.regs = s.chip.regs → tileExec x c site =
      setTile (vecEv c (laneEv (tileAt c site) g (ev s (tileAt c site)))) site (writeVec (tileAt c site) g vd.val (f s (tileAt c site)))) :
    Vec x i g vd f ev :=
  completes_of_tiles (fun s t => writeVec t g vd.val (f s t)) hexec
    (fun s c site hregs => by
      have hnone : noEvent s (tileAt c site) = fun _ => 0 := rfl
      rw [hnone, laneEv_none, convEv_none]
      exact H s c site hregs)
    fun s t => vecResult_writeVec t g vd.val (f s t)

/-- One that collects conversion events of its lanes. -/
theorem vec_of_conversions {x : Instr} {i : Issue} {g : Gov} {vd : Fin 64} {f : State → Tile → Nat → TW}
    {ev : State → Tile → Nat → Nat} (hexec : ∀ s, exec x s = issueX s i x)
    (H : ∀ (s : State) (c : Chip) (site : Nat), c.regs = s.chip.regs → tileExec x c site =
      setTile (convEv c (laneEv (tileAt c site) g (ev s (tileAt c site)))) site (writeVec (tileAt c site) g vd.val (f s (tileAt c site)))) :
    Vec x i g vd f noEvent ev :=
  completes_of_tiles (fun s t => writeVec t g vd.val (f s t)) hexec
    (fun s c site hregs => by
      have hnone : noEvent s (tileAt c site) = fun _ => 0 := rfl
      rw [hnone, laneEv_none, vecEv_none]
      exact H s c site hregs)
    fun s t => vecResult_writeVec t g vd.val (f s t)

theorem vec_vperm (i : Issue) (g : Gov) (vd a vi : Fin 64) : Vec (.vperm i g vd a vi) i g vd
    (fun _ t l =>
      let k := (lane (vreg t vi.val) l).toNat
      if k < 64 then (lane (vreg t a.val) k, laneBad (vreg t a.val) k || laneBad (vreg t vi.val) l)
      else (0, laneBad (vreg t vi.val) l))
    (fun _ t l => if (lane (vreg t vi.val) l).toNat < 64 then 0 else 1) :=
  vec_of_lanes (fun _ => rfl) fun _ _ _ _ => rfl

/-- Settles O1: VSEL writes under the taint of the register that selects, VPERM collects the event of each active lane. -/
theorem selectAndPermute : Obligations.SelectAndPermute := fun i g vd a vi b ps =>
  ⟨completes_vsel i g vd a b ps, vec_vperm i g vd a vi⟩

/-! ## FP32 elementwise operations (04 R98 R101 R115) -/

section
variable {x : Instr} {i : Issue} {g : Gov} {vd a : Fin 64}

theorem vec_fp2 {b : Src} {op : Bool → Word → Word → Word × Nat} (hexec : ∀ s, exec x s = issueX s i x)
    (hstep : ∀ c site, tileExec x c site = tFp2 op g vd.val a.val b c site) :
    Vec x i g vd (fun s => on2 (fun x y => (op (ieee s.chip) x y).1) a b)
      (fun s t l => (op (ieee s.chip) (lane (vreg t a.val) l) (lane (vreg t b.r.val) (if b.b then 0 else l))).2) :=
  vec_of_lanes hexec fun s c site hregs => by
    rw [hstep, ← ieee_congr hregs]
    rfl

theorem vec_fp1 {op : Bool → Word → Word × Nat} (hexec : ∀ s, exec x s = issueX s i x)
    (hstep : ∀ c site, tileExec x c site = tFp1 op g vd.val a.val c site) :
    Vec x i g vd (fun s => on1 (fun x => (op (ieee s.chip) x).1) a)
      (fun s t l => (op (ieee s.chip) (lane (vreg t a.val) l)).2) :=
  vec_of_lanes hexec fun s c site hregs => by
    rw [hstep, ← ieee_congr hregs]
    rfl

end

theorem vec_vfma (i : Issue) (g : Gov) (vd a : Fin 64) (b c : Src) : Vec (.vfma i g vd a b c) i g vd
    (fun s t l =>
      let y := on1 id b.r t (if b.b then 0 else l)
      let z := on1 id c.r t (if c.b then 0 else l)
      ((ffma (ieee s.chip) (lane (vreg t a.val) l) y.1 z.1).1, laneBad (vreg t a.val) l || y.2 || z.2))
    (fun s t l => (ffma (ieee s.chip) (lane (vreg t a.val) l) (lane (vreg t b.r.val) (if b.b then 0 else l))
      (lane (vreg t c.r.val) (if c.b then 0 else l))).2) :=
  vec_of_lanes (fun _ => rfl) fun s d site hregs => by
    rw [← ieee_congr hregs]
    rfl

/-- Settles O2: each operation collects the events of its active lanes and writes its results under the predicate and the mode,
with the policy that the entry 3001h:01 holds at the issue. -/
theorem fpElementwise : Obligations.FpElementwise := fun i g vd a _ b c =>
  ⟨vec_fp2 (fun _ => rfl) (fun _ _ => rfl), vec_fp2 (fun _ => rfl) (fun _ _ => rfl), vec_fp2 (fun _ => rfl) (fun _ _ => rfl),
    vec_fp2 (fun _ => rfl) (fun _ _ => rfl), vec_fp2 (op := fun _ x y => (fmin x y, 0)) (fun _ => rfl) (fun _ _ => rfl),
    vec_fp2 (op := fun _ x y => (fmax x y, 0)) (fun _ => rfl) (fun _ _ => rfl),
    vec_fp1 (op := fun _ x => (fabs x, 0)) (fun _ => rfl) (fun _ _ => rfl),
    vec_fp1 (op := fun _ x => (fneg x, 0)) (fun _ => rfl) (fun _ _ => rfl),
    vec_fp1 (fun _ => rfl) (fun _ _ => rfl), vec_fp1 (fun _ => rfl) (fun _ _ => rfl), vec_fp1 (fun _ => rfl) (fun _ _ => rfl),
    vec_fp1 (fun _ => rfl) (fun _ _ => rfl),
    vec_vfma i g vd a b c⟩

/-! ## Images of registers (04 R92 R104) -/

theorem leNat_append (a b : List Byte) : leNat (a ++ b) = leNat a + 256 ^ a.length * leNat b := by
  induction a with
  | nil => simp [leNat]
  | cons x rest ih =>
    simp only [List.cons_append, leNat, ih, List.length_cons]
    ring

theorem leNat_lt (a : List Byte) : leNat a < 256 ^ a.length := by
  induction a with
  | nil => simp [leNat]
  | cons x rest ih =>
    have hx := x.isLt
    simp only [leNat, List.length_cons, pow_succ]
    omega

theorem leNat_replicate_zero (n : Nat) : leNat (List.replicate n 0) = 0 := by
  induction n with
  | zero => rfl
  | succ n ih => rw [List.replicate_succ, leNat, ih]; rfl

theorem leNat_drop (a : List Byte) (o : Nat) : leNat (a.drop o) = leNat a / 256 ^ o := by
  induction o generalizing a with
  | zero => simp
  | succ o ih =>
    cases a with
    | nil => simp [leNat]
    | cons x rest =>
      have hx := x.isLt
      rw [List.drop_succ_cons, ih, leNat, pow_succ', ← Nat.div_div_eq_div_mul]
      congr 1
      omega

theorem leNat_take (a : List Byte) (n : Nat) : leNat (a.take n) = leNat a % 256 ^ n := by
  induction n generalizing a with
  | zero => simp [leNat, Nat.mod_one]
  | succ n ih =>
    cases a with
    | nil => simp [leNat]
    | cons x rest =>
      have hx := x.isLt
      rw [List.take_succ_cons, leNat, leNat, ih, pow_succ', Nat.mod_mul]
      have hlow : (x.toNat + 256 * leNat rest) % 256 = x.toNat := by omega
      have hhigh : (x.toNat + 256 * leNat rest) / 256 = leNat rest := by omega
      rw [hlow, hhigh]

/-- The number that a slice spells. -/
theorem leNat_slice (a : List Byte) (o n : Nat) : leNat (slice a o n) = leNat a / 256 ^ o % 256 ^ n := by
  rw [slice, leNat_append, leNat_replicate_zero, Nat.mul_zero, Nat.add_zero, leNat_take, leNat_drop]

/-- Element l of a packed stream of 64 elements that begins at a byte of an image (02 R49). -/
theorem packedElem_slice (a : List Byte) (o w : Nat) {l : Nat} (hl : l < 64) :
    packedElem w (leNat (slice a o (8 * w))) l = (leNat a >>> (8 * o + w * l)) % 2 ^ w := by
  have hpow : ∀ n, 256 ^ n = 2 ^ (8 * n) := fun n => by rw [pow_mul]; rfl
  refine Nat.eq_of_testBit_eq fun b => ?_
  simp only [packedElem, leNat_slice, hpow, ← Nat.shiftRight_eq_div_pow, Nat.testBit_mod_two_pow, Nat.testBit_shiftRight]
  by_cases hb : b < w
  · have hin : w * l + b < 8 * (8 * w) := by
      have : w * l ≤ w * 63 := Nat.mul_le_mul_left w (by omega)
      omega
    simp only [hb, hin, decide_true, Bool.true_and]
    congr 1
    omega
  · simp [hb]

/-! ## Lanes below 64 decide -/

theorem laneEv_congr (t : Tile) (g : Gov) {f f' : Nat → Nat} (h : ∀ l < 64, f l = f' l) : laneEv t g f = laneEv t g f' := by
  unfold laneEv
  exact List.foldl_ext _ _ _ fun n l hl => by rw [h l (List.mem_range.mp hl)]

theorem writeLanes_congr (old : VReg) {f f' : Nat → Option TW} (h : ∀ l < 64, f l = f' l) :
    writeLanes old f = writeLanes old f' := by
  simp only [writeLanes]
  congr 1
  · exact List.map_congr_left fun l hl => by rw [h l (List.mem_range.mp hl)]
  · refine List.map_congr_left fun k hk => ?_
    have hk := List.mem_range.mp hk
    rw [Bool.eq_iff_iff, List.any_eq_true, List.any_eq_true]
    refine exists_congr fun j => and_congr_right fun hj => ?_
    have hj := List.mem_range.mp hj
    rw [h (16 * k + j) (by omega)]

theorem writeVec_congr (t : Tile) (g : Gov) (vd : Nat) {f f' : Nat → TW} (h : ∀ l < 64, f l = f' l) :
    writeVec t g vd f = writeVec t g vd f' :=
  congrArg (setVreg t vd) (writeLanes_congr _ fun l hl => by rw [h l hl])

/-! ## Conversions (04 R103 R104) -/

theorem vec_vcvt {i : Issue} {g : Gov} {vd a : Fin 64} {m : RMode} {d : Cvt} {op : Bool → Word → Nat × Nat}
    (hop : ∀ ie x, cvtLane ie d m x = (BitVec.ofNat 32 (op ie x).1, (op ie x).2)) :
    Vec (.vcvt i g d m vd a) i g vd (fun s => on1 (fun x => BitVec.ofNat 32 (op (ieee s.chip) x).1) a)
      noEvent (fun s t l => (op (ieee s.chip) (lane (vreg t a.val) l)).2) :=
  vec_of_conversions (fun _ => rfl) fun s c site hregs => by
    have hexec : tileExec (.vcvt i g d m vd a) c site = tCvt g d m vd.val a.val c site := rfl
    rw [hexec, ← ieee_congr hregs]
    simp only [tCvt, hop]
    rfl

/-- The element that VDQ decodes for a lane. -/
def decodedCode (f : Fmt) (o : Fin 256) (a : Fin 64) (t : Tile) (l : Nat) : Nat :=
  (leNat (vregBytes (vreg t a.val)) >>> (8 * o.val + fmtWidth f * l)) % 2 ^ fmtWidth f

/-- The scale code under which VDQ decodes a lane. -/
def decodedScale (scaled : Bool) (vk : Fin 64) (t : Tile) (l : Nat) : Nat :=
  if scaled then (lane (vreg t vk.val) (l / 32)).toNat % 256 else 127

theorem vec_vdq (i : Issue) (g : Gov) (vd a vk : Fin 64) (f : Fmt) (scaled : Bool) (o : Fin 256) :
    Vec (.vdq i g vd a vk f scaled o) i g vd
      (fun s t l => (BitVec.ofNat 32 (dequantElem f (ieee s.chip) (decodedScale scaled vk t l) (decodedCode f o a t l)).1,
        laneBad (vreg t a.val) ((8 * o.val + fmtWidth f * l) / 32) ||
          laneBad (vreg t a.val) ((8 * o.val + fmtWidth f * l + fmtWidth f - 1) / 32) ||
          (scaled && laneBad (vreg t vk.val) (l / 32))))
      noEvent (fun s t l => (dequantElem f (ieee s.chip) (decodedScale scaled vk t l) (decodedCode f o a t l)).2) := by
  refine vec_of_conversions (fun _ => rfl) fun s c site hregs => ?_
  have hexec : tileExec (.vdq i g vd a vk f scaled o) c site = tDq g vd.val a.val vk.val f scaled o.val c site := rfl
  have hcode : ∀ l < 64, packedElem (fmtWidth f) (leNat (slice (vregBytes (vreg (tileAt c site) a.val)) o.val (8 * fmtWidth f))) l =
      decodedCode f o a (tileAt c site) l := fun l hl => packedElem_slice _ _ _ hl
  rw [hexec, ← ieee_congr hregs, tDq]
  dsimp only
  rw [laneEv_congr (f' := fun l => (dequantElem f (ieee c) (decodedScale scaled vk (tileAt c site) l)
      (decodedCode f o a (tileAt c site) l)).2) _ _ fun l hl => by rw [hcode l hl]; rfl]
  exact congrArg (setTile _ site) (writeVec_congr _ _ _ fun l hl => by rw [hcode l hl]; rfl)

/-- Settles O7: VCVT and VDQ collect the conversion events of their active lanes; an element of VDQ is the same in the slice
that the command reads as in the image of the register. -/
theorem conversions : Obligations.Conversions := fun i g vd a vk m f scaled o =>
  ⟨vec_vcvt (op := fun ie x => convert .int32 ie m (f32 x)) fun _ _ => rfl,
    vec_vcvt (op := fun ie x => convert .bf16 ie m (f32 x)) fun _ _ => rfl,
    vec_vcvt (op := fun ie x => convert .fp16 ie m (f32 x)) fun _ _ => rfl,
    vec_vcvt (op := fun ie x => convert .fp32 ie .rne (intVal x.toInt)) fun _ _ => rfl,
    vec_vcvt (op := fun ie x => convert .fp32 ie m (decodeFmt .bf16 (x.toNat % 65536))) fun _ _ => rfl,
    vec_vcvt (op := fun ie x => convert .fp32 ie m (decodeFmt .fp16 (x.toNat % 65536))) fun _ _ => rfl,
    vec_int1 (fun _ => rfl) (fun _ => rfl) (fun _ _ => rfl), vec_vdq i g vd a vk f scaled o⟩

end Sys2Proof.Proofs
end

section
/-! PROOFS. Reductions across the lanes of a register: the pairwise tree, the maximum and its lowest lane (04 R99 R114). -/

namespace Sys2Proof.Proofs

open Sys2Proof Sys2Proof.Machine Sys2Proof.Claims Sys2Proof.Laws

/-- An execute instruction that changes each issuing tile by itself, without events, answers. -/
theorem answers_of_tile {x : Instr} {i : Issue} {s : State} (hissues : Issues s i true x) (hready : AllReady s i) (m : Tile → Tile)
    (hexec : ∀ s, exec x s = issueX s i x) (H : ∀ (c : Chip) (site : Nat), tileExec x c site = modTile c site m) :
    Answers x s (fun t => OnlyTiles s t i true x ∧ t.chip.acc = s.chip.acc ∧
      ∀ site ∈ issueSites s.chip i, tileAt t.chip site = m (tileAt s.chip site)) := by
  obtain ⟨T, hnext, htiles⟩ := issueX_tiles hissues hready (m := fun site => m (tileAt s.chip site)) (e := fun _ A => A) (by
    intro T A site _ hkept
    rw [H, modTile, hkept]
    rfl)
  rw [List.foldl_fixed] at hnext
  exact ⟨_, (hexec s).trans hnext, onlyTiles_issued _ _ htiles, rfl, fun site hsite => (htiles _ site).trans (if_pos hsite)⟩

/-- What the step adds up, with vector event bits. -/
def withVecEvents (a : Acc) (v : Nat) : Acc := { a with vec := a.vec ||| v }

theorem foldl_withVecEvents (v : Nat → Nat) (l : List Nat) (a : Acc) :
    l.foldl (fun a site => withVecEvents a (v site)) a = { a with vec := l.foldl (fun n site => n ||| v site) a.vec } := by
  induction l generalizing a with
  | nil => rfl
  | cons site rest ih => rw [List.foldl_cons, ih]; rfl

/-! ## One word in every lane (04 R99 R114) -/

theorem anyTaint_iff (t : Tile) (g : Gov) (a : Fin 64) : anyTaint t g a.val = true ↔
    ∃ l < 64, (preg t g.p.val).val.testBit l = true ∧ laneBad (vreg t a.val) l = true := by
  simp [anyTaint]

theorem tainted_iff (t : Tile) (g : Gov) (a : Fin 64) :
    Tainted t g a ↔ (anyTaint t g a.val || (preg t g.p.val).taint) = true := by
  rw [Bool.or_eq_true, anyTaint_iff, or_comm]
  rfl

theorem vreg_writeAll_ne (t : Tile) (g : Gov) (f : Nat → TW) {vd r : Nat} (h : r ≠ vd) :
    vreg (writeAll t g vd f) r = vreg t r := vreg_setVreg_ne _ _ h

theorem writeAll_rest (t : Tile) (g : Gov) (vd : Nat) (f : Nat → TW) :
    writeAll t g vd f = { t with v := (writeAll t g vd f).v } := rfl

/-- A granule that takes the same taint in every lane. -/
theorem exists_lane_of_granule {k : Nat} (hk : k < 4) (p : Prop) : (∃ l < 64, l / 16 = k ∧ p) ↔ p :=
  ⟨fun ⟨_, _, _, hp⟩ => hp, fun hp => ⟨16 * k, by omega, by omega, hp⟩⟩

theorem spread_writeAll (t : Tile) (g : Gov) (vd : Nat) (w : Word) (bad : Bool) :
    Spread vd w ((bad || (preg t g.p.val).taint) = true) t (writeAll t g vd (fun _ => (w, bad))) where
  lanes := fun l hl => by
    rw [writeAll, vreg_setVreg_same, lane_writeLanes _ _ hl]
  poison := fun k hk => by
    rw [writeAll, vreg_setVreg_same, poison_writeLanes _ _ hk]
    exact exists_lane_of_granule hk _

theorem spread_congr {vd : Nat} {w : Word} {p q : Prop} {t t' : Tile} (h : Spread vd w p t t') (hpq : p ↔ q) :
    Spread vd w q t t' := ⟨h.lanes, fun k hk => (h.poison k hk).trans hpq⟩

theorem activeOr_eq (t : Tile) (g : Gov) (a : Fin 64) (d : Word) :
    activeOr t g a.val d = (List.range 64).map (entering t g a d) := rfl

/-! ## The pairwise tree (04 R99) -/

/-- One level of the tree: the sums of neighbours, and an event where one of them has it. -/
theorem sumLevel_map (ie : Bool) (n : Nat) (x : Nat → Word) :
    (sumLevel ie ((List.range (2 * n)).map x)).1 = (List.range n).map (fun j => (fadd ie (x (2 * j)) (x (2 * j + 1))).1) ∧
      ∀ b, (sumLevel ie ((List.range (2 * n)).map x)).2.testBit b = true ↔
        ∃ j < n, (fadd ie (x (2 * j)) (x (2 * j + 1))).2.testBit b = true := by
  induction n generalizing x with
  | zero => simp [sumLevel]
  | succ n ih =>
    obtain ⟨hsums, hevents⟩ := ih (fun k => x (k + 2))
    have hlist : (List.range (2 * (n + 1))).map x = x 0 :: x 1 :: (List.range (2 * n)).map (fun k => x (k + 2)) := by
      rw [show 2 * (n + 1) = 2 * n + 1 + 1 by omega, List.range_succ_eq_map, List.range_succ_eq_map]
      simp [Function.comp_def]
    refine ⟨?_, fun b => ?_⟩
    · rw [hlist, sumLevel, hsums, List.range_succ_eq_map]
      simp only [List.map_cons, List.map_map]
      rfl
    · rw [hlist, sumLevel, Nat.testBit_or, Bool.or_eq_true, hevents, Nat.exists_lt_succ_left]
      rfl

/-- The levels of the tree from level d on. -/
theorem sumTree_map (ie : Bool) (x : Nat → Word) (k d e : Nat) :
    (sumTree ie k ((List.range (2 ^ k)).map (treeSum ie x d)) e).1 = [treeSum ie x (d + k) 0] ∧
      ∀ b, (sumTree ie k ((List.range (2 ^ k)).map (treeSum ie x d)) e).2.testBit b = true ↔ e.testBit b = true ∨
        ∃ m < k, ∃ j < 2 ^ (k - 1 - m),
          (fadd ie (treeSum ie x (d + m) (2 * j)) (treeSum ie x (d + m) (2 * j + 1))).2.testBit b = true := by
  induction k generalizing d e with
  | zero => simp [sumTree]
  | succ k ih =>
    obtain ⟨hsums, hevents⟩ := sumLevel_map ie (2 ^ k) (treeSum ie x d)
    have hnext : (List.range (2 ^ k)).map (fun j => (fadd ie (treeSum ie x d (2 * j)) (treeSum ie x d (2 * j + 1))).1) =
        (List.range (2 ^ k)).map (treeSum ie x (d + 1)) := rfl
    rw [pow_succ', sumTree, hsums, hnext]
    obtain ⟨hroot, htree⟩ := ih (d + 1) (e ||| (sumLevel ie ((List.range (2 * 2 ^ k)).map (treeSum ie x d))).2)
    refine ⟨by rw [hroot, Nat.add_right_comm, Nat.add_assoc], fun b => ?_⟩
    rw [htree, Nat.testBit_or, Bool.or_eq_true, hevents, or_assoc, Nat.exists_lt_succ_left]
    refine or_congr_right (or_congr Iff.rfl (exists_congr fun m => and_congr_right fun hm => ?_))
    rw [show k + 1 - 1 - (m + 1) = k - 1 - m by omega, show d + (m + 1) = d + 1 + m by omega]

/-- 04 R99: VRSUM adds in the pairwise tree, every event of which counts. -/
theorem answers_vrsum {s : State} {i : Issue} {g : Gov} {vd a : Fin 64} (hissues : Issues s i true (.vrsum i g vd a))
    (hready : AllReady s i) : Answers (.vrsum i g vd a) s (fun t =>
      OnlyTiles s t i true (.vrsum i g vd a) ∧ t.chip.acc.conv = s.chip.acc.conv ∧
      (∀ b, t.chip.acc.vec.testBit b = true ↔ s.chip.acc.vec.testBit b = true ∨
        ∃ site ∈ issueSites s.chip i, ∃ k < 6, ∃ j < 2 ^ (5 - k),
          let x := entering (tileAt s.chip site) g a 0x80000000
          (fadd (ieee s.chip) (treeSum (ieee s.chip) x k (2 * j)) (treeSum (ieee s.chip) x k (2 * j + 1))).2.testBit b = true) ∧
      ∀ site ∈ issueSites s.chip i,
        let u := tileAt s.chip site
        let u' := tileAt t.chip site
        Spread vd.val (treeSum (ieee s.chip) (entering u g a 0x80000000) 6 0) (Tainted u g a) u u' ∧
          (∀ r, r ≠ vd.val → vreg u' r = vreg u r) ∧ u' = { u with v := u'.v }) := by
  let x := fun site => entering (tileAt s.chip site) g a 0x80000000
  have htree := fun site => sumTree_map (ieee s.chip) (x site) 6 0 0
  obtain ⟨T, hnext, htiles⟩ := issueX_tiles hissues hready
    (m := fun site => writeAll (tileAt s.chip site) g vd.val (fun _ =>
      ((sumTree (ieee s.chip) 6 ((List.range 64).map (x site)) 0).1.getD 0 0, anyTaint (tileAt s.chip site) g a.val)))
    (e := fun site A => withVecEvents A (sumTree (ieee s.chip) 6 ((List.range 64).map (x site)) 0).2) (by
      intro T A site _ hkept
      have hexec : tileExec (.vrsum i g vd a) (issued s i (.vrsum i g vd a) T A) site =
        tRsum g vd.val a.val (issued s i (.vrsum i g vd a) T A) site := rfl
      rw [hexec, tRsum, hkept, activeOr_eq]
      rfl)
  rw [foldl_withVecEvents] at hnext
  refine ⟨_, hnext, onlyTiles_issued _ _ htiles, rfl, fun b => ?_, fun site hsite => ?_⟩
  · refine (testBit_foldl_or _ _ _ _).trans (or_congr_right (exists_congr fun site => and_congr_right fun _ => ?_))
    have hevents := (htree site).2 b
    simp only [Nat.zero_testBit, Bool.false_eq_true, false_or, Nat.zero_add] at hevents
    exact hevents
  · have hroot : (sumTree (ieee s.chip) 6 ((List.range 64).map (x site)) 0).1 = [treeSum (ieee s.chip) (x site) 6 0] := (htree site).1
    rw [show tileAt (issued s i _ T _) site = _ from (htiles _ site).trans (if_pos hsite), hroot]
    exact ⟨spread_congr (spread_writeAll ..) (tainted_iff _ g a).symm, fun r hr => vreg_writeAll_ne _ _ _ hr, writeAll_rest _ _ _ _⟩

/-! ## The maximum (04 R99) -/

theorem isNaN_f32NaN : isNaN32 f32NaN = true := by decide

theorem fmax_nan {a b : Word} (h : isNaN32 a = true ∨ isNaN32 b = true) : fmax a b = f32NaN := by
  unfold fmax
  rw [if_pos (by simpa using h)]

/-- Of two numbers VMAX takes one, no lower than either. -/
theorem fmax_number {a b : Word} (ha : isNaN32 a = false) (hb : isNaN32 b = false) :
    (fmax a b = a ∨ fmax a b = b) ∧ f32Key a ≤ f32Key (fmax a b) ∧ f32Key b ≤ f32Key (fmax a b) := by
  unfold fmax
  simp only [ha, hb, Bool.or_self, Bool.false_eq_true, if_false]
  split
  · exact ⟨.inr rfl, by omega, le_rfl⟩
  · exact ⟨.inl rfl, le_rfl, by omega⟩

theorem foldl_fmax_nan (l : List Word) (x : Word) (h : x = f32NaN ∨ ∃ y ∈ l, isNaN32 y = true) : l.foldl fmax x = f32NaN := by
  induction l generalizing x with
  | nil => simpa using h
  | cons y rest ih =>
    refine ih _ ?_
    rcases h with rfl | ⟨z, hz, hnan⟩
    · exact .inl (fmax_nan (.inl isNaN_f32NaN))
    · rcases List.mem_cons.mp hz with rfl | hz
      · exact .inl (fmax_nan (.inr hnan))
      · exact .inr ⟨z, hz, hnan⟩

theorem foldl_fmax_number (l : List Word) (x : Word) (h : ∀ y ∈ x :: l, isNaN32 y = false) :
    l.foldl fmax x ∈ x :: l ∧ ∀ y ∈ x :: l, f32Key y ≤ f32Key (l.foldl fmax x) := by
  induction l generalizing x with
  | nil => simp
  | cons y rest ih =>
    obtain ⟨hx, hy, hrest⟩ : isNaN32 x = false ∧ isNaN32 y = false ∧ ∀ z ∈ rest, isNaN32 z = false := by simpa using h
    obtain ⟨hone, hkx, hky⟩ := fmax_number hx hy
    have hmax : isNaN32 (fmax x y) = false := by rcases hone with h | h <;> rwa [h]
    obtain ⟨hmem, hge⟩ := ih (fmax x y) (by simpa [hmax] using hrest)
    have hfirst := hge _ (List.mem_cons_self ..)
    refine ⟨?_, fun z hz => ?_⟩
    · rcases List.mem_cons.mp hmem with h | h
      · rw [List.foldl_cons, h]
        rcases hone with h | h <;> simp [h]
      · exact List.mem_cons_of_mem _ (List.mem_cons_of_mem _ h)
    · rcases List.mem_cons.mp hz with rfl | hz
      · exact hkx.trans hfirst
      · rcases List.mem_cons.mp hz with rfl | hz
        · exact hky.trans hfirst
        · exact hge _ (List.mem_cons_of_mem _ hz)

/-- The maximum of the lanes that enter. -/
theorem isMax_maxLanes (x : Nat → Word) : IsMax x (maxLanes ((List.range 64).map x)) := by
  have hlist : (List.range 64).map x = x 0 :: (List.range 63).map (fun k => x (k + 1)) := by
    rw [List.range_succ_eq_map, List.map_cons, List.map_map]
    rfl
  have hmem : ∀ y, y ∈ x 0 :: (List.range 63).map (fun k => x (k + 1)) ↔ ∃ l < 64, x l = y := by
    intro y
    rw [← hlist]
    simp
  rw [hlist, maxLanes]
  refine ⟨fun ⟨l, hl, hnan⟩ => foldl_fmax_nan _ _ ?_, fun hnum => ?_⟩
  · rcases List.mem_cons.mp ((hmem (x l)).mpr ⟨l, hl, rfl⟩) with h | h
    · exact .inl (if_pos (h ▸ hnan))
    · exact .inr ⟨x l, h, hnan⟩
  · rw [hnum 0 (by decide), if_neg (by decide)]
    obtain ⟨hin, hge⟩ := foldl_fmax_number ((List.range 63).map (fun k => x (k + 1))) (x 0)
      (fun y hy => by obtain ⟨l, hl, rfl⟩ := (hmem y).mp hy; exact hnum l hl)
    exact ⟨(hmem _).mp hin, fun l hl => hge _ ((hmem _).mpr ⟨l, hl, rfl⟩)⟩

theorem answers_vrmax {s : State} {i : Issue} {g : Gov} {vd a : Fin 64} (hissues : Issues s i true (.vrmax i g vd a))
    (hready : AllReady s i) : Answers (.vrmax i g vd a) s (fun t =>
      OnlyTiles s t i true (.vrmax i g vd a) ∧ t.chip.acc = s.chip.acc ∧
      ∀ site ∈ issueSites s.chip i,
        let u := tileAt s.chip site
        let u' := tileAt t.chip site
        (∃ w, IsMax (entering u g a 0xFF800000) w ∧ Spread vd.val w (Tainted u g a) u u') ∧
          (∀ r, r ≠ vd.val → vreg u' r = vreg u r) ∧ u' = { u with v := u'.v }) := by
  obtain ⟨t, hnext, honly, hacc, htiles⟩ := answers_of_tile hissues hready
    (fun t => writeAll t g vd.val (fun _ => (maxLanes (activeOr t g a.val 0xFF800000), anyTaint t g a.val)))
    (fun _ => rfl) (fun _ _ => rfl)
  refine ⟨t, hnext, honly, hacc, fun site hsite => ?_⟩
  simp only [htiles site hsite]
  exact ⟨⟨_, isMax_maxLanes _, spread_congr (spread_writeAll ..) (tainted_iff _ g a).symm⟩, fun r hr => vreg_writeAll_ne _ _ _ hr,
    writeAll_rest _ _ _ _⟩

/-! ## The lowest lane that holds the maximum (04 R99) -/

/-- A lane holds the maximum: any NaN where the maximum is NaN. -/
def holdsMax (m w : Word) : Bool := if isNaN32 m then isNaN32 w else w == m

theorem isNaN_of_isMax {x : Nat → Word} {m : Word} (h : IsMax x m) : isNaN32 m = true ↔ m = f32NaN := by
  refine ⟨fun hm => ?_, fun hm => hm ▸ isNaN_f32NaN⟩
  by_cases hany : ∃ l < 64, isNaN32 (x l) = true
  · exact h.1 hany
  · have hnum : ∀ l < 64, isNaN32 (x l) = false := by simpa using hany
    obtain ⟨⟨l, hl, rfl⟩, -⟩ := h.2 hnum
    rw [hnum l hl] at hm
    cases hm

theorem held_of_isMax {x : Nat → Word} {m : Word} (h : IsMax x m) : ∃ l < 64, holdsMax m (x l) = true := by
  by_cases hany : ∃ l < 64, isNaN32 (x l) = true
  · obtain ⟨l, hl, hnan⟩ := hany
    exact ⟨l, hl, by rw [holdsMax, h.1 ⟨l, hl, hnan⟩, if_pos isNaN_f32NaN, hnan]⟩
  · have hnum : ∀ l < 64, isNaN32 (x l) = false := by simpa using hany
    obtain ⟨⟨l, hl, hlane⟩, -⟩ := h.2 hnum
    exact ⟨l, hl, by rw [holdsMax, ← hlane, if_neg (by rw [hnum l hl]; decide), beq_self_eq_true]⟩

/-- The first lane of 64 with a property that some lane has. -/
theorem findIdx_lanes {x : Nat → Word} {p : Word → Bool} (h : ∃ l < 64, p (x l) = true) :
    ∃ l < 64, (((List.range 64).map x).findIdx? p).getD 0 = l ∧ p (x l) = true ∧ ∀ k < l, p (x k) = false := by
  cases hfind : ((List.range 64).map x).findIdx? p with
  | none =>
    obtain ⟨l, hl, hp⟩ := h
    rw [List.findIdx?_eq_none_iff] at hfind
    have := hfind (x l) (List.mem_map.mpr ⟨l, List.mem_range.mpr hl, rfl⟩)
    rw [hp] at this
    cases this
  | some l =>
    rw [List.findIdx?_eq_some_iff_getElem] at hfind
    obtain ⟨hl, hp, hbefore⟩ := hfind
    simp only [List.length_map, List.length_range] at hl
    refine ⟨l, hl, rfl, by simpa using hp, fun k hk => ?_⟩
    simpa using hbefore k hk

/-- The first lane that holds the maximum. -/
theorem lowest_of_holdsMax {x : Nat → Word} {m : Word} (h : IsMax x m) {l : Nat} (hl : holdsMax m (x l) = true)
    (hbefore : ∀ k < l, holdsMax m (x k) = false) :
    if m = f32NaN then isNaN32 (x l) = true ∧ ∀ k < l, isNaN32 (x k) = false else x l = m ∧ ∀ k < l, x k ≠ m := by
  unfold holdsMax at hl hbefore
  split
  · next hm =>
    have hnan := (isNaN_of_isMax h).mpr hm
    simp only [hnan, if_true] at hl hbefore
    exact ⟨hl, hbefore⟩
  · next hm =>
    have hnum : isNaN32 m = false := Bool.eq_false_iff.mpr fun hnan => hm ((isNaN_of_isMax h).mp hnan)
    simp only [hnum, Bool.false_eq_true, if_false, beq_iff_eq, beq_eq_false_iff_ne, ne_eq] at hl hbefore
    exact ⟨hl, hbefore⟩

/-- A register of which lane 0 alone is written. -/
theorem lane_indexLane (old : VReg) (w : Word) (bad : Bool) {l : Nat} (hl : l < 64) :
    lane (writeLanes old (fun l => if l = 0 then some (w, bad) else none)) l = if l = 0 then w else lane old l := by
  rw [lane_writeLanes _ _ hl]
  by_cases h : l = 0
  · simp only [h, if_true]
  · simp only [h, if_false]

/-- The poison of a register of which lane 0 alone is written. -/
theorem poison_indexLane (old : VReg) (w : Word) (bad : Bool) {k : Nat} (hk : k < 4) :
    (writeLanes old (fun l => if l = 0 then some (w, bad) else none)).poison.getD k false = true ↔
      (if k = 0 then bad || old.poison.getD k false else old.poison.getD k false) = true := by
  rw [poison_writeLanes _ _ hk]
  split
  · next h0 =>
    subst h0
    rw [Bool.or_eq_true]
    constructor
    · rintro ⟨l, -, -, h⟩
      split at h
      · next heq => split at heq <;> cases heq; exact .inl h
      · exact .inr h
    · rintro (h | h)
      · exact ⟨0, by decide, rfl, h⟩
      · exact ⟨1, by decide, rfl, h⟩
  · constructor
    · rintro ⟨l, -, hgran, h⟩
      rwa [if_neg (by omega)] at h
    · intro h
      exact ⟨16 * k, by omega, by omega, by rwa [if_neg (by omega)]⟩

/-- The tile after a VRMAXI. -/
def indexedMax (g : Gov) (vd a : Nat) (t : Tile) : Tile :=
  let l := activeOr t g a 0xFF800000
  let bad := anyTaint t g a || (preg t g.p.val).taint
  let u := writeAll t g vd (fun _ => (maxLanes l, bad))
  setVreg u (vd + 1) (writeLanes (vreg u (vd + 1))
    (fun k => if k = 0 then some (BitVec.ofNat 32 ((l.findIdx? (holdsMax (maxLanes l))).getD 0), bad) else none))

section
variable (g : Gov) (vd a : Fin 64) (u : Tile)

theorem vreg_indexedMax_index : vreg (indexedMax g vd.val a.val u) (vd.val + 1) = writeLanes (vreg u (vd.val + 1))
    (fun k => if k = 0 then some (BitVec.ofNat 32 ((((List.range 64).map (entering u g a 0xFF800000)).findIdx?
      (holdsMax (maxLanes ((List.range 64).map (entering u g a 0xFF800000))))).getD 0),
      anyTaint u g a.val || (preg u g.p.val).taint) else none) := by
  simp only [indexedMax, vreg_setVreg_same, vreg_writeAll_ne u g _ (Nat.succ_ne_self vd.val), activeOr_eq]

theorem vreg_indexedMax_ne {r : Nat} (hr : r ≠ vd.val + 1) : vreg (indexedMax g vd.val a.val u) r =
    vreg (writeAll u g vd.val (fun _ => (maxLanes ((List.range 64).map (entering u g a 0xFF800000)),
      anyTaint u g a.val || (preg u g.p.val).taint))) r := vreg_setVreg_ne _ _ hr

theorem indexedMax_rest : indexedMax g vd.val a.val u = { u with v := (indexedMax g vd.val a.val u).v } := rfl

theorem spread_indexedMax : Spread vd.val (maxLanes ((List.range 64).map (entering u g a 0xFF800000))) (Tainted u g a) u
    (indexedMax g vd.val a.val u) := by
  have h := spread_writeAll u g vd.val (maxLanes ((List.range 64).map (entering u g a 0xFF800000)))
    (anyTaint u g a.val || (preg u g.p.val).taint)
  have hreg := vreg_indexedMax_ne g vd a u (Nat.succ_ne_self vd.val).symm
  refine ⟨fun l hl => ?_, fun k hk => ?_⟩
  · rw [hreg, h.lanes l hl]
  · rw [hreg, h.poison k hk, tainted_iff, Bool.or_assoc, Bool.or_self]

end

theorem answers_vrmaxi {s : State} {i : Issue} {g : Gov} {vd a : Fin 64} (hissues : Issues s i true (.vrmaxi i g vd a))
    (hready : AllReady s i) : Answers (.vrmaxi i g vd a) s (fun t =>
      OnlyTiles s t i true (.vrmaxi i g vd a) ∧ t.chip.acc = s.chip.acc ∧
      ∀ site ∈ issueSites s.chip i,
        let u := tileAt s.chip site
        let u' := tileAt t.chip site
        let x := entering u g a 0xFF800000
        (∃ w, IsMax x w ∧ Spread vd.val w (Tainted u g a) u u' ∧
          ∃ l < 64, (if w = f32NaN then isNaN32 (x l) = true ∧ ∀ k < l, isNaN32 (x k) = false
              else x l = w ∧ ∀ k < l, x k ≠ w) ∧
            lane (vreg u' (vd.val + 1)) 0 = BitVec.ofNat 32 l) ∧
          (∀ l, 0 < l → l < 64 → lane (vreg u' (vd.val + 1)) l = lane (vreg u (vd.val + 1)) l) ∧
          ((vreg u' (vd.val + 1)).poison.getD 0 false = true ↔
            Tainted u g a ∨ (vreg u (vd.val + 1)).poison.getD 0 false = true) ∧
          (∀ k, 0 < k → k < 4 → (vreg u' (vd.val + 1)).poison.getD k false = (vreg u (vd.val + 1)).poison.getD k false) ∧
          (∀ r, r ≠ vd.val → r ≠ vd.val + 1 → vreg u' r = vreg u r) ∧ u' = { u with v := u'.v }) := by
  obtain ⟨t, hnext, honly, hacc, htiles⟩ := answers_of_tile hissues hready (indexedMax g vd.val a.val) (fun _ => rfl) (fun _ _ => rfl)
  refine ⟨t, hnext, honly, hacc, fun site hsite => ?_⟩
  simp only [htiles site hsite]
  set u := tileAt s.chip site
  have hmax := isMax_maxLanes (entering u g a 0xFF800000)
  have hfirst := findIdx_lanes (held_of_isMax hmax)
  have hreg := vreg_indexedMax_index g vd a u
  have hspread := spread_indexedMax g vd a u
  generalize maxLanes ((List.range 64).map (entering u g a 0xFF800000)) = w at hmax hfirst hreg hspread
  obtain ⟨l, hl, hindex, hheld, hbefore⟩ := hfirst
  rw [hindex] at hreg
  refine ⟨⟨w, hmax, hspread, l, hl, ?_, ?_⟩, fun k hk hk64 => ?_, ?_, fun k hk hk4 => ?_, fun r hr hr' => ?_,
    indexedMax_rest g vd a u⟩
  · exact lowest_of_holdsMax hmax hheld hbefore
  · rw [hreg]
    exact lane_indexLane _ _ _ (by decide)
  · rw [hreg, lane_indexLane _ _ _ hk64, if_neg (by omega)]
  · rw [hreg, poison_indexLane _ _ _ (by decide), if_pos rfl, Bool.or_eq_true, tainted_iff]
  · rw [Bool.eq_iff_iff, hreg, poison_indexLane _ _ _ hk4, if_neg (by omega)]
  · rw [vreg_indexedMax_ne g vd a u hr', vreg_writeAll_ne u g _ hr]

/-- Settles O5: VRSUM by the levels of the tree, VRMAX by the fold of the maximum, VRMAXI by the first lane that holds it; an odd
register names no instruction. -/
theorem reductions : Obligations.Reductions := fun i g vd a s hready =>
  ⟨fun h => answers_vrsum h hready, fun h => answers_vrmax h hready, fun _ h => answers_vrmaxi h hready, fun hodd => by
    have hwf : (Instr.vrmaxi i g vd a).wf = false := by simp [Instr.wf, hodd]
    have hexec : exec (.vrmaxi i g vd a) s = issueX s i (.vrmaxi i g vd a) := rfl
    exact hexec.trans (issueWith_illFormed _ hwf)⟩

end Sys2Proof.Proofs
end

section
/-! PROOFS. The slotting instructions: the slots in lane order, the counters, the event bit (04 R110 R114 R115 R116). -/

namespace Sys2Proof.Proofs

open Sys2Proof Sys2Proof.Machine Sys2Proof.Claims Sys2Proof.Laws

/-! ## The experts that lanes name -/

section
variable (t : Tile) (g : Gov) (ve : Fin 64)

theorem expert_active {l : Nat} (h : (preg t g.p.val).val.testBit l = true) :
    expert t g ve l = inRange (lane (vreg t ve.val) l).toInt 256 := if_pos h

theorem expert_inactive {l : Nat} (h : (preg t g.p.val).val.testBit l = false) : expert t g ve l = none :=
  if_neg (by rw [h]; decide)

theorem earlier_zero (e : Nat) : earlier t g ve e 0 = 0 := rfl

theorem earlier_succ (e n : Nat) :
    earlier t g ve e (n + 1) = earlier t g ve e n + if expert t g ve n = some e then 1 else 0 := by
  simp [earlier, List.range_succ, List.countP_append, List.countP_singleton]

theorem earlier_unnamed (e : Nat) {n : Nat} (h : expert t g ve n = none) :
    earlier t g ve e (n + 1) = earlier t g ve e n := by
  rw [earlier_succ, h]
  rfl

theorem earlier_named {m n : Nat} (h : expert t g ve n = some m) : earlier t g ve m (n + 1) = earlier t g ve m n + 1 := by
  rw [earlier_succ, h, if_pos rfl]

theorem earlier_other {e m n : Nat} (h : expert t g ve n = some m) (hne : e ≠ m) :
    earlier t g ve e (n + 1) = earlier t g ve e n := by
  rw [earlier_succ, h, if_neg (by simpa using hne.symm), Nat.add_zero]

theorem slotOf_unnamed {cap l : Nat} (h : expert t g ve l = none) : slotOf t g ve cap l = none := by
  rw [slotOf, h]

theorem slotOf_named {cap l m : Nat} (h : expert t g ve l = some m) : slotOf t g ve cap l =
    if slotCtr t m + earlier t g ve m l < cap then some (slotCtr t m + earlier t g ve m l) else none := by
  rw [slotOf, h]

end

theorem expert_lt {t : Tile} {g : Gov} {ve : Fin 64} {l m : Nat} (h : expert t g ve l = some m) : m < 256 := by
  unfold expert at h
  split at h
  · simp only at h
    split at h
    · cases h
      omega
    · cases h
  · cases h

/-! ## The lanes of a VSLOT, one after the other -/

/-- What an active lane receives. -/
def slotWord (t : Tile) (g : Gov) (ve : Fin 64) (cap l : Nat) : Word :=
  match slotOf t g ve cap l with
  | some k => BitVec.ofNat 32 k
  | none => 0xFFFFFFFF

/-- A lane names an expert and takes no slot. -/
def refused (t : Tile) (g : Gov) (ve : Fin 64) (cap l : Nat) : Bool :=
  (expert t g ve l).isSome && (slotOf t g ve cap l).isNone

/-- The run of a VSLOT of a tile t after its lanes below n. -/
structure SlottedTo (t : Tile) (g : Gov) (ve : Fin 64) (cap : Nat) (taint : Bool) (n : Nat) (r : SlotRun) : Prop where
  tile : r.t = { t with slots := r.t.slots, slotTaint := taint }
  counters : ∀ m < 256, slotCtr r.t m =
    if slotCtr t m < cap then min cap (slotCtr t m + earlier t g ve m n) else slotCtr t m
  words : ∀ l < n, (preg t g.p.val).val.testBit l = true →
    r.out.find? (fun x => x.1 == l) = some (l, slotWord t g ve cap l)
  bits : ∀ l, r.bits.testBit l = (decide (l < n) && (slotOf t g ve cap l).isSome)
  assigned : r.assigned = (List.range n).countP (fun l => (slotOf t g ve cap l).isSome)
  dropped : r.dropped = (List.range n).countP (refused t g ve cap)
  events : ∀ b, r.ev.testBit b = true ↔ ∃ l < n, (preg t g.p.val).val.testBit l = true ∧
    (if (expert t g ve l).isSome then 0 else 32 : Nat).testBit b = true

section
variable {t : Tile} {g : Gov} {ve : Fin 64} {cap : Nat} {taint : Bool} {n : Nat} {r : SlotRun}

/-- The bits after a lane that takes no slot. -/
theorem SlottedTo.bits_without (h : SlottedTo t g ve cap taint n r) (hslot : slotOf t g ve cap n = none) (l : Nat) :
    r.bits.testBit l = (decide (l < n + 1) && (slotOf t g ve cap l).isSome) := by
  rw [h.bits]
  by_cases hl : l = n
  · simp [hl, hslot]
  · simp [show l < n + 1 ↔ l < n by omega]

theorem SlottedTo.assigned_without (h : SlottedTo t g ve cap taint n r) (hslot : slotOf t g ve cap n = none) :
    r.assigned = (List.range (n + 1)).countP (fun l => (slotOf t g ve cap l).isSome) := by
  rw [h.assigned, List.range_succ, List.countP_append, List.countP_singleton, hslot]
  rfl

theorem SlottedTo.dropped_without (h : SlottedTo t g ve cap taint n r) (hkept : refused t g ve cap n = false) :
    r.dropped = (List.range (n + 1)).countP (refused t g ve cap) := by
  rw [h.dropped, List.range_succ, List.countP_append, List.countP_singleton, hkept]
  rfl

theorem SlottedTo.counters_without (h : SlottedTo t g ve cap taint n r) (hexpert : expert t g ve n = none) :
    ∀ m < 256, slotCtr r.t m =
      if slotCtr t m < cap then min cap (slotCtr t m + earlier t g ve m (n + 1)) else slotCtr t m := fun m hm => by
  rw [h.counters m hm, earlier_unnamed t g ve m hexpert]

theorem refused_unnamed (hexpert : expert t g ve n = none) : refused t g ve cap n = false := by
  rw [refused, hexpert]
  rfl

/-- A lane that is not active leaves the run as it is. -/
theorem SlottedTo.inactive (h : SlottedTo t g ve cap taint n r) (hoff : (preg t g.p.val).val.testBit n = false) :
    SlottedTo t g ve cap taint (n + 1) r := by
  have hexpert := expert_inactive t g ve hoff
  have hslot := slotOf_unnamed t g ve (cap := cap) hexpert
  refine ⟨h.tile, h.counters_without hexpert, fun l hl hon => ?_, h.bits_without hslot, h.assigned_without hslot,
    h.dropped_without (refused_unnamed hexpert), fun b => ?_⟩
  · refine h.words l (lt_of_le_of_ne (Nat.le_of_lt_succ hl) ?_) hon
    rintro rfl
    rw [hoff] at hon
    cases hon
  · rw [h.events, Nat.exists_lt_succ_right, hoff]
    simp

/-- The words after an active lane. -/
theorem find_cons_words {out : List (Nat × Word)} {n : Nat} {w : Word} {f : Nat → Word} {on : Nat → Prop} (hw : f n = w)
    (h : ∀ l < n, on l → out.find? (fun x => x.1 == l) = some (l, f l)) :
    ∀ l < n + 1, on l → ((n, w) :: out).find? (fun x => x.1 == l) = some (l, f l) := by
  intro l hl hon
  by_cases hn : n = l
  · subst hn
    rw [List.find?_cons_of_pos (by simp), hw]
  · rw [List.find?_cons_of_neg (by simpa using hn), h l (by omega) hon]

/-- An active lane that names no expert. -/
theorem SlottedTo.unnamed (h : SlottedTo t g ve cap taint n r) (hon : (preg t g.p.val).val.testBit n = true)
    (hexpert : expert t g ve n = none) :
    SlottedTo t g ve cap taint (n + 1) { r with out := (n, 0xFFFFFFFF) :: r.out, ev := 32 } := by
  have hslot := slotOf_unnamed t g ve (cap := cap) hexpert
  refine ⟨h.tile, h.counters_without hexpert, find_cons_words (by rw [slotWord, hslot]) h.words, h.bits_without hslot,
    h.assigned_without hslot, h.dropped_without (refused_unnamed hexpert), fun b => ?_⟩
  constructor
  · exact fun hb => ⟨n, Nat.lt_succ_self n, hon, by rw [hexpert]; exact hb⟩
  · rintro ⟨l, -, -, hb⟩
    split at hb
    · simp at hb
    · exact hb

theorem events_named {m : Nat} (hexpert : expert t g ve n = some m) (h : SlottedTo t g ve cap taint n r) (b : Nat) :
    r.ev.testBit b = true ↔ ∃ l < n + 1, (preg t g.p.val).val.testBit l = true ∧
      (if (expert t g ve l).isSome then 0 else 32 : Nat).testBit b = true := by
  rw [h.events, Nat.exists_lt_succ_right, hexpert]
  simp

/-- An active lane that names an expert below the capacity. -/
theorem SlottedTo.taken (h : SlottedTo t g ve cap taint n r) (hcap : cap ≤ 256) {m : Nat}
    (hexpert : expert t g ve n = some m) (hroom : slotCtr t m + earlier t g ve m n < cap) :
    SlottedTo t g ve cap taint (n + 1) { r with
      t := setSlotCtr r.t m (slotCtr t m + earlier t g ve m n + 1),
      out := (n, BitVec.ofNat 32 (slotCtr t m + earlier t g ve m n)) :: r.out,
      bits := setBit r.bits n, assigned := r.assigned + 1 } := by
  have hslot : slotOf t g ve cap n = some (slotCtr t m + earlier t g ve m n) := by
    rw [slotOf_named t g ve hexpert, if_pos hroom]
  refine ⟨?_, fun k hk => ?_, find_cons_words (by rw [slotWord, hslot]) h.words, fun l => ?_, ?_, ?_,
    fun b => ((events_named hexpert h b :))⟩
  · change setSlotCtr r.t _ _ = _
    rw [h.tile]
    rfl
  · change slotCtr (setSlotCtr r.t _ _) k = _
    by_cases hkm : k = m
    · subst hkm
      rw [slotCtr_setSlotCtr_same, earlier_named t g ve hexpert, if_pos (by omega)]
      omega
    · rw [slotCtr_setSlotCtr_ne _ _ hkm, h.counters k hk, earlier_other t g ve hexpert hkm]
  · change (setBit r.bits n).testBit l = _
    rw [setBit, Nat.testBit_or, h.bits, Nat.testBit_two_pow]
    by_cases hl : l = n
    · simp [hl, hslot]
    · simp [show l < n + 1 ↔ l < n by omega, Ne.symm hl]
  · rw [h.assigned, List.range_succ, List.countP_append, List.countP_singleton, hslot]
    rfl
  · exact h.dropped_without (by rw [refused, hslot, Option.isNone_some, Bool.and_false])

/-- An active lane that names an expert at its capacity. -/
theorem SlottedTo.full (h : SlottedTo t g ve cap taint n r) {m : Nat} (hexpert : expert t g ve n = some m)
    (hfull : ¬slotCtr t m + earlier t g ve m n < cap) :
    SlottedTo t g ve cap taint (n + 1) { r with out := (n, 0xFFFFFFFF) :: r.out, dropped := r.dropped + 1 } := by
  have hslot : slotOf t g ve cap n = none := by rw [slotOf_named t g ve hexpert, if_neg hfull]
  refine ⟨h.tile, fun k hk => ?_, find_cons_words (by rw [slotWord, hslot]) h.words, h.bits_without hslot,
    h.assigned_without hslot, ?_, fun b => ((events_named hexpert h b :))⟩
  · rw [h.counters k hk]
    by_cases hkm : k = m
    · subst hkm
      rw [earlier_named t g ve hexpert]
      split <;> omega
    · rw [earlier_other t g ve hexpert hkm]
  · rw [h.dropped, List.range_succ, List.countP_append, List.countP_singleton, refused, hslot, hexpert]
    rfl

/-- One active lane. -/
theorem SlottedTo.active (h : SlottedTo t g ve cap taint n r) (hcap : cap ≤ 256)
    (hon : (preg t g.p.val).val.testBit n = true) : SlottedTo t g ve cap taint (n + 1) (slotLane ve.val cap r n) := by
  have hreg : inRange (lane (vreg r.t ve.val) n).toInt 256 = expert t g ve n := by
    rw [expert_active t g ve hon, h.tile]
    rfl
  simp only [slotLane, hreg]
  cases hexpert : expert t g ve n with
  | none => exact h.unnamed hon hexpert
  | some m =>
    have hctr := h.counters m (expert_lt hexpert)
    by_cases hroom : slotCtr t m + earlier t g ve m n < cap
    · have hk : slotCtr r.t m = slotCtr t m + earlier t g ve m n := by
        rw [hctr, if_pos (by omega)]
        omega
      simp only [hk, hroom, if_true]
      exact h.taken hcap hexpert hroom
    · have hk : ¬slotCtr r.t m < cap := by
        rw [hctr]
        split <;> omega
      simp only [hk, if_false]
      exact h.full hexpert hroom

end

/-- The state of the run before the first lane. -/
def slotStart (t : Tile) (taint : Bool) : SlotRun :=
  { t := { t with slotTaint := taint }, out := [], bits := 0, assigned := 0, dropped := 0, ev := 0 }

theorem slottedTo_start (t : Tile) (g : Gov) (ve : Fin 64) (cap : Nat) (taint : Bool) :
    SlottedTo t g ve cap taint 0 (slotStart t taint) where
  tile := rfl
  counters := fun m _ => by
    rw [earlier_zero]
    change slotCtr t m = _
    split <;> omega
  words := fun l hl => absurd hl (Nat.not_lt_zero l)
  bits := fun l => by simp [slotStart]
  assigned := rfl
  dropped := rfl
  events := fun b => by simp [slotStart]

/-- The lanes below n. -/
theorem slottedTo_lanes (t : Tile) (g : Gov) (ve : Fin 64) {cap : Nat} (hcap : cap ≤ 256) (taint : Bool) (n : Nat) :
    SlottedTo t g ve cap taint n
      (((List.range n).filter (fun l => (preg t g.p.val).val.testBit l)).foldl (slotLane ve.val cap) (slotStart t taint)) := by
  induction n with
  | zero => exact slottedTo_start t g ve cap taint
  | succ n ih =>
    rw [List.range_succ, List.filter_append, List.foldl_append]
    cases hon : (preg t g.p.val).val.testBit n with
    | true => simpa [hon] using ih.active hcap hon
    | false => simpa [hon] using ih.inactive hon

/-! ## VSLOT of a tile -/

/-- The taint of all that a VSLOT writes. -/
def slotTainted (t : Tile) (g : Gov) (ve : Fin 64) : Bool := t.slotTaint || (preg t g.p.val).taint || anyTaint t g ve.val

/-- The run of a VSLOT of a tile. -/
def slotted (t : Tile) (g : Gov) (ve : Fin 64) (cap : Nat) : SlotRun :=
  (activeLanes t g).foldl (slotLane ve.val cap) (slotStart t (slotTainted t g ve))

theorem slottedTo_slotted (t : Tile) (g : Gov) (ve : Fin 64) {cap : Nat} (hcap : cap ≤ 256) :
    SlottedTo t g ve cap (slotTainted t g ve) 64 (slotted t g ve cap) := slottedTo_lanes t g ve hcap _ 64

/-- The word of a lane as the run holds it. -/
def runWord (r : SlotRun) (l : Nat) : Word :=
  match r.out.find? (fun x => x.1 == l) with
  | some x => x.2
  | none => 0

/-- The tile after a VSLOT. -/
def slottedTile (t : Tile) (g : Gov) (vd : Fin 64) (pd : Fin 8) (ve : Fin 64) (cap : Nat) : Tile :=
  setPreg (writeVecUnder (slotTainted t g ve && g.zero) (slotted t g ve cap).t g vd.val
    (fun l => (runWord (slotted t g ve cap) l, slotTainted t g ve))) pd.val ⟨(slotted t g ve cap).bits, slotTainted t g ve⟩

/-- A write depends on the values of the active lanes alone. -/
theorem writeVecUnder_congr (b : Bool) (t : Tile) (g : Gov) (vd : Nat) {f f' : Nat → TW}
    (h : ∀ l < 64, (preg t g.p.val).val.testBit l = true → f l = f' l) : writeVecUnder b t g vd f = writeVecUnder b t g vd f' :=
  congrArg (setVreg t vd) (writeLanes_congr _ fun l hl => by
    split
    · next hon => rw [h l hl hon]
    · rfl)

section
variable (t : Tile) (g : Gov) (vd : Fin 64) (pd : Fin 8) (ve : Fin 64) {cap : Nat}

theorem slottedTile_slots : (slottedTile t g vd pd ve cap).slots = (slotted t g ve cap).t.slots := by
  unfold slottedTile setPreg
  split <;> rfl

variable (hcap : cap ≤ 256)
include hcap

/-- The registers of a tile after a VSLOT: its vector registers are those after a write of the slots. -/
theorem slottedTile_vectors : { slottedTile t g vd pd ve cap with p := t.p, slots := t.slots, slotTaint := t.slotTaint } =
    writeVecUnder (slotTainted t g ve && g.zero) t g vd.val (fun l => (slotWord t g ve cap l, slotTainted t g ve)) := by
  have h := slottedTo_slotted t g ve hcap
  have hword : writeVecUnder (slotTainted t g ve && g.zero) t g vd.val
      (fun l => (runWord (slotted t g ve cap) l, slotTainted t g ve)) =
      writeVecUnder (slotTainted t g ve && g.zero) t g vd.val (fun l => (slotWord t g ve cap l, slotTainted t g ve)) :=
    writeVecUnder_congr _ _ _ _ fun l hl hon => by rw [runWord, h.words l hl hon]
  rw [← hword, slottedTile, h.tile]
  unfold setPreg
  split <;> rfl

theorem slottedTile_slotTaint : (slottedTile t g vd pd ve cap).slotTaint = slotTainted t g ve := by
  have h := congrArg Tile.slotTaint (slottedTo_slotted t g ve hcap).tile
  unfold slottedTile setPreg
  split <;> exact h

theorem slotCtr_slottedTile {m : Nat} (hm : m < 256) : slotCtr (slottedTile t g vd pd ve cap) m =
    if slotCtr t m < cap then min cap (slotCtr t m + earlier t g ve m 64) else slotCtr t m := by
  rw [← (slottedTo_slotted t g ve hcap).counters m hm, slotCtr, slottedTile_slots]
  rfl

theorem preg_slottedTile_same (hpd : pd.val ≠ 0) :
    (∀ l < 64, (preg (slottedTile t g vd pd ve cap) pd.val).val.testBit l = (slotOf t g ve cap l).isSome) ∧
      (preg (slottedTile t g vd pd ve cap) pd.val).taint = slotTainted t g ve := by
  rw [slottedTile, preg_setPreg_same _ _ hpd]
  exact ⟨fun l hl => by rw [(slottedTo_slotted t g ve hcap).bits]; simp [hl], rfl⟩

theorem preg_slottedTile_ne {p : Nat} (hp : p ≠ pd.val) : preg (slottedTile t g vd pd ve cap) p = preg t p := by
  rw [slottedTile, preg_setPreg_ne _ _ hp, (slottedTo_slotted t g ve hcap).tile]
  rfl

end

/-! ## VSLOT -/

/-- What the step adds up, with the lanes of a VSLOT and its event bit. -/
def withSlots (a : Acc) (taken dropped v : Nat) : Acc :=
  { a with counts := smMod 0 (smMod 0 a.counts (key 0x3040 2) (· + taken)) (key 0x3040 3) (· + dropped), vec := a.vec ||| v }

theorem tVslot_eq (g : Gov) (vd : Fin 64) (pd : Fin 8) (ve : Fin 64) (cap : Nat) (c : Chip) (site : Nat) :
    tVslot g vd.val pd.val ve.val cap c site =
      { setTile c site (slottedTile (tileAt c site) g vd pd ve cap) with
        acc := withSlots c.acc (slotted (tileAt c site) g ve cap).assigned (slotted (tileAt c site) g ve cap).dropped
          (slotted (tileAt c site) g ve cap).ev } := by
  have h : tVslot g vd.val pd.val ve.val cap c site = setTile (vecEv (bump (bump c (key 0x3040 2)
      (slotted (tileAt c site) g ve cap).assigned) (key 0x3040 3) (slotted (tileAt c site) g ve cap).dropped)
      (slotted (tileAt c site) g ve cap).ev) site (slottedTile (tileAt c site) g vd pd ve cap) := by
    simp only [tVslot, slottedTile, runWord]
    rfl
  rw [h]
  rfl

theorem smGet_smMod_ne (m : SMap Nat) {k j n : Nat} (h : j ≠ k) : smGet 0 (smMod 0 m k (· + n)) j = smGet 0 m j :=
  smGet_smSet_ne 0 m _ h

/-- What the tiles of a VSLOT add up. -/
theorem foldl_withSlots (f d v : Nat → Nat) (l : List Nat) (a : Acc) :
    let r := l.foldl (fun a site => withSlots a (f site) (d site) (v site)) a
    r = { a with counts := r.counts, vec := r.vec } ∧ r.vec = l.foldl (fun n site => n ||| v site) a.vec ∧
      smGet 0 r.counts (key 0x3040 2) = smGet 0 a.counts (key 0x3040 2) + (l.map f).sum ∧
      smGet 0 r.counts (key 0x3040 3) = smGet 0 a.counts (key 0x3040 3) + (l.map d).sum ∧
      ∀ j, j ≠ key 0x3040 2 → j ≠ key 0x3040 3 → smGet 0 r.counts j = smGet 0 a.counts j := by
  have hne : key 0x3040 2 ≠ key 0x3040 3 := by decide
  induction l generalizing a with
  | nil => exact ⟨rfl, rfl, rfl, rfl, fun _ _ _ => rfl⟩
  | cons site rest ih =>
    obtain ⟨hrest, hvec, htaken, hdropped, hother⟩ := ih (withSlots a (f site) (d site) (v site))
    simp only [List.foldl_cons, List.map_cons, List.sum_cons]
    refine ⟨hrest, hvec, ?_, ?_, fun j h2 h3 => ?_⟩
    · rw [htaken, withSlots, smGet_smMod_ne _ hne, smGet_smMod_same, Nat.add_assoc]
    · rw [hdropped, withSlots, smGet_smMod_same, smGet_smMod_ne _ hne.symm, Nat.add_assoc]
    · rw [hother j h2 h3, withSlots, smGet_smMod_ne _ h3, smGet_smMod_ne _ h2]

/-- The events of a VSLOT in the tiles that issue. -/
theorem eventsGain_slots {s : State} {i : Issue} {g : Gov} {ve : Fin 64} {cap : Nat} (hcap : cap ≤ 256) :
    EventsGain s.chip.acc.vec
      ((issueSites s.chip i).foldl (fun n site => n ||| (slotted (tileAt s.chip site) g ve cap).ev) s.chip.acc.vec) s i g
      (fun _ u l => if (expert u g ve l).isSome then 0 else 32) := fun b => by
  rw [testBit_foldl_or]
  exact or_congr_right (exists_congr fun site => and_congr_right fun _ => (slottedTo_slotted _ g ve hcap).events b)

theorem capacity_of_wf {i : Issue} {g : Gov} {vd ve : Fin 64} {pd : Fin 8} {cap : Nat}
    (hwf : (Instr.vslot i g vd pd ve cap).wf = true) : cap ≤ 256 := by
  simp only [Instr.wf, Bool.and_eq_true, decide_eq_true_eq] at hwf
  exact hwf.2

theorem answers_vslot {s : State} {i : Issue} {g : Gov} {vd ve : Fin 64} {pd : Fin 8} {cap : Nat} (hready : AllReady s i)
    (hissues : Issues s i true (.vslot i g vd pd ve cap)) (hwf : (Instr.vslot i g vd pd ve cap).wf = true) :
    Answers (.vslot i g vd pd ve cap) s (fun t =>
      let lanes := fun (P : Tile → Nat → Bool) =>
        ((issueSites s.chip i).map (fun site => (List.range 64).countP (P (tileAt s.chip site)))).sum
      t = { s with chip := { s.chip with
        seqs := (noteIssue s.chip i true (.vslot i g vd pd ve cap)).seqs, tiles := t.chip.tiles,
        acc := { s.chip.acc with vec := t.chip.acc.vec, counts := t.chip.acc.counts } } } ∧
      (∀ site, site ∉ issueSites s.chip i → tileAt t.chip site = tileAt s.chip site) ∧
      EventsGain s.chip.acc.vec t.chip.acc.vec s i g (fun _ u l => if (expert u g ve l).isSome then 0 else 32) ∧
      Counts s.chip t.chip (key 0x3040 2) (lanes (fun u l => (slotOf u g ve cap l).isSome)) [key 0x3040 3] ∧
      Counts s.chip t.chip (key 0x3040 3) (lanes (fun u => refused u g ve cap)) [key 0x3040 2] ∧
      ∀ site ∈ issueSites s.chip i, tileAt t.chip site = slottedTile (tileAt s.chip site) g vd pd ve cap) := by
  have hcap := capacity_of_wf hwf
  obtain ⟨T, hnext, htiles⟩ := issueX_tiles hissues hready (m := fun site => slottedTile (tileAt s.chip site) g vd pd ve cap)
    (e := fun site a => withSlots a (slotted (tileAt s.chip site) g ve cap).assigned
      (slotted (tileAt s.chip site) g ve cap).dropped (slotted (tileAt s.chip site) g ve cap).ev)
    (fun T A site _ hkept => (tVslot_eq g vd pd ve cap _ site).trans (by rw [hkept]; rfl))
  obtain ⟨hacc, hvec, htaken, hdropped, hother⟩ := foldl_withSlots
    (fun site => (slotted (tileAt s.chip site) g ve cap).assigned) (fun site => (slotted (tileAt s.chip site) g ve cap).dropped)
    (fun site => (slotted (tileAt s.chip site) g ve cap).ev) (issueSites s.chip i) s.chip.acc
  refine ⟨_, hnext, ?_, fun y hy => (htiles _ y).trans (if_neg hy), ?_, ⟨?_, fun j h2 h3 => ?_⟩, ⟨?_, fun j h3 h2 => ?_⟩,
    fun y hy => (htiles _ y).trans (if_pos hy)⟩
  · exact congrArg (fun a => { s with chip := issued s i (.vslot i g vd pd ve cap) T a }) hacc
  · have h := eventsGain_slots (s := s) (i := i) (g := g) (ve := ve) hcap
    rw [← hvec] at h
    exact h
  · exact htaken.trans (congrArg (fun l => _ + List.sum l) (List.map_congr_left fun site _ =>
      (slottedTo_slotted _ g ve hcap).assigned))
  · exact hother j h2 (by simpa using h3)
  · exact hdropped.trans (congrArg (fun l => _ + List.sum l) (List.map_congr_left fun site _ =>
      (slottedTo_slotted _ g ve hcap).dropped))
  · exact hother j (by simpa using h2) h3

/-! ## The slot counter file read, written and cleared -/

/-- Counters put one after the other, of a group of 64. -/
theorem slotCtr_foldl_set (vs grp : Nat) (l : List Nat) (hl : ∀ k ∈ l, k < 64) (t : Tile) (n : Nat) :
    slotCtr (l.foldl (fun t k => setSlotCtr t (64 * grp + k) (lane (vreg t vs) k).toNat) t) n =
      if n / 64 = grp ∧ n % 64 ∈ l then (lane (vreg t vs) (n % 64)).toNat % 65536 else slotCtr t n := by
  induction l generalizing t with
  | nil => simp
  | cons k rest ih =>
    have hk := hl k (List.mem_cons_self ..)
    rw [List.foldl_cons, ih (fun j hj => hl j (List.mem_cons_of_mem _ hj))]
    change (if n / 64 = grp ∧ n % 64 ∈ rest then (lane (vreg t vs) (n % 64)).toNat % 65536 else
      slotCtr (setSlotCtr t (64 * grp + k) (lane (vreg t vs) k).toNat) n) = _
    by_cases hn : n = 64 * grp + k
    · have hgrp : n / 64 = grp := by omega
      have hlane : n % 64 = k := by omega
      rw [hlane, ← hn, slotCtr_setSlotCtr_same, ite_self, if_pos ⟨hgrp, List.mem_cons_self ..⟩]
    · have hne : n / 64 = grp → n % 64 ≠ k := by omega
      rw [slotCtr_setSlotCtr_ne _ _ hn]
      refine if_congr (and_congr_right fun hgrp => ?_) rfl rfl
      rw [List.mem_cons, or_iff_right (hne hgrp)]

theorem foldl_setSlotCtr_rest (f : Tile → Nat → Nat × Nat) (l : List Nat) (t : Tile) :
    l.foldl (fun t k => setSlotCtr t (f t k).1 (f t k).2) t =
      { t with slots := (l.foldl (fun t k => setSlotCtr t (f t k).1 (f t k).2) t).slots } := by
  induction l generalizing t with
  | nil => rfl
  | cons k rest ih => rw [List.foldl_cons, ih]; rfl

theorem mem_activeLanes (t : Tile) (g : Gov) (l : Nat) :
    l ∈ activeLanes t g ↔ l < 64 ∧ (preg t g.p.val).val.testBit l = true := by
  simp [activeLanes]

/-- The tile after a VSLSET. -/
def slotsSet (g : Gov) (vs grp : Nat) (t : Tile) : Tile :=
  { (activeLanes t g).foldl (fun t k => setSlotCtr t (64 * grp + k) (lane (vreg t vs) k).toNat) t with
    slotTaint := t.slotTaint || (activeLanes t g).any (fun l => laneBad (vreg t vs) l || (preg t g.p.val).taint) }

theorem slotsSet_rest (g : Gov) (vs grp : Nat) (t : Tile) :
    slotsSet g vs grp t = { t with slots := (slotsSet g vs grp t).slots, slotTaint := (slotsSet g vs grp t).slotTaint } := by
  unfold slotsSet
  rw [foldl_setSlotCtr_rest (fun t k => (64 * grp + k, (lane (vreg t vs) k).toNat))]

theorem slotCtr_slotsSet (g : Gov) (vs grp : Nat) (t : Tile) (n : Nat) : slotCtr (slotsSet g vs grp t) n =
    if n / 64 = grp ∧ (preg t g.p.val).val.testBit (n % 64) then (lane (vreg t vs) (n % 64)).toNat % 65536
    else slotCtr t n := by
  refine (slotCtr_foldl_set vs grp _ (fun k hk => ((mem_activeLanes t g k).mp hk).1) t n).trans
    (if_congr (and_congr_right fun _ => ?_) rfl rfl)
  rw [mem_activeLanes, and_iff_right (Nat.mod_lt _ (by decide))]

theorem completes_vslset (i : Issue) (g : Gov) (vs : Fin 64) (grp : Fin 4) :
    Completes (.vslset i g vs grp) i g noEvent noEvent (fun _ t t' =>
      (∀ n, slotCtr t' n =
        if n / 64 = grp.val ∧ (preg t g.p.val).val.testBit (n % 64) then (lane (vreg t vs.val) (n % 64)).toNat % 65536
        else slotCtr t n) ∧
      t' = { t with slots := t'.slots, slotTaint := t'.slotTaint }) :=
  completes_of_tile (slotsSet g vs.val grp.val) (fun _ => rfl) (fun _ _ => rfl) fun _ t =>
    ⟨slotCtr_slotsSet g vs.val grp.val t, slotsSet_rest g vs.val grp.val t⟩

theorem completes_vslmsk (i : Issue) (g : Gov) (vd : Fin 64) (e : SlotSel) :
    Completes (.vslmsk i g vd e) i g noEvent noEvent (fun _ t t' =>
      let n := match e with
        | .imm k => k.val
        | .areg a => areg t a.val % 256
      VecResult (t.slotTaint && g.zero) g vd.val (fun l =>
        (if l < 8 then BitVec.ofNat 32 ((2 ^ min (slotCtr t n) 256 - 1) / 2 ^ (32 * l)) else 0, t.slotTaint)) t t') := by
  simp only [← Nat.shiftRight_eq_div_pow]
  cases e with
  | imm k => exact completes_of_tile _ (fun _ => rfl) (fun _ _ => rfl) fun _ t => vecResult_writeVecUnder ..
  | areg a => exact completes_of_tile _ (fun _ => rfl) (fun _ _ => rfl) fun _ t => vecResult_writeVecUnder ..

/-- Settles O13: the lanes of VSLOT one after the other; the other four write what they read of the counters. -/
theorem slotting : Obligations.Slotting := fun i g vd vs ve pd cap grp e s hready => by
  refine ⟨fun hissues hwf => ?_, completes_vslmsk i g vd e,
    completes_of_tile _ (fun _ => rfl) (fun _ _ => rfl) fun _ t => vecResult_writeVecUnder .., completes_vslset i g vs grp,
    completes_of_tile (fun t => { t with slots := [], slotTaint := false }) (fun _ => rfl) (fun _ _ => rfl)
      fun _ t => ⟨fun _ => rfl, rfl, rfl⟩⟩
  have hcap := capacity_of_wf hwf
  obtain ⟨t, hnext, hrest, hother, hevents, htaken, hdropped, htiles⟩ := answers_vslot hready hissues hwf
  refine ⟨t, hnext, hrest, hother, hevents, htaken, hdropped, fun site hsite => ?_⟩
  simp only [htiles site hsite]
  refine ⟨?_, preg_slottedTile_same _ g vd pd ve hcap, fun n hn => slotCtr_slottedTile _ g vd pd ve hcap hn,
    slottedTile_slotTaint _ g vd pd ve hcap, fun p hp => preg_slottedTile_ne _ g vd pd ve hcap hp⟩
  rw [slottedTile_vectors _ g vd pd ve hcap]
  exact vecResult_writeVecUnder ..

end Sys2Proof.Proofs
end

section
/-! PROOFS. The operand cache: reads of words without a stored error, and the contiguous loads (04 R105 R106 R112). -/

namespace Sys2Proof.Proofs

open Sys2Proof Sys2Proof.Machine Sys2Proof.Claims Sys2Proof.Laws

/-! ## Words of the operand cache without a stored error -/

theorem wordAt_lt {x : Int} {w : Nat} (h : wordAt x = some w) : w < 65536 := by
  unfold wordAt at h
  split at h
  · cases h; omega
  · cases h

/-- A word lies in the granule of the sixteen words that it counts among. -/
theorem wordAddr_granule (site w : Nat) : wordAddr site (w / 16 * 16) / 64 = wordAddr site w / 64 := by
  unfold wordAddr
  omega

theorem markAt_none {c : Chip} {g : Nat} (h : smGet EccMark.none c.ecc g = EccMark.none) (hsound : c.flaws = []) :
    markAt c g = EccMark.none := by
  have hflaw : flawAt c (.granule g) = none := by
    rw [flawAt, hsound]
    rfl
  rw [markAt, h, if_pos rfl, hflaw]

/-- A read of a word without a stored error gives the word and the poison of its granule, and changes nothing. -/
theorem readWord_clean {c : Chip} {site w : Nat} (hclean : CacheClean c site) (hsound : c.flaws = []) (hw : w < 65536) :
    readWord c site w = (c, fromCache c site (some w)) := by
  have hmark : markAt c (wordAddr site w / 64) = EccMark.none := markAt_none (hclean w hw) hsound
  have hmask : wordMask EccMark.none w = 0 := by simp [wordMask, EccMark.none]
  have hfield : field (memBytes c.mem (wordAddr site w) 4) 0 4 = leNat (memBytes c.mem (wordAddr site w) 4) := by
    rw [field, List.drop_zero, List.take_of_length_le (length_memBytes ..).le]
  simp only [readWord, wordAddr_granule, hmark, hmask, if_true, hfield, granPoison]
  rfl

theorem mem_nsInsert (s : List Nat) (i j : Nat) : j ∈ nsInsert s i ↔ j = i ∨ j ∈ s := by
  have h := nsMem_nsInsert s i j
  rw [Bool.eq_iff_iff] at h
  simpa [nsMem] using h

/-- The words that are read once each are those named. -/
theorem mem_foldl_nsInsert (ws s : List Nat) (w : Nat) : w ∈ ws.foldl nsInsert s ↔ w ∈ ws ∨ w ∈ s := by
  induction ws generalizing s with
  | nil => simp
  | cons a rest ih => rw [List.foldl_cons, ih, mem_nsInsert, List.mem_cons]; tauto

/-- Reads that change nothing, one after the other. -/
theorem readEach_pure {c : Chip} {site : Nat} {v : Nat → TW} (ws : List Nat) (h : ∀ w ∈ ws, readWord c site w = (c, v w))
    (m : SMap TW) :
    let r := ws.foldl (fun (x : Chip × SMap TW) w => ((readWord x.1 site w).1, smInsert x.2 w (readWord x.1 site w).2)) (c, m)
    r.1 = c ∧ ∀ w, smGet ((0 : Word), false) r.2 w = if w ∈ ws then v w else smGet ((0 : Word), false) m w := by
  induction ws generalizing m with
  | nil => exact ⟨rfl, fun w => (if_neg List.not_mem_nil).symm⟩
  | cons a rest ih =>
    simp only [List.foldl_cons, h a (List.mem_cons_self ..)]
    obtain ⟨hchip, hget⟩ := ih (fun w hw => h w (List.mem_cons_of_mem _ hw)) (smInsert m a (v a))
    refine ⟨hchip, fun w => ?_⟩
    rw [hget w]
    by_cases hwa : w = a
    · subst hwa
      rw [smGet_smInsert_same, ite_self, if_pos (List.mem_cons_self ..)]
    · rw [smGet_smInsert_ne _ _ _ hwa]
      exact if_congr (by rw [List.mem_cons, or_iff_right hwa]) rfl rfl

/-- Reads of words of a cache without stored errors give the words, and change nothing. -/
theorem readWords_clean {c : Chip} {site : Nat} {ws : List Nat} (hclean : CacheClean c site) (hsound : c.flaws = [])
    (hws : ∀ w ∈ ws, w < 65536) :
    (readWords c site ws).1 = c ∧ ∀ w ∈ ws, (readWords c site ws).2 w = fromCache c site (some w) := by
  obtain ⟨hchip, hget⟩ := readEach_pure (c := c) (site := site) (v := fun w => fromCache c site (some w)) (ws.foldl nsInsert [])
    (fun w hw => readWord_clean hclean hsound (hws w (by simpa [mem_foldl_nsInsert] using hw))) []
  exact ⟨hchip, fun w hw => (hget w).trans (if_pos (by simpa [mem_foldl_nsInsert] using hw))⟩

/-! ## VLD and VLDB (04 R106) -/

/-- Lanes loaded from a cache without stored errors. -/
theorem loadLanes_clean (g : Gov) (v : Nat) {f : Nat → Option Nat} {c : Chip} {site : Nat} (hclean : CacheClean c site)
    (hsound : c.flaws = []) (hf : ∀ l w, f l = some w → w < 65536) : loadLanes g v f c site =
      setTile (vecEv c (laneEv (tileAt c site) g (fun l => if (f l).isSome then 0 else 1))) site
        (writeVec (tileAt c site) g v (fun l => fromCache c site (f l))) := by
  obtain ⟨hchip, hword⟩ := readWords_clean (c := vecEv c (laneEv (tileAt c site) g (fun l => if (f l).isSome then 0 else 1)))
    (site := site) (ws := (activeLanes (tileAt c site) g).filterMap f) hclean hsound (fun w hw => by
      obtain ⟨l, -, hl⟩ := List.mem_filterMap.mp hw
      exact hf l w hl)
  rw [loadLanes]
  simp only [hchip, modTile]
  congr 1
  refine writeVecUnder_congr _ _ _ _ fun l hl hon => ?_
  cases hfl : f l with
  | none => rfl
  | some w => exact hword w (List.mem_filterMap.mpr ⟨l, (mem_activeLanes _ g l).mpr ⟨hl, hon⟩, hfl⟩)

/-- What the step adds up, with event bits of the vector engine alone. -/
def withVec (a : Acc) (v : Nat) : Acc := { a with vec := a.vec ||| v }

theorem foldl_withVec (v : Nat → Nat) (l : List Nat) (a : Acc) : l.foldl (fun a site => withVec a (v site)) a =
    { a with vec := l.foldl (fun n site => n ||| v site) a.vec } := by
  induction l generalizing a with
  | nil => rfl
  | cons site rest ih => rw [List.foldl_cons, ih]; rfl

/-- A load of lanes from words. -/
theorem answers_load {x : Instr} {i : Issue} {g : Gov} {v : Nat} {s : State} (f : Tile → Nat → Option Nat)
    (hexec : exec x s = issueX s i x) (hload : ∀ c site, tileExec x c site = loadLanes g v (f (tileAt c site)) c site)
    (hf : ∀ u l w, f u l = some w → w < 65536) (hready : AllReady s i)
    (hclean : ∀ site ∈ issueSites s.chip i, CacheClean s.chip site) (hissues : Issues s i true x) :
    Answers x s (fun t => OnlyTiles s t i true x ∧ t.chip.acc.conv = s.chip.acc.conv ∧
      EventsGain s.chip.acc.vec t.chip.acc.vec s i g (fun _ u l => if (f u l).isSome then 0 else 1) ∧
      ∀ site ∈ issueSites s.chip i,
        VecResult false g v (fun l => fromCache s.chip site (f (tileAt s.chip site) l))
          (tileAt s.chip site) (tileAt t.chip site)) := by
  obtain ⟨T, hnext, htiles⟩ := issueX_tiles hissues hready
    (m := fun site => writeVec (tileAt s.chip site) g v (fun l => fromCache s.chip site (f (tileAt s.chip site) l)))
    (e := fun site a => withVec a (laneEv (tileAt s.chip site) g (fun l => if (f (tileAt s.chip site) l).isSome then 0 else 1)))
    (by
      intro T A site hsite hkept
      have hstep := loadLanes_clean g v (f := f (tileAt s.chip site)) (c := issued s i x T A) (hclean site hsite)
        hissues.quiet.sound (hf _)
      rw [hkept] at hstep
      rw [hload, hkept, hstep]
      rfl)
  rw [foldl_withVec] at hnext
  refine ⟨_, hexec.trans hnext, onlyTiles_issued _ _ htiles, rfl,
    eventsGain_foldl (ev := fun _ u l => if (f u l).isSome then 0 else 1), fun site hsite => ?_⟩
  rw [show tileAt (issued s i x T _) site = _ from (htiles _ site).trans (if_pos hsite)]
  exact vecResult_writeVec ..

/-- Settles O9: both loads read each word that an active lane names once. -/
theorem cacheLoads : Obligations.CacheLoads := fun _ _ _ ad imm _ hready hclean =>
  ⟨answers_load (fun u l => wordAt (contiguous u ad imm + l)) rfl (fun _ _ => rfl) (fun _ _ _ => wordAt_lt) hready hclean,
    answers_load (fun u _ => wordAt (contiguous u ad imm)) rfl (fun _ _ => rfl) (fun _ _ _ => wordAt_lt) hready hclean⟩

end Sys2Proof.Proofs
end

section
/-! PROOFS. VQNT: packed elements in the image of a register, scale codes, conversion events (04 R104, 02 R49 R57 R64). -/

namespace Sys2Proof.Proofs

open Sys2Proof Sys2Proof.Machine Sys2Proof.Claims Sys2Proof.Laws

/-! ## Bytes of a register -/

theorem leBytes_leNat (a : List Byte) : leBytes a.length (leNat a) = a := by
  induction a with
  | nil => rfl
  | cons x rest ih =>
    have hx := x.isLt
    have hlow : BitVec.ofNat 8 (x.toNat + 256 * leNat rest) = x := by
      apply BitVec.eq_of_toNat_eq
      rw [BitVec.toNat_ofNat]
      omega
    have hhigh : (x.toNat + 256 * leNat rest) / 256 = leNat rest := by omega
    rw [List.length_cons, leNat, leBytes, hlow, hhigh, ih]

theorem getElem?_flatMap_four (f : Nat → List Byte) (hf : ∀ l, (f l).length = 4) (n k : Nat) (hk : k < 4 * n) :
    ((List.range n).flatMap f)[k]? = (f (k / 4))[k % 4]? := by
  induction n with
  | zero => omega
  | succ n ih =>
    have hlen : ((List.range n).flatMap f).length = 4 * n := by
      simp [List.length_flatMap, hf, Nat.mul_comm]
    rw [List.range_succ, List.flatMap_append, List.flatMap_singleton]
    by_cases hlt : k < 4 * n
    · rw [List.getElem?_append_left (by omega), ih hlt]
    · have hdiv : k / 4 = n := by omega
      have hmod : k % 4 = k - 4 * n := by omega
      rw [List.getElem?_append_right (by omega), hlen, hdiv, hmod]

theorem getElem?_vregBytes (v : VReg) {k : Nat} (hk : k < 256) :
    (vregBytes v)[k]? = (leBytes 4 (lane v (k / 4)).toNat)[k % 4]? :=
  getElem?_flatMap_four _ (fun _ => length_leBytes ..) 64 k hk

theorem length_vregBytes (v : VReg) : (vregBytes v).length = 256 := by
  simp [vregBytes, List.length_flatMap]

/-- The bytes of a lane of an image. -/
theorem getElem?_imageLane {img : List Byte} (hlen : img.length = 256) {k : Nat} (hk : k < 256) :
    (leBytes 4 (imageLane img (k / 4)).toNat)[k % 4]? = img[k]? := by
  have hpart : ((img.drop (4 * (k / 4))).take 4).length = 4 := by
    rw [List.length_take, List.length_drop, hlen]
    omega
  have hlt : leNat ((img.drop (4 * (k / 4))).take 4) < 2 ^ 32 := by
    have := leNat_lt ((img.drop (4 * (k / 4))).take 4)
    rwa [hpart] at this
  have hbytes := leBytes_leNat ((img.drop (4 * (k / 4))).take 4)
  rw [hpart] at hbytes
  rw [imageLane, field, BitVec.toNat_ofNat, Nat.mod_eq_of_lt hlt, hbytes, List.getElem?_take_of_lt (Nat.mod_lt _ (by decide)),
    List.getElem?_drop]
  congr 1
  omega

/-! ## A register with a part of its image replaced -/

/-- The lanes that a block of VQNT at offset o writes: block b fills 4 w bytes from o + 4 w b. -/
def blockHits (o w b l : Nat) : Bool := decide (4 * l < o + 4 * w * (b + 1)) && decide (o + 4 * w * b < 4 * l + 4)

/-- The register that VQNT writes: the lanes in which a byte of either block falls. -/
def packedReg (o w : Nat) (bad : Nat → Bool) (img : List Byte) (old : VReg) : VReg :=
  writeLanes old (fun l => if blockHits o w 0 l || blockHits o w 1 l then
      some (imageLane img l, (blockHits o w 0 l && bad 0) || (blockHits o w 1 l && bad 1) ||
        (laneBad old l && !(decide (o ≤ 4 * l) && decide (4 * l + 4 ≤ o + 8 * w))))
    else none)

theorem lane_packedReg {o w : Nat} (bad : Nat → Bool) (img : List Byte) (old : VReg) {l : Nat} (hl : l < 64) :
    lane (packedReg o w bad img old) l = if blockHits o w 0 l || blockHits o w 1 l then imageLane img l else lane old l := by
  rw [packedReg, lane_writeLanes _ _ hl]
  by_cases h : (blockHits o w 0 l || blockHits o w 1 l) = true
  · simp only [h, if_true]
  · simp only [h, Bool.false_eq_true, if_false]

theorem length_splice {old bytes : List Byte} {o : Nat} (h : o + bytes.length ≤ old.length) :
    (splice old o bytes).length = old.length := by
  rw [splice, List.length_append, List.length_append, length_slice, List.length_drop]
  omega

theorem take_splice {old bytes : List Byte} {o : Nat} (h : o + bytes.length ≤ old.length) : slice old 0 o = old.take o := by
  rw [slice, List.drop_zero, List.length_take, Nat.min_eq_left (by omega), Nat.sub_self, List.replicate_zero, List.append_nil]

theorem getElem?_splice_outside {old bytes : List Byte} {o k : Nat} (h : o + bytes.length ≤ old.length)
    (hk : k < o ∨ o + bytes.length ≤ k) : (splice old o bytes)[k]? = old[k]? := by
  have hlen : (old.take o).length = o := by rw [List.length_take]; omega
  rw [splice, take_splice h, List.append_assoc]
  rcases hk with hk | hk
  · rw [List.getElem?_append_left (by omega), List.getElem?_take_of_lt hk]
  · rw [List.getElem?_append_right (by omega), List.getElem?_append_right (by omega), List.getElem?_drop, hlen]
    congr 1
    omega

theorem slice_splice {old bytes : List Byte} {o : Nat} (h : o + bytes.length ≤ old.length) :
    slice (splice old o bytes) o bytes.length = bytes := by
  have hlen : (old.take o).length = o := by rw [List.length_take]; omega
  have htake : ((splice old o bytes).drop o).take bytes.length = bytes := by
    rw [splice, take_splice h, List.append_assoc, List.drop_append_of_le_length (by omega),
      List.drop_eq_nil_of_le (by omega), List.nil_append, List.take_append_of_le_length le_rfl, List.take_length]
  rw [slice, htake, Nat.sub_self, List.replicate_zero, List.append_nil]

/-- The image of the register that VQNT writes: the packed bytes, and around them the bytes that stay. -/
theorem vregBytes_packedReg {o w : Nat} {bytes : List Byte} (hlen : bytes.length = 8 * w) (ho : o + 8 * w ≤ 256)
    (bad : Nat → Bool) (old : VReg) :
    vregBytes (packedReg o w bad (splice (vregBytes old) o bytes) old) = splice (vregBytes old) o bytes := by
  have hroom : o + bytes.length ≤ (vregBytes old).length := by rw [length_vregBytes, hlen]; exact ho
  have hsize : (splice (vregBytes old) o bytes).length = 256 := (length_splice hroom).trans (length_vregBytes old)
  apply List.ext_getElem?
  intro k
  by_cases hk : k < 256
  · rw [getElem?_vregBytes _ hk, lane_packedReg _ _ _ (by omega)]
    split
    · exact getElem?_imageLane hsize hk
    · next hmiss =>
      have hout : k < o ∨ o + bytes.length ≤ k := by
        simp only [blockHits, Bool.or_eq_true, Bool.and_eq_true, decide_eq_true_eq] at hmiss
        omega
      rw [getElem?_splice_outside hroom hout, getElem?_vregBytes _ hk]
  · rw [List.getElem?_eq_none (by rw [length_vregBytes]; omega), List.getElem?_eq_none (by omega)]

/-! ## Packed elements -/

theorem packElems_lt (w : Nat) (xs : List Nat) : packElems w xs < 2 ^ (w * xs.length) := by
  induction xs with
  | nil => simp [packElems]
  | cons x rest ih =>
    have hx : x % 2 ^ w < 2 ^ w := Nat.mod_lt _ (Nat.two_pow_pos w)
    have hmul : 2 ^ w * packElems w rest + 2 ^ w ≤ 2 ^ w * 2 ^ (w * rest.length) := by
      rw [← Nat.mul_succ]
      exact Nat.mul_le_mul_left _ ih
    rw [packElems, List.length_cons, Nat.mul_succ, pow_add, Nat.mul_comm (2 ^ (w * rest.length))]
    omega

theorem packedElem_packElems (w : Nat) (xs : List Nat) (l : Nat) : packedElem w (packElems w xs) l = xs.getD l 0 % 2 ^ w := by
  have hpos := Nat.two_pow_pos w
  induction xs generalizing l with
  | nil => simp [packElems, packedElem]
  | cons x rest ih =>
    cases l with
    | zero => simp [packElems, packedElem, Nat.add_mul_mod_self_left]
    | succ l =>
      have hshift : packElems w (x :: rest) >>> (w * (l + 1)) = packElems w rest >>> (w * l) := by
        rw [Nat.mul_succ, Nat.add_comm, Nat.shiftRight_add, packElems, Nat.shiftRight_eq_div_pow _ w,
          Nat.add_mul_div_left _ _ hpos, Nat.div_eq_of_lt (Nat.mod_lt _ hpos), Nat.zero_add]
      rw [packedElem, hshift]
      exact ih l

/-- The bytes that 64 elements of width w pack into. -/
def packedLanes (w : Nat) (q : Nat → Nat) : List Byte := leBytes (8 * w) (packElems w ((List.range 64).map q))

theorem length_packedLanes (w : Nat) (q : Nat → Nat) : (packedLanes w q).length = 8 * w := length_leBytes ..

theorem leNat_packedLanes (w : Nat) (q : Nat → Nat) : leNat (packedLanes w q) = packElems w ((List.range 64).map q) := by
  apply leNat_leBytes_of_lt
  have h := packElems_lt w ((List.range 64).map q)
  rw [List.length_map, List.length_range] at h
  calc _ < 2 ^ (w * 64) := h
    _ = 256 ^ (8 * w) := by rw [show (256 : Nat) = 2 ^ 8 from rfl, ← pow_mul]; congr 1; omega

/-- Element l of the register that VQNT writes. -/
theorem element_packedReg {o w : Nat} (ho : o + 8 * w ≤ 256) (bad : Nat → Bool) (q : Nat → Nat) (old : VReg) {l : Nat}
    (hl : l < 64) :
    (leNat (vregBytes (packedReg o w bad (splice (vregBytes old) o (packedLanes w q)) old)) >>> (8 * o + w * l)) % 2 ^ w =
      q l % 2 ^ w := by
  have hroom : o + (packedLanes w q).length ≤ (vregBytes old).length := by
    rw [length_vregBytes, length_packedLanes]
    exact ho
  have hslice := slice_splice hroom
  rw [length_packedLanes] at hslice
  rw [vregBytes_packedReg (length_packedLanes w q) ho, ← packedElem_slice _ _ _ hl, hslice, leNat_packedLanes,
    packedElem_packElems]
  simp [hl]

/-! ## The lanes of the two blocks -/

section
variable (ie : Bool) (g : Gov) (vd a vk : Fin 64) (f : Fmt) (sc : QScale) (o : Nat)

/-- A converted lane: its code and its events. -/
def quantLane (t : Tile) (l : Nat) : Nat × Nat := quantElem f ie (quantScale t g a vk f sc (l / 32)) (quantIn t g a l)

/-- The lanes of the two blocks one after the other. -/
theorem quantBlocks (k : Nat → Nat) (t : Tile) :
    (quantBlock t g a.val 0).map (quantElem f ie (k 0)) ++ (quantBlock t g a.val 1).map (quantElem f ie (k 1)) =
      (List.range 64).map (fun l => quantElem f ie (k (l / 32)) (quantIn t g a l)) := by
  have h64 : List.range 64 = List.range 32 ++ (List.range 32).map (32 + ·) := List.range_add (n := 32) (m := 32)
  rw [h64, List.map_append, quantBlock, quantBlock, List.map_map, List.map_map, List.map_map]
  refine congrArg₂ (· ++ ·) ?_ ?_
  · refine List.map_congr_left fun l hl => ?_
    have hl := List.mem_range.mp hl
    have hblock : l / 32 = 0 := by omega
    simp [quantIn, hblock]
  · refine List.map_congr_left fun l hl => ?_
    have hl := List.mem_range.mp hl
    have hblock : (32 + l) / 32 = 1 := by omega
    simp [quantIn, hblock]

theorem zipIdx_map_range {α : Type} (q : Nat → α) (n : Nat) :
    ((List.range n).map q).zipIdx = (List.range n).map (fun l => (q l, l)) := by
  apply List.ext_getElem
  · simp
  · intro k hk _
    simp

/-- The events that VQNT collects are those of the active lanes. -/
theorem quantEvents (q : Nat → Nat × Nat) (t : Tile) :
    (((List.range 64).map q).zipIdx).foldl
      (fun e x => if (preg t g.p.val).val.testBit x.2 then e ||| x.1.2 else e) 0 = laneEv t g (fun l => (q l).2) := by
  rw [zipIdx_map_range, List.foldl_map]
  rfl

/-- The scale codes that VQNT computes of a tile t, in lanes 0 and 1 of vk of the tile u that holds the packed elements. -/
def scaledReg (t u : Tile) : VReg :=
  writeLanes (vreg u vk.val) (fun l =>
    if l < 2 then some (BitVec.ofNat 32 (quantScale t g a vk f .computed l), blockTaint u g a.val l) else none)

/-- The taint of a scale code that is given. -/
def scaleBad (t : Tile) (b : Nat) : Bool :=
  match sc with
  | .given => laneBad (vreg t vk.val) b
  | _ => false

/-- The tile with the packed elements of a VQNT in vd. -/
def packedTile (t : Tile) : Tile :=
  setVreg t vd.val (packedReg o (fmtWidth f) (fun b => blockTaint t g a.val b || scaleBad vk sc t b)
    (splice (vregBytes (vreg t vd.val)) o (packedLanes (fmtWidth f) (fun l => (quantLane ie g a vk f sc t l).1))) (vreg t vd.val))

/-- The tile after a VQNT: a computed scale is put last. -/
def quantTile (t : Tile) : Tile :=
  match sc with
  | .computed => setVreg (packedTile ie g vd a vk f .computed o t) vk.val
      (scaledReg g a vk f t (packedTile ie g vd a vk f .computed o t))
  | _ => packedTile ie g vd a vk f sc o t

theorem tQnt_eq (c : Chip) (site : Nat) : tQnt g vd.val a.val vk.val f sc o c site =
    setTile (convEv c (laneEv (tileAt c site) g (fun l => (quantLane (ieee c) g a vk f sc (tileAt c site) l).2))) site
      (quantTile (ieee c) g vd a vk f sc o (tileAt c site)) := by
  cases sc with
  | computed =>
    have h := quantBlocks (ieee c) g a f (fun b => blockScale f (quantBlock (tileAt c site) g a.val b)) (tileAt c site)
    simp only [tQnt, h, quantEvents, List.map_map]
    rfl
  | given =>
    have h := quantBlocks (ieee c) g a f (fun b => (lane (vreg (tileAt c site) vk.val) b).toNat % 256) (tileAt c site)
    simp only [tQnt, h, quantEvents, List.map_map]
    rfl
  | unscaled =>
    have h := quantBlocks (ieee c) g a f (fun _ => 127) (tileAt c site)
    simp only [tQnt, h, quantEvents, List.map_map]
    rfl

end

/-! ## VQNT -/

/-- 64 elements fill eight times their width in bytes (04 R104). -/
theorem packedBytes_eq {f : Fmt} (h : packedBytes f ≠ 0) : packedBytes f = 8 * fmtWidth f := by
  cases f with
  | fp32 => exact absurd rfl h
  | int32 => exact absurd rfl h
  | _ => rfl

theorem room_of_wf {i : Issue} {g : Gov} {vd a vk : Fin 64} {f : Fmt} {sc : QScale} {o : Fin 256}
    (h : (Instr.vqnt i g vd a vk f sc o).wf = true) : o.val + 8 * fmtWidth f ≤ 256 := by
  simp only [Instr.wf, offsetOk, Bool.and_eq_true, bne_iff_ne, decide_eq_true_eq] at h
  obtain ⟨⟨-, ⟨hsome, -⟩, hroom⟩, -⟩ := h
  rwa [packedBytes_eq hsome] at hroom

section
variable (ie : Bool) (g : Gov) (vd a vk : Fin 64) (f : Fmt) (sc : QScale) (o : Nat) (t : Tile)

theorem quantTile_rest : quantTile ie g vd a vk f sc o t = { t with v := (quantTile ie g vd a vk f sc o t).v } := by
  cases sc <;> rfl

theorem vreg_quantTile_ne {r : Nat} (hvd : r ≠ vd.val) (hvk : ¬(sc = .computed ∧ r = vk.val)) :
    vreg (quantTile ie g vd a vk f sc o t) r = vreg t r := by
  cases sc with
  | computed => exact (vreg_setVreg_ne _ _ (fun h => hvk ⟨rfl, h⟩)).trans (vreg_setVreg_ne _ _ hvd)
  | given => exact vreg_setVreg_ne _ _ hvd
  | unscaled => exact vreg_setVreg_ne _ _ hvd

/-- Where no computed scale takes its place, vd holds the packed lanes. -/
theorem vreg_quantTile_vd (h : ¬(sc = .computed ∧ vk = vd)) : vreg (quantTile ie g vd a vk f sc o t) vd.val =
    packedReg o (fmtWidth f) (fun b => blockTaint t g a.val b || scaleBad vk sc t b)
      (splice (vregBytes (vreg t vd.val)) o (packedLanes (fmtWidth f) (fun l => (quantLane ie g a vk f sc t l).1)))
      (vreg t vd.val) := by
  cases sc with
  | computed =>
    have hne : vd.val ≠ vk.val := fun heq => h ⟨rfl, Fin.ext heq.symm⟩
    exact (vreg_setVreg_ne _ _ hne).trans (vreg_setVreg_same ..)
  | given => exact vreg_setVreg_same ..
  | unscaled => exact vreg_setVreg_same ..

/-- Lanes of vk after a scale is computed. -/
theorem lane_quantTile_vk {l : Nat} (hl : l < 64) : lane (vreg (quantTile ie g vd a vk f .computed o t) vk.val) l =
    if l < 2 then BitVec.ofNat 32 (quantScale t g a vk f .computed l)
    else lane (vreg (packedTile ie g vd a vk f .computed o t) vk.val) l := by
  rw [quantTile, vreg_setVreg_same, scaledReg, lane_writeLanes _ _ hl]
  by_cases hlow : l < 2
  · simp only [hlow, if_true]
  · simp only [hlow, if_false]

theorem vreg_packedTile_ne {r : Nat} (hr : r ≠ vd.val) : vreg (packedTile ie g vd a vk f sc o t) r = vreg t r :=
  vreg_setVreg_ne _ _ hr

end

/-- What the step adds up, with conversion events alone. -/
def withConv (a : Acc) (v : Nat) : Acc := { a with conv := a.conv ||| v }

theorem foldl_withConv (v : Nat → Nat) (l : List Nat) (a : Acc) : l.foldl (fun a site => withConv a (v site)) a =
    { a with conv := l.foldl (fun n site => n ||| v site) a.conv } := by
  induction l generalizing a with
  | nil => rfl
  | cons site rest ih => rw [List.foldl_cons, ih]; rfl

theorem answers_vqnt {i : Issue} {g : Gov} {vd a vk : Fin 64} {f : Fmt} {sc : QScale} {o : Fin 256} {s : State}
    (hissues : Issues s i true (.vqnt i g vd a vk f sc o)) (hready : AllReady s i) :
    Answers (.vqnt i g vd a vk f sc o) s (fun t =>
      OnlyTiles s t i true (.vqnt i g vd a vk f sc o) ∧ t.chip.acc.vec = s.chip.acc.vec ∧
      EventsGain s.chip.acc.conv t.chip.acc.conv s i g (fun s t l =>
        (quantElem f (ieee s.chip) (quantScale t g a vk f sc (l / 32)) (quantIn t g a l)).2) ∧
      ∀ site ∈ issueSites s.chip i,
        tileAt t.chip site = quantTile (ieee s.chip) g vd a vk f sc o.val (tileAt s.chip site)) := by
  obtain ⟨T, hnext, htiles⟩ := issueX_tiles hissues hready
    (m := fun site => quantTile (ieee s.chip) g vd a vk f sc o.val (tileAt s.chip site))
    (e := fun site A => withConv A (laneEv (tileAt s.chip site) g
      (fun l => (quantLane (ieee s.chip) g a vk f sc (tileAt s.chip site) l).2)))
    (fun T A site _ hkept => (tQnt_eq g vd a vk f sc o.val _ site).trans (by
      rw [hkept, ieee_congr (c := s.chip) (d := issued s i _ T A) rfl]
      rfl))
  rw [foldl_withConv] at hnext
  exact ⟨_, hnext, onlyTiles_issued _ _ htiles, rfl,
    eventsGain_foldl (ev := fun s t l => (quantLane (ieee s.chip) g a vk f sc t l).2),
    fun site hsite => (htiles _ site).trans (if_pos hsite)⟩

/-- Settles O8: the image of the register written holds the packed lanes, and around them the bytes that were there; a computed
scale is put last. -/
theorem quantizePacks : Obligations.QuantizePacks := fun i g vd a vk f sc o s hissues hready hwf => by
  have hroom := room_of_wf hwf
  obtain ⟨t, hnext, honly, hvec, hconv, htiles⟩ := answers_vqnt hissues hready
  refine ⟨t, hnext, honly, hvec, hconv, fun site hsite => ?_⟩
  simp only [htiles site hsite]
  set u := tileAt s.chip site
  refine ⟨fun r hvd hvk => vreg_quantTile_ne _ g vd a vk f sc _ u hvd hvk, quantTile_rest _ g vd a vk f sc _ u,
    fun h => ?_, ?_⟩
  · rw [vreg_quantTile_vd _ g vd a vk f sc _ u h]
    refine ⟨fun l hl => element_packedReg hroom _ _ _ hl, fun k _ hout => ?_⟩
    rw [vregBytes_packedReg (length_packedLanes ..) hroom]
    apply getElem?_splice_outside
    · rw [length_vregBytes, length_packedLanes]
      exact hroom
    · rwa [length_packedLanes]
  · rintro rfl
    refine ⟨fun b hb => ?_, fun hne l hl hl64 => ?_⟩
    · rw [lane_quantTile_vk _ g vd a vk f _ u (by omega), if_pos hb]
    · rw [lane_quantTile_vk _ g vd a vk f _ u hl64, if_neg (by omega),
        vreg_packedTile_ne _ g vd a vk f _ _ u (fun h => hne (Fin.ext h))]

end Sys2Proof.Proofs
end

section
/-! PROOFS. Gathers and scatters: a state in which the report of the statements on lanes left unserved does not hold
(04 R107, 05 R147). -/

namespace Sys2Proof.Proofs

open Sys2Proof Sys2Proof.Machine Sys2Proof.Claims Sys2Proof.Laws Sys2Proof.Tests

/-! ## An entry 9002h:04 beyond 64 bits -/

/-- A running plan whose entry 9002h:04 holds 2^64. -/
def wide : State := { play with chip := { play.chip with regs := [(key 0x2010 4, 2048), (key 0x9002 4, 2 ^ 64)] } }

theorem reg_wide : reg wide.chip (key 0x9002 4) = 2 ^ 64 := by decide +kernel

theorem sites_wide : issueSites wide.chip is0 = [0] := sites_one rfl rfl

theorem ready_wide : AllReady wide is0 := onlySite 0 sites_wide ⟨rfl, by decide +kernel⟩

theorem clean_wide (site : Nat) : CacheClean wide.chip site := fun _ _ => rfl

theorem issues_wide {x : Instr} (hwf : x.wf = true) (hheld : heldTo wide.chip 0 true x = 0) : Issues wide is0 true x where
  wf := hwf
  quiet := ⟨rfl, rfl, rfl⟩
  may := rfl
  now := by decide +kernel
  due := by
    have heligible : eligible wide.chip is0 true = 0 := rfl
    change max (eligible wide.chip is0 true) (heldTo wide.chip 0 true x) ≤ 0
    rw [hheld, heligible]
    decide
  inStep := by decide +kernel
  calm := rfl

/-- Every lane is served within one round. -/
theorem unservedSites_wide : unservedSites wide is0 g0 1 2 1 = [] := by
  have hserved : unservedLanes (tileAt wide.chip 0) g0 1 2 1 = 0 := unserved_zero 1 (by decide)
  rw [unservedSites, sites_wide, List.filter_cons, hserved]
  rfl

/-- An instruction leaves the entry 9002h:04 of that plan as it was. -/
def keepsEntry (x : Instr) : Bool :=
  match exec x wide with
  | .next t => reg t.chip (key 0x9002 4) == 2 ^ 64
  | _ => false

/-- An instruction that leaves the entry does not count as the statements say: they give it modulo 2^64 whether or not
anything is counted. -/
theorem not_unserved_of_keepsEntry {x : Instr} (h : keepsEntry x = true) {t : State} (hnext : exec x wide = .next t)
    (ev : Tile → Nat → Nat) : ¬Unserved wide t is0 g0 1 2 1 ev := fun hunserved => by
  have hcounted := hunserved.faults.counted
  rw [unservedSites_wide, reg_wide] at hcounted
  rw [keepsEntry, hnext] at h
  rw [beq_iff_eq.mp h] at hcounted
  exact absurd hcounted (by decide)

/-- Refutes O10: all lanes of register 2 name word 0, so every lane is served and nothing is reported; an entry 9002h:04 of 2^64
stays, where the statement asks for 0 of it. -/
theorem not_gatherServes : ¬Obligations.GatherServes := fun h => by
  obtain ⟨t, hnext, -, -, hunserved, -⟩ := h is0 g0 1 2 1 1 wide (issues_wide rfl (by decide +kernel)) ready_wide
    (fun site _ => clean_wide site) (onlySite 0 sites_wide rfl) rfl
  exact not_unserved_of_keepsEntry (by decide +kernel) hnext _ hunserved

/-- Refutes O11: the same of a scatter. -/
theorem not_cacheStores : ¬Obligations.CacheStores := fun h => by
  obtain ⟨-, hscatter⟩ := h is0 g0 1 2 1 0 1 wide ready_wide (onlySite 0 sites_wide rfl)
  obtain ⟨t, hnext, -, -, -, hunserved, -⟩ := hscatter rfl (issues_wide rfl (by decide +kernel))
  exact not_unserved_of_keepsEntry (by decide +kernel) hnext _ hunserved

end Sys2Proof.Proofs
end

section
/-! PROOFS. Instructions of the access stream begin (05 R130 R131 R133, 07 R196); lines move between tile store and operand
cache (04 R108). -/

namespace Sys2Proof.Proofs

open Sys2Proof Sys2Proof.Machine Sys2Proof.Claims Sys2Proof.Laws

/-! ## Sorted lists -/

theorem sortIns_perm {α : Type} (lt : α → α → Bool) (x : α) (l : List α) : (sortIns lt x l).Perm (x :: l) := by
  induction l with
  | nil => exact .refl _
  | cons y rest ih =>
    rw [sortIns]
    split
    · exact .refl _
    · exact (ih.cons y).trans (.swap ..)

theorem foldl_sortIns_perm {α : Type} (lt : α → α → Bool) (l acc : List α) :
    (l.foldl (fun acc x => sortIns lt x acc) acc).Perm (l ++ acc) := by
  induction l generalizing acc with
  | nil => exact .refl _
  | cons x rest ih =>
    rw [List.foldl_cons]
    exact (ih _).trans (((sortIns_perm lt x acc).append_left rest).trans List.perm_middle)

theorem sortBy_perm {α : Type} (lt : α → α → Bool) (l : List α) : (sortBy lt l).Perm l := by
  have h := foldl_sortIns_perm lt l []
  rwa [List.append_nil] at h

/-- An element put into a list that a key does not fall in. -/
theorem sortIns_pairwise {α : Type} (key : α → Nat) (x : α) {l : List α} (h : l.Pairwise (fun a b => key a ≤ key b)) :
    (sortIns (fun a b => decide (key a < key b)) x l).Pairwise (fun a b => key a ≤ key b) := by
  induction l with
  | nil => exact List.pairwise_singleton ..
  | cons y rest ih =>
    obtain ⟨hy, hrest⟩ := List.pairwise_cons.mp h
    rw [sortIns]
    by_cases hlt : key x < key y
    · rw [if_pos (by simpa using hlt)]
      refine List.pairwise_cons.mpr ⟨fun b hb => ?_, h⟩
      rcases List.mem_cons.mp hb with rfl | hb
      · exact hlt.le
      · exact hlt.le.trans (hy b hb)
    · rw [if_neg (by simpa using hlt)]
      refine List.pairwise_cons.mpr ⟨fun b hb => ?_, ih hrest⟩
      rcases List.mem_cons.mp ((sortIns_perm _ x rest).mem_iff.mp hb) with rfl | hb
      · exact Nat.le_of_not_lt hlt
      · exact hy b hb

theorem sortBy_pairwise {α : Type} (key : α → Nat) (l : List α) :
    (sortBy (fun a b => decide (key a < key b)) l).Pairwise (fun a b => key a ≤ key b) :=
  List.foldlRecOn l _ List.Pairwise.nil fun _ h x _ => sortIns_pairwise key x h

/-! ## The begin of an access instruction -/

/-- Two's complement of 32 bits (00 R5). -/
theorem signed_eq_toInt (x : Nat) : signed 32 x = (BitVec.ofNat 32 x).toInt := by
  rw [signed, BitVec.toInt_eq_toNat_cond, BitVec.toNat_ofNat]
  have hsplit : x % 2 ^ 32 < 2 ^ (32 - 1) ↔ 2 * (x % 2 ^ 32) < 2 ^ 32 := by omega
  exact if_congr hsplit rfl rfl

/-- A line operand of a tile, as the model and the statements give it. -/
theorem lineVal_eq (c : Chip) (i : Issue) (site : Nat) (a : LineAddr) : lineVal c i (tileAt c site) a = operand c i site a := by
  unfold lineVal operand
  cases a.bp with
  | none => rfl
  | some j => simp only [signed_eq_toInt]

/-- The lines of an instruction in a tile after the note of the sequencer. -/
theorem actTile_note (s : State) (i : Issue) (x : Instr) (line other : LineAddr) (site : Nat) :
    actTile (noteIssue s.chip i false x) i line other site = actAt i line other s site := by
  have hline : ∀ a, lineVal (noteIssue s.chip i false x) i (tileAt (noteIssue s.chip i false x) site) a = operand s.chip i site a :=
    fun a => lineVal_eq s.chip i site a
  simp only [actTile, actAt, hline]
  rfl

/-- The bank of the first line is that of its line in every tile, the stride of TI being a multiple of 16 (05 R130 R133). -/
theorem firstBank_eq (s : State) (i : Issue) (x : Instr) {a : LineAddr} (h : a.sT % 16 = 0) (site : Nat) :
    (firstBank (noteIssue s.chip i false x) i a : Int) = operand s.chip i site a % 16 := by
  have hfirst : lineVal s.chip i { Tile.reset with ti := 0 } a = operand s.chip i site a - ((tileAt s.chip site).ti : Int) * a.sT := by
    rw [← lineVal_eq]
    unfold lineVal
    simp only
    ring
  have hstride : ((tileAt s.chip site).ti : Int) * a.sT % 16 = 0 := by rw [Int.mul_emod, h, mul_zero, Int.zero_emod]
  have hbank : firstBank (noteIssue s.chip i false x) i a = (lineVal s.chip i { Tile.reset with ti := 0 } a % 16).toNat := rfl
  rw [hbank, hfirst]
  omega

/-- The tiles of an act stand in ascending order of the logical tiles. -/
theorem orderedSites_pairwise (c : Chip) (i : Issue) :
    (orderedSites c i).Pairwise (fun a b => (tileAt c a).ti ≤ (tileAt c b).ti) :=
  sortBy_pairwise (fun site => (tileAt c site).ti) _

theorem issueA_now {s : State} {i : Issue} {x : Instr} (h : Issues s i false x) :
    issueA s i x = .next { s with chip := flush (beginAct x (noteIssue s.chip i false x)) } :=
  issueWith_now _ h.wf h.quiet.runs h.may h.now h.due h.inStep h.quiet.sound

/-- An instruction whose act is made of a tile-store line and another line of each tile begins with it. -/
theorem begins_of_lines {x : Instr} {i : Issue} {n : Nat} {line other : LineAddr} (hexec : ∀ s, exec x s = issueA s i x)
    (hact : ∀ c, actOf c x = some (newAct c i x n 1 line ((orderedSites c i).map (actTile c i line other))))
    (hparts : ∀ c a, tierParts c x a = [a]) (hline : x.wf = true → line.ok = true) :
    Begins x i (fun _ => n) (fun _ => 1) (actAt i line other) := by
  intro s hissues hwf hn
  have hok : line.sT % 16 = 0 := by simpa [LineAddr.ok] using hline hwf
  have hbegin : beginAct x (noteIssue s.chip i false x) = { noteIssue s.chip i false x with
      acts := s.chip.acts ++ [newAct (noteIssue s.chip i false x) i x n 1 line
        ((orderedSites s.chip i).map (actTile (noteIssue s.chip i false x) i line other))] } := by
    rw [beginAct, hact]
    simp only [hparts]
    exact if_neg (Nat.ne_of_gt hn)
  have hpend : (beginAct x (noteIssue s.chip i false x)).err.pend = [] := by
    rw [hbegin]
    exact hissues.quiet.none
  refine ⟨_, (hexec s).trans (issueA_now hissues),
    (orderedSites s.chip i).map (actTile (noteIssue s.chip i false x) i line other),
    firstBank (noteIssue s.chip i false x) i line, ?_, ?_, ?_, ?_⟩
  · rw [flush_none hpend, hbegin]
    rfl
  · rw [List.map_congr_left fun site _ => actTile_note s i x line other site]
    exact (sortBy_perm _ _).map _
  · rw [List.pairwise_map]
    exact orderedSites_pairwise s.chip i
  · intro u hu
    obtain ⟨site, -, rfl⟩ := List.mem_map.mp hu
    rw [actTile_note]
    exact firstBank_eq s i x hok site

/-! ## Lines moved -/

/-- A granule stored where no error strikes and no injection is armed. -/
theorem storesLine_writeGran {c : Chip} (hcalm : Calm c) {a : Nat} (ha : a % 64 = 0) {d : List Byte} (hd : d.length = 64)
    (bad : Bool) : StoresLine c (writeGran c a d bad) a d bad := by
  have hstore := writeGran_calm a d bad hcalm.calm
  refine ⟨?_, granPoison_writeGran c a d bad, ?_, fun y hy => ?_, fun g hg => ?_, ?_⟩
  · rw [memBytes_writeGran, Tests.slice_exact hd]
  · rw [hstore]
    exact smGet_smErase_same ..
  · exact memByte_writeGran_ne c d bad (by omega)
  · rw [hstore]
    refine ⟨?_, smGet_smErase_ne _ _ hg, ?_⟩
    · rw [storeGran_poison, nsMem_nsPut, if_neg hg]
    · exact (nsMem_nsErase ..).trans (by simp [hg])
  · have hflaws : (storeGran c a d bad).flaws = c.flaws := by
      change c.flaws.filter _ = c.flaws
      rw [hcalm.sound]
      rfl
    rw [hstore]
    calc storeGran c a d bad = { storeGran c a d bad with flaws := (storeGran c a d bad).flaws } := rfl
      _ = { storeGran c a d bad with flaws := c.flaws } := by rw [hflaws]
      _ = _ := rfl

theorem cached_whole (u : ActTile) (k : Nat) : cached u k % 64 = 0 := by
  unfold cached wordAddr
  omega

theorem lineAddr_whole (site n : Nat) : lineAddr site n % 64 = 0 := by
  unfold lineAddr
  omega

theorem cacheLine_eq (u : ActTile) (k : Nat) : cacheLine u.site (u.other + k) = cached u k := rfl

/-- A read of a tile-store line without a stored error. -/
theorem readLine_clean {c : Chip} {site : Nat} {x : Int} (hcalm : Calm c) (h : LineClean c site x) :
    readLine c site x = (c, lineBytes c site x, lineBad c site x) := by
  obtain ⟨hlow, hhigh, hclean⟩ := h
  have hin : inRange x 49152 = some x.toNat := if_pos ⟨hlow, hhigh⟩
  rw [readLine, hin]
  exact readGran_clean .cycle false hclean hcalm.sound

theorem writeLine_within (c : Chip) (site : Nat) {x : Int} (hlow : 0 ≤ x) (hhigh : x < 49152) (d : List Byte) (p : Bool) :
    writeLine c site x d p = writeGran c (lineAddr site x.toNat) d p := by
  have hin : inRange x 49152 = some x.toNat := if_pos ⟨hlow, hhigh⟩
  rw [writeLine, hin]

section
variable (i : Issue) (oc ts : LineAddr) (n : Nat) {c : Chip} {u : ActTile} {k : Nat}

theorem moves_ocfl (hcalm : Calm c) (h : LineClean c u.site (u.line + k)) : Moves (.ocfl i oc ts n) k c u (fun d v => v = u ∧
    StoresLine c d (cached u k) (lineBytes c u.site (u.line + k)) (lineBad c u.site (u.line + k))) := by
  refine ⟨rfl, ?_⟩
  simp only [moveLine, readLine_clean hcalm h]
  exact storesLine_writeGran hcalm (cached_whole u k) (length_memBytes ..) _

theorem moves_ocwb (hcalm : Calm c) (hlow : 0 ≤ u.line + k) (hhigh : u.line + k < 49152)
    (hclean : smGet EccMark.none c.ecc (cached u k / 64) = EccMark.none) : Moves (.ocwb i oc ts n) k c u (fun d v => v = u ∧
    StoresLine c d (lineAddr u.site (u.line + k).toNat) (memBytes c.mem (cached u k) 64) (granPoison c (cached u k))) := by
  refine ⟨rfl, ?_⟩
  simp only [moveLine, cacheLine_eq, readGran_clean .cycle false hclean hcalm.sound, writeLine_within _ _ hlow hhigh]
  exact storesLine_writeGran hcalm (lineAddr_whole ..) (length_memBytes ..) _

theorem moves_oczr (hcalm : Calm c) :
    Moves (.oczr i oc n) k c u (fun d v => v = u ∧ StoresLine c d (cached u k) (List.replicate 64 0) false) :=
  ⟨rfl, storesLine_writeGran hcalm (cached_whole u k) List.length_replicate _⟩

end

/-- Settles O18: each begins with the act of its lines, and a line is read and stored whole. -/
theorem cacheLines : Obligations.CacheLines := fun i oc ts n => by
  refine ⟨?_, ?_, ?_, fun c u k hcalm => ⟨moves_ocfl i oc ts n hcalm, moves_ocwb i oc ts n hcalm, moves_oczr i oc n hcalm⟩⟩
  · exact begins_of_lines (fun _ => rfl) (fun _ => rfl) (fun _ _ => rfl) fun hwf => by
      simp only [Instr.wf, Bool.and_eq_true] at hwf
      exact hwf.1.2
  · exact begins_of_lines (fun _ => rfl) (fun _ => rfl) (fun _ _ => rfl) fun hwf => by
      simp only [Instr.wf, Bool.and_eq_true] at hwf
      exact hwf.1.2
  · exact begins_of_lines (fun _ => rfl) (fun _ => rfl) (fun _ _ => rfl) fun _ => rfl

end Sys2Proof.Proofs
end

section
/-! PROOFS. FP32 numbers as rationals, and the rounding to nearest of a finite result (02 R39 R51 R55, 04 R97 R98). -/

namespace Sys2Proof.Proofs

open Sys2Proof Sys2Proof.Machine Sys2Proof.Claims Sys2Proof.Laws

/-! ## The values of FP32 codes -/

/-- The mantissa and the exponent of a finite magnitude code (02 R39 R40). -/
def magParts (code : Nat) : Nat × Int :=
  if code / 2 ^ 23 = 0 then (code % 2 ^ 23, -149) else (code % 2 ^ 23 + 2 ^ 23, (code / 2 ^ 23 : Nat) - 150)

/-- Its value. -/
def magVal (code : Nat) : ℚ := (magParts code).1 * 2 ^ (magParts code).2

/-- A sign. -/
def sgn (n : Bool) : ℚ := if n then -1 else 1

theorem abs_sgn (n : Bool) : |sgn n| = 1 := by cases n <;> simp [sgn]

/-- The value of a code by its sign and its magnitude (02 R39 R40 R41). -/
theorem f32_eq (w : Word) : f32 w = if 0x7F800000 < w.toNat % 2 ^ 31 then .nan
    else if w.toNat % 2 ^ 31 = 0x7F800000 then .inf w.msb
    else .fin w.msb (magParts (w.toNat % 2 ^ 31)).1 (magParts (w.toNat % 2 ^ 31)).2 := by
  have hsign : bit w.toNat (23 + 8) = w.msb := by
    rw [BitVec.msb_eq_getLsbD_last]
    rfl
  have hshape : fmtShape .fp32 = some (23, 8, 127) := rfl
  have hinf : fmtInf .fp32 = some 0x7F800000 := rfl
  have hwidth : 2 ^ (23 + 8) = 2 ^ 31 := rfl
  have hexp : ∀ e : Nat, (e : Int) - (127 : Nat) - (23 : Nat) = e - 150 := fun e => by omega
  simp only [f32, decodeFmt, hshape, hinf, hsign, hwidth, hexp, Option.any_some]
  rw [if_neg (by simp)]
  simp only [gt_iff_lt, decide_eq_true_eq, Option.some.injEq, eq_comm (a := 0x7F800000), magParts]
  generalize w.toNat % 2 ^ 31 = mag
  by_cases h : mag / 2 ^ 23 = 0
  · simp only [h, if_true]
    rfl
  · simp only [h, if_false]

section
variable {w : Word}

/-- The value of a finite code. -/
theorem f32_finite (h : w.toNat % 2 ^ 31 < 0x7F800000) :
    f32 w = .fin w.msb (magParts (w.toNat % 2 ^ 31)).1 (magParts (w.toNat % 2 ^ 31)).2 := by
  rw [f32_eq, if_neg (by omega), if_neg (by omega)]

theorem finite_iff : finite w ↔ w.toNat % 2 ^ 31 < 0x7F800000 := by
  refine ⟨fun ⟨n, m, e, h⟩ => ?_, fun h => ⟨_, _, _, f32_finite h⟩⟩
  rw [f32_eq] at h
  split at h
  · cases h
  · split at h
    · cases h
    · omega

theorem ratOf_of_parts {n : Bool} {m : Nat} {e : Int} (h : f32 w = .fin n m e) : ratOf w = sgn n * (m * 2 ^ e) := by
  rw [ratOf, h, sgn]
  simp only [mul_assoc]

theorem ratOf_finite (h : w.toNat % 2 ^ 31 < 0x7F800000) : ratOf w = sgn w.msb * magVal (w.toNat % 2 ^ 31) :=
  ratOf_of_parts (f32_finite h)

end

/-- A word made of a sign and a magnitude code. -/
theorem word_withSign (n : Bool) {code : Nat} (h : code < 2 ^ 31) :
    (BitVec.ofNat 32 (withSign .fp32 n code)).toNat % 2 ^ 31 = code ∧ (BitVec.ofNat 32 (withSign .fp32 n code)).msb = n := by
  have hwidth : 2 ^ (fmtWidth .fp32 - 1) = 2 ^ 31 := rfl
  rw [BitVec.msb_eq_decide, BitVec.toNat_ofNat, withSign, hwidth]
  cases n with
  | false =>
    simp only [Bool.false_eq_true, if_false, decide_eq_false_iff_not]
    omega
  | true =>
    simp only [if_true, decide_eq_true_eq]
    omega

theorem magVal_nonneg (code : Nat) : 0 ≤ magVal code := by
  unfold magVal
  positivity

theorem abs_ratOf (w : Word) (h : finite w) : |ratOf w| = magVal (w.toNat % 2 ^ 31) := by
  rw [ratOf_finite (finite_iff.mp h), abs_mul, abs_sgn, one_mul, abs_of_nonneg (magVal_nonneg _)]

/-- The parts of a finite magnitude: 24 bits, from 2^-149 on. -/
theorem magParts_bounds (code : Nat) : (magParts code).1 < 2 ^ 24 ∧ -149 ≤ (magParts code).2 := by
  unfold magParts
  split
  · constructor
    · change code % 2 ^ 23 < 2 ^ 24
      omega
    · exact le_refl _
  · constructor
    · change code % 2 ^ 23 + 2 ^ 23 < 2 ^ 24
      omega
    · change (-149 : Int) ≤ (code / 2 ^ 23 : Nat) - 150
      omega

/-- A number of units of 2^q, as a code: units of 24 bits carry over into the exponent. -/
theorem magVal_units {units k : Nat} (hunits : units ≤ 2 ^ 24) (hk : units < 2 ^ 23 → k = 0) :
    magVal (units + k * 2 ^ 23) = units * 2 ^ ((k : Int) - 149) := by
  have hdiv : (units + k * 2 ^ 23) / 2 ^ 23 = units / 2 ^ 23 + k := Nat.add_mul_div_right _ _ (by decide)
  have hmod : (units + k * 2 ^ 23) % 2 ^ 23 = units % 2 ^ 23 := Nat.add_mul_mod_self_right ..
  rw [magVal, magParts, hdiv, hmod]
  rcases Nat.lt_or_ge units (2 ^ 23) with hlow | hhigh
  · have hk0 := hk hlow
    subst hk0
    rw [Nat.div_eq_of_lt hlow, Nat.mod_eq_of_lt hlow]
    rfl
  rcases Nat.lt_or_eq_of_le hunits with hin | htop
  · have h1 : units / 2 ^ 23 = 1 := by omega
    have hrest : units % 2 ^ 23 + 2 ^ 23 = units := by omega
    rw [h1, if_neg (by omega), hrest]
    congr 2
    push_cast
    ring
  · subst htop
    rw [show 2 ^ 24 / 2 ^ 23 = 2 from rfl, if_neg (by omega)]
    have hexp : ((2 + k : Nat) : Int) - 150 = 1 + (k - 149) := by push_cast; ring
    simp only [hexp, zpow_add₀ (two_ne_zero (α := ℚ))]
    norm_num
    ring

/-! ## The order of magnitudes -/

theorem zpow_split {lo e : Int} (h : lo ≤ e) : (2 : ℚ) ^ e = 2 ^ (e - lo).toNat * 2 ^ lo := by
  rw [← zpow_natCast, ← zpow_add₀ (by norm_num)]
  congr 1
  omega

/-- The comparison of magnitudes is that of their values. -/
theorem magLt_iff (m : Nat) (e : Int) (m' : Nat) (e' : Int) : magLt m e m' e' = true ↔ (m : ℚ) * 2 ^ e < m' * 2 ^ e' := by
  have hpos : (0 : ℚ) < 2 ^ min e e' := by positivity
  rw [zpow_split (min_le_left e e'), zpow_split (min_le_right e e'), ← mul_assoc, ← mul_assoc, mul_lt_mul_iff_left₀ hpos, magLt,
    decide_eq_true_eq]
  norm_cast

/-! ## Rounding to a number of units -/

/-- Rounding to nearest, in units of the magnitude rounded: at most half a unit away. -/
theorem roundUnits_bounds (n : Bool) (m : Nat) {e q : Int} (h : e < q) :
    m ≤ roundUnits .rne n m e false q * 2 ^ (q - e).toNat + 2 ^ ((q - e).toNat - 1) ∧
      roundUnits .rne n m e false q * 2 ^ (q - e).toNat ≤ m + 2 ^ ((q - e).toNat - 1) := by
  obtain ⟨sh, hsh⟩ : ∃ sh, (q - e).toNat = sh + 1 := ⟨(q - e).toNat - 1, by omega⟩
  have hsplit := Nat.div_add_mod' m (2 ^ (sh + 1))
  have hrem := Nat.mod_lt m (Nat.two_pow_pos (sh + 1))
  have hhalf : 2 ^ (sh + 1) = 2 * 2 ^ sh := pow_succ' ..
  rw [roundUnits, if_neg (by omega)]
  simp only [hsh, Nat.add_sub_cancel]
  split
  · next hup =>
    have hge : 2 ^ sh ≤ m % 2 ^ (sh + 1) := by
      simp only [Bool.or_eq_true, Bool.and_eq_true, decide_eq_true_eq] at hup
      omega
    rw [Nat.add_mul, Nat.one_mul]
    omega
  · next hdown =>
    have hle : m % 2 ^ (sh + 1) ≤ 2 ^ sh := by
      simp only [Bool.or_eq_true, Bool.and_eq_true, decide_eq_true_eq, not_or] at hdown
      omega
    omega

/-- Rounding to nearest leaves at most half a unit (02 R51). -/
theorem roundUnits_near (n : Bool) (m : Nat) (e q : Int) :
    |(roundUnits .rne n m e false q : ℚ) * 2 ^ q - m * 2 ^ e| ≤ 2 ^ q / 2 := by
  rcases le_or_gt q e with hle | hlt
  · have hexact : roundUnits .rne n m e false q = m * 2 ^ (e - q).toNat := if_pos hle
    rw [hexact, zpow_split hle]
    push_cast
    rw [← mul_assoc, sub_self, abs_zero]
    positivity
  · obtain ⟨hlow, hhigh⟩ := roundUnits_bounds n m hlt
    have hpos : (0 : ℚ) < 2 ^ e := by positivity
    have hhalf : (2 : ℚ) ^ q / 2 = 2 ^ ((q - e).toNat - 1) * 2 ^ e := by
      obtain ⟨sh, hsh⟩ : ∃ sh, (q - e).toNat = sh + 1 := ⟨(q - e).toNat - 1, by omega⟩
      rw [zpow_split hlt.le, hsh, Nat.add_sub_cancel, pow_succ]
      ring
    rw [hhalf, zpow_split hlt.le, ← mul_assoc, ← sub_mul, abs_mul, abs_of_pos hpos]
    refine mul_le_mul_of_nonneg_right (abs_le.mpr ⟨?_, ?_⟩) hpos.le
    · have : (m : ℚ) ≤ roundUnits .rne n m e false q * 2 ^ (q - e).toNat + 2 ^ ((q - e).toNat - 1) := by exact_mod_cast hlow
      linarith
    · have : (roundUnits .rne n m e false q * 2 ^ (q - e).toNat : ℚ) ≤ m + 2 ^ ((q - e).toNat - 1) := by exact_mod_cast hhigh
      linarith

/-- A number nearest to half a unit is nearest among the multiples of the unit. -/
theorem nearest_of_half {u x : ℚ} {j l : Int} (hu : 0 < u) (h : |(j : ℚ) * u - x| ≤ u / 2) :
    |(j : ℚ) * u - x| ≤ |(l : ℚ) * u - x| := by
  rcases eq_or_ne j l with rfl | hne
  · exact le_refl _
  · have hstep : u ≤ |(l : ℚ) * u - j * u| := by
      have hone : (1 : ℚ) ≤ |((l - j : Int) : ℚ)| := by
        rw [← Int.cast_abs]
        exact_mod_cast Int.one_le_abs (sub_ne_zero.mpr hne.symm)
      rw [← sub_mul, abs_mul, abs_of_pos hu]
      push_cast at hone
      nlinarith
    have htriangle : |(l : ℚ) * u - j * u| ≤ |(l : ℚ) * u - x| + |(j : ℚ) * u - x| := by
      calc |(l : ℚ) * u - j * u| = |(l * u - x) - (j * u - x)| := by congr 1; ring
        _ ≤ _ := abs_sub _ _
    linarith

/-! ## The code of a rounded magnitude -/

/-- The leading bit of a magnitude: 2^(bitLen m - 1) ≤ m < 2^bitLen m. -/
theorem bitLen_bounds {m : Nat} (h : m ≠ 0) : 2 ^ (bitLen m - 1) ≤ m ∧ m < 2 ^ bitLen m := by
  rw [bitLen, if_neg h, Nat.add_sub_cancel]
  exact ⟨Nat.log2_self_le h, Nat.lt_log2_self⟩

theorem bitLen_pos {m : Nat} (h : m ≠ 0) : 0 < bitLen m := by
  rw [bitLen, if_neg h]
  exact Nat.succ_pos _

/-- The exponent of the leading bit of m × 2^e. -/
def topExp (m : Nat) (e : Int) : Int := (bitLen m : Int) - 1 + e

/-- The exponent of the unit of the FP32 number that m × 2^e rounds to. -/
def unitExp (m : Nat) (e : Int) : Int := max (topExp m e) (-126) - 23

section
variable {m : Nat} {e : Int}

theorem topExp_le (h : m ≠ 0) : (2 : ℚ) ^ topExp m e ≤ m * 2 ^ e := by
  have hlow : ((2 ^ (bitLen m - 1) : Nat) : ℚ) ≤ m := by exact_mod_cast (bitLen_bounds h).1
  have hpos := bitLen_pos h
  have hexp : topExp m e = ((bitLen m - 1 : Nat) : Int) + e := by
    unfold topExp
    omega
  rw [hexp, zpow_add₀ (by norm_num), zpow_natCast]
  push_cast at hlow
  exact mul_le_mul_of_nonneg_right hlow (by positivity)

theorem lt_topExp (h : m ≠ 0) : (m : ℚ) * 2 ^ e < 2 ^ (topExp m e + 1) := by
  have hhigh : (m : ℚ) < ((2 ^ bitLen m : Nat) : ℚ) := by exact_mod_cast (bitLen_bounds h).2
  have hexp : topExp m e + 1 = (bitLen m : Int) + e := by
    unfold topExp
    omega
  rw [hexp, zpow_add₀ (by norm_num), zpow_natCast]
  push_cast at hhigh
  exact mul_lt_mul_of_pos_right hhigh (by positivity)

/-- The rounded magnitude has at most 24 bits, and in a normal number no less. -/
theorem units_bounds (n : Bool) (h : m ≠ 0) : roundUnits .rne n m e false (unitExp m e) ≤ 2 ^ 24 ∧
    (roundUnits .rne n m e false (unitExp m e) < 2 ^ 23 → unitExp m e = -149) := by
  have hunit : (0 : ℚ) < 2 ^ unitExp m e := by positivity
  have hnear := abs_le.mp (roundUnits_near n m e (unitExp m e))
  have hone : ∀ a b : Nat, (a : ℚ) < b + 1 → a ≤ b := fun a b hab => by
    have : (a : ℚ) < ((b + 1 : Nat) : ℚ) := by exact_mod_cast hab
    exact Nat.lt_succ_iff.mp (by exact_mod_cast this)
  constructor
  · apply hone
    have hmag : (m : ℚ) * 2 ^ e ≤ 2 ^ 24 * 2 ^ unitExp m e := by
      refine (lt_topExp h).le.trans ?_
      rw [← zpow_natCast, ← zpow_add₀ (by norm_num)]
      refine zpow_le_zpow_right₀ (by norm_num) ?_
      unfold unitExp
      omega
    push_cast
    nlinarith
  · intro hlow
    by_contra hne
    have htop : unitExp m e = topExp m e - 23 := by
      unfold unitExp at hne ⊢
      omega
    have hmag : (2 : ℚ) ^ 23 * 2 ^ unitExp m e ≤ m * 2 ^ e := by
      refine le_trans (le_of_eq ?_) (topExp_le h)
      rw [← zpow_natCast, ← zpow_add₀ (by norm_num), htop]
      congr 1
      push_cast
      ring
    have : 2 ^ 23 ≤ roundUnits .rne n m e false (unitExp m e) := by
      apply hone
      push_cast
      nlinarith
    omega

/-- The code of a magnitude that is rounded: its value is a number of units, and it is below the codes of infinity and NaN. -/
theorem roundCode_eq (n : Bool) (h : m ≠ 0) : ∃ k : Nat, (k : Int) = unitExp m e + 149 ∧
    roundCode 23 127 .rne n m e false = roundUnits .rne n m e false (unitExp m e) + k * 2 ^ 23 := by
  refine ⟨(unitExp m e + 149).toNat, ?_, ?_⟩
  · unfold unitExp
    omega
  · have hunit : max ((bitLen m : Int) - 1 + e) (1 - ((127 : Nat) : Int)) - (23 : Nat) = unitExp m e := by
      unfold unitExp topExp
      omega
    have hk : (unitExp m e + (23 : Nat) - (1 - ((127 : Nat) : Int))).toNat = (unitExp m e + 149).toNat := by omega
    rw [roundCode, if_neg (by simp [h])]
    simp only [hunit, hk]

theorem magVal_roundCode (n : Bool) (h : m ≠ 0) : magVal (roundCode 23 127 .rne n m e false) =
    roundUnits .rne n m e false (unitExp m e) * 2 ^ unitExp m e := by
  obtain ⟨k, hk, hcode⟩ := roundCode_eq (e := e) n h
  obtain ⟨hhigh, hlow⟩ := units_bounds (e := e) n h
  rw [hcode, magVal_units hhigh (fun hlt => by have := hlow hlt; omega)]
  congr 2
  omega

/-- A magnitude below 2^128 rounds to a code of 31 bits. -/
theorem roundCode_lt (n : Bool) (h : m ≠ 0) (hrange : topExp m e ≤ 127) : roundCode 23 127 .rne n m e false < 2 ^ 31 := by
  obtain ⟨k, hk, hcode⟩ := roundCode_eq (e := e) n h
  obtain ⟨hhigh, -⟩ := units_bounds (e := e) n h
  have hk253 : k ≤ 253 := by
    unfold unitExp at hk
    omega
  rw [hcode]
  omega

end

/-! ## The greatest finite number -/

/-- The greatest finite FP32 number. -/
def maxVal : ℚ := (2 ^ 24 - 1 : ℚ) * 2 ^ (104 : Int)

theorem maxParts_fp32 : maxParts .fp32 = (2 ^ 24 - 1, 104) := by decide +kernel

theorem beyond_iff (m : Nat) (e : Int) : Machine.beyond .fp32 m e false = true ↔ maxVal < m * 2 ^ e := by
  rw [Machine.beyond, maxParts_fp32]
  simp only [Bool.false_and, Bool.or_false]
  rw [magLt_iff, maxVal]
  norm_num

theorem magVal_max : magVal (fmtMaxCode .fp32) = maxVal := by
  have hparts : magParts (fmtMaxCode .fp32) = (2 ^ 24 - 1, 104) := by decide +kernel
  rw [magVal, hparts, maxVal]
  norm_num

theorem magVal_le {code : Nat} (h : code < 0x7F800000) : magVal code ≤ maxVal := by
  have hexp : (magParts code).2 ≤ 104 := by
    unfold magParts
    split
    · exact (by decide : (-149 : Int) ≤ 104)
    · change ((code / 2 ^ 23 : Nat) : Int) - 150 ≤ 104
      omega
  have hmant : ((magParts code).1 : ℚ) ≤ 2 ^ 24 - 1 := by
    have := (magParts_bounds code).1
    have hle : (magParts code).1 ≤ 2 ^ 24 - 1 := by omega
    have : ((magParts code).1 : ℚ) ≤ ((2 ^ 24 - 1 : Nat) : ℚ) := by exact_mod_cast hle
    norm_num at this ⊢
    exact this
  exact mul_le_mul hmant (zpow_le_zpow_right₀ (by norm_num) hexp) (by positivity) (by norm_num)

theorem topExp_le_of_le_max {m : Nat} {e : Int} (h : m ≠ 0) (hmax : (m : ℚ) * 2 ^ e ≤ maxVal) : topExp m e ≤ 127 := by
  have hlt : (2 : ℚ) ^ topExp m e < 2 ^ (128 : Int) := by
    refine ((topExp_le h).trans hmax).trans_lt ?_
    rw [maxVal]
    norm_num
  have := (zpow_lt_zpow_iff_right₀ (by norm_num : (1 : ℚ) < 2)).mp hlt
  omega

/-! ## The nearest FP32 number -/

theorem sgn_mul_self (n : Bool) : sgn n * sgn n = 1 := by cases n <;> norm_num [sgn]

theorem sgn_bne (n n' : Bool) : sgn (n != n') = sgn n * sgn n' := by cases n <;> cases n' <;> norm_num [sgn]

/-- A sign taken out of a distance. -/
theorem abs_sub_sgn (n : Bool) (x y : ℚ) : |x - sgn n * y| = |sgn n * x - y| := by
  have h : sgn n * x - y = sgn n * (x - sgn n * y) := by
    rw [mul_sub, ← mul_assoc, sgn_mul_self, one_mul]
  rw [h, abs_mul, abs_sgn, one_mul]

/-- A finite number is a number of units of the magnitude rounded, or that magnitude is normal and its leading bit lies beyond
the number. -/
theorem multiple_or_small {w : Word} (hw : finite w) (n : Bool) (m : Nat) (e : Int) :
    (∃ j : Int, sgn n * ratOf w = j * 2 ^ unitExp m e) ∨
      (topExp m e = 23 + unitExp m e ∧ |sgn n * ratOf w| ≤ 2 ^ topExp m e) := by
  obtain ⟨hmant, hexp⟩ := magParts_bounds (w.toNat % 2 ^ 31)
  rcases le_or_gt (unitExp m e) (magParts (w.toNat % 2 ^ 31)).2 with hle | hlt
  · left
    refine ⟨(if n != w.msb then -1 else 1) * ((magParts (w.toNat % 2 ^ 31)).1 *
      2 ^ ((magParts (w.toNat % 2 ^ 31)).2 - unitExp m e).toNat), ?_⟩
    rw [ratOf_finite (finite_iff.mp hw), magVal, zpow_split hle]
    cases n <;> cases w.msb <;> simp [sgn, mul_assoc]
  · right
    have htop : topExp m e = 23 + unitExp m e := by
      unfold unitExp at hlt ⊢
      omega
    refine ⟨htop, ?_⟩
    rw [abs_mul, abs_sgn, one_mul, abs_ratOf w hw, magVal]
    have hmant' : ((magParts (w.toNat % 2 ^ 31)).1 : ℚ) ≤ 2 ^ 24 := by exact_mod_cast hmant.le
    calc ((magParts (w.toNat % 2 ^ 31)).1 : ℚ) * 2 ^ (magParts (w.toNat % 2 ^ 31)).2
        ≤ 2 ^ 24 * 2 ^ (magParts (w.toNat % 2 ^ 31)).2 := mul_le_mul_of_nonneg_right hmant' (by positivity)
      _ = 2 ^ (24 + (magParts (w.toNat % 2 ^ 31)).2) := by rw [zpow_add₀ (by norm_num)]; norm_num
      _ ≤ 2 ^ topExp m e := zpow_le_zpow_right₀ (by norm_num) (by omega)

/-- A magnitude within the range rounds to the nearest number. -/
theorem roundCode_nearest {m : Nat} {e : Int} (n : Bool) (h : m ≠ 0) {w : Word} (hw : finite w) :
    |magVal (roundCode 23 127 .rne n m e false) - m * 2 ^ e| ≤ |sgn n * ratOf w - m * 2 ^ e| := by
  have hunit : (0 : ℚ) < 2 ^ unitExp m e := by positivity
  have hnear := roundUnits_near n m e (unitExp m e)
  have hmultiple : ∀ l : Int, |magVal (roundCode 23 127 .rne n m e false) - m * 2 ^ e| ≤
      |(l : ℚ) * 2 ^ unitExp m e - m * 2 ^ e| := fun l => by
    rw [magVal_roundCode n h]
    exact nearest_of_half (j := (roundUnits .rne n m e false (unitExp m e) : Int)) hunit (by exact_mod_cast hnear)
  rcases multiple_or_small hw n m e with ⟨j, hj⟩ | ⟨hexp, hsmall⟩
  · rw [hj]
    exact hmultiple j
  · have htop : (2 : ℚ) ^ topExp m e = ((2 ^ 23 : Int) : ℚ) * 2 ^ unitExp m e := by
      rw [hexp, zpow_add₀ (by norm_num)]
      norm_num
    have hle := topExp_le (e := e) h
    calc _ ≤ |(2 : ℚ) ^ topExp m e - m * 2 ^ e| := by rw [htop]; exact hmultiple _
      _ = m * 2 ^ e - 2 ^ topExp m e := by rw [abs_sub_comm, abs_of_nonneg (by linarith)]
      _ ≤ m * 2 ^ e - sgn n * ratOf w := by
        have := le_abs_self (sgn n * ratOf w)
        linarith
      _ ≤ |sgn n * ratOf w - m * 2 ^ e| := by
        rw [abs_sub_comm]
        exact le_abs_self _

/-- The rounding of a finite exact value into FP32: the greatest number or infinity beyond the range (02 R51 R55). -/
theorem encodeFin_fp32 (ie n : Bool) (m : Nat) (e : Int) (more : Bool) : encodeFin .fp32 ie .rne n m e more =
    if Machine.beyond .fp32 m e more then
      if ie && atOverflow .fp32 m e then (withSign .fp32 n 0x7F800000, evOvf) else (withSign .fp32 n 0x7F7FFFFF, evSat)
    else (withSign .fp32 n (roundCode 23 127 .rne n m e more), 0) := rfl

theorem ratOf_withSign (n : Bool) {code : Nat} (h : code < 0x7F800000) :
    ratOf (BitVec.ofNat 32 (withSign .fp32 n code)) = sgn n * magVal code := by
  obtain ⟨hmag, hsign⟩ := word_withSign n (code := code) (by omega)
  rw [ratOf_finite (by rwa [hmag]), hmag, hsign]

theorem lt_of_finite_withSign {n : Bool} {code : Nat} (h : code < 2 ^ 31)
    (hfinite : finite (BitVec.ofNat 32 (withSign .fp32 n code))) : code < 0x7F800000 := by
  rw [finite_iff, (word_withSign n h).1] at hfinite
  exact hfinite

/-- A magnitude that is rounded into FP32 with a finite result lies as near that result as any finite number. -/
theorem encodeFin_nearest {ie n : Bool} {m : Nat} {e : Int} (h : m ≠ 0) {w : Word} (hw : finite w)
    (hfinite : finite (BitVec.ofNat 32 (encodeFin .fp32 ie .rne n m e false).1)) :
    |ratOf (BitVec.ofNat 32 (encodeFin .fp32 ie .rne n m e false).1) - sgn n * (m * 2 ^ e)| ≤ |ratOf w - sgn n * (m * 2 ^ e)| := by
  rw [abs_sub_sgn, abs_sub_sgn]
  rw [encodeFin_fp32] at hfinite ⊢
  by_cases hbeyond : Machine.beyond .fp32 m e false = true
  · rw [if_pos hbeyond] at hfinite ⊢
    by_cases hinf : (ie && atOverflow .fp32 m e) = true
    · rw [if_pos hinf] at hfinite
      have := lt_of_finite_withSign (by decide) hfinite
      omega
    · rw [if_neg hinf, ratOf_withSign n (by decide), ← mul_assoc, sgn_mul_self, one_mul]
      have hmax : magVal 0x7F7FFFFF = maxVal := magVal_max
      have hover := (beyond_iff m e).mp hbeyond
      have hle : sgn n * ratOf w ≤ maxVal := by
        refine (le_abs_self _).trans ?_
        rw [abs_mul, abs_sgn, one_mul, abs_ratOf w hw]
        exact magVal_le (finite_iff.mp hw)
      rw [hmax, abs_sub_comm, abs_of_pos (by linarith), abs_sub_comm]
      exact le_trans (by linarith) (le_abs_self _)
  · rw [if_neg hbeyond] at hfinite ⊢
    have hin : (m : ℚ) * 2 ^ e ≤ maxVal := not_lt.mp fun hlt => hbeyond ((beyond_iff m e).mpr hlt)
    have hcode := lt_of_finite_withSign (roundCode_lt n h (topExp_le_of_le_max h hin)) hfinite
    rw [ratOf_withSign n hcode, ← mul_assoc, sgn_mul_self, one_mul]
    exact roundCode_nearest n h hw

/-! ## Sums and products -/

/-- The value of a signed dyadic. -/
def dyadVal (d : Dyad) : ℚ := d.m * 2 ^ d.e

theorem dyadVal_dyad (n : Bool) (m : Nat) (e : Int) : dyadVal (dyad n m e) = sgn n * (m * 2 ^ e) := by
  cases n <;> simp [dyadVal, dyad, sgn]

theorem dyadVal_add (a b : Dyad) : dyadVal (dyadAdd a b) = dyadVal a + dyadVal b := by
  simp only [dyadVal, dyadAdd]
  rw [zpow_split (min_le_left a.e b.e), zpow_split (min_le_right a.e b.e)]
  push_cast
  ring

theorem dyadVal_sign (d : Dyad) : dyadVal d = sgn (decide (d.m < 0)) * (d.m.natAbs * 2 ^ d.e) := by
  rw [Nat.cast_natAbs, Int.cast_abs, dyadVal]
  by_cases h : d.m < 0
  · rw [abs_of_neg (by exact_mod_cast h)]
    simp [sgn, h]
  · rw [abs_of_nonneg (by exact_mod_cast not_lt.mp h)]
    simp [sgn, h]

/-- A finite exact result is rounded to the nearest number. -/
theorem roundF32_nearest {ie z : Bool} {d : Dyad} {w : Word} (hw : finite w) (hfinite : finite (roundF32 ie d z).1) :
    |ratOf (roundF32 ie d z).1 - dyadVal d| ≤ |ratOf w - dyadVal d| := by
  rw [roundF32] at hfinite ⊢
  by_cases h : d.m = 0
  · have hzero : ratOf (BitVec.ofNat 32 (if z then 0x80000000 else 0)) = 0 := by
      have hcode : (if z then 0x80000000 else 0) = withSign .fp32 z 0 := by cases z <;> rfl
      have hmag : magVal 0 = 0 := by simp [magVal, magParts]
      rw [hcode, ratOf_withSign z (by decide), hmag, mul_zero]
    rw [if_pos h, hzero, dyadVal, h]
    simp
  · rw [if_neg h] at hfinite ⊢
    rw [dyadVal_sign]
    exact encodeFin_nearest (by omega) hw hfinite

/-- Settles O3: sum and product are the rounding of the exact dyadic. -/
theorem roundsToNearest : Obligations.RoundsToNearest := fun ie a b w ⟨n, m, e, ha⟩ ⟨n', m', e', hb⟩ hw => by
  rw [ratOf_of_parts ha, ratOf_of_parts hb]
  constructor
  · have hsum : dyadVal (dyadAdd (dyad n m e) (dyad n' m' e')) = sgn n * (m * 2 ^ e) + sgn n' * (m' * 2 ^ e') := by
      rw [dyadVal_add, dyadVal_dyad, dyadVal_dyad]
    have hadd : fadd ie a b = roundF32 ie (dyadAdd (dyad n m e) (dyad n' m' e')) (m == 0 && m' == 0 && n && n') := by
      rw [fadd, ha, hb]
      rfl
    rw [hadd, ← hsum]
    exact roundF32_nearest hw
  · have hproduct : dyadVal (dyad (n != n') (m * m') (e + e')) = sgn n * (m * 2 ^ e) * (sgn n' * (m' * 2 ^ e')) := by
      rw [dyadVal_dyad, zpow_add₀ (by norm_num), sgn_bne]
      push_cast
      ring
    have hmul : fmul ie a b = roundF32 ie (dyad (n != n') (m * m') (e + e')) (n != n') := by
      rw [fmul, ha, hb]
      rfl
    rw [hmul, ← hproduct]
    exact roundF32_nearest hw

end Sys2Proof.Proofs
end

section
/-! PROOFS. Special inputs of the floating-point operations (04 R97 R98 R101). -/

namespace Sys2Proof.Proofs

open Sys2Proof Sys2Proof.Machine Sys2Proof.Claims Sys2Proof.Laws

/-! ## NaN inputs (04 R101) -/

theorem isNaN32_iff {w : Word} : isNaN32 w = true ↔ f32 w = .nan := decide_eq_true_iff

theorem addVal_nan_right (ie : Bool) (v : FVal) : (addVal ie v .nan).1 = f32NaN := by cases v <;> rfl

theorem mulVal_nan_right (v : FVal) : mulVal v .nan = .nan := by cases v <;> rfl

theorem fdiv_nan_right (ie : Bool) (x : Word) {y : Word} (h : f32 y = .nan) : (fdiv ie x y).1 = f32NaN := by
  rw [fdiv, h]
  cases f32 x <;> rfl

theorem nanInputs (ie : Bool) (x y z : Word) : NaNInputs ie x y z := by
  refine ⟨fun hx => ?_, fun hy => ?_, fun hz => ?_⟩
  · have h := isNaN32_iff.mp hx
    exact ⟨by rw [fadd, h]; rfl, by rw [fsub, h]; rfl, by rw [fmul, h]; rfl, by rw [fdiv, h], by rw [fmin, hx]; rfl,
      by rw [fmax, hx]; rfl, by rw [fexp2, h], by rw [flog2, h], by rw [frcp, h], by rw [frsq, h], by rw [ffma, h]; rfl⟩
  · have h := isNaN32_iff.mp hy
    exact ⟨by rw [fadd, h, addVal_nan_right], by rw [fsub, h]; exact addVal_nan_right ..,
      by rw [fmul, h, mulVal_nan_right]; rfl, fdiv_nan_right ie x h, by rw [fmin, hy, Bool.or_true]; rfl,
      by rw [fmax, hy, Bool.or_true]; rfl, by rw [ffma, h, mulVal_nan_right]; rfl⟩
  · rw [ffma, isNaN32_iff.mp hz, addVal_nan_right]

/-! ## Zeros, infinities and one -/

theorem f32_f32Zero (n : Bool) : f32 (f32Zero n) = .fin n 0 (-149) := by cases n <;> decide +kernel

theorem f32_f32Inf (n : Bool) : f32 (f32Inf n) = .inf n := by cases n <;> decide +kernel

theorem fexp2_zero (ie n : Bool) : (fexp2 ie (f32Zero n)).1 = 0x3F800000 := by
  rw [fexp2, f32_f32Zero]
  rfl

theorem flog2_zero (ie n : Bool) : (flog2 ie (f32Zero n)).1 = f32Inf true := by
  rw [flog2, f32_f32Zero]
  rfl

theorem flog2_one (ie : Bool) : (flog2 ie 0x3F800000).1 = 0 := by cases ie <;> decide +kernel

theorem frcp_zero (ie n : Bool) : (frcp ie (f32Zero n)).1 = f32Inf n := by
  rw [frcp, f32_f32Zero]
  rfl

theorem frcp_inf (ie n : Bool) : (frcp ie (f32Inf n)).1 = f32Zero n := by rw [frcp, f32_f32Inf]

theorem frsq_zero (ie n : Bool) : (frsq ie (f32Zero n)).1 = f32Inf n := by
  rw [frsq, f32_f32Zero]
  rfl

/-! ## Finite inputs -/

/-- What is finite and not zero has a mantissa. -/
theorem mantissa_ne_zero {x : Word} {n : Bool} {m : Nat} {e : Int} (h : f32 x = .fin n m e) (hx : ratOf x ≠ 0) : m ≠ 0 := by
  rintro rfl
  exact hx (by rw [ratOf_of_parts h]; simp)

theorem magParts_eq_zero {code : Nat} (h : (magParts code).1 = 0) : code = 0 := by
  unfold magParts at h
  split at h
  · simp only at h
    omega
  · simp only at h
    omega

/-- A negative number other than −0 is −infinity or finite with a mantissa. -/
theorem negative_cases {x : Word} (hsign : x.msb = true) (hnum : isNaN32 x = false) (hzero : x ≠ 0x80000000) :
    f32 x = .inf true ∨ ∃ m e, m ≠ 0 ∧ f32 x = .fin true m e := by
  rw [f32_eq, hsign]
  split
  · next hnan =>
    have h : isNaN32 x = true := by rw [isNaN32_iff, f32_eq, if_pos hnan]
    rw [hnum] at h
    cases h
  · split
    · exact .inl rfl
    · refine .inr ⟨_, _, fun hmant => hzero ?_, rfl⟩
      have hcode := magParts_eq_zero hmant
      rw [BitVec.msb_eq_decide, decide_eq_true_eq] at hsign
      have hlt := x.isLt
      apply BitVec.eq_of_toNat_eq
      change x.toNat = 2 ^ 31
      omega

theorem negative_nan (ie : Bool) {x : Word} (hsign : x.msb = true) (hnum : isNaN32 x = false) (hzero : x ≠ 0x80000000) :
    (flog2 ie x).1 = f32NaN ∧ (frsq ie x).1 = f32NaN := by
  rcases negative_cases hsign hnum hzero with h | ⟨m, e, hm, h⟩
  · rw [flog2, frsq, h]
    exact ⟨rfl, rfl⟩
  · rw [flog2, frsq, h]
    simp only [hm, if_false, if_true, and_self]

/-- 2^128 lies beyond the range. -/
theorem overflow_word (ie n : Bool) (m : Nat) (e : Int) (more : Bool) (h : (2 : ℚ) ^ (128 : Int) ≤ m * 2 ^ e) :
    BitVec.ofNat 32 (encodeFin .fp32 ie .rne n m e more).1 = Claims.beyond ie n := by
  have hbeyond : Machine.beyond .fp32 m e more = true := by
    rw [Machine.beyond, maxParts_fp32, Bool.or_eq_true]
    left
    rw [magLt_iff]
    refine lt_of_lt_of_le ?_ h
    norm_num
  have hover : atOverflow .fp32 m e = true := by
    rw [atOverflow, maxParts_fp32, Bool.not_eq_true', Bool.eq_false_iff, ne_eq, magLt_iff, not_lt]
    refine le_trans ?_ h
    norm_num
  rw [encodeFin_fp32, if_pos hbeyond, hover]
  cases ie <;> cases n <;> decide

section
variable (ie : Bool) {x : Word}

theorem fexp2_large (hx : finite x) (h : 128 ≤ ratOf x) : (fexp2 ie x).1 = Claims.beyond ie false := by
  obtain ⟨n, m, e, hparts⟩ := hx
  have hm := mantissa_ne_zero hparts (by linarith)
  rw [ratOf_of_parts hparts] at h
  have hmag : (0 : ℚ) ≤ m * 2 ^ e := by positivity
  cases n with
  | true =>
    simp only [sgn, if_true] at h
    linarith
  | false =>
    simp only [sgn, Bool.false_eq_true, if_false, one_mul] at h
    have hge : magLt m e 128 0 = false := by
      rw [Bool.eq_false_iff, ne_eq, magLt_iff]
      push_cast
      linarith
    rw [fexp2, hparts]
    simp only [hm, hge, Bool.not_false, if_true, if_false, Bool.false_eq_true]
    exact overflow_word ie false 1 128 false (by norm_num)

theorem fexp2_small (hx : finite x) (h : ratOf x ≤ -150) : (fexp2 ie x).1 = 0 := by
  obtain ⟨n, m, e, hparts⟩ := hx
  have hm := mantissa_ne_zero hparts (by linarith)
  rw [ratOf_of_parts hparts] at h
  have hmag : (0 : ℚ) ≤ m * 2 ^ e := by positivity
  cases n with
  | false =>
    simp only [sgn, Bool.false_eq_true, if_false, one_mul] at h
    linarith
  | true =>
    simp only [sgn, if_true] at h
    have hge : ∀ k : Nat, k ≤ 150 → magLt m e k 0 = false := fun k hk => by
      have hk : (k : ℚ) ≤ 150 := by exact_mod_cast hk
      rw [Bool.eq_false_iff, ne_eq, magLt_iff, zpow_zero]
      linarith
    rw [fexp2, hparts]
    simp only [hm, hge 128 (by decide), hge 150 (by decide), Bool.not_false, if_true, if_false]

/-- The quotient bits of a reciprocal hold every power of two up to the reciprocal (04 R100). -/
theorem frcp_small (hx : finite x) (hne : ratOf x ≠ 0) (h : |ratOf x| ≤ (2 : ℚ) ^ (-128 : ℤ)) :
    (frcp ie x).1 = Claims.beyond ie x.msb := by
  have hcode := finite_iff.mp hx
  have hparts := f32_finite hcode
  have hm := mantissa_ne_zero hparts hne
  have hexp := (magParts_bounds (x.toNat % 2 ^ 31)).2
  rw [abs_ratOf x hx, magVal] at h
  rw [frcp, hparts]
  generalize (magParts (x.toNat % 2 ^ 31)).1 = m at hm h ⊢
  generalize (magParts (x.toNat % 2 ^ 31)).2 = e at hexp h ⊢
  simp only [hm, if_false, quotF32, one_ne_zero]
  apply overflow_word
  generalize hsh : 64 + bitLen m - min (bitLen 1) (64 + bitLen m) = sh
  have h63 : 63 ≤ sh := by
    have hone : bitLen 1 = 1 := rfl
    omega
  obtain ⟨t, ht⟩ : ∃ t : Nat, (t : Int) = 128 + e + sh := ⟨(128 + e + sh).toNat, by omega⟩
  have hquot : 2 ^ t ≤ 1 * 2 ^ sh / m := by
    rw [Nat.le_div_iff_mul_le (Nat.pos_of_ne_zero hm), one_mul]
    have hscaled : (2 : ℚ) ^ t * m ≤ 2 ^ sh := by
      have hpow : (2 : ℚ) ^ t = 2 ^ (128 + sh : Int) * 2 ^ e := by
        rw [← zpow_natCast, ← zpow_add₀ (by norm_num)]
        congr 1
        omega
      calc (2 : ℚ) ^ t * m = 2 ^ (128 + sh : Int) * (m * 2 ^ e) := by rw [hpow]; ring
        _ ≤ 2 ^ (128 + sh : Int) * 2 ^ (-128 : Int) := mul_le_mul_of_nonneg_left h (by positivity)
        _ = 2 ^ sh := by rw [← zpow_add₀ (by norm_num), ← zpow_natCast]; congr 1; omega
    exact_mod_cast hscaled
  have hcast : (2 : ℚ) ^ t ≤ ((1 * 2 ^ sh / m : Nat) : ℚ) := by exact_mod_cast hquot
  calc (2 : ℚ) ^ (128 : Int) = 2 ^ t * 2 ^ (-e - sh : Int) := by
        rw [← zpow_natCast, ← zpow_add₀ (by norm_num)]
        congr 1
        omega
    _ ≤ _ := mul_le_mul_of_nonneg_right hcast (by positivity)

end

theorem specialUnary (ie : Bool) (x : Word) : SpecialUnary ie x :=
  ⟨negative_nan ie, fun hx => ⟨fexp2_large ie hx, fexp2_small ie hx, frcp_small ie hx⟩,
    by rw [show (0xFF800000 : Word) = f32Inf true from rfl, fexp2, f32_f32Inf],
    by rw [show (0x7F800000 : Word) = f32Inf false from rfl, fexp2, f32_f32Inf],
    fexp2_zero ie false, fexp2_zero ie true, flog2_zero ie false, flog2_zero ie true,
    by rw [show (0x7F800000 : Word) = f32Inf false from rfl, flog2, f32_f32Inf], flog2_one ie,
    frcp_zero ie false, frcp_zero ie true, frcp_inf ie false, frcp_inf ie true, frsq_zero ie false, frsq_zero ie true,
    by rw [show (0x7F800000 : Word) = f32Inf false from rfl, frsq, f32_f32Inf]⟩

/-! ## VDIV, VFMA, VMIN and VMAX -/

theorem fdiv_finite (ie n : Bool) {x : Word} (hx : finite x) :
    (ratOf x ≠ 0 → (fdiv ie x (f32Zero n)).1 = f32Inf (x.msb != n)) ∧ (fdiv ie (f32Inf n) x).1 = f32Inf (n != x.msb) ∧
      (fdiv ie x (f32Inf n)).1 = f32Zero (x.msb != n) := by
  have hparts := f32_finite (finite_iff.mp hx)
  refine ⟨fun hne => ?_, ?_, ?_⟩
  · have hm := mantissa_ne_zero hparts hne
    rw [fdiv, hparts, f32_f32Zero]
    simp only [hm, if_true, if_false]
  · rw [fdiv, hparts, f32_f32Inf]
  · rw [fdiv, hparts, f32_f32Inf]

theorem specialBinary (ie n n' : Bool) (x z : Word) : SpecialBinary ie n n' x z := by
  refine ⟨fdiv_finite ie n, ?_, ?_, ?_, ?_, by decide, by decide, by decide, by decide⟩
  · rw [fdiv, f32_f32Zero, f32_f32Zero]
    rfl
  · rw [fdiv, f32_f32Inf, f32_f32Inf]
  · rw [ffma, f32_f32Inf, f32_f32Zero]
    rfl
  · rw [ffma, f32_f32Inf, f32_f32Zero]
    rfl

/-- Settles O4: each row by the class of its inputs. -/
theorem specialInputs : Obligations.SpecialInputs := fun ie n n' x y z =>
  ⟨nanInputs ie x y z, specialUnary ie x, specialBinary ie n n' x z⟩

end Sys2Proof.Proofs
end

section
/-! PROOFS. Entries that land in a data queue, and entries read from one (05 R126 R128 R129). -/

namespace Sys2Proof.Proofs

open Sys2Proof Sys2Proof.Machine Sys2Proof.Claims Sys2Proof.Laws

/-! ## A fault of a stream -/

@[simp] theorem streamFault_tileAt (c : Chip) (row site n y : Nat) : tileAt (streamFault c row site n) y = tileAt c y := by
  rw [streamFault_frame]
  rfl

@[simp] theorem streamFault_none (c : Chip) (row site : Nat) : streamFault c row site 0 = c := rfl

/-- A stream fault counts in its row and in no other. -/
theorem counts_streamFault (c : Chip) (row site n : Nat) : Counts c (streamFault c row site n) (key 0x3050 row) n [] :=
  ⟨(streamFault_counts ..).trans (if_pos rfl), fun _ hj _ => (streamFault_counts ..).trans (if_neg hj)⟩

/-- What a stream fault makes of the error log concerns no injection. -/
theorem streamFault_inj (c : Chip) (row site n : Nat) : (streamFault c row site n).err.inj = c.err.inj := by
  unfold streamFault reportOnce
  split
  · rfl
  · split <;> rfl

theorem counts_of_acc {c d : Chip} (h : d.acc = c.acc) (k : Nat) : Counts c d k 0 [] :=
  ⟨by rw [h]; rfl, fun _ _ _ => by rw [h]⟩

/-! ## An entry lands (05 R126 R128) -/

section
variable (c : Chip) (site q : Nat) (d : List Byte) (p : Bool)

/-- The queue after a push takes the place of the queue before it. -/
theorem pushTo_tileAt_same : tileAt (pushTo c site q d p) site =
    setQueue (tileAt c site) q (qPush (queueAt (tileAt c site) q) c.plan.cyc d p).1 := by
  unfold pushTo
  dsimp only
  split <;> simp

theorem pushTo_tileAt_ne {y : Nat} (hy : y ≠ site) : tileAt (pushTo c site q d p) y = tileAt c y := by
  unfold pushTo
  dsimp only
  split <;> simp [tileAt_modTile_ne _ _ hy]

theorem queueAt_pushTo_same : queueAt (tileAt (pushTo c site q d p) site) q =
    (qPush (queueAt (tileAt c site) q) c.plan.cyc d p).1 := by
  rw [pushTo_tileAt_same, queueAt_setQueue_same]

theorem queueAt_pushTo_ne {k : Nat} (hk : k ≠ q) :
    queueAt (tileAt (pushTo c site q d p) site) k = queueAt (tileAt c site) k := by
  rw [pushTo_tileAt_same, queueAt_setQueue_ne _ _ hk]

end

/-- A queue with room holds an entry whose tag the pop count has not passed. -/
theorem qPush_held {x : DQueue} (hroom : x.entries.length < 32) (htag : serialLt x.push x.pop = false) (now : Nat)
    (d : List Byte) (p : Bool) : qPush x now d p =
      ({ x with push := (x.push + 1) % 65536, entries := x.entries ++ [⟨x.push, now, d, p⟩] }, .held) := by
  simp [qPush, Nat.not_le.mpr hroom, htag]

theorem qPush_lost {x : DQueue} (hfull : 32 ≤ x.entries.length) (now : Nat) (d : List Byte) (p : Bool) :
    qPush x now d p = ({ x with push := (x.push + 1) % 65536 }, .lost) := by
  simp [qPush, hfull]

theorem qPush_late {x : DQueue} (hroom : x.entries.length < 32) (htag : serialLt x.push x.pop = true) (now : Nat)
    (d : List Byte) (p : Bool) : qPush x now d p = ({ x with push := (x.push + 1) % 65536 }, .late) := by
  simp [qPush, Nat.not_le.mpr hroom, htag]

/-- 05 R126 R128: what lands in a queue. -/
theorem entryLands : EntryLands := by
  intro c site q d p
  refine ⟨fun k hk => queueAt_pushTo_ne c site q d p hk, fun y hy => pushTo_tileAt_ne c site q d p hy, ?_, ?_, ?_⟩
  · intro hroom htag
    have hpush := qPush_held hroom htag c.plan.cyc d p
    refine ⟨?_, (queueAt_pushTo_same ..).trans (congrArg Prod.fst hpush)⟩
    simp only [landEntry, pushTo, hpush]
    rfl
  · intro hfull
    have hpush := qPush_lost hfull c.plan.cyc d p
    refine ⟨(queueAt_pushTo_same ..).trans (congrArg Prod.fst hpush), ?_⟩
    simp only [landEntry, pushTo, hpush]
    exact (counts_streamFault ..).1
  · intro hroom htag
    have hpush := qPush_late hroom htag c.plan.cyc d p
    refine ⟨(queueAt_pushTo_same ..).trans (congrArg Prod.fst hpush), ?_⟩
    simp only [landEntry, pushTo, hpush]
    exact (counts_streamFault ..).1

/-! ## An entry is read (05 R126 R128 R129) -/

theorem qPeek_head {x : DQueue} {e : DEntry} {rest : List DEntry} {now : Nat} (hentries : x.entries = e :: rest)
    (htag : e.tag = x.pop) (hwrote : e.wrote + 2 ≤ now) : qPeek x now = .got e := by
  simp [qPeek, hentries, htag, Nat.not_lt.mpr hwrote]

/-- The entry at the head of a queue is taken. -/
theorem readQueue_head {c : Chip} {site q : Nat} {e : DEntry} {rest : List DEntry} (counted : List Nat)
    (hentries : (queueAt (tileAt c site) q).entries = e :: rest) (htag : e.tag = (queueAt (tileAt c site) q).pop)
    (hwrote : e.wrote + 2 ≤ c.plan.cyc) : readQueue counted c site q =
      (modTile c site (fun t => setQueue t q { queueAt (tileAt c site) q with
        entries := rest, pop := ((queueAt (tileAt c site) q).pop + 1) % 65536 }), some e) := by
  simp only [readQueue, qPeek_head hentries htag hwrote, qTake, hentries, List.drop_succ_cons, List.drop_zero]

/-- The tile after an entry was missing in an empty queue: its tag is passed, and it is no longer stalled for where it was. -/
def missed (counted : List Nat) (q : Nat) (t : Tile) : Tile :=
  setQueue { t with stalled := if counted.contains q then t.stalled.erase q else t.stalled } q
    { queueAt t q with pop := ((queueAt t q).pop + 1) % 65536 }

/-- An entry that an empty queue does not give is missing, and counted but where it was counted already. -/
theorem readQueue_empty {c : Chip} {site q : Nat} (counted : List Nat) (hempty : (queueAt (tileAt c site) q).entries = []) :
    readQueue counted c site q =
      (streamFault (modTile c site (missed counted q)) 2 site (if counted.contains q then 0 else 1), none) := by
  have hpeek : qPeek (queueAt (tileAt c site) q) c.plan.cyc = .empty := by simp [qPeek, hempty]
  have hmissed : modTile c site (missed counted q) = modTile c site (fun t => setQueue
      { t with stalled := if counted.contains q then t.stalled.erase q else t.stalled } q
      { queueAt (tileAt c site) q with pop := ((queueAt (tileAt c site) q).pop + 1) % 65536 }) := rfl
  simp only [readQueue, hpeek, qSkip_empty hempty, streamFault_none, hmissed]
  split <;> rfl

end Sys2Proof.Proofs
end

section
/-! PROOFS. VPOP and VPUSH (04 R96, 05 R126 R128 R129). -/

namespace Sys2Proof.Proofs

open Sys2Proof Sys2Proof.Machine Sys2Proof.Claims Sys2Proof.Laws

/-! ## A cycle of a VPOP -/

/-- What a VPOP gives a lane from the entry that it read, or from a missing one. -/
def popValue (e : Option DEntry) (l : Nat) : TW :=
  match e with
  | some e => (BitVec.ofNat 32 (leNat ((e.data.drop (4 * (l % 16))).take 4)), e.poison)
  | none => (0, true)

/-- The tile that a cycle of a VPOP makes once its queue gave `e`. -/
def popped (p : Popping) (e : Option DEntry) (t : Tile) : Tile :=
  { popLanes p e t with pop := if p.i < 3 then some { p with i := p.i + 1 } else none }

theorem popLanes_eq (p : Popping) (e : Option DEntry) (t : Tile) : popLanes p e t =
    setVreg t p.vd (writeLanes (vreg t p.vd) (fun l =>
      if l / 16 ≠ p.i then none
      else if p.gov.val.testBit l then some ((popValue e l).1, (popValue e l).2 || p.gov.taint)
      else if p.zero then some (0, p.gov.taint)
      else if p.gov.taint then some (lane (vreg t p.vd) l, true) else none)) := by
  cases e <;> rfl

theorem popped_queue (p : Popping) (e : Option DEntry) (t : Tile) (q : Nat) : queueAt (popped p e t) q = queueAt t q := rfl

/-- The register of a VPOP after one of its cycles, in a tile whose queues alone differ from those before. -/
theorem popResult_popped (p : Popping) (e : Option DEntry) (t : Tile) (qs : SMap DQueue) :
    PopResult p (popValue e) t (popped p e { t with q := qs }) where
  lanes := fun l hl => by
    change lane (vreg (popLanes p e { t with q := qs }) p.vd) l = _
    rw [popLanes_eq, vreg_setVreg_same, lane_writeLanes _ _ hl]
    change (match (if l / 16 ≠ p.i then none else _ : Option TW) with
      | some w => w.1
      | none => lane (vreg t p.vd) l) = _
    split_ifs <;> rfl
  poison := fun k hk => by
    change (vreg (popLanes p e { t with q := qs }) p.vd).poison.getD k false = true ↔ _
    rw [popLanes_eq, vreg_setVreg_same, poison_writeLanes _ _ hk]
    refine exists_congr fun l => and_congr_right fun _ => and_congr_right fun hlk => ?_
    subst hlk
    by_cases hi : l / 16 = p.i
    · rw [if_neg (not_not_intro hi), if_pos hi]
      change (match (if p.gov.val.testBit l then _ else if p.zero then _ else _ : Option TW) with
        | some w => w.2 = true
        | none => (vreg t p.vd).poison.getD (l / 16) false = true) ↔ _
      by_cases hlane : p.gov.val.testBit l = true
      · simp [hlane, or_comm]
      · cases hzero : p.zero <;> cases htaint : p.gov.taint <;> simp [hlane]
    · rw [if_pos hi, if_neg hi]
      rfl
  others := fun r hr => by
    change vreg (popLanes p e { t with q := qs }) r = _
    rw [popLanes_eq, vreg_setVreg_ne _ _ hr]
    rfl
  after := rfl
  rest := rfl

/-- A cycle of a VPOP reads its queue and makes its lanes of what that gives. -/
theorem popCycle_popping {c : Chip} {site : Nat} {p : Popping} (h : (tileAt c site).pop = some p) : popCycle c site =
    modTile (readQueue (tileAt c site).stalled c site p.q).1 site
      (popped p (readQueue (tileAt c site).stalled c site p.q).2) := by
  simp only [popCycle, h]
  rfl

section
variable {c : Chip} {site : Nat} {p : Popping} (hpop : (tileAt c site).pop = some p)
include hpop

/-- 05 R126 R128: a VPOP takes the entry at the head of its queue. -/
theorem popCycle_head {e : DEntry} {rest : List DEntry} (hentries : (queueAt (tileAt c site) p.q).entries = e :: rest)
    (htag : e.tag = (queueAt (tileAt c site) p.q).pop) (hwrote : e.wrote + 2 ≤ c.plan.cyc) :
    OneTile c (popCycle c site) site (popped p (some e) (setQueue (tileAt c site) p.q
      { queueAt (tileAt c site) p.q with entries := rest, pop := ((queueAt (tileAt c site) p.q).pop + 1) % 65536 })) := by
  rw [popCycle_popping hpop, readQueue_head _ hentries htag hwrote]
  have htake := OneTile.modTile c site fun t => setQueue t p.q
    { queueAt (tileAt c site) p.q with entries := rest, pop := ((queueAt (tileAt c site) p.q).pop + 1) % 65536 }
  have hlanes := htake.trans (OneTile.modTile _ site (popped p (some e)))
  rwa [htake.here] at hlanes

/-- 05 R129 R147: a VPOP that meets an empty queue passes the missing entry. -/
theorem popCycle_empty_tile (hempty : (queueAt (tileAt c site) p.q).entries = []) : tileAt (popCycle c site) site =
    popped p none (missed (tileAt c site).stalled p.q (tileAt c site)) := by
  rw [popCycle_popping hpop, readQueue_empty _ hempty]
  simp

theorem popCycle_empty_counts (hempty : (queueAt (tileAt c site) p.q).entries = []) :
    Counts c (popCycle c site) (key 0x3050 2) (if p.q ∈ (tileAt c site).stalled then 0 else 1) [] := by
  rw [popCycle_popping hpop, readQueue_empty _ hempty]
  simp only [List.contains_iff_mem]
  exact counts_streamFault (modTile c site (missed (tileAt c site).stalled p.q)) ..

end

theorem missed_fresh {l : List Nat} {q : Nat} (h : q ∉ l) (t : Tile) :
    missed l q t = setQueue t q { queueAt t q with pop := ((queueAt t q).pop + 1) % 65536 } := by
  simp [missed, h]

theorem missed_known {l : List Nat} {q : Nat} (h : q ∈ l) (t : Tile) : missed l q t =
    setQueue { t with stalled := t.stalled.erase q } q { queueAt t q with pop := ((queueAt t q).pop + 1) % 65536 } := by
  simp [missed, h]

/-! ## VPUSH -/

/-- What leaves from a tile that issues a VPUSH. -/
def pushes (now site q : Nat) (t : Tile) (g : Gov) (v : Fin 64) : List Flying :=
  (List.range 4).map (fun k => ⟨now + 1 + k, .entry site q (pushedEntry t g v k).1 (pushedEntry t g v k).2⟩)

/-- What leaves stands behind all that is in the air. -/
def sending (c : Chip) (l : List Flying) : Chip := { c with flying := c.flying ++ l }

theorem sending_sending (c : Chip) (l m : List Flying) : sending (sending c l) m = sending c (l ++ m) := by
  simp only [sending, List.append_assoc]

theorem launch_eq_sending (c : Chip) (cycle : Nat) (x : Landing) : launch c cycle x = sending c [⟨cycle, x⟩] := rfl

theorem foldl_launch (cycle : Nat → Nat) (x : Nat → Landing) (l : List Nat) (c : Chip) :
    l.foldl (fun c k => launch c (cycle k) (x k)) c = sending c (l.map fun k => ⟨cycle k, x k⟩) := by
  induction l generalizing c with
  | nil => simp [sending]
  | cons k rest ih => rw [List.foldl_cons, ih, launch_eq_sending, sending_sending, List.map_cons, List.singleton_append]

/-- A VPUSH in a tile that keeps pace sends its register in the next four cycles. -/
theorem tVpush_current {c : Chip} {site : Nat} (hlag : (tileAt c site).lag = 0) (g : Gov) (v : Fin 64) (q : Nat) :
    tVpush g v.val q c site = sending c (pushes c.plan.cyc site q (tileAt c site) g v) := by
  have hfirst : max (c.plan.cyc + 1) (if (tileAt c site).lag = 0 then 0 else pushFrom c site q) = c.plan.cyc + 1 := by
    rw [if_pos hlag, Nat.max_zero]
  unfold tVpush
  simp only [hfirst]
  exact foldl_launch ..

/-- A VPUSH that reaches tiles that keep pace sends the register of each. -/
theorem foldl_arrive_vpush {i : Issue} {g : Gov} {v : Fin 64} {q : Fin 8} (l : List Nat) (c : Chip) (hsound : c.flaws = [])
    (hcalm : c.err.inj = none) (hready : ∀ site ∈ l, Ready c site) : l.foldl (arrive (.vpush i g v q)) c =
      sending c (l.flatMap fun site => pushes c.plan.cyc site q.val (tileAt c site) g v) := by
  induction l generalizing c with
  | nil => simp [sending]
  | cons site rest ih =>
    obtain ⟨hlag, hthawed⟩ := hready site (List.mem_cons_self ..)
    have hexec : tileExec (.vpush i g v q) c site = sending c (pushes c.plan.cyc site q.val (tileAt c site) g v) :=
      tVpush_current hlag g v q.val
    rw [List.foldl_cons, arrive_ready hlag hthawed, tileIssue_calm hsound (by rw [hexec]; exact hsound)
      (by rw [hexec]; exact hcalm), hexec, ih (sending c _) hsound hcalm fun y hy =>
        (ready_congr (c := c) (d := sending c _) rfl rfl rfl).mpr (hready y (List.mem_cons_of_mem _ hy)), sending_sending, List.flatMap_cons]
    rfl

/-- 04 R96, log 16: VPUSH. -/
theorem vpush_answers {i : Issue} {g : Gov} {v : Fin 64} {q : Fin 8} {s : State} (hissues : Issues s i true (.vpush i g v q))
    (hready : AllReady s i) : exec (.vpush i g v q) s = .next { s with
      chip := sending (noteIssue s.chip i true (.vpush i g v q)) ((issueSites s.chip i).flatMap fun site =>
        pushes s.chip.plan.cyc site q.val (tileAt s.chip site) g v) } := by
  have hexec : exec (.vpush i g v q) s = issueX s i (.vpush i g v q) := rfl
  have hnoted : ∀ site ∈ issueSites s.chip i, Ready (noteIssue s.chip i true (.vpush i g v q)) site := fun site hsite =>
    (ready_congr (c := s.chip) (d := noteIssue s.chip i true _) rfl rfl rfl).mpr (hready site hsite)
  rw [hexec, issueX_now hissues, foldl_arrive_vpush _ (noteIssue s.chip i true _) hissues.quiet.sound hissues.calm hnoted,
    flush_none (c := sending (noteIssue s.chip i true _) _) hissues.quiet.none]
  rfl

/-- Settles O12: VPOP and VPUSH at their issue, and a cycle of a VPOP by what its queue gives. -/
theorem queueAccess : Obligations.QueueAccess := by
  refine ⟨fun i g v q => ⟨completes_of_tile _ (fun _ => rfl) (fun _ _ => rfl) (fun _ _ => rfl),
    fun s hissues hready _ => ⟨_, vpush_answers hissues hready, rfl⟩⟩, fun c site p hpop _ => ⟨fun e rest hentries htag hwrote => ?_,
    fun hempty => ⟨fun hfresh => ?_, fun hknown => ?_, ?_, popCycle_empty_counts hpop hempty⟩⟩⟩
  · have hone := popCycle_head hpop hentries htag hwrote
    refine ⟨hone.rest, hone.others, ?_, ?_, fun r hr => ?_⟩
    · rw [hone.here]
      exact popResult_popped p (some e) (tileAt c site) _
    · rw [hone.here, popped_queue, queueAt_setQueue_same]
    · rw [hone.here, popped_queue, queueAt_setQueue_ne _ _ hr]
  · rw [popCycle_empty_tile hpop hempty, missed_fresh hfresh]
    exact popResult_popped p none (tileAt c site) _
  · rw [popCycle_empty_tile hpop hempty, missed_known hknown]
    exact ⟨popResult_popped p none (tileAt c site) _, rfl⟩
  · rw [popCycle_empty_tile hpop hempty, popped_queue, missed, queueAt_setQueue_same]

end Sys2Proof.Proofs
end

section
/-! PROOFS. Instructions of the access stream begin with any lead and any lines (05 R130 R131 R133), and lines leave the tile
store or are written to it. -/

namespace Sys2Proof.Proofs

open Sys2Proof Sys2Proof.Machine Sys2Proof.Claims Sys2Proof.Laws

/-! ## The begin of an access instruction -/

/-- An access instruction has begun, as `Begins` says of it. -/
def Begun (s : State) (i : Issue) (x : Instr) (n lead : Nat) (tile : Nat → ActTile) (t : State) : Prop :=
  ∃ us b, t = { s with chip := { s.chip with
      seqs := (noteIssue s.chip i false x).seqs,
      acts := s.chip.acts ++ [⟨i.die.val, x, s.chip.plan.cyc, s.chip.plan.step, 0, 0, n, b, lead, us⟩] } } ∧
    us.Perm ((issueSites s.chip i).map tile) ∧ us.Pairwise (fun u v => u.ti ≤ v.ti) ∧ ∀ u ∈ us, (b : Int) = u.line % 16

/-- An access instruction that issues begins with its act, where that has lines and no parts: in every tile of the act the
first line is the value of one operand. -/
theorem begun_of_act {s : State} {i : Issue} {x : Instr} {n lead : Nat} {line : LineAddr} {tile : Nat → ActTile}
    (hexec : exec x s = issueA s i x) (hissues : Issues s i false x)
    (hact : actOf (noteIssue s.chip i false x) x =
      some (newAct (noteIssue s.chip i false x) i x n lead line ((orderedSites s.chip i).map tile)))
    (hparts : ∀ c a, tierParts c x a = [a]) (hok : line.ok = true) (hti : ∀ site, (tile site).ti = (tileAt s.chip site).ti)
    (hfirst : ∀ site, (tile site).line = operand s.chip i site line) (hn : 0 < n) :
    Answers x s (Begun s i x n lead tile) := by
  have hstride : line.sT % 16 = 0 := by simpa [LineAddr.ok] using hok
  have hbegin : beginAct x (noteIssue s.chip i false x) = { noteIssue s.chip i false x with
      acts := s.chip.acts ++ [newAct (noteIssue s.chip i false x) i x n lead line ((orderedSites s.chip i).map tile)] } := by
    rw [beginAct, hact]
    simp only [hparts]
    exact if_neg (Nat.ne_of_gt hn)
  have hpend : (beginAct x (noteIssue s.chip i false x)).err.pend = [] := by
    rw [hbegin]
    exact hissues.quiet.none
  refine ⟨_, hexec.trans (issueA_now hissues), (orderedSites s.chip i).map tile,
    firstBank (noteIssue s.chip i false x) i line, ?_, (sortBy_perm _ _).map _, ?_, fun u hu => ?_⟩
  · rw [flush_none hpend, hbegin]
    rfl
  · rw [List.pairwise_map]
    simp only [hti]
    exact orderedSites_pairwise s.chip i
  · obtain ⟨site, -, rfl⟩ := List.mem_map.mp hu
    rw [hfirst]
    exact firstBank_eq s i x hstride site

/-- The same for an instruction with a number of lines and a lead of its own. -/
theorem begins_of_act {x : Instr} {i : Issue} {n lead : Nat} {line : LineAddr} {tile : State → Nat → ActTile}
    (hexec : ∀ s, exec x s = issueA s i x) (hact : ∀ s : State, actOf (noteIssue s.chip i false x) x =
      some (newAct (noteIssue s.chip i false x) i x n lead line ((orderedSites s.chip i).map (tile s))))
    (hparts : ∀ c a, tierParts c x a = [a]) (hok : x.wf = true → line.ok = true)
    (hti : ∀ s site, (tile s site).ti = (tileAt s.chip site).ti)
    (hfirst : ∀ s site, (tile s site).line = operand s.chip i site line) :
    Begins x i (fun _ => n) (fun _ => lead) tile := fun s hissues hwf hn =>
  begun_of_act (hexec s) hissues (hact s) hparts (hok hwf) (hti s) (hfirst s) hn

/-! ## Lines of the tile store -/

theorem writeGran_slice (c : Chip) (a : Nat) (d : List Byte) (p : Bool) : writeGran c a (slice d 0 64) p = writeGran c a d p := by
  rw [writeGran, writeGran, storeGran, storeGran, Tests.slice_exact (length_slice ..)]

/-- A granule takes the first 64 bytes of what is written, zeros where there are fewer. -/
theorem storesLine_slice {c : Chip} (hcalm : Calm c) {a : Nat} (ha : a % 64 = 0) (d : List Byte) (bad : Bool) :
    StoresLine c (writeGran c a d bad) a (slice d 0 64) bad := by
  have hstore := storesLine_writeGran hcalm ha (length_slice d 0 64) bad
  rwa [writeGran_slice] at hstore

/-- A line within the tile store is written. -/
theorem storesLine_writeLine {c : Chip} (hcalm : Calm c) (site : Nat) {x : Int} (hlow : 0 ≤ x) (hhigh : x < 49152)
    (d : List Byte) (bad : Bool) : StoresLine c (writeLine c site x d bad) (lineAddr site x.toNat) (slice d 0 64) bad := by
  rw [writeLine_within c site hlow hhigh]
  exact storesLine_slice hcalm (lineAddr_whole ..) d bad

/-- The line held first for a tile is written, and the others stay. -/
theorem moves_writeHeld {x : Instr} {k : Nat} {c : Chip} {u : ActTile} {e : List Byte × Bool} {l : List (List Byte × Bool)}
    (hmove : moveLine x k c u = writeHeld c u k) (hcalm : Calm c) (hheld : u.held = e :: l) (hlow : 0 ≤ u.line + k)
    (hhigh : u.line + k < 49152) : Moves x k c u (fun d v => v = { u with held := l } ∧
      StoresLine c d (lineAddr u.site (u.line + k).toNat) (slice e.1 0 64) e.2) := by
  have hwrite : writeHeld c u k = (writeLine c u.site (u.line + k) (slice e.1 0 64) e.2, { u with held := l }) := by
    simp [writeHeld, hheld]
  unfold Moves
  rw [hmove, hwrite]
  refine ⟨rfl, ?_⟩
  have hstore := storesLine_writeLine hcalm u.site hlow hhigh (slice e.1 0 64) e.2
  rwa [Tests.slice_exact (length_slice ..)] at hstore

/-! ## Loads of queues (05 R126 R128 R130 R131) -/

section
variable (i : Issue) (q : Fin 8) (src : LineAddr) (n : Nat)

theorem begins_tql : Begins (.tql i q src n) i (fun _ => n) (fun _ => 1) (actAt i src nowhere) :=
  begins_of_lines (fun _ => rfl) (fun _ => rfl) (fun _ _ => rfl) fun hwf => by
    simp only [Instr.wf, Bool.and_eq_true] at hwf
    exact hwf.1.2

theorem begins_tqp : Begins (.tqp i q src n) i (fun _ => n) (fun _ => 1) (actAt i src nowhere) :=
  begins_of_lines (fun _ => rfl) (fun _ => rfl) (fun _ _ => rfl) fun hwf => by
    simp only [Instr.wf, Bool.and_eq_true] at hwf
    exact hwf.1.2

theorem begins_qts : Begins (.qts i src q n) i (fun _ => n) (fun _ => 1) (actAt i src nowhere) :=
  begins_of_lines (fun _ => rfl) (fun _ => rfl) (fun _ _ => rfl) fun hwf => by
    simp only [Instr.wf, Bool.and_eq_true] at hwf
    exact hwf.1.2

/-- BPQ begins with its entry in hand (05 R130). -/
theorem begins_bpq (j : Fin 4) : Begins (.bpq i q j) i (fun _ => 1) (fun _ => 1) (fun s site =>
    { actAt i nowhere nowhere s site with held := [(bpEntry s.chip j.val, false)] }) :=
  begins_of_act (line := nowhere) (fun _ => rfl)
    (fun s => by simp only [actOf, ← actTile_note s i (.bpq i q j)]; rfl) (fun _ _ => rfl) (fun _ => rfl) (fun _ _ => rfl)
    (fun _ _ => rfl)

end

/-- Settles O16: each begins with the act of its lines or of its one entry, and an entry leaves as it was read. -/
theorem queueLoads : Obligations.QueueLoads := by
  refine ⟨entryLands, fun i q qp j src n => ⟨begins_tql i q src n, begins_tqp i qp src n, begins_bpq i q j,
    fun c u k hcalm => ⟨fun hline => ⟨?_, ?_⟩, fun e l hheld => ?_⟩⟩⟩
  · simp only [Moves, moveLine, readLine_clean hcalm hline]
    exact ⟨trivial, rfl⟩
  · simp only [Moves, moveLine, readLine_clean hcalm hline]
    exact ⟨trivial, rfl⟩
  · simp only [Moves, moveLine, hheld]
    exact ⟨trivial, rfl⟩

/-! ## Stores of queues (05 R129 R131) -/

/-- The line that QTS makes of what its queue gives; a missing entry is 64 zero bytes, poisoned (05 R129). -/
def storedEntry (e : Option DEntry) : List Byte × Bool :=
  match e with
  | some e => (slice e.data 0 64, e.poison)
  | none => (zeroLine, true)

/-- QTS reads its queue in a cycle in which an entry of it is due. -/
theorem queueStage_qts {a : Act} {i : Issue} {dst : LineAddr} {q : Fin 8} {n : Nat} (hx : a.x = .qts i dst q n) (c : Chip)
    (u : ActTile) : queueStage a c u =
      if a.k + u.held.length < a.n ∧ a.s + (a.k + u.held.length) + a.slip ≤ c.plan.cyc then
        ((readFrom c u.site q.val).1, { u with held := u.held ++ [storedEntry (readFrom c u.site q.val).2] })
      else (c, u) := by
  rw [queueStage, hx]
  rfl

section
variable {a : Act} {i : Issue} {dst : LineAddr} {q : Fin 8} {n : Nat} (hx : a.x = .qts i dst q n) {c : Chip} {u : ActTile}
include hx

theorem queueStage_waits (h : a.n ≤ a.k + u.held.length ∨ c.plan.cyc < a.s + (a.k + u.held.length) + a.slip) :
    queueStage a c u = (c, u) := by
  rw [queueStage_qts hx, if_neg (by omega)]

variable (hn : a.k + u.held.length < a.n) (hdue : a.s + (a.k + u.held.length) + a.slip ≤ c.plan.cyc)
include hn hdue

theorem queueStage_head {e : DEntry} {rest : List DEntry} (hentries : (queueAt (tileAt c u.site) q.val).entries = e :: rest)
    (htag : e.tag = (queueAt (tileAt c u.site) q.val).pop) (hwrote : e.wrote + 2 ≤ c.plan.cyc) : queueStage a c u =
      (modTile c u.site (fun t => setQueue t q.val { queueAt (tileAt c u.site) q.val with
        entries := rest, pop := ((queueAt (tileAt c u.site) q.val).pop + 1) % 65536 }),
      { u with held := u.held ++ [(slice e.data 0 64, e.poison)] }) := by
  rw [queueStage_qts hx, if_pos ⟨hn, hdue⟩, readFrom, readQueue_head _ hentries htag hwrote]
  rfl

theorem queueStage_empty (hempty : (queueAt (tileAt c u.site) q.val).entries = []) : queueStage a c u =
    (streamFault (modTile c u.site (missed [] q.val)) 2 u.site 1,
      { u with held := u.held ++ [(List.replicate 64 0, true)] }) := by
  rw [queueStage_qts hx, if_pos ⟨hn, hdue⟩, readFrom, readQueue_empty _ hempty]
  rfl

end

/-- Settles O17: an entry is read where one is due, by what stands in the queue, and the line held first is written. -/
theorem queueStores : Obligations.QueueStores := by
  refine fun i q dst n => ⟨begins_qts i q dst n, fun a c u hx => ⟨queueStage_waits hx, fun hn hdue =>
    ⟨fun e rest hentries htag hwrote => ?_, fun hempty => ?_⟩⟩,
    fun c u k e l hcalm hheld hlow hhigh => moves_writeHeld rfl hcalm hheld hlow hhigh⟩
  · rw [queueStage_head hx hn hdue hentries htag hwrote]
    exact ⟨rfl, rfl, by rw [tileAt_modTile_same, queueAt_setQueue_same]⟩
  · rw [queueStage_empty hx hn hdue hempty]
    refine ⟨rfl, (counts_streamFault ..).1, ?_⟩
    rw [streamFault_tileAt, tileAt_modTile_same, missed, queueAt_setQueue_same]

end Sys2Proof.Proofs
end

section
/-! PROOFS. Lines that move between tiles (05 R131 R132 R134 R147). -/

namespace Sys2Proof.Proofs

open Sys2Proof Sys2Proof.Machine Sys2Proof.Claims Sys2Proof.Laws

/-! ## Lines between tiles -/

theorem begins_mvt (i : Issue) (tr : TileRef) (dst src : LineAddr) (n : Nat) :
    Begins (.mvt i tr dst src n) i (fun _ => n) (fun _ => 1) (fun s site =>
      { actAt i src nowhere s site with other := tileNum s.chip (tileAt s.chip site) tr }) :=
  begins_of_act (line := src) (fun _ => rfl)
    (fun s => by simp only [actOf, ← actTile_note s i (.mvt i tr dst src n)]; rfl) (fun _ _ => rfl)
    (fun hwf => by
      simp only [Instr.wf, Bool.and_eq_true] at hwf
      exact hwf.1.2)
    (fun _ _ => rfl) (fun _ _ => rfl)

theorem begins_mrx (i : Issue) (tr : TileRef) (dst : LineAddr) (n : Nat) :
    Begins (.mrx i tr dst n) i (fun _ => n) (fun _ => 0) (fun s site =>
      { actAt i dst nowhere s site with other := tileNum s.chip (tileAt s.chip site) tr }) :=
  begins_of_act (line := dst) (fun _ => rfl)
    (fun s => by simp only [actOf, ← actTile_note s i (.mrx i tr dst n)]; rfl) (fun _ _ => rfl)
    (fun hwf => by
      simp only [Instr.wf, Bool.and_eq_true] at hwf
      exact hwf.1.2)
    (fun _ _ => rfl) (fun _ _ => rfl)

/-- A line leaves for the stop of the tile named, 15 cycles away, or 39 on another die (05 R131 R132). -/
theorem sendLine_clean {c : Chip} {u : ActTile} {k m to' : Nat} (hcalm : Calm c) (hother : u.other = m)
    (hsite : siteOf c m = some to') (hline : LineClean c u.site (u.line + k)) : sendLine c u k =
      launch c (c.plan.cyc + (if u.ti / planTpd c = m / planTpd c then 15 else 39))
        (.stop to' u.ti (lineBytes c u.site (u.line + k)) (lineBad c u.site (u.line + k))) := by
  have hm : u.other.toNat = m := by rw [hother, Int.toNat_natCast]
  rw [sendLine, readLine_clean hcalm hline, hm]
  simp only [hsite, farTiles, bne_iff_ne, ne_eq, ite_not]

/-- A line at the stop of a site, as the model and the statements find it. -/
theorem isArrival_iff (now site src : Nat) (f : Flying) : isArrival now site src f = true ↔ atStopFrom now site src f := by
  obtain ⟨cycle, what⟩ := f
  cases what <;> simp [isArrival, atStopFrom, and_assoc]

theorem isArrival_false {now site src : Nat} {f : Flying} (h : ¬atStopFrom now site src f) :
    ¬isArrival now site src f = true := (isArrival_iff ..).not.mpr h

section
variable {c : Chip} {u : ActTile} {m : Nat} (hother : u.other = m)
include hother

/-- The oldest line of the source that waits at the stop is received (05 R131). -/
theorem receiveLine_arrival {before after : List Flying} {f : Flying} {x : List Byte} {p : Bool} (k : Nat)
    (hflying : c.flying = before ++ f :: after) (hbefore : ∀ y ∈ before, ¬atStopFrom c.plan.cyc u.site m y)
    (hcycle : f.cycle ≤ c.plan.cyc) (hwhat : f.what = .stop u.site m x p) :
    receiveLine c u k = writeLine { c with flying := before ++ after } u.site (u.line + k) x p := by
  have hm : u.other.toNat = m := by rw [hother, Int.toNat_natCast]
  have hf : isArrival c.plan.cyc u.site m f = true := (isArrival_iff ..).mpr ⟨hcycle, x, p, hwhat⟩
  have hnone : ∀ y ∈ before, ¬isArrival c.plan.cyc u.site m y = true := fun y hy => isArrival_false (hbefore y hy)
  have hfind : c.flying.find? (isArrival c.plan.cyc u.site m) = some f := by
    rw [hflying, List.find?_append, List.find?_eq_none.mpr hnone, Option.none_or, List.find?_cons_of_pos hf]
  have herase : c.flying.eraseP (isArrival c.plan.cyc u.site m) = before ++ after := by
    rw [hflying, List.eraseP_append_right _ hnone, List.eraseP_cons_of_pos hf]
  have hdata : arrivalData f = (x, p) := by rw [arrivalData, hwhat]
  simp only [receiveLine, hm, hfind, herase, hdata]

/-- Where no line of the source waits there is none to receive (05 R134). -/
theorem receiveLine_none (k : Nat) (hnone : ∀ y ∈ c.flying, ¬atStopFrom c.plan.cyc u.site m y) :
    receiveLine c u k = writeLine (mismatch c u.site) u.site (u.line + k) zeroLine true := by
  have hm : u.other.toNat = m := by rw [hother, Int.toNat_natCast]
  have hfind : c.flying.find? (isArrival c.plan.cyc u.site m) = none :=
    List.find?_eq_none.mpr fun y hy => isArrival_false (hnone y hy)
  simp only [receiveLine, hm, hfind]

end

/-- A line stored leaves the counters of the step. -/
theorem acc_of_storesLine {c d : Chip} {a : Nat} {data : List Byte} {bad : Bool} (h : StoresLine c d a data bad) : d.acc = c.acc := by
  obtain ⟨-, -, -, -, -, hrest⟩ := h
  rw [hrest]

theorem calm_mismatch {c : Chip} (h : Calm c) (site : Nat) : Calm (mismatch c site) := by
  refine ⟨?_, ?_⟩
  · rw [mismatch, streamFault_frame]
    exact h.sound
  · exact (streamFault_inj ..).trans h.calm

/-- Settles O20: a line read is launched for its tile, and one that waits, or a missing one, is written. -/
theorem tileMoves : Obligations.TileMoves := by
  refine fun i tr dst src n => ⟨begins_mvt i tr dst src n, begins_mrx i tr dst n, fun c u k m to' hcalm hother =>
    ⟨fun hsite hline => ⟨rfl, sendLine_clean hcalm hother hsite hline⟩, fun hlow hhigh =>
      ⟨fun before f after x p hflying hbefore hcycle hwhat => ⟨rfl, ?_⟩, fun hnone => ⟨rfl, ?_⟩⟩⟩⟩
  · change StoresLine _ (receiveLine c u k) _ _ _
    rw [receiveLine_arrival hother k hflying hbefore hcycle hwhat]
    exact storesLine_writeLine (c := { c with flying := before ++ after }) ⟨hcalm.sound, hcalm.calm⟩ _ hlow hhigh x p
  · change lineBytes (receiveLine c u k) _ _ = _ ∧ lineBad (receiveLine c u k) _ _ = _ ∧
      smGet 0 (receiveLine c u k).acc.counts _ = _
    rw [receiveLine_none hother k hnone]
    have hstore := storesLine_writeLine (calm_mismatch hcalm u.site) u.site hlow hhigh zeroLine true
    have hacc := acc_of_storesLine hstore
    obtain ⟨hbytes, hbad, -⟩ := hstore
    exact ⟨hbytes.trans (Tests.slice_exact List.length_replicate), hbad,
      by rw [hacc]; exact (counts_streamFault c 5 u.site 1).1⟩

end Sys2Proof.Proofs
end

section
/-! PROOFS. Coaches: carriages sent to a port and received from a yard (05 R131 R134, 11 R340 R346, 12 R372 R376 R377). -/

namespace Sys2Proof.Proofs

open Sys2Proof Sys2Proof.Machine Sys2Proof.Claims Sys2Proof.Laws

/-! ## The begin of CSND and CRCV -/

section
variable {s : State} {i : Issue} {coach row : Nat} {a : LineAddr} {r : CoachRow}

theorem begun_csnd (hrow : sendRow s.chip coach = some (row, r)) (hk : 0 < r.k) (hissues : Issues s i false (.csnd i coach a))
    (ha : a.ok = true) : Answers (.csnd i coach a) s (Begun s i (.csnd i coach a) (4 * r.k) 1
      (fun site => { actAt i a nowhere s site with other := s.chip.plan.step })) := by
  have hsize : coachSize (sendRow (noteIssue s.chip i false (.csnd i coach a)) coach) = r.k := by
    change coachSize (sendRow s.chip coach) = r.k
    rw [hrow, coachSize]
  refine begun_of_act (line := a) rfl hissues ?_ (fun _ _ => rfl) ha (fun _ => rfl) (fun _ => rfl) (by omega)
  simp only [actOf, hsize, ← actTile_note s i (.csnd i coach a)]
  rfl

theorem begun_crcv (hrow : recvRow s.chip coach = some (row, r)) (hk : 0 < r.k) (hissues : Issues s i false (.crcv i coach a))
    (ha : a.ok = true) : Answers (.crcv i coach a) s (Begun s i (.crcv i coach a) (4 * r.k) 40 (actAt i a nowhere s)) := by
  have hsize : coachSize (recvRow (noteIssue s.chip i false (.crcv i coach a)) coach) = r.k := by
    change coachSize (recvRow s.chip coach) = r.k
    rw [hrow, coachSize]
  refine begun_of_act (line := a) rfl hissues ?_ (fun _ _ => rfl) ha (fun _ => rfl) (fun _ => rfl) (by omega)
  rw [List.map_congr_left fun site _ => (actTile_note s i (.crcv i coach a) a nowhere site).symm]
  simp only [actOf, hsize]
  rfl

end

/-! ## A carriage sent (05 R131, 12 R372 R376) -/

/-- A carriage of four lines: their poison as bits, and their bytes. -/
theorem coachOf_lines (c : Chip) (sr : SlotRec) (step p k : Nat) (e₀ e₁ e₂ e₃ : List Byte × Bool) :
    coachOf c sr step p k [e₀, e₁, e₂, e₃] =
      ⟨absSlot c p (step + (if sr.next then 1 else 0)) (sr.first + k * sr.stride), sr.first + k * sr.stride,
        (step + (if sr.next then 1 else 0)) % 2,
        (if e₀.2 then 1 else 0) + (if e₁.2 then 2 else 0) + (if e₂.2 then 4 else 0) + (if e₃.2 then 8 else 0),
        slice e₀.1 0 64 ++ slice e₁.1 0 64 ++ slice e₂.1 0 64 ++ slice e₃.1 0 64⟩ := by
  have hbits : ([e₀, e₁, e₂, e₃].zipIdx).foldl (fun n (x, g) => if x.2 then n + 2 ^ g else n) 0 =
      (if e₀.2 then 1 else 0) + (if e₁.2 then 2 else 0) + (if e₂.2 then 4 else 0) + (if e₃.2 then 8 else 0) := by
    simp only [List.zipIdx_cons, List.zipIdx_nil, List.foldl_cons, List.foldl_nil]
    split_ifs <;> rfl
  rw [coachOf, hbits]
  simp

section
variable {c : Chip} {coach : Nat} {u : ActTile} {k : Nat} (hcalm : Calm c) (hline : LineClean c u.site (u.line + k))
include hcalm hline

/-- The first three lines of a carriage are held. -/
theorem sendCoach_holds (hk : k % 4 < 3) : sendCoach c coach u k =
    (c, { u with held := u.held ++ [(lineBytes c u.site (u.line + k), lineBad c u.site (u.line + k))] }) := by
  simp only [sendCoach, readLine_clean hcalm hline, hk, if_true]

/-- The fourth completes the carriage, which reaches the port of hop 1 39 cycles later. -/
theorem sendCoach_leaves {row p : Nat} {r : CoachRow} {sr : SlotRec} (hk : k % 4 = 3) (hrow : sendRow c coach = some (row, r))
    (hport : hopPort c row 1 = some p) (hslot : slotRec c row 1 = some sr) : sendCoach c coach u k =
      (launch c (c.plan.cyc + 39) (.coach p (coachOf c sr u.other.toNat p (k / 4)
        (u.held ++ [(lineBytes c u.site (u.line + k), lineBad c u.site (u.line + k))]))), { u with held := [] }) := by
  have hfourth : ¬k % 4 < 3 := by omega
  simp only [sendCoach, readLine_clean hcalm hline, hfourth, if_false, hrow, hport, hslot]

end

/-! ## A carriage received (05 R134, 11 R346, 12 R377) -/

theorem takePlace_sound {c : Chip} (h : c.flaws = []) (p place : Nat) :
    takePlace c p place = (c, smGet none (portAt c p).yard place) := by
  rw [takePlace, flawsOf_sound h, List.foldl_nil]

/-- A port after the place of a carriage was read: it is free, and noted as read. -/
def placeRead (place : Nat × Nat) (q : Port) : Port :=
  { q with yard := smSet none q.yard place.1 none, yardRead := nsInsert q.yardRead (2 * place.1 + place.2) }

/-- CRCV takes carriage k in cycle 4 k of its act (05 R131). -/
theorem yardStage_takes {act : Act} {c : Chip} {i : Issue} {coach row p k : Nat} {a : LineAddr} {r : CoachRow} {sr : SlotRec}
    (hcalm : Calm c) (hx : act.x = .crcv i coach a) (hcyc : c.plan.cyc = act.s + 4 * k) (hk : 4 * k < act.n)
    (hrow : recvRow c coach = some (row, r)) (hport : hopPort c row r.hops = some p)
    (hslot : slotRec c row r.hops = some sr) : yardStage act c =
      inTiles (carriageLines (smGet none (portAt c p).yard (yardPlace act.step sr k).1))
        (modPort c p (placeRead (yardPlace act.step sr k))) act.tiles := by
  have hquot : (c.plan.cyc - act.s) / 4 = k := by omega
  have hrem : (c.plan.cyc - act.s) % 4 = 0 := by omega
  rw [yardStage, hx]
  simp only [hquot, hrem, hk, and_self, if_true, hrow, hport, hslot, takePlace_sound hcalm.sound]
  rfl

/-- The four lines that a place of a yard gives: those of its carriage, or 64 zero bytes each, poisoned. -/
def placeLines (held : Option Held) : List (List Byte × Bool) :=
  (List.range 4).map (fun g =>
    match held with
    | some h => (slice h.payload (64 * g) 64, h.poison.testBit g)
    | none => (List.replicate 64 0, true))

theorem carriageLines_eq (held : Option Held) (c : Chip) (u : ActTile) : carriageLines held c u =
    (streamFault c 5 u.site (if held = none then 4 else 0), { u with held := u.held ++ placeLines held }) := by
  cases held <;> rfl

@[simp] theorem streamFault_portAt (c : Chip) (row site n y : Nat) : portAt (streamFault c row site n) y = portAt c y := by
  rw [streamFault_frame]
  rfl

@[simp] theorem streamFault_mem (c : Chip) (row site n : Nat) : (streamFault c row site n).mem = c.mem := by
  rw [streamFault_frame]

/-! ## A carriage reaches its port (11 R340) -/

theorem portOpen_of {c : Chip} {p : Nat} (h : p ≠ 31 ∨ reg c (key 0x5010 1) ≠ 0) : portOpen c p = true := by
  rw [portOpen, Bool.or_eq_true, bne_iff_ne, bne_iff_ne]
  exact h

/-- A carriage handed to an open port waits for its slot, or in the backlog. -/
theorem landOther_coach {c : Chip} {p : Nat} (hopen : p ≠ 31 ∨ reg c (key 0x5010 1) ≠ 0) (x : Coach) :
    landOther c (.coach p x) = modPort c p (fun q => if x.abs < q.slotNext then { q with backlog := q.backlog ++ [x] }
      else { q with atPort := q.atPort ++ [x] }) :=
  if_pos (portOpen_of hopen)

/-- Settles O21: the begin of CSND and CRCV, a carriage sent line by line, one taken from its place, and one at its port. -/
theorem coaches : Obligations.Coaches := by
  refine fun i coach a row p r sr => ⟨fun s hrow hk hissues _ ha => ?_, fun s hrow hk hissues _ ha => ?_,
    fun c u k step hcalm hline hstep => ⟨fun hk => ?_, fun hk hrow hport hslot e₀ e₁ e₂ hheld => ?_⟩,
    fun act c k hcalm hx hcyc hk hrow hport hslot u htiles => ?_,
    fun c u k e l hcalm hheld hlow hhigh => moves_writeHeld rfl hcalm hheld hlow hhigh,
    fun c x hopen => ⟨fun y hy => ?_, ?_⟩⟩
  · obtain ⟨t, hnext, us, b, ht, hperm, -, hbank⟩ := begun_csnd hrow hk hissues ha
    exact ⟨t, hnext, us, b, ht, hperm, hbank⟩
  · obtain ⟨t, hnext, us, b, ht, hperm, -, hbank⟩ := begun_crcv hrow hk hissues ha
    exact ⟨t, hnext, us, b, ht, hperm, hbank⟩
  · have hmove : moveLine (.csnd i coach a) k c u = sendCoach c coach u k := rfl
    rw [Moves, hmove, sendCoach_holds hcalm hline hk]
    exact ⟨rfl, rfl⟩
  · have hmove : moveLine (.csnd i coach a) k c u = sendCoach c coach u k := rfl
    have hnat : u.other.toNat = step := by rw [hstep, Int.toNat_natCast]
    rw [Moves, hmove, sendCoach_leaves hcalm hline hk hrow hport hslot, hheld, hnat]
    simp only [List.cons_append, List.nil_append, coachOf_lines, Tests.slice_exact (length_memBytes c.mem 64 _), lineBytes]
    exact ⟨trivial, rfl⟩
  · dsimp only
    rw [yardStage_takes hcalm hx hcyc hk hrow hport hslot, htiles]
    simp only [inTiles, carriageLines_eq, streamFault_portAt, portAt_modPort_same, streamFault_mem]
    refine ⟨by simp only [placeRead, smGet_smSet_same], fun y hy => portAt_modPort_ne _ _ hy, rfl, ?_, ?_⟩
    · cases smGet none (portAt c p).yard (yardPlace act.step sr k).1 <;> rfl
    · exact (counts_streamFault (modPort c p _) 5 u.site _).1
  · rw [landOther_coach hopen, portAt_modPort_ne _ _ hy]
  · rw [landOther_coach hopen, portAt_modPort_same]

end Sys2Proof.Proofs
end

section
/-! PROOFS. The steward's exchange area, and the control instructions of the programs (05 R136 R139 R146, 16 R482 R486). -/

namespace Sys2Proof.Proofs

open Sys2Proof Sys2Proof.Machine Sys2Proof.Claims Sys2Proof.Laws

/-! ## Bytes of a sparse memory -/

/-- A byte after a run of bytes was written. -/
theorem smGet_putBytes (l : List Byte) (m : SMap Byte) (a x : Nat) : smGet 0 (putBytes m a l) x =
    if a ≤ x ∧ x < a + l.length then l.getD (x - a) 0 else smGet 0 m x := by
  induction l generalizing m a with
  | nil => simp [putBytes]
  | cons b rest ih =>
    rw [putBytes, ih, List.length_cons]
    by_cases hfirst : x = a
    · subst hfirst
      simp
    · rw [smGet_smSet_ne 0 m b hfirst]
      by_cases hin : a + 1 ≤ x ∧ x < a + 1 + rest.length
      · rw [if_pos hin, if_pos (by omega), show x - a = (x - (a + 1)) + 1 by omega, List.getD_cons_succ]
      · rw [if_neg hin, if_neg (by omega)]

/-- Bytes that stand one after the other are read as they stand. -/
theorem getBytes_eq (l : List Byte) (m : SMap Byte) (a : Nat) (h : ∀ k < l.length, smGet 0 m (a + k) = l.getD k 0) :
    getBytes m a l.length = l := by
  induction l generalizing a with
  | nil => rfl
  | cons b rest ih =>
    rw [List.length_cons, getBytes]
    refine congrArg₂ List.cons (by simpa using h 0 (by simp)) (ih (a + 1) fun k hk => ?_)
    have hnext := h (k + 1) (by simpa using hk)
    rwa [List.getD_cons_succ, show a + (k + 1) = a + 1 + k by omega] at hnext

theorem getBytes_putBytes_same (l : List Byte) (m : SMap Byte) (a : Nat) : getBytes (putBytes m a l) a l.length = l :=
  getBytes_eq l _ a fun k hk => by
    rw [smGet_putBytes, if_pos ⟨Nat.le_add_right .., by omega⟩, Nat.add_sub_cancel_left]

/-! ## The exchange area (05 R146, 16 R486) -/

/-- A steward whose exchange area took a line with its poison. -/
def withExchange (w : Steward) (l : Nat) (x : List Byte) (p : Bool) : Steward :=
  { w with exchange := putBytes w.exchange (64 * l) x, exPoison := nsPut w.exPoison l p }

/-- A line within the exchange area lands in it; beyond the stewards only errors that it covers change. -/
theorem landOther_exchange (c : Chip) (site : Nat) {l : Nat} {x : List Byte} (p : Bool) (hl : l < 1024) (hx : x.length = 64) :
    ∃ fs, landOther c (.exchange site l x p) =
      setStew { c with flaws := fs } (site / 48) (withExchange (stewAt c (site / 48)) l x p) := by
  have hin : inRange (l : Int) 1024 = some l := if_pos ⟨Int.natCast_nonneg l, by exact_mod_cast hl⟩
  have hland : landOther c (.exchange site l x p) = landExchange c site l x p := rfl
  refine ⟨(landOther c (.exchange site l x p)).flaws, ?_⟩
  rw [hland, landExchange, hin]
  simp only [Tests.slice_exact hx]
  rfl

/-! ## Control (05 R136 R139) -/

/-- A control instruction that issues changes the sequencer of its die alone. -/
theorem issueCtl_now {s : State} {i : Issue} {exe : Bool} {x : Instr} (hissues : Issues s i exe x) (f : Nat → Seq → Seq) :
    issueCtl s i exe x f = .next { s with
      chip := setSeq (noteIssue s.chip i exe x) i.die.val (f s.chip.plan.cyc (seqAt (noteIssue s.chip i exe x) i.die.val)) } := by
  rw [issueCtl_eq, issueWith_now _ hissues.wf hissues.quiet.runs hissues.may hissues.now hissues.due hissues.inStep
    hissues.quiet.sound, flush_none (c := setSeq (noteIssue s.chip i exe x) _ _) hissues.quiet.none]
  rfl

theorem seqAt_noteIssue_ne (c : Chip) (i : Issue) (exe : Bool) (x : Instr) {d : Nat} (hd : d ≠ i.die.val) :
    seqAt (noteIssue c i exe x) d = seqAt c d := seqAt_setSeq_ne c _ hd

theorem begins_swr (i : Issue) (off src : LineAddr) (n : Nat) :
    Begins (.swr i off src n) i (fun _ => n) (fun _ => 1) (actAt i src off) :=
  begins_of_lines (fun _ => rfl) (fun _ => rfl) (fun _ _ => rfl) fun hwf => by
    simp only [Instr.wf, Bool.and_eq_true] at hwf
    exact hwf.1.2

/-- What a control instruction leaves: of the state the sequencer of its die. -/
theorem answers_control {s : State} {i : Issue} {exe : Bool} {x : Instr} {f : Nat → Seq → Seq}
    (hexec : exec x s = issueCtl s i exe x f) (hissues : Issues s i exe x) :
    Answers x s (fun t => t = { s with chip := { s.chip with seqs := t.chip.seqs } } ∧
      (∀ d, d ≠ i.die.val → seqAt t.chip d = seqAt s.chip d) ∧
      seqAt t.chip i.die.val = f s.chip.plan.cyc (seqAt (noteIssue s.chip i exe x) i.die.val)) :=
  ⟨_, hexec.trans (issueCtl_now hissues f), rfl,
    fun _ hd => (seqAt_setSeq_ne _ _ hd).trans (seqAt_noteIssue_ne _ _ _ _ hd), seqAt_setSeq_same _ _ _⟩

/-- Settles O22: SWR by its lines and where they land, and the control instructions by the sequencer they leave. -/
theorem stewardAndControl : Obligations.StewardAndControl := by
  refine fun i off src n exe k => ⟨begins_swr i off src n, fun c u k hcalm hline => ?_, fun c site l x p hl hx => ?_,
    fun s y hy hissues _ => ?_⟩
  · simp only [Moves, moveLine, readLine_clean hcalm hline]
    exact ⟨trivial, rfl⟩
  · obtain ⟨fs, hland⟩ := landOther_exchange c site p hl hx
    dsimp only
    rw [hland, stewAt_setStew_same]
    refine ⟨?_, ?_, fun y hy => ?_, fun y hy => stewAt_setStew_ne _ _ hy, rfl, rfl⟩
    · have hget := getBytes_putBytes_same x (stewAt c (site / 48)).exchange (64 * l)
      rwa [hx] at hget
    · rw [withExchange, nsMem_nsPut, if_pos rfl]
    · rw [withExchange, smGet_putBytes, if_neg (by omega)]
  · rcases hy with rfl | rfl
    · obtain ⟨t, hnext, hrest, hothers, hseq⟩ := answers_control (f := doXbar exe k.val) rfl hissues
      exact ⟨t, hnext, hrest, hothers, nofun, fun _ => hseq⟩
    · obtain ⟨t, hnext, hrest, hothers, hseq⟩ := answers_control (f := fun _ => doEnds exe) rfl hissues
      exact ⟨t, hnext, hrest, hothers, fun _ => hseq, nofun⟩

end Sys2Proof.Proofs
end

section
/-! PROOFS. The variant post (05 R141 R142, 16 R490). -/

namespace Sys2Proof.Proofs

open Sys2Proof Sys2Proof.Machine Sys2Proof.Claims Sys2Proof.Laws

/-! ## Bytes of the mailbox (05 R141) -/

/-- One byte of a store to the mailbox. -/
def boxStep (o : Nat) (s : SMap Byte) (y : Byte × Nat) : SMap Byte :=
  if boxWrites (o + y.2) then smSet 0 s (o + y.2) y.1 else s

theorem smGet_foldl_boxStep (b : List Byte) (o n x : Nat) (s : SMap Byte) : smGet 0 ((b.zipIdx n).foldl (boxStep o) s) x =
    if (o + n ≤ x ∧ x < o + n + b.length) ∧ boxWrites x = true then b.getD (x - (o + n)) 0 else smGet 0 s x := by
  induction b generalizing n s with
  | nil => simp
  | cons y rest ih =>
    rw [List.zipIdx_cons, List.foldl_cons, ih, List.length_cons]
    by_cases hlater : (o + (n + 1) ≤ x ∧ x < o + (n + 1) + rest.length) ∧ boxWrites x = true
    · rw [if_pos hlater, if_pos ⟨by omega, hlater.2⟩, show x - (o + n) = x - (o + (n + 1)) + 1 by omega, List.getD_cons_succ]
    · rw [if_neg hlater, boxStep]
      by_cases hfirst : x = o + n
      · subst hfirst
        by_cases hwrites : boxWrites (o + n) = true <;> simp [hwrites]
      · have hkept : smGet 0 (if boxWrites (o + n) = true then smSet 0 s (o + n) y else s) x = smGet 0 s x := by
          split
          · exact smGet_smSet_ne _ _ _ hfirst
          · rfl
        rw [hkept, if_neg fun hin => hlater ⟨by omega, hin.2⟩]

/-- A byte of the mailbox after a store. -/
theorem smGet_putBox (m : Mailbox) (o : Nat) (b : List Byte) (x : Nat) : smGet 0 (putBox m o b).bytes x =
    if (o ≤ x ∧ x < o + b.length) ∧ boxWrites x = true then b.getD (x - o) 0 else smGet 0 m.bytes x :=
  smGet_foldl_boxStep b o 0 x m.bytes

/-- Words of one length, one after the other: a byte of one of them. -/
theorem getD_flatMap_leBytes (w : Nat) (f : Nat → Nat) (n : Nat) {i k : Nat} (hi : i < n) (hk : k < w) :
    ((List.range n).flatMap (fun i => leBytes w (f i))).getD (w * i + k) 0 = (leBytes w (f i)).getD k 0 := by
  induction n with
  | zero => omega
  | succ n ih =>
    have hlen : ((List.range n).flatMap (fun i => leBytes w (f i))).length = w * n := by
      simp [List.length_flatMap, Nat.mul_comm]
    rw [List.range_succ, List.flatMap_append]
    by_cases hlast : i = n
    · subst hlast
      rw [List.getD_append_right _ _ _ _ (by omega), hlen]
      simp
    · have hin : w * i + k < w * n := by
        calc w * i + k < w * (i + 1) := by rw [Nat.mul_succ]; omega
          _ ≤ w * n := Nat.mul_le_mul_left w (by omega)
      rw [List.getD_append _ _ _ _ (by omega)]
      exact ih (by omega)

/-! ## The record that a post leaves in the mailbox -/

/-- The parameters of a record as bytes. -/
def paramBytes (params : List Nat) : List Byte := (List.range 64).flatMap (fun i => leBytes 4 (params.getD i 0))

theorem length_paramBytes (params : List Nat) : (paramBytes params).length = 256 := by
  simp [paramBytes, List.length_flatMap]

/-- The mailbox once variant, parameters and target step are stored. -/
def recordBox (m : Mailbox) (target variant : Nat) (params : List Nat) : Mailbox :=
  putBox (putBox (putBox m 8 (leBytes 1 variant)) 0x10 (paramBytes params)) 0 (leBytes 8 target)

/-- Every byte of the mailbox after the stores of a post. -/
theorem smGet_recordBox (m : Mailbox) (target variant : Nat) (params : List Nat) (x : Nat) :
    smGet 0 (recordBox m target variant params).bytes x =
      if x < 8 then (leBytes 8 target).getD x 0
      else if x = 8 then BitVec.ofNat 8 variant
      else if 16 ≤ x ∧ x < 272 then (paramBytes params).getD (x - 16) 0
      else smGet 0 m.bytes x := by
  simp only [recordBox, smGet_putBox, length_leBytes, length_paramBytes, boxWrites, Bool.or_eq_true, Bool.and_eq_true,
    decide_eq_true_eq]
  by_cases htarget : x < 8
  · rw [if_pos (by omega), if_pos htarget, Nat.sub_zero]
  · rw [if_neg (by omega), if_neg htarget]
    by_cases hvariant : x = 8
    · rw [if_neg (by omega), if_pos (by omega), if_pos hvariant, hvariant]
      rfl
    · rw [if_neg hvariant]
      by_cases hparam : 16 ≤ x ∧ x < 272
      · rw [if_pos (by omega), if_pos hparam]
      · rw [if_neg (by omega), if_neg (by omega), if_neg hparam]

section
variable (m : Mailbox) (target : BitVec 64) (v : BitVec 8) (ps : List (BitVec 32))

/-- The parameters that a post names, 0 where it names none. -/
def recordParams : List Nat := (List.range 64).map (fun k => (ps.map BitVec.toNat).getD k 0)

theorem boxTarget_recordBox : boxTarget (recordBox m target.toNat v.toNat (ps.map BitVec.toNat)) = target.toNat := by
  have hget : getBytes (recordBox m target.toNat v.toNat (ps.map BitVec.toNat)).bytes 0 8 = leBytes 8 target.toNat := by
    have hbytes := getBytes_eq (leBytes 8 target.toNat) (recordBox m target.toNat v.toNat (ps.map BitVec.toNat)).bytes 0
      fun k hk => by
        rw [length_leBytes] at hk
        rw [smGet_recordBox, Nat.zero_add, if_pos hk]
    rwa [length_leBytes] at hbytes
  rw [boxTarget, hget]
  exact leNat_leBytes_of_lt target.isLt

theorem boxVariant_recordBox : boxVariant (recordBox m target.toNat v.toNat (ps.map BitVec.toNat)) = v.toNat := by
  rw [boxVariant, smGet_recordBox, if_neg (by omega), if_pos rfl, BitVec.ofNat_toNat, BitVec.setWidth_eq]

theorem param_lt (k : Nat) : (ps.map BitVec.toNat).getD k 0 < 256 ^ 4 := by
  rw [List.getD_eq_getElem?_getD, List.getElem?_map]
  cases ps[k]? with
  | none => decide
  | some p => exact p.isLt

theorem boxParams_recordBox : boxParams (recordBox m target.toNat v.toNat (ps.map BitVec.toNat)) = recordParams ps := by
  refine List.map_congr_left fun i hi => ?_
  have hi := List.mem_range.mp hi
  have hget : getBytes (recordBox m target.toNat v.toNat (ps.map BitVec.toNat)).bytes (0x10 + 4 * i) 4 =
      leBytes 4 ((ps.map BitVec.toNat).getD i 0) := by
    have hbytes := getBytes_eq (leBytes 4 ((ps.map BitVec.toNat).getD i 0))
      (recordBox m target.toNat v.toNat (ps.map BitVec.toNat)).bytes (0x10 + 4 * i) fun k hk => by
        rw [length_leBytes] at hk
        rw [smGet_recordBox, if_neg (by omega), if_neg (by omega), if_pos (by omega),
          show 0x10 + 4 * i + k - 16 = 4 * i + k by omega]
        exact getD_flatMap_leBytes 4 (fun i => (ps.map BitVec.toNat).getD i 0) 64 hi hk
    rwa [length_leBytes] at hbytes
  rw [hget]
  exact leNat_leBytes_of_lt (param_lt ps i)

end

/-! ## The post -/

/-- A chip with a mailbox. -/
def withBox (c : Chip) (m : Mailbox) : Chip := { c with plan := { c.plan with mailbox := m } }

theorem withBox_box (c : Chip) (m : Mailbox) : (withBox c m).plan.mailbox = m := rfl

theorem withBox_withBox (c : Chip) (m n : Mailbox) : withBox (withBox c m) n = withBox c n := rfl

/-- A store beyond byte 007h posts nothing. -/
theorem storeBox_beyond (c : Chip) {o : Nat} (h : 7 < o) (b : List Byte) :
    storeBox c o b = withBox c (putBox c.plan.mailbox o b) :=
  if_neg fun hpost => by omega

/-- A store of byte 007h posts the record. -/
theorem storeBox_posts (c : Chip) {o : Nat} {b : List Byte} (h : o ≤ 7 ∧ 7 < o + b.length) :
    storeBox c o b = postBox (withBox c (putBox c.plan.mailbox o b)) := if_pos h

/-- The stores of a running routine put the record into the mailbox, and the last of them posts it (16 R490). -/
theorem fVariantPost_running {c : Chip} (hstate : c.plan.state = .running) (hroutine : (stewAt c 0).routine = .running)
    (target variant : Nat) (params : List Nat) : fVariantPost target variant params c =
      postBox (withBox c (recordBox c.plan.mailbox target variant params)) := by
  have hrunning : isRunning c 0 = true := by rw [isRunning, hroutine]; rfl
  rw [fVariantPost, if_pos ⟨hstate, hrunning⟩, storeBox_beyond c (o := 8) (by decide),
    storeBox_beyond _ (o := 0x10) (by decide), storeBox_posts _ (o := 0) ⟨by decide, by rw [length_leBytes]; decide⟩, withBox_withBox, withBox_withBox,
    withBox_box, withBox_box]
  rfl

/-- What the post of a record makes of the chip, by its status (05 R142). -/
theorem postBox_status {c : Chip} {m : Mailbox} {st : Nat} (h : postStatus c (boxTarget m) (boxVariant m) = st) :
    postBox (withBox c m) = if st = 1 then
        { c with plan := { c.plan with mailbox := { m with status := st }, accepted := some (boxVariant m, boxParams m) } }
      else bump (withBox c { m with status := st }) (key 0x2012 3) 1 := by
  have hstatus : postStatus (withBox c m) (boxTarget m) (boxVariant m) = st := h
  have hpost : postBox (withBox c m) = if postStatus (withBox c m) (boxTarget m) (boxVariant m) = 1 then
        { c with plan := { c.plan with
            mailbox := { m with status := postStatus (withBox c m) (boxTarget m) (boxVariant m) }
            accepted := some (boxVariant m, boxParams m) } }
      else bump (withBox c { m with status := postStatus (withBox c m) (boxTarget m) (boxVariant m) }) (key 0x2012 3) 1 := rfl
  rw [hpost, hstatus]

/-- A record was posted with a status. -/
structure Posted (s : State) (target : BitVec 64) (v : BitVec 8) (ps : List (BitVec 32)) (st : Nat) (t : State) : Prop where
  target : boxTarget t.chip.plan.mailbox = target.toNat
  variant : boxVariant t.chip.plan.mailbox = v.toNat
  params : boxParams t.chip.plan.mailbox = recordParams ps
  status : t.chip.plan.mailbox.status = st
  others : ∀ o, 9 ≤ o ∧ o < 16 ∨ 272 ≤ o → smGet 0 t.chip.plan.mailbox.bytes o = smGet 0 s.chip.plan.mailbox.bytes o
  accepted : t.chip.plan.accepted = if st = 1 then some (v.toNat, recordParams ps) else s.chip.plan.accepted
  counted : smGet 0 t.chip.acc.counts (key 0x2012 3) =
    smGet 0 s.chip.acc.counts (key 0x2012 3) + if st = 1 then 0 else 1
  rest : t = { s with chip := { s.chip with
    acc := { s.chip.acc with counts := t.chip.acc.counts },
    plan := { s.chip.plan with mailbox := t.chip.plan.mailbox, accepted := t.chip.plan.accepted } } }

/-- A record that the running routine of die 0 posts is posted with the status that its check gives. -/
theorem variantPost_posted {s : State} {target : BitVec 64} {v : BitVec 8} {ps : List (BitVec 32)} {st : Nat} (hquiet : Quiet s)
    (hstate : s.chip.plan.state = .running) (hroutine : (stewAt s.chip 0).routine = .running)
    (hstatus : postStatus s.chip target.toNat v.toNat = st) :
    Answers (.variantPost target v ps) s (Posted s target v ps st) := by
  have hexec : exec (.variantPost target v ps) s = onRunning s (fVariantPost target.toNat v.toNat (ps.map BitVec.toNat)) := rfl
  have hpost := postBox_status (c := s.chip) (st := st)
    (m := recordBox s.chip.plan.mailbox target.toNat v.toNat (ps.map BitVec.toNat))
    (by rw [boxTarget_recordBox, boxVariant_recordBox]; exact hstatus)
  have htarget := boxTarget_recordBox s.chip.plan.mailbox target v ps
  have hvariant := boxVariant_recordBox s.chip.plan.mailbox target v ps
  have hparams := boxParams_recordBox s.chip.plan.mailbox target v ps
  have hothers : ∀ o, 9 ≤ o ∧ o < 16 ∨ 272 ≤ o →
      smGet 0 (recordBox s.chip.plan.mailbox target.toNat v.toNat (ps.map BitVec.toNat)).bytes o =
        smGet 0 s.chip.plan.mailbox.bytes o := fun o ho => by
    rw [smGet_recordBox, if_neg (by omega), if_neg (by omega), if_neg (by omega)]
  have hnext := hexec.trans (onRunning_running _ hquiet.runs)
  rw [fVariantPost_running hstate hroutine, hpost] at hnext
  by_cases haccepted : st = 1
  · rw [if_pos haccepted, flush_none (by exact hquiet.none)] at hnext
    refine ⟨_, hnext, htarget, hvariant, hparams, rfl, hothers, ?_, ?_, rfl⟩
    · rw [if_pos haccepted]
      exact congrArg some (Prod.ext hvariant hparams)
    · rw [if_pos haccepted]
      rfl
  · rw [if_neg haccepted, flush_none (by exact hquiet.none)] at hnext
    refine ⟨_, hnext, htarget, hvariant, hparams, rfl, hothers, ?_, ?_, rfl⟩
    · rw [if_neg haccepted]
      rfl
    · rw [if_neg haccepted]
      exact bump_count_same ..

/-! ## The status of a post (05 R142) -/

section
variable {c : Chip} {target variant : Nat}

theorem postStatus_wrong (h : target ≠ c.plan.step + 1) : postStatus c target variant = 4 := if_pos h

variable (htarget : target = c.plan.step + 1)
include htarget

theorem postStatus_late (h : ¬(c.plan.cut = false ∧ c.count < boundaryAt c - 256)) : postStatus c target variant = 2 := by
  have hlate : c.plan.cut = true ∨ cutoffAt c ≤ c.count := by
    by_contra hnot
    rw [not_or, Bool.not_eq_true, not_le] at hnot
    exact h hnot
  rw [postStatus, if_neg (not_not_intro htarget), if_pos hlate]

/-- Before the cut-off the variant decides. -/
theorem postStatus_inTime (h : c.plan.cut = false ∧ c.count < boundaryAt c - 256) :
    postStatus c target variant = if variantCount c ≤ variant then 3 else 1 := by
  have htime : ¬(c.plan.cut = true ∨ cutoffAt c ≤ c.count) := by
    rw [not_or, Bool.not_eq_true, not_le]
    exact h
  rw [postStatus, if_neg (not_not_intro htarget), if_neg htime]

end

/-- Settles O23: the record stands in the mailbox, and the check of its step, its time and its variant gives the status. -/
theorem variantPost : Obligations.VariantPost := by
  intro s target v ps im hquiet hstate himage hroutine record before posted post
  have hcount : variantCount s.chip = im.hdr.variants := by rw [variantCount, himage]
  have hposted : ∀ st, postStatus s.chip target.toNat v.toNat = st → Answers post s (posted st) := fun st hst => by
    obtain ⟨t, hnext, h⟩ := variantPost_posted (ps := ps) hquiet hstate hroutine hst
    exact ⟨t, hnext, ⟨h.target, h.variant, h.params, h.status, h.others⟩, h.accepted, h.counted, h.rest⟩
  refine ⟨fun htarget htime hheld => hposted 1 ?_, fun htarget hlate => hposted 2 (postStatus_late htarget hlate),
    fun htarget htime hheld => hposted 3 ?_, fun htarget => hposted 4 (postStatus_wrong htarget)⟩
  · rw [postStatus_inTime htarget htime, hcount, if_neg (Nat.not_le.mpr hheld)]
  · rw [postStatus_inTime htarget htime, hcount, if_pos hheld]

end Sys2Proof.Proofs
end

section
/-! PROOFS. Lines of plain regions and of weight views, and lines out of range (05 R130 R131 R147, 07 R195 R196 R198, 09 R281
R292). -/

namespace Sys2Proof.Proofs

open Sys2Proof Sys2Proof.Machine Sys2Proof.Claims Sys2Proof.Laws

/-! ## A line number within its bound (05 R130) -/

theorem inRange_some {x : Int} {n : Nat} (hlow : 0 ≤ x) (hhigh : x < n) : inRange x n = some x.toNat := if_pos ⟨hlow, hhigh⟩

theorem inRange_none {x : Int} {n : Nat} (h : x < 0 ∨ n ≤ x) : inRange x n = none := if_neg (by omega)

theorem inRange_natCast {l n : Nat} (h : l < n) : inRange (l : Int) n = some l := by
  rw [inRange_some (Int.natCast_nonneg l) (Int.ofNat_lt.mpr h), Int.toNat_natCast]

/-! ## Lines out of range (05 R130 R147) -/

/-- A line out of range is a fault: counted, and reported once for the tile and step. -/
structure LineFault (c d : Chip) (site : Nat) : Prop where
  counted : Counts c d (key 0x3050 6) 1 []
  reported : (6, site) ∈ d.acc.reported
  rest : d = { c with acc := { c.acc with counts := d.acc.counts, reported := d.acc.reported }, err := d.err }

theorem lineFault_fault (c : Chip) (site : Nat) : LineFault c (lineFault c site) site :=
  ⟨counts_streamFault .., streamFault_reported _ _ _ _ (by decide), streamFault_frame ..⟩

theorem readLine_out (c : Chip) (site : Nat) {x : Int} (h : x < 0 ∨ 49152 ≤ x) :
    readLine c site x = (lineFault c site, List.replicate 64 0, true) := by rw [readLine, inRange_none h]

theorem writeLine_out (c : Chip) (site : Nat) {x : Int} (h : x < 0 ∨ 49152 ≤ x) (d : List Byte) (p : Bool) :
    writeLine c site x d p = lineFault c site := by rw [writeLine, inRange_none h]

/-- A line beyond a region is none, in a plain region and in a pool while serving is disabled. -/
theorem lineAt_beyond {c : Chip} {m : Nat} {r : Region} (hregion : regionOf c m = some r)
    (hplain : r.tier ≠ 2 ∨ poolOf c r = none) {l : Int} (h : l < 0 ∨ (r.size / 64 : Nat) ≤ l) : lineAt c (.region m) l = .out := by
  have hnone : inRange l (r.size / 64) = none := inRange_none h
  have hline : lineAt c (.region m) l = regionLine c r l := by rw [lineAt, hregion]
  rw [hline, regionLine]
  by_cases htier : r.tier = 2
  · rw [if_pos htier, hplain.resolve_left (not_not_intro htier)]
    simp only [hnone]
  · rw [if_neg htier, hnone]

/-- 05 R130 R147: lines out of range. -/
theorem linesOut : LinesOut := by
  intro c site m l d bad late cmd fault
  have hfault : fault (lineFault c site) := by
    obtain ⟨hcounted, hreported, hrest⟩ := lineFault_fault c site
    exact ⟨hcounted, hreported, hrest⟩
  refine ⟨fun h => ?_, fun r hregion hplain h => lineAt_beyond hregion hplain h, rfl, hfault, hfault⟩
  rw [readLine_out c site h, writeLine_out c site h]
  exact ⟨rfl, hfault, hfault⟩

/-! ## Lines of weight views (09 R281 R292) -/

theorem copyLine_eq (c : Chip) (x : WCopy) (m : Nat) : copyLine c x m = copyAddr c x m := by
  simp only [copyLine, copyAddr, storeAddr, resQuarter, hbmAddr, mrdAddr, Nat.div_div_eq_div_mul]

/-- The line of a copy that a view's line names. -/
def viewPick (c : Chip) (e : Nat) (st : CopySt) (m : Nat) : LineAt :=
  match copyIn (wentry c e) st with
  | none => .absent
  | some x => if 64 * m < x.len then .at [copyAddr c x m] none else .out

theorem viewPick_none {c : Chip} {e : Nat} {st : CopySt} (m : Nat) (h : copyIn (wentry c e) st = none) :
    viewPick c e st m = .absent := by rw [viewPick, h]

theorem viewPick_some {c : Chip} {e : Nat} {st : CopySt} {x : WCopy} (m : Nat) (h : copyIn (wentry c e) st = some x) :
    viewPick c e st m = if 64 * m < x.len then .at [copyAddr c x m] none else .out := by rw [viewPick, h]

/-- Selector 0 names the Live copy. -/
theorem viewLine_live (c : Chip) (e : Nat) {l : Nat} (hl : l < 1073741824) : viewLine c e l = viewPick c e .live l := by
  have hin : inRange (l : Int) 4294967296 = some l := inRange_natCast (by omega)
  have hselector : l / 1073741824 = 0 := Nat.div_eq_of_lt hl
  rw [viewLine, hin]
  cases hcopy : copyIn (wentry c e) .live with
  | none => simp only [hselector, hcopy, viewPick_none _ hcopy]
  | some x => simp only [hselector, hcopy, viewPick_some _ hcopy, copyLine_eq, Nat.mod_eq_of_lt hl]

section
variable (c : Chip) (e : Nat) {l : Nat} (hlow : 1073741824 ≤ l) (hhigh : l < 2147483648)
include hlow hhigh

/-- Selector 1 names nothing where no Live copy stands. -/
theorem viewLine_noLive (hlive : copyIn (wentry c e) .live = none) : viewLine c e l = .absent := by
  have hin : inRange (l : Int) 4294967296 = some l := inRange_natCast (by omega)
  have hselector : l / 1073741824 = 1 := by omega
  rw [viewLine, hin]
  simp only [hselector, hlive, Option.isNone_none, if_true]

/-- Selector 1 names the Draining copy beside a Live one. -/
theorem viewLine_draining {x : WCopy} (hlive : copyIn (wentry c e) .live = some x) :
    viewLine c e l = viewPick c e .draining (l % 1073741824) := by
  have hin : inRange (l : Int) 4294967296 = some l := inRange_natCast (by omega)
  have hselector : l / 1073741824 = 1 := by omega
  rw [viewLine, hin]
  cases hcopy : copyIn (wentry c e) .draining with
  | none =>
    simp only [hselector, hlive, Option.isNone_some, Bool.false_eq_true, if_false, hcopy, viewPick_none _ hcopy]
  | some y =>
    simp only [hselector, hlive, Option.isNone_some, Bool.false_eq_true, if_false, hcopy, viewPick_some _ hcopy, copyLine_eq]

end

/-- A line beyond the two selectors is out of range. -/
theorem viewLine_beyond (c : Chip) (e : Nat) {l : Int} (h : l < 0 ∨ 2147483648 ≤ l) : viewLine c e l = .out := by
  by_cases hbound : 0 ≤ l ∧ l < 4294967296
  · obtain ⟨n, rfl⟩ := Int.eq_ofNat_of_zero_le hbound.1
    have hin : inRange (n : Int) 4294967296 = some n := inRange_natCast (by omega)
    obtain ⟨k, hselector⟩ : ∃ k, n / 1073741824 = k + 2 := ⟨n / 1073741824 - 2, by omega⟩
    rw [viewLine, hin]
    simp only [hselector]
  · rw [viewLine, inRange_none (by omega)]

/-- 09 R292: lines of weight views. -/
theorem viewLines : ViewLines := by
  intro c e site l late m live within
  refine ⟨fun h => viewLine_beyond c e h, fun hlow hhigh => ?_, rfl, rfl, ⟨bump_count_same .., fun j hj _ => ?_⟩, rfl⟩
  · obtain ⟨n, rfl⟩ := Int.eq_ofNat_of_zero_le hlow
    have hm : m = n % 1073741824 := by omega
    refine ⟨fun hnone => ?_, fun x hsome hfirst => ?_, fun x hsome hsecond => ?_⟩
    · change viewLine c e n = .absent
      by_cases hfirst : n < 1073741824
      · rw [viewLine_live c e hfirst, viewPick_none n hnone]
      · exact viewLine_noLive c e (by omega) (by omega) hnone
    · change viewLine c e n = within x
      rw [viewLine_live c e (by omega), viewPick_some n hsome, show n = m by omega]
    · change viewLine c e n = _
      rw [viewLine_draining c e (by omega) (by omega) hsome, ← hm]
      rfl
  · exact (smGet_bump ..).trans (if_neg hj)

end Sys2Proof.Proofs
end

section
/-! PROOFS. MLD and MST of plain regions: their begin, their memory points, and late lines (07 R195 R196 R198). -/

namespace Sys2Proof.Proofs

open Sys2Proof Sys2Proof.Machine Sys2Proof.Claims Sys2Proof.Laws

/-! ## The begin of MLD and MST -/

section
variable (i : Issue) (a off : LineAddr) (m n : Nat) (late : List Nat)

/-- An MLD of a region begins with the latency of its tier (07 R195). -/
theorem begun_mld {s : State} {r : Region} (hissues : Issues s i false (.mld i a (.region m) off n late))
    (hregion : regionOf s.chip m = some r) : Answers (.mld i a (.region m) off n late) s
      (Begun s i (.mld i a (.region m) off n late) n (latencyOf s.chip (decide (r.tier = 0))) (fun site =>
        { actAt i a off s site with
          target := (List.range n).map (fun k => (lineAt s.chip (.region m) (operand s.chip i site off + (k : Nat)), none)) })) := by
  have hwf := hissues.wf
  simp only [Instr.wf, countOk, Bool.and_eq_true, decide_eq_true_eq] at hwf
  obtain ⟨⟨⟨-, ha⟩, -⟩, hn, -⟩ := hwf
  have hlead : ∀ l, tierLatency (noteIssue s.chip i false (.mld i a (.region m) off n late))
      (inHbm (noteIssue s.chip i false (.mld i a (.region m) off n late)) (.region m) l) =
        latencyOf s.chip (decide (r.tier = 0)) := fun l => by
    have hhbm : inHbm (noteIssue s.chip i false (.mld i a (.region m) off n late)) (.region m) l = decide (r.tier = 0) := by
      have hnoted : regionOf (noteIssue s.chip i false (.mld i a (.region m) off n late)) m = some r := hregion
      rw [inHbm, hnoted]
      rfl
    rw [hhbm]
    rfl
  refine begun_of_act (line := a) rfl hissues ?_ (fun _ _ => rfl) ha (fun _ => rfl) (fun _ => rfl) hn
  simp only [actOf, hlead, actTile_note]
  rfl

theorem begins_mst : Begins (.mst i (.region m) off a n late) i (fun _ => n) (fun _ => 1) (fun s site =>
    { actAt i a off s site with
      target := (List.range n).map (fun k => (lineAt s.chip (.region m) (operand s.chip i site off + (k : Nat)),
        cmdLine s.chip (.region m) (operand s.chip i site off + (k : Nat)))) }) :=
  begins_of_act (line := a) (fun _ => rfl)
    (fun s => by simp only [actOf, actTile_note]; rfl) (fun _ _ => rfl)
    (fun hwf => by
      simp only [Instr.wf, Bool.and_eq_true] at hwf
      exact hwf.1.2)
    (fun _ _ => rfl) (fun _ _ => rfl)

end

/-- A line of a plain region lies where its binding puts it (06 R160, 07 R199). -/
theorem lineAt_plain {c : Chip} {m : Nat} {r : Region} {l : Int} (h : PlainLine c m r l) :
    lineAt c (.region m) l = .at [regionAddr c r l.toNat] none := by
  have hline : lineAt c (.region m) l = regionLine c r l := by rw [lineAt, h.region]
  rw [hline, regionLine, if_neg h.tier, inRange_some h.low h.high]

/-! ## Late lines (07 R198) -/

theorem lateLine_eq (c : Chip) (addr : Nat) (write : Bool) : lateLine c addr write =
    reportOnce (bump c (key 0x4032 (if write then 2 else 1)) 1) 10 (unitOf addr) 0x0306
      (if unitOf addr < 8 then .stack (unitOf addr) else .channel (unitOf addr - 8)) .cycle [if write then 1 else 0, 1] := rfl

/-- A late line changes the counters and reports of the step and the error log. -/
theorem lateLine_frame (c : Chip) (addr : Nat) (write : Bool) : lateLine c addr write =
    { c with acc := { c.acc with counts := (lateLine c addr write).acc.counts
                                 reported := (lateLine c addr write).acc.reported }
             err := (lateLine c addr write).err } := by
  rw [lateLine_eq, reportOnce_frame]
  rfl

theorem reportOnce_counts (c : Chip) (kind unit code : Nat) (loc : Loc) (w : When) (detail : List Nat) :
    (reportOnce c kind unit code loc w detail).acc.counts = c.acc.counts := by rw [reportOnce_frame]

theorem lateLine_counted (c : Chip) (addr : Nat) (write : Bool) :
    smGet 0 (lateLine c addr write).acc.counts (key 0x4032 (if write then 2 else 1)) =
      smGet 0 c.acc.counts (key 0x4032 (if write then 2 else 1)) + 1 := by
  rw [lateLine_eq, reportOnce_counts, bump_count_same]

theorem lateLine_mem (c : Chip) (addr : Nat) (write : Bool) : (lateLine c addr write).mem = c.mem := by rw [lateLine_frame]

theorem lateLine_late (c : Chip) (addr : Nat) (write : Bool) : (lateLine c addr write).late = c.late := by rw [lateLine_frame]

/-! ## The memory cycle of a line read (07 R195) -/

theorem memoryStage_mld {act : Act} {c : Chip} {i : Issue} {a off : LineAddr} {ref : RegionRef} {n k : Nat} {late : List Nat}
    (hx : act.x = .mld i a ref off n late) (hcyc : c.plan.cyc = act.s + 41 + k) (hk : k < act.n) (u : ActTile) :
    memoryStage act c u = ((loadLine c u.site (u.target.getD k (.out, none)).1 (late.contains k)).1,
      { u with held := u.held ++ [(loadLine c u.site (u.target.getD k (.out, none)).1 (late.contains k)).2] }) := by
  have hline : c.plan.cyc - (act.s + 41) = k := by omega
  rw [memoryStage, hx]
  simp only [hline]
  rw [if_pos ⟨by omega, hk⟩]

/-- A plain line without a stored error is read. -/
theorem loadLine_plain {c : Chip} {addr : Nat} (hcalm : Calm c) (hclean : smGet EccMark.none c.ecc (addr / 64) = EccMark.none)
    (site : Nat) : loadLine c site (.at [addr] none) false = (c, memBytes c.mem addr 64, granPoison c addr) :=
  readGran_clean .cycle false hclean hcalm.sound

theorem loadLine_plain_late (c : Chip) (site addr : Nat) :
    loadLine c site (.at [addr] none) true = (lateLine c addr false, List.replicate 64 0, true) := rfl

/-! ## Writes at their memory points (07 R195 R198) -/

/-- Where no sampler job runs and no table is kept a write keeps nothing of what it covers. -/
theorem holdGran_idle {c : Chip} (hjob : ∀ j ∈ c.srv.job, j = none) (hsnap : c.srv.snap = none) (a : Nat) : holdGran c a = c := by
  have hkept : ∀ j ∈ c.srv.job, j.map (holdJob c (a / 64 * 64)) = id j := fun j hj => by rw [hjob j hj]; rfl
  rw [holdGran, List.map_congr_left hkept, List.map_id, hsnap]
  rfl

/-- A late write comes before a write to these addresses, and to a line of a pool where it is one: that of one of their stacks
and channels, or of the same line (07 R198). -/
def comesBefore (as : List Nat) (pg : Option PageRef) (x : LateWrite) : Bool :=
  (as.map unitOf).contains x.unit ||
    (match x.page, pg with
      | some a, some b => a.region == b.region && a.line == b.line
      | _, _ => false)

theorem lateBefore_eq (c : Chip) (as : List Nat) (pg : Option PageRef) : lateBefore c as pg =
    (c.late.filter (comesBefore as pg)).foldl performLate { c with late := c.late.filter (fun x => !comesBefore as pg x) } := rfl

theorem comesBefore_plain (addr : Nat) (x : LateWrite) : comesBefore [addr] none x = decide (x.unit = unitOf addr) := by
  unfold comesBefore
  cases x.page <;> simp

/-- Where no late write comes before it none has to be performed first. -/
theorem lateBefore_none {c : Chip} {as : List Nat} {pg : Option PageRef} (h : ∀ x ∈ c.late, comesBefore as pg x = false) :
    lateBefore c as pg = c := by
  have hnone : c.late.filter (comesBefore as pg) = [] := List.filter_eq_nil_iff.mpr fun x hx => by
    rw [h x hx]
    exact Bool.false_ne_true
  have hall : c.late.filter (fun x => !comesBefore as pg x) = c.late := List.filter_eq_self.mpr fun x hx => by
    rw [h x hx]
    rfl
  rw [lateBefore_eq, hnone, hall]
  rfl

theorem lateBefore_others {c : Chip} {addr : Nat} (h : ∀ x ∈ c.late, x.unit ≠ unitOf addr) : lateBefore c [addr] none = c :=
  lateBefore_none fun x hx => by rw [comesBefore_plain, decide_eq_false (h x hx)]

/-- The only late write, of the same stack or channel, is performed first. -/
theorem lateBefore_one {c : Chip} {x : LateWrite} {addr : Nat} (hlate : c.late = [x]) (hunit : x.unit = unitOf addr) :
    lateBefore c [addr] none = performLate { c with late := [] } x := by
  have hbefore : comesBefore [addr] none x = true := by rw [comesBefore_plain, decide_eq_true hunit]
  rw [lateBefore_eq, hlate]
  simp [hbefore]

/-- A plain line on time is written after the late writes of its stack or channel. -/
theorem storeLine_plain (c : Chip) (site addr : Nat) (d : List Byte) (p : Bool) :
    storeLine c site (.at [addr] none) none d p false =
      writeGran (holdGran (lateBefore c [addr] none) addr) addr d p := rfl

theorem performLate_plain (c : Chip) (unit addr : Nat) (d : List Byte) (p : Bool) :
    performLate c ⟨unit, [addr], none, d, p, none⟩ = writeGran (holdGran c addr) addr d p := rfl

/-! ## Lines of other granules stay -/

section
variable {c d : Chip} {a : Nat} {data : List Byte} {bad : Bool} (h : StoresLine c d a data bad)
include h

theorem frame_of_storesLine :
    d = { c with mem := d.mem, poison := d.poison, ecc := d.ecc, wbDue := d.wbDue } := by
  obtain ⟨-, -, -, -, -, hrest⟩ := h
  exact hrest

theorem calm_of_storesLine (hcalm : Calm c) : Calm d := by
  rw [frame_of_storesLine h]
  exact ⟨hcalm.sound, hcalm.calm⟩

/-- A whole granule but the one stored stays. -/
theorem granule_of_storesLine {b : Nat} (ha : a % 64 = 0) (hb : b % 64 = 0) (hne : b ≠ a) :
    memBytes d.mem b 64 = memBytes c.mem b 64 ∧ granPoison d b = granPoison c b := by
  obtain ⟨-, -, -, hmem, hgran, -⟩ := h
  exact ⟨memBytes_congr 64 b fun x hlow hhigh => hmem x (by omega), (hgran (b / 64) (by omega)).1⟩

end

section
variable {c : Chip} {addr : Nat} (hcalm : Calm c) (haddr : addr % 64 = 0) (hjob : ∀ j ∈ c.srv.job, j = none)
  (hsnap : c.srv.snap = none) (site : Nat) (d : List Byte) (p : Bool)
include hcalm haddr hjob hsnap

/-- A line lands in memory where no late write comes before it. -/
theorem storesLine_lands (hlate : ∀ x ∈ c.late, x.unit ≠ unitOf addr) :
    StoresLine c (storeLine c site (.at [addr] none) none d p false) addr (slice d 0 64) p := by
  rw [storeLine_plain, lateBefore_others hlate, holdGran_idle hjob hsnap]
  exact storesLine_slice hcalm haddr d p

/-- Where one does, of another granule, both are written. -/
theorem storesLine_lands_after {addr' : Nat} {d' : List Byte} {p' : Bool} (haddr' : addr' % 64 = 0)
    (hlate : c.late = [⟨unitOf addr, [addr'], none, d', p', none⟩]) :
    ∃ e, StoresLine { c with late := [] } e addr' (slice d' 0 64) p' ∧
      StoresLine e (storeLine c site (.at [addr] none) none d p false) addr (slice d 0 64) p := by
  have hfirst : StoresLine { c with late := [] } (writeGran { c with late := [] } addr' d' p') addr' (slice d' 0 64) p' :=
    storesLine_slice (c := { c with late := [] }) ⟨hcalm.sound, hcalm.calm⟩ haddr' d' p'
  have hsrv : (writeGran { c with late := [] } addr' d' p').srv = c.srv := by rw [frame_of_storesLine hfirst]
  refine ⟨writeGran { c with late := [] } addr' d' p', hfirst, ?_⟩
  rw [storeLine_plain, lateBefore_one hlate rfl, performLate_plain, holdGran_idle (c := { c with late := [] }) hjob hsnap,
    holdGran_idle (by rw [hsrv]; exact hjob) (by rw [hsrv]; exact hsnap)]
  exact storesLine_slice (calm_of_storesLine hfirst ⟨hcalm.sound, hcalm.calm⟩) haddr d p

end

/-- 07 R195 R196 R198: lines of plain regions. -/
theorem plainLines : PlainLines := by
  refine fun i a off m n late => ⟨fun s r hissues _ hregion => begun_mld i a off m n late hissues hregion,
    begins_mst i a off m n late, fun c r l h => lineAt_plain h, fun c act u k addr hcalm hx hcyc hk htarget haddr hclean => ?_,
    fun c u k hcalm => ⟨fun e l hheld hlow hhigh => moves_writeHeld rfl hcalm hheld hlow hhigh, fun w htarget hline => ?_⟩,
    fun c site ti addr d p hcalm haddr hjob hsnap => ⟨fun hlate => ?_, fun addr' d' p' haddr' hne hlate => ?_, ?_, ?_, ?_⟩⟩
  · obtain ⟨w, htarget⟩ := htarget
    have hwhere : (u.target.getD k (.out, none)).1 = .at [addr] none := by
      rw [List.getD_eq_getElem?_getD, htarget, Option.getD_some]
    dsimp only
    rw [memoryStage_mld hx hcyc hk, hwhere]
    refine ⟨fun htime => ?_, fun hmissed => ?_⟩
    · rw [htime, loadLine_plain hcalm hclean]
    · rw [hmissed, loadLine_plain_late]
      exact ⟨rfl, lateLine_mem .., lateLine_counted c addr false⟩
  · have hwhere : u.target.getD k (.out, none) = w := by rw [List.getD_eq_getElem?_getD, htarget, Option.getD_some]
    simp only [Moves, moveLine, readLine_clean hcalm hline, hwhere]
    exact ⟨trivial, rfl⟩
  · exact storesLine_lands hcalm haddr hjob hsnap site d p hlate
  · obtain ⟨e, hfirst, hsecond⟩ := storesLine_lands_after hcalm haddr hjob hsnap site d p haddr' hlate
    obtain ⟨hmem, hpoison⟩ := granule_of_storesLine hsecond haddr haddr' hne
    have hnone : (storeLine c site (.at [addr] none) none d p false).late = [] := by
      rw [frame_of_storesLine hsecond, frame_of_storesLine hfirst]
    exact ⟨hnone, hmem.trans hfirst.1, hpoison.trans hfirst.2.1, hsecond.1, hsecond.2.1⟩
  · exact lateLine_mem c addr true
  · exact congrArg (· ++ _) (lateLine_late c addr true)
  · exact lateLine_counted c addr true

end Sys2Proof.Proofs
end

section
/-! PROOFS. Lines of KV pools while serving is enabled (07 R208 R209, 08 R235 R236). -/

namespace Sys2Proof.Proofs

open Sys2Proof Sys2Proof.Machine Sys2Proof.Claims Sys2Proof.Laws

/-! ## The pools of a chip -/

theorem poolAt_setPool_ne (c : Chip) (p : Pool) {n y : Nat} (h : y ≠ n) : poolAt (setPool c n p) y = poolAt c y :=
  smGet_smSet_ne _ _ _ h

/-- A chip in which one page of one pool is other than before. -/
def withPage (c : Chip) (rn page : Nat) (x : PageSt) : Chip :=
  setPool c rn { poolAt c rn with pages := smSet PageSt.reset (poolAt c rn).pages page x }

section
variable (c : Chip) (rn page : Nat) (x : PageSt)

theorem withPage_same : pageAt (poolAt (withPage c rn page x) rn) page = x := by
  rw [withPage, poolAt_setPool_same]
  exact smGet_smSet_same _ _ _ _

theorem withPage_page_ne {k : Nat} (hk : k ≠ page) :
    pageAt (poolAt (withPage c rn page x) rn) k = pageAt (poolAt c rn) k := by
  rw [withPage, poolAt_setPool_same]
  exact smGet_smSet_ne _ _ _ hk

theorem withPage_pool_ne {n : Nat} (hn : n ≠ rn) : poolAt (withPage c rn page x) n = poolAt c n := poolAt_setPool_ne c _ hn

theorem withPage_flights : (poolAt (withPage c rn page x) rn).flights = (poolAt c rn).flights := by
  rw [withPage, poolAt_setPool_same]

end

/-- A page after a scheduled line: the line counts, saturating, and a write to a resident page makes it dirty (07 R208). -/
def lineCounted (x : PageSt) (write : Bool) : PageSt :=
  { x with count := min 65535 (x.count + 1), dirty := x.dirty || (write && x.frame.isSome) }

/-- The chip once a scheduled line has counted at its page. -/
def withLine (c : Chip) (x : PageRef) (write : Bool) : Chip :=
  withPage c x.region (x.line / 1024) (lineCounted (pageAt (poolAt c x.region) (x.line / 1024)) write)

/-- A line read counts at its page, and one read from its slot in 4021h:05 (07 R208 R209). -/
theorem countPage_read (c : Chip) (x : PageRef) : countPage c (some x) false =
    if x.slot then bump (withLine c x false) (key 0x4021 5) 1 else withLine c x false := by
  cases hslot : x.slot <;> simp only [countPage, hslot] <;> split <;> rfl

/-- A line written counts at its page, and is one that the next mirror batch carries (07 R208, 13 R420). -/
theorem countPage_write (c : Chip) (x : PageRef) : ∃ det, countPage c (some x) true = { withLine c x true with det := det } := by
  refine ⟨(countPage c (some x) true).det, ?_⟩
  cases hslot : x.slot <;> simp only [countPage, hslot] <;> split <;> rfl

theorem counts_countPage_read (c : Chip) (x : PageRef) :
    Counts c (countPage c (some x) false) (key 0x4021 5) (if x.slot then 1 else 0) [] := by
  rw [countPage_read]
  split
  · exact ⟨bump_count_same .., fun _ hj _ => (smGet_bump ..).trans (if_neg hj)⟩
  · exact counts_of_acc rfl _

theorem countPage_read_mem (c : Chip) (x : PageRef) : (countPage c (some x) false).mem = c.mem := by
  rw [countPage_read]
  split <;> rfl

theorem countPage_read_pools (c : Chip) (x : PageRef) : (countPage c (some x) false).pools = (withLine c x false).pools := by
  rw [countPage_read]
  split <;> rfl

/-- What counts at its page leaves the other pages and pools as they were, and the page where it lies. -/
theorem pageCounts_of_pools {c d : Chip} {r : Region} {x : PageRef} {write : Bool} (hregion : x.region = r.num)
    (hpools : d.pools = (withLine c x write).pools) : PageCounts c d r (x.line / 1024) := by
  have hpool : ∀ n, poolAt d n = poolAt (withLine c x write) n := fun n => by rw [poolAt, hpools]; rfl
  simp only [PageCounts, hpool, ← hregion, withLine, withPage_same]
  exact ⟨rfl, rfl, fun k hk => withPage_page_ne _ _ _ _ hk, fun n hn => withPage_pool_ne _ _ _ _ hn⟩

/-! ## A page that becomes dirty (07 R208) -/

theorem soilPage_resident {c : Chip} {rn page : Nat} (h : (pageAt (poolAt c rn) page).frame.isSome = true) :
    soilPage c rn page = withPage c rn page { pageAt (poolAt c rn) page with dirty := true } := if_pos h

theorem soilPage_slot {c : Chip} {rn page : Nat} (h : (pageAt (poolAt c rn) page).frame.isSome = false) :
    soilPage c rn page = c := if_neg (by rw [Bool.not_eq_true]; exact h)

/-- Of a page only its dirty bit changes, and that where the page is resident. -/
theorem soilPage_page (c : Chip) (rn page : Nat) : pageAt (poolAt (soilPage c rn page) rn) page =
    { pageAt (poolAt c rn) page with
      dirty := (pageAt (poolAt c rn) page).dirty || (pageAt (poolAt c rn) page).frame.isSome } := by
  cases h : (pageAt (poolAt c rn) page).frame.isSome with
  | true => rw [soilPage_resident h, withPage_same, Bool.or_true]
  | false => rw [soilPage_slot h, Bool.or_false]

theorem soilPage_page_ne (c : Chip) {rn page k : Nat} (hk : k ≠ page) :
    pageAt (poolAt (soilPage c rn page) rn) k = pageAt (poolAt c rn) k := by
  cases h : (pageAt (poolAt c rn) page).frame.isSome with
  | true => rw [soilPage_resident h, withPage_page_ne _ _ _ _ hk]
  | false => rw [soilPage_slot h]

theorem soilPage_pool_ne (c : Chip) {rn page n : Nat} (hn : n ≠ rn) : poolAt (soilPage c rn page) n = poolAt c n := by
  cases h : (pageAt (poolAt c rn) page).frame.isSome with
  | true => rw [soilPage_resident h, withPage_pool_ne _ _ _ _ hn]
  | false => rw [soilPage_slot h]

theorem soilPage_poison (c : Chip) (rn page : Nat) : (soilPage c rn page).poison = c.poison := by
  cases h : (pageAt (poolAt c rn) page).frame.isSome with
  | true => rw [soilPage_resident h]; rfl
  | false => rw [soilPage_slot h]

/-- A page that counted counts all the same when it becomes dirty. -/
theorem pageCounts_soilPage {c d : Chip} {r : Region} {page : Nat} (h : PageCounts c d r page) :
    PageCounts c (soilPage d r.num page) r page := by
  obtain ⟨hcount, hframe, hpages, hpools⟩ := h
  refine ⟨?_, ?_, fun k hk => ?_, fun n hn => ?_⟩
  · rw [soilPage_page]
    exact hcount
  · rw [soilPage_page]
    exact hframe
  · rw [soilPage_page_ne d hk]
    exact hpages k hk
  · rw [soilPage_pool_ne d hn]
    exact hpools n hn

/-! ## Where a line of a pool lies (07 R209, 08 R235) -/

/-- The page of pool p that line l of its region names, where its session is not free and the page is allocated. -/
def namedPage (c : Chip) (r : Region) (p l : Nat) : Option Nat :=
  if (sessAt c (1024 * r.home + l / 4194304)).st = 0 then none
  else kvPage c r.home p (1024 * r.home + l / 4194304) (l / 1024 % 4096)

section
variable {c : Chip} {n p l : Nat} {r : Region} (hregion : regionOf c n = some r) (htier : r.tier = 2)
  (hpool : poolOf c r = some p) (hl : l < 4294967296)
include hregion htier hpool hl

/-- The session is free, or the page is not allocated. -/
theorem lineAt_unallocated (h : namedPage c r p l = none) :
    lineAt c (.region n) l = .unallocated r.home (1024 * r.home + l / 4194304) := by
  have hin : inRange (l : Int) 4294967296 = some l := inRange_natCast hl
  have hline : lineAt c (.region n) l = regionLine c r l := by rw [lineAt, hregion]
  rw [hline, regionLine, if_pos htier, hpool, hin]
  dsimp only
  by_cases hfree : (sessAt c (1024 * r.home + l / 4194304)).st = 0
  · rw [if_pos hfree]
  · rw [namedPage, if_neg hfree] at h
    rw [if_neg hfree, h]

/-- The page is allocated: to one session, or shared. -/
theorem lineAt_allocated {g : Nat} (h : namedPage c r p l = some g) :
    lineAt c (.region n) l = if 1 < pageRefs c p g then
        .shared (poolLine c r (1024 * g + l % 1024)).1 (some (poolLine c r (1024 * g + l % 1024)).2) r.home
          (1024 * r.home + l / 4194304)
      else .at (poolLine c r (1024 * g + l % 1024)).1 (some (poolLine c r (1024 * g + l % 1024)).2) := by
  have hin : inRange (l : Int) 4294967296 = some l := inRange_natCast hl
  have hline : lineAt c (.region n) l = regionLine c r l := by rw [lineAt, hregion]
  have hbusy : ¬(sessAt c (1024 * r.home + l / 4194304)).st = 0 := fun hfree => by
    rw [namedPage, if_pos hfree] at h
    cases h
  rw [namedPage, if_neg hbusy] at h
  rw [hline, regionLine, if_pos htier, hpool, hin]
  dsimp only
  rw [if_neg hbusy, h]

end

/-- The pool line that line o of a page is. -/
def lineRef (c : Chip) (r : Region) (g o : Nat) : PageRef := ⟨r.num, 1024 * g + o, (pageAt (poolAt c r.num) g).frame.isNone⟩

section
variable {c : Chip} {r : Region} {g o : Nat} (ho : o < 1024) (hflights : ∀ f ∈ (poolAt c r.num).flights, f.page ≠ g)
include ho hflights

/-- A line of a page that no migration moves lies in the page's frame or in its slot. -/
theorem poolLine_settled : poolLine c r (1024 * g + o) = ([residence c r g o], lineRef c r g o) := by
  have hpage : (1024 * g + o) / 1024 = g := by omega
  have hoff : (1024 * g + o) % 1024 = o := by omega
  have hnone : (poolAt c r.num).flights.find? (fun x => x.page == g) = none :=
    List.find?_eq_none.mpr fun f hf => by simpa using hflights f hf
  simp only [poolLine, hpage, hoff, hnone, residence, lineRef]
  cases (pageAt (poolAt c r.num) g).frame <;> rfl

/-- It lies there at its memory point, wherever it lay at issue. -/
theorem placed_settled (hregion : regionOf c r.num = some r) (as : List Nat) (slot : Bool) :
    placed c as (some ⟨r.num, 1024 * g + o, slot⟩) = ([residence c r g o], some (lineRef c r g o)) := by
  rw [placed]
  simp only [hregion, poolLine_settled ho hflights]

end

/-- Where a line lies depends on its page's frame and the placement. -/
theorem residence_congr {c d : Chip} {r : Region} {g : Nat} (hplan : d.plan = c.plan)
    (hframe : (pageAt (poolAt d r.num) g).frame = (pageAt (poolAt c r.num) g).frame) (o : Nat) :
    residence d r g o = residence c r g o := by
  rw [residence, residence, hframe]
  simp only [frameAddr, slotAddr, hbmBind, mrdBind, hplan]

/-! ## A line read (07 R208 R209, 08 R235) -/

/-- A line of a page, shared or not, is read where it lies, and counts at its page. -/
theorem loadLine_settled {c : Chip} {as : List Nat} {pg : Option PageRef} {addr : Nat} {x : PageRef} {w : LineAt}
    (hw : w = .at as pg ∨ ∃ die sess, w = .shared as pg die sess) (hplaced : placed c as pg = ([addr], some x)) (site : Nat) :
    loadLine c site w false = readGran (countPage c (some x) false) addr .cycle false := by
  rcases hw with rfl | ⟨die, sess, rfl⟩ <;> simp [loadLine, hplaced]

/-- Where no error strikes, what it holds is read, and nothing but its page and a counter changes. -/
theorem readGran_counted {c : Chip} {addr : Nat} (hcalm : Calm c) (hclean : smGet EccMark.none c.ecc (addr / 64) = EccMark.none)
    (x : PageRef) : readGran (countPage c (some x) false) addr .cycle false =
      (countPage c (some x) false, memBytes c.mem addr 64, granPoison c addr) := by
  rw [countPage_read]
  split <;> exact readGran_clean (c := _) .cycle false hclean hcalm.sound

/-! ## A write discarded (08 R236, 14 R432) -/

/-- A write to a page that may not be written is discarded, counted and reported. -/
structure Discarded (c y : Chip) (sess : Nat) : Prop where
  counted : Counts c y (key 0x6050 16) 1 []
  mem : y.mem = c.mem
  poison : y.poison = c.poison
  pools : y.pools = c.pools
  reported : ∃ o, y.err.pend = c.err.pend ++ [o] ∧ o.code = 0x0701 ∧ o.detail = [1, sess % 4294967296]

theorem kvDiscard_discarded (c : Chip) (die sess : Nat) : Discarded c (kvDiscard c die sess) sess :=
  ⟨⟨bump_count_same .., fun _ hj _ => (smGet_bump ..).trans (if_neg hj)⟩, rfl, rfl, rfl, _, rfl, rfl, rfl⟩

/-! ## A line written (07 R208, 08 R236) -/

theorem writeGran_pools (c : Chip) (a : Nat) (d : List Byte) (p : Bool) : (writeGran c a d p).pools = c.pools := by
  rw [writeGran, injectWrite_rest]
  rfl

/-- The chip once a line that is written has counted at its page. -/
def lineWritten (c : Chip) (r : Region) (g o : Nat) : Chip := countPage c (some (lineRef c r g o)) true

theorem lineWritten_eq (c : Chip) (r : Region) (g o : Nat) :
    ∃ det, lineWritten c r g o = { withLine c (lineRef c r g o) true with det := det } := countPage_write ..

/-- Line o of page g belongs to that page. -/
theorem lineRef_page (c : Chip) (r : Region) (g : Nat) {o : Nat} (ho : o < 1024) : (lineRef c r g o).line / 1024 = g := by
  change (1024 * g + o) / 1024 = g
  omega

/-- A line that counted at its page, read or to be written. -/
theorem pageCounts_lineRef {c d : Chip} {r : Region} {g o : Nat} {write : Bool} (ho : o < 1024)
    (hpools : d.pools = (withLine c (lineRef c r g o) write).pools) : PageCounts c d r g := by
  have hcounts := pageCounts_of_pools (r := r) (x := lineRef c r g o) rfl hpools
  rwa [lineRef_page c r g ho] at hcounts

section
variable {c : Chip} {r : Region} {g o : Nat} (ho : o < 1024)
include ho

theorem pageCounts_lineWritten : PageCounts c (lineWritten c r g o) r g := by
  obtain ⟨det, hwritten⟩ := lineWritten_eq c r g o
  exact pageCounts_lineRef ho (by rw [hwritten])

/-- The page of a line written is dirty where it was, or where it is resident (07 R208). -/
theorem dirty_lineWritten : (pageAt (poolAt (lineWritten c r g o) r.num) g).dirty =
    ((pageAt (poolAt c r.num) g).dirty || (pageAt (poolAt c r.num) g).frame.isSome) := by
  obtain ⟨det, hwritten⟩ := lineWritten_eq c r g o
  have hpool : poolAt (lineWritten c r g o) r.num = poolAt (withLine c (lineRef c r g o) true) r.num := by rw [hwritten]; rfl
  rw [hpool, withLine, lineRef_page c r g ho]
  exact congrArg PageSt.dirty (withPage_same ..)

variable (hflights : ∀ f ∈ (poolAt c r.num).flights, f.page ≠ g) (hregion : regionOf c r.num = some r)
include hflights hregion

/-- The line lies where it lay before it counted. -/
theorem placed_lineWritten : placed (lineWritten c r g o) [residence c r g o] (some (lineRef c r g o)) =
    ([residence c r g o], some (lineRef (lineWritten c r g o) r g o)) := by
  obtain ⟨-, hframe, -⟩ := pageCounts_lineWritten (c := c) (r := r) (g := g) ho
  obtain ⟨det, hwritten⟩ := lineWritten_eq c r g o
  have hflights' : ∀ f ∈ (poolAt (lineWritten c r g o) r.num).flights, f.page ≠ g := by
    rw [hwritten]
    exact withPage_flights c r.num _ _ ▸ hflights
  have hsettled := placed_settled ho hflights' (by rw [hwritten]; exact hregion) [residence c r g o]
    (pageAt (poolAt c r.num) g).frame.isNone
  rwa [residence_congr (by rw [hwritten]; rfl) hframe] at hsettled

/-- Where no late write waits a line counts at its page, its granule is stored, and the page is dirty where it is resident. -/
theorem storeLine_settled (hlate : c.late = []) (as : List Nat) (slot : Bool) (site : Nat) (d : List Byte) (p : Bool) :
    storeLine c site (.at as (some ⟨r.num, 1024 * g + o, slot⟩)) none d p false =
      soilPage (writeGran (holdGran (lineWritten c r g o) (residence c r g o)) (residence c r g o) d p) r.num g := by
  have hnone : (lineWritten c r g o).late = [] := by
    obtain ⟨det, hwritten⟩ := lineWritten_eq c r g o
    rw [hwritten]
    exact hlate
  have hbefore : lateBefore (lineWritten c r g o) [residence c r g o] (some (lineRef c r g o)) = lineWritten c r g o :=
    lateBefore_none fun x hx => by rw [hnone] at hx; cases hx
  have hstore : storeLine c site (.at as (some ⟨r.num, 1024 * g + o, slot⟩)) none d p false =
      putLine (lateBefore (lineWritten c r g o) [residence c r g o] (some (lineRef c r g o))) [residence c r g o]
        (some (lineRef c r g o)) none d p := by
    simp only [storeLine, placed_settled ho hflights hregion, Bool.false_eq_true, if_false]
    rfl
  have hput : putLine (lineWritten c r g o) [residence c r g o] (some (lineRef c r g o)) none d p =
      soilPage (writeGran (holdGran (lineWritten c r g o) (residence c r g o)) (residence c r g o) d p) r.num
        ((lineRef (lineWritten c r g o) r g o).line / 1024) := by
    simp only [putLine, placed_lineWritten ho hflights hregion]
    rfl
  rw [hstore, hbefore, hput, lineRef_page _ r g ho]

end

/-- What a settled line stores: its bytes and poison, and of its pool the count and the dirty bit of its page. -/
theorem storeLine_stored {c : Chip} {r : Region} {g o : Nat} (ho : o < 1024) (d : List Byte) (p : Bool) {y : Chip} {a : Nat}
    (ha : a % 64 = 0) (hy : y = soilPage (writeGran (holdGran (lineWritten c r g o) a) a d p) r.num g) :
    memBytes y.mem a 64 = slice d 0 64 ∧ granPoison y a = p ∧ (∀ b, b / 64 ≠ a / 64 → memByte y.mem b = memByte c.mem b) ∧
      PageCounts c y r g ∧ ((pageAt (poolAt y r.num) g).dirty = true ↔
        (pageAt (poolAt c r.num) g).dirty = true ∨ (pageAt (poolAt c r.num) g).frame.isNone = false) := by
  obtain ⟨det, hwritten⟩ := lineWritten_eq c r g o
  have hmem : (holdGran (lineWritten c r g o) a).mem = c.mem := by rw [hwritten]; rfl
  have hpool : ∀ n, poolAt (writeGran (holdGran (lineWritten c r g o) a) a d p) n = poolAt (lineWritten c r g o) n := fun n => by
    rw [poolAt, writeGran_pools]
    rfl
  have hcounts : PageCounts c (writeGran (holdGran (lineWritten c r g o) a) a d p) r g := by
    have hcounted := pageCounts_lineWritten (c := c) (r := r) (g := g) ho
    simp only [PageCounts, hpool]
    exact hcounted
  subst hy
  refine ⟨?_, ?_, fun b hb => ?_, pageCounts_soilPage hcounts, ?_⟩
  · rw [soilPage_mem, memBytes_writeGran]
  · rw [granPoison, soilPage_poison]
    exact granPoison_writeGran ..
  · rw [soilPage_mem, memByte_writeGran_ne _ _ _ (by omega), hmem]
  · obtain ⟨-, hframe, -⟩ := hcounts
    rw [soilPage_page, hframe, hpool, dirty_lineWritten ho]
    cases (pageAt (poolAt c r.num) g).frame <;> simp

/-- 07 R208 R209, 08 R235 R236: lines of KV pools. -/
theorem poolLines : PoolLines := by
  intro c n p site l r d bad hcalm hregion htier hnum hpool hl s page w x y discarded
  subst hnum
  have hdiscarded : y = kvDiscard c r.home s → discarded := fun hy => by
    have hgone := kvDiscard_discarded c r.home s
    rw [← hy] at hgone
    exact ⟨hgone.counted, hgone.mem, hgone.poison, hgone.pools, hgone.reported⟩
  refine ⟨fun hnone => ?_, fun g hg hflights => ?_⟩
  · have hw : w = .unallocated r.home s := lineAt_unallocated hregion htier hpool hl hnone
    have hx : x = loadLine c site (.unallocated r.home s) false := by rw [← hw]
    have hy : y = storeLine c site (.unallocated r.home s) none d bad false := by rw [← hw]
    rw [hx]
    exact ⟨rfl, ⟨bump_count_same .., fun j hj _ => (smGet_bump ..).trans (if_neg hj)⟩, rfl, hdiscarded hy⟩
  · have ho : l % 1024 < 1024 := Nat.mod_lt _ (by decide)
    have hw : w = if 1 < pageRefs c p g then .shared [residence c r g (l % 1024)] (some (lineRef c r g (l % 1024))) r.home s
        else .at [residence c r g (l % 1024)] (some (lineRef c r g (l % 1024))) := by
      have hline := lineAt_allocated hregion htier hpool hl hg
      rwa [poolLine_settled ho hflights] at hline
    refine ⟨fun hclean => ?_, fun hshared => hdiscarded ?_, fun hown haddr hlate => ?_⟩
    · have hx : x = (countPage c (some (lineRef c r g (l % 1024))) false, memBytes c.mem (residence c r g (l % 1024)) 64,
          granPoison c (residence c r g (l % 1024))) := by
        rw [← readGran_counted hcalm hclean]
        refine loadLine_settled (w := w) (pg := some (lineRef c r g (l % 1024))) ?_
          (placed_settled ho hflights hregion [residence c r g (l % 1024)] _) site
        rw [hw]
        split
        · exact .inr ⟨_, _, rfl⟩
        · exact .inl rfl
      rw [hx]
      exact ⟨rfl, countPage_read_mem .., pageCounts_lineRef ho (countPage_read_pools ..), counts_countPage_read ..⟩
    · change storeLine c site w none d bad false = _
      rw [hw, if_pos hshared]
      rfl
    · refine storeLine_stored ho d bad haddr ?_
      change storeLine c site w none d bad false = _
      rw [hw, if_neg (Nat.not_lt.mpr hown)]
      exact storeLine_settled ho hflights hregion (List.eq_nil_iff_forall_not_mem.mpr hlate) _ _ site d bad

/-- Settles O19: plain regions, KV pools, weight views, and lines out of range. -/
theorem regionLines : Obligations.RegionLines := ⟨plainLines, poolLines, viewLines, linesOut⟩

end Sys2Proof.Proofs
end

section
/-! PROOFS. The verdict of a load against the list of its checks: the first that fails gives status and detail (06 R165). -/

namespace Sys2Proof.Proofs

open Sys2Proof Sys2Proof.Machine Sys2Proof.Claims Sys2Proof.Laws

/-! ## Verdicts and lists of checks -/

/-- A verdict is that of a list of checks: none where all hold, else what the first that fails gives. -/
structure Decides (v : Verdict) (l : List (Prop × Nat × Nat)) : Prop where
  passes : (∀ x ∈ l, x.1) → v = none
  fails : ∀ st d, firstFails l st d → v = some (st, d)

theorem firstFails_nil (st d : Nat) : ¬firstFails [] st d := by
  rintro ⟨pre, p, post, h, -, -⟩
  simp at h

/-- The first check that fails is the head, or the head holds and it is the first of the tail. -/
theorem firstFails_cons {x : Prop × Nat × Nat} {l : List (Prop × Nat × Nat)} {st d : Nat} (h : firstFails (x :: l) st d) :
    (¬x.1 ∧ x.2 = (st, d)) ∨ (x.1 ∧ firstFails l st d) := by
  obtain ⟨pre, p, post, hl, hpre, hp⟩ := h
  cases pre with
  | nil =>
    obtain ⟨rfl, -⟩ := List.cons.inj hl
    exact .inl ⟨hp, rfl⟩
  | cons y pre =>
    obtain ⟨rfl, ht⟩ := List.cons.inj hl
    exact .inr ⟨hpre x (List.mem_cons_self ..), pre, p, post, ht, fun z hz => hpre z (List.mem_cons_of_mem _ hz), hp⟩

/-- The first check that fails stands in the first list, or that list holds. -/
theorem firstFails_append {l m : List (Prop × Nat × Nat)} {st d : Nat} (h : firstFails (l ++ m) st d) :
    firstFails l st d ∨ ((∀ x ∈ l, x.1) ∧ firstFails m st d) := by
  induction l with
  | nil => exact .inr ⟨fun x hx => absurd hx List.not_mem_nil, h⟩
  | cons y l ih =>
    rcases firstFails_cons h with ⟨hy, hst⟩ | ⟨hy, ht⟩
    · exact .inl ⟨[], y.1, l, by rw [← hst]; rfl, fun x hx => absurd hx List.not_mem_nil, hy⟩
    · rcases ih ht with ⟨pre, p, post, hl, hpre, hp⟩ | ⟨hl, hm⟩
      · exact .inl ⟨y :: pre, p, post, by rw [hl]; rfl, List.forall_mem_cons.mpr ⟨hy, hpre⟩, hp⟩
      · exact .inr ⟨List.forall_mem_cons.mpr ⟨hy, hl⟩, hm⟩

namespace Decides

theorem nil : Decides none [] := ⟨fun _ => rfl, fun st d h => absurd h (firstFails_nil st d)⟩

/-- Checks one after the other. -/
theorem append {v w : Verdict} {l m : List (Prop × Nat × Nat)} (hv : Decides v l) (hw : Decides w m) :
    Decides (v <|> w) (l ++ m) where
  passes h := by
    obtain ⟨hl, hm⟩ := List.forall_mem_append.mp h
    rw [hv.passes hl, hw.passes hm]
    rfl
  fails st d h := by
    rcases firstFails_append h with hl | ⟨hl, hm⟩
    · rw [hv.fails st d hl]
      rfl
    · rw [hv.passes hl, hw.fails st d hm]
      rfl

/-- One check. -/
theorem one {b : Bool} {p : Prop} (h : b = true ↔ p) (st d : Nat) : Decides (needs b st d) [(p, st, d)] where
  passes hall := if_pos (h.mpr (hall _ (List.mem_singleton_self _)))
  fails st' d' hfail := by
    rcases firstFails_cons hfail with ⟨hp, hst⟩ | ⟨-, hnil⟩
    · rw [needs, if_neg (fun hb => hp (h.mp hb))]
      exact congrArg some hst
    · exact absurd hnil (firstFails_nil _ _)

/-- One check and those after it. -/
theorem cons {b : Bool} {p : Prop} {v : Verdict} {l : List (Prop × Nat × Nat)} (h : b = true ↔ p) (st d : Nat)
    (hv : Decides v l) : Decides (needs b st d <|> v) ((p, st, d) :: l) := append (one h st d) hv

/-- A verdict as a check. -/
theorem ofVerdict (v : Verdict) : Decides v (gives v) := by
  cases v with
  | none => exact nil
  | some e =>
    refine ⟨fun h => (h _ (List.mem_singleton_self _)).elim, fun st d h => ?_⟩
    rcases firstFails_cons h with ⟨-, hst⟩ | ⟨hno, -⟩
    · exact congrArg some hst
    · exact hno.elim

variable {α : Type}

/-- The checks of each element in turn. -/
theorem flatMap {f : α → List (Prop × Nat × Nat)} {g : α → Verdict} {l : List α} (h : ∀ x ∈ l, Decides (g x) (f x)) :
    Decides (l.findSome? g) (l.flatMap f) := by
  induction l with
  | nil => exact nil
  | cons y l ih =>
    obtain ⟨hy, hl⟩ := List.forall_mem_cons.mp h
    have heq : (y :: l).findSome? g = (g y <|> l.findSome? g) := by
      rw [List.findSome?_cons]
      cases g y <;> rfl
    rw [heq, List.flatMap_cons]
    exact append hy (ih hl)

/-- One check of each element in turn. -/
theorem map {b : α → Bool} {p : α → Prop} {st d : α → Nat} {l : List α} (h : ∀ x ∈ l, (b x = true ↔ p x)) :
    Decides (l.findSome? (fun x => needs (b x) (st x) (d x))) (l.map (fun x => (p x, st x, d x))) := by
  rw [List.map_eq_flatMap]
  exact flatMap (fun x hx => one (h x hx) (st x) (d x))

end Decides

/-- The first element that fails a check, where all give one status. -/
theorem find?_verdict {α : Type} (l : List α) (bad : α → Bool) (st : Nat) (d : α → Nat) :
    (l.find? bad).map (fun x => (st, d x)) = l.findSome? (fun x => needs (!bad x) st (d x)) := by
  induction l with
  | nil => rfl
  | cons y l ih =>
    rw [List.find?_cons, List.findSome?_cons]
    cases h : bad y
    · simpa [needs, h] using ih
    · rfl

/-- The same, as checks. -/
theorem Decides.find {α : Type} {l : List α} {bad : α → Bool} {p : α → Prop} {st : Nat} {d : α → Nat}
    (h : ∀ x ∈ l, (bad x = false ↔ p x)) :
    Decides ((l.find? bad).map (fun x => (st, d x))) (l.map (fun x => (p x, st, d x))) := by
  rw [find?_verdict]
  exact .map (fun x hx => by rw [Bool.not_eq_true', h x hx])

/-- The first of the checks of a range that fails, where the detail is the number. -/
theorem firstFails_range {p : Nat → Prop} {s n st d : Nat}
    (h : firstFails ((List.range n).map (fun k => (p k, s, k))) st d) : st = s ∧ d < n ∧ ¬p d ∧ ∀ k < d, p k := by
  induction n with
  | zero => exact absurd h (firstFails_nil st d)
  | succ n ih =>
    rw [List.range_succ, List.map_append] at h
    rcases firstFails_append h with hl | ⟨hl, hn⟩
    · obtain ⟨hst, hd, hp⟩ := ih hl
      exact ⟨hst, by omega, hp⟩
    · rcases firstFails_cons hn with ⟨hp, hst⟩ | ⟨-, hnil⟩
      · obtain ⟨rfl, rfl⟩ := Prod.mk.inj hst
        exact ⟨rfl, Nat.lt_succ_self n, hp, fun k hk => hl _ (List.mem_map.mpr ⟨k, List.mem_range.mpr hk, rfl⟩)⟩
      · exact absurd hnil (firstFails_nil st d)

/-- Checks of the entries of a list, the detail the place of the first that fails. -/
theorem Decides.findIdx {l : List Nat} {b : Nat → Bool} {st : Nat} :
    Decides (needs (l.all b) st (l.findIdx (fun x => !b x)))
      ((List.range l.length).map (fun n => (b (l.getD n 0) = true, st, n))) where
  passes h := by
    refine if_pos (List.all_eq_true.mpr (fun x hx => ?_))
    obtain ⟨n, hn, rfl⟩ := List.getElem_of_mem hx
    have hb := h _ (List.mem_map.mpr ⟨n, List.mem_range.mpr hn, rfl⟩)
    rwa [List.getD_eq_getElem _ _ hn] at hb
  fails st' d h := by
    obtain ⟨rfl, hd, hbad, hgood⟩ := firstFails_range h
    rw [List.getD_eq_getElem _ _ hd] at hbad
    have hall : l.all b = false := List.all_eq_false.mpr ⟨_, List.getElem_mem hd, hbad⟩
    have hidx : l.findIdx (fun x => !b x) = d := by
      refine (List.findIdx_eq hd).mpr ⟨by simpa using hbad, fun j hj => ?_⟩
      have hb := hgood j hj
      rw [List.getD_eq_getElem _ _ (hj.trans hd)] at hb
      rw [hb]; rfl
    rw [needs, hall, hidx]
    rfl

/-! ## Checks whose result is used -/

/-- The status and detail with which a result refuses. -/
def errorOf {α : Type} : Except (Nat × Nat) α → Verdict
  | .error e => some e
  | .ok _ => none

theorem errorOf_eq_some {α : Type} {x : Except (Nat × Nat) α} {e : Nat × Nat} : errorOf x = some e ↔ x = .error e := by
  cases x <;> simp [errorOf]

/-- Checks whose result the later ones use. -/
def checkThen {α : Type} (x : Except (Nat × Nat) α) (g : α → Verdict) : Verdict :=
  match x with
  | .error e => some e
  | .ok a => g a

theorem Decides.andThen {α : Type} {x : Except (Nat × Nat) α} {g : α → Verdict} {l m : List (Prop × Nat × Nat)}
    (hl : Decides (errorOf x) l) (hm : ∀ a, x = .ok a → Decides (g a) m) : Decides (checkThen x g) (l ++ m) := by
  cases x with
  | error e =>
    refine ⟨fun h => hl.passes (List.forall_mem_append.mp h).1, fun st d h => ?_⟩
    rcases firstFails_append h with hfail | ⟨hpass, -⟩
    · exact hl.fails st d hfail
    · exact absurd (hl.passes hpass) (Option.some_ne_none e)
  | ok a => exact .append hl (hm a rfl)

end Sys2Proof.Proofs
end

section
/-! PROOFS. The checks of a load's phases 2, 3 and 4, and the placement where none of phase 4 fails (06 R152 to R168 R174 to R179). -/

namespace Sys2Proof.Proofs

open Sys2Proof Sys2Proof.Machine Sys2Proof.Claims Sys2Proof.Laws

/-! ## Phase 2 (06 R165 R152 to R157) -/

/-- The first section that could not be unwrapped or decrypted. -/
def sealedVerdict (f : Fuses) (c : Chip) (b : List Byte) : Verdict :=
  match plainSections f c b with
  | .error i => some (0x0204, i)
  | .ok _ => none

/-- R165, phase 2. -/
theorem decides_verifying (s : State) (b : List Byte) :
    Decides (verifyCopy s.chip b <|> sealedVerdict s.fuses s.chip b) (verifying s b) := by
  refine .append (w := sealedVerdict s.fuses s.chip b) ?_ ?_
  · simp only [List.append_assoc, List.cons_append, List.nil_append]
    exact .cons beq_iff_eq _ _ (.cons Iff.rfl _ _ (.append (.ofVerdict _) (.cons Iff.rfl _ _ (.append (.ofVerdict _)
      (.append (.map fun _ _ => beq_iff_eq) (.ofVerdict _))))))
  · unfold sealedVerdict
    cases plainSections s.fuses s.chip b with
    | error i => exact .ofVerdict (some (0x0204, i))
    | ok ss => exact .nil

/-! ## Phase 3 (06 R165 R158 R159 R168) -/

/-- R165, phase 3. -/
theorem decides_checking (s : State) (ss : List Plain) :
    Decides (structureVerdict s.chip ss s.fuses.stepping) (checking s ss) := by
  unfold checking structureVerdict
  simp only [List.cons_append, List.nil_append]
  refine .cons ?_ _ _ (.cons ?_ _ _ (.cons ?_ _ _ (.cons ?_ _ _ (.cons Iff.rfl _ _ (.cons ?_ _ _ (.cons beq_iff_eq _ _
    (.cons Iff.rfl _ _ (.append .findIdx (.ofVerdict _)))))))))
  · rw [Bool.and_eq_true, beq_iff_eq]
  · rw [Bool.and_eq_true, beq_iff_eq, beq_iff_eq]
  · simp [List.any_eq_true]
  · simp [hdrOk, and_assoc]
  · exact List.all_eq_true

/-! ## Phase 4 (06 R165 R34 R162 R163 R174 R175 R179) -/

/-- A device ID that stands a second time (06 R162). -/
theorem decides_twice (ids : List Nat) :
    Decides (((List.range ids.length).find? (fun i => (ids.take i).contains (ids.getD i 0))).map (fun i => (0x0403, i)))
      ((List.range ids.length).map (fun i =>
        (∀ j < i, ids.getD j (2 ^ 32 - 1) ≠ ids.getD i (2 ^ 32 - 1), 0x0403, i))) := by
  refine .find fun i hi => ?_
  have hi := List.mem_range.mp hi
  have hget : ∀ {j}, j ≤ i → ∀ d, ids.getD j d = ids[j]! := fun hj d => by
    rw [List.getD_eq_getElem _ _ (by omega), getElem!_pos ids _ (by omega)]
  rw [← Bool.not_eq_true, List.contains_iff_mem, hget le_rfl, hget le_rfl, List.mem_take_iff_getElem]
  constructor
  · intro hnot j hj heq
    rw [hget hj.le, getElem!_pos ids j (by omega)] at heq
    exact hnot ⟨j, by omega, heq⟩
  · rintro hne ⟨j, hj, heq⟩
    have hj : j < i := by omega
    refine hne j hj ?_
    rw [hget hj.le, getElem!_pos ids j (by omega)]
    exact heq

/-- A live generation of a directory entry. -/
theorem copyIn_isSome (x : WEntry) (st : CopySt) : (copyIn x st).isSome = true ↔ x.a.st = st ∨ x.b.st = st := by
  unfold copyIn
  split
  · next ha => simp [ha]
  · next ha =>
    split
    · next hb => simp [hb]
    · next hb => simp [ha, hb]

/-- The port that R35 assigns to the device at place `other` of the partition map. -/
abbrev portTo (c : Chip) (im : PlanImage) (other : Nat) : Option Nat :=
  wiredPort (devId c) (im.devIds.getD other (2 ^ 32 - 1))

/-- What refuses a hop. -/
def hopVerdict (c : Chip) (im : PlanImage) (row other : Nat) : Verdict :=
  match hopBinding c im other with
  | .error st => some (st, row)
  | .ok _ => none

/-- The checks of a hop, to the device `other`. -/
def hopChecks (c : Chip) (im : PlanImage) (row other : Nat) : List (Prop × Nat × Nat) :=
  [(portTo c im other ≠ none, 0x0504, row),
    (∀ p, portTo c im other = some p → portFailed c p = true → substitutes c p = true, 0x0505, row)]

theorem decides_hop (c : Chip) (im : PlanImage) (row other : Nat) :
    Decides (hopVerdict c im row other) (hopChecks c im row other) := by
  have heq : hopVerdict c im row other =
      (needs (portTo c im other).isSome 0x0504 row <|>
        needs ((portTo c im other).all (fun p => !portFailed c p || substitutes c p)) 0x0505 row) := by
    rw [hopVerdict, hopBinding, show wiredPort (devId c) (im.devIds.getD other ones32) = portTo c im other from rfl]
    cases portTo c im other with
    | none => rfl
    | some p => cases hfailed : portFailed c p <;> cases hstands : substitutes c p <;> simp [needs, hfailed, hstands]
  rw [heq]
  refine .cons Option.isSome_iff_ne_none _ _ (.one ?_ _ _)
  simp [Option.all_eq_true, ← Bool.not_eq_true, or_iff_not_imp_left]

/-- Every hop is bound, or the first that is not refuses. -/
theorem decides_hops (c : Chip) (im : PlanImage) (l : List (Nat × Nat × Nat)) :
    Decides (errorOf (placeHops c im l)) (l.flatMap (fun x => hopChecks c im x.1 x.2.2)) := by
  induction l with
  | nil => exact .nil
  | cons x t ih =>
    obtain ⟨row, hop, other⟩ := x
    have heq : errorOf (placeHops c im ((row, hop, other) :: t)) =
        (hopVerdict c im row other <|> errorOf (placeHops c im t)) := by
      rw [placeHops, hopVerdict]
      cases hopBinding c im other with
      | error st => rfl
      | ok p => cases placeHops c im t <;> rfl
    rw [heq, List.flatMap_cons]
    exact .append (decides_hop c im row other) ih

/-- A bound hop keeps its row and number. -/
theorem placeHops_rows {c : Chip} {im : PlanImage} {l m : List (Nat × Nat × Nat)} (h : placeHops c im l = .ok m) :
    m.map (fun x => (x.1, x.2.1)) = l.map (fun x => (x.1, x.2.1)) := by
  induction l generalizing m with
  | nil => cases h; rfl
  | cons x t ih =>
    obtain ⟨row, hop, other⟩ := x
    rw [placeHops] at h
    cases hb : hopBinding c im other with
    | error st => simp [hb] at h
    | ok p =>
      cases ht : placeHops c im t with
      | error e => simp [hb, ht] at h
      | ok l' =>
        simp only [hb, ht] at h
        cases h
        simp [ih ht]

theorem unitsFail_iff (b : Bind) (bad : Nat → Bool) :
    unitsFail b bad = false ↔ ∀ u ∈ b.unit :: b.unit2.toList, bad u = false := by
  unfold unitsFail
  cases b.unit2 <;> simp

/-- A binding passes where each of its units fits, or it takes no byte. -/
theorem binds_iff {b : Bind} {n : Nat} {bad : Nat → Bool} {fits : Nat → Prop} (h : ∀ u, bad u = false ↔ fits u) :
    (decide (0 < n) && unitsFail b bad) = false ↔ (0 < n → ∀ u ∈ b.unit :: b.unit2.toList, fits u) := by
  simp only [Bool.and_eq_false_imp, decide_eq_true_eq, unitsFail_iff, h]

/-- A binding of a byte or more fits in each of its units. -/
def bindFits (im : PlanImage) (fits : Nat → Nat → Prop) (b : Bind) : Prop :=
  0 < bytesOf im b → ∀ u ∈ b.unit :: b.unit2.toList, fits u (b.off + bytesOf im b)

/-- The checks of R179, of n hops. -/
def fitChecks (c : Chip) (im : PlanImage) (hbm mrd : List Bind) (n : Nat) : List (Prop × Nat × Nat) :=
  hbm.map (fun b => (bindFits im (fun q top => reg c (key 0x4011 (q + 1)) ≠ 2 ∧
      top + reg c (key 0x4000 1) / 4 ≤ 0x500000000) b, 0x0502, b.region)) ++
    (mrd.map (fun b => (bindFits im (fun ch top => top + reg c (key 0x4000 2) ≤ fitted c ch) b, 0x0503, b.region)) ++
    [(∀ x ∈ im.init, ∃ y, im.regions.find? (fun r => r.num == x.region) = some y ∧ x.off + x.data.length ≤ y.size, 0x0301, 0),
      (n ≤ 1048576, 0x0506, n)])

theorem decides_fit (c : Chip) (im : PlanImage) {pl : Place} {n : Nat} (hn : pl.hops.length = n) :
    Decides (fitVerdict c im pl) (fitChecks c im pl.hbm pl.mrd n) := by
  subst hn
  refine .append (.find fun b _ => binds_iff fun q => ?_) (.append (.find fun b _ => binds_iff fun ch => ?_)
    (.cons ?_ _ _ (.one decide_eq_true_iff _ _)))
  · split <;> simp [*]
  · simp
  · rw [List.all_eq_true]
    refine forall₂_congr fun x _ => ?_
    cases im.regions.find? (fun r => r.num == x.region) <;> simp

/-- What stands before the hops in phase 4. -/
def deviceVerdict (f : Fuses) (c : Chip) (im : PlanImage) (n : Nat) : Verdict :=
  needs (devId c != ones32) 0x0401 0 <|> needs (im.devIds.contains (devId c)) 0x0402 (devId c) <|> mapVerdict im n <|>
    weightsVerdict c im <|> (List.range 4).findSome? (fun d => needs (decide (im.hdr.tpd ≤ (enabledSites f d).length)) 0x0501 d)

/-- The placement of a plan whose hops are bound, its hash aside. -/
def unhashed (f : Fuses) (c : Chip) (im : PlanImage) (hops : List (Nat × Nat × Nat)) : Place :=
  { own := im.devIds.findIdx (· == devId c), sites := placeTiles f im.hdr.tpd, hbm := (placeRegions im.regions).hbm,
    mrd := (placeRegions im.regions).mrd, hops := hops, hash := [] }

/-- The hops that a placement binds. -/
abbrev hopsOf (c : Chip) (im : PlanImage) : List (Nat × Nat × Nat) := ownHops im (im.devIds.findIdx (· == devId c))

/-- A placement in the order of its checks: the device, the hops, what must fit. -/
theorem placePlan_eq (f : Fuses) (c : Chip) (im : PlanImage) (n : Nat) : placePlan f c im n =
    match deviceVerdict f c im n with
    | some e => .error e
    | none =>
      match placeHops c im (hopsOf c im) with
      | .error e => .error e
      | .ok hops =>
        match fitVerdict c im (unhashed f c im hops) with
        | some e => .error e
        | none => .ok { unhashed f c im hops with hash := placeHash (unhashed f c im hops) } := rfl

/-- The checks of R34, R162, R163 and of the tiles of each die. -/
def deviceChecks (s : State) (im : PlanImage) (n : Nat) : List (Prop × Nat × Nat) :=
  [(devId s.chip ≠ 2 ^ 32 - 1, 0x0401, 0), (devId s.chip ∈ im.devIds, 0x0402, devId s.chip),
    (im.tag < 4096 ∧ n = im.hdr.devices ∧ im.devIds.length = n, 0x0403, 0)] ++
    (List.range im.devIds.length).map (fun i =>
      (∀ j < i, im.devIds.getD j (2 ^ 32 - 1) ≠ im.devIds.getD i (2 ^ 32 - 1), 0x0403, i)) ++
    im.weights.map (fun e =>
      (e < 66 ∧ ((wentry s.chip e).a.st = .live ∨ (wentry s.chip e).b.st = .live), 0x0404, e)) ++
    (List.range 4).map (fun d =>
      (im.hdr.tpd ≤ (List.range 48).countP (fun k => (s.fuses.maps.getD d 0).testBit k), 0x0501, d))

theorem decides_device (s : State) (im : PlanImage) (n : Nat) :
    Decides (deviceVerdict s.fuses s.chip im n) (deviceChecks s im n) := by
  have hmap : Decides (mapVerdict im n) ((im.tag < 4096 ∧ n = im.hdr.devices ∧ im.devIds.length = n, 0x0403, 0) ::
      (List.range im.devIds.length).map (fun i =>
        (∀ j < i, im.devIds.getD j (2 ^ 32 - 1) ≠ im.devIds.getD i (2 ^ 32 - 1), 0x0403, i))) := by
    refine .cons ?_ _ _ (decides_twice _)
    simp [and_assoc]
  simp only [deviceChecks, List.append_assoc, List.cons_append, List.nil_append]
  refine .cons bne_iff_ne _ _ (.cons List.contains_iff_mem _ _ (.append hmap (.append (.map fun e _ => ?_) (.map fun d _ => ?_))))
  · rw [Bool.and_eq_true, decide_eq_true_iff, copyIn_isSome]
  · rw [decide_eq_true_iff, List.countP_eq_length_filter]
    rfl

/-- What refuses a placement: the device, a hop, or what does not fit. -/
theorem errorOf_placePlan (f : Fuses) (c : Chip) (im : PlanImage) (n : Nat) : errorOf (placePlan f c im n) =
    (deviceVerdict f c im n <|>
      checkThen (placeHops c im (hopsOf c im)) (fun hops => fitVerdict c im (unhashed f c im hops))) := by
  rw [placePlan_eq]
  cases deviceVerdict f c im n with
  | some e => rfl
  | none =>
    cases hbound : placeHops c im (hopsOf c im) with
    | error e => simp [errorOf, checkThen]
    | ok hops => cases hfit : fitVerdict c im (unhashed f c im hops) <;> simp [hfit, errorOf, checkThen]

/-- R165, phase 4. -/
theorem decides_placing (s : State) (im : PlanImage) (n : Nat) :
    Decides (errorOf (placePlan s.fuses s.chip im n)) (placing s im n) := by
  have hlength : ∀ hops, placeHops s.chip im (hopsOf s.chip im) = .ok hops → hops.length = (hopsOf s.chip im).length :=
    fun hops hbound => by simpa using congrArg List.length (placeHops_rows hbound)
  have hshape : placing s im n = deviceChecks s im n ++ ((hopsOf s.chip im).flatMap (fun x => hopChecks s.chip im x.1 x.2.2) ++
      fitChecks s.chip im (placeRegions im.regions).hbm (placeRegions im.regions).mrd (hopsOf s.chip im).length) := by
    simp only [placing, deviceChecks, hopChecks, fitChecks, bindFits, List.append_assoc]
  rw [errorOf_placePlan, hshape]
  exact (decides_device s im n).append (.andThen (decides_hops s.chip im (hopsOf s.chip im))
    (fun hops hbound => decides_fit s.chip im (hlength hops hbound)))

/-- What a plan's placement is where no check of phase 4 fails. -/
theorem placePlan_passes {f : Fuses} {c : Chip} {im : PlanImage} {n : Nat} (h : errorOf (placePlan f c im n) = none) :
    ∃ hops, placeHops c im (hopsOf c im) = .ok hops ∧
      placePlan f c im n = .ok { unhashed f c im hops with hash := placeHash (unhashed f c im hops) } := by
  rw [placePlan_eq] at h ⊢
  cases hdev : deviceVerdict f c im n with
  | some e => simp [hdev, errorOf] at h
  | none =>
    cases hbound : placeHops c im (hopsOf c im) with
    | error e => simp [hdev, hbound, errorOf] at h
    | ok hops =>
      cases hfit : fitVerdict c im (unhashed f c im hops) with
      | some e => simp [hdev, hbound, hfit, errorOf] at h
      | none => exact ⟨hops, rfl, by simp [hfit]⟩

end Sys2Proof.Proofs
end

section
/-! PROOFS. The checks of phase 5: coach rows, slot records, slots, times and the yard (06 R170 to R173, 12 R375 to R381). -/

namespace Sys2Proof.Proofs

open Sys2Proof Sys2Proof.Machine Sys2Proof.Claims Sys2Proof.Laws

/-! ## Phase 5 (06 R170 to R173, 12 R375 to R381) -/

/-- One check of each coach row. -/
theorem decides_rows {im : PlanImage} {st : Nat} {b : Nat → CoachRow → Bool} {p : CoachRow × Nat → Prop}
    (h : ∀ x, b x.2 x.1 = true ↔ p x) : Decides (rowsVerdict im st b) (im.coaches.zipIdx.map (fun x => (p x, st, x.2))) :=
  .map fun x _ => h x

/-- Two reservations of one slot that may both hold. -/
theorem slotClash_iff (a b : Reserved) : slotClash b a = true ↔
    a.port = b.port ∧ a.slot = b.slot ∧ (a.next = true ∨ b.next = true ∨ a.vmask &&& b.vmask ≠ 0) := by
  simp only [slotClash, Bool.and_eq_true, Bool.or_eq_true, beq_iff_eq, bne_iff_ne, Nat.land_comm b.vmask]
  tauto

/-- Reservation k shares its slot with no earlier one. -/
def SlotFree (res : List Reserved) (x0 : Reserved) (k : Nat) : Prop :=
  ∀ j < k, ¬((res.getD j x0).port = (res.getD k x0).port ∧ (res.getD j x0).slot = (res.getD k x0).slot ∧
    ((res.getD j x0).next = true ∨ (res.getD k x0).next = true ∨ (res.getD j x0).vmask &&& (res.getD k x0).vmask ≠ 0))

/-- The reservations after some that are seen, each against those before it. -/
theorem decides_clash_after (res : List Reserved) {seen l : List Reserved} (hres : res = seen.reverse ++ l) (x0 : Reserved) :
    Decides (clashVerdict seen l)
      ((List.range' seen.length l.length).map (fun k => (SlotFree res x0 k, 0x0602, (res.getD k x0).row))) := by
  induction l generalizing seen with
  | nil => exact .nil
  | cons x t ih =>
    have hthis : res.getD seen.length x0 = x := by simp [hres]
    have hseen : seen.any (slotClash x) = false ↔ ∀ j < seen.length, ¬(slotClash x (res.getD j x0) = true) := by
      have hget : ∀ j (hj : j < seen.reverse.length), res.getD j x0 = seen.reverse[j] := fun j hj => by
        rw [hres, List.getD_append _ _ _ _ hj, List.getD_eq_getElem _ _ hj]
      rw [List.any_eq_false, ← List.length_reverse]
      simp only [← List.mem_reverse (as := seen), List.forall_mem_iff_forall_getElem]
      exact forall₂_congr fun j hj => by rw [hget j hj]
    have heq : clashVerdict seen (x :: t) = (needs (!seen.any (slotClash x)) 0x0602 x.row <|> clashVerdict (x :: seen) t) := by
      rw [clashVerdict]
      cases seen.any (slotClash x) <;> rfl
    rw [heq, List.length_cons, List.range'_succ, List.map_cons, hthis]
    refine .cons ?_ _ _ (ih (by simp [hres]))
    rw [Bool.not_eq_true', hseen]
    simp only [slotClash_iff, SlotFree, hthis]

theorem decides_clash (res : List Reserved) (x0 : Reserved) :
    Decides (clashVerdict [] res) ((List.range res.length).map (fun k => (SlotFree res x0 k, 0x0602, (res.getD k x0).row))) := by
  rw [List.range_eq_range']
  exact decides_clash_after res rfl x0

/-- The coach share (12 R378). -/
theorem decides_share (im : PlanImage) (res : List Reserved) :
    Decides (shareVerdict im res) ((List.range im.hdr.variants).flatMap (fun v =>
      let here := res.filter (fun x => x.next || x.vmask.testBit v)
      here.map (fun x => (¬∀ k < 8, ∃ y ∈ here, y.port = x.port ∧ y.slot = x.slot + k, 0x0602, x.row)))) := by
  refine .flatMap fun v _ => .find fun x _ => ?_
  rw [← Bool.not_eq_true, List.all_eq_true, not_iff_not]
  simp only [List.mem_range, List.any_eq_true, Bool.and_eq_true, beq_iff_eq]
  rfl

/-- A check that counts for what is equal alone. -/
theorem guarded_iff {a b : Nat} {t : Bool} {p : Prop} (h : t = true ↔ p) : (!(a == b) || t) = true ↔ (a = b → p) := by
  rw [Bool.or_eq_true, Bool.not_eq_true', beq_eq_false_iff_ne, ← h, ← imp_iff_not_or]

/-- A check of a row that counts where this module sends or receives one of its hops. -/
theorem mine_iff (l : List Nat) (t : Bool) : (l.isEmpty || t) = true ↔ (l ≠ [] → t = true) := by
  cases l <;> simp

theorem sendTimesOk_iff (im : PlanImage) (row : Nat) (r : CoachRow) : sendTimesOk im row r = true ↔
    ∃ a, recOf im row 1 = some a ∧ ∀ k < r.k, 100 * (r.send + 40 + 4 * (k + 1)) ≤ slotTime im a k 0 := by
  unfold sendTimesOk
  cases recOf im row 1 <;> simp

theorem throughTimesOk_iff (c : Chip) (im : PlanImage) (pl : Place) (row : Nat) (r : CoachRow) (h : Nat) :
    throughTimesOk c im pl row r h = true ↔ ∃ a b, recOf im row h = some a ∧ recOf im row (h + 1) = some b ∧
      ∀ k < r.k, slotTime im a k 1 + 100 * (rxLatency c pl row h + im.hdr.slack + 40) ≤ slotTime im b k 0 := by
  unfold throughTimesOk
  cases recOf im row h <;> cases recOf im row (h + 1) <;> simp

theorem releaseOk_iff (c : Chip) (im : PlanImage) (pl : Place) (row : Nat) (r : CoachRow) :
    releaseOk c im pl row r = true ↔ ∃ a, recOf im row r.hops = some a ∧ ∀ k < r.k,
      slotTime im a k 1 + 100 * (rxLatency c pl row r.hops + im.hdr.slack) ≤ 100 * releaseCc im r a := by
  unfold releaseOk
  cases recOf im row r.hops <;> simp

/-- A row released in the step after its last slot's is one of every variant. -/
theorem everyVariant_iff (o : Option SlotRec) (vmask variants : Nat) :
    (match o with
      | some s => !s.relNext || (List.range variants).all (fun v => bit vmask v)
      | none => false) = true ↔
    ∃ a, o = some a ∧ (a.relNext = true → ∀ v < variants, vmask.testBit v = true) := by
  cases o with
  | none => simp
  | some a => cases h : a.relNext <;> simp [h, bit]

/-- The checks of R381 where this module is on the way of a row. -/
theorem through_iff (c : Chip) (im : PlanImage) (pl : Place) (row : Nat) (r : CoachRow) :
    (List.range r.hops).all (fun h => h == 0 || (pathDevs r).getD h ones32 != pl.own || throughTimesOk c im pl row r h) = true ↔
    ∀ h < r.hops, h ≠ 0 → (pathDevs r).getD h (2 ^ 32 - 1) = pl.own → ∃ a b, recOf im row h = some a ∧
      recOf im row (h + 1) = some b ∧
      ∀ k < r.k, slotTime im a k 1 + 100 * (rxLatency c pl row h + im.hdr.slack + 40) ≤ slotTime im b k 0 := by
  simp only [List.all_eq_true, List.mem_range, Bool.or_assoc, Bool.or_eq_true (_ == _), beq_iff_eq]
  refine forall₂_congr fun h _ => ?_
  rw [← or_iff_not_imp_left]
  exact or_congr_right (guarded_iff (throughTimesOk_iff c im pl row r h))

/-- R165, phase 5. -/
theorem decides_coaching (s : State) (im : PlanImage) (pl : Place) (bad : Bool × List (Nat × Nat)) :
    Decides (coachPhase s.chip im pl bad) (coaching s im pl bad) := by
  unfold coaching coachPhase coachVerdict
  simp only [List.append_assoc, List.cons_append, List.nil_append]
  refine .append (decides_rows fun x => ?_) (.cons ?_ _ _ (.append (.find fun x _ => ?_) (.append (.ofVerdict _)
    (.append (decides_rows fun x => ?_) (.append (.map fun x _ => beq_iff_eq) (.append (decides_clash _ ⟨0, 0, 0, false, 0⟩)
    (.append (decides_share _ _) (.append (decides_rows fun x => ?_) (.append (decides_rows fun x => ?_)
    (.append (decides_rows fun x => ?_) (.append (decides_rows fun x => ?_) (.append (.ofVerdict _)
    (decides_rows fun x => ?_)))))))))))))
  · exact (Bool.and_eq_true ..).to_iff.trans (and_congr (guarded_iff Iff.rfl) (guarded_iff Iff.rfl))
  · rw [Bool.not_eq_true']
  · rw [← Bool.not_eq_true, List.contains_iff_mem]
  · exact mine_iff ..
  · exact guarded_iff (sendTimesOk_iff ..)
  · exact through_iff ..
  · exact guarded_iff (releaseOk_iff ..)
  · exact mine_iff ..
  · exact guarded_iff (everyVariant_iff ..)

end Sys2Proof.Proofs
end

section
/-! PROOFS. How a phase that refuses ends a load or a re-place: status, detail, report, and the plan held as it was (06 R165 R182). -/

namespace Sys2Proof.Proofs

open Sys2Proof Sys2Proof.Machine Sys2Proof.Claims Sys2Proof.Laws

/-! ## The end of a load or a re-place (06 R165 R182, 14 R432) -/

/-- The entries that the end of a load writes. -/
def loadKeys : List Nat := [key 0x2020 4, key 0x2020 5, key 0x2020 7]

/-- A load or re-place is over, with a status and a detail. -/
def LoadEnded (st d : Nat) (t : State) : Prop :=
  t.chip.plan.loading = none ∧ reg t.chip (key 0x2020 4) = st ∧ reg t.chip (key 0x2020 5) = d ∧ reg t.chip (key 0x2020 7) = 0

/-- A check has failed: the load is over, the plan held as it was. -/
def LoadFailed (s : State) (st d : Nat) (t : State) : Prop :=
  LoadEnded st d t ∧ Reported s t 0x0801 .modl ∧ t.chip.plan = { s.chip.plan with loading := none } ∧
    t.chip.tiles = s.chip.tiles ∧ t.chip.mem = s.chip.mem ∧ KeepsButLog s t loadKeys

section
variable (c : Chip) (st d : Nat)

@[simp] theorem closeLoad_plan : (closeLoad c st d).plan = c.plan := rfl
@[simp] theorem closeLoad_tiles : (closeLoad c st d).tiles = c.tiles := rfl
@[simp] theorem closeLoad_mem : (closeLoad c st d).mem = c.mem := rfl
@[simp] theorem closeLoad_tileAt (site : Nat) : tileAt (closeLoad c st d) site = tileAt c site := rfl
@[simp] theorem closeLoad_stewAt (e : Nat) : stewAt (closeLoad c st d) e = stewAt c e := rfl
@[simp] theorem closeLoad_log : (closeLoad c st d).err.log = c.err.log := rfl

theorem reg_setLoad_ne (phase : Nat) {k : Nat} (h : k ∉ loadKeys) : reg (setLoad c st d phase) k = reg c k := by
  simp only [loadKeys, List.mem_cons, List.not_mem_nil, or_false, not_or] at h
  obtain ⟨hstatus, hdetail, hphase⟩ := h
  rw [setLoad, reg_setReg_ne _ _ hphase, reg_setReg_ne _ _ hdetail, reg_setReg_ne _ _ hstatus]

theorem reg_setLoad (phase : Nat) : reg (setLoad c st d phase) (key 0x2020 4) = st ∧
    reg (setLoad c st d phase) (key 0x2020 5) = d ∧ reg (setLoad c st d phase) (key 0x2020 7) = phase := by
  refine ⟨?_, ?_, reg_setReg_same ..⟩
  · rw [setLoad, reg_setReg_ne _ _ (by decide), reg_setReg_ne _ _ (by decide), reg_setReg_same]
  · rw [setLoad, reg_setReg_ne _ _ (by decide), reg_setReg_same]

theorem reg_closeLoad_ne {k : Nat} (h : k ∉ loadKeys) : reg (closeLoad c st d) k = reg c k := reg_setLoad_ne c st d 0 h

theorem noted_closeLoad : noted c (closeLoad c st d) 0x0801 .modl [st, d] := ⟨_, rfl, rfl, rfl, rfl⟩

end

theorem loadEnded_closeLoad (s : State) {c : Chip} (h : c.plan.loading = none) (st d : Nat) :
    LoadEnded st d { s with chip := flush (closeLoad c st d) } := by
  obtain ⟨hstatus, hdetail, hphase⟩ := reg_setLoad c st d 0
  refine ⟨?_, (flush_reg _ (by decide)).trans hstatus, (flush_reg _ (by decide)).trans hdetail,
    (flush_reg _ (by decide)).trans hphase⟩
  rw [flush_plan]
  exact h

/-- The end of a load is reported where the log is as it was before. -/
theorem reported_closeLoad {s : State} (h : Quiet s) {c : Chip} (herr : c.err = s.chip.err)
    (hreg : reg c (key 0x9002 1) = reg s.chip (key 0x9002 1)) (st d : Nat) :
    Reported s { s with chip := flush (closeLoad c st d) } 0x0801 .modl := by
  have hnoted : noted s.chip (closeLoad c st d) 0x0801 .modl [st, d] := by
    rw [noted, ← herr]
    exact noted_closeLoad c st d
  exact reported_of_noted h.none hnoted (by rw [closeLoad_log, herr]) ((reg_closeLoad_ne c st d (by decide)).trans hreg)

/-- The plan of a chip without the load in progress. -/
def unloading (c : Chip) : Chip := { c with plan := { c.plan with loading := none } }

/-- A load whose check fails. -/
theorem loadFailed_closeLoad {s : State} (h : Quiet s) (st d : Nat) :
    LoadFailed s st d { s with chip := flush (closeLoad (unloading s.chip) st d) } := by
  refine ⟨loadEnded_closeLoad s rfl st d, reported_closeLoad h (c := unloading s.chip) rfl rfl st d, ?_, ?_, ?_, ?_⟩
  · rw [flush_plan]; rfl
  · rw [flush_tiles]; rfl
  · rw [flush_mem]; rfl
  · intro k hk hlog
    rw [flush_reg _ hlog, reg_closeLoad_ne _ st d hk]
    rfl

/-! ## The phases (06 R165) -/

section
variable {s : State} {l : Loading} (h : Quiet s) (hload : s.chip.plan.loading = some l)
include h hload

/-- LOAD_COMPLETE runs the phases still ahead and ends the load. -/
theorem loadComplete_next : exec .loadComplete s = .next { s with
    chip := flush (endLoad (runPhases s.fuses 6 s.chip l).1 (runPhases s.fuses 6 s.chip l).2) } := by
  have hfold : fLoadComplete s.fuses s.chip = endLoad (runPhases s.fuses 6 s.chip l).1 (runPhases s.fuses 6 s.chip l).2 := by
    rw [fLoadComplete, hload]
  rw [← hfold]
  exact onRunning_running _ h.runs

/-- A phase that refuses ends the load. -/
theorem loadComplete_refused {st d : Nat} (hrun : runPhases s.fuses 6 s.chip l = (s.chip, .error (st, d))) :
    Answers .loadComplete s (LoadFailed s st d) := by
  refine ⟨_, loadComplete_next h hload, ?_⟩
  rw [hrun]
  exact loadFailed_closeLoad h st d

end

/-- The first phase whose check fails ends the phases. -/
theorem runPhases_error {f : Fuses} {c : Chip} {l : Loading} {e : Nat × Nat} (n : Nat)
    (h : phaseWork f c l = (c, .error e)) : runPhases f (n + 1) c l = (c, .error e) := by
  rw [runPhases, h]

theorem runPhases_next {f : Fuses} {c : Chip} {l m : Loading} (n : Nat) (h : phaseWork f c l = (c, .ok m)) :
    runPhases f (n + 1) c l = runPhases f n c m := by
  rw [runPhases, h]

section
variable {f : Fuses} {c : Chip} {l : Loading}

theorem phaseWork_outside (h : l.phase = 1) (hout : inStaging c (reg c (key 0x2020 2)) (reg c (key 0x2020 3)) = false) :
    phaseWork f c l = (c, .error (0x0101, ones32)) := by
  simp [phaseWork, h, hout]

theorem phaseWork_verify (h : l.phase = 2) {e : Nat × Nat}
    (hfail : (verifyCopy c l.copy <|> sealedVerdict f c l.copy) = some e) :
    phaseWork f c l = (c, .error e) := by
  unfold sealedVerdict at hfail
  simp only [phaseWork, h]
  cases hverify : verifyCopy c l.copy with
  | some x =>
    rw [hverify] at hfail
    cases hfail
    rfl
  | none =>
    rw [hverify] at hfail
    cases hplain : plainSections f c l.copy with
    | error i =>
      rw [hplain] at hfail
      cases hfail
      rfl
    | ok ss =>
      rw [hplain] at hfail
      cases hfail

theorem phaseWork_check (h : l.phase = 3) {e : Nat × Nat} (hfail : structureVerdict c l.secs f.stepping = some e) :
    phaseWork f c l = (c, .error e) := by
  simp [phaseWork, h, hfail]

/-- The devices of the partition map that phase 4 counts. -/
def deviceCount (l : Loading) (im : PlanImage) : Nat := if l.cmd = 1 then field (theSection l.secs 8) 4 4 else im.hdr.devices

theorem phaseWork_place (h : l.phase = 4) {im : PlanImage} (himage : l.image = some im) : phaseWork f c l =
    (c, match placePlan f c im (deviceCount l im) with
      | .error e => .error e
      | .ok pl => .ok { l with phase := 5, place := some pl }) := by
  simp only [phaseWork, h, himage]
  rfl

/-- What the slot tables section's bytes break, as phase 5 takes it. -/
def slotsBad (l : Loading) : Bool × List (Nat × Nat) := if l.cmd = 1 then slotsFault l.secs else (false, [])

theorem phaseWork_coach (h : l.phase = 5) {im : PlanImage} {pl : Place} (himage : l.image = some im)
    (hplace : l.place = some pl) {e : Nat × Nat} (hfail : coachPhase c im pl (slotsBad l) = some e) :
    phaseWork f c l = (c, .error e) := by
  rw [slotsBad] at hfail
  simp only [phaseWork, h, himage, hplace, hfail]

theorem runPhases_last (h : l.phase = 6) : runPhases f 6 c l = (c, .ok l) := by
  simp [runPhases, phaseWork, h]

end

end Sys2Proof.Proofs
end

section
/-! PROOFS. The end of a load or a re-place whose phases are done: tiles bound, memory filled, stewards and entries written (06 R165 R182,
05 R123 R124). -/

namespace Sys2Proof.Proofs

open Sys2Proof Sys2Proof.Machine Sys2Proof.Claims Sys2Proof.Laws

/-! ## The tiles that a placement binds (05 R123 R124) -/

/-- One tile takes its logical number and its mask. -/
def bindTile (im : PlanImage) (c : Chip) (x : Nat × Nat) : Chip :=
  modTile c x.1 (fun t => { t with ti := x.2, mask := im.tmasks.getD x.2 1 })

theorem bindTiles_eq (im : PlanImage) (pl : Place) (c : Chip) : bindTiles im pl c = pl.sites.zipIdx.foldl (bindTile im) c := rfl

theorem foldl_bindTile_frame (im : PlanImage) (l : List (Nat × Nat)) (c : Chip) :
    l.foldl (bindTile im) c = { c with tiles := (l.foldl (bindTile im) c).tiles } := by
  induction l generalizing c with
  | nil => rfl
  | cons x l ih => exact ih (bindTile im c x)

theorem bindTiles_frame (im : PlanImage) (pl : Place) (c : Chip) :
    bindTiles im pl c = { c with tiles := (bindTiles im pl c).tiles } := foldl_bindTile_frame im _ c

section
variable (im : PlanImage) (pl : Place) (c : Chip)

@[simp] theorem bindTiles_plan : (bindTiles im pl c).plan = c.plan := by rw [bindTiles_frame]
@[simp] theorem bindTiles_mem : (bindTiles im pl c).mem = c.mem := by rw [bindTiles_frame]
@[simp] theorem bindTiles_err : (bindTiles im pl c).err = c.err := by rw [bindTiles_frame]
theorem bindTiles_regs : (bindTiles im pl c).regs = c.regs := by rw [bindTiles_frame]
@[simp] theorem bindTiles_reg (k : Nat) : reg (bindTiles im pl c) k = reg c k := reg_of_regs (bindTiles_regs im pl c) k

end

theorem tileAt_bindTile (im : PlanImage) (c : Chip) (x : Nat × Nat) (site : Nat) : tileAt (bindTile im c x) site =
    if site = x.1 then { tileAt c site with ti := x.2, mask := im.tmasks.getD x.2 1 } else tileAt c site := by
  split
  · next h => subst h; exact tileAt_setTile_same ..
  · next h => exact tileAt_setTile_ne _ _ h

theorem tileAt_foldl_bindTile_ne (im : PlanImage) {l : List (Nat × Nat)} {site : Nat} (h : ∀ x ∈ l, site ≠ x.1) (c : Chip) :
    tileAt (l.foldl (bindTile im) c) site = tileAt c site := by
  induction l generalizing c with
  | nil => rfl
  | cons x l ih =>
    obtain ⟨hx, hl⟩ := List.forall_mem_cons.mp h
    rw [List.foldl_cons, ih hl, tileAt_bindTile, if_neg hx]

/-- A tile at no site of the placement stays. -/
theorem tileAt_bindTiles_ne (im : PlanImage) {pl : Place} {site : Nat} (h : site ∉ pl.sites) (c : Chip) :
    tileAt (bindTiles im pl c) site = tileAt c site :=
  tileAt_foldl_bindTile_ne im (fun _ hx heq => h (by rw [heq]; exact List.fst_mem_of_mem_zipIdx hx)) c

/-- The vector registers stay. -/
theorem v_bindTiles (im : PlanImage) (pl : Place) (c : Chip) (site : Nat) :
    (tileAt (bindTiles im pl c) site).v = (tileAt c site).v := by
  have hfold : ∀ (l : List (Nat × Nat)) (c : Chip), (tileAt (l.foldl (bindTile im) c) site).v = (tileAt c site).v := by
    intro l
    induction l with
    | nil => intro c; rfl
    | cons x l ih =>
      intro c
      rw [List.foldl_cons, ih, tileAt_bindTile]
      split <;> rfl
  exact hfold _ c

/-- Each tile of the placement has its number and its mask, where no later one has its site. -/
def TilesBound (im : PlanImage) (pl : Place) (c : Chip) : Prop := ∀ n < pl.sites.length,
  (∀ m < pl.sites.length, n < m → pl.sites.getD m 0 ≠ pl.sites.getD n 0) →
    (tileAt c (pl.sites.getD n 0)).ti = n ∧ (tileAt c (pl.sites.getD n 0)).mask = im.tmasks.getD n 1

theorem tilesBound_bindTiles (im : PlanImage) (pl : Place) (c : Chip) : TilesBound im pl (bindTiles im pl c) := by
  intro n hn hlater
  rw [List.getD_eq_getElem _ _ hn]
  have hsplit : pl.sites.zipIdx =
      (pl.sites.take n).zipIdx ++ (pl.sites[n], n) :: (pl.sites.drop (n + 1)).zipIdx (n + 1) := by
    conv_lhs => rw [← List.take_append_drop n pl.sites, List.drop_eq_getElem_cons hn, List.zipIdx_append, List.zipIdx_cons]
    simp [hn.le]
  have hfree : ∀ x ∈ (pl.sites.drop (n + 1)).zipIdx (n + 1), pl.sites[n] ≠ x.1 := by
    intro x hx heq
    obtain ⟨k, hk, hget⟩ := List.getElem_of_mem (List.fst_mem_of_mem_zipIdx hx)
    rw [List.getElem_drop] at hget
    rw [List.length_drop] at hk
    refine hlater (n + 1 + k) (by omega) (by omega) ?_
    rw [List.getD_eq_getElem _ _ (by omega), List.getD_eq_getElem _ _ hn, hget, heq]
  rw [bindTiles_eq, hsplit, List.foldl_append, List.foldl_cons, tileAt_foldl_bindTile_ne im hfree, tileAt_bindTile, if_pos rfl]
  exact ⟨rfl, rfl⟩

/-! ## A re-place ends (06 R182) -/

/-- The chip with a new placement in force. -/
def placedChip (c : Chip) (pl : Place) : Chip := { c with plan := { c.plan with loading := none, place := some pl } }

/-- A re-place whose phases are done puts the new placement in force and moves nothing. -/
theorem replaceEnds {s : State} {l : Loading} (h : Quiet s) (hload : s.chip.plan.loading = some l) (hphase : l.phase = 6)
    (hcmd : l.cmd = 3) {im : PlanImage} {pl : Place} (himage : l.image = some im) (hplace : l.place = some pl) :
    Answers .loadComplete s (fun t => LoadEnded 0 0 t ∧ TilesBound im pl t.chip ∧ Reported s t 0x0801 .modl ∧
      t.chip.plan = { s.chip.plan with loading := none, place := some pl } ∧ t.chip.mem = s.chip.mem ∧
      (∀ site, site ∉ pl.sites → tileAt t.chip site = tileAt s.chip site) ∧
      (∀ site r, vreg (tileAt t.chip site) r = vreg (tileAt s.chip site) r)) := by
  have hend : endLoad s.chip (.ok l) = closeLoad (bindTiles im pl (placedChip s.chip pl)) 0 0 := by
    simp only [endLoad, himage, hplace, hcmd]
    rfl
  have hnext := loadComplete_next h hload
  rw [runPhases_last hphase, hend] at hnext
  have hreported := reported_closeLoad h (bindTiles_err im pl (placedChip s.chip pl))
    (bindTiles_reg im pl (placedChip s.chip pl) (key 0x9002 1)) 0 0
  have hloading : (bindTiles im pl (placedChip s.chip pl)).plan.loading = none := by
    rw [bindTiles_plan]
    rfl
  refine ⟨_, hnext, loadEnded_closeLoad s hloading 0 0, ?_, hreported, ?_, ?_, ?_, ?_⟩
  · intro n hn hlater
    simp only [flush_tileAt, closeLoad_tileAt]
    exact tilesBound_bindTiles im pl _ n hn hlater
  · rw [flush_plan, closeLoad_plan, bindTiles_plan]
    rfl
  · rw [flush_mem, closeLoad_mem, bindTiles_mem]
    rfl
  · intro site hsite
    rw [flush_tileAt, closeLoad_tileAt, tileAt_bindTiles_ne im hsite]
    rfl
  · intro site r
    rw [flush_tileAt, closeLoad_tileAt, vreg, v_bindTiles]
    rfl

/-! ## What memory takes of a plan (06 R160 R163 R165) -/

/-- Plan and tiles are the same. -/
structure PlanKept (c d : Chip) : Prop where
  plan : d.plan = c.plan
  tiles : d.tiles = c.tiles

theorem PlanKept.refl (c : Chip) : PlanKept c c := ⟨rfl, rfl⟩

theorem PlanKept.trans {c d e : Chip} (h : PlanKept c d) (g : PlanKept d e) : PlanKept c e :=
  ⟨g.plan.trans h.plan, g.tiles.trans h.tiles⟩

theorem PlanKept.foldl {α : Type} {f : Chip → α → Chip} (h : ∀ c x, PlanKept c (f c x)) (l : List α) (c : Chip) :
    PlanKept c (l.foldl f c) := by
  induction l generalizing c with
  | nil => exact .refl c
  | cons x l ih => exact (h c x).trans (ih _)

theorem planKept_onDieCheck (c : Chip) (a : Nat) (w : When) : PlanKept c (onDieCheck c a w) := by
  unfold onDieCheck
  split
  · split <;> exact ⟨rfl, rfl⟩
  · exact .refl c

theorem planKept_readGran (c : Chip) (a : Nat) (w : When) (scrub : Bool) : PlanKept c (readGran c a w scrub).1 := by
  refine (planKept_onDieCheck c a w).trans ?_
  unfold readGran
  dsimp only
  split
  · exact .refl _
  · split <;> exact ⟨rfl, rfl⟩

theorem planKept_writeGran (c : Chip) (a : Nat) (d : List Byte) (p : Bool) : PlanKept c (writeGran c a d p) := by
  rw [writeGran, injectWrite_rest]
  exact ⟨rfl, rfl⟩

theorem planKept_soilPage (c : Chip) (rn page : Nat) : PlanKept c (soilPage c rn page) := by
  unfold soilPage
  dsimp only
  split <;> exact ⟨rfl, rfl⟩

theorem planKept_engLine (c : Chip) (n l : Nat) : PlanKept c (engLine c n l).1 := by
  unfold engLine seenLine
  split
  · exact planKept_readGran ..
  · exact planKept_readGran ..
  · exact .refl c
  · exact .refl c

theorem planKept_engPut (c : Chip) (n l : Nat) (d : List Byte) (p : Bool) : PlanKept c (engPut c n l d p) := by
  unfold engPut
  split
  · next as pg _ =>
    have hwrites := PlanKept.foldl (f := fun c a => writeGran (holdGran c a) a d p)
      (fun c a => (PlanKept.mk rfl rfl : PlanKept c (holdGran c a)).trans (planKept_writeGran ..)) as c
    cases pg with
    | none => exact hwrites
    | some x => exact hwrites.trans (planKept_soilPage ..)
  · exact .refl c

theorem planKept_engPatch (c : Chip) (n off : Nat) (d : List Byte) : PlanKept c (engPatch c n off d) := by
  unfold engPatch
  split
  · exact .refl c
  · exact .foldl (fun c i => (planKept_engLine c n _).trans (planKept_engPut ..)) _ c

theorem planKept_copyInitial (im : PlanImage) (c : Chip) : PlanKept c (copyInitial im c) :=
  .foldl (f := fun c (d : InitData) => engPatch c d.region d.off d.data) (fun c d => planKept_engPatch c d.region d.off d.data) _ c

theorem planKept_zeroFill (c : Chip) : PlanKept c (zeroFill c) := by
  refine .foldl (fun c x => ?_) _ c
  obtain ⟨r, b⟩ := x
  dsimp only
  split
  · unfold zeroBind
    dsimp only
    split <;> exact ⟨rfl, rfl⟩
  · exact .refl c

/-! ## The stewards take the plan's code (16 R497) -/

theorem stewAt_stageSteward (im : PlanImage) (c : Chip) (d e : Nat) :
    (stewAt (stageSteward im c d) e).code = if e = d then im.code else (stewAt c e).code := by
  split
  · next h => subst h; rw [stageSteward, stewAt_setStew_same]
  · next h => rw [stageSteward, stewAt_setStew_ne _ _ h]; rfl

theorem code_foldl_stageSteward (im : PlanImage) (l : List Nat) (c : Chip) (d : Nat) :
    (stewAt (l.foldl (stageSteward im) c) d).code = if d ∈ l then im.code else (stewAt c d).code := by
  induction l generalizing c with
  | nil => rfl
  | cons e l ih =>
    rw [List.foldl_cons, ih, stewAt_stageSteward]
    by_cases hd : d = e <;> simp [hd]

/-- Slack shortfalls are reported and change nothing else (11 R342). -/
theorem slackChecks_frame (c : Chip) : slackChecks c = { c with err := (slackChecks c).err } := by
  have hfold : ∀ (l : List Nat) (c : Chip), l.foldl slackCheck c = { c with err := (l.foldl slackCheck c).err } := by
    intro l
    induction l with
    | nil => intro c; rfl
    | cons p l ih =>
      intro c
      rw [List.foldl_cons, ih]
      unfold slackCheck
      dsimp only
      split <;> rfl
  exact hfold _ c

section
variable (c : Chip)

theorem slackChecks_regs : (slackChecks c).regs = c.regs := by rw [slackChecks_frame]
theorem slackChecks_tiles : (slackChecks c).tiles = c.tiles := by rw [slackChecks_frame]
theorem slackChecks_stew : (slackChecks c).stew = c.stew := by rw [slackChecks_frame]
@[simp] theorem slackChecks_plan : (slackChecks c).plan = c.plan := by rw [slackChecks_frame]
@[simp] theorem slackChecks_reg (k : Nat) : reg (slackChecks c) k = reg c k := reg_of_regs (slackChecks_regs c) k

@[simp] theorem slackChecks_tileAt (site : Nat) : tileAt (slackChecks c) site = tileAt c site := by
  unfold tileAt
  rw [slackChecks_tiles]

@[simp] theorem slackChecks_stewAt (d : Nat) : stewAt (slackChecks c) d = stewAt c d := by
  unfold stewAt
  rw [slackChecks_stew]

end

@[simp] theorem noticeDigest_tileAt (b c : Chip) (site : Nat) : tileAt (noticeDigest b c) site = tileAt c site := by
  unfold tileAt
  rw [noticeDigest_tiles]

@[simp] theorem noticeDigest_stewAt (b c : Chip) (d : Nat) : stewAt (noticeDigest b c) d = stewAt c d := by
  have hstew : (noticeDigest b c).stew = c.stew := by rw [noticeDigest_frame]
  unfold stewAt
  rw [hstew]

/-! ## A load ends (06 R165) -/

/-- The chip of a load's phase 6 before any tile is bound. -/
def clearedChip (im : PlanImage) (pl : Place) (c : Chip) : Chip :=
  clearOpc { c with tiles := [], plan := { Plan.reset with state := .loaded, image := some im, place := some pl } }

/-- The chip of a load's phase 6 before its entries are written. -/
def stagedChip (im : PlanImage) (pl : Place) (c : Chip) : Chip :=
  (List.range 4).foldl (stageSteward im) (copyInitial im (zeroFill (bindTiles im pl (clearedChip im pl c))))

theorem planKept_stagedChip (im : PlanImage) (pl : Place) (c : Chip) :
    PlanKept (bindTiles im pl (clearedChip im pl c)) (stagedChip im pl c) :=
  ((planKept_zeroFill _).trans (planKept_copyInitial im _)).trans (.foldl (f := stageSteward im) (fun _ _ => ⟨rfl, rfl⟩) _ _)

theorem stagedChip_plan (im : PlanImage) (pl : Place) (c : Chip) :
    (stagedChip im pl c).plan = { Plan.reset with state := .loaded, image := some im, place := some pl } := by
  rw [(planKept_stagedChip im pl c).plan, bindTiles_plan]
  rfl

theorem tileAt_stagedChip (im : PlanImage) (pl : Place) (c : Chip) (site : Nat) :
    tileAt (stagedChip im pl c) site = tileAt (bindTiles im pl (clearedChip im pl c)) site := by
  rw [tileAt, (planKept_stagedChip im pl c).tiles]
  rfl

/-- Phase 6 with its entries written. -/
def loadedChip (im : PlanImage) (pl : Place) (c : Chip) : Chip :=
  setReg (setReg (stagedChip im pl c) (key 0x8030 4) 0) (key 0x2010 4) im.hdr.stepLen

/-- What phase 6 leaves is that, with notices on the ports and shortfalls reported. -/
theorem stagePlan_eq (im : PlanImage) (pl : Place) (c : Chip) :
    stagePlan im pl c = slackChecks (noticeDigest c (loadedChip im pl c)) := rfl

section
variable (im : PlanImage) (pl : Place) (c : Chip)

theorem stagePlan_plan :
    (stagePlan im pl c).plan = { Plan.reset with state := .loaded, image := some im, place := some pl } := by
  rw [stagePlan_eq, slackChecks_plan, noticeDigest_plan, loadedChip, setReg_plan, setReg_plan, stagedChip_plan]

theorem tileAt_stagePlan (site : Nat) :
    tileAt (stagePlan im pl c) site = tileAt (bindTiles im pl (clearedChip im pl c)) site := by
  rw [stagePlan_eq, slackChecks_tileAt, noticeDigest_tileAt, loadedChip, setReg_tileAt, setReg_tileAt, tileAt_stagedChip]

theorem code_stagePlan {d : Nat} (hd : d < 4) : (stewAt (stagePlan im pl c) d).code = im.code := by
  rw [stagePlan_eq, slackChecks_stewAt, noticeDigest_stewAt, loadedChip, setReg_stewAt, setReg_stewAt, stagedChip,
    code_foldl_stageSteward, if_pos (List.mem_range.mpr hd)]

theorem reg_stagePlan (k : Nat) : reg (stagePlan im pl c) k = reg (loadedChip im pl c) k := by
  rw [stagePlan_eq, slackChecks_reg, noticeDigest_reg]

end

/-- A load whose phases are all done: the plan Loaded and its tiles bound. -/
theorem loadEnds {s : State} {l : Loading} (h : Quiet s) (hload : s.chip.plan.loading = some l) (hphase : l.phase = 6)
    (hcmd : l.cmd = 1) {im : PlanImage} {pl : Place} (himage : l.image = some im) (hplace : l.place = some pl) :
    Answers .loadComplete s (fun t => LoadEnded 0 0 t ∧ TilesBound im pl t.chip ∧ t.chip.plan.state = .loaded ∧
      t.chip.plan.image = some im ∧ t.chip.plan.place = some pl ∧ reg t.chip (key 0x2010 4) = im.hdr.stepLen ∧
      reg t.chip (key 0x8030 4) = 0 ∧ (∀ d < 4, (stewAt t.chip d).code = im.code) ∧
      (∀ site, site ∉ pl.sites → (tileAt t.chip site).ti = 0xFFFF ∧ (tileAt t.chip site).mask = 0)) := by
  have hend : endLoad s.chip (.ok l) = closeLoad (stagePlan im pl (unloading s.chip)) 0 0 := by
    simp only [endLoad, himage, hplace, hcmd]
    rfl
  have hnext := loadComplete_next h hload
  rw [runPhases_last hphase, hend] at hnext
  have hreg : ∀ k, k ∉ loadKeys → k < 0x900000 → reg (flush (closeLoad (stagePlan im pl (unloading s.chip)) 0 0)) k =
      reg (loadedChip im pl (unloading s.chip)) k := fun k hk hlow => by
    rw [flush_reg _ (.inl hlow), reg_closeLoad_ne _ 0 0 hk, reg_stagePlan]
  refine ⟨_, hnext, loadEnded_closeLoad s (by rw [stagePlan_plan]; rfl) 0 0, ?_, ?_, ?_, ?_, ?_, ?_, ?_, ?_⟩
  · intro n hn hlater
    simp only [flush_tileAt, closeLoad_tileAt, tileAt_stagePlan]
    exact tilesBound_bindTiles im pl _ n hn hlater
  · rw [flush_plan, closeLoad_plan, stagePlan_plan]
  · rw [flush_plan, closeLoad_plan, stagePlan_plan]
  · rw [flush_plan, closeLoad_plan, stagePlan_plan]
  · rw [hreg (key 0x2010 4) (by decide) (by decide), loadedChip, reg_setReg_same]
  · rw [hreg (key 0x8030 4) (by decide) (by decide), loadedChip, reg_setReg_ne _ _ (by decide), reg_setReg_same]
  · intro d hd
    rw [flush_stewAt, closeLoad_stewAt, code_stagePlan im pl _ hd]
  · intro site hsite
    rw [flush_tileAt, closeLoad_tileAt, tileAt_stagePlan, tileAt_bindTiles_ne im hsite]
    exact ⟨rfl, rfl⟩

/-- 06 R165 R182. -/
theorem loadCompletes : LoadCompletes := by
  intro s l h hload
  have hrefuses : ∀ {v : Verdict} {checks : List (Prop × Nat × Nat)}, Decides v checks →
      (∀ e, v = some e → runPhases s.fuses 6 s.chip l = (s.chip, .error e)) →
      ∀ st d, firstFails checks st d → Answers .loadComplete s (LoadFailed s st d) :=
    fun hv hrun st d hfail => loadComplete_refused h hload (hrun (st, d) (hv.fails st d hfail))
  refine ⟨?_, ?_, ?_, ?_, ?_, ?_⟩
  · intro hphase hout
    exact loadComplete_refused h hload (runPhases_error 5 (phaseWork_outside hphase hout))
  · intro hphase
    exact hrefuses (decides_verifying s l.copy) fun e he => runPhases_error 5 (phaseWork_verify hphase he)
  · intro hphase
    exact hrefuses (decides_checking s l.secs) fun e he => runPhases_error 5 (phaseWork_check hphase he)
  · intro im hphase himage
    have hchecks := decides_placing s im (deviceCount l im)
    refine ⟨hrefuses hchecks fun e he => runPhases_error 5 ?_, fun hall => ?_⟩
    · rw [phaseWork_place hphase himage, errorOf_eq_some.mp he]
    · obtain ⟨hops, hbound, hplaced⟩ := placePlan_passes (hchecks.passes hall)
      refine ⟨{ unhashed s.fuses s.chip im hops with hash := placeHash (unhashed s.fuses s.chip im hops) }, rfl, rfl, rfl, rfl, rfl,
        placeHops_rows hbound, ?_⟩
      refine hrefuses (decides_coaching s im _ (slotsBad l)) fun e he => ?_
      rw [runPhases_next 5 (by rw [phaseWork_place hphase himage, hplaced])]
      exact runPhases_error 4 (phaseWork_coach (l := { l with phase := 5, place := some _ }) rfl himage rfl he)
  · intro im pl hphase himage hplace
    exact hrefuses (decides_coaching s im pl (slotsBad l)) fun e he =>
      runPhases_error 5 (phaseWork_coach hphase himage hplace he)
  · intro im pl hphase himage hplace
    exact ⟨fun hcmd => loadEnds h hload hphase hcmd himage hplace, fun hcmd => replaceEnds h hload hphase hcmd himage hplace⟩

end Sys2Proof.Proofs
end

section
/-! PROOFS. The load command: a plan discarded, a load begun, a re-place begun (06 R164 R165 R169 R182, 05 R123). -/

namespace Sys2Proof.Proofs

open Sys2Proof Sys2Proof.Machine Sys2Proof.Claims Sys2Proof.Laws

/-! ## The write of 2020h:01 -/

/-- The row of 2020h:01. -/
def loadRow : Ent := ⟨0x2020, 0x2020, 1, 1, .u8, .wo, .halted, 0, false, false⟩

theorem entOf_load : entOf 0x2020 1 = some loadRow := by decide

/-- What a write of 2020h:01 does. -/
theorem applyWrite_load (f : Fuses) (c : Chip) (e : Ent) (b : List Byte) :
    applyWrite f c e 0x2020 1 b = writeLoad c (leNat b) := rfl

/-- Where no plan runs no cut-off is due. -/
theorem serves_of_rest {s : State} (h : Quiet s) (hrest : runs s.chip = false) : Serves s where
  toQuiet := h
  caught hrun := by
    rw [runs, hrun] at hrest
    cases hrest

/-- A load command at rest is refused for the plan's state alone (06 R164 R182, 15 R452). -/
theorem writeCode_load {f : Fuses} {c : Chip} {v : Nat} (hv : 1 ≤ v ∧ v ≤ 3) (hrest : runs c = false)
    (hload : c.plan.loading = none) (hcode : loadCode c v = 0) : writeCode f c 0x2020 1 (leBytes 1 v) = 0 := by
  have hclass : classCode c loadRow = 0 := by simp [classCode, hrest, hload]
  have hstate : stateCode c 0x2020 1 v = 0 := hcode
  have hrange : rangeOf 0x2020 1 = some ⟨0x2020, 1, 1, 1, 3, 1⟩ := by decide
  have hvalue : valueOk f loadRow 0x2020 1 v = true := by
    refine valueOk_plain rfl ?_ rfl rfl
    simp [inValueRange, hrange, hv]
  have hfit : leNat (leBytes 1 v) = v := leNat_leBytes_of_lt (by omega)
  have hagree : agrees c 0x2020 1 v = true := rfl
  simp [writeCode, entOf_load, hclass, hfit, hstate, hvalue, hagree, show loadRow.acc ≠ .ro by decide,
    show lengthOk loadRow 1 = true from rfl, show isKeySlot 0x2020 = false from rfl]

/-- A load command of a module at rest is carried out and counted. -/
theorem loadCommand_next {s : State} {v : Nat} (h : Quiet s) (hv : 1 ≤ v ∧ v ≤ 3) (hrest : runs s.chip = false)
    (hload : s.chip.plan.loading = none) (hcode : loadCode s.chip v = 0) (herr : (writeLoad s.chip v).err = s.chip.err) :
    writeRow s 0x2020 1 1 v = .next { s with chip := addReg (writeLoad s.chip v) (key 0x2002 1) 1 } := by
  have hpend : (addReg (writeLoad s.chip v) (key 0x2002 1) 1).err.pend = [] := by
    rw [addReg_err, herr]
    exact h.none
  have hrow := writeRow_accepted (serves_of_rest h hrest) entOf_load (writeCode_load (f := s.fuses) hv hrest hload hcode)
  rwa [applyWrite_load, leNat_leBytes_of_lt (by omega), flush_none hpend] at hrow

/-! ## A plan discarded (06 R164, 05 R123, 08 R221, 15 R455) -/

theorem foldl_clearSteward_frame (l : List Nat) (c : Chip) : l.foldl clearSteward c =
    { c with flaws := (l.foldl clearSteward c).flaws, stew := (l.foldl clearSteward c).stew } := by
  induction l generalizing c with
  | nil => rfl
  | cons d l ih => exact ih (clearSteward c d)

/-- A switch that a cut-off kept returns to all ones. -/
def dropSwitch (c : Chip) (e : Nat) : Chip := setReg c (key 0x7020 (e + 1)) ones64

theorem foldl_dropSwitch_frame (l : List Nat) (c : Chip) :
    l.foldl dropSwitch c = { c with regs := (l.foldl dropSwitch c).regs } := by
  induction l generalizing c with
  | nil => rfl
  | cons e l ih => exact ih (dropSwitch c e)

theorem reg_foldl_dropSwitch (l : List Nat) (c : Chip) {k : Nat} (h : k < key 0x7020 1) :
    reg (l.foldl dropSwitch c) k = reg c k := by
  induction l generalizing c with
  | nil => rfl
  | cons e l ih =>
    rw [List.foldl_cons, ih, dropSwitch, reg_setReg_ne]
    unfold key at h ⊢
    omega

section
variable (c : Chip)

theorem dropKept_eq :
    dropKept c = c.wts.kept.foldl dropSwitch { c with wts := { c.wts with kept := [], freed := [] } } := rfl

@[simp] theorem dropKept_plan : (dropKept c).plan = c.plan := by rw [dropKept_eq, foldl_dropSwitch_frame]
@[simp] theorem dropKept_tiles : (dropKept c).tiles = c.tiles := by rw [dropKept_eq, foldl_dropSwitch_frame]
@[simp] theorem dropKept_mem : (dropKept c).mem = c.mem := by rw [dropKept_eq, foldl_dropSwitch_frame]
@[simp] theorem dropKept_err : (dropKept c).err = c.err := by rw [dropKept_eq, foldl_dropSwitch_frame]
@[simp] theorem dropKept_srv : (dropKept c).srv = c.srv := by rw [dropKept_eq, foldl_dropSwitch_frame]
@[simp] theorem dropKept_dir : (dropKept c).wts.dir = c.wts.dir := by rw [dropKept_eq, foldl_dropSwitch_frame]

theorem reg_dropKept {k : Nat} (h : k < key 0x7020 1) : reg (dropKept c) k = reg c k := by
  rw [dropKept_eq, reg_foldl_dropSwitch _ _ h]
  exact reg_of_regs rfl k

/-- The chip whose plan is discarded, before the entries of serving and of the step length. -/
def discardedChip : Chip :=
  let d := (List.range 4).foldl clearSteward (cancelCommit c)
  dropKept { d with plan := Plan.reset, seqs := [], tiles := [], acts := [], flying := [], pools := [],
                    acc := { Acc.reset with counts := d.acc.counts }, srv := keepWindow d.srv, det := clearCapture d.det }

theorem discardPlan_eq : discardPlan c = noticeDigest c (setReg (setReg (discardedChip c) (key 0x6000 1) 0) (key 0x2010 4) 0) := rfl

@[simp] theorem discardPlan_plan : (discardPlan c).plan = Plan.reset := by
  rw [discardPlan_eq, noticeDigest_plan, setReg_plan, setReg_plan, discardedChip, dropKept_plan]

@[simp] theorem discardPlan_tiles : (discardPlan c).tiles = [] := by
  rw [discardPlan_eq, noticeDigest_tiles, setReg_tiles, setReg_tiles, discardedChip, dropKept_tiles]

@[simp] theorem discardPlan_mem : (discardPlan c).mem = c.mem := by
  rw [discardPlan_eq, noticeDigest_mem, setReg_mem, setReg_mem, discardedChip, dropKept_mem, foldl_clearSteward_frame]
  rfl

@[simp] theorem discardPlan_err : (discardPlan c).err = c.err := by
  rw [discardPlan_eq, noticeDigest_err, setReg_err, setReg_err, discardedChip, dropKept_err, foldl_clearSteward_frame]
  rfl

@[simp] theorem discardPlan_dir : (discardPlan c).wts.dir = c.wts.dir := by
  have hnotice : ∀ b d : Chip, (noticeDigest b d).wts = d.wts := fun b d => by rw [noticeDigest_frame]
  rw [discardPlan_eq, hnotice, setReg_wts, setReg_wts, discardedChip, dropKept_dir, foldl_clearSteward_frame]
  rfl

@[simp] theorem discardPlan_sess : (discardPlan c).srv.sess = [] := by
  have hnotice : ∀ b d : Chip, (noticeDigest b d).srv = d.srv := fun b d => by rw [noticeDigest_frame]
  rw [discardPlan_eq, hnotice, setReg_srv, setReg_srv, discardedChip, dropKept_srv]
  rfl

theorem reg_discardPlan {k : Nat} (hlow : k < key 0x7020 1) (hserve : k ≠ key 0x6000 1) (hlength : k ≠ key 0x2010 4) :
    reg (discardPlan c) k = if k = key 0x2000 2 then ones64 else reg c k := by
  rw [discardPlan_eq, noticeDigest_reg, reg_setReg_ne _ _ hlength, reg_setReg_ne _ _ hserve, discardedChip, reg_dropKept _ hlow]
  have hregs : ((List.range 4).foldl clearSteward (cancelCommit c)).regs = (cancelCommit c).regs := by
    rw [foldl_clearSteward_frame]
  refine (reg_of_regs hregs k).trans ?_
  rw [cancelCommit, reg_setReg]
  rfl

theorem reg_discardPlan_serve : reg (discardPlan c) (key 0x6000 1) = 0 ∧ reg (discardPlan c) (key 0x2010 4) = 0 := by
  constructor
  · rw [discardPlan_eq, noticeDigest_reg, reg_setReg_ne _ _ (by decide), reg_setReg_same]
  · rw [discardPlan_eq, noticeDigest_reg, reg_setReg_same]

end

/-- The module is empty: no plan, no placement, no session, every tile parked (06 R164, 05 R123). -/
def Emptied (s t : State) : Prop :=
  t.chip.plan.image = none ∧ t.chip.plan.place = none ∧
    (∀ site, (tileAt t.chip site).ti = 0xFFFF ∧ (tileAt t.chip site).mask = 0) ∧
    t.chip.plan.state = .empty ∧ t.chip.srv.sess = [] ∧ reg t.chip (key 0x6000 1) = 0 ∧ reg t.chip (key 0x2010 4) = 0 ∧
    reg t.chip (key 0x2000 2) = 2 ^ 64 - 1 ∧ served s t

theorem tileAt_of_no_tiles {c : Chip} (h : c.tiles = []) (site : Nat) : tileAt c site = Tile.reset := by
  rw [tileAt, h]
  rfl

/-- A chip without plan, tiles and sessions is one whose plan was discarded, where its entries are those, but for what a load
writes. -/
theorem emptied_counted {s : State} {d : Chip} (himage : d.plan.image = none) (hplace : d.plan.place = none)
    (hstate : d.plan.state = .empty) (htiles : d.tiles = []) (hsess : d.srv.sess = [])
    (hreg : ∀ k, k ∉ loadKeys → reg d k = reg (discardPlan s.chip) k) :
    Emptied s { s with chip := addReg d (key 0x2002 1) 1 } := by
  obtain ⟨hserve, hlength⟩ := reg_discardPlan_serve s.chip
  refine ⟨himage, hplace, fun site => ?_, hstate, hsess, ?_, ?_, ?_, ?_⟩
  · rw [addReg_tileAt, tileAt_of_no_tiles htiles]
    exact ⟨rfl, rfl⟩
  · rw [reg_addReg_ne _ _ (by decide), hreg _ (by decide), hserve]
  · rw [reg_addReg_ne _ _ (by decide), hreg _ (by decide), hlength]
  · rw [reg_addReg_ne _ _ (by decide), hreg _ (by decide), reg_discardPlan _ (by decide) (by decide) (by decide), if_pos rfl]
    rfl
  · rw [Claims.served, reg_addReg_same, hreg _ (by decide), reg_discardPlan _ (by decide) (by decide) (by decide), if_neg (by decide)]
    rfl

/-! ## The three commands -/

/-- UNLOAD of a plan that is held (06 R164 R169). -/
theorem planUnload_answers {s : State} (h : Quiet s) (hrest : runs s.chip = false) (hload : s.chip.plan.loading = none)
    (himport : s.chip.det.importing = none) (hheld : s.chip.plan.state ≠ .empty) :
    Answers .planUnload s (fun t => Emptied s t ∧ t.chip.mem = s.chip.mem ∧ t.chip.plan = Plan.reset ∧
      t.chip.wts.dir = s.chip.wts.dir ∧ t.chip.err = s.chip.err) := by
  have hdoes : writeLoad s.chip 2 = discardPlan s.chip := by
    rw [writeLoad, if_neg (by decide), if_pos rfl, unloadPlan, if_neg hheld]
  have hcode : loadCode s.chip 2 = 0 := by simp [loadCode, himport]
  have hnext := loadCommand_next h (v := 2) (by decide) hrest hload hcode (by rw [hdoes, discardPlan_err])
  rw [hdoes] at hnext
  refine ⟨_, hnext, emptied_counted ?_ ?_ ?_ (discardPlan_tiles _) (discardPlan_sess _) fun _ _ => rfl, ?_, ?_, ?_, ?_⟩
  · rw [discardPlan_plan]; rfl
  · rw [discardPlan_plan]; rfl
  · rw [discardPlan_plan]; rfl
  · rw [Laws.addReg_mem, discardPlan_mem]
  · rw [addReg_plan, discardPlan_plan]
  · rw [addReg_wts, discardPlan_dir]
  · rw [addReg_err, discardPlan_err]

section
variable (c : Chip)

theorem startLoad_plan : (startLoad c).plan = { Plan.reset with loading := some ⟨1, 1, [], [], none, none⟩ } :=
  congrArg (fun p : Plan => { p with loading := some ⟨1, 1, [], [], none, none⟩ }) (discardPlan_plan c)

theorem startLoad_tiles : (startLoad c).tiles = [] := discardPlan_tiles c

theorem startLoad_sess : (startLoad c).srv.sess = [] := discardPlan_sess c

theorem startLoad_err : (startLoad c).err = c.err := discardPlan_err c

/-- The entries that a load's begin writes: in progress, in phase 1. -/
theorem reg_startLoad : reg (startLoad c) (key 0x2020 4) = 1 ∧ reg (startLoad c) (key 0x2020 7) = 1 := by
  obtain ⟨hstatus, -, -⟩ := reg_setLoad (discardPlan c) 1 0 1
  refine ⟨?_, reg_setReg_same ..⟩
  rw [startLoad, setLoading, reg_setReg_ne _ _ (by decide)]
  exact (reg_of_regs rfl _).trans hstatus

theorem reg_startLoad_ne {k : Nat} (h : k ∉ loadKeys) : reg (startLoad c) k = reg (discardPlan c) k := by
  have hphase : k ≠ key 0x2020 7 := fun hk => h (by rw [hk]; decide)
  rw [startLoad, setLoading, reg_setReg_ne _ _ hphase]
  exact (reg_of_regs rfl k).trans (reg_setLoad_ne (discardPlan c) 1 0 1 h)

end

/-- LOAD (06 R164 R165). -/
theorem planLoad_answers {s : State} (h : Quiet s) (hrest : runs s.chip = false) (hload : s.chip.plan.loading = none)
    (himport : s.chip.det.importing = none) : Answers .planLoad s (fun t => Emptied s t ∧
      reg t.chip (key 0x2020 4) = 1 ∧ reg t.chip (key 0x2020 7) = 1 ∧ t.chip.srv.window = [] ∧
      t.chip.plan.loading = some ⟨1, 1, [], [], none, none⟩) := by
  have hdoes : writeLoad s.chip 1 = startLoad s.chip := rfl
  have hcode : loadCode s.chip 1 = 0 := by simp [loadCode, himport]
  have hnext := loadCommand_next h (v := 1) (by decide) hrest hload hcode (startLoad_err _)
  rw [hdoes] at hnext
  obtain ⟨hstatus, hphase⟩ := reg_startLoad s.chip
  refine ⟨_, hnext, emptied_counted ?_ ?_ ?_ (startLoad_tiles _) (startLoad_sess _) fun _ => reg_startLoad_ne s.chip,
    ?_, ?_, rfl, rfl⟩
  · rw [startLoad_plan]; rfl
  · rw [startLoad_plan]; rfl
  · rw [startLoad_plan]; rfl
  · rw [reg_addReg_ne _ _ (by decide), hstatus]
  · rw [reg_addReg_ne _ _ (by decide), hphase]

/-- RE-PLACE of a plan at rest (06 R182). -/
theorem replace_answers {s : State} (h : Quiet s) (hrest : runs s.chip = false) (hload : s.chip.plan.loading = none)
    (himport : s.chip.det.importing = none) (hheld : s.chip.plan.state = .loaded ∨ s.chip.plan.state = .halted) :
    Answers .replace s (fun t => served s t ∧ reg t.chip (key 0x2020 4) = 1 ∧ reg t.chip (key 0x2020 7) = 4 ∧
      t.chip.tiles = s.chip.tiles ∧ t.chip.mem = s.chip.mem ∧
      t.chip.plan = { s.chip.plan with loading := some ⟨3, 4, [], [], s.chip.plan.image, none⟩ }) := by
  have hdoes : writeLoad s.chip 3 = startReplace s.chip := rfl
  have hcode : loadCode s.chip 3 = 0 := by
    rcases hheld with hstate | hstate <;> simp [loadCode, himport, hstate]
  have hnext := loadCommand_next h (v := 3) (by decide) hrest hload hcode rfl
  rw [hdoes] at hnext
  obtain ⟨hstatus, -, -⟩ := reg_setLoad s.chip 1 0 4
  have hother : ∀ k, k ≠ key 0x2020 7 → reg (startReplace s.chip) k = reg (setLoad s.chip 1 0 4) k := fun k hk => by
    rw [startReplace, setLoading, reg_setReg_ne _ _ hk]
    exact reg_of_regs rfl k
  refine ⟨_, hnext, ?_, ?_, ?_, rfl, rfl, rfl⟩
  · rw [Claims.served, reg_addReg_same, hother _ (by decide), reg_setLoad_ne _ _ _ _ (by decide)]
    rfl
  · rw [reg_addReg_ne _ _ (by decide), hother _ (by decide), hstatus]
  · rw [reg_addReg_ne _ _ (by decide), startReplace, setLoading, reg_setReg_same]

/-- 06 R164 R165 R169 R182, 05 R123. -/
theorem planLoads : PlanLoads := fun _ h hrest hload himport =>
  ⟨planUnload_answers h hrest hload himport, planLoad_answers h hrest hload himport, replace_answers h hrest hload himport⟩

/-- Settles O56: the load command by what it discards and begins; the end of a load by the verdict of the phase in hand, which
is that of its checks in their order, and by what phase 6 puts into force. -/
theorem planLoading : Obligations.PlanLoading := ⟨planLoads, loadCompletes⟩

end Sys2Proof.Proofs
end

section
/-! PROOFS. The parts of the chip that every step keeps in form, and the functions that write them (07 R200). -/

namespace Sys2Proof.Proofs

open Sys2Proof Sys2Proof.Machine Sys2Proof.Claims Sys2Proof.Laws

/-- The parts of the chip that `Kept` speaks of: memory and its stored errors in canonical form, four of what there is one of
for
each die, two decoders. -/
structure Forms (mem : List Host.Cell) (ecc : SMap EccMark) (temps : List Nat) (warned tripped : List Bool)
    (jobs : List (List Job)) (job : List (Option Job)) (hdm : List Hdm) : Prop where
  mem : Memory.wf mem = true
  ecc : smWf EccMark.none ecc = true
  temps : temps.length = 4
  warned : warned.length = 4
  tripped : tripped.length = 4
  jobs : jobs.length = 4
  job : job.length = 4
  hdm : hdm.length = 2

/-- `Kept`, said of the chip alone (`kept_iff_formed`). -/
def Formed (c : Chip) : Prop :=
  Forms c.mem c.ecc c.power.temps c.power.warned c.power.tripped c.srv.jobs c.srv.job c.host.hdm

variable {c d : Chip}

/-! ## Updates of the chip

A lemma for each kind of update of the record. It is stated field by field, so that unification reads the chip that is updated
off the goal. -/

/-- An update of other parts than memory, its errors, power, serving and the host port. -/
theorem formed_update {count regs shadow blobs commitCopy eng err plan seqs tiles acts flying poison flaws wbDue late pools acc
    wts time ports fab det stew sec out free} (h : Formed c) :
    Formed ⟨c.power, count, regs, shadow, blobs, commitCopy, eng, err, plan, seqs, tiles, acts, flying, c.mem, poison, c.ecc,
    flaws, wbDue,
      late, pools, acc, c.srv, wts, time, ports, fab, det, stew, c.host, sec, out, free⟩ := h

/-- An update of serving besides, but for the samplers' jobs. -/
theorem formed_updateSrv {count regs shadow blobs commitCopy eng err plan seqs tiles acts flying poison flaws wbDue late pools acc
    wts time ports fab det stew sec out free sess snap dir blocks refs nodes prompts admSeq tables window region readDone work
    backlog cmdDue held} (h : Formed c) :
    Formed ⟨c.power, count, regs, shadow, blobs, commitCopy, eng, err, plan, seqs, tiles, acts, flying, c.mem, poison, c.ecc,
    flaws, wbDue,
      late, pools, acc, ⟨sess, snap, dir, blocks, refs, nodes, prompts, admSeq, tables, window, region, readDone, work,
      backlog,
      cmdDue, c.srv.jobs, c.srv.job, held⟩, wts, time, ports, fab, det, stew, c.host, sec, out, free⟩ := h

/-- An update of the host port, but for its decoders. -/
theorem formed_updateHost {count regs shadow blobs commitCopy eng err plan seqs tiles acts flying poison flaws wbDue late pools acc
    wts time ports fab det stew sec out free bme d3 msix msixPend ideGo ideKeys mirrorOwed fired ideHalt mse bar0 msixOn
    funcMask ideSet aerUnc rasUnc rasCor comp} (h : Formed c) :
    Formed ⟨c.power, count, regs, shadow, blobs, commitCopy, eng, err, plan, seqs, tiles, acts, flying, c.mem, poison, c.ecc,
    flaws, wbDue,
      late, pools, acc, c.srv, wts, time, ports, fab, det, stew,
      ⟨bme, d3, c.host.hdm, msix, msixPend, ideGo, ideKeys, mirrorOwed, fired, ideHalt, mse, bar0, msixOn, funcMask, ideSet,
      aerUnc,
        rasUnc, rasCor, comp⟩, sec, out, free⟩ := h

/-- An update of power, but for what there is one of for each die. -/
theorem formed_updatePower {count regs shadow blobs commitCopy eng err plan seqs tiles acts flying poison flaws wbDue late pools acc
    wts time ports fab det stew sec out free good phase straps trip scan boot badPrims rngBad tested} (h : Formed c) :
    Formed ⟨⟨good, phase, straps, c.power.temps, c.power.warned, trip, c.power.tripped, scan, boot, badPrims, rngBad,
    tested⟩, count, regs,
      shadow, blobs, commitCopy, eng, err, plan, seqs, tiles, acts, flying, c.mem, poison, c.ecc, flaws, wbDue, late, pools,
      acc,
      c.srv, wts, time, ports, fab, det, stew, c.host, sec, out, free⟩ := h

/-- An update besides that ends serving but for its window. -/
theorem formed_keepWindow {count regs shadow blobs commitCopy eng err plan seqs tiles acts flying poison flaws wbDue late pools acc
    wts time ports fab det stew sec out free} (h : Formed c) :
    Formed ⟨c.power, count, regs, shadow, blobs, commitCopy, eng, err, plan, seqs, tiles, acts, flying, c.mem, poison, c.ecc,
    flaws, wbDue,
      late, pools, acc, keepWindow c.srv, wts, time, ports, fab, det, stew, c.host, sec, out, free⟩ :=
  { h with jobs := rfl, job := rfl }

/-! ## Choices and runs over lists -/

theorem formed_ite {p : Prop} [Decidable p] (hc : Formed c) (hd : Formed d) : Formed (if p then c else d) := by
  split
  · exact hc
  · exact hd

/-- A run over a list of a state that holds a chip. -/
theorem formed_foldl_at {σ α : Type} (chip : σ → Chip) {f : σ → α → σ} {l : List α} {x : σ}
    (hf : ∀ x y, Formed (chip x) → Formed (chip (f x y))) (h : Formed (chip x)) : Formed (chip (l.foldl f x)) := by
  induction l generalizing x with
  | nil => exact h
  | cons y t ih => exact ih (hf x y h)

theorem formed_foldl {α : Type} {f : Chip → α → Chip} {l : List α} (hf : ∀ c x, Formed c → Formed (f c x))
    (h : Formed c) : Formed (l.foldl f c) :=
  formed_foldl_at id hf h

theorem formed_foldl_fst {α β : Type} {f : Chip × β → α → Chip × β} {l : List α} {x : Chip × β}
    (hf : ∀ x y, Formed x.1 → Formed (f x y).1) (h : Formed x.1) : Formed (l.foldl f x).1 :=
  formed_foldl_at Prod.fst hf h

/-! ## Functions that take an operation of the chip -/

theorem formed_onSites {i f} (hf : ∀ c site, Formed c → Formed (f c site)) (h : Formed c) : Formed (onSites c i f) :=
  formed_foldl hf h

theorem formed_inTiles {f us} (hf : ∀ c u, Formed c → Formed (f c u).1) (h : Formed c) : Formed (inTiles f c us).1 := by
  induction us generalizing c with
  | nil => exact h
  | cons u rest ih => exact ih (hf c u h)

theorem formed_stageActs {f acts} (hf : ∀ a c u, Formed c → Formed (f a c u).1) (h : Formed c) :
    Formed (stageActs f acts c).1 := by
  induction acts generalizing c with
  | nil => exact h
  | cons a rest ih => exact ih (formed_inTiles (hf a) h)

theorem formed_withStage {f} (hf : ∀ a c u, Formed c → Formed (f a c u).1) (h : Formed c) : Formed (withStage f c) :=
  formed_update (formed_stageActs hf h)

theorem formed_hdmAccess {f} (hf : ∀ c, Formed c → Formed (f c)) (h : Formed c) : Formed (hdmAccess c f) :=
  formed_ite h (formed_ite h (hf c h))

theorem formed_doeServe {n f} (hf : ∀ c, Formed c → Formed (f c)) (h : Formed c) : Formed (doeServe n f c) :=
  formed_ite h (formed_ite (hf c h) h)

theorem formed_storeWrite {f} (hf : ∀ c, Formed c → Formed (f c)) (h : Formed c) : Formed (storeWrite c f).1 := by
  unfold storeWrite
  split
  · split
    · exact h
    · exact hf _ h
  · exact hf _ h

theorem formed_regionPass {take act x} (hf : ∀ c st r, Formed c → Formed (act c st r).1) (h : Formed x.1) :
    Formed (regionPass take act x).1 := by
  refine formed_foldl_fst (fun x y hx => formed_foldl_fst (fun z w hz => ?_) hx) h
  dsimp only
  split
  · exact hf _ _ _ hz
  · exact hz

/-! ## Memory and its stored errors -/

theorem formed_clearMark {g} (h : Formed c) : Formed (clearMark c g) :=
  { h with ecc := smWf_smErase _ _ g h.ecc }

theorem formed_markGran {a mask unc} (h : Formed c) : Formed (markGran c a mask unc) :=
  { h with ecc := smWf_smSet _ _ _ _ h.ecc }

theorem formed_storeGran {a b p} (h : Formed c) : Formed (storeGran c a b p) :=
  formed_clearMark { h with mem := wf_setBytes _ _ _ h.mem }

theorem formed_writeBack {g} (h : Formed c) : Formed (writeBack c g) :=
  formed_ite { formed_clearMark h with mem := wf_setBytes _ _ _ h.mem } (formed_clearMark h)

theorem formed_writeGranWords {site g ws hurt before} (h : Formed c) : Formed (writeGranWords c site g ws hurt before) :=
  { h with mem := wf_setBytes _ _ _ h.mem, ecc := smWf_smSet _ _ _ _ h.ecc }

theorem formed_zeroSpan {lo n} (h : Formed c) : Formed (zeroSpan c lo n) :=
  { h with mem := wf_filter _ _ h.mem, ecc := smWf_filter _ _ _ h.ecc }

theorem formed_clearOpc (h : Formed c) : Formed (clearOpc c) :=
  { h with mem := wf_filter _ _ h.mem, ecc := smWf_filter _ _ _ h.ecc }

/-! ## What there is one of for each die or decoder -/

theorem formed_takeTemp {n t} (h : Formed c) : Formed (takeTemp c n t) :=
  { h with temps := by rw [takeTemp, listSet]; exact (List.length_set ..).trans h.temps }

theorem Formed.setWarned {n b} (h : Formed c) :
    Formed { c with power := { c.power with warned := listSet c.power.warned n b } } :=
  { h with warned := (List.length_set ..).trans h.warned }

theorem formed_warnCheck {n t} (h : Formed c) : Formed (warnCheck c n t) := formed_ite h.setWarned (formed_ite h.setWarned h)

theorem formed_tripOutput {n t} (h : Formed c) : Formed (tripOutput c n t) :=
  formed_ite { h with tripped := (List.length_set ..).trans h.tripped } h

theorem formed_wiped {good ph} (h : Formed c) : Formed (wiped c good ph) := by
  have htripped : (if good then c.power.tripped else Power.reset.tripped).length = 4 := by
    split
    · exact h.tripped
    · rfl
  exact ⟨rfl, rfl, rfl, rfl, htripped, rfl, rfl, rfl⟩

theorem formed_holdGran {a} (h : Formed c) : Formed (holdGran c a) := { h with job := (List.length_map ..).trans h.job }

theorem formed_fDecoder {n base size skip ways} (h : Formed c) : Formed (fDecoder n base size skip ways c) :=
  formed_ite { h with hdm := (List.length_set ..).trans h.hdm } h

theorem formed_compStore {o set v} (h : Formed c) : Formed (compStore c o set v) := by
  unfold compStore
  split
  · exact h
  · exact formed_ite h (formed_ite h (formed_ite { h with hdm := (List.length_set ..).trans h.hdm } h))

theorem formed_hostReset (h : Formed c) : Formed (hostReset c) := { h with hdm := rfl }

theorem formed_ideReport (h : Formed c) : Formed (ideReport c) := by
  have hhdm : (ideReport c).host.hdm = c.host.hdm := by
    unfold ideReport
    dsimp only
    split
    · rfl
    · rfl
  exact { h with hdm := hhdm ▸ h.hdm }

end Sys2Proof.Proofs
end

section
/-! PROOFS. The tiles, memory and the error log keep the chip in form (07 R200). -/

namespace Sys2Proof.Proofs

open Sys2Proof Sys2Proof.Machine Sys2Proof.Claims Sys2Proof.Laws

/-! ## Entries -/

theorem formed_setReg {c k v} (h : Formed c) : Formed (setReg c k v) := formed_update h

theorem formed_addReg {c k n} (h : Formed c) : Formed (addReg c k n) := formed_setReg h

theorem formed_addReg32 {c k n} (h : Formed c) : Formed (addReg32 c k n) := formed_setReg h

/-! ## The error log -/

theorem formed_emit {c o} (h : Formed c) : Formed (emit c o) := formed_update h

theorem formed_fireMsix {c v} (h : Formed c) : Formed (fireMsix c v) := formed_ite (formed_update h) (formed_emit h)

theorem formed_sendPending {c} (h : Formed c) : Formed (sendPending c) :=
  formed_foldl (fun _ _ hx => formed_ite hx (formed_emit (formed_update hx))) h

theorem formed_reportI {injected c code loc w detail} (h : Formed c) : Formed (reportI injected c code loc w detail) :=
  formed_update h

theorem formed_report {c code loc w detail} (h : Formed c) : Formed (report c code loc w detail) := formed_reportI h

theorem formed_reportOnce {c kind unit code loc w detail} (h : Formed c) :
    Formed (reportOnce c kind unit code loc w detail) :=
  formed_ite h (formed_report (formed_update h))

theorem formed_announceMsix {c cls} (h : Formed c) : Formed (announceMsix c cls) :=
  formed_ite (formed_fireMsix (formed_update h)) h

theorem formed_announceCan {c r} (h : Formed c) : Formed (announceCan c r) :=
  formed_ite (formed_ite (formed_update h) (formed_addReg h)) h

theorem formed_announce {c r} (h : Formed c) : Formed (announce c r) := formed_announceCan (formed_announceMsix h)

theorem formed_countOcc {c cls} (h : Formed c) : Formed (countOcc c cls) := by
  unfold countOcc
  extract_lets c1 cap
  have hc1 : Formed c1 := formed_addReg h
  exact formed_update hc1

theorem formed_takeCap {c r takes} (h : Formed c) : Formed (takeCap c r takes) := formed_ite (formed_update h) h

theorem formed_storeRec {c r takes} (h : Formed c) : Formed (storeRec c r takes) :=
  formed_ite (formed_announce (formed_takeCap (formed_update h))) (formed_takeCap (formed_addReg (formed_update h)))

theorem formed_occur {c o} (h : Formed c) : Formed (occur c o) := by
  unfold occur
  extract_lets takes c1 _ r
  have hc1 : Formed c1 := formed_countOcc h
  split
  · exact formed_update hc1
  · exact formed_storeRec (formed_setReg hc1)

theorem formed_flush {c} (h : Formed c) : Formed (flush c) := by
  unfold flush
  split
  · exact h
  · exact formed_foldl (fun _ _ hx => formed_occur hx) (formed_update h)

theorem formed_unlatch {c} (h : Formed c) : Formed (unlatch c) := by
  unfold unlatch
  extract_lets _ c1
  have hc1 : Formed c1 := formed_update h
  split
  · exact formed_fireMsix (formed_update hc1)
  · exact hc1

theorem formed_bump {c k n} (h : Formed c) : Formed (bump c k n) := formed_update h

theorem formed_countThrottled {c t} (h : Formed c) : Formed (countThrottled c t) :=
  formed_foldl (fun _ _ hx => formed_ite hx (formed_addReg hx)) h

theorem formed_acquireAnew {c} (h : Formed c) : Formed (acquireAnew c) := by
  unfold acquireAnew
  extract_lets _ c1
  have hc1 : Formed c1 := formed_update h
  exact formed_ite hc1 (formed_setReg hc1)

theorem formed_reach {c t} (h : Formed c) : Formed (reach c t) := formed_ite (formed_update (formed_countThrottled h)) h

/-! ## Injected errors -/

theorem formed_setInj {c st} (h : Formed c) : Formed (setInj c st) := formed_setReg h

theorem formed_spendInj {c j} (h : Formed c) : Formed (spendInj c j) :=
  formed_ite (formed_setInj (formed_update h)) (formed_setInj (formed_update h))

theorem formed_dropFlaw {c x} (h : Formed c) : Formed (dropFlaw c x) := formed_update h

theorem formed_dropFlaws {c p} (h : Formed c) : Formed (dropFlaws c p) := formed_update h

theorem formed_controlCheck {c die unit w} (h : Formed c) : Formed (controlCheck c die unit w) :=
  formed_ite (formed_report (formed_dropFlaw h)) h

theorem formed_freeBytes {c n} (h : Formed c) : Formed (freeBytes c n).1 := formed_update h

theorem formed_freeNumber {c} (h : Formed c) : Formed (freeNumber c).1 := formed_update h

/-! ## Memory -/

theorem formed_onDieCheck {c a w} (h : Formed c) : Formed (onDieCheck c a w) := by
  unfold onDieCheck
  split
  · exact formed_ite (formed_report (formed_addReg (formed_dropFlaw h))) h
  · exact h

theorem formed_readGran {c a w scrub} (h : Formed c) : Formed (readGran c a w scrub).1 := by
  unfold readGran
  extract_lets d m c1 due
  have hc1 : Formed c1 := formed_onDieCheck h
  split
  · exact formed_onDieCheck h
  · split
    · split <;> exact formed_update (formed_reportI (formed_addReg hc1))

theorem formed_markInjected {c a j} (h : Formed c) : Formed (markInjected c a j) := by
  unfold markInjected
  split
  · exact formed_markGran h
  · exact formed_markGran h
  · exact formed_ite (formed_markGran h) (formed_markGran h)
  · exact formed_markGran h

theorem formed_injectWrite {c a} (h : Formed c) : Formed (injectWrite c a) := by
  unfold injectWrite
  split
  · exact formed_markInjected (formed_spendInj h)
  · exact h

theorem formed_writeGran {c a d p} (h : Formed c) : Formed (writeGran c a d p) := formed_injectWrite (formed_storeGran h)

theorem formed_writePart {c a b en p} (h : Formed c) : Formed (writePart c a b en p) :=
  formed_ite (formed_writeGran h) (formed_writeGran (formed_readGran h))

theorem formed_soilPage {c rn page} (h : Formed c) : Formed (soilPage c rn page) := formed_ite (formed_update h) h

theorem formed_soilFrame {c a} (h : Formed c) : Formed (soilFrame c a) := by
  unfold soilFrame
  split
  · exact formed_foldl (fun _ _ hx => formed_soilPage hx) h
  · exact h

theorem formed_refuseAccess {c a who die} (h : Formed c) : Formed (refuseAccess c a who die) :=
  formed_report (formed_addReg h)

theorem formed_bgRead {f c a who die} (h : Formed c) : Formed (bgRead f c a who die).1 := by
  unfold bgRead
  extract_lets a1 r b
  have hr : Formed r.1 := formed_readGran h
  have hb : Formed b.1 := formed_freeBytes hr
  split
  · split
    · exact hb
    · exact hr
  · exact formed_refuseAccess h

theorem formed_bgWrite {f c a d en p who die} (h : Formed c) : Formed (bgWrite f c a d en p who die) :=
  formed_ite (formed_soilFrame (formed_writePart h)) (formed_refuseAccess h)

theorem formed_bgWriteRun {f who die fuel c a b pz} (h : Formed c) : Formed (bgWriteRun f who die fuel c a b pz) := by
  induction fuel generalizing c a b with
  | zero => exact h
  | succ n ih => exact formed_ite h (ih (formed_bgWrite h))

/-! ## Registers of a tile -/

theorem formed_setTile {c site t} (h : Formed c) : Formed (setTile c site t) := formed_update h

theorem formed_modTile {c site f} (h : Formed c) : Formed (modTile c site f) := formed_setTile h

theorem formed_setSeq {c d q} (h : Formed c) : Formed (setSeq c d q) := formed_update h

/-! ## Flags -/

theorem formed_vecEv {c b} (h : Formed c) : Formed (vecEv c b) := formed_update h

theorem formed_convEv {c b} (h : Formed c) : Formed (convEv c b) := formed_update h

theorem formed_streamFault {c row site n} (h : Formed c) : Formed (streamFault c row site n) :=
  formed_ite h (formed_reportOnce (formed_bump h))

theorem formed_pushTo {c site q data poison} (h : Formed c) : Formed (pushTo c site q data poison) := by
  unfold pushTo
  extract_lets r c1
  have hc1 : Formed c1 := formed_modTile h
  split
  · exact hc1
  · exact formed_streamFault hc1
  · exact formed_streamFault hc1

theorem formed_readQueue {counted c site q} (h : Formed c) : Formed (readQueue counted c site q).1 := by
  unfold readQueue
  extract_lets dq r known c1
  have hc1 : Formed c1 := formed_modTile h
  split
  · exact formed_modTile h
  · exact formed_streamFault (formed_ite hc1 (formed_streamFault hc1))

theorem formed_readFrom {c site q} (h : Formed c) : Formed (readFrom c site q).1 := formed_readQueue h

theorem formed_launch {c cycle x} (h : Formed c) : Formed (launch c cycle x) := formed_update h

/-! ## Operands -/

theorem formed_lineFault {c site} (h : Formed c) : Formed (lineFault c site) := formed_streamFault h

theorem formed_readLine {c site x} (h : Formed c) : Formed (readLine c site x).1 := by
  unfold readLine
  split
  · exact formed_readGran h
  · exact formed_lineFault h

theorem formed_writeLine {c site x d p} (h : Formed c) : Formed (writeLine c site x d p) := by
  unfold writeLine
  split
  · exact formed_writeGran h
  · exact formed_lineFault h

theorem formed_setPool {c n p} (h : Formed c) : Formed (setPool c n p) := formed_update h

/-! ## Lanes -/

theorem formed_tFp2 {op g vd a b c site} (h : Formed c) : Formed (tFp2 op g vd a b c site) := by
  unfold tFp2
  extract_lets t r c1
  have hc1 : Formed c1 := formed_vecEv h
  exact formed_setTile hc1

theorem formed_tFma {g vd a b d c site} (h : Formed c) : Formed (tFma g vd a b d c site) := by
  unfold tFma
  extract_lets t r c1
  have hc1 : Formed c1 := formed_vecEv h
  exact formed_setTile hc1

theorem formed_tFp1 {op g vd a c site} (h : Formed c) : Formed (tFp1 op g vd a c site) := by
  unfold tFp1
  extract_lets t r c1
  have hc1 : Formed c1 := formed_vecEv h
  exact formed_setTile hc1

theorem formed_tCmp {op g pd a b c site} (h : Formed c) : Formed (tCmp op g pd a b c site) := formed_modTile h

theorem formed_tSel {g vd a b ps c site} (h : Formed c) : Formed (tSel g vd a b ps c site) := formed_modTile h

theorem formed_tRsum {g vd a c site} (h : Formed c) : Formed (tRsum g vd a c site) := formed_setTile (formed_vecEv h)

theorem formed_tRmax {g vd a c site} (h : Formed c) : Formed (tRmax g vd a c site) := formed_modTile h

theorem formed_tRmaxi {g vd a c site} (h : Formed c) : Formed (tRmaxi g vd a c site) := formed_modTile h

theorem formed_tInt2 {op g vd a b c site} (h : Formed c) : Formed (tInt2 op g vd a b c site) := formed_modTile h

theorem formed_tInt1 {op g vd a c site} (h : Formed c) : Formed (tInt1 op g vd a c site) := formed_modTile h

theorem formed_tImad {g vd a b d c site} (h : Formed c) : Formed (tImad g vd a b d c site) := formed_modTile h

theorem formed_tConst {f g vd c site} (h : Formed c) : Formed (tConst f g vd c site) := formed_modTile h

theorem formed_tPerm {g vd a vi c site} (h : Formed c) : Formed (tPerm g vd a vi c site) := by
  unfold tPerm
  extract_lets t ix c1
  have hc1 : Formed c1 := formed_vecEv h
  exact formed_setTile hc1

theorem formed_tPred2 {op g pd a b c site} (h : Formed c) : Formed (tPred2 op g pd a b c site) := formed_modTile h

theorem formed_tPnot {g pd a c site} (h : Formed c) : Formed (tPnot g pd a c site) := formed_modTile h

theorem formed_tPfrom {g pd a c site} (h : Formed c) : Formed (tPfrom g pd a c site) := formed_modTile h

theorem formed_tPcnt {g vd ps c site} (h : Formed c) : Formed (tPcnt g vd ps c site) := formed_modTile h

theorem formed_tAmov {ad imm c site} (h : Formed c) : Formed (tAmov ad imm c site) := formed_modTile h

theorem formed_tAadd {ad imm c site} (h : Formed c) : Formed (tAadd ad imm c site) := formed_modTile h

theorem formed_tAfrom {ad a c site} (h : Formed c) : Formed (tAfrom ad a c site) := formed_modTile h

theorem formed_tCvt {g d m vd a c site} (h : Formed c) : Formed (tCvt g d m vd a c site) := by
  unfold tCvt
  extract_lets t r c1
  have hc1 : Formed c1 := formed_convEv h
  exact formed_setTile hc1

theorem formed_tQnt {g vd a vk f sc o c site} (h : Formed c) : Formed (tQnt g vd a vk f sc o c site) :=
  formed_setTile (formed_convEv h)

theorem formed_tDq {g vd a vk f scaled o c site} (h : Formed c) : Formed (tDq g vd a vk f scaled o c site) := by
  unfold tDq
  extract_lets t w src stream k r bad c1
  have hc1 : Formed c1 := formed_convEv h
  exact formed_setTile hc1

/-! ## The store of a tile -/

theorem formed_readWord {c site w} (h : Formed c) : Formed (readWord c site w).1 := by
  unfold readWord
  extract_lets a m k v
  split
  · exact h
  · split
    · exact formed_reportI (formed_addReg (formed_update h))
    · exact formed_reportI (formed_addReg h)

theorem formed_readEach {c site ws} (h : Formed c) : Formed (readEach c site ws).1 :=
  formed_foldl_fst (fun _ _ hx => formed_readWord hx) h

theorem formed_readWords {c site ws} (h : Formed c) : Formed (readWords c site ws).1 := by
  unfold readWords
  extract_lets r
  have hr : Formed r.1 := formed_readEach h
  exact hr

theorem formed_writeWords {c site ws hurt before} (h : Formed c) : Formed (writeWords c site ws hurt before) :=
  formed_foldl (fun _ _ hx => formed_writeGranWords hx) h

theorem formed_loadLanes {g v f c site} (h : Formed c) : Formed (loadLanes g v f c site) := by
  unfold loadLanes
  extract_lets t c1 r
  have hc1 : Formed c1 := formed_vecEv h
  have hr : Formed r.1 := formed_readWords hc1
  exact formed_modTile hr

theorem formed_tVld {g v ad imm c site} (h : Formed c) : Formed (tVld g v ad imm c site) := formed_loadLanes h

theorem formed_tVldb {g v ad imm c site} (h : Formed c) : Formed (tVldb g v ad imm c site) := formed_loadLanes h

theorem formed_putStores {c site rounds} (h : Formed c) : Formed (putStores c site rounds) := formed_modTile h

theorem formed_storeCycle {c site} (h : Formed c) : Formed (storeCycle c site) := by
  unfold storeCycle
  split
  · exact h
  · exact formed_writeWords (formed_modTile h)

theorem formed_tVst {g v ad imm c site} (h : Formed c) : Formed (tVst g v ad imm c site) := by
  unfold tVst
  extract_lets t a p f c1
  have hc1 : Formed c1 := formed_vecEv h
  exact formed_putStores hc1

theorem formed_unserved {c site n} (h : Formed c) : Formed (unserved c site n) :=
  formed_ite h (formed_reportOnce (formed_bump (formed_vecEv h)))

theorem formed_gathRound {c site} (h : Formed c) : Formed (gathRound c site) := by
  unfold gathRound
  split
  · exact h
  · exact formed_modTile (formed_readWords h)

theorem formed_tVgath {g vd vi ad b c site} (h : Formed c) : Formed (tVgath g vd vi ad b c site) := by
  unfold tVgath
  extract_lets t ls ok served c1 c2 other rounds
  have hc1 : Formed c1 := formed_vecEv h
  have hc2 : Formed c2 := formed_unserved hc1
  exact formed_gathRound (formed_modTile hc2)

theorem formed_tVscat {g vs vi ad b c site} (h : Formed c) : Formed (tVscat g vs vi ad b c site) := by
  unfold tVscat
  extract_lets t p ls ok c1 lanesOf c2 bad miss c3 hurt taint rounds
  have hc1 : Formed c1 := formed_vecEv h
  have hc2 : Formed c2 := formed_vecEv hc1
  have hc3 : Formed c3 := formed_unserved hc2
  exact formed_putStores hc3

theorem formed_tVpop {g vd q c site} (h : Formed c) : Formed (tVpop g vd q c site) := formed_modTile h

theorem formed_popCycle {c site} (h : Formed c) : Formed (popCycle c site) := by
  unfold popCycle
  split
  · exact h
  · exact formed_modTile (formed_readQueue h)

theorem formed_tVpush {g vs q c site} (h : Formed c) : Formed (tVpush g vs q c site) :=
  formed_foldl (fun _ _ hx => formed_launch hx) h

theorem formed_tVslot {g vd pd ve cap c site} (h : Formed c) : Formed (tVslot g vd pd ve cap c site) := by
  unfold tVslot
  extract_lets t p taint r val t1 t2 c1
  have hc1 : Formed c1 := formed_vecEv (formed_bump (formed_bump h))
  exact formed_setTile hc1

theorem formed_tVslmsk {g vd e c site} (h : Formed c) : Formed (tVslmsk g vd e c site) := formed_modTile h

theorem formed_tVslrd {g vd grp c site} (h : Formed c) : Formed (tVslrd g vd grp c site) := formed_modTile h

theorem formed_tVslset {g vs grp c site} (h : Formed c) : Formed (tVslset g vs grp c site) := formed_modTile h

theorem formed_tVslclr {c site} (h : Formed c) : Formed (tVslclr c site) := formed_modTile h

/-! ## The array -/

theorem formed_modArr {c site f} (h : Formed c) : Formed (modArr c site f) := formed_modTile h

theorem formed_accFound {c site f} (h : Formed c) : Formed (accFound c site f) := by
  unfold accFound
  extract_lets c1
  have hc1 : Formed c1 := formed_dropFlaw h
  split
  · exact formed_ite (formed_report (formed_modTile hc1)) (formed_report hc1)
  · exact h

theorem formed_accCheck {c site e lo hi} (h : Formed c) : Formed (accCheck c site e lo hi) :=
  formed_foldl (fun _ _ hx => formed_accFound hx) h

theorem formed_accFresh {c site e lo hi} (h : Formed c) : Formed (accFresh c site e lo hi) :=
  formed_foldl (fun _ _ hx => formed_dropFlaw hx) h

theorem formed_putVector {c site t m sums bad ups} (h : Formed c) : Formed (putVector c site t m sums bad ups) := by
  unfold putVector
  extract_lets e c1
  have hc1 : Formed c1 := formed_ite (formed_accFresh h) (formed_ite (formed_accCheck h) h)
  exact formed_modArr hc1

theorem formed_validSums {c a m} (h : Formed c) : Formed (validSums c a m).1 := by
  unfold validSums
  split
  · split
    · exact formed_bump (formed_bump h)
    · exact formed_update (formed_bump h)
  · exact formed_update (formed_bump h)

theorem formed_residueFails {injected c site col row e} (h : Formed c) : Formed (residueFails injected c site col row e) :=
  formed_reportI (formed_bump h)

theorem formed_upsetWeights {c site} (h : Formed c) : Formed (upsetWeights c site) := by
  unfold upsetWeights
  refine formed_foldl ?_ ?_
  · intro _ _ hx
    split
    · exact formed_modArr (formed_dropFlaw hx)
    · exact hx
  · exact h

theorem formed_fail {injected} {x : Checked} {site col row e} (h : Formed x.chip) :
    Formed (x.fail injected site col row e).chip :=
  formed_residueFails h

theorem formed_cellFails {ie site e v} {x : Checked} {f} (h : Formed x.chip) : Formed (cellFails ie site e v x f).chip := by
  unfold cellFails
  dsimp only
  split
  · split
    · exact formed_fail (formed_dropFlaw h)
    · exact formed_dropFlaw h
  · split
    · exact formed_dropFlaw h
    · exact formed_fail (formed_dropFlaw h)
  · split
    · split <;> exact formed_dropFlaw h
    · split <;> exact formed_fail (formed_dropFlaw h)
  · exact formed_dropFlaw h

theorem formed_weightFails {w wf acts site e} {x : Checked} {g} (h : Formed x.chip) :
    Formed (weightFails w wf acts site e x g).chip := by
  unfold weightFails
  split
  · exact formed_fail h
  · exact h

theorem formed_meetUpsets {c site a m sums} (h : Formed c) : Formed (meetUpsets c site a m sums).chip := by
  unfold meetUpsets
  dsimp only
  split
  · exact formed_foldl_at Checked.chip (fun _ _ hx => formed_cellFails hx)
      (formed_foldl_at Checked.chip (fun _ _ hx => formed_weightFails hx) h)
  · exact h

theorem formed_checkVector {c site a m sums} (h : Formed c) : Formed (checkVector c site a m sums).chip := by
  have hm : Formed (meetUpsets c site a m sums).chip := formed_meetUpsets h
  unfold checkVector
  dsimp only
  split
  · split
    · exact formed_spendInj (formed_fail hm)
    · exact hm
  · exact hm

theorem formed_streamVector {c site t m} (h : Formed c) : Formed (streamVector c site t m) := by
  unfold streamVector
  dsimp only
  split
  · exact formed_putVector (formed_checkVector (formed_validSums (formed_upsetWeights h)))
  · split
    · exact formed_putVector (formed_ite (formed_bump h) (formed_bump (formed_bump h)))
    · exact formed_ite (formed_bump h) (formed_bump (formed_bump h))

theorem formed_arrayMiss {c site q} (h : Formed c) : Formed (arrayMiss c site q) := by
  unfold arrayMiss
  extract_lets r known c1 c2 c3
  have hc1 : Formed c1 := formed_modTile h
  have hc2 : Formed c2 := formed_streamFault hc1
  have hc3 : Formed c3 := formed_bump (formed_ite hc2 (formed_bump hc2))
  exact formed_reportOnce hc3

theorem formed_takeOperand {c site q} (h : Formed c) : Formed (takeOperand c site q).1 := by
  unfold takeOperand
  extract_lets dq
  split
  · exact formed_modTile h
  · exact formed_arrayMiss h

theorem formed_takeOperands {site qs c} (h : Formed c) : Formed (takeOperands site qs c).1 := by
  induction qs generalizing c with
  | nil => exact h
  | cons q rest ih => exact ih (formed_takeOperand h)

theorem formed_strCycle {c site} (h : Formed c) : Formed (strCycle c site) := by
  unfold strCycle
  extract_lets t now
  split
  · exact formed_ite (formed_modArr h) h
  · exact formed_ite h (formed_ite (formed_modArr (formed_streamVector (formed_takeOperands (formed_takeOperands (formed_ite
      (formed_modArr h) h))))) (formed_modArr (formed_takeOperands (formed_takeOperands (formed_ite (formed_modArr h) h)))))
  · exact h

theorem formed_preDone {c site} (h : Formed c) : Formed (preDone c site) := by
  unfold preDone
  extract_lets t
  split
  · exact formed_ite (formed_modArr (formed_takeOperands h)) h
  · exact h

theorem formed_preCycle {c site} (h : Formed c) : Formed (preCycle c site) := by
  unfold preCycle
  extract_lets t now
  split
  · exact formed_ite h (formed_modArr (formed_takeOperands h))
  · exact h

theorem formed_arrCycle {c site} (h : Formed c) : Formed (arrCycle c site) :=
  formed_preCycle (formed_strCycle (formed_preDone h))

theorem formed_tMpre {f qp qs c site} (h : Formed c) : Formed (tMpre f qp qs c site) := formed_modArr h

theorem formed_tMstr {f qa qs e n fresh swap mask c site} (h : Formed c) :
    Formed (tMstr f qa qs e n fresh swap mask c site) :=
  formed_modArr h

theorem formed_tMskl {v c site} (h : Formed c) : Formed (tMskl v c site) := formed_modArr h

theorem formed_tMdrn {e held v clear c site} (h : Formed c) : Formed (tMdrn e held v clear c site) := by
  unfold tMdrn
  extract_lets c1
  have hc1 : Formed c1 := formed_accCheck h
  exact formed_modTile hc1

/-! ## Issue -/

theorem formed_tileExec {x c site} (h : Formed c) : Formed (tileExec x c site) := by
  unfold tileExec
  split
  · exact formed_tMpre h
  · exact formed_tMstr h
  · exact formed_tMdrn h
  · exact formed_tMskl h
  · exact formed_tFp2 h
  · exact formed_tFp2 h
  · exact formed_tFp2 h
  · exact formed_tFma h
  · exact formed_tFp2 h
  · exact formed_tFp2 h
  · exact formed_tFp1 h
  · exact formed_tFp1 h
  · exact formed_tCmp h
  · exact formed_tSel h
  · exact formed_tRsum h
  · exact formed_tRmax h
  · exact formed_tRmaxi h
  · exact formed_tFp1 h
  · exact formed_tFp1 h
  · exact formed_tFp1 h
  · exact formed_tFp1 h
  · exact formed_tFp2 h
  · exact formed_tInt2 h
  · exact formed_tInt2 h
  · exact formed_tInt2 h
  · exact formed_tInt2 h
  · exact formed_tInt2 h
  · exact formed_tInt2 h
  · exact formed_tImad h
  · exact formed_tInt2 h
  · exact formed_tInt2 h
  · exact formed_tInt2 h
  · exact formed_tInt2 h
  · exact formed_tInt2 h
  · exact formed_tInt1 h
  · exact formed_tInt2 h
  · exact formed_tInt2 h
  · exact formed_tInt2 h
  · exact formed_tCmp h
  · exact formed_tInt1 h
  · exact formed_tConst h
  · exact formed_tPerm h
  · exact formed_tPred2 h
  · exact formed_tPred2 h
  · exact formed_tPred2 h
  · exact formed_tPnot h
  · exact formed_tPfrom h
  · exact formed_tPcnt h
  · exact formed_tCvt h
  · exact formed_tInt1 h
  · exact formed_tQnt h
  · exact formed_tDq h
  · exact formed_tConst h
  · exact formed_tConst h
  · exact formed_tAmov h
  · exact formed_tAadd h
  · exact formed_tAfrom h
  · exact formed_tVld h
  · exact formed_tVst h
  · exact formed_tVldb h
  · exact formed_tVgath h
  · exact formed_tVscat h
  · exact formed_tVpop h
  · exact formed_tVpush h
  · exact formed_tVslot h
  · exact formed_tVslmsk h
  · exact formed_tVslrd h
  · exact formed_tVslset h
  · exact formed_tVslclr h
  · exact h

theorem formed_wordFound {c site f} (h : Formed c) : Formed (wordFound c site f) := by
  unfold wordFound
  extract_lets c1
  have hc1 : Formed c1 := formed_dropFlaw h
  split
  · exact formed_ite (formed_report (formed_addReg (formed_modTile hc1))) (formed_report (formed_addReg hc1))
  · exact formed_ite (formed_report (formed_modTile hc1)) (formed_report hc1)
  · exact hc1

theorem formed_laneFails {injected x c site l unit mask} (h : Formed c) :
    Formed (laneFails injected x c site l unit mask) := by
  unfold laneFails
  extract_lets c1
  have hc1 : Formed c1 := formed_modTile h
  exact formed_reportI (formed_bump hc1)

theorem formed_checkLanes {t x c site} (h : Formed c) : Formed (checkLanes t x c site) := by
  unfold checkLanes
  extract_lets c1
  have hc1 : Formed c1 := by
    refine formed_foldl ?_ ?_
    · intro _ _ hx
      split
      · exact formed_laneFails (formed_dropFlaw hx)
      · exact hx
    · exact h
  split
  · exact formed_spendInj (formed_laneFails hc1)
  · exact hc1

theorem formed_tileIssue {x c site} (h : Formed c) : Formed (tileIssue x c site) := by
  unfold tileIssue
  extract_lets c1 t gone
  have hc1 : Formed c1 := formed_foldl (fun _ _ hx => formed_wordFound hx) h
  exact formed_checkLanes (formed_foldl (fun _ _ hx => formed_dropFlaw hx) (formed_tileExec hc1))

theorem formed_issueHead {c site} (h : Formed c) : Formed (issueHead c site) := by
  unfold issueHead
  extract_lets t
  split
  · exact h
  · exact formed_ite (formed_tileIssue (formed_setTile h)) h

theorem formed_arrive {x c site} (h : Formed c) : Formed (arrive x c site) :=
  formed_ite (formed_setTile h) (formed_tileIssue h)

theorem formed_frozenCycle {c site} (h : Formed c) : Formed (frozenCycle c site) := by
  unfold frozenCycle
  extract_lets t new c1
  have hc1 : Formed c1 := formed_bump (formed_streamFault h)
  exact formed_modTile hc1

theorem formed_unitCycle {c site} (h : Formed c) : Formed (unitCycle c site) :=
  formed_gathRound (formed_storeCycle (formed_popCycle (formed_arrCycle h)))

theorem formed_playCycle {c site} (h : Formed c) : Formed (playCycle c site) :=
  formed_modTile (formed_unitCycle (formed_issueHead h))

theorem formed_runTile {c site} (h : Formed c) : Formed (runTile c site) :=
  formed_ite (formed_frozenCycle h) (formed_playCycle h)

theorem formed_tileCycle {heard c site} (h : Formed c) : Formed (tileCycle heard c site) :=
  formed_ite (formed_runTile h) (formed_runTile (formed_modTile (formed_playCycle h)))

/-! ## Pages of key and value -/

theorem formed_setSess {c s x} (h : Formed c) : Formed (setSess c s x) := formed_update h

theorem formed_setWentry {c e x} (h : Formed c) : Formed (setWentry c e x) := formed_update h

theorem formed_countPage {c page write} (h : Formed c) : Formed (countPage c page write) := by
  unfold countPage
  split
  · exact h
  · dsimp only
    split
    · exact formed_ite (formed_update (formed_ite (formed_bump (formed_setPool h)) (formed_setPool h))) (formed_ite
        (formed_bump (formed_setPool h)) (formed_setPool h))
    · exact formed_ite (formed_bump (formed_setPool h)) (formed_setPool h)

theorem formed_lateLine {c a write} (h : Formed c) : Formed (lateLine c a write) := by
  unfold lateLine
  extract_lets u c1
  have hc1 : Formed c1 := formed_bump h
  exact formed_reportOnce hc1

theorem formed_loadLine {c site w late} (h : Formed c) : Formed (loadLine c site w late).1 := by
  have hat (w : List Nat × Option PageRef) : Formed (match w.1 with
      | [] => (countPage c w.2 false, zeroLine, true)
      | a :: _ => if late then (lateLine (countPage c w.2 false) a false, zeroLine, true)
        else readGran (countPage c w.2 false) a .cycle false).1 := by
    split
    · exact formed_countPage h
    · split
      · exact formed_lateLine (formed_countPage h)
      · exact formed_readGran (formed_countPage h)
  unfold loadLine
  split
  · exact formed_lineFault h
  · exact formed_bump h
  · exact formed_bump h
  · exact hat _
  · exact hat _

theorem formed_kvDiscard {c die sess} (h : Formed c) : Formed (kvDiscard c die sess) := formed_report (formed_bump h)

theorem formed_cmdArrives {c cmd d} (h : Formed c) : Formed (cmdArrives c cmd d) := by
  unfold cmdArrives
  split
  · exact h
  · exact formed_update h

theorem formed_holdSpan {c a n} (h : Formed c) : Formed (holdSpan c a n) := formed_foldl (fun _ _ hx => formed_holdGran hx) h

theorem formed_putLine {c as pg cmd d p} (h : Formed c) : Formed (putLine c as pg cmd d p) := by
  unfold putLine
  extract_lets w c1 c2
  have hc1 : Formed c1 := formed_foldl (fun _ _ hx => formed_writeGran (formed_holdGran hx)) h
  have hc2 : Formed c2 := by
    unfold c2
    split
    · exact formed_soilPage hc1
    · exact hc1
  exact formed_cmdArrives hc2

theorem formed_performLate {c x} (h : Formed c) : Formed (performLate c x) := formed_putLine h

theorem formed_lateBefore {c as pg} (h : Formed c) : Formed (lateBefore c as pg) :=
  formed_foldl (fun _ _ hx => formed_performLate hx) (formed_update h)

theorem formed_storeLine {c site w cmd d p late} (h : Formed c) : Formed (storeLine c site w cmd d p late) := by
  unfold storeLine
  split
  · exact formed_lineFault h
  · exact formed_lineFault h
  · exact formed_kvDiscard h
  · exact formed_kvDiscard h
  · exact formed_ite (formed_update (formed_lateLine (formed_countPage h))) (formed_putLine (formed_lateBefore
      (formed_countPage h)))

/-! ## Lines in motion -/

theorem formed_setPort {c p x} (h : Formed c) : Formed (setPort c p x) := formed_update h

theorem formed_modPort {c p f} (h : Formed c) : Formed (modPort c p f) := formed_setPort h

theorem formed_handCoach {c p x} (h : Formed c) : Formed (handCoach c p x) := formed_ite (formed_modPort h) h

theorem formed_setStew {c d x} (h : Formed c) : Formed (setStew c d x) := formed_update h

theorem formed_landExchange {c site line d p} (h : Formed c) : Formed (landExchange c site line d p) := by
  unfold landExchange
  extract_lets w
  split
  · exact formed_setStew (formed_dropFlaws h)
  · exact formed_lineFault h

theorem formed_mismatch {c site} (h : Formed c) : Formed (mismatch c site) := formed_streamFault h

theorem formed_receiveLine {c u k} (h : Formed c) : Formed (receiveLine c u k) := by
  unfold receiveLine
  extract_lets mine
  split
  · exact formed_writeLine (formed_update h)
  · exact formed_writeLine (formed_mismatch h)

theorem formed_sendLine {c u k} (h : Formed c) : Formed (sendLine c u k) := by
  unfold sendLine
  extract_lets r
  have hr : Formed r.1 := formed_readLine h
  split
  · exact formed_launch hr
  · exact formed_mismatch hr

theorem formed_sendCoach {c coach u k} (h : Formed c) : Formed (sendCoach c coach u k).1 := by
  unfold sendCoach
  dsimp only
  split
  · exact formed_readLine h
  · dsimp only
    split
    · split
      · exact formed_launch (formed_readLine h)
      · exact formed_readLine h
    · exact formed_readLine h

theorem formed_writeHeld {c u k} (h : Formed c) : Formed (writeHeld c u k).1 := formed_writeLine h

theorem formed_moveLine {x k c u} (h : Formed c) : Formed (moveLine x k c u).1 := by
  unfold moveLine
  extract_lets now r e r1 w
  have hr : Formed r.1 := formed_readLine h
  have hr1 : Formed r1.1 := formed_readGran h
  split
  · exact formed_launch hr
  · exact formed_launch hr
  · exact formed_launch h
  · exact formed_writeHeld h
  · exact formed_writeGran hr
  · exact formed_writeLine hr1
  · exact formed_writeGran h
  · exact formed_writeHeld h
  · exact formed_launch hr
  · exact formed_sendLine h
  · exact formed_receiveLine h
  · exact formed_sendCoach h
  · exact formed_writeHeld h
  · exact formed_launch hr
  · exact h

theorem formed_moveLines {x n k c us} (h : Formed c) : Formed (moveLines x n k c us).1 := by
  induction n generalizing k c us with
  | zero => exact h
  | succ n ih => exact ih (formed_inTiles (fun _ _ hx => formed_moveLine hx) h)

theorem formed_queueStage {a c u} (h : Formed c) : Formed (queueStage a c u).1 := by
  unfold queueStage
  split
  · dsimp only
    split
    · exact formed_readFrom h
    · exact h
  · exact h

theorem formed_memoryStage {a c u} (h : Formed c) : Formed (memoryStage a c u).1 := by
  unfold memoryStage
  split
  · dsimp only
    split
    · exact formed_loadLine h
    · exact h
  · exact h

theorem formed_carriageLines {held c u} (h : Formed c) : Formed (carriageLines held c u).1 := by
  unfold carriageLines
  split
  · exact h
  · exact formed_streamFault h

theorem formed_takePlace {c p place} (h : Formed c) : Formed (takePlace c p place).1 := by
  refine formed_foldl_fst (fun r f hr => ?_) h
  dsimp only
  split
  · split <;> exact formed_report (formed_dropFlaw hr)
  · exact hr

theorem formed_yardStage {a c} (h : Formed c) : Formed (yardStage a c).1 := by
  unfold yardStage
  split
  · dsimp only
    split
    · split
      · split
        · exact formed_inTiles (fun _ _ hx => formed_carriageLines hx) (formed_modPort (formed_takePlace h))
        · exact h
      · exact h
    · exact h
  · exact h

theorem formed_sortDue {before c} (h : Formed c) : Formed (sortDue before c) := formed_update h

/-! ## Cycles -/

theorem formed_landed {c} (h : Formed c) : Formed (landed c) := formed_update h

theorem formed_landEntry {c x} (h : Formed c) : Formed (landEntry c x) := by
  unfold landEntry
  split
  · exact formed_pushTo h
  · exact h

theorem formed_landRegion {c x} (h : Formed c) : Formed (landRegion c x) := by
  unfold landRegion
  split
  · exact formed_storeLine h
  · exact h

theorem formed_landOther {c x} (h : Formed c) : Formed (landOther c x) := by
  unfold landOther
  split
  · exact formed_landExchange h
  · exact formed_handCoach h
  · exact h

theorem formed_yardActs {acts c} (h : Formed c) : Formed (yardActs acts c).1 := by
  induction acts generalizing c with
  | nil => exact h
  | cons a rest ih => exact ih (formed_yardStage h)

theorem formed_moveAct {old c new} (h : Formed c) : Formed (moveAct old c new).1 := by
  unfold moveAct
  split
  · exact formed_moveLines h
  · exact h

theorem formed_moveActs {old acts c} (h : Formed c) : Formed (moveActs old acts c).1 := by
  induction acts generalizing c with
  | nil => exact h
  | cons a rest ih => exact ih (formed_moveAct h)

theorem formed_mortarChecks {c} (h : Formed c) : Formed (mortarChecks c) :=
  formed_foldl (fun _ _ hx => formed_ite (formed_controlCheck hx) hx) h

theorem formed_moveDies {c} (h : Formed c) : Formed (moveDies c) := by
  unfold moveDies
  extract_lets new out inb
  have hout : Formed out.1 := formed_moveActs h
  have hinb : Formed inb.1 := formed_moveActs hout
  exact formed_update hinb

theorem formed_dropLines {c} (h : Formed c) : Formed (dropLines c) := by
  unfold dropLines
  extract_lets lost
  refine formed_foldl ?_ ?_
  · intro _ _ hx
    split
    · exact formed_mismatch hx
    · exact hx
  · exact formed_update h

theorem formed_tileCycles {c} (h : Formed c) : Formed (tileCycles c) := formed_foldl (fun _ _ hx => formed_tileCycle hx) h

theorem formed_syncCount {c} (h : Formed c) : Formed (syncCount c) := formed_reach h

theorem formed_passCycles {n c} (h : Formed c) : Formed (passCycles n c) := formed_syncCount (formed_update h)

theorem formed_lineCycle {c} (h : Formed c) : Formed (lineCycle c) := by
  unfold lineCycle
  extract_lets now c1 before c2 c3 y
  have hc1 : Formed c1 := formed_withStage (fun _ _ _ hx => formed_memoryStage hx) (formed_foldl
    (fun _ _ hx => formed_landEntry hx) (formed_landed h))
  have hc2 : Formed c2 := formed_foldl (fun _ _ hx => formed_landRegion hx) hc1
  have hc3 : Formed c3 := formed_foldl (fun _ _ hx => formed_landOther hx) (formed_sortDue hc2)
  have hy : Formed y.1 := formed_yardActs hc3
  exact formed_withStage (fun _ _ _ hx => formed_queueStage hx) (formed_moveDies (formed_mortarChecks (formed_update hy)))

theorem formed_atMoment {m c} (h : Formed c) : Formed (atMoment m c) := formed_update h

theorem formed_engineCycle {c} (h : Formed c) : Formed (engineCycle c) := by
  unfold engineCycle
  extract_lets c1
  have hc1 : Formed c1 := formed_atMoment (formed_tileCycles (formed_dropLines (formed_lineCycle (formed_atMoment h))))
  exact formed_passCycles (formed_update hc1)

theorem formed_advance {n c} (h : Formed c) : Formed (advance n c) := by
  induction n generalizing c with
  | zero => exact h
  | succ n ih => exact formed_ite (formed_passCycles h) (ih (formed_engineCycle h))

theorem formed_passed {c} (h : Formed c) : Formed (passed c) := formed_ite (formed_advance h) h

theorem formed_finishStep {c} (h : Formed c) : Formed (finishStep c) := formed_advance h

theorem formed_awaitIssue {i exe x fuel c} (h : Formed c) : Formed (awaitIssue i exe x fuel c) := by
  induction fuel generalizing c with
  | zero => exact h
  | succ n ih => exact formed_ite h (ih (formed_advance h))

theorem formed_noteIssue {c i exe x} (h : Formed c) : Formed (noteIssue c i exe x) := formed_setSeq h

theorem formed_stopProgram {c d exe} (h : Formed c) : Formed (stopProgram c d exe) := formed_setSeq h

theorem formed_fetchWord {c i exe f} (hf : ∀ c, Formed c → Formed (f c)) (h : Formed c) :
    Formed (fetchWord c i exe f) := by
  unfold fetchWord
  dsimp only
  split
  · exact hf _ h
  · exact formed_ite (formed_stopProgram (formed_report (formed_dropFlaw h))) (hf _ (formed_report (formed_dropFlaw h)))

theorem formed_holdOver {c d exe} (h : Formed c) : Formed (holdOver c d exe) := formed_ite (formed_setSeq h) h

theorem formed_beginAct {x c} (h : Formed c) : Formed (beginAct x c) := by
  unfold beginAct
  split
  · exact formed_ite h (formed_update h)
  · exact h

/-! ## The engine's memory -/

theorem formed_seenGran {held c a} (h : Formed c) : Formed (seenGran held c a).1 := by
  unfold seenGran
  split
  · exact h
  · exact formed_readGran h

theorem formed_seenLine {held c n l} (h : Formed c) : Formed (seenLine held c n l).1 := by
  unfold seenLine
  split
  · exact formed_seenGran h
  · exact formed_seenGran h
  · exact h
  · exact h

theorem formed_seenLines {held c n l k} (h : Formed c) : Formed (seenLines held c n l k).1 :=
  formed_foldl_fst (fun _ _ hx => formed_seenLine hx) h

theorem formed_seenRead {held c n off len} (h : Formed c) : Formed (seenRead held c n off len).1 := by
  unfold seenRead
  extract_lets l0 r
  have hr : Formed r.1 := formed_seenLines h
  split
  · exact h
  · exact hr

theorem formed_engLine {c n l} (h : Formed c) : Formed (engLine c n l).1 := formed_seenLine h

theorem formed_engRead {c n off len} (h : Formed c) : Formed (engRead c n off len).1 := formed_seenRead h

theorem formed_engPut {c n l d p} (h : Formed c) : Formed (engPut c n l d p) := by
  unfold engPut
  split
  · dsimp only
    split
    · exact formed_soilPage (formed_foldl (fun _ _ hx => formed_writeGran (formed_holdGran hx)) h)
    · exact formed_foldl (fun _ _ hx => formed_writeGran (formed_holdGran hx)) h
  · exact h

theorem formed_engWrite {c n l d} (h : Formed c) : Formed (engWrite c n l d) :=
  formed_foldl (fun _ _ hx => formed_engPut hx) h

theorem formed_engPatch {c n off d} (h : Formed c) : Formed (engPatch c n off d) :=
  formed_ite h (formed_foldl (fun _ _ hx => formed_engPut (formed_engLine hx)) h)

end Sys2Proof.Proofs
end

section
/-! PROOFS. Pages, serving, the links and the replica keep the chip in form (07 R200). -/

namespace Sys2Proof.Proofs

open Sys2Proof Sys2Proof.Machine Sys2Proof.Claims Sys2Proof.Laws

/-! ## Pages of the pools -/

theorem formed_setRefs {c p page n} (h : Formed c) : Formed (setRefs c p page n) := formed_update h

theorem formed_setPage {c rn page x} (h : Formed c) : Formed (setPage c rn page x) := formed_setPool h

theorem formed_returnPage {c p page} (h : Formed c) : Formed (returnPage c p page) := by
  unfold returnPage
  extract_lets rn _ c1 pl
  have hc1 : Formed c1 := formed_setPage h
  exact formed_setPool hc1

theorem formed_dropRef {c p page} (h : Formed c) : Formed (dropRef c p page) :=
  formed_ite (formed_returnPage (formed_setRefs h)) (formed_setRefs h)

theorem formed_addRef {c p page} (h : Formed c) : Formed (addRef c p page) := formed_setRefs h

theorem formed_takePage {c p page} (h : Formed c) : Formed (takePage c p page) := by
  unfold takePage
  extract_lets rn c1
  have hc1 : Formed c1 := formed_setRefs h
  split
  · exact formed_setPage hc1
  · exact hc1

theorem formed_setDir {c s rank slot b} (h : Formed c) : Formed (setDir c s rank slot b) := formed_update h

theorem formed_setEntry {c d b i g} (h : Formed c) : Formed (setEntry c d b i g) := formed_update h

theorem formed_setKvPage {c d p s pi g} (h : Formed c) : Formed (setKvPage c d p s pi g) := by
  unfold setKvPage
  split
  · exact formed_setEntry h
  · exact h

theorem formed_releasePages {c s first} (h : Formed c) : Formed (releasePages c s first) := by
  unfold releasePages
  extract_lets d
  refine formed_foldl ?_ ?_
  · intro _ _ hx
    dsimp only
    refine formed_foldl ?_ ?_
    · intro _ _ hy
      split
      · exact hy
      · exact formed_ite (formed_setDir (formed_foldl (fun _ _ h3 => formed_ite (formed_setEntry
          (formed_dropRef h3)) h3) hy)) (formed_foldl (fun _ _ h3 => formed_ite (formed_setEntry (formed_dropRef h3)) h3) hy)
    · exact hx
  · exact h

theorem formed_truncateKv {c s l} (h : Formed c) : Formed (truncateKv c s l) := formed_releasePages h

theorem formed_setNode {c d n x} (h : Formed c) : Formed (setNode c d n x) := formed_update h

theorem formed_unlinkNode {c d n} (h : Formed c) : Formed (unlinkNode c d n) := by
  unfold unlinkNode
  extract_lets x p
  split
  · exact formed_setNode h
  · split
    · exact formed_setNode h
    · exact h

theorem formed_countEvicted {c} (h : Formed c) : Formed (countEvicted c) := formed_ite (formed_addReg h) (formed_bump h)

theorem formed_removeNode {c d n} (h : Formed c) : Formed (removeNode c d n) := by
  unfold removeNode
  extract_lets pages c1 c2
  have hc1 : Formed c1 := formed_setNode (formed_unlinkNode h)
  have hc2 : Formed c2 := formed_foldl (fun _ _ hx => formed_ite hx (formed_dropRef hx)) hc1
  exact formed_countEvicted hc2

theorem formed_orEvict {find die keep fuel c} (h : Formed c) : Formed (orEvict find die keep fuel c).1 := by
  induction fuel generalizing c with
  | zero => exact h
  | succ n ih =>
    unfold orEvict
    split
    · exact h
    · split
      · exact ih (formed_removeNode h)
      · exact h

theorem formed_findOrEvict {find d keep c} (h : Formed c) : Formed (findOrEvict find d keep c).1 := formed_orEvict h

theorem formed_evictAll {d c} (h : Formed c) : Formed (evictAll d c) := formed_orEvict h

theorem formed_needBlock {c die s rank slot keep} (h : Formed c) : Formed (needBlock c die s rank slot keep).1 := by
  unfold needBlock
  split
  · exact h
  · extract_lets r
    have hr : Formed r.1 := formed_findOrEvict h
    split
    · exact formed_setDir hr
    · dsimp only
      exact hr

theorem formed_giveBack {c d s t} (h : Formed c) : Formed (giveBack c d s t) := by
  unfold giveBack
  extract_lets c1
  have hc1 : Formed c1 := by
    refine formed_foldl ?_ ?_
    · intro _ _ hx
      split
      · split
        · exact formed_setKvPage (formed_dropRef hx)
        · exact hx
    · exact h
  exact formed_foldl (fun _ _ hx => formed_setDir hx) hc1

theorem formed_needPage {c d s p pi t} (h : Formed c) : Formed (needPage c d s p pi t).1 := by
  unfold needPage
  extract_lets rank b t1 r
  have hb : Formed b.1 := formed_needBlock h
  have hr : Formed r.1 := formed_findOrEvict hb
  split
  · exact h
  · split
    · exact hb
    · split
      · exact formed_setKvPage (formed_takePage hr)
      · exact hr

theorem formed_ensurePages {c s n t} (h : Formed c) : Formed (ensurePages c s n t).1 := by
  unfold ensurePages
  extract_lets d r
  have hr : Formed r.1 := formed_foldl_fst (fun _ _ hx => formed_foldl_fst (fun _ _ hy => formed_needPage hy) hx) h
  split
  · exact hr
  · exact formed_giveBack hr

theorem formed_blocksFor {c die s slot keep} (h : Formed c) : Formed (blocksFor c die s slot keep).1 := by
  have hr : Formed ((diePools c die).foldl (fun (x : Chip × Took) p =>
      if !x.2.ok then x
      else
        let rank := poolRank c die p
        let b := needBlock x.1 die s rank slot (some keep)
        (b.1, { x.2 with blocks := if b.2.2 then (rank, slot) :: x.2.blocks else x.2.blocks, ok := b.2.1 }))
      (c, Took.none)).1 := by
    refine formed_foldl_fst (fun x p hx => ?_) h
    dsimp only
    split
    · exact hx
    · exact formed_needBlock hx
  unfold blocksFor
  dsimp only
  split
  · exact hr
  · exact formed_giveBack hr

theorem formed_prefixWalk {die s step ks cur i c} (h : Formed c) : Formed (prefixWalk die s step ks cur i c).1 := by
  induction ks generalizing cur i c with
  | nil => exact h
  | cons k ks ih =>
    unfold prefixWalk
    split
    · exact h
    · dsimp only
      split
      · exact formed_blocksFor h
      · exact ih (formed_foldl (fun _ _ hx => formed_ite hx (formed_setKvPage (formed_addRef hx)))
          (formed_setNode (formed_blocksFor h)))

theorem formed_leavePath {c s} (h : Formed c) : Formed (leavePath c s) := formed_foldl (fun _ _ hx => formed_setNode hx) h

theorem formed_insertPage {c s i step} (h : Formed c) : Formed (insertPage c s i step).1 := by
  have hr {find die} : Formed (findOrEvict find die none c).1 := formed_findOrEvict h
  unfold insertPage
  dsimp only
  split
  · exact h
  · split
    · exact h
    · split
      · exact h
      · split
        · dsimp only
          exact hr
        · exact formed_setSess (formed_foldl (fun _ _ hx => formed_addRef hx) (formed_setNode (formed_setNode hr)))

theorem formed_insertPages {s step fuel c} (h : Formed c) : Formed (insertPages s step fuel c) := by
  induction fuel generalizing c with
  | zero => exact h
  | succ n ih => exact formed_ite (ih (formed_insertPage h)) (formed_insertPage h)

/-! ## Settings -/

theorem formed_sendMsg {c p type payload} (h : Formed c) : Formed (sendMsg c p type payload) := formed_modPort h

theorem formed_sendTimed {c p type payload} (h : Formed c) : Formed (sendTimed c p type payload) := formed_modPort h

theorem formed_noticeDigest {before c} (hx : Formed c) : Formed (noticeDigest before c) :=
  formed_ite hx (formed_foldl (fun _ _ h => formed_sendMsg h) hx)

/-! ## The commit -/

theorem formed_flipEpoch {late w c} (h : Formed c) : Formed (flipEpoch late w c) := by
  unfold flipEpoch
  extract_lets e c1 c2
  have hc1 : Formed c1 := formed_setReg (formed_setReg h)
  have hc2 : Formed c2 := formed_ite hc1 (formed_update hc1)
  exact formed_ite (formed_report hc2) h

theorem formed_applyShadows {copy w c} (h : Formed c) : Formed (applyShadows copy w c) := by
  unfold applyShadows
  extract_lets before c1
  have hc1 : Formed c1 := formed_foldl (fun _ _ hx => formed_setReg hx) h
  exact formed_noticeDigest (formed_addReg (formed_flipEpoch hc1))

theorem formed_snapshotCommit {step c} (h : Formed c) : Formed (snapshotCommit step c) := formed_ite (formed_update h) h

theorem formed_action5 {step c} (h : Formed c) : Formed (action5 step c).1 := by
  unfold action5
  split
  · exact h
  · exact formed_ite (formed_setReg (formed_applyShadows (formed_update h))) (formed_applyShadows (formed_update h))

theorem formed_commitAtOnce {c} (h : Formed c) : Formed (commitAtOnce c) :=
  formed_setReg (formed_applyShadows (formed_update h))

theorem formed_cancelCommit {c} (h : Formed c) : Formed (cancelCommit c) := formed_setReg (formed_update h)

theorem formed_dropShadows {c} (h : Formed c) : Formed (dropShadows c) := formed_update h

theorem formed_addCounter {c k n} (h : Formed c) : Formed (addCounter c k n) := formed_setReg h

theorem formed_flushCounts {c} (h : Formed c) : Formed (flushCounts c) := by
  unfold flushCounts
  extract_lets c1 c2 c3
  have hc1 : Formed c1 := formed_foldl (fun _ _ hx => formed_addCounter hx) h
  have hc2 : Formed c2 := formed_setReg hc1
  have hc3 : Formed c3 := formed_setReg hc2
  exact formed_update hc3

/-! ## The page directory -/

theorem formed_modCopies {c e f} (h : Formed c) : Formed (modCopies c e f) := formed_setWentry h

theorem formed_noteFreed {c k step} (h : Formed c) : Formed (noteFreed c k step) := by
  unfold noteFreed
  split
  · exact h
  · exact formed_update h

theorem formed_freeCopies {c e st step} (h : Formed c) : Formed (freeCopies c e st step) := by
  unfold freeCopies
  extract_lets x c1
  have hc1 : Formed c1 := formed_foldl (fun _ _ hx => formed_ite (formed_noteFreed hx) hx) h
  exact formed_modCopies hc1

theorem formed_rebind {c e old new} (h : Formed c) : Formed (rebind c e old new) :=
  formed_foldl (fun _ _ hx => formed_ite (formed_setSess hx) hx) h

theorem formed_applySwitch {c e step} (h : Formed c) : Formed (applySwitch c e step).1 := by
  unfold applySwitch
  dsimp only
  split
  · exact h
  · refine formed_setReg (formed_addReg (formed_setWentry (formed_modCopies ?_)))
    split
    · exact h
    · exact formed_ite (formed_modCopies (formed_noteFreed (formed_rebind h))) (formed_modCopies h)

theorem formed_freeDrained {c es step} (h : Formed c) : Formed (freeDrained c es step) := by
  unfold freeDrained
  refine formed_foldl ?_ ?_
  · intro _ _ hx
    split
    · exact formed_ite (formed_freeCopies hx) hx
    · exact hx
  · exact h

theorem formed_evictEverywhere {c} (h : Formed c) : Formed (evictEverywhere c) :=
  formed_foldl (fun _ _ hx => formed_evictAll hx) h

theorem formed_setBuild {c status detail} (h : Formed c) : Formed (setBuild c status detail) :=
  formed_setReg (formed_setReg h)

theorem formed_failBuild {c w status detail target} (h : Formed c) : Formed (failBuild c w status detail target) := by
  unfold failBuild
  extract_lets _ c1 c2
  have hc1 : Formed c1 := formed_setBuild (formed_update h)
  have hc2 : Formed c2 := formed_setReg (formed_setReg (formed_addReg hc1))
  exact formed_report hc2

theorem formed_freeBuildCopy {c b} (h : Formed c) : Formed (freeBuildCopy c b) := formed_ite h (formed_modCopies h)

theorem formed_evictEntry {c e step} (h : Formed c) : Formed (evictEntry c e step) := by
  unfold evictEntry
  extract_lets x c1
  have hc1 : Formed c1 := formed_foldl (fun _ _ hx => formed_ite hx (formed_noteFreed hx)) h
  exact formed_addReg (formed_setWentry hc1)

theorem formed_takeTarget {c b step} (h : Formed c) : Formed (takeTarget c b step).1 := by
  unfold takeTarget
  split
  · exact h
  · split
    · exact h
    · split
      · split
        · exact formed_evictEntry h
        · exact h
      · exact h

theorem formed_applyOpening {c b step} (h : Formed c) : Formed (applyOpening c b step).1 := by
  unfold applyOpening
  extract_lets t _ c1
  have ht : Formed t.1 := formed_takeTarget h
  have hc1 : Formed c1 := formed_freeBuildCopy ht
  split
  · exact formed_failBuild hc1
  · dsimp only
    split
    · exact formed_failBuild hc1
    · split
      · exact formed_failBuild hc1
      · exact formed_setReg (formed_setBuild (formed_update (formed_setWentry hc1)))

theorem formed_switchCheck {t c} (h : Formed c) : Formed (switchCheck t c) :=
  formed_foldl (fun _ _ hx => formed_ite hx (formed_ite (formed_update hx) (formed_report (formed_addReg (formed_setReg
    (formed_setBuild hx)))))) h

theorem formed_dropFreed {step c} (h : Formed c) : Formed (dropFreed step c) := formed_update h

theorem formed_dropKept {c} (h : Formed c) : Formed (dropKept c) :=
  formed_foldl (fun _ _ hx => formed_setReg hx) (formed_update h)

theorem formed_action4 {step c} (h : Formed c) : Formed (action4 step c).1 := by
  have hswitched : Formed (freeDrained (c.wts.kept.foldl (fun (x : Chip × List Nat) e =>
      ((applySwitch x.1 e (some step)).1, if (applySwitch x.1 e (some step)).2 then x.2 ++ [e] else x.2))
      ({ c with wts := { c.wts with kept := [] } }, [])).1 (List.range 66) (some step)) :=
    formed_freeDrained (formed_foldl_fst (fun _ _ hx => formed_applySwitch hx) (formed_update h))
  unfold action4
  extract_lets _ r c1 o
  have hc1 : Formed c1 := hswitched
  have ho : Formed o.1 := by
    unfold o
    split
    · split
      · exact formed_applyOpening hc1
      · dsimp only
        exact hc1
    · dsimp only
      exact hc1
  exact formed_ite ho (formed_evictEverywhere ho)

/-! ## Output records -/

theorem formed_ringWrite {atBoundary c r} (h : Formed c) : Formed (ringWrite atBoundary c r) := by
  unfold ringWrite
  extract_lets before w c1 c2 c3 t
  have hc1 : Formed c1 := formed_emit h
  have hc2 : Formed c2 := formed_setReg hc1
  have hc3 : Formed c3 := formed_ite (formed_addReg hc2) (formed_bump hc2)
  exact formed_ite (formed_fireMsix (formed_update hc3)) hc3

theorem formed_outPut {c r} (h : Formed c) : Formed (outPut c r) :=
  formed_ite (formed_ringWrite h) (formed_ite (formed_update h) (formed_report (formed_addReg h)))

theorem formed_drainBacklog {fuel c} (h : Formed c) : Formed (drainBacklog fuel c).1 := by
  induction fuel generalizing c with
  | zero => exact h
  | succ n ih =>
    unfold drainBacklog
    split
    · split
      · exact ih (formed_ringWrite (formed_updateSrv h))
      · exact h
    · exact h

theorem formed_drain {c} (h : Formed c) : Formed (drain c).1 := formed_drainBacklog h

theorem formed_freeWrites {c} (h : Formed c) : Formed (freeWrites c) := formed_ite h (formed_drain (formed_sendPending h))

theorem formed_writeMirror {c} (h : Formed c) : Formed (writeMirror c) :=
  formed_ite h (formed_ite (formed_update h) (formed_emit (formed_update h)))

theorem formed_flushOutputs {step l c} (h : Formed c) : Formed (flushOutputs step l c) := by
  unfold flushOutputs
  extract_lets c1
  have hc1 : Formed c1 := formed_ite h (formed_foldl (fun _ _ hx => formed_outPut hx) h)
  exact formed_writeMirror hc1

theorem formed_recordLost {c} (h : Formed c) : Formed (recordLost c) := by
  unfold recordLost
  extract_lets _ c1 c2
  have hc1 : Formed c1 := formed_update h
  have hc2 : Formed c2 := formed_addReg hc1
  exact formed_reportOnce hc2

theorem formed_recordWrite {c kind step payload} (h : Formed c) : Formed (recordWrite c kind step payload) := by
  unfold recordWrite
  extract_lets size base w len used o pad seq c1 seq' at' c2
  have hc1 : Formed c1 := formed_ite h (formed_emit h)
  have hc2 : Formed c2 := formed_emit hc1
  exact formed_ite h (formed_ite (formed_recordLost h) (formed_setReg (formed_update hc2)))

theorem formed_hostRead {c a n} (h : Formed c) : Formed (hostRead c a n).1 := formed_freeBytes (formed_emit h)

theorem formed_replayNext {kind n fuel c} (h : Formed c) : Formed (replayNext kind n fuel c).1 := by
  induction fuel generalizing c with
  | zero => exact h
  | succ m ih =>
    unfold replayNext
    extract_lets used at' r k step len c'
    have hr : Formed r.1 := formed_hostRead h
    split
    · exact h
    · split
      · exact hr
      · split
        · exact formed_hostRead (formed_setReg hr)
        · exact ih (formed_setReg hr)

theorem formed_replayTake {c kind n} (h : Formed c) : Formed (replayTake c kind n).1 := formed_replayNext h

/-! ## Serving -/

theorem formed_latchSlot {x slot} (h : Formed x.1) : Formed (latchSlot x slot).1 := by
  unfold latchSlot
  extract_lets c l r put n i ws
  split
  · exact h
  · split
    · split
      · exact h
      · exact formed_bump h
    · exact formed_bump h

theorem formed_takeStage {step c} (h : Formed c) : Formed (takeStage step c).1 := by
  unfold takeStage
  extract_lets r r'
  have hr : Formed r.1 := formed_replayTake h
  split
  · split
    · split
      · exact hr
      · exact formed_report hr
    · exact formed_report hr
  · have hr' : Formed r'.1 := formed_foldl_fst (fun _ _ hx => formed_latchSlot hx) h
    dsimp only
    exact hr'

theorem formed_intakeLatch {step c} (h : Formed c) : Formed (intakeLatch step c) := by
  unfold intakeLatch
  extract_lets r c1 _ c2
  have hr : Formed r.1 := formed_takeStage h
  have hc1 : Formed c1 := formed_engWrite hr
  have hc2 : Formed c2 := formed_update hc1
  exact formed_ite (formed_recordWrite hc2) (formed_update h)

theorem formed_readStage {c i} (h : Formed c) : Formed (readStage c i).1 := by
  unfold readStage
  extract_lets z r b n
  have hr : Formed r.1 := formed_engRead h
  split
  · exact formed_report hr
  · exact hr

theorem formed_readAdmission {c} (h : Formed c) : Formed (readAdmission c) := by
  unfold readAdmission
  split
  · exact h
  · refine formed_updateSrv ?_
    split
    · exact h
    · exact formed_foldl_fst (fun _ _ hx => formed_readStage hx) h

theorem formed_fAdmission {c} (h : Formed c) : Formed (fAdmission c) := formed_ite (formed_readAdmission (formed_reach h)) h

theorem formed_freePrompt {c x} (h : Formed c) : Formed (freePrompt c x) := formed_update h

theorem formed_endSession {c s} (h : Formed c) : Formed (endSession c s) := by
  unfold endSession
  extract_lets x c1 c2
  have hc1 : Formed c1 := formed_ite (formed_freePrompt h) h
  have hc2 : Formed c2 := formed_leavePath (formed_truncateKv hc1)
  exact formed_addReg (formed_setSess hc2)

theorem formed_applyResult {step w s c} (h : Formed c) : Formed (applyResult step w s c).1 := by
  unfold applyResult
  extract_lets x pos rd c1 r x1 e toks k l' c2 x2 c3 c4 c5 fin c6
  have hc1 : Formed c1 := formed_engRead h
  have hc2 : Formed c2 := formed_ite (formed_freePrompt hc1) hc1
  have hc4 : Formed c4 := formed_addReg (formed_truncateKv (formed_setSess hc2))
  have hc5 : Formed c5 := formed_ite hc4 (formed_addReg (formed_addReg hc4))
  have hc6 : Formed c6 := formed_insertPages hc5
  split
  · exact formed_report (formed_addReg hc1)
  · split
    · exact formed_endSession hc6
    · exact hc6

theorem formed_applyChunk {step w s c} (h : Formed c) : Formed (applyChunk step w s c) := by
  unfold applyChunk
  extract_lets x c1
  have hc1 : Formed c1 := formed_truncateKv (formed_setSess h)
  exact formed_insertPages hc1

theorem formed_action2 {step c} (h : Formed c) : Formed (action2 step c).1 := by
  refine formed_foldl_fst (fun x y hx => ?_) h
  dsimp only
  split
  · exact hx
  · split
    · exact formed_applyChunk hx
    · exact formed_applyResult hx

theorem formed_removeReq {c i k} (h : Formed c) : Formed (removeReq c i k) := formed_update h

theorem formed_cancelOne {x origin s tag} (h : Formed x.1) : Formed (cancelOne x origin s tag).1 := by
  unfold cancelOne
  extract_lets c e hit old c1 base l1 qs r
  have hc1 : Formed c1 := formed_ite (formed_endSession h) h
  have hr : Formed r.1 := by
    refine formed_foldl_fst ?_ ?_
    · intro _ _ hx
      split
      · exact formed_addReg (formed_removeReq hx)
    · exact formed_ite (formed_endSession h) h
  split
  · exact hr
  · exact formed_addReg hr

theorem formed_action3 {x} (h : Formed x.1) : Formed (action3 x).1 := by
  unfold action3
  refine formed_foldl_fst ?_ ?_
  · intro _ _ hx
    split
    · split
      · exact formed_cancelOne hx
      · exact hx
  · exact h

theorem formed_applyTable {c st r} (h : Formed c) : Formed (applyTable c st r).1 := by
  unfold applyTable
  extract_lets kind n g v words base off c1 t _ c2 img
  have hc1 : Formed c1 := formed_engPatch h
  have hc2 : Formed c2 := formed_update hc1
  have himg : Formed img.1 := formed_engRead hc2
  split
  · split
    · exact h
    · split
      · exact h
      · split
        · exact formed_update hc1
        · split
          · exact formed_update himg
          · exact himg
  · split
    · exact h
    · split
      · exact h
      · split
        · exact formed_update hc1
        · split
          · exact formed_update himg
          · exact himg

theorem formed_countUse {c e} (h : Formed c) : Formed (countUse c e) := formed_ite (formed_setWentry h) h

theorem formed_admitRecord {step c st r} (h : Formed c) : Formed (admitRecord step c st r).1 := by
  unfold admitRecord
  extract_lets s tag p ad gram toks line b d a gens g c1 keys _ x c2 c3 _ c4 c5 w reused bad c6 c7
  have hg : Formed g.1 := by
    unfold g
    split
    · exact h
    · exact formed_engRead h
  have hc1 : Formed c1 := hg
  have hc2 : Formed c2 := formed_countUse (formed_countUse hc1)
  have hc3 : Formed c3 := formed_ite hc2 (formed_countUse hc2)
  have hc4 : Formed c4 := formed_update hc3
  have hc5 : Formed c5 := formed_engPatch hc4
  have hw : Formed w.1 := formed_prefixWalk (formed_setSess hc5)
  have hc6 : Formed c6 := formed_setSess hw
  have hc7 : Formed c7 := formed_addReg (formed_addReg hc6)
  split
  · exact formed_addReg (formed_addReg hc6)
  · exact formed_addReg h

theorem formed_tableRecord {c st r} (h : Formed c) : Formed (tableRecord c st r).1 := by
  unfold tableRecord
  extract_lets y o c1
  have hy : Formed y.1 := formed_applyTable h
  have hc1 : Formed c1 := formed_ite hy (formed_addReg hy)
  exact formed_ite hy (formed_addReg hy)

theorem formed_action6Inputs {step x} (h : Formed x.1) : Formed (action6Inputs step x).1 := by
  unfold action6Inputs
  extract_lets y z
  have hy : Formed y.1 := formed_regionPass (fun _ _ _ hx => formed_tableRecord hx) h
  have hz : Formed z.1 := formed_regionPass (fun _ _ _ hx => formed_admitRecord hx) hy
  exact hz

theorem formed_setPaused {c s p} (h : Formed c) : Formed (setPaused c s p) := formed_setSess h

theorem formed_allocFor {x : Alloc} {s n k} (h : Formed x.chip) : Formed (allocFor x s n k).chip := by
  unfold allocFor
  extract_lets t r
  have hr : Formed r.1 := formed_ensurePages h
  split <;> exact formed_setPaused hr

theorem formed_allocChunks {d fuel} {x : Alloc} (h : Formed x.chip) : Formed (allocChunks d fuel x).chip := by
  induction fuel generalizing x with
  | zero => exact h
  | succ n ih =>
    rw [allocChunks]
    split
    · exact h
    · exact ih (formed_allocFor h)

theorem formed_allocDie {c die} (h : Formed c) : Formed (allocDie c die).1 := by
  refine formed_allocChunks (formed_foldl_at Alloc.chip (fun x s hx => ?_) (formed_foldl_at Alloc.chip (fun x s hx => ?_) h))
  · split
    · exact formed_allocFor hx
    · exact hx
  · split
    · exact formed_allocFor hx
    · split
      · exact formed_allocFor hx
      · exact hx

theorem formed_prefillList {c ch} (h : Formed c) : Formed (prefillList c ch).1 :=
  formed_foldl_fst (fun _ _ hx => formed_engRead hx) h

theorem formed_writeTable {next d w ch c} (h : Formed c) : Formed (writeTable next d w ch c) := by
  unfold writeTable
  extract_lets base rows c1 l
  have hc1 : Formed c1 := formed_engPatch h
  have hl : Formed l.1 := formed_prefillList hc1
  exact formed_engPatch hl

theorem formed_action6Tables {step c} (h : Formed c) : Formed (action6Tables step c) :=
  formed_foldl (fun _ _ hx => formed_writeTable (formed_updateSrv (formed_foldl (fun _ _ hy => formed_report
    (formed_addReg hy)) (formed_allocDie hx)))) (formed_update h)

theorem formed_action6 {step x} (h : Formed x.1) : Formed (action6 step x).1 := by
  unfold action6
  extract_lets x1 c
  have hx1 : Formed x1.1 := formed_action6Inputs h
  have hc : Formed c := formed_action6Tables hx1
  exact formed_updateSrv hc

/-! ## The engine's storage -/

theorem formed_poisonSess {c s} (h : Formed c) : Formed (poisonSess c s) := formed_ite h (formed_setSess h)

theorem formed_poisonWord {c die store index} (h : Formed c) : Formed (poisonWord c die store index) := by
  unfold poisonWord
  split
  · exact formed_poisonSess h
  · exact formed_poisonSess h
  · exact formed_foldl (fun _ _ hx => formed_poisonSess hx) h
  · exact formed_ite h (formed_foldl (fun _ _ hx => formed_poisonSess hx) (formed_setNode h))
  · exact formed_update h
  · exact h

theorem formed_engineFound {c f} (h : Formed c) : Formed (engineFound c f) := by
  unfold engineFound
  extract_lets c1
  have hc1 : Formed c1 := formed_dropFlaw h
  split
  · exact formed_ite (formed_report (formed_poisonWord hc1)) (formed_report hc1)
  · exact h

theorem formed_engineCheck {c} (h : Formed c) : Formed (engineCheck c) := by
  unfold engineCheck
  extract_lets c1
  have hc1 : Formed c1 := formed_foldl (fun _ _ hx => formed_engineFound hx) h
  exact formed_foldl (fun _ _ hx => formed_controlCheck hx) hc1

/-! ## Ports -/

theorem formed_heardQuiet {c} (h : Formed c) : Formed (heardQuiet c) := formed_ite (formed_setReg h) h

theorem formed_setPortReg {c p s v} (h : Formed c) : Formed (setPortReg c p s v) := formed_setReg h

theorem formed_portCount {c p s n} (h : Formed c) : Formed (portCount c p s n) := formed_addReg h

theorem formed_measureStamp {c p} (h : Formed c) : Formed (measureStamp c p) :=
  formed_ite (formed_sendTimed (formed_setPort h)) h

theorem formed_laneInjection {c p} (h : Formed c) : Formed (laneInjection c p) := by
  unfold laneInjection
  extract_lets n
  split
  · exact formed_emit (formed_modPort h)
  · split
    · exact formed_emit (formed_spendInj h)
    · exact h

theorem formed_fSuperframe {p c} (h : Formed c) : Formed (fSuperframe p c) := by
  unfold fSuperframe
  extract_lets n c1
  have hc1 : Formed c1 := formed_laneInjection (formed_measureStamp (formed_modPort (formed_reach h)))
  exact formed_ite (formed_emit hc1) h

theorem formed_startBurst {c p from_} (h : Formed c) : Formed (startBurst c p from_) := by
  unfold startBurst
  extract_lets q l c1
  have hc1 : Formed c1 := formed_setPort h
  exact formed_ite (formed_setPort h) (formed_report (formed_portCount hc1))

theorem formed_throttles {c} (h : Formed c) : Formed (throttles c) :=
  formed_foldl (fun _ _ hx => formed_ite hx (formed_report (formed_update hx))) h

theorem formed_sendWrong {c p a b} (h : Formed c) : Formed (sendWrong c p a b) := by
  unfold sendWrong
  extract_lets r crc
  have hr : Formed r.1 := formed_freeNumber h
  exact formed_emit hr

theorem formed_sendOut {c p a stored b} (h : Formed c) : Formed (sendOut c p a stored b) := by
  unfold sendOut
  split
  · exact formed_emit h
  · split
    · exact formed_sendWrong (formed_modPort h)
    · split
      · exact formed_sendWrong (formed_spendInj h)
      · exact formed_emit h

theorem formed_nakBurst {c p slot16} (h : Formed c) : Formed (nakBurst c p slot16) := by
  unfold nakBurst
  extract_lets q
  split
  · exact formed_ite (formed_startBurst h) h
  · exact h

theorem formed_fSlot {f p a c} (h : Formed c) : Formed (fSlot f p a c) := by
  unfold fSlot
  extract_lets t16 c1 q full burstWas r _ q1 c2 nak ack q2 v2 c3 seq
  have hc1 : Formed c1 := formed_nakBurst (formed_passed (formed_reach h))
  have hc2 : Formed c2 := formed_ite (formed_portCount hc1) hc1
  have hc3 : Formed c3 := formed_portCount (formed_setPort hc2)
  split
  · exact h
  · split
    · exact formed_ite (formed_startBurst (formed_sendOut (formed_portCount (formed_setPort hc2)))) (formed_ite
        (formed_modPort (formed_sendOut (formed_portCount (formed_setPort hc2)))) (formed_sendOut (formed_portCount
          (formed_setPort hc2))))
    · exact formed_ite (formed_emit (formed_setPort (formed_reportOnce hc3))) (formed_throttles (formed_sendOut
        (formed_setPort hc2)))

theorem formed_fBurst {p c} (h : Formed c) : Formed (fBurst p c) := by
  unfold fBurst
  extract_lets slot16
  split
  · exact formed_ite (formed_nakBurst (formed_reach h)) h
  · exact h

theorem formed_coachFault {c p which slot parity} (h : Formed c) : Formed (coachFault c p which slot parity) :=
  formed_reportOnce h

theorem formed_toYard {c p place par x} (h : Formed c) : Formed (toYard c p place par x) := by
  unfold toYard
  extract_lets q c1
  have hc1 : Formed c1 := formed_foldl (fun _ _ hx => formed_dropFlaw hx) h
  exact formed_ite (formed_coachFault (formed_portCount h)) (formed_setPort hc1)

theorem formed_deliverCoach {c p x t16} (h : Formed c) : Formed (deliverCoach c p x t16) := by
  have hfault {a b : Nat} : Formed (if a < b then coachFault (portCount c p 10 1) p 1 x.slot x.parity else c) :=
    formed_ite (formed_coachFault (formed_portCount h)) h
  unfold deliverCoach
  dsimp only
  split
  · exact formed_toYard hfault
  · split
    · split
      · exact formed_modPort hfault
      · exact formed_coachFault (formed_portCount h)
    · exact formed_coachFault (formed_portCount h)

theorem formed_deliverCart {c p x} (h : Formed c) : Formed (deliverCart c p x) := by
  unfold deliverCart
  extract_lets q c1 c2 period
  have hc1 : Formed c1 := formed_portCount h
  have hc2 : Formed c2 := formed_portCount hc1
  exact formed_ite h (formed_ite (formed_portCount h) (formed_ite (formed_setPort hc1) (formed_ite hc2 (formed_report
    (formed_update hc2)))))

theorem formed_deliverCtl {c p kind t payload t16} (h : Formed c) : Formed (deliverCtl c p kind t payload t16) :=
  formed_ite (formed_modPort h) (formed_portCount h)

theorem formed_deliver {c p held payload t16} (h : Formed c) : Formed (deliver c p held payload t16) := by
  unfold deliver
  extract_lets v2 poison
  split
  · exact formed_ite h (formed_ite (formed_portCount h) (formed_deliverCoach h))
  · exact formed_deliverCart h
  · exact formed_deliverCtl h

theorem formed_countFec {c p fec} (h : Formed c) : Formed (countFec c p fec) := by
  unfold countFec
  extract_lets w m c1
  have hc1 : Formed c1 := formed_portCount (formed_portCount h)
  exact formed_foldl (fun _ _ hx => formed_ite (formed_portCount hx) hx) hc1

theorem formed_failCrc {c p t16} (h : Formed c) : Formed (failCrc c p t16) := formed_portCount (formed_modPort h)

theorem formed_fReceive {p bytes t16 fec c} (h : Formed c) : Formed (fReceive p bytes t16 fec c) := by
  unfold fReceive
  extract_lets q c1 hx kind seq pay c2 q1
  have hc1 : Formed c1 := formed_countFec (formed_modPort (formed_reach h))
  have hc2 : Formed c2 := formed_modPort hc1
  exact formed_ite h (formed_ite (formed_failCrc hc1) (formed_ite (formed_ite (formed_deliver (formed_setPort hc2))
    (formed_ite (formed_portCount hc2) (formed_setPort hc2))) (formed_ite (formed_deliver hc2) hc2)))

theorem formed_fThrough {p c} (h : Formed c) : Formed (fThrough p c) := by
  unfold fThrough
  extract_lets q
  split
  · exact formed_ite (formed_modPort (formed_reach (formed_setPort h))) (formed_handCoach (formed_reach (formed_setPort h)))
  · exact h

theorem formed_fTimeout {p tx c} (h : Formed c) : Formed (fTimeout p tx c) := by
  unfold fTimeout
  extract_lets q
  split
  · exact h
  · split
    · split
      · exact formed_startBurst (formed_portCount (formed_reach h))
      · exact h
    · split
      · exact formed_modPort (formed_portCount (formed_reach h))
      · exact h

theorem formed_fLaneFail {p lane why c} (h : Formed c) : Formed (fLaneFail p lane why c) := by
  unfold fLaneFail
  extract_lets q fails m c1
  have hc1 : Formed c1 := formed_setPort h
  split
  · exact h
  · split
    · exact formed_report (formed_setPortReg hc1)
    · split
      · exact hc1
      · exact formed_ite (formed_sendMsg (formed_modPort hc1)) (formed_report hc1)

theorem formed_fSpareRequest {p c} (h : Formed c) : Formed (fSpareRequest p c) := by
  unfold fSpareRequest
  split
  · exact formed_sendMsg (formed_setPort h)
  · exact h

theorem formed_fSpareAck {p c} (h : Formed c) : Formed (fSpareAck p c) := by
  unfold fSpareAck
  split
  · exact formed_setPort h
  · exact h

theorem formed_fLaneSwitch {p tx c} (h : Formed c) : Formed (fLaneSwitch p tx c) := by
  unfold fLaneSwitch
  extract_lets q s m s1
  split
  · split
    · exact formed_report (formed_setPort (formed_reach h))
    · exact h
  · split
    · exact formed_report (formed_setPort (formed_setPortReg (formed_reach h)))
    · exact h

theorem formed_alignRx {c p} (h : Formed c) : Formed (alignRx c p) := formed_modPort h

theorem formed_fRelock {p c} (h : Formed c) : Formed (fRelock p c) := formed_ite (formed_alignRx h) h

/-! ## Training of a port -/

theorem formed_setPState {c p st} (h : Formed c) : Formed (setPState c p st) := formed_modPort h

theorem formed_quietPort {c p} (h : Formed c) : Formed (quietPort c p) := formed_setPortReg (formed_modPort h)

theorem formed_setCmdStatus {c p v} (h : Formed c) : Formed (setCmdStatus c p v) := formed_setPortReg h

theorem formed_endCommand {c p v} (h : Formed c) : Formed (endCommand c p v) := formed_ite (formed_setCmdStatus h) h

theorem formed_portDown {c p reason} (h : Formed c) : Formed (portDown c p reason) := by
  unfold portDown
  extract_lets st c1
  have hc1 : Formed c1 := formed_quietPort (formed_modPort h)
  exact formed_report (formed_endCommand hc1)

theorem formed_toDetect {c p} (h : Formed c) : Formed (toDetect c p) := by
  unfold toDetect
  extract_lets c1
  have hc1 : Formed c1 := formed_setPortReg (formed_quietPort h)
  exact formed_modPort hc1

theorem formed_fDetectDone {p c} (h : Formed c) : Formed (fDetectDone p c) := formed_ite (formed_modPort h) h

theorem formed_restartSlots {c p} (h : Formed c) : Formed (restartSlots c p) := formed_modPort h

theorem formed_fEqualizeDone {p lanes c} (h : Formed c) : Formed (fEqualizeDone p lanes c) := by
  unfold fEqualizeDone
  extract_lets q n w c1 tx
  have hc1 : Formed c1 := formed_ite (formed_setPortReg h) h
  exact formed_ite (formed_ite (formed_portDown (formed_setPort h)) (formed_restartSlots (formed_setPortReg
    (formed_setPort hc1)))) h

theorem formed_fAlignDone {p c} (h : Formed c) : Formed (fAlignDone p c) := by
  unfold fAlignDone
  extract_lets c1 q q'
  have hc1 : Formed c1 := formed_alignRx h
  exact formed_ite (formed_setPort hc1) h

theorem formed_fTrainingRecord {p c} (h : Formed c) : Formed (fTrainingRecord p c) := by
  unfold fTrainingRecord
  split
  · exact formed_ite (formed_setPort h) (formed_setPort h)
  · exact h

theorem formed_peerReports {c p a} (h : Formed c) : Formed (peerReports c p a) := by
  unfold peerReports
  extract_lets c1 d
  have hc1 : Formed c1 := formed_ite h (formed_report h)
  exact formed_ite hc1 (formed_report hc1)

theorem formed_fExchangeDone {p c} (h : Formed c) : Formed (fExchangeDone p c) := by
  unfold fExchangeDone
  extract_lets q
  split
  · exact formed_ite h (formed_ite (formed_portDown (formed_peerReports (formed_setPort (formed_setPortReg
      (formed_setPortReg (formed_setPortReg h)))))) (formed_peerReports (formed_restartSlots (formed_setPort
        (formed_setPortReg (formed_setPortReg (formed_setPortReg (formed_setPortReg (formed_setPortReg
          (formed_setPortReg h))))))))))
  · exact h

theorem formed_slackCheck {c p} (h : Formed c) : Formed (slackCheck c p) := formed_ite h (formed_report h)

theorem formed_coachCheck {ok p c row} (h : Formed c) : Formed (coachCheck ok p c row) := formed_ite h (formed_report h)

theorem formed_activeCheck {c p} (h : Formed c) : Formed (activeCheck c p) := by
  unfold activeCheck
  extract_lets rows
  split
  · exact formed_slackCheck (formed_foldl (fun _ _ hx => formed_coachCheck hx) (formed_foldl
      (fun _ _ hx => formed_coachCheck hx) h))
  · exact h

theorem formed_fMeasureDone {p results c} (h : Formed c) : Formed (fMeasureDone p results c) := by
  unfold fMeasureDone
  extract_lets q lam c1 _ q1 c2 narrowed c3 c4 c5
  have hc1 : Formed c1 := formed_setPortReg (formed_setPortReg h)
  have hc2 : Formed c2 := formed_heardQuiet (formed_setPort hc1)
  have hc3 : Formed c3 := formed_endCommand hc2
  have hc4 : Formed c4 := formed_report hc3
  have hc5 : Formed c5 := by
    unfold c5
    split
    · exact formed_startBurst hc4
    · exact hc4
  exact formed_ite (formed_activeCheck hc5) h

theorem formed_fTrainingTimeout {p c} (h : Formed c) : Formed (fTrainingTimeout p c) := by
  unfold fTrainingTimeout
  split
  · exact formed_portDown (formed_reach h)
  · exact h

theorem formed_fLockLost {p c} (h : Formed c) : Formed (fLockLost p c) := formed_ite (formed_portDown h) h

theorem formed_fPeerPattern {p c} (h : Formed c) : Formed (fPeerPattern p c) := formed_ite (formed_toDetect h) h

theorem formed_askRetrain {f c p w widen} (h : Formed c) : Formed (askRetrain f c p w widen) := by
  unfold askRetrain
  extract_lets _ q c1
  have hc1 : Formed c1 := formed_setCmdStatus (formed_setPort h)
  split
  · exact formed_sendMsg hc1
  · exact formed_setCmdStatus h
  · exact formed_setCmdStatus h
  · exact formed_toDetect (formed_setCmdStatus (formed_setPort h))

theorem formed_acceptRetrain {c p w} (h : Formed c) : Formed (acceptRetrain c p w) := formed_sendMsg (formed_modPort h)

theorem formed_fRetrainRequest {f p c} (h : Formed c) : Formed (fRetrainRequest f p c) := by
  unfold fRetrainRequest
  split
  · exact h
  · exact formed_ite (formed_setPort h) (formed_ite (formed_report (formed_acceptRetrain (formed_setCmdStatus
      (formed_setPort h)))) (formed_acceptRetrain (formed_setPort h)))

theorem formed_fRetrainAccept {p c} (h : Formed c) : Formed (fRetrainAccept p c) := by
  unfold fRetrainAccept
  split
  · exact h
  · split <;> exact formed_setPort h

theorem formed_fRetrainStart {p c} (h : Formed c) : Formed (fRetrainStart p c) := by
  unfold fRetrainStart
  extract_lets q
  split
  · exact formed_ite (formed_modPort (formed_quietPort (formed_reach h))) h
  · exact h

theorem formed_fDigestNotice {p c} (h : Formed c) : Formed (fDigestNotice p c) := by
  unfold fDigestNotice
  split
  · exact formed_setPort h
  · exact h

theorem formed_portCommand {f c p v} (h : Formed c) : Formed (portCommand f c p v) := by
  unfold portCommand
  extract_lets q
  split
  · exact formed_ite (formed_toDetect (formed_setCmdStatus (formed_setPort h))) h
  · exact formed_askRetrain h
  · exact formed_ite (formed_report (formed_setCmdStatus (formed_setPort h))) (formed_askRetrain h)
  · exact formed_askRetrain h
  · exact formed_ite (formed_setCmdStatus h) (formed_setCmdStatus (formed_quietPort (formed_modPort h)))
  · exact h

theorem formed_fDeferred {f p c} (h : Formed c) : Formed (fDeferred f p c) :=
  formed_ite (formed_askRetrain (formed_setPort h)) h

theorem formed_fenceDiscard {c p x} (h : Formed c) : Formed (fenceDiscard c p x) := formed_report (formed_addReg h)

theorem formed_fenceMode {c p v} (h : Formed c) : Formed (fenceMode c p v) := by
  unfold fenceMode
  extract_lets q _ c1
  have hc1 : Formed c1 := formed_quietPort (formed_setPort h)
  exact formed_ite (formed_throttles (formed_foldl (fun _ _ hx => formed_fenceDiscard hx) hc1)) (formed_ite
    (formed_setPState h) h)

/-! ## The fabric -/

theorem formed_makeCart {c dst type target data poison esc} (h : Formed c) :
    Formed (makeCart c dst type target data poison esc).1 := by
  unfold makeCart
  extract_lets k seq _ c'
  have hcp : Formed c' := formed_update h
  exact formed_update h

theorem formed_sendCart {c dst type target data poison} (h : Formed c) : Formed (sendCart c dst type target data poison) := by
  unfold sendCart
  extract_lets r
  have hr : Formed r.1 := formed_makeCart h
  exact formed_update hr

theorem formed_setRouteTable {c v b} (h : Formed c) : Formed (setRouteTable c v b) := formed_update h

theorem formed_fillRoutes {c d} (h : Formed c) : Formed (fillRoutes c d) := formed_setRouteTable (formed_setRouteTable h)

theorem formed_noRoute {c loc x} (h : Formed c) : Formed (noRoute c loc x) := formed_report (formed_addReg h)

theorem formed_levelCount {c lv s} (h : Formed c) : Formed (levelCount c lv s) := formed_addReg h

theorem formed_enqueue {c p x esc} (h : Formed c) : Formed (enqueue c p x esc) := formed_throttles (formed_modPort h)

theorem formed_injectCart {c x d} (h : Formed c) (hd : injectCart c x = some d) : Formed d := by
  unfold injectCart at hd
  dsimp only at hd
  split at hd
  · cases hd
  · cases hd
    exact formed_noRoute h
  · split at hd
    · cases hd
      exact formed_fenceDiscard h
    · split at hd
      · obtain ⟨-, hd⟩ := Option.ite_none_right_eq_some.1 hd
        cases hd
        exact formed_levelCount (formed_enqueue h)
      · split at hd
        · cases hd
        · obtain ⟨-, hd⟩ := Option.ite_none_right_eq_some.1 hd
          cases hd
          exact formed_levelCount (formed_enqueue h)

theorem formed_popRecv {c p} (h : Formed c) : Formed (popRecv c p) := formed_modPort h

theorem formed_forward {c p x} (h : Formed c) : Formed (forward c p x) := by
  unfold forward
  extract_lets y
  split
  · exact formed_ite (formed_fenceDiscard (formed_popRecv h)) (formed_ite (formed_noRoute (formed_popRecv h)) (formed_ite
      (formed_ite (formed_levelCount (formed_enqueue (formed_popRecv h))) h) (formed_ite (formed_levelCount (formed_enqueue
        (formed_popRecv h))) h)))
  · exact formed_noRoute (formed_popRecv h)

theorem formed_fEscape {p c} (h : Formed c) : Formed (fEscape p c) := by
  unfold fEscape
  split
  · exact h
  · split
    · exact h
    · split
      · exact formed_ite (formed_levelCount (formed_levelCount (formed_enqueue (formed_popRecv (formed_reach h))))) h
      · exact h

theorem formed_sendPressure {b c l} (h : Formed c) : Formed (sendPressure b c l) := by
  unfold sendPressure
  dsimp only
  split
  · exact h
  · split
    · exact formed_injectCart (formed_makeCart h) ‹_›
    · exact formed_update (formed_makeCart h)

theorem formed_fPressure {c} (h : Formed c) : Formed (fPressure c) := by
  unfold fPressure
  split
  · exact formed_update h
  · exact formed_update (formed_foldl (fun _ _ hx => formed_sendPressure hx) (formed_reach h))

theorem formed_takePressure {c x} (h : Formed c) : Formed (takePressure c x) :=
  formed_foldl (fun _ _ hx => formed_ite (formed_ite (formed_update (formed_levelCount hx)) (formed_report (formed_update
    (formed_levelCount hx)))) hx) h

theorem formed_fPressureExpire {c} (h : Formed c) : Formed (fPressureExpire c) := by
  have hdrop (k t) : Formed (report { reach c t with fab :=
      { (reach c t).fab with pressure := (reach c t).fab.pressure.set k none } } 0x0502 .modl .apart [k + 1, 1, 1]) :=
    formed_report (formed_update (formed_reach h))
  unfold fPressureExpire
  dsimp only
  split
  · exact formed_ite (hdrop ..) (hdrop ..)
  · exact hdrop ..
  · exact hdrop ..
  · exact h

/-! ## Migration -/

theorem formed_markReady {c} (h : Formed c) : Formed (markReady c) := formed_foldl (fun _ _ hx => formed_setPool hx) h

theorem formed_switchFlight {rn c x} (h : Formed c) : Formed (switchFlight rn c x) := by
  unfold switchFlight
  extract_lets pl _ pg c1
  have hc1 : Formed c1 := formed_setPool h
  exact formed_addReg hc1

theorem formed_switchPool {c r} (h : Formed c) : Formed (switchPool c r) := by
  unfold switchPool
  extract_lets l c1 c2
  have hc1 : Formed c1 := formed_foldl (fun _ _ hx => formed_switchFlight hx) h
  have hc2 : Formed c2 := formed_foldl (fun _ _ hx => formed_switchFlight hx) hc1
  exact formed_foldl (fun _ _ hx => formed_report (formed_addReg hx)) hc2

theorem formed_residenceSwitch {c} (h : Formed c) : Formed (residenceSwitch c) :=
  formed_foldl (fun _ _ hx => formed_switchPool hx) h

theorem formed_migratePool {c r} (h : Formed c) : Formed (migratePool c r) :=
  formed_ite (formed_setPool h) (formed_setPool h)

theorem formed_migrate {c} (h : Formed c) : Formed (migrate c) := formed_foldl (fun _ _ hx => formed_migratePool hx) h

theorem formed_copyGran {src dst c} (h : Formed c) : Formed (copyGran src dst c) := by
  unfold copyGran
  extract_lets r
  have hr : Formed r.1 := formed_readGran h
  exact formed_writeGran hr

theorem formed_copyPage {rn page frame promote c} (h : Formed c) : Formed (copyPage rn page frame promote c) :=
  formed_foldl (fun _ _ hx => formed_ite (formed_copyGran hx) (formed_copyGran hx)) h

theorem formed_fCopyDone {p page c} (h : Formed c) : Formed (fCopyDone p page c) := by
  unfold fCopyDone
  split
  · exact h
  · split
    · exact h
    · exact formed_ite (formed_setPool (formed_copyPage h)) (formed_bump (formed_setPool (formed_copyPage h)))

theorem formed_fWriteback {addr c} (h : Formed c) : Formed (fWriteback addr c) := formed_ite (formed_writeBack h) h

theorem formed_scrubStacks {lo hi c} (h : Formed c) : Formed (scrubStacks lo hi c) :=
  formed_foldl (fun _ _ hx => formed_ite (formed_onDieCheck hx) hx) h

theorem formed_fScrub {start count c} (h : Formed c) : Formed (fScrub start count c) :=
  formed_ite h (formed_foldl (fun _ _ hx => formed_writeBack (formed_readGran hx)) (formed_ite h (formed_scrubStacks h)))

/-! ## The replica -/

theorem formed_restoreRegions {b l o c} (h : Formed c) : Formed (restoreRegions b l o c) := by
  induction l generalizing o c with
  | nil => exact h
  | cons s t ih => exact ih (formed_engWrite h)

theorem formed_restoreServing {b c} (h : Formed c) : Formed (restoreServing b c) := formed_updateSrv h

theorem formed_restoreTables {c} (h : Formed c) : Formed (restoreTables c) := by
  unfold restoreTables
  extract_lets r named l
  have hr : Formed r.1 := formed_freeBytes h
  exact formed_updateSrv hr

theorem formed_restoreDerived {b c} (h : Formed c) : Formed (restoreDerived b c) := by
  unfold restoreDerived
  extract_lets c1 sess runs _ c2
  have hc1 : Formed c1 := formed_foldl (fun _ _ hx => formed_setWentry hx) h
  have hc2 : Formed c2 := formed_updateSrv hc1
  clear_value c2
  exact formed_foldl (fun _ _ hx => formed_updateSrv hx) (formed_updateSrv hc2)

theorem formed_restoreReplica {b c} (h : Formed c) : Formed (restoreReplica b c) := by
  unfold restoreReplica
  extract_lets params _ c1 _ c2
  have hc1 : Formed c1 := formed_update h
  have hc2 : Formed c2 := formed_setStew hc1
  exact formed_restoreDerived (formed_restoreTables (formed_restoreRegions (formed_restoreServing hc2)))

/-! ## The mirror -/

theorem formed_sendBatch {c dst type b} (h : Formed c) : Formed (sendBatch c dst type b) :=
  formed_foldl (fun _ _ hx => formed_sendCart hx) h

theorem formed_captureLine {c p r l} (h : Formed c) : Formed (captureLine c p r l).1 := by
  unfold captureLine
  extract_lets a x
  have hx : Formed x.1 := formed_readGran h
  exact hx

theorem formed_captureLines {c l} (h : Formed c) : Formed (captureLines c l).1 := by
  refine formed_foldl_fst (fun x k hx => ?_) h
  dsimp only
  split
  · exact formed_captureLine (p := k / 4294967296) (l := k % 4294967296) hx
  · exact hx

theorem formed_captureState {step c} (h : Formed c) : Formed (captureState step c) := by
  unfold captureState
  extract_lets d s _ c1 _ full r b
  have hc1 : Formed c1 := formed_update h
  have hr : Formed r.1 := formed_captureLines hc1
  exact formed_ite (formed_update hc1) (formed_update hr)

theorem formed_nextCkpt {c} (h : Formed c) : Formed (nextCkpt c) := by
  unfold nextCkpt
  split <;> exact formed_update h

theorem formed_refuseCkpt {w c} (h : Formed c) : Formed (refuseCkpt w c) := formed_report (formed_setReg h)

theorem formed_failCkpt {w c} (h : Formed c) : Formed (failCkpt w c) := formed_refuseCkpt (formed_nextCkpt h)

theorem formed_captureCkpt {step t c} (h : Formed c) : Formed (captureCkpt step t c) :=
  formed_ite h (formed_ite (formed_refuseCkpt h) (formed_ite (formed_update h) (formed_update h)))

theorem formed_fMirrorSend {c} (h : Formed c) : Formed (fMirrorSend c) := by
  unfold fMirrorSend
  split
  · exact formed_sendBatch (formed_update h)
  · exact h

theorem formed_setMirror {c st} (h : Formed c) : Formed (setMirror c st) := by
  unfold setMirror
  extract_lets c1 c2
  have hc1 : Formed c1 := formed_setReg h
  have hc2 : Formed c2 := formed_ite (formed_report hc1) hc1
  exact formed_ite h (formed_ite (formed_failCkpt hc2) hc2)

theorem formed_logBatch {c b} (h : Formed c) : Formed (logBatch c b) := by
  unfold logBatch
  extract_lets _ c1 torn _ c2 log
  have hc1 : Formed c1 := formed_update h
  have hc2 : Formed c2 := formed_ite (formed_setMirror (formed_update hc1)) hc1
  exact formed_ite hc1 (formed_ite hc2 (formed_ite (formed_setMirror (formed_update hc2)) (formed_update hc2)))

theorem formed_compareBatch {c b} (h : Formed c) : Formed (compareBatch c b) := by
  unfold compareBatch
  extract_lets src
  split
  · exact h
  · exact formed_ite (formed_ite h (formed_report h)) (formed_report (formed_ite h (formed_report h)))

theorem formed_passCkpt {step c} (h : Formed c) : Formed (passCkpt step c) := by
  unfold passCkpt
  split
  · exact formed_ite (formed_failCkpt h) h
  · exact h

theorem formed_applyBatch {c b} (h : Formed c) : Formed (applyBatch c b) := by
  unfold applyBatch
  extract_lets c1 start image
  have hc1 : Formed c1 := formed_compareBatch h
  exact formed_passCkpt (formed_setMirror (formed_setReg (formed_update hc1)))

theorem formed_applyLog {fuel c} (h : Formed c) : Formed (applyLog fuel c) := by
  induction fuel generalizing c with
  | zero => exact h
  | succ n ih =>
    unfold applyLog
    split
    · exact h
    · split
      · exact ih (formed_applyBatch (formed_update h))
      · exact h

theorem formed_applyBatches {c} (h : Formed c) : Formed (applyBatches c) := formed_applyLog h

theorem formed_takeMirror {c x} (h : Formed c) : Formed (takeMirror c x) := by
  unfold takeMirror
  extract_lets step old b rest _ c1
  have hc1 : Formed c1 := formed_logBatch (formed_update h)
  exact formed_ite h (formed_ite (formed_ite (formed_applyBatches hc1) hc1) (formed_update h))

theorem formed_lagCheck {m c} (h : Formed c) : Formed (lagCheck m c) := formed_ite h (formed_ite h (formed_setMirror h))

theorem formed_ckptCart {c o poison d} (h : Formed c) : Formed (ckptCart c o poison d) := formed_sendCart h

theorem formed_fCkptWrite {c} (h : Formed c) : Formed (fCkptWrite c) := by
  unfold fCkptWrite
  split
  · exact formed_ite h (formed_setReg (formed_update (formed_foldl (fun _ _ hx => formed_ckptCart hx) (formed_foldl
      (fun _ _ hx => formed_ckptCart hx) h))))
  · exact h

theorem formed_fCkptDone {c} (h : Formed c) : Formed (fCkptDone c) := by
  unfold fCkptDone
  split
  · exact formed_ite h (formed_ite (formed_setReg (formed_setReg (formed_addReg (formed_nextCkpt (formed_ckptCart h)))))
      (formed_setReg (formed_addReg (formed_nextCkpt (formed_ckptCart h)))))
  · exact h

theorem formed_startImport {c} (h : Formed c) : Formed (startImport c) := by
  unfold startImport
  extract_lets kind step img rest _ c1
  have hc1 : Formed c1 := formed_update h
  exact formed_sendCart (formed_setReg hc1)

theorem formed_takeImport {c x} (h : Formed c) : Formed (takeImport c x) := by
  unfold takeImport
  split
  · exact formed_update h
  · split
    · exact formed_ite (formed_update h) h
    · exact h

theorem formed_sourceLine {c a part line} (h : Formed c) : Formed (sourceLine c a part line).1 := by
  unfold sourceLine
  extract_lets r
  have hr : Formed r.1 := formed_readGran h
  exact hr

theorem formed_sourceLines {c l} (h : Formed c) : Formed (sourceLines c l).1 :=
  formed_foldl_fst (fun _ y hx => formed_sourceLine (a := y.1) (part := y.2.1) (line := y.2.2) hx) h

theorem formed_imageAnswer {c step img} (h : Formed c) : Formed (imageAnswer c step img).1 := by
  unfold imageAnswer
  extract_lets head b row part rep stage bytes pools
  have hhead : Formed head.1 := formed_sourceLines h
  have hpools : Formed pools.1 := formed_sourceLines (formed_sourceLines (formed_sourceLines hhead))
  split
  · dsimp only
    exact hhead
  · dsimp only
    exact hpools

theorem formed_fImportAnswer {c} (h : Formed c) : Formed (fImportAnswer c) := by
  unfold fImportAnswer
  split
  · exact h
  · dsimp only
    split
    · split
      · exact formed_sendBatch (formed_update h)
      · exact formed_update h
    · split
      · exact formed_sendBatch (formed_imageAnswer (formed_update h))
      · exact formed_imageAnswer (formed_update h)

theorem formed_refuseImport {c st} (h : Formed c) : Formed (refuseImport c st) :=
  formed_report (formed_setReg (formed_update h))

theorem formed_importPools {l c} (h : Formed c) : Formed (importPools l c) := by
  unfold importPools
  extract_lets c1
  have hc1 : Formed c1 := formed_foldl (fun _ _ hx => formed_setPool hx) h
  refine formed_foldl ?_ ?_
  · intro _ _ hx
    split
    · split
      · exact formed_writeGran hx
      · exact hx
    · exact hx
  · exact hc1

theorem formed_importState {b c} (h : Formed c) : Formed (importState b c) := by
  unfold importState
  extract_lets rep c1 st _ c2 kind
  have hc1 : Formed c1 := formed_importPools (formed_restoreReplica h)
  have hc2 : Formed c2 := formed_ite (formed_update hc1) (formed_engWrite (formed_update hc1))
  exact formed_update hc2

theorem formed_fImportComplete {c} (h : Formed c) : Formed (fImportComplete c) := by
  unfold fImportComplete
  split
  · exact h
  · exact formed_ite h (formed_ite (formed_refuseImport h) (formed_ite (formed_refuseImport h) (formed_ite
      (formed_refuseImport h) (formed_setReg (formed_importState h)))))

theorem formed_fImportTimeout {c} (h : Formed c) : Formed (fImportTimeout c) := by
  unfold fImportTimeout
  split
  · exact formed_ite h (formed_refuseImport (formed_reach h))
  · exact h

/-! ## Carts -/

theorem formed_remoteWrite {f die c x} (h : Formed c) : Formed (remoteWrite f die c x) :=
  formed_bgWriteRun (formed_holdSpan h)

theorem formed_takeMessage {c x d} (h : Formed c) (hd : takeMessage c x = some d) : Formed d := by
  unfold takeMessage at hd
  dsimp only at hd
  split at hd
  · cases hd
    exact h
  · obtain ⟨-, hd⟩ := Option.ite_none_right_eq_some.1 hd
    cases hd
    exact formed_setStew h

theorem formed_consume {f die loc c x d} (h : Formed c) (hd : consume f die loc c x = some d) : Formed d := by
  unfold consume at hd
  dsimp only at hd
  split at hd
  case h_2 =>
    obtain ⟨e, he, rfl⟩ := Option.map_eq_some_iff.1 hd
    exact formed_addReg (formed_takeMessage h he)
  all_goals cases hd
  · exact formed_remoteWrite (formed_addReg h)
  · exact formed_takeMirror (formed_addReg h)
  · exact formed_remoteWrite (formed_addReg h)
  · exact formed_takeImport (formed_addReg h)
  · exact formed_takePressure (formed_addReg h)
  · exact formed_report (formed_addReg h)

theorem formed_dispatchPort {f c p} (h : Formed c) : Formed (dispatchPort f c p) := by
  unfold dispatchPort
  split
  · exact h
  · split
    · split
      · exact formed_popRecv (formed_consume h ‹_›)
      · exact h
    · exact formed_forward h

theorem formed_fDispatch {f die c} (h : Formed c) : Formed (fDispatch f die c) :=
  formed_ite h (formed_foldl (fun _ _ hx => formed_dispatchPort hx) h)

theorem formed_leave {f c x d} (h : Formed c) (hd : leave f c x = some d) : Formed d := by
  unfold leave at hd
  split at hd
  · exact formed_consume h hd
  · exact formed_injectCart h hd

theorem formed_injectFirst {f c before l} (h : Formed c) : Formed (injectFirst f c before l) := by
  induction l generalizing before with
  | nil => exact h
  | cons x t ih =>
    unfold injectFirst
    split
    · exact formed_leave (formed_update h) ‹_›
    · exact ih

theorem formed_fInject {f c} (h : Formed c) : Formed (fInject f c) := formed_ite h (formed_injectFirst h)

/-! ## Stewards -/

theorem formed_enterRoutine {c d} (h : Formed c) : Formed (enterRoutine c d) := formed_setStew h

theorem formed_fInterrupt {c} (h : Formed c) : Formed (fInterrupt c) :=
  formed_ite (formed_foldl (fun _ _ hx => formed_enterRoutine hx) (formed_update h)) h

theorem formed_endRoutine {c d} (h : Formed c) : Formed (endRoutine c d) := by
  unfold endRoutine
  extract_lets _ c1
  have hc1 : Formed c1 := formed_setStew h
  exact formed_update hc1

theorem formed_faultRoutine {c d} (h : Formed c) : Formed (faultRoutine c d) := formed_addReg (formed_endRoutine h)

theorem formed_cutRoutines {c} (h : Formed c) : Formed (cutRoutines c) :=
  formed_foldl (fun _ _ hx => formed_ite hx (formed_endRoutine hx)) h

theorem formed_fEcall {d a7 c} (h : Formed c) : Formed (fEcall d a7 c) :=
  formed_ite (formed_ite (formed_endRoutine h) (formed_faultRoutine h)) h

theorem formed_fAccessFault {d c} (h : Formed c) : Formed (fAccessFault d c) := formed_ite (formed_faultRoutine h) h

theorem formed_postBox {c} (h : Formed c) : Formed (postBox c) := by
  unfold postBox
  extract_lets m st _ c1
  have hc1 : Formed c1 := formed_update h
  exact formed_ite (formed_update hc1) (formed_bump hc1)

theorem formed_storeBox {c o b} (h : Formed c) : Formed (storeBox c o b) := by
  unfold storeBox
  extract_lets _ c1
  have hc1 : Formed c1 := formed_update h
  exact formed_ite (formed_postBox hc1) hc1

theorem formed_fVariantPost {target variant params c} (h : Formed c) : Formed (fVariantPost target variant params c) := by
  unfold fVariantPost
  extract_lets c1
  have hc1 : Formed c1 := formed_storeBox (formed_storeBox h)
  exact formed_ite (formed_storeBox hc1) h

theorem formed_fWaitCycle {d v c} (h : Formed c) : Formed (fWaitCycle d v c) := formed_ite (formed_setStew h) h

theorem formed_fCycleWake {d c} (h : Formed c) : Formed (fCycleWake d c) := by
  unfold fCycleWake
  split
  · exact formed_ite (formed_setStew (formed_reach h)) h
  · exact h

theorem formed_fWaitDies {d mask c} (h : Formed c) : Formed (fWaitDies d mask c) := formed_ite (formed_setStew h) h

theorem formed_fDiesWake {d c} (h : Formed c) : Formed (fDiesWake d c) := by
  unfold fDiesWake
  split
  · exact formed_ite (formed_setStew h) h
  · exact h

theorem formed_fPop {d v c} (h : Formed c) : Formed (fPop d v c) := formed_ite (formed_setStew h) h

theorem formed_messageCart {c v page} (h : Formed c) : Formed (messageCart c v page).1 := formed_makeCart h

theorem formed_injectMessage {f c die} (h : Formed c) : Formed (injectMessage f c die) := by
  unfold injectMessage
  dsimp only
  split
  · exact h
  · split
    · exact formed_setStew (formed_leave (formed_messageCart h) ‹_›)
    · exact h

theorem formed_sendPage {f d v c} (h : Formed c) : Formed (sendPage f d v c) := by
  unfold sendPage
  extract_lets w c1
  have hc1 : Formed c1 := formed_setStew h
  exact formed_ite (formed_injectMessage hc1) hc1

theorem formed_fSend {f d v page c} (h : Formed c) : Formed (fSend f d v page c) :=
  formed_ite (formed_sendPage (formed_setStew h)) h

/-! ## The boundary -/

theorem formed_latchVariant {c} (h : Formed c) : Formed (latchVariant c) := by
  unfold latchVariant
  extract_lets _ d c1
  have hc1 : Formed c1 := formed_update h
  split
  · exact formed_update h
  · exact formed_reportOnce (formed_bump hc1)

theorem formed_cutOff {c} (h : Formed c) : Formed (cutOff c) := by
  unfold cutOff
  extract_lets c1 n c2 c3
  have hc1 : Formed c1 := formed_passed (formed_reach h)
  have hc2 : Formed c2 := formed_lagCheck (formed_cutRoutines (formed_snapshotCommit (formed_switchCheck (formed_intakeLatch
    (formed_latchVariant hc1)))))
  have hc3 : Formed c3 := formed_markReady hc2
  exact formed_update hc3

theorem formed_catchUp {c} (h : Formed c) : Formed (catchUp c) := formed_ite (formed_cutOff h) h

theorem formed_fCutOff {c} (h : Formed c) : Formed (fCutOff c) := formed_ite (formed_cutOff h) h

theorem formed_unissued {c d} (h : Formed c) : Formed (unissued c d) := formed_ite h (formed_reportOnce (formed_bump h))

theorem formed_lagFault {c x} (h : Formed c) : Formed (lagFault c x) := formed_ite h (formed_report h)

theorem formed_closeFaults {c} (h : Formed c) : Formed (closeFaults c) :=
  formed_foldl (fun _ _ hx => formed_lagFault hx) (formed_foldl (fun _ _ hx => formed_unissued hx) h)

theorem formed_action1 {n c} (h : Formed c) : Formed (action1 n c) := by
  unfold action1
  extract_lets c1
  have hc1 : Formed c1 := formed_dropFreed (formed_flushCounts (formed_closeFaults (formed_atMoment h)))
  exact formed_atMoment (formed_applyBatches (formed_captureCkpt (formed_captureState hc1)))

theorem formed_replayCompare {n c} (h : Formed c) : Formed (replayCompare n c) := by
  unfold replayCompare
  extract_lets r c1
  have hr : Formed r.1 := formed_replayTake h
  have hc1 : Formed c1 := hr
  split
  · exact h
  · split
    · exact hr
    · split
      · exact hc1
      · dsimp only
        split
        · exact formed_report (formed_update hc1)
        · exact hc1

theorem formed_action7 {resume c} (h : Formed c) : Formed (action7 resume c) := by
  unfold action7
  extract_lets v _ c1
  have hc1 : Formed c1 := formed_update h
  exact formed_ite (formed_setReg hc1) hc1

theorem formed_action8 {n resume c} (h : Formed c) : Formed (action8 n resume c) :=
  formed_ite (formed_report (formed_addReg (formed_update h))) h

theorem formed_idleServing {c} (h : Formed c) : Formed (idleServing c) := formed_update h

theorem formed_actions {n resume c} (h : Formed c) : Formed (actions n resume c) := by
  unfold actions
  extract_lets c1 x _ y c2 epoch k z c3 c4 flip
  have hc1 : Formed c1 := formed_residenceSwitch (formed_readAdmission (formed_atMoment h))
  have hx : Formed x.1 := by
    unfold x
    split
    · exact formed_action3 (formed_action2 (formed_engineCheck hc1))
    · exact formed_residenceSwitch (formed_readAdmission (formed_atMoment h))
  have hy : Formed y.1 := formed_action4 hx
  have hc2 : Formed c2 := formed_noticeDigest hy
  have hk : Formed k.1 := formed_action5 hc2
  have hz : Formed z.1 := by
    unfold z
    split
    · exact formed_action6 hk
    · exact formed_idleServing hk
  have hc3 : Formed c3 := formed_migrate (formed_action8 (formed_action7 hz))
  have hc4 : Formed c4 := formed_flushOutputs hc3
  exact formed_atMoment (formed_replayCompare (formed_recordWrite hc4))

theorem formed_freeYard {m c} (h : Formed c) : Formed (freeYard m c) :=
  formed_foldl (fun _ _ hx => formed_ite hx (formed_modPort hx)) h

theorem formed_sendStamps {m c} (h : Formed c) : Formed (sendStamps m c) :=
  formed_ite h (formed_foldl (fun _ _ hx => formed_ite (formed_sendTimed hx) hx) h)

theorem formed_stepAdjust {c} (h : Formed c) : Formed (stepAdjust c) := by
  unfold stepAdjust
  extract_lets own
  split
  · exact h
  · exact formed_ite h (formed_ite h (formed_report (formed_update h)))

theorem formed_beginStep {m at' c} (h : Formed c) : Formed (beginStep m at' c) := by
  unfold beginStep
  extract_lets base _ _ _ _ c1
  have hc1 : Formed c1 := formed_update h
  exact formed_freeYard hc1

theorem formed_boundary {c} (h : Formed c) : Formed (boundary c) := by
  unfold boundary
  extract_lets at' c1 n c2
  have hc1 : Formed c1 := formed_finishStep (formed_reach h)
  have hc2 : Formed c2 := formed_action1 hc1
  exact formed_ite (formed_update hc2) (formed_stepAdjust (formed_sendStamps (formed_beginStep (formed_actions hc2))))

theorem formed_fBoundary {c} (h : Formed c) : Formed (fBoundary c) :=
  formed_ite (formed_boundary (formed_ite h (formed_cutOff h))) h

theorem formed_fStepStamp {p c} (h : Formed c) : Formed (fStepStamp p c) := by
  unfold fStepStamp
  split
  · exact h
  · exact formed_ite (formed_stepAdjust (formed_update (formed_setPort h))) (formed_setPort h)

end Sys2Proof.Proofs
end

section
/-! PROOFS. Weights, loads, requests, power, security, the samplers and the stewards keep the chip in form (07 R200). -/

namespace Sys2Proof.Proofs

open Sys2Proof Sys2Proof.Machine Sys2Proof.Claims Sys2Proof.Laws

/-! ## Containers -/

theorem formed_readStaging {c off len} (h : Formed c) : Formed (readStaging c off len).1 :=
  formed_foldl_fst (fun _ _ hx => formed_readGran hx) h

/-! ## Builds -/

theorem formed_markOpening {c b} (h : Formed c) : Formed (markOpening c b) := formed_ite h (formed_setWentry h)

theorem formed_buildOpen {f c} (h : Formed c) : Formed (buildOpen f c) := by
  unfold buildOpen
  extract_lets off len target r
  have hr : Formed r.1 := formed_readStaging h
  split
  · exact formed_failBuild h
  · split
    · exact formed_failBuild hr
    · exact formed_ite (formed_noticeDigest (formed_applyOpening (formed_setReg (formed_update hr)))) (formed_setReg
        (formed_setBuild (formed_markOpening (formed_setReg (formed_update hr)))))

theorem formed_buildFeed {c} (h : Formed c) : Formed (buildFeed c) := by
  unfold buildFeed
  extract_lets off len r
  have hr : Formed r.1 := formed_readStaging h
  split
  · exact h
  · split
    · exact formed_setBuild h
    · split
      · exact formed_setBuild h
      · split
        · exact formed_setBuild h
        · exact formed_ite (formed_setBuild h) (formed_setBuild (formed_update hr))

theorem formed_putCopy {c k off d} (h : Formed c) : Formed (putCopy c k off d) :=
  formed_foldl (fun _ _ hx => formed_writePart hx) h

theorem formed_feedChunks {b k l bytes c} (h : Formed c) : Formed (feedChunks b k l bytes c).1 := by
  induction l generalizing bytes c with
  | nil => exact h
  | cons x t ih =>
    unfold feedChunks
    split
    · exact h
    · exact ih (formed_addReg (formed_addReg (formed_putCopy h)))

theorem formed_fFeedDone {c} (h : Formed c) : Formed (fFeedDone c) := by
  unfold fFeedDone
  split
  · exact h
  · split
    · exact h
    · dsimp only
      split
      · exact h
      · split
        · exact formed_failBuild (formed_freeBuildCopy (formed_feedChunks h))
        · exact formed_setBuild (formed_update (formed_feedChunks h))

theorem formed_buildFinish {c} (h : Formed c) : Formed (buildFinish c) := by
  unfold buildFinish
  split
  · exact h
  · exact formed_ite (formed_setBuild h) (formed_setReg (formed_setReg (formed_addReg (formed_setBuild (formed_update
      (formed_modCopies h))))))

theorem formed_buildAbandon {c} (h : Formed c) : Formed (buildAbandon c) := by
  unfold buildAbandon
  split
  · exact h
  · exact formed_failBuild (formed_freeBuildCopy h)

theorem formed_buildCommand {f c v} (h : Formed c) : Formed (buildCommand f c v) := by
  unfold buildCommand
  split
  · exact formed_buildOpen h
  · exact formed_buildFeed h
  · exact formed_buildFinish h
  · exact formed_buildAbandon h
  · exact h

theorem formed_switchNow {c e} (h : Formed c) : Formed (switchNow c e) := by
  unfold switchNow
  extract_lets before c1
  have hc1 : Formed c1 := formed_applySwitch h
  exact formed_noticeDigest (formed_evictEverywhere (formed_freeDrained hc1))

theorem formed_writeSwitch {c e t} (h : Formed c) : Formed (writeSwitch c e t) :=
  formed_ite (formed_switchNow h) (formed_setReg h)

/-! ## The commands of an injection -/

theorem formed_startInjection {c} (h : Formed c) : Formed (startInjection c) :=
  formed_ite (formed_setInj (formed_update h)) (formed_setInj (formed_update h))

theorem formed_bringInjection {c j} (h : Formed c) : Formed (bringInjection c j) := by
  unfold bringInjection
  split
  · exact formed_writeGran h
  · split
    · exact formed_spendInj (formed_modPort h)
    · exact formed_spendInj (formed_modPort h)
    · exact h

theorem formed_fInjectionApply {place c} (h : Formed c) : Formed (fInjectionApply place c) := by
  unfold fInjectionApply
  split
  · exact formed_bringInjection h
  · exact h

/-! ## Loads -/

theorem formed_clearSteward {c d} (h : Formed c) : Formed (clearSteward c d) := by
  unfold clearSteward
  extract_lets c1
  have hc1 : Formed c1 := formed_dropFlaws h
  exact formed_setStew hc1

theorem formed_discardPlan {c} (h : Formed c) : Formed (discardPlan c) := by
  have hc : Formed ((List.range 4).foldl clearSteward (cancelCommit c)) :=
    formed_foldl (fun _ _ hx => formed_clearSteward hx) (formed_cancelCommit h)
  exact formed_noticeDigest (formed_setReg (formed_setReg (formed_dropKept (formed_keepWindow hc))))

theorem formed_unloadPlan {c} (h : Formed c) : Formed (unloadPlan c) := formed_ite h (formed_discardPlan h)

theorem formed_setLoad {c status detail phase} (h : Formed c) : Formed (setLoad c status detail phase) :=
  formed_setReg (formed_setReg (formed_setReg h))

theorem formed_phaseWork {f c l} (h : Formed c) : Formed (phaseWork f c l).1 := by
  unfold phaseWork
  split
  · dsimp only
    split
    · have hr := formed_readStaging (off := reg c (key 0x2020 2)) (len := reg c (key 0x2020 3)) h
      exact { hr with mem := wf_setBytes _ _ _ hr.mem }
    · exact h
  · exact h
  · exact h
  · exact h
  · exact h
  · exact h

theorem formed_runPhases {f fuel c l} (h : Formed c) : Formed (runPhases f fuel c l).1 := by
  induction fuel generalizing c l with
  | zero => exact h
  | succ n ih =>
    have hp := formed_phaseWork (f := f) (l := l) h
    unfold runPhases
    generalize phaseWork f c l = r at hp ⊢
    obtain ⟨c', e⟩ := r
    cases e with
    | error e => exact hp
    | ok l' => exact ih hp

theorem formed_setLoading {c l} (h : Formed c) : Formed (setLoading c l) := formed_setReg (formed_update h)

theorem formed_startLoad {c} (h : Formed c) : Formed (startLoad c) := by
  unfold startLoad
  extract_lets c1 _ c2
  have hc1 : Formed c1 := formed_setLoad (formed_discardPlan h)
  have hc2 : Formed c2 := formed_update hc1
  exact formed_setLoading hc2

theorem formed_startReplace {c} (h : Formed c) : Formed (startReplace c) := formed_setLoading (formed_setLoad h)

theorem formed_bindTiles {im pl c} (h : Formed c) : Formed (bindTiles im pl c) :=
  formed_foldl (fun _ _ hx => formed_modTile hx) h

theorem formed_zeroBind {c r b} (h : Formed c) : Formed (zeroBind c r b) := by
  unfold zeroBind
  extract_lets base c1
  have hc1 : Formed c1 := formed_zeroSpan h
  split
  · exact formed_zeroSpan hc1
  · exact hc1

theorem formed_zeroFill {c} (h : Formed c) : Formed (zeroFill c) :=
  formed_foldl (fun _ _ hx => formed_ite (formed_zeroBind hx) hx) h

theorem formed_copyInitial {im c} (h : Formed c) : Formed (copyInitial im c) :=
  formed_foldl (fun _ _ hx => formed_engPatch hx) h

theorem formed_stageSteward {im c d} (h : Formed c) : Formed (stageSteward im c d) := by
  unfold stageSteward
  extract_lets c1
  have hc1 : Formed c1 := formed_dropFlaws h
  exact formed_setStew hc1

theorem formed_slackChecks {c} (h : Formed c) : Formed (slackChecks c) := formed_foldl (fun _ _ hx => formed_slackCheck hx) h

theorem formed_stagePlan {im pl c} (h : Formed c) : Formed (stagePlan im pl c) := by
  unfold stagePlan
  extract_lets before _ c1 c2
  have hc1 : Formed c1 := formed_clearOpc (formed_update h)
  have hc2 : Formed c2 := formed_foldl (fun _ _ hx => formed_stageSteward hx) (formed_copyInitial (formed_zeroFill
    (formed_bindTiles hc1)))
  exact formed_slackChecks (formed_noticeDigest (formed_setReg (formed_setReg hc2)))

theorem formed_closeLoad {c status detail} (h : Formed c) : Formed (closeLoad c status detail) :=
  formed_report (formed_setLoad h)

theorem formed_endLoad {c r} (h : Formed c) : Formed (endLoad c r) := by
  unfold endLoad
  extract_lets _ c1
  have hc1 : Formed c1 := formed_update h
  split
  · exact formed_closeLoad hc1
  · split
    · exact formed_closeLoad (formed_ite (formed_stagePlan hc1) (formed_bindTiles (formed_update hc1)))
    · exact hc1

theorem formed_fLoadComplete {f c} (h : Formed c) : Formed (fLoadComplete f c) := by
  unfold fLoadComplete
  split
  · exact formed_endLoad (formed_runPhases h)
  · exact h

theorem formed_loadTick {f c} (h : Formed c) : Formed (loadTick f c) := by
  unfold loadTick
  extract_lets x
  have hx : Formed x.1 := formed_freeNumber h
  split
  · exact h
  · split
    · exact hx
    · dsimp only
      split
      · exact formed_endLoad (formed_phaseWork hx)
      · exact formed_setLoading (formed_phaseWork hx)

/-! ## Time -/

theorem formed_setLaunch {c st} (h : Formed c) : Formed (setLaunch c st) := formed_setReg h

theorem formed_setPlanState {c st} (h : Formed c) : Formed (setPlanState c st) := formed_update h

theorem formed_arm {c resume l} (h : Formed c) : Formed (arm c resume l) := by
  unfold arm
  extract_lets c1 c2 emit
  have hc1 : Formed c1 := formed_setLaunch (formed_setReg h)
  have hc2 : Formed c2 := formed_ite (formed_setReg (formed_setReg hc1)) hc1
  exact formed_update hc2

theorem formed_standDown {c st} (h : Formed c) : Formed (standDown c st) := by
  unfold standDown
  extract_lets c1
  have hc1 : Formed c1 := formed_setPlanState (formed_setLaunch h)
  exact formed_update hc1

theorem formed_disarm {c} (h : Formed c) : Formed (disarm c) := formed_setReg (formed_standDown h)

theorem formed_toChildren {c type f} (h : Formed c) : Formed (toChildren c type f) :=
  formed_foldl (fun _ _ hx => formed_ite hx (formed_sendMsg hx)) h

theorem formed_toChildren2 {c at' f} (h : Formed c) : Formed (toChildren2 c at' f) :=
  formed_foldl (fun _ _ hx => formed_modPort hx) (formed_toChildren h)

theorem formed_fEmit {c} (h : Formed c) : Formed (fEmit c) := by
  unfold fEmit
  extract_lets c1 b c2
  have hc1 : Formed c1 := formed_reach h
  have hc2 : Formed c2 := formed_toChildren hc1
  exact formed_ite (formed_setLaunch (formed_update hc2)) h

theorem formed_fEmit2 {c} (h : Formed c) : Formed (fEmit2 c) := by
  unfold fEmit2
  split
  · exact formed_ite (formed_setLaunch (formed_update (formed_toChildren2 (formed_reach h)))) h
  · exact h

theorem formed_forwardLaunch {c type at' b} (h : Formed c) : Formed (forwardLaunch c type at' b) :=
  formed_ite (formed_toChildren2 h) (formed_toChildren h)

theorem formed_decideLaunch {c p type at' b} (h : Formed c) : Formed (decideLaunch c p type at' b) := by
  unfold decideLaunch
  extract_lets c1 c2
  have hc1 : Formed c1 := formed_ite (formed_report h) h
  have hc2 : Formed c2 := formed_setLaunch hc1
  split
  · exact formed_ite (formed_update hc2) hc2
  · exact formed_report (formed_standDown hc1)

theorem formed_fLaunch {p c} (h : Formed c) : Formed (fLaunch p c) := by
  unfold fLaunch
  split
  · exact h
  · dsimp only
    split
    · exact formed_setPort h
    · split
      · exact formed_ite (formed_report (formed_setPort h)) (formed_setPort h)
      · exact formed_ite (formed_ite (formed_decideLaunch (formed_forwardLaunch (formed_update (formed_setPort h))))
          (formed_forwardLaunch (formed_update (formed_setPort h)))) (formed_report (formed_forwardLaunch (formed_update
            (formed_setPort h))))

theorem formed_fDeadline {c} (h : Formed c) : Formed (fDeadline c) := by
  unfold fDeadline
  extract_lets c1
  have hc1 : Formed c1 := formed_reach h
  exact formed_ite (formed_report (formed_standDown hc1)) h

theorem formed_launchRecord {c at' first} (h : Formed c) : Formed (launchRecord c at' first) := formed_recordWrite h

theorem formed_startRun {c at'} (h : Formed c) : Formed (startRun c at') := by
  unfold startRun
  extract_lets c1 c2 _ c3 n c4 c5 _ c6 d
  have hc1 : Formed c1 := formed_reach h
  have hc2 : Formed c2 := formed_setLaunch (formed_setPlanState hc1)
  have hc3 : Formed c3 := formed_update hc2
  have hc4 : Formed c4 := formed_launchRecord hc3
  have hc5 : Formed c5 := formed_actions hc4
  have hc6 : Formed c6 := formed_launchRecord hc3
  split
  · exact formed_beginStep (formed_update hc5)
  · exact formed_beginStep (formed_update hc6)

theorem formed_fStart {c} (h : Formed c) : Formed (fStart c) := formed_ite (formed_startRun h) h

theorem formed_fStart2 {c} (h : Formed c) : Formed (fStart2 c) := by
  unfold fStart2
  split
  · exact formed_ite (formed_startRun h) h
  · exact h

theorem formed_compareDigest {d c p} (h : Formed c) : Formed (compareDigest d c p) := by
  unfold compareDigest
  extract_lets q c1
  have hc1 : Formed c1 := formed_setPort h
  exact formed_ite (formed_setPort h) (formed_ite (formed_report (formed_modPort hc1)) hc1)

theorem formed_checkPort {d c p} (h : Formed c) : Formed (checkPort d c p) := by
  unfold checkPort
  extract_lets q c1 c2
  have hc1 : Formed c1 := formed_ite h (formed_portCount h)
  have hc2 : Formed c2 := formed_setPort hc1
  exact formed_ite (formed_compareDigest (formed_sendTimed hc2)) h

theorem formed_fCheck {c} (h : Formed c) : Formed (fCheck c) := by
  unfold fCheck
  extract_lets t c1 d c2
  have hc1 : Formed c1 := formed_reach h
  have hc2 : Formed c2 := formed_foldl (fun _ _ hx => formed_checkPort hx) hc1
  exact formed_update hc2

theorem formed_correct {c off} (h : Formed c) : Formed (correct c off) := by
  unfold correct
  extract_lets c1
  have hc1 : Formed c1 := formed_update h
  exact formed_foldl (fun _ _ hx => formed_ite (formed_restartSlots hx) hx) hc1

theorem formed_acquire {c st off} (h : Formed c) : Formed (acquire c st off) := by
  unfold acquire
  extract_lets c1
  have hc1 : Formed c1 := formed_setReg h
  exact formed_ite h (formed_ite (formed_correct hc1) hc1)

theorem formed_heard {c off} (h : Formed c) : Formed (heard c off) := by
  unfold heard
  extract_lets good _ c1
  have hc1 : Formed c1 := formed_setReg (formed_update h)
  exact formed_ite (formed_setReg hc1) hc1

theorem formed_checkDone {c p off} (h : Formed c) : Formed (checkDone c p off) := by
  unfold checkDone
  extract_lets st c1 c2 bound
  have hc1 : Formed c1 := formed_modPort h
  have hc2 : Formed c2 := formed_ite (formed_heard hc1) hc1
  exact formed_ite (formed_ite (formed_report (formed_addReg32 hc2)) hc2) (formed_ite (formed_acquire hc2) hc2)

theorem formed_pairCheck {c p} (h : Formed c) : Formed (pairCheck c p) := by
  unfold pairCheck
  extract_lets q
  split
  · exact formed_checkDone h
  · exact h

theorem formed_fStamp {p c} (h : Formed c) : Formed (fStamp p c) := by
  unfold fStamp
  split
  · exact h
  · exact formed_pairCheck (formed_sendTimed (formed_setPort h))

theorem formed_fEcho {p c} (h : Formed c) : Formed (fEcho p c) := by
  unfold fEcho
  split
  · exact h
  · exact formed_ite (formed_setPort h) (formed_ite (formed_pairCheck (formed_setPort h)) (formed_setPort h))

theorem formed_fSourceLost {c} (h : Formed c) : Formed (fSourceLost c) :=
  formed_ite h (formed_ite (formed_report (formed_setReg (formed_update h))) h)

theorem formed_fFreqStop {c} (h : Formed c) : Formed (fFreqStop c) := by
  unfold fFreqStop
  extract_lets t
  exact formed_ite h (formed_update (formed_reach h))

theorem formed_fFreqRestart {c} (h : Formed c) : Formed (fFreqRestart c) := by
  unfold fFreqRestart
  extract_lets before c1 c2
  have hc1 : Formed c1 := formed_reach h
  have hc2 : Formed c2 := formed_setReg (formed_setReg hc1)
  exact formed_ite (formed_noticeDigest (formed_update hc2)) h

theorem formed_fRefLoss {c} (h : Formed c) : Formed (fRefLoss c) := by
  unfold fRefLoss
  extract_lets _ c1 c2
  have hc1 : Formed c1 := formed_update h
  have hc2 : Formed c2 := formed_addReg32 (formed_setReg (formed_setReg hc1))
  exact formed_ite h (formed_report hc2)

theorem formed_relock {c} (h : Formed c) : Formed (relock c) := formed_setReg (formed_setReg (formed_update h))

theorem formed_fRefReturn {c} (h : Formed c) : Formed (fRefReturn c) := by
  unfold fRefReturn
  extract_lets _ c1
  have hc1 : Formed c1 := formed_report (formed_update h)
  exact formed_ite h (formed_ite (formed_setReg hc1) (formed_relock hc1))

theorem formed_fRelockRef {c} (h : Formed c) : Formed (fRelockRef c) := formed_ite (formed_relock h) h

/-! ## The dictionary -/

theorem formed_settle {e i s before c} (hx : Formed c) : Formed (settle e i s before c) :=
  formed_ite (formed_noticeDigest hx) hx

theorem formed_storeValue {c e i s v} (h : Formed c) : Formed (storeValue c e i s v) := by
  unfold storeValue
  extract_lets k c1
  have hc1 : Formed c1 := formed_update h
  exact formed_ite (formed_setReg h) (formed_ite (formed_ite (formed_update hc1) hc1) (formed_settle (formed_setReg h)))

theorem formed_writeCommit {c s v} (h : Formed c) : Formed (writeCommit c s v) :=
  formed_ite (formed_dropShadows h) (formed_ite (formed_commitAtOnce h) (formed_setReg h))

theorem formed_writeLoad {c v} (h : Formed c) : Formed (writeLoad c v) :=
  formed_ite (formed_startLoad h) (formed_ite (formed_unloadPlan h) (formed_startReplace h))

theorem formed_drainMirror {c} (h : Formed c) : Formed (if (drain c).2 then writeMirror (drain c).1 else (drain c).1) :=
  formed_ite (formed_writeMirror (formed_drain h)) (formed_drain h)

theorem formed_writeConsumed {c v} (h : Formed c) : Formed (writeConsumed c v) := by
  have hset : Formed (setReg c (key 0x6040 4) v) := formed_setReg h
  unfold writeConsumed
  dsimp only
  split
  · exact formed_drainMirror (formed_updateHost hset)
  · exact formed_drainMirror hset

theorem formed_writeRing {c v} (h : Formed c) : Formed (writeRing c v) := formed_drain (formed_setReg h)

theorem formed_writeLaunch {c v} (h : Formed c) : Formed (writeLaunch c v) := formed_ite (formed_disarm h) (formed_arm h)

theorem formed_removeOldest {c} (h : Formed c) : Formed (removeOldest c) := formed_unlatch (formed_update h)

theorem formed_clearCap {c} (h : Formed c) : Formed (clearCap c) := formed_unlatch (formed_update h)

theorem formed_writeKey {c i s b} (h : Formed c) : Formed (writeKey c i s b) := formed_update h

theorem formed_writeNode {c v} (h : Formed c) : Formed (writeNode c v) := formed_update (formed_setReg h)

theorem formed_writePort {f c p s v} (h : Formed c) : Formed (writePort f c p s v) :=
  formed_ite (formed_portCommand h) (formed_fenceMode (formed_setReg h))

theorem formed_writeParent {c e i s v} (h : Formed c) : Formed (writeParent c e i s v) := by
  unfold writeParent
  extract_lets c'
  have hcp : Formed c' := formed_storeValue h
  exact formed_ite hcp (formed_acquireAnew hcp)

theorem formed_writeChange {c e i s v} (h : Formed c) : Formed (writeChange c e i s v) := formed_storeValue (formed_update h)

theorem formed_applyWrite {f c e i s b} (h : Formed c) : Formed (applyWrite f c e i s b) := by
  unfold applyWrite
  extract_lets v
  split
  · exact formed_writeNode h
  · exact formed_fillRoutes (formed_setReg h)
  · exact formed_writeCommit h
  · exact formed_writeLoad h
  · exact formed_throttles (formed_setReg h)
  · exact formed_setRouteTable h
  · exact formed_throttles (formed_setReg h)
  · exact formed_writeRing h
  · exact formed_writeConsumed h
  · exact formed_buildCommand h
  · exact formed_writeSwitch h
  · exact formed_writeChange h
  · exact formed_writeParent h
  · exact formed_writeLaunch h
  · exact formed_writeParent h
  · exact formed_clearCap h
  · exact formed_removeOldest h
  · exact formed_storeValue (formed_update h)
  · exact formed_update h
  · exact formed_startImport h
  · exact formed_arm h
  · exact formed_startInjection h
  · exact formed_ite (formed_writeKey h) (formed_ite (formed_writePort h) (formed_storeValue h))

theorem formed_countRequest {c code i s} (h : Formed c) : Formed (countRequest c code i s) := by
  unfold countRequest
  extract_lets c1
  have hc1 : Formed c1 := formed_addReg h
  exact formed_ite hc1 (formed_setReg (formed_setReg (formed_addReg hc1)))

theorem formed_tryWrite {f c i s b} (h : Formed c) : Formed (tryWrite f c i s b).1 := by
  unfold tryWrite
  extract_lets code
  split
  · split
    · exact formed_storeWrite (fun _ hx => formed_applyWrite (formed_catchUp hx)) h
    · exact h
  · exact h

theorem formed_dictWrite {f i s b c} (h : Formed c) : Formed (dictWrite f i s b c) := by
  unfold dictWrite
  extract_lets r
  have hr : Formed r.1 := formed_tryWrite h
  exact formed_countRequest hr

/-! ## Requests -/

theorem formed_serveRead {f c r} (h : Formed c) : Formed (serveRead f c r).1 := by
  unfold serveRead
  split
  · exact h
  · split <;> exact h

theorem formed_serveWrite {f c r} (h : Formed c) : Formed (serveWrite f c r).1 := by
  unfold serveWrite
  extract_lets x
  have hx : Formed x.1 := formed_tryWrite h
  split
  · exact h
  · exact hx

theorem formed_setTransfer {c t} (h : Formed c) : Formed (setTransfer c t) := formed_update h

theorem formed_serveReadStart {f c r} (h : Formed c) : Formed (serveReadStart f c r).1 := by
  unfold serveReadStart
  split
  · exact h
  · split <;> exact h

theorem formed_serveReadSegment {c r} (h : Formed c) : Formed (serveReadSegment c r).1 := by
  unfold serveReadSegment
  extract_lets t
  split <;> exact h

theorem formed_serveWriteStart {c r} (h : Formed c) : Formed (serveWriteStart c r).1 := by
  unfold serveWriteStart
  extract_lets total
  split
  · exact h
  · split
    · exact h
    · split
      · exact h
      · split
        · exact h
        · exact formed_setTransfer h

theorem formed_serveWriteSegment {f c r} (h : Formed c) : Formed (serveWriteSegment f c r).1 := by
  unfold serveWriteSegment
  dsimp only
  split
  · split
    · exact formed_tryWrite (formed_setTransfer h)
    · exact formed_setTransfer h
  · exact h

theorem formed_serveDescribe {f c r} (h : Formed c) : Formed (serveDescribe f c r).1 := by
  unfold serveDescribe
  extract_lets named
  split
  · exact h
  · split
    · exact h
    · split
      · exact h
      · split <;> exact h

theorem formed_serveClose {c r} (h : Formed c) : Formed (serveClose c r).1 := by
  unfold serveClose
  split
  · exact h
  · exact formed_setTransfer h

theorem formed_holdNode {before c} (h : Formed c) : Formed (holdNode before c) := formed_ite h (formed_update h)

theorem formed_serve {cmd r act c} (hact : ∀ c, Formed c → Formed (act c).1) (h : Formed c) :
    Formed (serve cmd r act c) := by
  unfold serve
  extract_lets x d b d' n
  have hd : Formed d := formed_countRequest (hact c h)
  exact formed_ite h (formed_ite (formed_update (formed_holdNode hd)) (formed_update hd))

theorem formed_serveBad {r c} (h : Formed c) : Formed (serveBad r c).1 := h

theorem formed_serveFrame {f path b c} (h : Formed c) : Formed (serveFrame f path b c) := by
  have hbad {cmd} : Formed (serve cmd (frameReq path b) (serveBad (frameReq path b)) c) :=
    formed_serve (fun _ hc => formed_serveBad hc) h
  unfold serveFrame
  dsimp only
  split
  · exact hbad
  · split
    · exact formed_serve (fun _ hc => formed_serveRead hc) h
    · exact formed_serve (fun _ hc => formed_serveWrite hc) h
    · exact formed_serve (fun _ hc => formed_serveReadStart hc) h
    · exact formed_serve (fun _ hc => formed_serveReadSegment hc) h
    · exact formed_serve (fun _ hc => formed_serveWriteStart hc) h
    · exact formed_serve (fun _ hc => formed_serveWriteSegment hc) h
    · exact formed_serve (fun _ hc => formed_serveDescribe hc) h
    · exact formed_serve (fun _ hc => formed_serveClose hc) h
    · exact hbad

theorem formed_fTimeoutXfer {c} (h : Formed c) : Formed (fTimeoutXfer c) := by
  unfold fTimeoutXfer
  split
  · exact formed_addReg (formed_setTransfer (formed_reach h))
  · exact h

theorem formed_fCanFrame {f id b c} (h : Formed c) : Formed (fCanFrame f id b c) := formed_ite (formed_serveFrame h) h

theorem formed_fSubmit {f c} (h : Formed c) : Formed (fSubmit f c) := formed_ite h (formed_serveFrame h)

theorem formed_fResponse {c} (h : Formed c) : Formed (fResponse c) := by
  unfold fResponse
  split
  · exact formed_update (formed_emit h)
  · exact h

theorem formed_fEvent {c} (h : Formed c) : Formed (fEvent c) := by
  unfold fEvent
  split
  · exact formed_emit (formed_update h)
  · exact h

/-! ## Component registers -/

theorem formed_compPart {o b c i} (h : Formed c) : Formed (compPart o b c i) := formed_ite h (formed_compStore h)

theorem formed_compWrite {c o b} (h : Formed c) : Formed (compWrite c o b) :=
  formed_foldl (fun _ _ hx => formed_compPart hx) h

/-! ## Power and reset -/

theorem formed_fTemp {d t c} (h : Formed c) : Formed (fTemp d t c) := by
  unfold fTemp
  extract_lets c1 was c2
  have hc1 : Formed c1 := formed_warnCheck (formed_takeTemp h)
  have hc2 : Formed c2 := formed_tripOutput hc1
  exact formed_ite h (formed_ite (formed_tripOutput h) (formed_ite (formed_report hc2) hc2))

theorem formed_fPowerRise {c} (h : Formed c) : Formed (fPowerRise c) := formed_ite (formed_wiped h) h

theorem formed_fPowerFall {c} (h : Formed c) : Formed (fPowerFall c) := formed_wiped h

theorem formed_fReset {c} (h : Formed c) : Formed (fReset c) := formed_ite h (formed_wiped h)

theorem formed_bootFails {c status a b die} (h : Formed c) : Formed (bootFails c status a b die) := formed_update h

theorem formed_bootStarts {f c x image a b} (h : Formed c) : Formed (bootStarts f c x image a b) := formed_update h

theorem formed_bootRom {f x c} (h : Formed c) : Formed (bootRom f x c) := by
  unfold bootRom
  extract_lets a b
  split
  · exact formed_bootFails (formed_update h)
  · split
    · exact formed_bootFails h
    · split
      · exact formed_bootFails h
      · split
        · exact formed_bootFails h
        · split
          · exact formed_bootFails h
          · exact formed_bootStarts h

theorem formed_fRelease {f straps x c} (h : Formed c) : Formed (fRelease f straps x c) :=
  formed_ite (formed_bootRom (formed_updatePower (formed_wiped h))) h

theorem formed_fBootFrame {c} (h : Formed c) : Formed (fBootFrame c) := by
  unfold fBootFrame
  extract_lets c1 b bytes
  have hc1 : Formed c1 := formed_update h
  exact formed_ite (formed_emit hc1) h

theorem formed_trainStack {l c k} (h : Formed c) : Formed (trainStack l c k) := by
  unfold trainStack
  extract_lets st c1
  have hc1 : Formed c1 := formed_setReg h
  exact formed_ite hc1 (formed_report hc1)

theorem formed_trainChannel {l dimms c k} (h : Formed c) : Formed (trainChannel l dimms c k) := by
  unfold trainChannel
  extract_lets cap st c1
  have hc1 : Formed c1 := formed_setReg (formed_setReg h)
  exact formed_ite hc1 (formed_report hc1)

theorem formed_runTests {f r c} (h : Formed c) : Formed (runTests f r c) := by
  unfold runTests
  extract_lets l c1 c2 c3 first _ p c4
  have hc1 : Formed c1 := formed_foldl (fun _ _ hx => formed_report hx) h
  have hc2 : Formed c2 := formed_foldl (fun _ _ hx => formed_trainStack hx) hc1
  have hc3 : Formed c3 := formed_foldl (fun _ _ hx => formed_trainChannel hx) hc2
  have hc4 : Formed c4 := formed_setReg (formed_update hc3)
  exact formed_foldl (fun _ _ hx => formed_fTemp hx) hc4

theorem formed_fSelfTest {f r c} (h : Formed c) : Formed (fSelfTest f r c) := formed_ite h (formed_runTests h)

theorem formed_fTestDone {c} (h : Formed c) : Formed (fTestDone c) := formed_ite (formed_setReg h) h

theorem formed_fBurn {f c} (h : Formed c) : Formed (fBurn f c) := formed_ite (formed_update h) h

/-! ## Security -/

theorem formed_doeSend {c type b} (h : Formed c) : Formed (doeSend c type b) := formed_emit h

theorem formed_respond {c code status data} (h : Formed c) : Formed (respond c code status data) := formed_doeSend h

theorem formed_fDiscovery {n c} (h : Formed c) : Formed (fDiscovery n c) :=
  formed_ite h (formed_ite (formed_doeSend h) (formed_doeSend h))

theorem formed_endSess {c} (h : Formed c) : Formed (endSess c) := formed_update h

theorem formed_fDoeAbort {c} (h : Formed c) : Formed (fDoeAbort c) := formed_ite (formed_endSess h) h

theorem formed_fCertificates {c} (h : Formed c) : Formed (fCertificates c) := formed_respond h

theorem formed_fReport {f nonce c} (h : Formed c) : Formed (fReport f nonce c) :=
  formed_ite (formed_respond h) (formed_respond h)

theorem formed_fOpenSession {f ct eph c} (h : Formed c) : Formed (fOpenSession f ct eph c) :=
  formed_ite (formed_respond h) (formed_ite (formed_respond h) (formed_respond (formed_update h)))

theorem formed_fCloseSession {n c} (h : Formed c) : Formed (fCloseSession n c) := by
  unfold fCloseSession
  split
  · exact formed_ite (formed_respond (formed_endSess h)) (formed_respond h)
  · exact formed_respond h

theorem formed_showIde {c} (h : Formed c) : Formed (showIde c) := formed_setReg h

theorem formed_ideProgram {c m} (h : Formed c) : Formed (ideProgram c m) := formed_update h

theorem formed_ideGo {c m} (h : Formed c) : Formed (ideGo c m) := by
  unfold ideGo
  extract_lets k c'
  have hcp : Formed c' := formed_showIde (formed_update h)
  exact formed_ite (formed_ite (formed_freeWrites hcp) hcp) h

theorem formed_ideStop {c m} (h : Formed c) : Formed (ideStop c m) := formed_showIde (formed_update h)

theorem formed_ideMessage {c m r} (h : Formed c) (hr : ideMessage c m = some r) : Formed r.1 := by
  unfold ideMessage at hr
  dsimp only at hr
  split at hr
  · cases hr
    exact formed_freeBytes h
  · cases hr
    exact formed_ideProgram h
  · cases hr
    exact formed_ideGo h
  · cases hr
    exact formed_ideStop h
  · cases hr

theorem formed_ideRefuse {c} (h : Formed c) : Formed (ideRefuse c) := by
  unfold ideRefuse
  extract_lets r
  have hr : Formed r.1 := formed_freeBytes h
  exact formed_doeSend hr

theorem formed_ideAnswer {c x plain} (h : Formed c) : Formed (ideAnswer c x plain) := by
  unfold ideAnswer
  extract_lets _ c1
  have hc1 : Formed c1 := formed_update h
  exact formed_doeSend hc1

theorem formed_fIdeKm {session seq ct c} (h : Formed c) : Formed (fIdeKm session seq ct c) := by
  unfold fIdeKm
  split
  · exact h
  · split
    · exact formed_doeSend h
    · split
      · exact formed_doeSend h
      · split
        · exact formed_ideRefuse h
        · split
          · exact formed_ideRefuse h
          · split
            · exact formed_ideAnswer (formed_ideMessage h ‹_›)
            · exact formed_doeSend h

theorem formed_claimAnswer {status c} (h : Formed c) : Formed (claimAnswer status c) := formed_respond h

theorem formed_fGrant {f g c} (h : Formed c) : Formed (fGrant f g c) :=
  formed_ite (formed_respond h) (formed_ite (formed_respond (formed_update h)) (formed_respond h))

theorem formed_fObject {f b c} (h : Formed c) : Formed (fObject f b c) := by
  unfold fObject
  dsimp only
  split
  · exact formed_respond h
  · split
    · exact formed_ite (formed_fCertificates h) (formed_respond h)
    · exact formed_fReport h
    · exact formed_fOpenSession h
    · exact formed_ite (formed_fCloseSession h) (formed_respond h)
    · exact formed_fGrant h
    · exact formed_respond h

/-! ## The host port -/

theorem formed_setLink {c rate width} (h : Formed c) : Formed (setLink c rate width) := formed_setReg (formed_setReg h)

theorem formed_fLink {rate width c} (h : Formed c) : Formed (fLink rate width c) :=
  formed_ite (formed_ite (formed_freeWrites (formed_setLink h)) (formed_ite (formed_freeWrites (formed_setLink h))
    (formed_setLink h))) (formed_setLink h)

theorem formed_fPerst {c} (h : Formed c) : Formed (fPerst c) := formed_setLink (formed_hostReset h)

theorem formed_fFlr {c} (h : Formed c) : Formed (fFlr c) := formed_ite (formed_hostReset h) h

theorem formed_fLinkDown {c} (h : Formed c) : Formed (fLinkDown c) := formed_setLink h

theorem formed_fPowerState {d3 c} (h : Formed c) : Formed (fPowerState d3 c) :=
  formed_ite h (formed_ite (formed_update h) (formed_freeWrites (formed_update h)))

theorem formed_fUnblock {c} (h : Formed c) : Formed (fUnblock c) := formed_ite (formed_freeWrites (formed_update h)) h

theorem formed_fBmeClear {c} (h : Formed c) : Formed (fBmeClear c) := formed_ite (formed_update h) h

theorem formed_setMsix {c v b} (h : Formed c) : Formed (setMsix c v b) := formed_update h

theorem formed_aerUnsupported {c} (h : Formed c) : Formed (aerUnsupported c) := formed_update h

theorem formed_unsupported {c} (h : Formed c) : Formed (unsupported c) := formed_emit (formed_aerUnsupported h)

theorem formed_fUnmask {v c} (h : Formed c) : Formed (fUnmask v c) := formed_ite (formed_sendPending (formed_setMsix h)) h

theorem formed_fIdeFail {c} (h : Formed c) : Formed (fIdeFail c) := by
  unfold fIdeFail
  extract_lets c1
  have hc1 : Formed c1 := formed_ideReport h
  exact formed_ite h (formed_showIde (formed_update hc1))

theorem formed_fSnoop {c} (h : Formed c) : Formed (fSnoop c) := formed_ite (formed_emit h) h

theorem formed_barRead {c o n} (h : Formed c) : Formed (barRead c o n) := formed_emit h

theorem formed_barRefused {o n c} (h : Formed c) : Formed (barRefused o n c) := by
  unfold barRefused
  extract_lets c'
  have hcp : Formed c' := formed_update h
  exact formed_ite (formed_ite (formed_unsupported hcp) (formed_emit hcp)) (formed_unsupported h)

theorem formed_winWrite {f c o b} (h : Formed c) : Formed (winWrite f c o b) :=
  formed_ite h (formed_ite (formed_update h) (formed_ite (formed_fSubmit h) h))

theorem formed_msixByte {c o x} (h : Formed c) : Formed (msixByte c o x) := formed_setMsix h

theorem formed_barWrite {f c o b} (h : Formed c) : Formed (barWrite f c o b) := by
  unfold barWrite
  extract_lets c1
  have hc1 : Formed c1 := formed_catchUp h
  exact formed_ite (formed_compWrite h) (formed_ite (formed_winWrite h) (formed_ite (formed_sendPending (formed_foldl
    (fun _ _ hx => formed_msixByte hx) h)) (formed_ite (formed_update hc1) h)))

theorem formed_configWrite {op c} (h : Formed c) : Formed (configWrite op c) := by
  unfold configWrite
  extract_lets hx
  split
  · exact formed_update h
  · exact formed_sendPending (formed_update h)
  · exact formed_update h
  · exact h
  · exact h

theorem formed_fBar {f o op c} (h : Formed c) : Formed (fBar f o op c) := by
  unfold fBar
  split
  · exact h
  · split
    · exact formed_ite h (formed_ite (formed_unsupported h) (formed_ite (formed_barRead h) (formed_barRefused h)))
    · exact formed_ite h (formed_ite (formed_aerUnsupported h) (formed_ite (formed_barWrite h) h))
    · exact formed_configWrite h

theorem formed_poisonSeen {poison c} (h : Formed c) : Formed (poisonSeen poison c) := formed_ite (formed_update h) h

theorem formed_fMemRead {f hpa c} (h : Formed c) : Formed (fMemRead f hpa c) := by
  unfold fMemRead
  split
  · exact formed_hdmAccess (fun _ hx => formed_emit (formed_bgRead (formed_fFreqRestart hx))) h
  · exact h

theorem formed_fMemWrite {f hpa en b poison c} (h : Formed c) : Formed (fMemWrite f hpa en b poison c) := by
  unfold fMemWrite
  split
  · exact formed_hdmAccess (fun _ hx => formed_emit (formed_bgWrite (formed_holdGran (formed_fFreqRestart
      (formed_poisonSeen hx))))) h
  · exact h

/-! ## The samplers -/

theorem formed_tabRead {held c off len} (h : Formed c) : Formed (tabRead held c off len).1 := formed_seenRead h

theorem formed_gramOf {held c g} (h : Formed c) : Formed (gramOf held c g).1 := by
  unfold gramOf
  extract_lets base r hy
  have hr : Formed r.1 := formed_tabRead h
  split
  · exact h
  · exact hr

theorem formed_allowBytes {held c g m st} (h : Formed c) : Formed (allowBytes held c g m st).1 := by
  unfold allowBytes
  cases g with
  | none =>
    dsimp only
    split
    · exact h
    · exact formed_tabRead h
  | some g =>
    dsimp only
    split
    · exact formed_tabRead (formed_tabRead h)
    · exact formed_tabRead (formed_tabRead (formed_tabRead h))

theorem formed_findTrans {held c g f k n} (h : Formed c) : Formed (findTrans held c g f k n).1 := by
  induction n generalizing c f with
  | zero => exact h
  | succ n ih =>
    unfold findTrans
    dsimp only
    split
    · exact formed_tabRead h
    · exact ih (formed_tabRead h)

theorem formed_walkToken {held c g w tok} (h : Formed c) : Formed (walkToken held c g w tok).1 := by
  cases g with
  | none => exact h
  | some g =>
    have ht {f k n} := formed_findTrans (held := held) (g := g) (f := f) (k := k) (n := n) (formed_tabRead (held := held)
      (off := g.states + 8 * w.st) (len := 8)
      (formed_tabRead (held := held) (off := g.classes + 2 * tok) (len := 2) h))
    unfold walkToken
    dsimp only
    split
    · exact formed_tabRead h
    · split
      · exact ht
      · split
        · exact ht
        · split <;> exact ht
        · split <;> exact ht
        · exact ht
        · exact formed_freeNumber ht

theorem formed_rowOf {held c b i} (h : Formed c) : Formed (rowOf held c b i).1 := by
  unfold rowOf
  extract_lets bf n r v
  have hr : Formed r.1 := formed_seenLines h
  exact hr

theorem formed_emitTok {held c g f tok} (h : Formed c) : Formed (emitTok held c g f tok).1 := by
  unfold emitTok
  extract_lets r
  have hr : Formed r.1 := formed_walkToken h
  split <;> exact hr

theorem formed_weighRow {held c b s g w i} (h : Formed c) : Formed (weighRow held c b s g w i).1 := by
  unfold weighRow
  extract_lets r a
  have hr : Formed r.1 := formed_rowOf h
  have ha : Formed a.1 := formed_allowBytes hr
  exact ha

theorem formed_drawRow {held c b s g f i pos purpose} (h : Formed c) : Formed (drawRow held c b s g f i pos purpose).1 := by
  unfold drawRow
  dsimp only
  split
  · exact formed_weighRow h
  · exact formed_emitTok (formed_weighRow h)

theorem formed_verifyRows {held n b s g r fuel i c f} (h : Formed c) : Formed (verifyRows held n b s g r fuel i c f).1 := by
  induction fuel generalizing i c f with
  | zero => exact h
  | succ m ih =>
    unfold verifyRows
    dsimp only
    split
    · exact h
    · split
      · exact formed_drawRow h
      · split
        · exact ih (formed_emitTok (formed_weighRow (formed_seenLines h)))
        · split
          · exact formed_weighRow (formed_seenLines h)
          · exact formed_emitTok (formed_weighRow (formed_seenLines h))

theorem formed_runJob {c die job} (h : Formed c) : Formed (runJob c die job).1 := by
  unfold runJob
  dsimp only
  split
  · exact formed_drawRow (formed_gramOf h)
  · refine formed_freeBytes (formed_freeNumber (formed_drawRow ?_))
    split
    · exact formed_gramOf h
    · exact formed_seenLines (formed_gramOf h)
  · exact formed_verifyRows (formed_gramOf h)

theorem formed_jobDiscard {c die b} (h : Formed c) : Formed (jobDiscard c die b) := formed_report (formed_bump h)

theorem formed_fPost {die c} (h : Formed c) : Formed (fPost die c) := by
  have hp : Formed (passed c) := formed_passed h
  unfold fPost
  dsimp only
  split
  · exact hp
  · split
    · exact formed_jobDiscard (formed_updateSrv hp)
    · exact { hp with jobs := (List.length_set ..).trans hp.jobs }

theorem formed_fJobStart {die c} (h : Formed c) : Formed (fJobStart die c) := by
  have hp : Formed (passed c) := formed_passed h
  unfold fJobStart
  dsimp only
  split
  · have hc := formed_controlCheck (die := die) (unit := 3) (w := .cycle) hp
    exact { hc with jobs := (List.length_set ..).trans hc.jobs, job := (List.length_set ..).trans hc.job }
  · exact hp

theorem formed_fJobEnd {die c} (h : Formed c) : Formed (fJobEnd die c) := by
  unfold fJobEnd
  split
  · dsimp only
    have hfree {t} : Formed { passed (reach c t) with
        srv := { (passed (reach c t)).srv with job := (passed (reach c t)).srv.job.set die none } } :=
      have hp := formed_passed (formed_reach (t := t) h)
      { hp with job := (List.length_set ..).trans hp.job }
    split
    · split
      · exact formed_engWrite (formed_engWrite (formed_runJob hfree))
      · exact formed_engWrite (formed_runJob hfree)
    · exact formed_engWrite (formed_freeBytes hfree)
  · exact h

theorem formed_fLateWrite {unit c} (h : Formed c) : Formed (fLateWrite unit c) := by
  unfold fLateWrite
  split
  · exact h
  · exact formed_performLate (formed_update h)

/-! ## The memory a steward sees -/

theorem formed_stewCheck {c die mem a n} (h : Formed c) : Formed (stewCheck c die mem a n).1 := by
  unfold stewCheck
  refine formed_foldl_fst ?_ ?_
  · intro _ _ hx
    split
    · split
      · exact formed_report hx
      · exact formed_report (formed_dropFlaw hx)
    · exact hx
  · exact h

theorem formed_stewFresh {c die a n} (h : Formed c) : Formed (stewFresh c die a n) :=
  formed_foldl (fun _ _ hx => formed_dropFlaw hx) h

theorem formed_loadOwn {c die mem a n b} (h : Formed c) : Formed (loadOwn c die mem a n b).1 := by
  unfold loadOwn
  extract_lets r
  have hr : Formed r.1 := formed_stewCheck h
  exact hr

theorem formed_loadExchange {c die o n} (h : Formed c) : Formed (loadExchange c die o n).1 := by
  unfold loadExchange
  extract_lets w r
  have hr : Formed r.1 := formed_loadOwn h
  split <;> exact hr

theorem formed_loadPeer {c die d o n} (h : Formed c) : Formed (loadPeer c die d o n).1 := by
  unfold loadPeer
  extract_lets r b
  have hr : Formed r.1 := formed_loadOwn h
  have hb : Formed b.1 := formed_freeBytes hr
  split
  · exact hr
  · exact hb

theorem formed_loadPage {c die o n} (h : Formed c) : Formed (loadPage c die o n).1 := by
  unfold loadPage
  extract_lets w
  split
  · exact h
  · split <;> exact h

theorem formed_loadWin {f c die a w o n} (h : Formed c) : Formed (loadWin f c die a w o n).1 := by
  unfold loadWin
  extract_lets s r
  have hr : Formed r.1 := formed_bgRead h
  split
  · exact formed_loadOwn h
  · exact formed_loadOwn h
  · exact formed_loadOwn h
  · exact formed_loadOwn h
  · exact formed_loadExchange h
  · exact h
  · exact h
  · exact formed_loadExchange h
  · exact formed_loadPeer h
  · exact formed_loadPage h
  · exact hr

theorem formed_stewRead {f machine k die a n c} (h : Formed c) : Formed (stewRead f machine k die a n c).1 := by
  unfold stewRead
  split
  · exact formed_loadWin h
  · exact h

theorem formed_storePage {c die o b} (h : Formed c) : Formed (storePage c die o b) := by
  unfold storePage
  extract_lets w
  split
  · exact formed_setStew h
  · split
    · exact h
    · exact formed_ite (formed_setStew h) h

theorem formed_storeWin {f c die a w o b} (h : Formed c) : Formed (storeWin f c die a w o b) := by
  unfold storeWin
  dsimp only
  split
  · exact formed_stewFresh (formed_setStew h)
  · exact formed_stewFresh (formed_setStew h)
  · exact formed_stewFresh (formed_setStew h)
  · exact formed_storeBox h
  · exact formed_storePage h
  · exact formed_bgWrite (formed_holdSpan h)
  · exact h

theorem formed_stewWrite {f m k die a b c d} (h : Formed c) (hd : stewWrite f m k die a b c = some d) : Formed d := by
  obtain ⟨x, -, rfl⟩ := Option.map_eq_some_iff.1 hd
  exact formed_storeWin h

/-! ## The harts -/

theorem formed_setXreg {c d n v} (h : Formed c) : Formed (setXreg c d n v) := formed_ite h (formed_setStew h)

theorem formed_retire {c d pc} (h : Formed c) : Formed (retire c d pc) := formed_setStew h

theorem formed_seenCycle {c} (h : Formed c) : Formed (seenCycle c).1 := by
  unfold seenCycle
  extract_lets x
  have hx : Formed x.1 := formed_freeNumber h
  split
  · exact hx
  · exact h

theorem formed_csrRead {c die a r} (h : Formed c) (hr : csrRead c die a = some r) : Formed r.1 := by
  unfold csrRead at hr
  split at hr
  case h_2 =>
    cases hr
    exact formed_seenCycle h
  case h_10 =>
    obtain ⟨-, hr⟩ := Option.ite_none_right_eq_some.1 hr
    cases hr
    exact formed_freeNumber h
  all_goals
    cases hr
    exact h

theorem formed_csrWrite {f d a v c} (h : Formed c) : Formed (csrWrite f d a v c) := by
  unfold csrWrite
  split
  · exact formed_fWaitCycle h
  · exact formed_fWaitDies h
  · exact formed_fPop h
  · exact formed_sendPage h
  · exact h

theorem formed_rvLoad {f k d size signed rd a next c} (h : Formed c) : Formed (rvLoad f k d size signed rd a next c) := by
  unfold rvLoad
  extract_lets r
  have hr : Formed r.1 := formed_stewRead h
  split
  · exact formed_retire (formed_setXreg hr)
  · exact formed_faultRoutine hr

theorem formed_rvStore {f die size a v next c} (h : Formed c) : Formed (rvStore f die size a v next c) := by
  unfold rvStore
  split
  · exact formed_retire (formed_stewWrite h ‹_›)
  · exact formed_faultRoutine h

theorem formed_rvAtomic {f op die size rd a v next c} (h : Formed c) : Formed (rvAtomic f op die size rd a v next c) := by
  unfold rvAtomic
  dsimp only
  split
  · split
    · exact formed_retire (formed_setXreg (formed_stewWrite (formed_stewRead h) ‹_›))
    · exact formed_faultRoutine (formed_stewRead h)
  · exact formed_faultRoutine (formed_stewRead h)

theorem formed_rvCond {f die size rd a v next c} (h : Formed c) : Formed (rvCond f die size rd a v next c) := by
  unfold rvCond
  dsimp only
  split
  · exact formed_faultRoutine h
  · exact formed_ite (formed_retire (formed_setXreg (formed_stewWrite (formed_setStew h) ‹_›)))
      (formed_retire (formed_setXreg (formed_setStew h)))

theorem formed_rvCsr {f die kind rd imm rs a next c} (h : Formed c) : Formed (rvCsr f die kind rd imm rs a next c) := by
  unfold rvCsr
  dsimp only
  split
  · exact formed_faultRoutine h
  · split
    · exact formed_faultRoutine h
    · next hr =>
      exact formed_ite (formed_csrWrite (formed_retire (formed_setXreg (formed_csrRead h hr))))
        (formed_retire (formed_setXreg (formed_csrRead h hr)))

theorem formed_rvExec {f die len i c} (h : Formed c) : Formed (rvExec f die len i c) := by
  cases i with
  | lui => exact formed_retire (formed_setXreg h)
  | auipc => exact formed_retire (formed_setXreg h)
  | jal => exact formed_retire (formed_setXreg h)
  | jalr => exact formed_retire (formed_setXreg h)
  | branch => exact formed_retire h
  | load => exact formed_rvLoad h
  | store => exact formed_rvStore h
  | opImm => exact formed_retire (formed_setXreg h)
  | op => exact formed_retire (formed_setXreg h)
  | fence => exact formed_retire h
  | ecall => exact formed_fEcall h
  | csr => exact formed_rvCsr h
  | lr => exact formed_rvLoad (formed_setStew h)
  | sc => exact formed_rvCond h
  | amo => exact formed_rvAtomic h
  | illegal => exact formed_faultRoutine h

theorem formed_hartStep {f d c} (h : Formed c) : Formed (hartStep f d c) := by
  unfold hartStep
  extract_lets pc lo hi
  have hlo : Formed lo.1 := formed_stewRead h
  have hhi : Formed hi.1 := formed_stewRead hlo
  split
  · split
    · exact formed_faultRoutine hlo
    · dsimp only
      split
      · exact formed_rvExec hlo
      · split
        · exact formed_faultRoutine hhi
        · exact formed_rvExec hhi
  · exact h

theorem formed_hartSteps {f die fuel c} (h : Formed c) : Formed (hartSteps f die fuel c) := by
  induction fuel generalizing c with
  | zero => exact h
  | succ n ih => exact ih (formed_hartStep h)

theorem formed_wakeRoutine {d c} (h : Formed c) : Formed (wakeRoutine d c) := by
  unfold wakeRoutine
  split
  · exact formed_ite (formed_setStew h) h
  · exact formed_fDiesWake h
  · exact h

theorem formed_hartTick {f c d} (h : Formed c) : Formed (hartTick f c d) := by
  unfold hartTick
  extract_lets x
  have hx : Formed x.1 := formed_freeNumber (formed_wakeRoutine h)
  exact formed_ite h (formed_hartSteps hx)

theorem formed_firmwareTick {f c d} (h : Formed c) : Formed (firmwareTick f c d) := by
  unfold firmwareTick
  extract_lets c1 x c2 y
  have hc1 : Formed c1 := formed_stewRead h
  have hx : Formed x.1 := formed_freeNumber hc1
  have hc2 : Formed c2 := formed_stewRead hx
  have hy : Formed y.1 := formed_freeNumber hc2
  exact formed_ite h (formed_setStew hy)

theorem formed_hartsTick {f c} (h : Formed c) : Formed (hartsTick f c) := by
  unfold hartsTick
  extract_lets c1
  have hc1 : Formed c1 := formed_foldl (fun _ _ hx => formed_firmwareTick hx) h
  exact formed_ite (formed_foldl (fun _ _ hx => formed_hartTick hx) hc1) hc1

/-! ## The tick -/

theorem formed_tickChip {f c} (h : Formed c) : Formed (tickChip f c) := by
  unfold tickChip
  extract_lets _ c1
  have hc1 : Formed c1 := formed_update (formed_countThrottled h)
  exact formed_loadTick (formed_hartsTick (formed_catchUp (formed_passed hc1)))

end Sys2Proof.Proofs
end

section
/-! PROOFS. The commands and the passing of time keep the chip in form (07 R200). -/

namespace Sys2Proof.Proofs

open Sys2Proof Sys2Proof.Machine Sys2Proof.Claims Sys2Proof.Laws

/-! ## States and outcomes -/

theorem formed_versionTick {s : State} (h : Formed s.chip) : Formed (versionTick s).chip := by
  unfold versionTick
  split
  · exact h
  · dsimp only
    split
    · exact formed_update h
    · exact formed_freeNumber h

theorem formed_claimTick {answer} {s : State} (ha : ∀ c, Formed c → Formed (answer c)) (h : Formed s.chip) :
    Formed (claimTick answer s).chip := by
  have hended {x} : Formed (answer { (freeNumber s.chip).1 with sec := x }) := ha _ (formed_update (formed_freeNumber h))
  unfold claimTick
  dsimp only
  split
  · exact h
  · split
    · exact hended
    · split
      · exact formed_freeNumber h
      · exact formed_freeBytes (formed_freeNumber h)
      · exact formed_freeNumber h
      · split
        · exact hended
        · exact formed_freeNumber h

theorem formed_tick {s : State} (h : Formed s.chip) : Formed (tick s).chip := by
  unfold tick
  split
  · have hticked : Formed (flush (tickChip s.fuses s.chip)) := formed_flush (formed_tickChip h)
    generalize flush (tickChip s.fuses s.chip) = c at hticked
    exact formed_claimTick (fun _ hc => formed_claimAnswer hc) (formed_versionTick hticked)
  · exact h

theorem formed_ownerClaim {keys signer} {s : State} (h : Formed s.chip) : Formed (ownerClaim keys signer s).chip := by
  unfold ownerClaim
  dsimp only
  split
  · exact formed_claimAnswer h
  · split
    · exact formed_claimAnswer h
    · split
      · exact formed_claimAnswer h
      · exact formed_update h

theorem formed_serveClaim {keys signer} {s : State} (h : Formed s.chip) : Formed (serveClaim keys signer s).chip := by
  unfold serveClaim
  dsimp only
  split
  · exact formed_ownerClaim h
  · exact formed_flush (formed_doeServe (fun _ hc => hc) h)

/-- The outcome, where it is a state, is in form. -/
def Stays (o : Host.Outcome State Fault Refusal) : Prop := ∀ t, o = .next t → Formed t.chip

theorem stays_next {s : State} (h : Formed s.chip) : Stays (.next s) := by
  intro t ht
  cases ht
  exact h

theorem stays_refused {r} : Stays (.refused r) := by
  intro t ht
  cases ht

theorem stays_ite {p : Prop} [Decidable p] {a b} (ha : Stays a) (hb : Stays b) : Stays (if p then a else b) := by
  split
  · exact ha
  · exact hb

variable {s : State}

theorem stays_onChip {f} (hf : Formed (f s.chip)) : Stays (onChip s f) :=
  stays_next (s := { s with chip := flush (f s.chip) }) (formed_flush hf)

theorem stays_onRunning {f} (hf : ∀ c, Formed c → Formed (f c)) (h : Formed s.chip) : Stays (onRunning s f) :=
  stays_ite (stays_onChip (hf _ h)) (stays_next h)

theorem stays_onPowered {f} (hf : ∀ c, Formed c → Formed (f c)) (h : Formed s.chip) : Stays (onPowered s f) :=
  stays_ite (stays_onChip (hf _ h)) (stays_next h)

theorem stays_writeRow {i sub n v} (h : Formed s.chip) : Stays (writeRow s i sub n v) :=
  stays_onRunning (fun _ hc => formed_dictWrite hc) h

theorem stays_issueWith {i exe x f} (hf : ∀ c, Formed c → Formed (f c)) (h :
    Formed s.chip) : Stays (issueWith s i exe x f) := by
  refine stays_ite (stays_onRunning (fun c hc => ?_) h) stays_refused
  have hp : Formed (passed c) := formed_passed hc
  refine formed_ite (formed_ite ?_ (formed_holdOver hp)) hp
  exact formed_fetchWord (fun _ hd => hf _ (formed_noteIssue hd)) (formed_controlCheck (formed_awaitIssue hp))

theorem stays_issueX {i x} (h : Formed s.chip) : Stays (issueX s i x) :=
  stays_issueWith (fun _ hc => formed_onSites (fun _ _ hd => formed_arrive hd) hc) h

theorem stays_issueA {i x} (h : Formed s.chip) : Stays (issueA s i x) := stays_issueWith (fun _ hc => formed_beginAct hc) h

theorem stays_issueCtl {i exe x f} (h : Formed s.chip) : Stays (issueCtl s i exe x f) :=
  stays_issueWith (fun _ hc => formed_setSeq hc) h

/-- No command takes the chip out of its form. -/
theorem exec_stays (x : Instr) (h : Formed s.chip) : Stays (exec x s) := by
  cases x
  case mpre | mstr | mdrn | mskl | vadd | vsub | vmul | vfma | vmin | vmax | vabs | vneg | vcmp | vsel | vrsum | vrmax |
    vrmaxi | vexp2 | vlog2 | vrcp | vrsq | vdiv | iadd | isub | iadds | isubs | imul | imulh | imad | imin | imax | vand |
    vor | vxor | vnot | vshl | vshr | vsra | icmp | vmov | vmovi | vperm | pand | por | pxor | pnot | pfrom | vpcnt |
    vcvt | vrnd | vqnt | vdq | vlane | vtid | amov | aadd | afrom | vld | vst | vldb | vgath | vscat | vpop | vpush |
    vslot | vslmsk | vslrd | vslset | vslclr =>
    exact stays_issueX h
  case tql | tqp | bpq | qts | ocfl | ocwb | oczr | mld | mst | mvt | mrx | csnd | crcv | swr =>
    exact stays_issueA h
  case xbar iss exe k => exact stays_issueCtl (f := doXbar exe k.val) h
  case ends iss exe => exact stays_issueCtl (f := fun _ => doEnds exe) h
  case importStart | fullBatchRequest | checkpointSchedule | resumeArm | arm | disarm | qz5Arm | freqChangeSchedule |
    freqChangeCancel | portEnable | portRetrain | portNarrow | portWiden | portDisable | fenceOpen | logicalFence |
    electricalFence | deviceIdWrite | deviceIdUnassign | port31RoleWrite | port31SubstituteWrite | planLoad | planUnload |
    replace | haltAtStep | commitSchedule | commitCancel | commitNow | discardShadows | servingEnable | servingDisable |
    recordsConsumed | buildOpen | buildFeed | buildFinish | buildAbandon | switchSchedule | switchAtOnce | switchCancel |
    clearCapture | removeOldestRecord | startInjection =>
    exact stays_writeRow h
  case lateWritePerform => exact stays_onRunning (fun _ hc => formed_fLateWrite hc) h
  case samplerJobPost => exact stays_onRunning (fun _ hc => formed_fPost hc) h
  case samplerJobStart => exact stays_onRunning (fun _ hc => formed_fJobStart hc) h
  case samplerJobEnd => exact stays_onRunning (fun _ hc => formed_fJobEnd hc) h
  case admissionRead => exact stays_onRunning (fun _ hc => formed_fAdmission hc) h
  case stepCutOff => exact stays_onRunning (fun _ hc => formed_fCutOff hc) h
  case stepBoundary => exact stays_onRunning (fun _ hc => formed_fBoundary hc) h
  case boundaryInterrupt => exact stays_onRunning (fun _ hc => formed_fInterrupt hc) h
  case routineEcall => exact stays_onRunning (fun _ hc => formed_fEcall hc) h
  case stewardAccessFault => exact stays_onRunning (fun _ hc => formed_fAccessFault hc) h
  case variantPost => exact stays_onRunning (fun _ hc => formed_fVariantPost hc) h
  case waitForCycle => exact stays_onRunning (fun _ hc => formed_fWaitCycle hc) h
  case waitForCycleWake => exact stays_onRunning (fun _ hc => formed_fCycleWake hc) h
  case waitForDies => exact stays_onRunning (fun _ hc => formed_fWaitDies hc) h
  case waitForDiesWake => exact stays_onRunning (fun _ hc => formed_fDiesWake hc) h
  case messagePop => exact stays_onRunning (fun _ hc => formed_fPop hc) h
  case messageSend => exact stays_onRunning (fun _ hc => formed_fSend hc) h
  case messageInject => exact stays_onRunning (fun _ hc => formed_injectMessage hc) h
  case migrationCopyDone => exact stays_onRunning (fun _ hc => formed_fCopyDone hc) h
  case eccWriteback => exact stays_onRunning (fun _ hc => formed_fWriteback hc) h
  case scrubPass => exact stays_onRunning (fun _ hc => formed_fScrub hc) h
  case mirrorBatchSend => exact stays_onRunning (fun _ hc => formed_fMirrorSend hc) h
  case checkpointWrite => exact stays_onRunning (fun _ hc => formed_fCkptWrite hc) h
  case checkpointDone => exact stays_onRunning (fun _ hc => formed_fCkptDone hc) h
  case importRequestAnswer => exact stays_onRunning (fun _ hc => formed_fImportAnswer hc) h
  case importComplete => exact stays_onRunning (fun _ hc => formed_fImportComplete hc) h
  case importTimeout => exact stays_onRunning (fun _ hc => formed_fImportTimeout hc) h
  case launchEmit => exact stays_onRunning (fun _ hc => formed_fEmit hc) h
  case qz5LaunchEmit => exact stays_onRunning (fun _ hc => formed_fEmit2 hc) h
  case launchReceive => exact stays_onRunning (fun _ hc => formed_fLaunch hc) h
  case launchDeadline => exact stays_onRunning (fun _ hc => formed_fDeadline hc) h
  case launchStart => exact stays_onRunning (fun _ hc => formed_fStart hc) h
  case qz5LaunchStart => exact stays_onRunning (fun _ hc => formed_fStart2 hc) h
  case alignmentCheck => exact stays_onRunning (fun _ hc => formed_fCheck hc) h
  case alignmentStampReceive => exact stays_onRunning (fun _ hc => formed_fStamp hc) h
  case alignmentEchoReceive => exact stays_onRunning (fun _ hc => formed_fEcho hc) h
  case countSourceLost => exact stays_onRunning (fun _ hc => formed_fSourceLost hc) h
  case freqChangeStop => exact stays_onRunning (fun _ hc => formed_fFreqStop hc) h
  case freqChangeRestart => exact stays_onRunning (fun _ hc => formed_fFreqRestart hc) h
  case referenceLoss => exact stays_onRunning (fun _ hc => formed_fRefLoss hc) h
  case referenceReturn => exact stays_onRunning (fun _ hc => formed_fRefReturn hc) h
  case referenceRelock => exact stays_onRunning (fun _ hc => formed_fRelockRef hc) h
  case superframeStart => exact stays_onRunning (fun _ hc => formed_fSuperframe hc) h
  case slotTransmit => exact stays_onRunning (fun _ hc => formed_fSlot hc) h
  case replayBurst => exact stays_onRunning (fun _ hc => formed_fBurst hc) h
  case carriageReceive => exact stays_onRunning (fun _ hc => formed_fReceive hc) h
  case throughHandover => exact stays_onRunning (fun _ hc => formed_fThrough hc) h
  case replayTimeout => exact stays_onRunning (fun _ hc => formed_fTimeout hc) h
  case laneFail => exact stays_onRunning (fun _ hc => formed_fLaneFail hc) h
  case spareRequest => exact stays_onRunning (fun _ hc => formed_fSpareRequest hc) h
  case spareAcknowledgement => exact stays_onRunning (fun _ hc => formed_fSpareAck hc) h
  case laneSwitch => exact stays_onRunning (fun _ hc => formed_fLaneSwitch hc) h
  case trainingRecordReceive => exact stays_onRunning (fun _ hc => formed_fTrainingRecord hc) h
  case detectDone => exact stays_onRunning (fun _ hc => formed_fDetectDone hc) h
  case equalizeDone => exact stays_onRunning (fun _ hc => formed_fEqualizeDone hc) h
  case alignDone => exact stays_onRunning (fun _ hc => formed_fAlignDone hc) h
  case exchangeDone => exact stays_onRunning (fun _ hc => formed_fExchangeDone hc) h
  case measureDone => exact stays_onRunning (fun _ hc => formed_fMeasureDone hc) h
  case trainingTimeout => exact stays_onRunning (fun _ hc => formed_fTrainingTimeout hc) h
  case lockLost => exact stays_onRunning (fun _ hc => formed_fLockLost hc) h
  case retrainRequestReceive => exact stays_onRunning (fun _ hc => formed_fRetrainRequest hc) h
  case retrainAcceptReceive => exact stays_onRunning (fun _ hc => formed_fRetrainAccept hc) h
  case retrainStart => exact stays_onRunning (fun _ hc => formed_fRetrainStart hc) h
  case digestNoticeReceive => exact stays_onRunning (fun _ hc => formed_fDigestNotice hc) h
  case stepStartStampReceive => exact stays_onRunning (fun _ hc => formed_fStepStamp hc) h
  case deferredNarrow => exact stays_onRunning (fun _ hc => formed_fDeferred hc) h
  case cartDispatch => exact stays_onRunning (fun _ hc => formed_fDispatch hc) h
  case cartInject => exact stays_onRunning (fun _ hc => formed_fInject hc) h
  case cartEscape => exact stays_onRunning (fun _ hc => formed_fEscape hc) h
  case pressureCartSend => exact stays_onRunning (fun _ hc => formed_fPressure hc) h
  case pressureExpire => exact stays_onRunning (fun _ hc => formed_fPressureExpire hc) h
  case routeTableWrite => exact stays_onRunning (fun _ hc => formed_dictWrite hc) h
  case loadComplete => exact stays_onRunning (fun _ hc => formed_fLoadComplete hc) h
  case entryWrite => exact stays_onRunning (fun _ hc => formed_dictWrite hc) h
  case read => exact stays_onRunning (fun _ hc => formed_serve (fun _ hd => formed_serveRead hd) hc) h
  case write => exact stays_onRunning (fun _ hc => formed_serve (fun _ hd => formed_serveWrite hd) hc) h
  case readStart => exact stays_onRunning (fun _ hc => formed_serve (fun _ hd => formed_serveReadStart hd) hc) h
  case readSegment => exact stays_onRunning (fun _ hc => formed_serve (fun _ hd => formed_serveReadSegment hd) hc) h
  case writeStart => exact stays_onRunning (fun _ hc => formed_serve (fun _ hd => formed_serveWriteStart hd) hc) h
  case writeSegment => exact stays_onRunning (fun _ hc => formed_serve (fun _ hd => formed_serveWriteSegment hd) hc) h
  case describe => exact stays_onRunning (fun _ hc => formed_serve (fun _ hd => formed_serveDescribe hd) hc) h
  case closeTransfer => exact stays_onRunning (fun _ hc => formed_serve (fun _ hd => formed_serveClose hd) hc) h
  case transferTimeout => exact stays_onRunning (fun _ hc => formed_fTimeoutXfer hc) h
  case canRequestFrame => exact stays_onRunning (fun _ hc => formed_fCanFrame hc) h
  case submit => exact stays_onRunning (fun _ hc => formed_fSubmit hc) h
  case buildOpenAtOnce => exact stays_onRunning (fun _ hc => formed_dictWrite (formed_dictWrite hc)) h
  case buildFeedDone => exact stays_onRunning (fun _ hc => formed_fFeedDone hc) h
  case eventFrameSend => exact stays_onRunning (fun _ hc => formed_fEvent hc) h
  case injectionApply => exact stays_onRunning (fun _ hc => formed_fInjectionApply hc) h
  case thermalWarning => exact stays_onChip (formed_fTemp h)
  case thermalTrip => exact stays_onChip (formed_fTemp h)
  case powerGoodRise => exact stays_onChip (formed_fPowerRise h)
  case powerGoodFall => exact stays_onChip (formed_fPowerFall h)
  case resetAssert => exact stays_ite (stays_onChip (formed_fReset h)) (stays_ite (stays_next h) stays_refused)
  case resetRelease => exact stays_onChip (formed_fRelease h)
  case bootFailureFrame => exact stays_onChip (formed_fBootFrame h)
  case selfTest => exact stays_onRunning (fun _ hc => formed_fSelfTest hc) h
  case selfTestComplete => exact stays_onRunning (fun _ hc => formed_fTestDone hc) h
  case securityVersionBurn => exact stays_onRunning (fun _ hc => formed_fBurn hc) h
  case getCertificates => exact stays_onChip (formed_doeServe (fun _ hd => formed_fCertificates hd) h)
  case getReport => exact stays_ite (stays_next (formed_serveClaim h)) (stays_onChip (formed_doeServe
    (fun _ hc => formed_fObject hc) h))
  case openSession => exact stays_onChip (formed_doeServe (fun _ hd => formed_fOpenSession hd) h)
  case closeSession => exact stays_onChip (formed_doeServe (fun _ hd => formed_fCloseSession hd) h)
  case ownerClaim => exact stays_next (formed_serveClaim h)
  case ownerGrant => exact stays_onChip (formed_doeServe (fun _ hd => formed_fGrant hd) h)
  case keySlotWrite => exact stays_onRunning (fun _ hc => formed_dictWrite hc) h
  case ideKmMessage => exact stays_onPowered (fun _ hc => formed_fIdeKm hc) h
  case doeDiscovery => exact stays_onChip (formed_fDiscovery h)
  case doeAbort => exact stays_onChip (formed_fDoeAbort h)
  case bar0Access => exact stays_onRunning (fun _ hc => formed_fBar hc) h
  case hdmDecoderCommit => exact stays_onRunning (fun _ hc => formed_fDecoder hc) h
  case cxlMemRead => exact stays_onRunning (fun _ hc => formed_fMemRead hc) h
  case cxlMemWrite => exact stays_onRunning (fun _ hc => formed_fMemWrite hc) h
  case h2dSnoop => exact stays_onPowered (fun _ hc => formed_fSnoop hc) h
  case cxlLinkTraining => exact stays_onPowered (fun _ hc => formed_fLink hc) h
  case perst => exact stays_onPowered (fun _ hc => formed_fPerst hc) h
  case functionLevelReset => exact stays_onPowered (fun _ hc => formed_fFlr hc) h
  case surpriseLinkDown => exact stays_onPowered (fun _ hc => formed_fLinkDown hc) h
  case powerStateChange => exact stays_onPowered (fun _ hc => formed_fPowerState hc) h
  case hostWritesUnblock => exact stays_onPowered (fun _ hc => formed_fUnblock hc) h
  case msixUnmask => exact stays_onRunning (fun _ hc => formed_fUnmask hc) h
  case peerTrainingPatternSeen => exact stays_onRunning (fun _ hc => formed_fPeerPattern hc) h
  case codewordRelock => exact stays_onRunning (fun _ hc => formed_fRelock hc) h
  case ideIntegrityFailure => exact stays_onRunning (fun _ hc => formed_fIdeFail hc) h
  case canResponseSend => exact stays_onRunning (fun _ hc => formed_fResponse hc) h
  case temperatureFall => exact stays_onChip (formed_fTemp h)
  case busMasterEnableClear => exact stays_onPowered (fun _ hc => formed_fBmeClear hc) h
  case boundaryScan => exact stays_onChip (formed_ite (formed_updatePower h) h)

theorem kept_iff_formed : Kept s ↔ Formed s.chip :=
  ⟨fun h => ⟨h.mem, h.ecc, h.temps, h.warned, h.tripped, h.jobs, h.job, h.hdm⟩,
    fun h => ⟨h.mem, h.ecc, h.temps, h.warned, h.tripped, h.jobs, h.job, h.hdm⟩⟩

theorem step_stays (h : Formed s.chip) : Stays (step s) := by
  unfold step
  split
  · exact stays_next (formed_tick h)
  · exact exec_stays _ h

/-- Settles O42: every update of the chip keeps its form, so every function composed of them does, every command and every
step. -/
theorem formsStay : Obligations.FormsStay := fun _ _ h ht => kept_iff_formed.2 (step_stays (kept_iff_formed.1 h) _ ht)

end Sys2Proof.Proofs
end

section
/-! PROOFS. Granules that hold errors: their reads, write-backs and scrub passes, and late writes (07 R188 R191 R194 R198 R204 to
R209). -/

namespace Sys2Proof.Proofs

open Sys2Proof Sys2Proof.Machine Sys2Proof.Claims Sys2Proof.Laws

variable {c d : Chip}

/-! ## Reads of granules (07 R188 R191 R194) -/

theorem flawAt_sound (h : c.flaws = []) (x : Spot) : flawAt c x = none := by
  rw [flawAt, h]
  rfl

/-- Where no error strikes a granule has the error that it was stored with. -/
theorem markAt_sound (h : c.flaws = []) (g : Nat) : markAt c g = smGet EccMark.none c.ecc g := by
  unfold markAt
  rw [flawAt_sound h]
  dsimp only
  split
  · next hnone => exact hnone.symm
  · rfl

theorem onDieCheck_sound (h : c.flaws = []) (a : Nat) (w : When) : onDieCheck c a w = c := by
  unfold onDieCheck
  split
  · rw [flawAt_sound h]
    rfl
  · rfl

/-- A read of a granule with an uncorrectable error. -/
theorem readGran_unc {a : Nat} (w : When) (scrub : Bool) (h : c.flaws = [])
    (hmark : smGet EccMark.none c.ecc (a / 64) ≠ EccMark.none) (hunc : (smGet EccMark.none c.ecc (a / 64)).unc = true) :
    let m := smGet EccMark.none c.ecc (a / 64)
    let x := eccSource a m.mask scrub
    readGran c a w scrub = ({ reportI m.injected (addReg c (x.2.2.1 + 1) 1) (x.1 + 1) x.2.1 w x.2.2.2 with
      wbDue := nsInsert c.wbDue (a / 64) }, xorMask (memBytes c.mem a 64) m.mask, true) := by
  unfold readGran
  dsimp only
  rw [markAt_sound h, onDieCheck_sound h, if_neg hmark, if_pos hunc]
  rfl

/-- A read of a granule with a correctable error. -/
theorem readGran_corrected {a : Nat} (w : When) (scrub : Bool) (h : c.flaws = [])
    (hmark : smGet EccMark.none c.ecc (a / 64) ≠ EccMark.none) (hunc : (smGet EccMark.none c.ecc (a / 64)).unc = false) :
    let m := smGet EccMark.none c.ecc (a / 64)
    let x := eccSource a m.mask scrub
    readGran c a w scrub = ({ reportI m.injected (addReg c x.2.2.1 1) x.1 x.2.1 w x.2.2.2 with
      wbDue := nsInsert c.wbDue (a / 64) }, memBytes c.mem a 64, granPoison c a) := by
  unfold readGran
  dsimp only
  rw [markAt_sound h, onDieCheck_sound h, if_neg hmark, hunc]
  rfl

theorem granuleReads : GranuleReads := by
  intro c a w scrub hsound m r
  refine ⟨fun hm => readGran_clean w scrub hm hsound, fun hm => ?_⟩
  have hdue : nsMem (nsInsert c.wbDue (a / 64)) (a / 64) = true := by simp
  cases hunc : m.unc with
  | true =>
    have hr : r = _ := readGran_unc w scrub hsound hm hunc
    rw [hr]
    refine ⟨rfl, rfl, hdue, rfl, rfl, rfl, ?_⟩
    exact ⟨reg_addReg_same .., fun j hj => reg_addReg_ne c 1 hj, _, rfl, rfl⟩
  | false =>
    have hr : r = _ := readGran_corrected w scrub hsound hm hunc
    rw [hr]
    refine ⟨rfl, rfl, hdue, rfl, rfl, rfl, ?_⟩
    exact ⟨reg_addReg_same .., fun j hj => reg_addReg_ne c 1 hj, _, rfl, rfl⟩

/-- A read of a granule changes nothing but the log, the counters and what is due. -/
theorem readGran_rest (a : Nat) (w : When) (scrub : Bool) (h : c.flaws = []) : (readGran c a w scrub).1 =
    { c with wbDue := (readGran c a w scrub).1.wbDue, regs := (readGran c a w scrub).1.regs,
             err := (readGran c a w scrub).1.err } := by
  by_cases hm : smGet EccMark.none c.ecc (a / 64) = EccMark.none
  · rw [readGran_clean w scrub hm h]
  · cases hunc : (smGet EccMark.none c.ecc (a / 64)).unc with
    | true =>
      rw [readGran_unc w scrub h hm hunc]
      rfl
    | false =>
      rw [readGran_corrected w scrub h hm hunc]
      rfl

/-! ## Write-backs (07 R188 R204 R205) -/

/-- The tiles, the plan, the ports and the count stay. -/
structure SameRest (c d : Chip) : Prop where
  tiles : d.tiles = c.tiles
  plan : d.plan = c.plan
  ports : d.ports = c.ports
  count : d.count = c.count

theorem SameRest.refl (c : Chip) : SameRest c c := ⟨rfl, rfl, rfl, rfl⟩

theorem SameRest.trans {e : Chip} (h : SameRest c d) (g : SameRest d e) : SameRest c e :=
  ⟨g.tiles.trans h.tiles, g.plan.trans h.plan, g.ports.trans h.ports, g.count.trans h.count⟩

theorem SameRest.units {s : State} (h : SameRest s.chip d) : SameUnits s { s with chip := flush d } :=
  ⟨(flush_tiles d).trans h.tiles, (flush_plan d).trans h.plan, (flush_ports d).trans h.ports, (flush_count d).trans h.count,
    rfl, rfl⟩

/-- The granules of a list are stored without their errors, and no other granule changes. -/
structure Healed (c d : Chip) (l : List Nat) : Prop where
  bytes : ∀ g ∈ l, memBytes d.mem (64 * g) 64 = healed c g (smGet EccMark.none c.ecc g)
  poison : ∀ g ∈ l, nsMem d.poison g = ((smGet EccMark.none c.ecc g).unc || nsMem c.poison g)
  ecc : ∀ g ∈ l, smGet EccMark.none d.ecc g = EccMark.none
  otherBytes : ∀ b, b / 64 ∉ l → memByte d.mem b = memByte c.mem b
  otherPoison : ∀ g, g ∉ l → nsMem d.poison g = nsMem c.poison g
  otherEcc : ∀ g, g ∉ l → smGet EccMark.none d.ecc g = smGet EccMark.none c.ecc g
  sound : d.flaws = []
  rest : SameRest c d

theorem Healed.nil (h : c.flaws = []) : Healed c c [] := by
  constructor <;> simp [h, SameRest.refl]

/-- The bytes of a granule stay where each of them does. -/
theorem memBytes_granule {m m' : List Host.Cell} {g : Nat} (h : ∀ b, b / 64 = g → memByte m' b = memByte m b) :
    memBytes m' (64 * g) 64 = memBytes m (64 * g) 64 :=
  memBytes_congr 64 _ fun b hlow hhigh => h b (by omega)

theorem Healed.granuleBytes {l : List Nat} (h : Healed c d l) {g : Nat} (hg : g ∉ l) :
    memBytes d.mem (64 * g) 64 = memBytes c.mem (64 * g) 64 :=
  memBytes_granule fun b hb => h.otherBytes b (hb ▸ hg)

theorem Healed.cons {e : Chip} {g : Nat} {l : List Nat} (hg : Healed c d [g]) (hl : Healed d e l) (hnot : g ∉ l) :
    Healed c e (g :: l) where
  bytes k hk := by
    rcases List.mem_cons.mp hk with rfl | hk
    · exact (hl.granuleBytes hnot).trans (hg.bytes k (List.mem_singleton_self k))
    · have hne : k ∉ [g] := fun h => hnot (List.mem_singleton.mp h ▸ hk)
      rw [hl.bytes k hk, hg.otherEcc k hne, healed, healed, hg.granuleBytes hne]
  poison k hk := by
    rcases List.mem_cons.mp hk with rfl | hk
    · exact (hl.otherPoison k hnot).trans (hg.poison k (List.mem_singleton_self k))
    · have hne : k ∉ [g] := fun h => hnot (List.mem_singleton.mp h ▸ hk)
      rw [hl.poison k hk, hg.otherEcc k hne, hg.otherPoison k hne]
  ecc k hk := by
    rcases List.mem_cons.mp hk with rfl | hk
    · exact (hl.otherEcc k hnot).trans (hg.ecc k (List.mem_singleton_self k))
    · exact hl.ecc k hk
  otherBytes b hb := by
    obtain ⟨hne, hb⟩ := not_or.mp (mt List.mem_cons.mpr hb)
    exact (hl.otherBytes b hb).trans (hg.otherBytes b (mt List.mem_singleton.mp hne))
  otherPoison k hk := by
    obtain ⟨hne, hk⟩ := not_or.mp (mt List.mem_cons.mpr hk)
    exact (hl.otherPoison k hk).trans (hg.otherPoison k (mt List.mem_singleton.mp hne))
  otherEcc k hk := by
    obtain ⟨hne, hk⟩ := not_or.mp (mt List.mem_cons.mpr hk)
    exact (hl.otherEcc k hk).trans (hg.otherEcc k (mt List.mem_singleton.mp hne))
  sound := hl.sound
  rest := hg.rest.trans hl.rest

theorem xorMask_length (l : List Byte) (m : Nat) : (xorMask l m).length = l.length := by
  induction l generalizing m with
  | nil => rfl
  | cons b t ih => simp [xorMask, ih]

theorem writeBack_corrected {g : Nat} (h : c.flaws = []) (hunc : (smGet EccMark.none c.ecc g).unc = false) :
    writeBack c g = clearMark c g := by
  rw [writeBack, markAt_sound h, hunc]
  rfl

theorem writeBack_unc {g : Nat} (h : c.flaws = []) (hunc : (smGet EccMark.none c.ecc g).unc = true) : writeBack c g =
    { clearMark c g with
      mem := setBytes c.mem (64 * g) (xorMask (memBytes c.mem (64 * g) 64) (smGet EccMark.none c.ecc g).mask)
      poison := nsInsert c.poison g } := by
  rw [writeBack, markAt_sound h, hunc]
  rfl

/-- A write-back heals its granule. -/
theorem healed_writeBack (h : c.flaws = []) (g : Nat) : Healed c (writeBack c g) [g] := by
  have hflaws : (clearMark c g).flaws = [] := by simp [clearMark, dropFlaw, h]
  have hself : ∀ k ∈ [g], smGet EccMark.none (clearMark c g).ecc k = EccMark.none := fun k hk =>
    List.mem_singleton.mp hk ▸ smGet_smErase_same ..
  have hother : ∀ k, k ∉ [g] → smGet EccMark.none (clearMark c g).ecc k = smGet EccMark.none c.ecc k := fun k hk =>
    smGet_smErase_ne _ _ (mt List.mem_singleton.mpr hk)
  cases hunc : (smGet EccMark.none c.ecc g).unc with
  | false =>
    rw [writeBack_corrected h hunc]
    exact {
      bytes := fun k hk => by rw [List.mem_singleton.mp hk, healed, hunc]; rfl
      poison := fun k hk => by rw [List.mem_singleton.mp hk, hunc]; rfl
      ecc := hself
      otherBytes := fun _ _ => rfl
      otherPoison := fun _ _ => rfl
      otherEcc := hother
      sound := hflaws
      rest := ⟨rfl, rfl, rfl, rfl⟩ }
  | true =>
    rw [writeBack_unc h hunc]
    have hsame := memBytes_setBytes_same (xorMask (memBytes c.mem (64 * g) 64) (smGet EccMark.none c.ecc g).mask) c.mem (64 * g)
    have hlen : (xorMask (memBytes c.mem (64 * g) 64) (smGet EccMark.none c.ecc g).mask).length = 64 := by
      rw [xorMask_length, length_memBytes]
    rw [hlen] at hsame
    exact {
      bytes := fun k hk => by rw [List.mem_singleton.mp hk, healed, if_pos hunc]; exact hsame
      poison := fun k hk => by simp [List.mem_singleton.mp hk, hunc]
      ecc := hself
      otherBytes := fun b hb => memByte_setBytes_out _ _ (by
        have hne : b / 64 ≠ g := mt List.mem_singleton.mpr hb
        rw [hlen]
        omega)
      otherPoison := fun k hk => by simp [mt List.mem_singleton.mpr hk]
      otherEcc := hother
      sound := hflaws
      rest := ⟨rfl, rfl, rfl, rfl⟩ }

theorem writeBack_wbDue (c : Chip) (g : Nat) : nsMem (writeBack c g).wbDue g = false := by
  have hclear : nsMem (clearMark c g).wbDue g = false := by simp [clearMark, dropFlaw]
  unfold writeBack
  dsimp only
  split
  · exact hclear
  · exact hclear

theorem eccWriteback_heals {s : State} {a : Nat} (h : Quiet s) (hchange : s.chip.time.changing = false)
    (hdue : nsMem s.chip.wbDue (a / 64) = true) :
    exec (.eccWriteback a) s = .next { s with chip := flush (writeBack s.chip (a / 64)) } := by
  have hrun : exec (.eccWriteback a) s = _ := onRunning_running (fWriteback a) h.runs
  rw [hrun, fWriteback, hdue, hchange]
  rfl

/-! ## Scrub passes (07 R188 R206) -/

/-- What a scrub pass does at a granule. -/
def scrubGran (c : Chip) (g : Nat) : Chip := writeBack (readGran c (64 * g) .apart true).1 g

/-- What changes neither memory nor its errors may come before. -/
theorem Healed.after {b : Chip} {l : List Nat} (hmem : b.mem = c.mem) (hpoison : b.poison = c.poison) (hecc : b.ecc = c.ecc)
    (hrest : SameRest c b) (h : Healed b d l) : Healed c d l := by
  obtain ⟨hbytes, hpois, herr, hotherBytes, hotherPoison, hotherEcc, hsound, hsame⟩ := h
  rw [hpoison] at hotherPoison
  rw [hecc] at hotherEcc
  simp only [healed, hmem, hpoison, hecc] at hbytes hpois hotherBytes
  exact ⟨hbytes, hpois, herr, hotherBytes, hotherPoison, hotherEcc, hsound, hrest.trans hsame⟩

theorem healed_scrubGran (h : c.flaws = []) (g : Nat) : Healed c (scrubGran c g) [g] := by
  have hread := readGran_rest (64 * g) .apart true h
  unfold scrubGran
  generalize (readGran c (64 * g) .apart true).1 = b at hread ⊢
  have hflaws : b.flaws = [] := by rw [hread]; exact h
  refine (healed_writeBack hflaws g).after ?_ ?_ ?_ ?_
  · rw [hread]
  · rw [hread]
  · rw [hread]
  · rw [hread]
    exact ⟨rfl, rfl, rfl, rfl⟩

theorem healed_foldl_scrubGran {l : List Nat} (h : c.flaws = []) (hl : l.Nodup) : Healed c (l.foldl scrubGran c) l := by
  induction l generalizing c with
  | nil => exact .nil h
  | cons g t ih =>
    obtain ⟨hnot, ht⟩ := List.nodup_cons.mp hl
    have hg := healed_scrubGran h g
    exact hg.cons (ih hg.sound ht) hnot

theorem scrubStacks_sound (h : c.flaws = []) (lo hi : Nat) : scrubStacks lo hi c = c := by
  unfold scrubStacks
  generalize List.range 8 = l
  induction l with
  | nil => rfl
  | cons s t ih =>
    rw [List.foldl_cons]
    dsimp only
    rw [onDieCheck_sound h, ite_self]
    exact ih

theorem markedGrans_sound (h : c.flaws = []) : markedGrans c = c.ecc.map (·.1) := by
  unfold markedGrans
  rw [h]
  exact List.append_nil _

/-- The granules of a scrub pass (07 R206). -/
def scrubbed (c : Chip) (start n : Nat) : List Nat :=
  (c.ecc.map (·.1)).filter fun g => decide (start / 64 ≤ g) && decide (g < start / 64 + n) && scrubs c (64 * g)

theorem fScrub_sound (h : c.flaws = []) (hchange : c.time.changing = false) {start n : Nat} (hon : reg c (key 0x4030 1) ≠ 0) :
    fScrub start n c = (scrubbed c start n).foldl scrubGran c := by
  have hguard : ¬(reg c (key 0x4030 1) = 0 ∨ c.time.changing = true) := by simp [hon, hchange]
  rw [fScrub, if_neg hguard]
  dsimp only
  rw [scrubStacks_sound h, ite_self, markedGrans_sound h]
  rfl

/-- The keys of a map in its canonical form are distinct. -/
theorem nodup_keys_of_smWf {α : Type} [DecidableEq α] {d : α} {m : SMap α} (h : smWf d m = true) : (m.map (·.1)).Nodup := by
  induction m with
  | nil => exact List.nodup_nil
  | cons e t ih =>
    obtain ⟨k, v⟩ := e
    obtain ⟨-, hlt, ht⟩ := (smWf_cons d k v t).mp h
    refine List.nodup_cons.mpr ⟨fun hk => ?_, ih ht⟩
    obtain ⟨e, he, rfl⟩ := List.mem_map.mp hk
    exact Nat.lt_irrefl _ (hlt e he)

theorem mem_scrubbed {start n g : Nat} : g ∈ scrubbed c start n ↔
    start / 64 ≤ g ∧ g < start / 64 + n ∧ scrubs c (64 * g) = true ∧ g ∈ c.ecc.map (·.1) := by
  simp only [scrubbed, List.mem_filter, Bool.and_eq_true, decide_eq_true_eq]
  tauto

/-! ## Late writes (07 R198 R209) -/

theorem soilPage_rest (c : Chip) (rn page : Nat) : soilPage c rn page = { c with pools := (soilPage c rn page).pools } := by
  unfold soilPage
  dsimp only
  split
  · rfl
  · rfl

theorem cmdArrives_rest (c : Chip) (cmd : Option (Nat × Nat)) (b : List Byte) :
    cmdArrives c cmd b = { c with srv := (cmdArrives c cmd b).srv } := by
  unfold cmdArrives
  split
  · rfl
  · rfl

/-- A line that lies in one place is written there. -/
theorem putLine_one {as : List Nat} {pg : Option PageRef} {a : Nat} (h : (placed c as pg).1 = [a]) (cmd : Option (Nat × Nat))
    (b : List Byte) (p : Bool) : putLine c as pg cmd b p =
      { writeGran (holdGran c a) a b p with
        pools := (putLine c as pg cmd b p).pools, srv := (putLine c as pg cmd b p).srv } := by
  unfold putLine
  dsimp only
  rw [h, List.foldl_cons, List.foldl_nil, cmdArrives_rest]
  split
  · rw [soilPage_rest]
  · rfl

/-- A late write is performed where its line lies then. -/
theorem fLateWrite_of_find {u : Nat} {x : LateWrite} (hchange : c.time.changing = false)
    (hx : c.late.find? (fun y => y.unit == u) = some x) :
    fLateWrite u c = performLate { c with late := c.late.eraseP (fun y => y.unit == u) } x := by
  unfold fLateWrite
  rw [hchange, if_neg Bool.false_ne_true, hx]

theorem writeGran_sameRest (c : Chip) (a : Nat) (b : List Byte) (p : Bool) : SameRest c (writeGran (holdGran c a) a b p) := by
  unfold writeGran
  rw [injectWrite_rest]
  exact ⟨rfl, rfl, rfl, rfl⟩

theorem writeGran_late (c : Chip) (a : Nat) (b : List Byte) (p : Bool) : (writeGran (holdGran c a) a b p).late = c.late := by
  unfold writeGran
  rw [injectWrite_rest]
  rfl

theorem writeGran_poison (c : Chip) (a : Nat) (b : List Byte) (p : Bool) :
    (writeGran (holdGran c a) a b p).poison = nsPut c.poison (a / 64) p := by
  unfold writeGran
  rw [injectWrite_poison]
  rfl

theorem lateWrite_performed {s : State} {u : Fin 16} {x : LateWrite} {a : Nat} (h : Quiet s) (hchange : s.chip.time.changing = false)
    (hx : s.chip.late.find? (fun y => y.unit == u.val) = some x) (ha : (Machine.placed s.chip x.addrs x.page).1 = [a]) (hgran : a % 64 = 0) :
    Answers (.lateWritePerform u) s (fun t => (SameUnits s t ∧
        (∀ b, ¬b / 64 = a / 64 → memByte t.chip.mem b = memByte s.chip.mem b) ∧
        (∀ g, ¬g = a / 64 → nsMem t.chip.poison g = nsMem s.chip.poison g)) ∧
      memBytes t.chip.mem a 64 = slice x.data 0 64 ∧ granPoison t.chip a = x.poison ∧
      t.chip.late = s.chip.late.eraseP (fun y => y.unit == u.val)) := by
  have hrun : exec (.lateWritePerform u) s = _ := onRunning_running (fLateWrite u.val) h.runs
  refine ⟨_, hrun, ?_⟩
  rw [fLateWrite_of_find hchange hx]
  generalize hc : { s.chip with late := s.chip.late.eraseP (fun y => y.unit == u.val) } = c
  have hplaced : (Machine.placed c x.addrs x.page).1 = [a] := by rw [← hc]; exact ha
  have hrest : SameRest s.chip c := by rw [← hc]; exact ⟨rfl, rfl, rfl, rfl⟩
  have hmem : c.mem = s.chip.mem := by rw [← hc]
  have hpoison : c.poison = s.chip.poison := by rw [← hc]
  have hline := putLine_one hplaced x.cmd x.data x.poison
  have hw := writeGran_sameRest c a x.data x.poison
  have hput : SameRest c (performLate c x) := by
    rw [performLate, hline]
    exact ⟨hw.tiles, hw.plan, hw.ports, hw.count⟩
  have hmemPut : (performLate c x).mem = (writeGran (holdGran c a) a x.data x.poison).mem := by rw [performLate, hline]
  have hpoisonPut : (performLate c x).poison = nsPut c.poison (a / 64) x.poison := by
    rw [performLate, hline, writeGran_poison]
  have hlatePut : (performLate c x).late = c.late := by rw [performLate, hline]; exact writeGran_late ..
  refine ⟨⟨(hrest.trans hput).units, fun b hb => ?_, fun g hg => ?_⟩, ?_, ?_, ?_⟩
  · rw [flush_mem, hmemPut, memByte_writeGran_ne _ _ _ (by omega), ← hmem]
    rfl
  · rw [flush_poison, hpoisonPut, nsMem_nsPut, if_neg hg, hpoison]
  · rw [flush_mem, hmemPut, memBytes_writeGran]
  · rw [granPoison, flush_poison, hpoisonPut, nsMem_nsPut, if_pos rfl]
  · rw [flush_late, hlatePut, ← hc]

theorem memoryEvents : MemoryEvents := by
  intro s u x a g start n h hchange only
  refine ⟨fun hx ha hgran => lateWrite_performed h hchange hx ha hgran, fun hdue => ?_, fun hon hwf => ?_⟩
  · have hheal := healed_writeBack h.sound (g / 64)
    have hself := List.mem_singleton_self (g / 64)
    refine ⟨_, eccWriteback_heals h hchange hdue, ⟨hheal.rest.units, fun b hb => ?_, fun k hk => ?_⟩, ?_, ?_, ?_, ?_⟩
    · exact (congrArg (memByte · b) (flush_mem _)).trans (hheal.otherBytes b (mt List.mem_singleton.mp hb))
    · exact (congrArg (nsMem · k) (flush_poison _)).trans (hheal.otherPoison k (mt List.mem_singleton.mp hk))
    · rw [flush_mem]
      exact hheal.bytes _ hself
    · rw [flush_poison]
      exact hheal.poison _ hself
    · rw [flush_ecc]
      exact hheal.ecc _ hself
    · rw [flush_wbDue]
      exact writeBack_wbDue s.chip (g / 64)
  · have hrun : exec (.scrubPass start n) s = _ := onRunning_running (fScrub start n) h.runs
    have hheal : Healed s.chip _ _ := healed_foldl_scrubGran h.sound ((nodup_keys_of_smWf hwf).filter
      (fun g => decide (start / 64 ≤ g) && decide (g < start / 64 + n) && scrubs s.chip (64 * g)))
    refine ⟨_, hrun, ?_⟩
    rw [fScrub_sound h.sound hchange hon]
    refine ⟨⟨hheal.rest.units, fun b hb => ?_, fun k hk => ?_⟩, fun k hk => ⟨?_, ?_, ?_⟩⟩
    · rw [flush_mem]
      exact hheal.otherBytes b (mt mem_scrubbed.mp hb)
    · rw [flush_poison]
      exact hheal.otherPoison k (mt mem_scrubbed.mp hk)
    · rw [flush_mem]
      exact hheal.bytes k (mem_scrubbed.mpr hk)
    · rw [flush_poison]
      exact hheal.poison k (mem_scrubbed.mpr hk)
    · rw [flush_ecc]
      exact hheal.ecc k (mem_scrubbed.mpr hk)

end Sys2Proof.Proofs
end

section
/-! PROOFS. Errors that strike a register or the engine's own storage, and an injection in a lane (04 R112 R113 R114, 14 R444,
15 R467). -/

namespace Sys2Proof.Proofs

open Sys2Proof Sys2Proof.Machine Sys2Proof.Claims Sys2Proof.Laws

variable {c : Chip} {site : Nat} {x : Instr}

/-! ## One error that has struck -/

theorem flawsOf_met {f : Flaw} {p : Spot → Bool} (h : c.flaws = [f]) (hsince : f.since ≤ nowCount c) (hp : p f.spot = true) :
    flawsOf c p = [f] := by
  rw [flawsOf, h, List.filter_cons_of_pos (by simp [hp, hsince])]
  rfl

theorem flawAt_met {f : Flaw} (h : c.flaws = [f]) (hsince : f.since ≤ nowCount c) : flawAt c f.spot = some f := by
  rw [flawAt, h, List.find?_cons_of_pos (by simp [hsince])]

theorem dropFlaw_met {f : Flaw} (h : c.flaws = [f]) (hsince : f.since ≤ nowCount c) : dropFlaw c f.spot = { c with flaws := [] } := by
  rw [dropFlaw, h, List.filter_cons_of_neg (by simp [hsince])]
  rfl

/-! ## Checks of an instruction in a tile (04 R112 R113) -/

theorem checkLanes_calm (t : Tile) (h : c.flaws = []) (hinj : c.err.inj = none) : checkLanes t x c site = c := by
  unfold checkLanes injFor
  simp [flawsOf_sound h, hinj]

/-- The injection that an instruction meets in a lane. -/
def InLane (t : Tile) (x : Instr) (site : Nat) (j : Inject) : Prop :=
  j.kind = 2 ∧ strikes t x site (.lane (bits j.loc 7 0) (bits j.loc 18 16) (bits j.loc 13 8)) = true

theorem checkLanes_injected {t : Tile} {j : Inject} (h : c.flaws = []) (hinj : c.err.inj = some j) (hlane : InLane t x site j)
    (harmed : injArmed c j = true) : checkLanes t x c site =
      spendInj (laneFails true x c site (bits j.loc 13 8) (bits j.loc 18 16) 0) j := by
  obtain ⟨hkind, hstrikes⟩ := hlane
  unfold checkLanes injFor
  simp [flawsOf_sound h, hinj, hkind, hstrikes, harmed]

/-- An instruction that meets an error has its effect on what the read finds. -/
theorem tileIssue_met {f : Flaw} (h : c.flaws = [f]) (hsince : f.since ≤ nowCount c)
    (hmeets : meets (tileAt c site) x site f.spot = true) (hfound : (wordFound c site f).flaws = [])
    (hflaws : (tileExec x (wordFound c site f) site).flaws = []) (hinj : (tileExec x (wordFound c site f) site).err.inj = none) :
    tileIssue x c site = tileExec x (wordFound c site f) site := by
  unfold tileIssue
  rw [flawsOf_met h hsince hmeets]
  simp only [List.foldl_cons, List.foldl_nil, flawsOf_sound hfound, List.map_nil]
  exact checkLanes_calm _ hflaws hinj

/-- An instruction that meets an injection in a lane has its effect, and the lane fails. -/
theorem tileIssue_injected {j : Inject} (h : c.flaws = []) (hflaws : (tileExec x c site).flaws = [])
    (hinj : (tileExec x c site).err.inj = some j) (hlane : InLane (tileAt c site) x site j)
    (harmed : injArmed (tileExec x c site) j = true) : tileIssue x c site =
      spendInj (laneFails true x (tileExec x c site) site (bits j.loc 13 8) (bits j.loc 18 16) 0) j := by
  unfold tileIssue
  simp only [flawsOf_sound h, List.foldl_nil, List.map_nil]
  exact checkLanes_injected hflaws hinj hlane harmed

/-! ## A lane that is struck, and one that is tainted -/

/-- The word of a lane with bits inverted, its granule poisoned. -/
def spoil (t : Tile) (a l mask : Nat) : Tile :=
  setVreg t a (writeLanes (vreg t a) (fun k => if k = l then some (lane (vreg t a) l ^^^ BitVec.ofNat 32 mask, true) else none))

theorem spoilt_spoil (t : Tile) (a mask : Nat) {l : Nat} (hl : l < 64) : Spoilt a l mask t (spoil t a l mask) where
  lanes k hk := by
    rw [spoil, vreg_setVreg_same, lane_writeLanes _ _ hk]
    by_cases hkl : k = l
    · rw [if_pos hkl, if_pos hkl, hkl]
    · rw [if_neg hkl, if_neg hkl]
  poison k hk := by
    rw [spoil, vreg_setVreg_same, Bool.eq_iff_iff, poison_writeLanes _ _ hk, Bool.or_eq_true, decide_eq_true_eq]
    constructor
    · rintro ⟨i, -, rfl, hi⟩
      by_cases hil : i = l
      · exact .inr (hil ▸ rfl)
      · rw [if_neg hil] at hi
        exact .inl hi
    · rintro (hold | rfl)
      · by_cases hkl : 16 * k = l
        · exact ⟨l, hl, by omega, by rw [if_pos rfl]⟩
        · exact ⟨16 * k, by omega, by omega, by rw [if_neg hkl]; exact hold⟩
      · exact ⟨l, hl, rfl, by rw [if_pos rfl]⟩
  others r hr := vreg_setVreg_ne t _ hr
  rest := rfl

/-- The word of a lane kept, its granule poisoned. -/
def taintLane (t : Tile) (vd l : Nat) : Tile :=
  setVreg t vd (writeLanes (vreg t vd) (fun k => if k == l then some (lane (vreg t vd) k ^^^ BitVec.ofNat 32 0, true) else none))

/-- A result of which an active lane is tainted besides. -/
theorem vecResult_taintLane {g : Gov} {vd l : Nat} {f : Nat → TW} {t t' : Tile} (h : VecResult false g vd f t t') (hl : l < 64)
    (hactive : (preg t g.p.val).val.testBit l = true) :
    VecResult false g vd (fun k => ((f k).1, (f k).2 || k == l)) t (taintLane t' vd l) where
  lanes k hk := by
    rw [taintLane, vreg_setVreg_same, lane_writeLanes _ _ hk, ← h.lanes k hk]
    by_cases hkl : k = l
    · simp [hkl]
    · simp [hkl]
  poison k hk := by
    have hold := h.poison k hk
    rw [taintLane, vreg_setVreg_same, poison_writeLanes _ _ hk]
    constructor
    · rintro ⟨i, hi, rfl, hpoison⟩
      by_cases hil : i = l
      · exact ⟨l, hl, hil ▸ rfl, .inr (.inr (by simp [hactive]))⟩
      · rw [if_neg (by simpa using hil)] at hpoison
        obtain ⟨m, hm, hmk, hcause⟩ := hold.mp hpoison
        refine ⟨m, hm, hmk, hcause.imp_right (Or.imp_right fun hword => ?_)⟩
        by_cases hm' : (preg t g.p.val).val.testBit m = true
        · rw [if_pos hm'] at hword ⊢
          exact Bool.or_eq_true_iff.mpr (.inl hword)
        · rwa [if_neg hm'] at hword ⊢
    · rintro ⟨m, hm, rfl, hcause⟩
      by_cases hml : m = l
      · exact ⟨l, hl, by rw [hml], by simp⟩
      · by_cases hsame : (vreg t' vd).poison.getD (m / 16) false = true
        · by_cases hfirst : m / 16 * 16 = l
          · exact ⟨l, hl, by omega, by simp⟩
          · exact ⟨m / 16 * 16, by omega, by omega, by simpa [hfirst] using hsame⟩
        · refine absurd (hold.mpr ⟨m, hm, rfl, hcause.imp_right (Or.imp_right fun hword => ?_)⟩) hsame
          by_cases hm' : (preg t g.p.val).val.testBit m = true
          · rw [if_pos hm'] at hword ⊢
            simpa [hml] using hword
          · rwa [if_neg hm'] at hword ⊢
  others r hr := (vreg_setVreg_ne t' _ hr).trans (h.others r hr)
  rest := by
    have hrest := h.rest
    rw [taintLane, setVreg, hrest]

/-! ## The reports -/

/-- One occurrence of a tile is put by for the log. -/
def Noted (c d : Chip) (site code : Nat) (detail : List Nat) : Prop :=
  ∃ o, d.err.pend = c.err.pend ++ [o] ∧ o.code = code ∧ o.loc = locCode (.tile site) ∧ o.detail = detail

theorem noted_reportI {b : Chip} (inj : Bool) (hpend : b.err.pend = c.err.pend) (code : Nat) {detail : List Nat}
    (hsmall : ∀ n ∈ detail, n < 4294967296) : Noted c (reportI inj b code (.tile site) .cycle detail) site code detail := by
  refine ⟨_, congrArg (· ++ _) hpend, rfl, rfl, ?_⟩
  exact (List.map_congr_left fun n hn => Nat.mod_eq_of_lt (hsmall n hn)).trans (List.map_id _)

/-- What spending an opportunity leaves (14 R444). -/
theorem spendInj_cases (c : Chip) (j : Inject) :
    (j.left ≤ 1 → (spendInj c j).err.inj = none ∧ reg (spendInj c j) (key 0xF010 7) = 3) ∧
    (1 < j.left → (spendInj c j).err.inj = some { j with left := j.left - 1, applied := true } ∧
      reg (spendInj c j) (key 0xF010 7) = 2) ∧
    (spendInj c j).err.pend = c.err.pend ∧ ∀ m, m ≠ key 0xF010 7 → reg (spendInj c j) m = reg c m := by
  unfold spendInj
  by_cases hlast : j.left ≤ 1
  · rw [if_pos hlast]
    exact ⟨fun _ => ⟨rfl, reg_setReg_same ..⟩, fun h => absurd hlast (Nat.not_le.mpr h), rfl, fun m hm => reg_setReg_ne _ _ hm⟩
  · rw [if_neg hlast]
    exact ⟨fun h => absurd h hlast, fun _ => ⟨rfl, reg_setReg_same ..⟩, rfl, fun m hm => reg_setReg_ne _ _ hm⟩

/-! ## IADD and VCMP (04 R112 to R114) -/

section
variable {i : Issue} {g : Gov} {vd a b : Fin 64} {cc : Cc} {pd : Fin 8} {l since mask : Nat} {j : Inject}

/-- The sum of a lane. -/
def sumOf (a b : Fin 64) (t : Tile) : Nat → TW := on2 (fun x y => BitVec.ofNat 32 (x.toNat + y.toNat)) a (plain b) t

theorem tileExec_iadd (c : Chip) (site : Nat) : tileExec (.iadd i g vd a b) c site =
    modTile c site (fun t => writeVec t g vd.val (sumOf a b t)) := rfl

theorem meets_iadd (t : Tile) : meets t (.iadd i g vd a b) site (.vreg site a.val l) = true := by
  simp [meets, needOf, vecRegs]

theorem strikes_alu {t : Tile} {x : Instr} (hunit : unitNumber x = some 0) (hgov : govOf x = some g.p.val)
    (hsite : bits j.loc 7 0 = site) (hlane : bits j.loc 13 8 = l) (halu : bits j.loc 18 16 = 0) (hkind : j.kind = 2)
    (hactive : (preg t g.p.val).val.testBit l = true) : InLane t x site j := by
  refine ⟨hkind, ?_⟩
  simp [strikes, hsite, hlane, halu, hunit, laneActive, hgov, hactive]

/-- A correctable error in a lane that is read. -/
theorem wordFound_corrected (c : Chip) : wordFound c site ⟨.vreg site a.val l, since, false, mask⟩ =
    report (addReg (dropFlaw c (.vreg site a.val l)) (key 0x4031 7) 1) 0x0203 (.tile site) .cycle [1, 64 * a.val + l] := rfl

/-- An uncorrectable error in a lane that is read. -/
theorem wordFound_unc (c : Chip) : wordFound c site ⟨.vreg site a.val l, since, true, mask⟩ =
    report (addReg (modTile (dropFlaw c (.vreg site a.val l)) site (spoil · a.val l mask)) (key 0x4031 8) 1) 0x0204 (.tile site) .cycle
      [1, 64 * a.val + l] := rfl

/-- What a comparison finds in a lane. -/
def comparisonOf (cc : Cc) (a b : Fin 64) (t : Tile) (l : Nat) : Bool × Bool :=
  (fcmp cc (regLane t a.val l).1 (srcLane t ⟨b, false⟩ l).1, (regLane t a.val l).2 || (srcLane t ⟨b, false⟩ l).2)

theorem tileExec_vcmp (c : Chip) (site : Nat) : tileExec (.vcmp i g cc pd a ⟨b, false⟩) c site =
    modTile c site (fun t => writeCmp t g pd.val (comparisonOf cc a b t)) := rfl

theorem laneFails_iadd (d : Chip) : laneFails true (.iadd i g vd a b) d site l 0 0 =
    reportI true (bump (modTile d site (taintLane · vd.val l)) (key 0x3040 4) 1) 0x0102 (.tile site) .cycle [l, 0] := rfl

/-- A predicate register whose taint bit is set. -/
def taintPreg (t : Tile) (pd : Nat) : Tile := setPreg t pd { preg t pd with taint := true }

theorem laneFails_vcmp (d : Chip) : laneFails true (.vcmp i g cc pd a ⟨b, false⟩) d site l 0 0 =
    reportI true (bump (modTile d site (taintPreg · pd.val)) (key 0x3040 4) 1) 0x0102 (.tile site) .cycle [l, 0] := rfl

theorem preg_taintPreg_val (t : Tile) (pd : Nat) : (preg (taintPreg t pd) pd).val = (preg t pd).val := by
  by_cases hpd : pd = 0
  · rw [taintPreg, setPreg, if_pos hpd]
  · rw [taintPreg, preg_setPreg_same t _ hpd]

theorem preg_taintPreg_taint (t : Tile) {pd : Nat} (hpd : pd ≠ 0) : (preg (taintPreg t pd) pd).taint = true := by
  rw [taintPreg, preg_setPreg_same t _ hpd]

end

/-! ## What a lane that an injection fails leaves (14 R444) -/

/-- Beside the tile: other tiles, memory and the plan stay. -/
def OtherwiseSame (c d : Chip) (site : Nat) : Prop := (∀ y, y ≠ site → tileAt d y = tileAt c y) ∧ d.mem = c.mem ∧ d.plan = c.plan

/-- One opportunity of the injection is spent, and the lane's error counted. -/
def Spent (c d : Chip) (j : Inject) : Prop :=
  (j.left ≤ 1 → d.err.inj = none ∧ reg d (key 0xF010 7) = 3) ∧
  (1 < j.left → d.err.inj = some { j with left := j.left - 1, applied := true } ∧ reg d (key 0xF010 7) = 2) ∧
  smGet 0 d.acc.counts (key 0x3040 4) = smGet 0 c.acc.counts (key 0x3040 4) + 1 ∧
  ∀ m, m ≠ key 0xF010 7 → reg d m = reg c m

/-- The chip after an instruction's effect `k` in a tile, and the failure `h` of its lane. -/
def laneFailed (c : Chip) (site l : Nat) (j : Inject) (k h : Tile → Tile) : Chip :=
  spendInj (reportI true (bump (modTile (modTile c site k) site h) (key 0x3040 4) 1) 0x0102 (.tile site) .cycle [l, 0]) j

section
variable (j : Inject) (l : Nat) (k h : Tile → Tile)

theorem spendInj_sameParts (c : Chip) : spendInj c j =
    { c with err := (spendInj c j).err, regs := (spendInj c j).regs } := by
  unfold spendInj
  by_cases hlast : j.left ≤ 1
  · rw [if_pos hlast]
    rfl
  · rw [if_neg hlast]
    rfl

theorem tileAt_laneFailed : tileAt (laneFailed c site l j k h) site = h (k (tileAt c site)) := by
  rw [laneFailed, spendInj_sameParts]
  exact (tileAt_modTile_same ..).trans (congrArg h (tileAt_modTile_same ..))

theorem otherwiseSame_laneFailed : OtherwiseSame c (laneFailed c site l j k h) site := by
  rw [laneFailed, spendInj_sameParts]
  exact ⟨fun _ hy => (tileAt_modTile_ne _ _ hy).trans (tileAt_modTile_ne _ _ hy), rfl, rfl⟩

theorem spent_laneFailed : Spent c (laneFailed c site l j k h) j := by
  obtain ⟨hlast, hmore, -, hregs⟩ := spendInj_cases
    (reportI true (bump (modTile (modTile c site k) site h) (key 0x3040 4) 1) 0x0102 (.tile site) .cycle [l, 0]) j
  refine ⟨hlast, hmore, ?_, hregs⟩
  rw [laneFailed, spendInj_sameParts]
  exact smGet_smMod_same 0 c.acc.counts (key 0x3040 4) (· + 1)

theorem noted_laneFailed (hl : l < 64) : Noted c (laneFailed c site l j k h) site 0x0102 [l, 0] := by
  obtain ⟨-, -, hpend, -⟩ := spendInj_cases
    (reportI true (bump (modTile (modTile c site k) site h) (key 0x3040 4) 1) 0x0102 (.tile site) .cycle [l, 0]) j
  have hnoted := noted_reportI (site := site) (b := bump (modTile (modTile c site k) site h) (key 0x3040 4) 1) true
    (c := c) rfl 0x0102 (detail := [l, 0]) (by simp; omega)
  rwa [Noted, ← hpend] at hnoted

end

/-! ## The engine's own storage (15 R467) -/

/-- A write that meets an uncorrectable error of the dictionary is refused, and the error is gone. -/
theorem dictWrite_struck {s : State} {i sub : Nat} {bytes : List Byte} {since mask : Nat} {y : Ent}
    (hsince : since ≤ nowCount s.chip) (hflaw : s.chip.flaws = [⟨.dictionary, since, true, mask⟩]) (hent : entOf i sub = some y)
    (hcode : writeCode s.fuses s.chip i sub bytes = 0) :
    dictWrite s.fuses i sub bytes s.chip = countRequest { s.chip with flaws := [] } 0x06000001 i sub := by
  have hmet : flawAt s.chip .dictionary = some ⟨.dictionary, since, true, mask⟩ := flawAt_met hflaw hsince
  have hdrop : dropFlaw s.chip .dictionary = { s.chip with flaws := [] } := dropFlaw_met hflaw hsince
  have hstore : ∀ f, storeWrite s.chip f = ({ s.chip with flaws := [] }, 0x06000001) := fun f => by
    simp only [storeWrite, hmet, hdrop, if_true]
  simp only [dictWrite, tryWrite, hcode, hent, hstore, if_true]

/-- A refusal counted (15 R468): the four entries, and nothing else. -/
theorem countRequest_refused (c : Chip) {code : Nat} (hcode : code ≠ 0) (i sub : Nat) :
    countRequest c code i sub = { c with regs := (countRequest c code i sub).regs } ∧
    reg (countRequest c code i sub) (key 0x2002 1) = (reg c (key 0x2002 1) + 1) % 2 ^ 64 ∧
    reg (countRequest c code i sub) (key 0x2002 2) = (reg c (key 0x2002 2) + 1) % 2 ^ 64 ∧
    reg (countRequest c code i sub) (key 0x2002 3) = code ∧ reg (countRequest c code i sub) (key 0x2002 4) = key i sub ∧
    ∀ m, m ∉ [key 0x2002 1, key 0x2002 2, key 0x2002 3, key 0x2002 4] → reg (countRequest c code i sub) m = reg c m := by
  have hset : countRequest c code i sub = setReg (setReg (addReg (addReg c (key 0x2002 1) 1) (key 0x2002 2) 1) (key 0x2002 3) code)
      (key 0x2002 4) (key i sub) := if_neg hcode
  rw [hset]
  refine ⟨rfl, ?_, ?_, ?_, reg_setReg_same .., fun m hm => ?_⟩
  · rw [reg_setReg_ne _ _ (by decide), reg_setReg_ne _ _ (by decide), reg_addReg_ne _ _ (by decide), reg_addReg_same]
    rfl
  · rw [reg_setReg_ne _ _ (by decide), reg_setReg_ne _ _ (by decide), reg_addReg_same, reg_addReg_ne _ _ (by decide)]
    rfl
  · rw [reg_setReg_ne _ _ (by decide), reg_setReg_same]
  · simp only [List.mem_cons, List.not_mem_nil, or_false, not_or] at hm
    obtain ⟨h1, h2, h3, h4⟩ := hm
    rw [reg_setReg_ne _ _ h4, reg_setReg_ne _ _ h3, reg_addReg_ne _ _ h2, reg_addReg_ne _ _ h1]

/-- A request to write that meets the error: refused, counted, and nothing written. -/
theorem entryWrite_struck {s : State} {i : BitVec 16} {sub : BitVec 8} {bytes : List Byte} {since mask : Nat} {y : Ent}
    (hruns : s.chip.power.phase = .running) (hpend : s.chip.err.pend = []) (hsince : since ≤ nowCount s.chip)
    (hflaw : s.chip.flaws = [⟨.dictionary, since, true, mask⟩]) (hent : entOf i.toNat sub.toNat = some y)
    (hcode : writeCode s.fuses s.chip i.toNat sub.toNat bytes = 0) :
    exec (.entryWrite i sub bytes) s = .next { s with
      chip := countRequest { s.chip with flaws := [] } 0x06000001 i.toNat sub.toNat } := by
  have hexec : exec (.entryWrite i sub bytes) s = onRunning s (dictWrite s.fuses i.toNat sub.toNat bytes) := rfl
  obtain ⟨hrest, -⟩ := countRequest_refused { s.chip with flaws := [] } (code := 0x06000001) (by decide) i.toNat sub.toNat
  rw [hexec, onRunning_running _ hruns, dictWrite_struck hsince hflaw hent hcode, flush_none (by rw [hrest]; exact hpend)]

/-! ## The obligation -/

/-- 04 R112, log 37: an IADD reads a lane corrected. -/
theorem tileIssue_corrected {i : Issue} {g : Gov} {vd a b : Fin 64} {l since mask : Nat} (hsince : since ≤ nowCount c)
    (hcalm : c.err.inj = none) (hflaws : c.flaws = [⟨.vreg site a.val l, since, false, mask⟩]) :
    tileIssue (.iadd i g vd a b) c site = modTile (report (addReg { c with flaws := [] } (key 0x4031 7) 1) 0x0203
      (.tile site) .cycle [1, 64 * a.val + l]) site (fun t => writeVec t g vd.val (sumOf a b t)) := by
  have hfound := wordFound_corrected (a := a) (l := l) (since := since) (mask := mask) (site := site) c
  rw [dropFlaw_met hflaws hsince] at hfound
  rw [tileIssue_met hflaws hsince (meets_iadd _) (by rw [hfound]; rfl) (by rw [hfound]; rfl) (by rw [hfound]; exact hcalm), hfound,
    tileExec_iadd]

/-- 04 R113: an IADD reads a lane as stored, its granule poisoned. -/
theorem tileIssue_unc {i : Issue} {g : Gov} {vd a b : Fin 64} {l since mask : Nat} (hsince : since ≤ nowCount c)
    (hcalm : c.err.inj = none) (hflaws : c.flaws = [⟨.vreg site a.val l, since, true, mask⟩]) :
    tileIssue (.iadd i g vd a b) c site = modTile (report (addReg (modTile { c with flaws := [] } site (spoil · a.val l mask))
      (key 0x4031 8) 1) 0x0204 (.tile site) .cycle [1, 64 * a.val + l]) site (fun t => writeVec t g vd.val (sumOf a b t)) := by
  have hfound := wordFound_unc (a := a) (l := l) (since := since) (mask := mask) (site := site) c
  rw [dropFlaw_met hflaws hsince] at hfound
  rw [tileIssue_met hflaws hsince (meets_iadd _) (by rw [hfound]; rfl) (by rw [hfound]; rfl) (by rw [hfound]; exact hcalm), hfound,
    tileExec_iadd]

section
variable {i : Issue} {g : Gov} {vd a b : Fin 64} {cc : Cc} {pd : Fin 8} {l : Nat} {j : Inject}
  (hsound : c.flaws = []) (hinj : c.err.inj = some j) (hkind : j.kind = 2) (harmed : injArmed c j = true)
  (hloc : bits j.loc 7 0 = site) (hlane : bits j.loc 13 8 = l) (halu : bits j.loc 18 16 = 0)
  (hactive : (preg (tileAt c site) g.p.val).val.testBit l = true)
include hsound hinj hkind harmed hloc hlane halu hactive

/-- 14 R444: an injection in a lane of an IADD. -/
theorem tileIssue_iadd_injected : tileIssue (.iadd i g vd a b) c site =
    laneFailed c site l j (fun t => writeVec t g vd.val (sumOf a b t)) (taintLane · vd.val l) := by
  rw [tileIssue_injected (x := .iadd i g vd a b) (j := j) hsound hsound hinj
    (strikes_alu rfl rfl hloc hlane halu hkind hactive) harmed, hlane, halu, laneFails_iadd, tileExec_iadd]
  rfl

/-- 14 R444: an injection in a lane of a VCMP. -/
theorem tileIssue_vcmp_injected : tileIssue (.vcmp i g cc pd a ⟨b, false⟩) c site =
    laneFailed c site l j (fun t => writeCmp t g pd.val (comparisonOf cc a b t)) (taintPreg · pd.val) := by
  rw [tileIssue_injected (x := .vcmp i g cc pd a ⟨b, false⟩) (j := j) hsound hsound hinj
    (strikes_alu rfl rfl hloc hlane halu hkind hactive) harmed, hlane, halu, laneFails_vcmp, tileExec_vcmp]
  rfl

end

theorem storedErrors : StoredErrors := by
  refine ⟨fun i g vd a b cc pd c site l since mask j hsince hl hsite => ⟨fun hcalm hflaws => ?_, fun hcalm hflaws => ?_,
    fun hsound hinj hkind harmed hloc hlane halu hactive => ?_⟩,
    fun s i sub bytes since mask y hruns hpend hsince hflaws hent hcode => ?_⟩
  · have hissue := tileIssue_corrected (i := i) (g := g) (vd := vd) (b := b) hsince hcalm hflaws
    simp only [hissue]
    refine ⟨?_, rfl, ⟨fun y hy => tileAt_modTile_ne _ _ hy, rfl, rfl⟩, ⟨reg_addReg_same .., fun m hm => reg_addReg_ne _ _ hm⟩,
      noted_reportI false rfl 0x0203 (by simp; omega)⟩
    rw [tileAt_modTile_same]
    exact vecResult_writeVec ..
  · have hissue := tileIssue_unc (i := i) (g := g) (vd := vd) (b := b) hsince hcalm hflaws
    simp only [hissue]
    refine ⟨⟨_, spoilt_spoil (tileAt c site) a.val mask hl, ?_⟩, rfl,
      ⟨fun y hy => (tileAt_modTile_ne _ _ hy).trans (tileAt_modTile_ne { c with flaws := [] } (spoil · a.val l mask) hy), rfl, rfl⟩,
      ⟨reg_addReg_same .., fun m hm => reg_addReg_ne _ _ hm⟩, noted_reportI false rfl 0x0204 (by simp; omega)⟩
    rw [tileAt_modTile_same]
    have hspoilt : spoil (tileAt c site) a.val l mask = _ :=
      (tileAt_modTile_same { c with flaws := [] } site (spoil · a.val l mask)).symm
    rw [hspoilt]
    exact vecResult_writeVec ..
  · have hiadd := tileIssue_iadd_injected (i := i) (vd := vd) (a := a) (b := b) hsound hinj hkind harmed hloc hlane halu hactive
    have hvcmp := tileIssue_vcmp_injected (i := i) (cc := cc) (pd := pd) (a := a) (b := b) hsound hinj hkind harmed hloc hlane
      halu hactive
    simp only [hiadd, hvcmp]
    refine ⟨⟨?_, otherwiseSame_laneFailed .., spent_laneFailed .., noted_laneFailed _ _ _ _ hl⟩, ?_, fun hpd => ?_,
      otherwiseSame_laneFailed .., spent_laneFailed .., noted_laneFailed _ _ _ _ hl⟩
    · rw [tileAt_laneFailed]
      exact vecResult_taintLane (vecResult_writeVec ..) hl hactive
    · rw [tileAt_laneFailed, preg_taintPreg_val, tileExec_vcmp, tileAt_modTile_same]
    · rw [tileAt_laneFailed]
      exact preg_taintPreg_taint _ hpd
  · obtain ⟨hrest, hserved, hrefused, hwhy, hwhich, hkeeps⟩ :=
      countRequest_refused { s.chip with flaws := [] } (code := 0x06000001) (by decide) i.toNat sub.toNat
    refine ⟨_, entryWrite_struck hruns hpend hsince hflaws hent hcode, ?_, hserved, hrefused, hwhy, hwhich, hkeeps⟩
    dsimp only
    rw [hrest]

/-- Settles O51: the rules of the granules' reads, of what falls due in memory, and of the stored and injected errors. -/
theorem granulesAndErrors : Obligations.GranulesAndErrors :=
  ⟨granuleReads, memoryEvents, storedErrors⟩

end Sys2Proof.Proofs
end

section
/-! PROOFS. The results of the samplers' jobs, where the sampler region has no place (08 R246 R254). -/

namespace Sys2Proof.Proofs

open Sys2Proof Sys2Proof.Machine Sys2Proof.Claims Sys2Proof.Laws

/-- The greedy target draw of the tests, in a plan whose image names the logits and the sampler region and whose placement is
missing: every line of both regions then stands at address 0. -/
def unplaced : State :=
  let s := Tests.greedy (Tests.greedyJob 0 1) []
  { s with chip := { s.chip with plan := { s.chip.plan with place := none } } }

/-- The logits region. -/
def logits : Region := ⟨0, 0, 0, 0, false, false, 65536, 0⟩

/-- The sampler region of die 0. -/
def sampler : Region := ⟨1, 0, 0, 0, false, false, 131072, 0⟩

theorem regionAddr_unplaced {r : Region} (h : r.tier = 0) (l : Nat) : regionAddr unplaced.chip r l = 0 := by
  rw [regionAddr, if_pos h]
  rfl

theorem plainLine_unplaced {n : Nat} {r : Region} (hregion : regionOf unplaced.chip n = some r) (htier : r.tier = 0) {l : Nat}
    (hl : l < r.size / 64) : PlainLine unplaced.chip n r (l : Nat) where
  region := hregion
  tier := by rw [htier]; decide
  low := Int.natCast_nonneg l
  high := Int.ofNat_lt.mpr hl
  whole := by rw [regionAddr_unplaced htier]
  outside := by rw [regionAddr_unplaced htier]; decide
  clean := rfl

theorem quiet_unplaced : Quiet unplaced := ⟨rfl, rfl, rfl⟩

theorem upToDate_unplaced : UpToDate unplaced.chip := fun _ => by
  change 0 + countCycle Tests.placed.chip ≤ 0
  decide +kernel

/-- Memory holds zeros, so the lowest token is the greedy one. -/
theorem logitAt_unplaced (i : Nat) : logitAt unplaced.chip logits 0 false i = 0 := by
  have haddr : regionAddr unplaced.chip logits (0 + i / 16) = 0 := regionAddr_unplaced rfl _
  have hzero : ∀ k < 16, leNat (memBytes unplaced.chip.mem (0 + 4 * k) 4) = 0 := by decide +kernel
  rw [logitAt, if_neg Bool.false_ne_true, haddr, hzero (i % 16) (Nat.mod_lt _ (by decide))]
  rfl

theorem greedyJob_unplaced : GreedyJob unplaced.chip 0 (Tests.greedyJob 0 1) sampler logits (fun _ => 0) (fun _ => 0) false where
  serves := rfl
  running := rfl
  still := rfl
  begun := Nat.zero_le _
  ok := rfl
  fresh := rfl
  calm := rfl
  greedy := ⟨rfl, Nat.le_refl 1, rfl, rfl⟩
  vocabulary := by decide
  region l hl := plainLine_unplaced rfl rfl hl
  rows i hi k hk := by
    have hk : k < 2 := hk
    obtain rfl : i = 0 := Nat.lt_one_iff.mp hi
    exact ⟨plainLine_unplaced rfl rfl (show 0 + 2 * 0 + k < 1024 by omega), by rw [regionAddr_unplaced rfl]; rfl⟩
  tokens i hi := by
    obtain rfl : i = 0 := Nat.lt_one_iff.mp hi
    exact Tests.greedy_zeros _ fun i _ => logitAt_unplaced i
  drafts i hi := absurd hi (Nat.not_lt_zero i)
  room := by decide

/-- Refutes O52: `GreedyJob` does not ask that the sampler region has a place. In `unplaced` the two lines of the record stand at
the same address, so the second line that the job writes covers the first. -/
theorem not_pagesAndSamplers : ¬ Obligations.PagesAndSamplers := by
  rintro ⟨-, -, hresults⟩
  have hdraw := (hresults unplaced 0 (Tests.greedyJob 0 1) sampler logits (fun _ => 0) (fun _ => 0) false quiet_unplaced
    upToDate_unplaced greedyJob_unplaced).1 (by decide) 0 (by decide) (fun i hi => absurd hi (Nat.not_lt_zero i)) (.inl rfl)
  obtain ⟨t, -, ⟨hfirst, hsecond, -⟩, -⟩ := hdraw
  dsimp only at hfirst hsecond
  rw [regionAddr_unplaced rfl] at hfirst hsecond
  exact absurd (hfirst.symm.trans hsecond) (by decide +kernel)

end Sys2Proof.Proofs
end

section
/-! PROOFS. Sessions, and what the paging of a boundary may touch (08 R234 to R244). -/

namespace Sys2Proof.Proofs

open Sys2Proof Sys2Proof.Machine Sys2Proof.Claims Sys2Proof.Laws

variable {c d e : Chip}

/-! ## Sessions -/

@[simp] theorem sessAt_setSess_same (c : Chip) (s : Nat) (x : Sess) : sessAt (setSess c s x) s = x := smGet_smSet_same ..

theorem sessAt_setSess_ne (c : Chip) (x : Sess) {s k : Nat} (h : k ≠ s) : sessAt (setSess c s x) k = sessAt c k :=
  smGet_smSet_ne _ _ _ h

/-! ## Counters -/

theorem gains_nil (h : d.regs = c.regs) : gains c d [] :=
  ⟨fun _ hx => absurd hx List.not_mem_nil, fun k _ => reg_of_regs h k⟩

theorem gains_trans {l l' : List (Nat × Nat)} (h : gains c d l) (h' : gains d e l')
    (hapart : ∀ k ∈ l.map (·.1), k ∉ l'.map (·.1)) : gains c e (l ++ l') := by
  obtain ⟨hgain, hkeep⟩ := h
  obtain ⟨hgain', hkeep'⟩ := h'
  refine ⟨fun x hx => ?_, fun k hk => ?_⟩
  · by_cases hmem : x.1 ∈ l.map (·.1)
    · have hfirst : x ∈ l := (List.mem_append.mp hx).resolve_right fun hx' => hapart _ hmem (List.mem_map_of_mem hx')
      rw [hkeep' _ (hapart _ hmem), hgain x hfirst]
    · have hsecond : x ∈ l' := (List.mem_append.mp hx).resolve_left fun hx' => hmem (List.mem_map_of_mem hx')
      rw [hgain' x hsecond, hkeep _ hmem]
  · rw [List.map_append, List.mem_append, not_or] at hk
    rw [hkeep' k hk.2, hkeep k hk.1]

theorem gains_addReg {l : List (Nat × Nat)} (h : gains c d l) {k : Nat} (n : Nat) (hk : k ∉ l.map (·.1)) :
    gains c (addReg d k n) (l ++ [(k, n)]) := by
  refine gains_trans h ⟨fun x hx => ?_, fun j hj => reg_addReg_ne _ _ (by simpa using hj)⟩ fun j hj => ?_
  · obtain rfl := List.mem_singleton.mp hx
    exact reg_addReg_same ..
  · rw [List.map_singleton, List.mem_singleton]
    exact fun heq : j = k => hk (heq ▸ hj)

/-! ## What paging touches -/

/-- Only pools, directories, blocks, references and nodes change. -/
def Paged (c d : Chip) : Prop := d = { c with
  pools := d.pools
  srv := { c.srv with dir := d.srv.dir, blocks := d.srv.blocks, refs := d.srv.refs, nodes := d.srv.nodes } }

theorem Paged.refl (c : Chip) : Paged c c := rfl

theorem Paged.trans (h : Paged c d) (g : Paged d e) : Paged c e := by
  rw [Paged] at h g ⊢
  rw [g, h]

theorem paged_foldl {α : Type} {step : Chip → α → Chip} (hstep : ∀ c a, Paged c (step c a)) (l : List α) :
    ∀ c, Paged c (l.foldl step c) := by
  induction l with
  | nil => exact fun c => Paged.refl c
  | cons a l ih => exact fun c => (hstep c a).trans (ih _)

section
variable (h : Paged c d)
include h

theorem Paged.regs : d.regs = c.regs := by rw [h]

theorem Paged.reg (k : Nat) : reg d k = reg c k := by rw [h]; rfl

theorem Paged.sess (s : Nat) : sessAt d s = sessAt c s := by rw [h]; rfl

theorem Paged.prompts : d.srv.prompts = c.srv.prompts := by rw [h]

theorem Paged.region : d.srv.region = c.srv.region := by rw [h]

end

theorem paged_setRefs (c : Chip) (p page n : Nat) : Paged c (setRefs c p page n) := rfl

theorem paged_setDir (c : Chip) (s rank slot b : Nat) : Paged c (setDir c s rank slot b) := rfl

theorem paged_setEntry (c : Chip) (d b i g : Nat) : Paged c (setEntry c d b i g) := rfl

theorem paged_setNode (c : Chip) (d n : Nat) (x : Node) : Paged c (setNode c d n x) := rfl

theorem paged_dropRef (c : Chip) (p page : Nat) : Paged c (dropRef c p page) := by
  unfold dropRef
  dsimp only
  split
  · exact (paged_setRefs c p page 0).trans rfl
  · exact paged_setRefs ..

theorem paged_releasePages (c : Chip) (s first : Nat) : Paged c (releasePages c s first) := by
  refine paged_foldl (fun c p => paged_foldl (fun c slot => ?_) _ c) _ c
  split
  · exact Paged.refl c
  · next b _ =>
    have hdrop : Paged c ((blockAt c (s / 1024) b).foldl (fun c x => if first ≤ 64 * slot + x.1 then
        setEntry (dropRef c p x.2) (s / 1024) b x.1 ones32 else c) c) := by
      refine paged_foldl (fun c x => ?_) _ c
      split
      · exact (paged_dropRef c p x.2).trans (paged_setEntry ..)
      · exact Paged.refl c
    dsimp only
    split
    · exact hdrop.trans (paged_setDir ..)
    · exact hdrop

theorem paged_truncateKv (c : Chip) (s l : Nat) : Paged c (truncateKv c s l) := paged_releasePages ..

theorem paged_leavePath (c : Chip) (s : Nat) : Paged c (leavePath c s) :=
  paged_foldl (fun _ _ => paged_setNode ..) _ c

/-- A session that shares no path brings no node into the tree. -/
theorem insertPages_alone {s step : Nat} (h : (sessAt c s).flags.testBit 0 = false) : ∀ fuel, insertPages s step fuel c = c
  | 0 => rfl
  | fuel + 1 => by
    have hnone : ∀ i, insertPage c s i step = (c, false) := fun i => by
      unfold insertPage
      dsimp only
      split
      · rfl
      · rw [if_pos (.inl (by rw [bit, h]; rfl))]
    rw [insertPages, hnone, if_neg Bool.false_ne_true]

/-! ## The end of a session (08 R255) -/

/-- Of the prompt store's runs that a session holds in prefill, none is left. -/
def promptsAfter (c : Chip) (s : Nat) : List (Nat × Nat) :=
  if (sessAt c s).st = 1 then c.srv.prompts.filter (fun r => r.1 != (sessAt c s).pline) else c.srv.prompts

structure Ended (c d : Chip) (s : Nat) : Prop where
  sess : sessAt d s = Sess.free
  others : ∀ k, k ≠ s → sessAt d k = sessAt c k
  counted : gains c d [(key 0x6050 5, 1)]
  region : d.srv.region = c.srv.region
  prompts : d.srv.prompts = promptsAfter c s

theorem ended_endSession (c : Chip) (s : Nat) : Ended c (endSession c s) s := by
  obtain ⟨b, hb, hpaged⟩ : ∃ b, b = { c with srv := { c.srv with prompts := promptsAfter c s } } ∧
      Paged b (leavePath (truncateKv (if holdsPrompt (sessAt c s) then freePrompt c (sessAt c s) else c) s 0) s) := by
    refine ⟨if holdsPrompt (sessAt c s) then freePrompt c (sessAt c s) else c, ?_,
        (paged_truncateKv _ s 0).trans (paged_leavePath _ s)⟩
    unfold promptsAfter holdsPrompt
    by_cases hst : (sessAt c s).st = 1
    · rw [if_pos hst, if_pos (by rw [hst]; rfl)]
      rfl
    · rw [if_neg hst, if_neg (by simpa using hst)]
  unfold endSession
  dsimp only
  generalize leavePath (truncateKv (if holdsPrompt (sessAt c s) then freePrompt c (sessAt c s) else c) s 0) s = e at hpaged ⊢
  refine ⟨sessAt_setSess_same .., fun k hk => (sessAt_setSess_ne e _ hk).trans ((hpaged.sess k).trans ?_), ?_,
      hpaged.region.trans ?_,
    hpaged.prompts.trans ?_⟩
  · rw [hb]
    rfl
  · have hregs : (setSess e s Sess.free).regs = c.regs := by
      rw [show (setSess e s Sess.free).regs = e.regs from rfl, hpaged.regs, hb]
    exact gains_addReg (gains_nil hregs) 1 List.not_mem_nil
  · rw [hb]
  · rw [hb]

end Sys2Proof.Proofs
end

section
/-! PROOFS. Results and cancellations at a boundary (08 R255 R256 R258 R261 R264). -/

namespace Sys2Proof.Proofs

open Sys2Proof Sys2Proof.Machine Sys2Proof.Claims Sys2Proof.Laws

variable {c : Chip}

/-! ## The tokens kept (08 R255) -/

/-- Token `t` ends a session. -/
def endsAt (stops : List Nat) (t : Nat) : Prop := t ∈ stops ∧ t ≠ 2 ^ 32 - 1

section
variable {stops : List Nat} {most gen t n fin : Nat} {ts : List Nat}

theorem keepTokens_stop (h : endsAt stops t) : keepTokens stops most gen (t :: ts) = ([t], 1) := by
  rw [keepTokens, if_pos ⟨List.contains_iff_mem.mpr h.1, h.2⟩]

theorem keepTokens_most (h : ¬endsAt stops t) (hmost : most ≤ gen + 1) : keepTokens stops most gen (t :: ts) = ([t], 2) := by
  rw [keepTokens, if_neg fun hs => h ⟨List.contains_iff_mem.mp hs.1, hs.2⟩, if_pos hmost]

theorem keepTokens_next (h : ¬endsAt stops t) (hmost : gen + 1 < most) : keepTokens stops most gen (t :: ts) =
    (t :: (keepTokens stops most (gen + 1) ts).1, (keepTokens stops most (gen + 1) ts).2) := by
  rw [keepTokens, if_neg fun hs => h ⟨List.contains_iff_mem.mp hs.1, hs.2⟩, if_neg (Nat.not_le.mpr hmost)]

theorem kept_nil (h : kept stops most gen [] n fin) : n = 0 ∧ fin = 0 := by
  obtain ⟨hn, -, ⟨hfin, -⟩ | ⟨-, hpos, -⟩ | ⟨-, hpos, -⟩⟩ := h
  · exact ⟨Nat.le_zero.mp hn, hfin⟩
  · exact absurd hn (Nat.not_le.mpr hpos)
  · exact absurd hn (Nat.not_le.mpr hpos)

/-- Where the first token is kept, it ends the session, or it is the last that the session may have, or others follow. -/
theorem kept_cons (h : kept stops most gen (t :: ts) n fin) :
    (n = 1 ∧ fin = 1 ∧ endsAt stops t) ∨ (n = 1 ∧ fin = 2 ∧ ¬endsAt stops t ∧ most ≤ gen + 1) ∨
    ∃ m, n = m + 1 ∧ ¬endsAt stops t ∧ gen + 1 < most ∧ kept stops most (gen + 1) ts m fin := by
  obtain ⟨hn, hbefore, hend⟩ := h
  have hnext : ∀ m, n = m + 1 → (0 < m ∨ fin = 0 ∧ ¬endsAt stops t ∧ gen + 1 < most) →
      ¬endsAt stops t ∧ gen + 1 < most ∧ kept stops most (gen + 1) ts m fin := by
    rintro m rfl hfirst
    have hgo : ¬endsAt stops t ∧ gen + 1 < most := by
      rcases hfirst with hm | ⟨-, hgo⟩
      · exact hbefore 0 (by omega)
      · exact hgo
    refine ⟨hgo.1, hgo.2, Nat.le_of_succ_le_succ hn, fun i hi => ?_, ?_⟩
    · obtain ⟨hs, hg⟩ := hbefore (i + 1) (by omega)
      exact ⟨hs, by omega⟩
    · rcases hend with ⟨hfin, hall, hgo⟩ | ⟨hfin, -, hstop⟩ | ⟨hfin, -, hstop, hmost⟩
      · refine .inl ⟨hfin, Nat.succ_injective hall, fun i hi => ?_⟩
        obtain ⟨hs, hg⟩ := hgo (i + 1) (by omega)
        exact ⟨hs, by omega⟩
      · have hm : 0 < m := hfirst.resolve_right fun h => by omega
        refine .inr (.inl ⟨hfin, hm, ?_⟩)
        obtain ⟨m, rfl⟩ := Nat.exists_eq_succ_of_ne_zero hm.ne'
        exact hstop
      · have hm : 0 < m := hfirst.resolve_right fun h => by omega
        refine .inr (.inr ⟨hfin, hm, ?_, by omega⟩)
        obtain ⟨m, rfl⟩ := Nat.exists_eq_succ_of_ne_zero hm.ne'
        exact hstop
  rcases hend with ⟨hfin, hall, hgo⟩ | ⟨hfin, hpos, hstop⟩ | ⟨hfin, hpos, hstop, hmost⟩
  · exact .inr (.inr ⟨ts.length, hall, hnext _ hall (.inr ⟨hfin, hgo 0 (by rw [hall]; exact Nat.succ_pos _)⟩)⟩)
  · by_cases hone : n = 1
    · subst hone
      exact .inl ⟨rfl, hfin, hstop⟩
    · exact .inr (.inr ⟨n - 1, by omega, hnext (n - 1) (by omega) (.inl (by omega))⟩)
  · by_cases hone : n = 1
    · subst hone
      exact .inr (.inl ⟨rfl, hfin, hstop, hmost⟩)
    · exact .inr (.inr ⟨n - 1, by omega, hnext (n - 1) (by omega) (.inl (by omega))⟩)

/-- What `kept` says is what the engine keeps. -/
theorem keepTokens_of_kept {toks : List Nat} (h : kept stops most gen toks n fin) :
    keepTokens stops most gen toks = (toks.take n, fin) := by
  induction toks generalizing gen n with
  | nil =>
    obtain ⟨-, rfl⟩ := kept_nil h
    rw [List.take_nil]
    rfl
  | cons t ts ih =>
    rcases kept_cons h with ⟨rfl, rfl, hstop⟩ | ⟨rfl, rfl, hstop, hmost⟩ | ⟨m, rfl, hstop, hmost, hrest⟩
    · exact keepTokens_stop hstop
    · exact keepTokens_most hstop hmost
    · rw [keepTokens_next hstop hmost, ih hrest]
      rfl

end

/-! ## A result (08 R255 R256 R264) -/

/-- A result is missing, as `ResultsApplied` says it. -/
theorem resultMissing_iff (r : List Byte) (s pos : Nat) : resultMissing r s pos = true ↔
    field r 0 2 ≠ s ∨ field r 4 4 ≠ pos ∨ field r 2 1 ∉ [0, 3, 5, 6, 7] ∨ 9 < field r 3 1 := by
  simp [resultMissing, or_assoc]

section
variable {s step : Nat} {w : Work} {r : List Byte} {bad : Bool}

theorem applyResult_missing (hread : engRead c (svRegion c 4) (128 * s) 128 = (c, r, bad))
    (hmissing : resultMissing r s ((sessAt c s).len + w.c) = true) : applyResult step w s c =
    (report (addReg c (key 0x6050 10) 1) 0x0701 (.die (s / 1024)) .boundary [2, s], []) := by
  unfold applyResult
  rw [hread]
  exact if_pos hmissing

/-- The tokens of a result. -/
def resultToks (r : List Byte) : List Nat := (List.range (field r 3 1)).map (fun i => field r (8 + 4 * i) 4)

/-- A session's flags after a result: the poison flag stays. -/
def resultFlags (x : Sess) (r : List Byte) (bad : Bool) : Nat :=
  if bad || bit (field r 0x42 1) 0 then setBit x.flags 2 else x.flags

/-- A session's length after a result that keeps n tokens. -/
def resultLen (x : Sess) (w : Work) (n : Nat) : Nat := x.len + w.c + n - 1

/-- A session after a result that keeps the tokens `k`. -/
def resultSess (x : Sess) (w : Work) (r : List Byte) (bad : Bool) (k : List Nat) : Sess :=
  { x with
    st := 2, flags := resultFlags x r bad, len := resultLen x w k.length, gen := x.gen + k.length
    cur := match k.getLast? with
      | some t => t % 1048576
      | none => x.cur
    gstate := field r 0x2C 2, gdepth := field r 0x2E 1, gstack := resultStack x r }

/-- The module after a result, before the session that it ends. -/
def resultChip (c : Chip) (w : Work) (s : Nat) (r : List Byte) (bad : Bool) (k : List Nat) : Chip :=
  let x := sessAt c s
  let b := if w.kind = 1 then freePrompt c x else c
  let b := truncateKv (setSess b s (resultSess x w r bad k)) s (resultLen x w k.length)
  let b := addReg b (key 0x6050 6) k.length
  if w.k = 0 then b else addReg (addReg b (key 0x6050 11) w.k) (key 0x6050 12) (field r 3 1 - 1)

/-- The status with which a session ends, 0 where it goes on. -/
def resultStatus (c : Chip) (x : Sess) (r : List Byte) (fin len : Nat) : Nat :=
  if fin ≠ 0 then fin else if field r 2 1 ≠ 0 then field r 2 1
  else if sv c 9 < len + 1 + (if x.flags.testBit 1 then sv c 7 else 0) then 8 else 0

theorem resultFlags_bit {x : Sess} {n : Nat} (hn : n ≠ 2) : (resultFlags x r bad).testBit n = x.flags.testBit n := by
  unfold resultFlags
  split
  · rw [setBit, Nat.testBit_or, Nat.testBit_two_pow_of_ne hn.symm, Bool.or_false]
  · rfl

theorem resultSess_flags (x : Sess) (k : List Nat) : (resultSess x w r bad k).flags = resultFlags x r bad := rfl

/-- The step that a result's pages enter is over where the session shares no path. -/
structure Resulted (c d : Chip) (w : Work) (s : Nat) (r : List Byte) (y : Sess) (n : Nat) : Prop where
  sess : sessAt d s = y
  others : ∀ k, k ≠ s → sessAt d k = sessAt c k
  counted : gains c d ([(key 0x6050 6, n)] ++ (if w.k = 0 then [] else [(key 0x6050 11, w.k), (key 0x6050 12, field r 3 1 - 1)]))
  prompts : d.srv.prompts = if w.kind = 1 then c.srv.prompts.filter (fun p => p.1 != (sessAt c s).pline) else c.srv.prompts

theorem resulted_resultChip (k : List Nat) :
    Resulted c (resultChip c w s r bad k) w s r (resultSess (sessAt c s) w r bad k) k.length := by
  let b := if w.kind = 1 then freePrompt c (sessAt c s) else c
  have hb : b = { c with srv := { c.srv with prompts :=
      if w.kind = 1 then c.srv.prompts.filter (fun p => p.1 != (sessAt c s).pline) else c.srv.prompts } } := by
    simp only [b]
    split
    · rfl
    · rfl
  let y := resultSess (sessAt c s) w r bad k
  have hpaged := paged_truncateKv (setSess b s y) s (resultLen (sessAt c s) w k.length)
  let e := truncateKv (setSess b s y) s (resultLen (sessAt c s) w k.length)
  have hregs : e.regs = c.regs := hpaged.regs.trans (by rw [hb]; rfl)
  have hone : gains c (addReg e (key 0x6050 6) k.length) [(key 0x6050 6, k.length)] :=
    gains_addReg (gains_nil hregs) _ List.not_mem_nil
  have hchip : resultChip c w s r bad k = if w.k = 0 then addReg e (key 0x6050 6) k.length else
      addReg (addReg (addReg e (key 0x6050 6) k.length) (key 0x6050 11) w.k) (key 0x6050 12) (field r 3 1 - 1) := rfl
  have hsrv : (resultChip c w s r bad k).srv = e.srv := by
    rw [hchip]
    split <;> rfl
  have hsess : ∀ j, sessAt (resultChip c w s r bad k) j = sessAt (setSess b s y) j := fun j => by
    rw [sessAt, hsrv]
    exact hpaged.sess j
  refine ⟨(hsess s).trans (sessAt_setSess_same ..), fun j hj => (hsess j).trans ?_, ?_, ?_⟩
  · rw [sessAt_setSess_ne _ _ hj, hb]
    rfl
  · rw [hchip]
    split
    · exact hone
    · have htwo := gains_addReg hone w.k (show key 0x6050 11 ∉ [key 0x6050 6] by decide)
      exact gains_addReg htwo (field r 3 1 - 1) (show key 0x6050 12 ∉ [key 0x6050 6, key 0x6050 11] by decide)
  · rw [hsrv]
    refine hpaged.prompts.trans ?_
    rw [hb]
    rfl

theorem sv_resultChip (k : List Nat) {i : Nat} (hi : key 0x6000 i ∉ [key 0x6050 6, key 0x6050 11, key 0x6050 12]) :
    sv (resultChip c w s r bad k) i = sv c i := by
  refine (resulted_resultChip k).counted.2 _ fun hmem => hi ?_
  split at hmem
  · exact List.mem_of_mem_take (i := 1) (by simpa using hmem)
  · simpa using hmem

theorem applyResult_present (hread : engRead c (svRegion c 4) (128 * s) 128 = (c, r, bad))
    (hpresent : resultMissing r s ((sessAt c s).len + w.c) = false) (hflag : (sessAt c s).flags.testBit 0 = false)
    {toks : List Nat} {fin : Nat}
    (hkeep : keepTokens (sessAt c s).stops (sessAt c s).maxNew (sessAt c s).gen (resultToks r) = (toks, fin)) :
    let x := sessAt c s
    let d := resultChip c w s r bad toks
    let y := resultSess x w r bad toks
    let status := resultStatus c x r fin (resultLen x w toks.length)
    applyResult step w s c = if status ≠ 0 then (endSession d s, [sessOut y s 2 toks (x.len + w.c) status])
      else (d, if toks.isEmpty then [] else [sessOut y s 1 toks (x.len + w.c) 0]) := by
  have hx : (if (bad || bit (field r 0x42 1) 0) = true then { sessAt c s with flags := setBit (sessAt c s).flags 2 }
      else sessAt c s) =
      { sessAt c s with flags := resultFlags (sessAt c s) r bad } := by
    unfold resultFlags
    split <;> rfl
  intro x d y status
  have hstatus : resultStatus d y r fin (resultLen x w toks.length) = status := by
    simp only [status, resultStatus]
    rw [sv_resultChip _ (by decide), sv_resultChip _ (by decide), resultSess_flags, resultFlags_bit (by decide)]
  have halone : ∀ fuel, insertPages s step fuel d = d := insertPages_alone (by
    rw [(resulted_resultChip toks).sess, resultSess_flags, resultFlags_bit (by decide), hflag])
  have hkeep' : keepTokens (sessAt c s).stops (sessAt c s).maxNew (sessAt c s).gen
      ((List.range (field r 3 1)).map (fun i => field r (8 + 4 * i) 4)) = (toks, fin) := hkeep
  unfold applyResult
  rw [hread]
  dsimp only
  rw [hpresent, if_neg Bool.false_ne_true, hx]
  dsimp only
  rw [hkeep']
  change (if resultStatus d y r fin (resultLen x w toks.length) ≠ 0 then
    (endSession (insertPages s step (y.keys.length + 1) d) s,
      [sessOut y s 2 toks (x.len + w.c) (resultStatus d y r fin (resultLen x w toks.length))])
    else (insertPages s step (y.keys.length + 1) d, if toks.isEmpty then [] else [sessOut y s 1 toks (x.len + w.c) 0])) = _
  rw [halone, hstatus]

theorem resultFlags_eq (x : Sess) (r : List Byte) (bad : Bool) : resultFlags x r bad =
    if bad = true ∨ (field r 0x42 1).testBit 0 = true then setBit x.flags 2 else x.flags := by
  simp only [resultFlags, bit, Bool.or_eq_true]

/-- The session as `ResultsApplied` says it. -/
theorem resultSess_of_take (x : Sess) {n : Nat} {toks : List Nat} (hn : n ≤ toks.length) :
    resultSess x w r bad (toks.take n) = { x with
      st := 2, flags := resultFlags x r bad, len := x.len + w.c + n - 1, gen := x.gen + n
      cur := if n = 0 then x.cur else toks.getD (n - 1) 0 % 2 ^ 20
      gstate := field r 0x2C 2, gdepth := field r 0x2E 1
      gstack := (List.range (min (field r 0x2E 1) 64)).map (fun j =>
        if field r 0x2F 1 ≤ j ∧ j < field r 0x2F 1 + 9 then field r (0x30 + 2 * (j - field r 0x2F 1)) 2
        else x.gstack.getD j 0) } := by
  have hlen : (toks.take n).length = n := List.length_take_of_le hn
  have hcur : (match (toks.take n).getLast? with
      | some t => t % 1048576
      | none => x.cur) = if n = 0 then x.cur else toks.getD (n - 1) 0 % 2 ^ 20 := by
    cases n with
    | zero => rfl
    | succ n =>
      have hlast : (toks.take (n + 1)).getLast? = some (toks.getD n 0) := by
        rw [List.getLast?_eq_getElem?, hlen, Nat.add_sub_cancel, List.getElem?_take_of_lt n.lt_succ_self,
          List.getD_eq_getElem?_getD, List.getElem?_eq_getElem (show n < toks.length by omega)]
        rfl
      rw [hlast, if_neg (Nat.succ_ne_zero n)]
      rfl
  rw [resultSess, hcur, resultLen, hlen]
  rfl

end

/-- 08 R255 R256 R264: the results of a boundary. -/
theorem resultsApplied : ResultsApplied := by
  intro c s step w r bad hread hflag
  refine ⟨fun hmissing => ?_, fun hpresent n fin hkept => ?_, fun d hd => ?_⟩
  · rw [applyResult_missing hread ((resultMissing_iff r s _).mpr hmissing)]
    exact ⟨rfl, gains_addReg (gains_nil rfl) 1 List.not_mem_nil, ⟨_, rfl, rfl, rfl, rfl⟩, rfl, rfl⟩
  · have hn : n ≤ (resultToks r).length := hkept.1
    have hlen : ((resultToks r).take n).length = n := List.length_take_of_le hn
    have hkeep : keepTokens _ _ _ (resultToks r) = _ := keepTokens_of_kept hkept
    have hpresent' : resultMissing r s ((sessAt c s).len + w.c) = false := by
      rw [← Bool.not_eq_true, resultMissing_iff]
      exact hpresent
    have happly := applyResult_present (step := step) hread hpresent' hflag hkeep
    have hchip := resulted_resultChip (c := c) (w := w) (s := s) (r := r) (bad := bad) ((resultToks r).take n)
    intro l flags low y status out
    have hy : resultSess (sessAt c s) w r bad ((resultToks r).take n) = y := by
      rw [resultSess_of_take _ hn, resultFlags_eq]
      rfl
    have hstatus : resultStatus c (sessAt c s) r fin (resultLen (sessAt c s) w ((resultToks r).take n).length) = status := by
      rw [hlen]
      rfl
    dsimp only at happly
    rw [hstatus, hy] at happly
    rw [hy, hlen] at hchip
    have hprompts : (if w.kind = 1 then c.srv.prompts.filter (fun p => p.1 != (sessAt c s).pline) else c.srv.prompts) =
        if w.kind = 1 then c.srv.prompts.filter (fun p => p.1 ≠ (sessAt c s).pline) else c.srv.prompts := by
      simp only [ne_eq, bne, decide_not, beq_eq_decide]
    rw [happly]
    by_cases hgo : status = 0
    · have hempty : ((resultToks r).take n).isEmpty = true ↔ n = 0 := by
        rw [List.isEmpty_iff, ← List.length_eq_zero_iff, hlen]
      rw [if_neg (not_not.mpr hgo), if_pos hgo, List.append_nil]
      refine ⟨fun _ => ⟨hchip.sess, ?_⟩, fun h => absurd hgo h, hchip.others, hchip.counted, hchip.prompts.trans hprompts⟩
      simp only [hempty]
      rfl
    · have hend := ended_endSession (resultChip c w s r bad ((resultToks r).take n)) s
      rw [if_pos hgo, if_neg hgo]
      refine ⟨fun h => absurd h hgo, fun _ => ⟨hend.sess, rfl⟩, fun k hk => (hend.others k hk).trans (hchip.others k hk), ?_, ?_⟩
      · refine gains_trans hchip.counted hend.counted ?_
        split <;> simp <;> decide
      · refine (hend.prompts.trans ?_).trans (hchip.prompts.trans hprompts)
        rw [promptsAfter, hchip.sess]
        rfl
  · have hpaged := paged_truncateKv (setSess c s { sessAt c s with len := (sessAt c s).len + w.c }) s ((sessAt c s).len + w.c)
    have halone : d = truncateKv (setSess c s { sessAt c s with len := (sessAt c s).len + w.c }) s ((sessAt c s).len + w.c) :=
      hd.trans (insertPages_alone (by rw [hpaged.sess, sessAt_setSess_same]; exact hflag) _)
    rw [← halone] at hpaged
    exact ⟨(hpaged.sess s).trans (sessAt_setSess_same ..), fun k hk => (hpaged.sess k).trans (sessAt_setSess_ne c _ hk),
      hpaged.regs, hpaged.prompts⟩

/-! ## Cancellations (08 R258 R261) -/

/-- A record of the admission region asks for the session and tag, and has not been removed. -/
def asksFor (s tag : Nat) (y : Nat × Nat × Nat × List Byte × Bool) : Bool :=
  !y.2.2.2.2 && field y.2.2.2.1 1 1 == 1 && field y.2.2.2.1 0x10 2 == s && field y.2.2.2.1 8 8 == tag

theorem asksFor_iff {s tag : Nat} {y : Nat × Nat × Nat × List Byte × Bool} : asksFor s tag y = true ↔
    y.2.2.2.2 = false ∧ field y.2.2.2.1 1 1 = 1 ∧ field y.2.2.2.1 0x10 2 = s ∧ field y.2.2.2.1 8 8 = tag := by
  simp [asksFor, and_assoc]

/-- A cancellation names a session in use. -/
def cancelHits (c : Chip) (s tag : Nat) : Bool := decide (s < 4096) && (sessAt c s).st != 0 && (sessAt c s).tag == tag

theorem cancelHits_iff {s tag : Nat} :
    cancelHits c s tag = true ↔ s < 4096 ∧ (sessAt c s).st ≠ 0 ∧ (sessAt c s).tag = tag := by
  simp [cancelHits, and_assoc]

/-- The records once the session is cancelled: its tokens of the step go into the ending record. -/
def cancelRecords (c : Chip) (l : List OutRec) (s : Nat) : List OutRec :=
  l.filter (fun r => !(r.s == s && r.kind == 1)) ++ [match l.find? (fun r => r.s == s && r.kind == 1) with
    | some r => sessOut (sessAt c s) s 2 r.toks r.pos 4
    | none => sessOut (sessAt c s) s 2 [] (sessAt c s).len 4]

/-- A request of the region is removed, with its record. -/
def cancelRequest (s tag : Nat) (y : Chip × List OutRec) (q : Nat × Nat × Nat × List Byte × Bool) : Chip × List OutRec :=
  (addReg (removeReq y.1 q.1 q.2.1) (key 0x6050 4) 1, y.2 ++ [⟨q.2.2.1, tag, s, 3, [], 0, 0x0209, false⟩])

section
variable {l : List OutRec} {origin s tag : Nat}

theorem cancelOne_hit (h : cancelHits c s tag = true) : cancelOne (c, l) origin s tag =
    ((regionRecs (endSession c s)).filter (asksFor s tag)).foldl (cancelRequest s tag) (endSession c s, cancelRecords c l s) := by
  unfold cancelHits at h
  unfold cancelOne
  dsimp only
  rw [h, if_pos rfl, if_pos rfl, Bool.true_or, if_pos rfl]
  rfl

theorem cancelOne_miss (h : cancelHits c s tag = false) : cancelOne (c, l) origin s tag =
    if ((regionRecs c).filter (asksFor s tag)).isEmpty then
      (addReg c (key 0x6050 4) 1, l ++ [⟨origin, tag, s, 3, [], 0, 0x0208, false⟩])
    else ((regionRecs c).filter (asksFor s tag)).foldl (cancelRequest s tag) (c, l) := by
  unfold cancelHits at h
  unfold cancelOne
  dsimp only
  rw [h, if_neg Bool.false_ne_true, if_neg Bool.false_ne_true, Bool.false_or]
  change (if (!((regionRecs c).filter (asksFor s tag)).isEmpty) = true then
      ((regionRecs c).filter (asksFor s tag)).foldl (cancelRequest s tag) (c, l)
    else (addReg (((regionRecs c).filter (asksFor s tag)).foldl (cancelRequest s tag) (c, l)).1 (key 0x6050 4) 1,
      (((regionRecs c).filter (asksFor s tag)).foldl (cancelRequest s tag) (c, l)).2 ++ [_])) = _
  cases hqs : (regionRecs c).filter (asksFor s tag) with
  | nil => rfl
  | cons q qs => rfl

theorem filter_asksFor_none {ys : List (Nat × Nat × Nat × List Byte × Bool)} (h : ∀ y ∈ ys, ¬asksFor s tag y = true) :
    ys.filter (asksFor s tag) = [] := List.filter_eq_nil_iff.mpr h

theorem regionRecs_endSession : regionRecs (endSession c s) = regionRecs c := by
  unfold regionRecs
  rw [(ended_endSession c s).region]

end

/-- 08 R258 R261: the cancellations of a boundary. -/
theorem cancellations : Cancellations := by
  intro c l origin s tag
  dsimp only
  simp only [← asksFor_iff, ← cancelHits_iff]
  refine ⟨fun hnone => ⟨fun hhit => ?_, fun hmiss => ?_⟩, fun before i k o r after hrecs hothers hasks hmiss => ?_⟩
  · have hend := ended_endSession c s
    rw [cancelOne_hit hhit, regionRecs_endSession, filter_asksFor_none hnone]
    exact ⟨hend.sess, hend.others, hend.counted, hend.region, rfl⟩
  · rw [cancelOne_miss (Bool.eq_false_iff.mpr hmiss), filter_asksFor_none hnone]
    exact ⟨rfl, gains_addReg (gains_nil rfl) 1 List.not_mem_nil, rfl⟩
  · have hone : (regionRecs c).filter (asksFor s tag) = [(i, k, o, r, false)] := by
      rw [hrecs, List.filter_append, List.filter_cons_of_pos (asksFor_iff.mpr ⟨rfl, hasks.2⟩),
        filter_asksFor_none fun y hy => hothers y (List.mem_append_left _ hy),
        filter_asksFor_none fun y hy => hothers y (List.mem_append_right _ hy)]
      rfl
    rw [cancelOne_miss (Bool.eq_false_iff.mpr hmiss), hone]
    exact ⟨rfl, gains_addReg (gains_nil rfl) 1 List.not_mem_nil, rfl⟩

end Sys2Proof.Proofs
end

section
/-! PROOFS. Switches of weight copies at a boundary (09 R279 R285 to R290). -/

namespace Sys2Proof.Proofs

open Sys2Proof Sys2Proof.Machine Sys2Proof.Claims Sys2Proof.Laws

variable {c : Chip} {e : Nat}

/-! ## Directory entries -/

@[simp] theorem wentry_setWentry_same (c : Chip) (e : Nat) (x : WEntry) : wentry (setWentry c e x) e = x := smGet_smSet_same ..

theorem wentry_setWentry_ne (c : Chip) (x : WEntry) {e k : Nat} (h : k ≠ e) : wentry (setWentry c e x) k = wentry c k :=
  smGet_smSet_ne _ _ _ h

theorem wentry_modCopies_same (c : Chip) (e : Nat) (f : WCopy → WCopy) :
    wentry (modCopies c e f) e = mapCopies (wentry c e) f := wentry_setWentry_same ..

theorem wentry_modCopies_ne (c : Chip) (f : WCopy → WCopy) {e k : Nat} (h : k ≠ e) : wentry (modCopies c e f) k = wentry c k :=
  wentry_setWentry_ne c _ h

theorem copyIn_none {x : WEntry} {st : CopySt} (ha : x.a.st ≠ st) (hb : x.b.st ≠ st) : copyIn x st = none := by
  rw [copyIn, if_neg ha, if_neg hb]

/-! ## The Ready copy becomes Live (09 R286) -/

/-- A Ready copy is Live. -/
def readyLive (k : WCopy) : WCopy := if k.st = .ready then { k with st := .live } else k

/-- The Ready copy of an entry becomes Live, and the entry is counted and freed of its step. -/
def madeLive (c : Chip) (e : Nat) : Chip :=
  let b := modCopies c e readyLive
  setReg (addReg (setWentry b e { wentry b e with uses := 0 }) (key 0x7040 3) 1) (key 0x7020 (e + 1)) ones64

theorem key_switch {e : Nat} (he : e < 66) : key 0x7040 3 ≠ key 0x7020 (e + 1) := by
  simp only [key]
  omega

/-- What a switch leaves, of the module as it stands once the former Live copy has made way. -/
structure Switched (b d : Chip) (e : Nat) : Prop where
  counted : reg d (key 0x7040 3) = (reg b (key 0x7040 3) + 1) % 2 ^ 64
  returned : reg d (key 0x7020 (e + 1)) = 2 ^ 64 - 1
  otherRegs : ∀ k, k ≠ key 0x7040 3 → k ≠ key 0x7020 (e + 1) → reg d k = reg b k
  entry : wentry d e = { wentry b e with a := readyLive (wentry b e).a, b := readyLive (wentry b e).b, uses := 0 }
  others : ∀ k, k ≠ e → wentry d k = wentry b k
  srv : d.srv = b.srv
  freed : d.wts.freed = b.wts.freed

/-- The entry and its uses, before the counting. -/
def liveEntry (c : Chip) (e : Nat) : Chip :=
  let b := modCopies c e readyLive
  setWentry b e { wentry b e with uses := 0 }

theorem madeLive_eq (c : Chip) (e : Nat) : madeLive c e =
    setReg (addReg (liveEntry c e) (key 0x7040 3) 1) (key 0x7020 (e + 1)) ones64 := rfl

theorem reg_liveEntry (b : Chip) (k : Nat) : reg (liveEntry b e) k = reg b k := rfl

theorem wentry_madeLive (b : Chip) (k : Nat) : wentry (madeLive b e) k = wentry (liveEntry b e) k := rfl

theorem wentry_madeLive_same (b : Chip) : wentry (madeLive b e) e =
    { wentry b e with a := readyLive (wentry b e).a, b := readyLive (wentry b e).b, uses := 0 } := by
  rw [wentry_madeLive, liveEntry, wentry_setWentry_same, wentry_modCopies_same]
  rfl

theorem wentry_madeLive_ne (b : Chip) {k : Nat} (hk : k ≠ e) : wentry (madeLive b e) k = wentry b k := by
  rw [wentry_madeLive, liveEntry, wentry_setWentry_ne _ _ hk, wentry_modCopies_ne b _ hk]

theorem madeLive_counted (b : Chip) (he : e < 66) : reg (madeLive b e) (key 0x7040 3) = (reg b (key 0x7040 3) + 1) % 2 ^ 64 := by
  rw [madeLive_eq, reg_setReg_ne _ _ (key_switch he), reg_addReg_same, reg_liveEntry]
  rfl

theorem madeLive_returned (b : Chip) : reg (madeLive b e) (key 0x7020 (e + 1)) = 2 ^ 64 - 1 := by
  rw [madeLive_eq, reg_setReg_same]
  rfl

theorem madeLive_otherRegs (b : Chip) {k : Nat} (hk : k ≠ key 0x7040 3) (hk' : k ≠ key 0x7020 (e + 1)) :
    reg (madeLive b e) k = reg b k := by
  rw [madeLive_eq, reg_setReg_ne _ _ hk', reg_addReg_ne _ _ hk, reg_liveEntry]

theorem setWentry_srv (c : Chip) (e : Nat) (x : WEntry) : (setWentry c e x).srv = c.srv := rfl

theorem setWentry_freed (c : Chip) (e : Nat) (x : WEntry) : (setWentry c e x).wts.freed = c.wts.freed := rfl

theorem liveEntry_srv (b : Chip) : (liveEntry b e).srv = b.srv := by
  rw [liveEntry, setWentry_srv, modCopies, setWentry_srv]

theorem liveEntry_freed (b : Chip) : (liveEntry b e).wts.freed = b.wts.freed := by
  rw [liveEntry, setWentry_freed, modCopies, setWentry_freed]

theorem madeLive_srv (b : Chip) : (madeLive b e).srv = b.srv := by
  rw [madeLive_eq, setReg_srv, addReg_srv, liveEntry_srv]

theorem madeLive_freed (b : Chip) : (madeLive b e).wts.freed = b.wts.freed := by
  rw [madeLive_eq, setReg_wts, addReg_wts, liveEntry_freed]

theorem switched_madeLive (b : Chip) (he : e < 66) : Switched b (madeLive b e) e where
  counted := madeLive_counted b he
  returned := madeLive_returned b
  otherRegs _ hk hk' := madeLive_otherRegs b hk hk'
  entry := wentry_madeLive_same b
  others _ hk := wentry_madeLive_ne b hk
  srv := madeLive_srv b
  freed := madeLive_freed b

section
variable {step : Option Nat} {r l : WCopy}

theorem applySwitch_none (h : copyIn (wentry c e) .ready = none) : applySwitch c e step = (c, false) := by
  unfold applySwitch
  dsimp only
  rw [h]

theorem applySwitch_first (hr : copyIn (wentry c e) .ready = some r) (hl : copyIn (wentry c e) .live = none) :
    applySwitch c e step = (madeLive c e, true) := by
  unfold applySwitch
  dsimp only
  rw [hr]
  dsimp only
  rw [hl]
  rfl

/-- The former Live copy drains. -/
def liveDrains (k : WCopy) : WCopy := if k.st = .live then { k with st := .draining } else k

/-- The former Live copy is freed. -/
def liveFreed (k : WCopy) : WCopy := if k.st = .live then WCopy.none else k

theorem applySwitch_drains (hr : copyIn (wentry c e) .ready = some r) (hl : copyIn (wentry c e) .live = some l)
    (hpolicy : genPolicy c e ≠ 1) : applySwitch c e step = (madeLive (modCopies c e liveDrains) e, true) := by
  unfold applySwitch
  dsimp only
  rw [hr]
  dsimp only
  rw [hl]
  dsimp only
  rw [if_neg hpolicy]
  rfl

theorem applySwitch_rebinds (hr : copyIn (wentry c e) .ready = some r) (hl : copyIn (wentry c e) .live = some l)
    (hpolicy : genPolicy c e = 1) : applySwitch c e step =
    (madeLive (modCopies (noteFreed (rebind c e l.gen r.gen) l step) e liveFreed) e, true) := by
  unfold applySwitch
  dsimp only
  rw [hr]
  dsimp only
  rw [hl]
  dsimp only
  rw [if_pos hpolicy]
  rfl

end

/-- What becomes of the copies: the Ready one Live, the Live one as the policy says. -/
theorem readyLive_old {old : WCopy → WCopy} (hold : ∀ k, k.st = .live → (old k).st ≠ .ready) (k : WCopy) :
    readyLive (if k.st = .live then old k else k) = if k.st = .ready then { k with st := .live } else
      if k.st = .live then old k else k := by
  by_cases hready : k.st = .ready
  · rw [if_pos hready, if_neg (by rw [hready]; decide), readyLive, if_pos hready]
  · rw [if_neg hready]
    by_cases hlive : k.st = .live
    · rw [if_pos hlive, readyLive, if_neg (hold k hlive)]
    · rw [if_neg hlive, readyLive, if_neg hready]

/-! ## Sessions take the new generation (09 R289) -/

/-- A session bound to the copy of a generation. -/
def rebound (e old new : Nat) (x : Sess) : Sess :=
  { x with gens := x.gens - old * 2 ^ genShift e + new * 2 ^ genShift e }

/-- One session of the list is rebound where it binds the old generation. -/
def rebindOne (e old new : Nat) (c : Chip) (y : Nat × Sess) : Chip :=
  if bindsGen e old y.2 then setSess c y.1 (rebound e old new y.2) else c

theorem rebind_eq (c : Chip) (e old new : Nat) : rebind c e old new = (liveSessions c).foldl (rebindOne e old new) c := rfl

theorem rebindOne_rest (e old new : Nat) (c : Chip) (y : Nat × Sess) :
    rebindOne e old new c y = { c with srv := { c.srv with sess := (rebindOne e old new c y).srv.sess } } := by
  unfold rebindOne
  split <;> rfl

section
variable {old new n : Nat} {l : List (Nat × Sess)}

theorem foldl_rebindOne_rest (l : List (Nat × Sess)) : ∀ c, l.foldl (rebindOne e old new) c =
    { c with srv := { c.srv with sess := (l.foldl (rebindOne e old new) c).srv.sess } } := by
  induction l with
  | nil => exact fun c => rfl
  | cons y l ih =>
    intro c
    rw [List.foldl_cons, ih, rebindOne_rest]

theorem sessAt_rebindOne_ne {y : Nat × Sess} (h : n ≠ y.1) : sessAt (rebindOne e old new c y) n = sessAt c n := by
  unfold rebindOne
  split
  · exact sessAt_setSess_ne c _ h
  · rfl

theorem sessAt_foldl_rebindOne_ne (h : n ∉ l.map (·.1)) : ∀ c, sessAt (l.foldl (rebindOne e old new) c) n = sessAt c n := by
  induction l with
  | nil => exact fun c => rfl
  | cons y l ih =>
    intro c
    rw [List.map_cons, List.mem_cons, not_or] at h
    rw [List.foldl_cons, ih h.2, sessAt_rebindOne_ne h.1]

theorem sessAt_foldl_rebindOne {x : Sess} (hnodup : (l.map (·.1)).Nodup) (hx : (n, x) ∈ l) : ∀ c,
    sessAt (l.foldl (rebindOne e old new) c) n = if bindsGen e old x = true then rebound e old new x else sessAt c n := by
  induction l with
  | nil => exact absurd hx List.not_mem_nil
  | cons y l ih =>
    intro c
    rw [List.map_cons, List.nodup_cons] at hnodup
    rw [List.foldl_cons]
    rcases List.mem_cons.mp hx with rfl | hx
    · rw [sessAt_foldl_rebindOne_ne hnodup.1, rebindOne]
      split
      · exact sessAt_setSess_same ..
      · rfl
    · have hne : n ≠ y.1 := by
        rintro rfl
        exact hnodup.1 (List.mem_map.mpr ⟨_, hx, rfl⟩)
      rw [ih hnodup.2 hx, sessAt_rebindOne_ne hne]

end

/-! ## The sessions in use -/

/-- In a list of distinct keys each is read as what it holds. -/
theorem smGet_of_mem {α : Type} (d : α) {m : SMap α} (hm : (m.map (·.1)).Nodup) {k : Nat} {x : α} (hx : (k, x) ∈ m) :
    smGet d m k = x := by
  induction m with
  | nil => exact absurd hx List.not_mem_nil
  | cons y m ih =>
    rw [List.map_cons, List.nodup_cons] at hm
    rcases List.mem_cons.mp hx with rfl | hx
    · exact if_pos rfl
    · have hne : y.1 ≠ k := fun heq => hm.1 (List.mem_map.mpr ⟨_, hx, heq.symm⟩)
      exact (if_neg hne).trans (ih hm.2 hx)

/-- What is not the default is held. -/
theorem mem_of_smGet {α : Type} (d : α) {m : SMap α} {k : Nat} (h : smGet d m k ≠ d) : (k, smGet d m k) ∈ m := by
  induction m with
  | nil => exact absurd rfl h
  | cons y m ih =>
    obtain ⟨j, v⟩ := y
    unfold smGet at h ⊢
    split at h
    · next heq =>
      rw [if_pos heq, heq]
      exact List.mem_cons_self
    · next hne =>
      rw [if_neg hne]
      exact List.mem_cons_of_mem _ (ih h)

theorem mem_liveSessions (hnodup : (c.srv.sess.map (·.1)).Nodup) {n : Nat} {x : Sess} :
    (n, x) ∈ liveSessions c ↔ x = sessAt c n ∧ (sessAt c n).st ≠ 0 := by
  rw [liveSessions, List.mem_filter, bne_iff_ne]
  constructor
  · rintro ⟨hmem, hst⟩
    obtain rfl : sessAt c n = x := smGet_of_mem _ hnodup hmem
    exact ⟨rfl, hst⟩
  · rintro ⟨rfl, hst⟩
    exact ⟨mem_of_smGet _ fun hfree => hst (congrArg Sess.st hfree), hst⟩

theorem sessAt_rebind (hnodup : (c.srv.sess.map (·.1)).Nodup) (e old new n : Nat) : sessAt (rebind c e old new) n =
    if (sessAt c n).st ≠ 0 ∧ bindsGen e old (sessAt c n) = true then rebound e old new (sessAt c n) else sessAt c n := by
  have hlive : ((liveSessions c).map (·.1)).Nodup := hnodup.sublist (List.filter_sublist.map _)
  rw [rebind_eq]
  by_cases hst : (sessAt c n).st ≠ 0
  · rw [sessAt_foldl_rebindOne hlive ((mem_liveSessions hnodup).mpr ⟨rfl, hst⟩)]
    simp only [hst, ne_eq, not_false_eq_true, true_and]
  · rw [if_neg fun h => hst h.1]
    refine sessAt_foldl_rebindOne_ne (fun hmem => ?_) c
    obtain ⟨y, hy, rfl⟩ := List.mem_map.mp hmem
    exact hst ((mem_liveSessions hnodup).mp hy).2

/-! ## Draining copies (09 R279) -/

section
variable {step : Option Nat} {l : WCopy}

theorem freeDrained_one : freeDrained c [e] step = match copyIn (wentry c e) .draining with
    | some d => if boundTo c e d.gen = 0 then freeCopies c e .draining step else c
    | none => c := rfl

theorem wentry_noteFreed (c : Chip) (k : WCopy) (step : Option Nat) (n : Nat) : wentry (noteFreed c k step) n = wentry c n := by
  cases step <;> rfl

/-- The copies of a list that are in a state leave their space free. -/
def noteCopies (st : CopySt) (step : Option Nat) (l : List WCopy) (c : Chip) : Chip :=
  l.foldl (fun c k => if k.st = st then noteFreed c k step else c) c

theorem wentry_noteCopies (st : CopySt) (step : Option Nat) (l : List WCopy) (n : Nat) : ∀ c,
    wentry (noteCopies st step l c) n = wentry c n := by
  induction l with
  | nil => exact fun c => rfl
  | cons k l ih =>
    intro c
    refine (ih (if k.st = st then noteFreed c k step else c)).trans ?_
    split
    · exact wentry_noteFreed c k step n
    · rfl

theorem freeCopies_eq (c : Chip) (e : Nat) (st : CopySt) (step : Option Nat) : freeCopies c e st step =
    modCopies (noteCopies st step [(wentry c e).a, (wentry c e).b] c) e (fun k => if k.st = st then WCopy.none else k) := rfl

theorem wentry_freeCopies_same (c : Chip) (e : Nat) (st : CopySt) (step : Option Nat) : wentry (freeCopies c e st step) e =
    mapCopies (wentry c e) (fun k => if k.st = st then WCopy.none else k) := by
  rw [freeCopies_eq, wentry_modCopies_same, wentry_noteCopies]

theorem wentry_freeCopies_ne (c : Chip) {e k : Nat} (st : CopySt) (step : Option Nat) (h : k ≠ e) :
    wentry (freeCopies c e st step) k = wentry c k := by
  rw [freeCopies_eq, wentry_modCopies_ne _ _ h, wentry_noteCopies]

theorem freeDrained_nothing {es : List Nat} (h : ∀ k ∈ es, copyIn (wentry c k) .draining = none) :
    freeDrained c es step = c := by
  induction es with
  | nil => rfl
  | cons k es ih =>
    have hfirst : freeDrained c (k :: es) step = freeDrained (match copyIn (wentry c k) .draining with
        | some d => if boundTo c k d.gen = 0 then freeCopies c k .draining step else c
        | none => c) es step := rfl
    rw [hfirst, h k List.mem_cons_self]
    exact ih fun j hj => h j (List.mem_cons_of_mem _ hj)

end

theorem action4_nothing {step : Nat} (hkept : c.wts.kept = []) (hbuild : c.wts.build = none)
    (hdraining : ∀ k < 66, copyIn (wentry c k) .draining = none) : action4 step c = (c, []) := by
  have hdrained : freeDrained c (List.range 66) (some step) = c :=
    freeDrained_nothing fun k hk => hdraining k (List.mem_range.mp hk)
  unfold action4
  dsimp only
  generalize hfold : List.foldl _ _ c.wts.kept = x
  obtain rfl : x = (c, []) := by
    rw [← hfold, hkept, List.foldl_nil]
    exact congrArg (fun l => ({ c with wts := { c.wts with kept := l } }, [])) hkept.symm
  dsimp only
  rw [hdrained, hbuild]
  rfl

/-- The counters and the other entries after a switch, of a module whose entries stood as before. -/
theorem switch_counted {b : Chip} (he : e < 66) (hregs : b.regs = c.regs) (hothers : ∀ k, k ≠ e → wentry b k = wentry c k) :
    reg (madeLive b e) (key 0x7040 3) = (reg c (key 0x7040 3) + 1) % 2 ^ 64 ∧
      reg (madeLive b e) (key 0x7020 (e + 1)) = 2 ^ 64 - 1 ∧
      (∀ k, k ≠ key 0x7040 3 → k ≠ key 0x7020 (e + 1) → reg (madeLive b e) k = reg c k) ∧
      (∀ k, k ≠ e → wentry (madeLive b e) k = wentry c k) := by
  have h := switched_madeLive b he
  have hreg := reg_of_regs hregs
  exact ⟨h.counted.trans (by rw [hreg]), h.returned, fun k hk hk' => (h.otherRegs k hk hk').trans (hreg k),
    fun k hk => (h.others k hk).trans (hothers k hk)⟩

/-- The copies after a switch whose former Live copy has made way. -/
theorem switch_copies {b : Chip} (he : e < 66) {old : WCopy → WCopy} (hold : ∀ k, k.st = .live → (old k).st ≠ .ready)
    (hentry : wentry b e = mapCopies (wentry c e) (fun k => if k.st = .live then old k else k)) :
    let f := fun (k : WCopy) => if k.st = .ready then { k with st := .live } else if k.st = .live then old k else k
    wentry (madeLive b e) e = { wentry c e with a := f (wentry c e).a, b := f (wentry c e).b, uses := 0 } := by
  rw [(switched_madeLive b he).entry, hentry]
  simp only [mapCopies, readyLive_old hold]

/-- 09 R279 R285 to R290: the switches of a boundary. -/
theorem switchesApplied : SwitchesApplied := by
  intro c e step r l he
  dsimp only
  refine ⟨fun ha hb => applySwitch_none (copyIn_none ha hb), fun hr hl => ?_, fun hr hl hpolicy => ?_,
      fun hr hl hpolicy hnodup => ?_,
    fun hdraining => ⟨fun hbound => ?_, fun hfree => ?_⟩, action4_nothing⟩
  · rw [applySwitch_first hr hl]
    obtain ⟨hcount, hback, hregs, hothers⟩ := switch_counted (c := c) (b := c) he rfl fun _ _ => rfl
    have h := switched_madeLive c he
    refine ⟨⟨hcount, hback, hregs, hothers, rfl⟩, switch_copies he (fun k hk => ?_) ?_, h.srv, h.freed⟩
    · rw [id, hk]
      decide
    · simp only [id, ite_self, mapCopies]
  · rw [applySwitch_drains hr hl hpolicy]
    obtain ⟨hcount, hback, hregs, hothers⟩ := switch_counted (c := c) (b := modCopies c e liveDrains) he rfl
      fun k hk => wentry_modCopies_ne c _ hk
    have h := switched_madeLive (modCopies c e liveDrains) he
    exact ⟨⟨hcount, hback, hregs, hothers, rfl⟩, switch_copies he (fun _ _ => by simp) (wentry_modCopies_same ..), h.srv, h.freed⟩
  · rw [applySwitch_rebinds hr hl hpolicy]
    have hrebind := foldl_rebindOne_rest (e := e) (old := l.gen) (new := r.gen) (liveSessions c) c
    have hsess := sessAt_rebind hnodup e l.gen r.gen
    rw [← rebind_eq] at hrebind
    generalize rebind c e l.gen r.gen = b at hrebind hsess
    have hregs : (modCopies (noteFreed b l (some step)) e liveFreed).regs = c.regs := by
      rw [hrebind]
      rfl
    have hwentry : ∀ k, wentry (noteFreed b l (some step)) k = wentry c k := fun k => by
      rw [wentry_noteFreed, hrebind]
      rfl
    obtain ⟨hcount, hback, hothers, hentries⟩ :=
      switch_counted (c := c) (b := modCopies (noteFreed b l (some step)) e liveFreed) he
      hregs fun k hk => (wentry_modCopies_ne _ _ hk).trans (hwentry k)
    have h := switched_madeLive (modCopies (noteFreed b l (some step)) e liveFreed) he
    refine ⟨⟨hcount, hback, hothers, hentries, rfl⟩, switch_copies he (old := fun _ => WCopy.none) (fun _ _ => by decide) ?_,
      h.freed.trans ?_, fun n => ?_⟩
    · rw [wentry_modCopies_same, hwentry]
      rfl
    · rw [hrebind]
      rfl
    · exact (congrArg (fun v : Serving => smGet Sess.free v.sess n) h.srv).trans (hsess n)
  · rw [freeDrained_one, hdraining]
    exact if_neg hbound
  · rw [freeDrained_one, hdraining]
    dsimp only
    rw [if_pos hfree]
    refine ⟨fun k hk => wentry_freeCopies_ne c _ _ hk, ?_, ?_⟩
    · rw [wentry_freeCopies_same]
      rfl
    · rw [wentry_freeCopies_same]
      rfl

end Sys2Proof.Proofs
end

section
/-! PROOFS. Pages, blocks and directories: one rule for each operation (08 R234 R237 R238, 07 R213). -/

namespace Sys2Proof.Proofs

open Sys2Proof Sys2Proof.Machine Sys2Proof.Claims Sys2Proof.Laws

variable {c e : Chip} {d s p rn : Nat}

/-! ## Pools and their references -/

theorem poolRank_inj {q : Nat} (hp : p ∈ diePools c d) (h : poolRank c d p = poolRank c d q) : p = q :=
  (List.idxOf_inj hp).mp h

theorem nodup_diePools (c : Chip) (d : Nat) : (diePools c d).Nodup := List.nodup_range.filter _

theorem diePools_lt (hp : p ∈ diePools c d) : p < 8 := List.mem_range.mp (List.mem_filter.mp hp).1

theorem Paged.diePools (h : Paged c e) : Machine.diePools e = Machine.diePools c := by rw [h]; rfl

theorem Paged.poolRank (h : Paged c e) : Machine.poolRank e = Machine.poolRank c := by rw [h]; rfl

@[simp] theorem pageRefs_setRefs_same (c : Chip) (p page n : Nat) : pageRefs (setRefs c p page n) p page = n := smGet_smSet_same ..

theorem refs_setRefs_ne (c : Chip) (n : Nat) {p page k : Nat} (h : k ≠ p * 2 ^ 20 + page) :
    smGet 0 (setRefs c p page n).srv.refs k = smGet 0 c.srv.refs k := smGet_smSet_ne _ _ _ h

/-! ## Directory slots -/

/-- Sessions' slots have keys of their own within a session. -/
theorem dirKey_inj {rank rank' slot slot' : Nat} (hslot : slot < 64) (hslot' : slot' < 64)
    (h : dirKey s rank slot = dirKey s rank' slot') : rank = rank' ∧ slot = slot' := by
  simp only [dirKey] at h
  omega

theorem dirSlot_setDir_same (c : Chip) (s rank slot : Nat) {b : Nat} (hb : b ≠ 0xFFFF) :
    dirSlot (setDir c s rank slot b) s rank slot = some b := by
  unfold dirSlot
  dsimp only
  rw [show smGet 0xFFFF (setDir c s rank slot b).srv.dir (dirKey s rank slot) = b from smGet_smSet_same .., if_neg hb]

theorem dirSlot_setDir_none (c : Chip) (s rank slot : Nat) : dirSlot (setDir c s rank slot 0xFFFF) s rank slot = none := by
  unfold dirSlot
  dsimp only
  rw [show smGet 0xFFFF (setDir c s rank slot 0xFFFF).srv.dir (dirKey s rank slot) = 0xFFFF from
    smGet_smSet_same 0xFFFF c.srv.dir (dirKey s rank slot) 0xFFFF, if_pos rfl]

theorem dirSlot_setDir_ne (c : Chip) {s rank slot s' rank' slot' : Nat} (b : Nat)
    (h : dirKey s' rank' slot' ≠ dirKey s rank slot) :
    dirSlot (setDir c s rank slot b) s' rank' slot' = dirSlot c s' rank' slot' := by
  unfold dirSlot
  dsimp only
  rw [show smGet 0xFFFF (setDir c s rank slot b).srv.dir (dirKey s' rank' slot') = _ from smGet_smSet_ne _ _ _ h]

/-! ## Blocks -/

/-- An entry of a block. -/
def blockEntry (c : Chip) (d b i : Nat) : Nat := smGet ones32 (blockAt c d b) i

/-- A page number, or none. -/
def pageOf (g : Nat) : Option Nat := if g = ones32 then none else some g

theorem pageOf_ne_none {g : Nat} : pageOf g ≠ none ↔ g ≠ ones32 := by
  unfold pageOf
  split <;> simp [*]

/-- A page of a session is that of its slot's block. -/
theorem kvPage_of_slot {pi b : Nat} (h : dirSlot c s (poolRank c d p) (pi / 64) = some b) :
    kvPage c d p s pi = pageOf (blockEntry c d b (pi % 64)) := by
  unfold kvPage
  rw [h]
  rfl

theorem kvPage_none_of_slot {pi : Nat} (h : dirSlot c s (poolRank c d p) (pi / 64) = none) : kvPage c d p s pi = none := by
  unfold kvPage
  rw [h]

@[simp] theorem blockEntry_setEntry_same (c : Chip) (d b i g : Nat) : blockEntry (setEntry c d b i g) d b i = g := by
  unfold blockEntry
  rw [show blockAt (setEntry c d b i g) d b = _ from smGet_smSet_same ..]
  exact smGet_smSet_same ..

theorem blockEntry_setEntry_ne (c : Chip) {d b b' i j : Nat} (g : Nat) (h : b' ≠ b ∨ j ≠ i) :
    blockEntry (setEntry c d b i g) d b' j = blockEntry c d b' j := by
  unfold blockEntry
  by_cases hb : b' = b
  · subst hb
    rw [show blockAt (setEntry c d b' i g) d b' = _ from smGet_smSet_same ..]
    exact smGet_smSet_ne _ _ _ (h.resolve_left (not_not.mpr rfl))
  · rw [show blockAt (setEntry c d b i g) d b' = _ from smGet_smSet_ne _ _ _ (by omega)]
    rfl

theorem blockEntry_empty {b : Nat} (h : (blockAt c d b).isEmpty = true) (i : Nat) : blockEntry c d b i = ones32 := by
  rw [blockEntry, List.isEmpty_iff.mp h]
  rfl

/-! ## A page is taken, and given up (07 R213) -/

section
variable {page : Nat}

/-- Only references and pools change. -/
theorem dropRef_srv (c : Chip) (p page : Nat) : (dropRef c p page).srv = { c.srv with refs := (dropRef c p page).srv.refs } := by
  unfold dropRef
  dsimp only
  split <;> rfl

theorem takePage_eq (c : Chip) (p page : Nat) : takePage c p page = match freeFrames c (poolNum c p) with
    | f :: _ => withPage (setRefs c p page 1) (poolNum c p) page
        { pageAt (poolAt c (poolNum c p)) page with frame := some f, dirty := false, heat := 0 }
    | [] => setRefs c p page 1 := rfl

theorem takePage_srv (c : Chip) (p page : Nat) : (takePage c p page).srv = (setRefs c p page 1).srv := by
  rw [takePage_eq]
  split <;> rfl

theorem paged_takePage (c : Chip) (p page : Nat) : Paged c (takePage c p page) := by
  rw [takePage_eq]
  split
  · exact (paged_setRefs c p page 1).trans rfl
  · exact paged_setRefs ..

theorem pageAt_takePage_same (c : Chip) (p page : Nat) : pageAt (poolAt (takePage c p page) (poolNum c p)) page =
    match freeFrames c (poolNum c p) with
    | f :: _ => { pageAt (poolAt c (poolNum c p)) page with frame := some f, dirty := false, heat := 0 }
    | [] => pageAt (poolAt c (poolNum c p)) page := by
  rw [takePage_eq]
  cases freeFrames c (poolNum c p) with
  | nil => rfl
  | cons f fs => exact withPage_same ..

theorem pageAt_takePage_ne (c : Chip) (p : Nat) {page k : Nat} (h : k ≠ page) :
    pageAt (poolAt (takePage c p page) (poolNum c p)) k = pageAt (poolAt c (poolNum c p)) k := by
  rw [takePage_eq]
  cases freeFrames c (poolNum c p) with
  | nil => rfl
  | cons f fs => exact withPage_page_ne _ _ _ _ h

theorem dropRef_last (h : pageRefs c p page ≤ 1) : dropRef c p page = returnPage (setRefs c p page 0) p page := if_pos h

theorem dropRef_shared (h : 1 < pageRefs c p page) : dropRef c p page = setRefs c p page (pageRefs c p page - 1) :=
  if_neg (Nat.not_le.mpr h)

theorem poolAt_returnPage (c : Chip) (p page : Nat) : poolAt (returnPage c p page) (poolNum c p) =
    { poolAt (withPage c (poolNum c p) page
        { pageAt (poolAt c (poolNum c p)) page with frame := none, dirty := false, heat := 0 }) (poolNum c p) with
      flights := (poolAt c (poolNum c p)).flights.filter (fun x => x.page != page) } := by
  rw [← withPage_flights c (poolNum c p) page
    { pageAt (poolAt c (poolNum c p)) page with frame := none, dirty := false, heat := 0 }]
  exact poolAt_setPool_same ..

theorem pageAt_returnPage (c : Chip) (p page : Nat) : pageAt (poolAt (returnPage c p page) (poolNum c p)) page =
    { pageAt (poolAt c (poolNum c p)) page with frame := none, dirty := false, heat := 0 } := by
  rw [poolAt_returnPage]
  exact withPage_same ..

theorem flights_returnPage (c : Chip) (p page : Nat) : (poolAt (returnPage c p page) (poolNum c p)).flights =
    (poolAt c (poolNum c p)).flights.filter (fun x => x.page ≠ page) := by
  rw [poolAt_returnPage]
  simp only [bne, decide_not, beq_eq_decide]

/-- 07 R213, 08 R238: a page loses a reference; one without returns, clean and cold, without a frame. -/
theorem dropRef_rule (c : Chip) (p g : Nat) :
    pageRefs (dropRef c p g) p g = pageRefs c p g - 1 ∧
    (pageRefs c p g ≤ 1 →
      pageAt (poolAt (dropRef c p g) (poolNum c p)) g =
        { pageAt (poolAt c (poolNum c p)) g with frame := none, dirty := false, heat := 0 } ∧
      (poolAt (dropRef c p g) (poolNum c p)).flights = (poolAt c (poolNum c p)).flights.filter (fun x => x.page ≠ g)) ∧
    (1 < pageRefs c p g → (dropRef c p g).pools = c.pools) := by
  refine ⟨?_, fun hlast => ?_, fun hshared => ?_⟩
  · by_cases hlast : pageRefs c p g ≤ 1
    · rw [dropRef_last hlast, Nat.sub_eq_zero_of_le hlast]
      exact pageRefs_setRefs_same ..
    · rw [dropRef_shared (Nat.not_le.mp hlast), pageRefs_setRefs_same]
  · rw [dropRef_last hlast]
    exact ⟨pageAt_returnPage (setRefs c p g 0) p g, flights_returnPage (setRefs c p g 0) p g⟩
  · rw [dropRef_shared hshared]
    rfl

end

/-! ## Something free, or evicted for it (08 R237 R243) -/

section
variable {find : Chip → Option Nat} {keep : Option Nat} {n : Nat}

theorem findOrEvict_found (h : find c = some n) : findOrEvict find d keep c = (c, some n) := by
  rw [findOrEvict, orEvict, h]

theorem findOrEvict_nothing (h : find c = none) (hvictim : victim c d keep = none) : findOrEvict find d keep c = (c, none) := by
  rw [findOrEvict, orEvict, h]
  dsimp only
  rw [hvictim]

end

section
variable {rank slot b : Nat} {keep : Option Nat}

theorem needBlock_held (h : dirSlot c s rank slot = some b) : needBlock c d s rank slot keep = (c, true, false) := by
  rw [needBlock, h]

theorem needBlock_free (h : dirSlot c s rank slot = none) (hb : freeBlock c d = some b) :
    needBlock c d s rank slot keep = (setDir c s rank slot b, true, true) := by
  have hfound : findOrEvict (fun c => freeBlock c d) d keep c = (c, some b) := findOrEvict_found hb
  unfold needBlock
  rw [h]
  dsimp only
  rw [hfound]

theorem freeBlock_lt (h : freeBlock c d = some b) : b < 16384 := by
  unfold freeBlock at h
  exact List.mem_range.mp (List.mem_of_find?_eq_some h)

theorem freePage_lt {g : Nat} (h : freePage c p = some g) : g < poolPages c p := by
  unfold freePage at h
  exact List.mem_range.mp (List.mem_of_find?_eq_some h)

end

/-! ## A page of a session (08 R237) -/

section
variable {pi g b : Nat} {t : Took}

theorem needPage_has (h : kvPage c d p s pi ≠ none) : needPage c d s p pi t = (c, t) := by
  rw [needPage, if_pos (.inr (Option.isSome_iff_ne_none.mpr h))]

theorem needPage_over (h : t.ok = false) : needPage c d s p pi t = (c, t) := by
  rw [needPage, if_pos (.inl (by rw [h]; rfl))]

/-- What is taken once the slot of a page index has a block, taken for it or not. -/
def blockTook (c : Chip) (d p pi : Nat) (taken : Bool) (t : Took) : Took :=
  if taken then { t with blocks := (poolRank c d p, pi / 64) :: t.blocks } else t

section
variable {f r : Chip} {taken : Bool} (hok : t.ok = true) (hlacks : kvPage c d p s pi = none)
include hok hlacks

theorem needPage_wanted : ¬((!t.ok) = true ∨ (kvPage c d p s pi).isSome = true) := by
  rw [hok, hlacks]
  simp

theorem needPage_noBlock (hblock : needBlock c d s (poolRank c d p) (pi / 64) none = (f, false, taken)) :
    needPage c d s p pi t = (f, { blockTook c d p pi taken t with ok := false }) := by
  unfold needPage
  rw [if_neg (needPage_wanted hok hlacks)]
  dsimp only
  rw [hblock]
  rfl

theorem needPage_noPage (hblock : needBlock c d s (poolRank c d p) (pi / 64) none = (f, true, taken))
    (hpage : findOrEvict (fun c => freePage c p) d none f = (r, none)) :
    needPage c d s p pi t = (r, { blockTook c d p pi taken t with ok := false }) := by
  unfold needPage
  rw [if_neg (needPage_wanted hok hlacks)]
  dsimp only
  rw [hblock]
  dsimp only
  rw [hpage]
  rfl

theorem needPage_takes (hblock : needBlock c d s (poolRank c d p) (pi / 64) none = (f, true, taken))
    (hpage : findOrEvict (fun c => freePage c p) d none f = (r, some g)) :
    needPage c d s p pi t = (setKvPage (takePage r p g) d p s pi g,
      { blockTook c d p pi taken t with pages := (p, pi) :: (blockTook c d p pi taken t).pages }) := by
  unfold needPage
  rw [if_neg (needPage_wanted hok hlacks)]
  dsimp only
  rw [hblock]
  dsimp only
  rw [hpage]
  rfl

end

theorem setKvPage_of_slot (h : dirSlot c s (poolRank c d p) (pi / 64) = some b) :
    setKvPage c d p s pi g = setEntry c d b (pi % 64) g := by
  rw [setKvPage, h]

theorem blockTook_pages (c : Chip) (d p pi : Nat) (taken : Bool) (t : Took) : (blockTook c d p pi taken t).pages = t.pages := by
  cases taken <;> rfl

theorem blockTook_ok (c : Chip) (d p pi : Nat) (taken : Bool) (t : Took) : (blockTook c d p pi taken t).ok = t.ok := by
  cases taken <;> rfl

end

end Sys2Proof.Proofs
end

section
/-! PROOFS. What a truncation gives back (08 R238). -/

namespace Sys2Proof.Proofs

open Sys2Proof Sys2Proof.Machine Sys2Proof.Claims Sys2Proof.Laws

variable {c e f : Chip} {d s p q b first slot rank : Nat}

theorem dirSlot_dropRef (c : Chip) (p page s rank slot : Nat) :
    dirSlot (dropRef c p page) s rank slot = dirSlot c s rank slot := by
  unfold dirSlot
  rw [dropRef_srv]

theorem blockEntry_dropRef (c : Chip) (p page d b i : Nat) : blockEntry (dropRef c p page) d b i = blockEntry c d b i := by
  unfold blockEntry blockAt
  rw [dropRef_srv]

theorem dirSlot_setEntry (c : Chip) (d b i g s rank slot : Nat) :
    dirSlot (setEntry c d b i g) s rank slot = dirSlot c s rank slot := rfl

/-! ## The entries of a block -/

/-- An entry of a slot's block is given up where its page index is past the length. -/
def dropEntry (d p b first slot : Nat) (c : Chip) (x : Nat × Nat) : Chip :=
  if first ≤ 64 * slot + x.1 then setEntry (dropRef c p x.2) d b x.1 ones32 else c

/-- All entries of a slot's block. -/
def dropEntries (d p b first slot : Nat) (c : Chip) : Chip := (blockAt c d b).foldl (dropEntry d p b first slot) c

theorem paged_dropEntry (d p b first slot : Nat) (c : Chip) (x : Nat × Nat) : Paged c (dropEntry d p b first slot c x) := by
  unfold dropEntry
  split
  · exact (paged_dropRef c p x.2).trans (paged_setEntry ..)
  · exact Paged.refl c

theorem dirSlot_dropEntry (d p b first slot : Nat) (c : Chip) (x : Nat × Nat) (s rank j : Nat) :
    dirSlot (dropEntry d p b first slot c x) s rank j = dirSlot c s rank j := by
  unfold dropEntry
  split
  · rw [dirSlot_setEntry, dirSlot_dropRef]
  · rfl

theorem blockEntry_dropEntry_ne (d p first slot : Nat) (c : Chip) (x : Nat × Nat) {b b' i : Nat} (h : b' ≠ b ∨ i ≠ x.1) :
    blockEntry (dropEntry d p b first slot c x) d b' i = blockEntry c d b' i := by
  unfold dropEntry
  split
  · rw [blockEntry_setEntry_ne _ _ h, blockEntry_dropRef]
  · rfl

theorem blockEntry_dropEntry_same (d p b first slot : Nat) (c : Chip) (x : Nat × Nat) (h : first ≤ 64 * slot + x.1) :
    blockEntry (dropEntry d p b first slot c x) d b x.1 = ones32 := by
  rw [dropEntry, if_pos h, blockEntry_setEntry_same]

theorem blockEntry_dropEntry_kept (d p b first slot : Nat) (c : Chip) (x : Nat × Nat) {i : Nat} (h : ¬first ≤ 64 * slot + i) :
    blockEntry (dropEntry d p b first slot c x) d b i = blockEntry c d b i := by
  by_cases hi : i = x.1
  · rw [dropEntry, if_neg (hi ▸ h)]
  · exact blockEntry_dropEntry_ne _ _ _ _ _ _ (.inr hi)

section
variable (d p b first slot : Nat) (l : List (Nat × Nat))

theorem dirSlot_foldl_dropEntry (s rank j : Nat) :
    ∀ c, dirSlot (l.foldl (dropEntry d p b first slot) c) s rank j = dirSlot c s rank j := by
  induction l with
  | nil => exact fun c => rfl
  | cons x l ih => exact fun c => (ih _).trans (dirSlot_dropEntry ..)

theorem blockEntry_foldl_dropEntry_ne {b' i : Nat} (h : b' ≠ b ∨ ¬first ≤ 64 * slot + i) :
    ∀ c, blockEntry (l.foldl (dropEntry d p b first slot) c) d b' i = blockEntry c d b' i := by
  induction l with
  | nil => exact fun c => rfl
  | cons x l ih =>
    intro c
    refine (ih _).trans ?_
    by_cases hb : b' = b
    · subst hb
      exact blockEntry_dropEntry_kept _ _ _ _ _ _ _ (h.resolve_left (not_not.mpr rfl))
    · exact blockEntry_dropEntry_ne _ _ _ _ _ _ (.inl hb)

theorem blockEntry_foldl_dropEntry_gone {i : Nat} (h : first ≤ 64 * slot + i) :
    ∀ c, i ∈ l.map (·.1) ∨ blockEntry c d b i = ones32 → blockEntry (l.foldl (dropEntry d p b first slot) c) d b i = ones32 := by
  induction l with
  | nil => exact fun c hgone => hgone.resolve_left List.not_mem_nil
  | cons x l ih =>
    intro c hgone
    refine ih _ ?_
    by_cases hi : i = x.1
    · rw [hi] at h ⊢
      exact .inr (blockEntry_dropEntry_same _ _ _ _ _ _ _ h)
    · rw [blockEntry_dropEntry_ne _ _ _ _ _ _ (.inr hi)]
      rw [List.map_cons, List.mem_cons] at hgone
      exact hgone.imp (fun hmem => hmem.resolve_left hi) id

end

theorem blockEntry_dropEntries_gone (c : Chip) (d p b : Nat) {i : Nat} (h : first ≤ 64 * slot + i) :
    blockEntry (dropEntries d p b first slot c) d b i = ones32 := by
  refine blockEntry_foldl_dropEntry_gone _ _ _ _ _ _ h c ?_
  by_cases hentry : blockEntry c d b i = ones32
  · exact .inr hentry
  · exact .inl (List.mem_map_of_mem (mem_of_smGet ones32 hentry))

/-! ## One slot of a directory -/

/-- A slot gives up its entries past the length, and its block once that is empty. -/
def releaseSlot (d s p first rank : Nat) (c : Chip) (slot : Nat) : Chip :=
  match dirSlot c s rank slot with
  | none => c
  | some b =>
    if (blockAt (dropEntries d p b first slot c) d b).isEmpty then setDir (dropEntries d p b first slot c) s rank slot 0xFFFF
    else dropEntries d p b first slot c

theorem releasePages_eq (c : Chip) (s first : Nat) : releasePages c s first = (diePools c (s / 1024)).foldl (fun c p =>
    (List.range 64).foldl (releaseSlot (s / 1024) s p first (poolRank c (s / 1024) p)) c) c := rfl

theorem releaseSlot_none (h : dirSlot c s rank slot = none) : releaseSlot d s p first rank c slot = c := by
  rw [releaseSlot, h]

theorem releaseSlot_emptied (h : dirSlot c s rank slot = some b)
    (hempty : (blockAt (dropEntries d p b first slot c) d b).isEmpty = true) :
    releaseSlot d s p first rank c slot = setDir (dropEntries d p b first slot c) s rank slot 0xFFFF := by
  rw [releaseSlot, h]
  exact if_pos hempty

theorem releaseSlot_left (h : dirSlot c s rank slot = some b)
    (hleft : ¬(blockAt (dropEntries d p b first slot c) d b).isEmpty = true) :
    releaseSlot d s p first rank c slot = dropEntries d p b first slot c := by
  rw [releaseSlot, h]
  exact if_neg hleft

theorem paged_releaseSlot (d s p first rank : Nat) (c : Chip) (slot : Nat) : Paged c (releaseSlot d s p first rank c slot) := by
  have hdrop : ∀ b, Paged c (dropEntries d p b first slot c) := fun b => paged_foldl (paged_dropEntry d p b first slot) _ c
  cases hslot : dirSlot c s rank slot with
  | none =>
    rw [releaseSlot_none hslot]
    exact Paged.refl c
  | some b =>
    by_cases hempty : (blockAt (dropEntries d p b first slot c) d b).isEmpty = true
    · rw [releaseSlot_emptied hslot hempty]
      exact (hdrop b).trans (paged_setDir ..)
    · rw [releaseSlot_left hslot hempty]
      exact hdrop b

/-- Only the slot's own block may leave the directory. -/
theorem dirSlot_releaseSlot (d s p first rank : Nat) (c : Chip) (slot rank' slot' : Nat) :
    dirSlot (releaseSlot d s p first rank c slot) s rank' slot' = dirSlot c s rank' slot' ∨
      dirSlot (releaseSlot d s p first rank c slot) s rank' slot' = none ∧ dirKey s rank' slot' = dirKey s rank slot := by
  cases hslot : dirSlot c s rank slot with
  | none => exact .inl (by rw [releaseSlot_none hslot])
  | some b =>
    by_cases hempty : (blockAt (dropEntries d p b first slot c) d b).isEmpty = true
    · rw [releaseSlot_emptied hslot hempty]
      by_cases hkey : dirKey s rank' slot' = dirKey s rank slot
      · refine .inr ⟨?_, hkey⟩
        have hsame := dirSlot_setDir_none (dropEntries d p b first slot c) s rank slot
        unfold dirSlot at hsame ⊢
        rw [hkey]
        exact hsame
      · exact .inl ((dirSlot_setDir_ne _ _ hkey).trans (dirSlot_foldl_dropEntry ..))
    · rw [releaseSlot_left hslot hempty]
      exact .inl (dirSlot_foldl_dropEntry ..)

/-! ## All slots -/

/-- No two slots of a session hold the same block. -/
def OwnBlocks (c : Chip) (d s : Nat) : Prop := ∀ q ∈ diePools c d, ∀ q' ∈ diePools c d, ∀ i < 64, ∀ i' < 64, ∀ b,
  dirSlot c s (poolRank c d q) i = some b → dirSlot c s (poolRank c d q') i' = some b → q = q' ∧ i = i'

/-- The pages that a set names are given up, every other one stays. -/
structure Released (d s : Nat) (gone : Nat → Nat → Prop) (c e : Chip) : Prop where
  paged : Paged c e
  slots : ∀ rank slot b, dirSlot e s rank slot = some b → dirSlot c s rank slot = some b
  lost : ∀ q ∈ diePools c d, ∀ i < 4096, gone q i → kvPage e d q s i = none
  stays : ∀ q ∈ diePools c d, ∀ i < 4096, ¬gone q i → kvPage e d q s i = kvPage c d q s i

theorem Released.own {gone : Nat → Nat → Prop} (h : Released d s gone c e) (hown : OwnBlocks c d s) : OwnBlocks e d s := by
  unfold OwnBlocks
  rw [h.paged.diePools, h.paged.poolRank]
  exact fun q hq q' hq' i hi i' hi' b hb hb' => hown q hq q' hq' i hi i' hi' b (h.slots _ _ _ hb) (h.slots _ _ _ hb')

theorem Released.refl (c : Chip) (d s : Nat) : Released d s (fun _ _ => False) c c :=
  ⟨Paged.refl c, fun _ _ _ h => h, fun _ _ _ _ h => h.elim, fun _ _ _ _ _ => rfl⟩

theorem Released.trans {gone gone' : Nat → Nat → Prop} (h : Released d s gone c e) (h' : Released d s gone' e f) :
    Released d s (fun q i => gone q i ∨ gone' q i) c f := by
  obtain ⟨hpaged, hslots, hlost, hstays⟩ := h
  obtain ⟨hpaged', hslots', hlost', hstays'⟩ := h'
  rw [hpaged.diePools] at hlost' hstays'
  refine ⟨hpaged.trans hpaged', fun rank slot b hb => hslots _ _ _ (hslots' _ _ _ hb), fun q hq i hi hgone => ?_,
      fun q hq i hi hgone => ?_⟩
  · by_cases hgone' : gone' q i
    · exact hlost' q hq i hi hgone'
    · rw [hstays' q hq i hi hgone']
      exact hlost q hq i hi (hgone.resolve_right hgone')
  · rw [not_or] at hgone
    rw [hstays' q hq i hi hgone.2, hstays q hq i hi hgone.1]

theorem Released.congr {gone gone' : Nat → Nat → Prop} (h : Released d s gone c e) (hiff : ∀ q i, gone q i ↔ gone' q i) :
    Released d s gone' c e := by
  rwa [show gone' = gone from funext₂ fun q i => propext (hiff q i).symm]

theorem kvPage_congr {i : Nat} (hpaged : Paged c e)
    (hslot : dirSlot e s (poolRank c d q) (i / 64) = dirSlot c s (poolRank c d q) (i / 64))
    (hblock : ∀ b, dirSlot c s (poolRank c d q) (i / 64) = some b → blockEntry e d b (i % 64) = blockEntry c d b (i % 64)) :
    kvPage e d q s i = kvPage c d q s i := by
  rw [← hpaged.poolRank] at hslot
  cases hb : dirSlot c s (poolRank c d q) (i / 64) with
  | none =>
    rw [kvPage_none_of_slot hb, kvPage_none_of_slot (hslot.trans (by rw [hpaged.poolRank]; exact hb))]
  | some b =>
    rw [kvPage_of_slot hb, kvPage_of_slot (hslot.trans (by rw [hpaged.poolRank]; exact hb)), hblock b hb]

/-- A slot's pages past the length are given up, and no others. -/
theorem released_releaseSlot (hown : OwnBlocks c d s) (hp : p ∈ diePools c d) (hslot : slot < 64) :
    Released d s (fun q i => q = p ∧ i / 64 = slot ∧ first ≤ i) c (releaseSlot d s p first (poolRank c d p) c slot) := by
  have hpaged := paged_releaseSlot d s p first (poolRank c d p) c slot
  refine ⟨hpaged, fun rank' slot' b hb => ?_, ?_, ?_⟩
  · rcases dirSlot_releaseSlot d s p first (poolRank c d p) c slot rank' slot' with h | ⟨h, -⟩
    · exact h ▸ hb
    · rw [h] at hb
      exact absurd hb (by simp)
  · rintro q hq i hi ⟨rfl, rfl, hfirst⟩
    have hindex : first ≤ 64 * (i / 64) + i % 64 := by omega
    cases hb : dirSlot c s (poolRank c d q) (i / 64) with
    | none => rw [releaseSlot_none hb, kvPage_none_of_slot hb]
    | some b =>
      by_cases hempty : (blockAt (dropEntries d q b first (i / 64) c) d b).isEmpty = true
      · refine kvPage_none_of_slot ?_
        rw [hpaged.poolRank, releaseSlot_emptied hb hempty]
        exact dirSlot_setDir_none ..
      · rw [releaseSlot_left hb hempty] at hpaged ⊢
        have hslot' : dirSlot (dropEntries d q b first (i / 64) c) s (poolRank (dropEntries d q b first (i / 64) c) d q) (i / 64) =
            some b := by
          rw [hpaged.poolRank]
          exact (dirSlot_foldl_dropEntry ..).trans hb
        rw [kvPage_of_slot hslot', blockEntry_dropEntries_gone c d q b hindex]
        rfl
  · intro q hq i hi hstays
    cases hb : dirSlot c s (poolRank c d p) slot with
    | none => rw [releaseSlot_none hb]
    | some b =>
      have hentry : ∀ b', dirSlot c s (poolRank c d q) (i / 64) = some b' →
          blockEntry (dropEntries d p b first slot c) d b' (i % 64) = blockEntry c d b' (i % 64) := by
        intro b' hb'
        refine blockEntry_foldl_dropEntry_ne _ _ _ _ _ _ ?_ c
        refine or_iff_not_imp_left.mpr fun hsame hfirst => hstays ?_
        rw [not_not.mp hsame] at hb'
        obtain ⟨rfl, rfl⟩ := hown q hq p hp (i / 64) (by omega) slot hslot b hb' hb
        exact ⟨rfl, rfl, by omega⟩
      by_cases hempty : (blockAt (dropEntries d p b first slot c) d b).isEmpty = true
      · by_cases hkey : dirKey s (poolRank c d q) (i / 64) = dirKey s (poolRank c d p) slot
        · obtain ⟨hrank, rfl⟩ := dirKey_inj (by omega) hslot hkey
          obtain rfl := poolRank_inj hq hrank
          have hempty' : blockEntry c d b (i % 64) = ones32 := by
            rw [← hentry b hb]
            exact blockEntry_empty hempty _
          rw [kvPage_of_slot hb, hempty', releaseSlot_emptied hb hempty]
          refine kvPage_none_of_slot ?_
          rw [releaseSlot_emptied hb hempty] at hpaged
          rw [hpaged.poolRank]
          exact dirSlot_setDir_none ..
        · refine kvPage_congr hpaged ?_ ?_
          · rw [releaseSlot_emptied hb hempty, dirSlot_setDir_ne _ _ hkey]
            exact dirSlot_foldl_dropEntry ..
          · rw [releaseSlot_emptied hb hempty]
            exact hentry
      · rw [releaseSlot_left hb hempty] at hpaged ⊢
        exact kvPage_congr hpaged (dirSlot_foldl_dropEntry ..) hentry

theorem released_slots (hp : p ∈ diePools c d) (first : Nat) (l : List Nat) : (∀ j ∈ l, j < 64) → OwnBlocks c d s →
    Released d s (fun q i => q = p ∧ i / 64 ∈ l ∧ first ≤ i) c (l.foldl (releaseSlot d s p first (poolRank c d p)) c) := by
  induction l generalizing c with
  | nil => exact fun _ _ => (Released.refl c d s).congr (by simp)
  | cons j l ih =>
    intro hl hown
    have hone := released_releaseSlot (first := first) hown hp (hl j List.mem_cons_self)
    have hrest := ih (c := releaseSlot d s p first (poolRank c d p) c j) (hone.paged.diePools ▸ hp)
      (fun k hk => hl k (List.mem_cons_of_mem _ hk)) (hone.own hown)
    rw [hone.paged.poolRank] at hrest
    refine (hone.trans hrest).congr fun q i => ?_
    rw [List.mem_cons]
    tauto

theorem released_pools (first : Nat) {slots : List Nat} (hslots : ∀ j ∈ slots, j < 64) (l : List Nat) :
    (∀ q ∈ l, q ∈ diePools c d) → OwnBlocks c d s →
    Released d s (fun q i => q ∈ l ∧ i / 64 ∈ slots ∧ first ≤ i) c
      (l.foldl (fun c p => slots.foldl (releaseSlot d s p first (poolRank c d p)) c) c) := by
  induction l generalizing c with
  | nil => exact fun _ _ => (Released.refl c d s).congr (by simp)
  | cons p l ih =>
    intro hl hown
    have hone := released_slots (hl p List.mem_cons_self) first slots hslots hown
    have hrest := ih (hone.paged.diePools ▸ fun q hq => hl q (List.mem_cons_of_mem _ hq)) (hone.own hown)
    refine (hone.trans hrest).congr fun q i => ?_
    rw [List.mem_cons]
    tauto

/-- 08 R238: pages past a length are given up, the others stay. -/
theorem kvPage_truncateKv {n pi : Nat} (hd : s / 1024 = d) (hown : OwnBlocks c d s) (hp : p ∈ diePools c d) (hpi : pi < 4096) :
    kvPage (truncateKv c s n) d p s pi = if pi < (n + tau c - 1) / tau c then kvPage c d p s pi else none := by
  subst hd
  have hreleased := released_pools (cdiv n (tau c)) (fun _ (h : _ ∈ List.range 64) => List.mem_range.mp h)
      (diePools c (s / 1024)) (fun _ hq => hq) hown
  rw [← releasePages_eq] at hreleased
  by_cases hlt : pi < cdiv n (tau c)
  · rw [show (if pi < (n + tau c - 1) / tau c then kvPage c (s / 1024) p s pi else none) = _ from if_pos hlt]
    exact hreleased.stays p hp pi hpi fun hgone => by omega
  · rw [show (if pi < (n + tau c - 1) / tau c then kvPage c (s / 1024) p s pi else none) = _ from if_neg hlt]
    exact hreleased.lost p hp pi hpi ⟨hp, List.mem_range.mpr (by omega), by omega⟩

end Sys2Proof.Proofs
end

section
/-! PROOFS. Pages of a session: one taken, all taken, and what a session gives back (08 R234 R237 R238). -/

namespace Sys2Proof.Proofs

open Sys2Proof Sys2Proof.Machine Sys2Proof.Claims Sys2Proof.Laws

variable {c e f : Chip} {d s p q pi g b n : Nat} {t u : Took}

/-! ## What evictions leave -/

/-- The plan, the directories and the blocks stay, and every entry but the count of evictions. -/
structure Evicted (c e : Chip) : Prop where
  plan : e.plan = c.plan
  regs : ∀ k, k ≠ key 0x6050 8 → reg e k = reg c k
  dir : e.srv.dir = c.srv.dir
  blocks : e.srv.blocks = c.srv.blocks

theorem Evicted.refl (c : Chip) : Evicted c c := ⟨rfl, fun _ _ => rfl, rfl, rfl⟩

theorem Evicted.trans (h : Evicted c e) (h' : Evicted e f) : Evicted c f :=
  ⟨h'.plan.trans h.plan, fun k hk => (h'.regs k hk).trans (h.regs k hk), h'.dir.trans h.dir, h'.blocks.trans h.blocks⟩

theorem Paged.plan (h : Paged c e) : e.plan = c.plan := by rw [h]

theorem Paged.evicted (h : Paged c e) (hdir : e.srv.dir = c.srv.dir) (hblocks : e.srv.blocks = c.srv.blocks) : Evicted c e :=
  ⟨h.plan, fun k _ => h.reg k, hdir, hblocks⟩

theorem evicted_setNode (c : Chip) (d n : Nat) (x : Node) : Evicted c (setNode c d n x) := (paged_setNode c d n x).evicted rfl rfl

theorem evicted_unlinkNode (c : Chip) (d n : Nat) : Evicted c (unlinkNode c d n) := by
  unfold unlinkNode
  dsimp only
  split
  · exact evicted_setNode ..
  · split
    · exact evicted_setNode ..
    · exact Evicted.refl c

theorem evicted_dropRef (c : Chip) (p page : Nat) : Evicted c (dropRef c p page) :=
  (paged_dropRef c p page).evicted (by rw [dropRef_srv]) (by rw [dropRef_srv])

theorem evicted_countEvicted (c : Chip) : Evicted c (countEvicted c) := by
  unfold countEvicted
  split
  · exact ⟨rfl, fun k hk => reg_addReg_ne c 1 hk, rfl, rfl⟩
  · exact ⟨rfl, fun _ _ => rfl, rfl, rfl⟩

theorem evicted_foldl {α : Type} {step : Chip → α → Chip} (hstep : ∀ c a, Evicted c (step c a)) (l : List α) :
    ∀ c, Evicted c (l.foldl step c) := by
  induction l with
  | nil => exact fun c => Evicted.refl c
  | cons a l ih => exact fun c => (hstep c a).trans (ih _)

theorem evicted_removeNode (c : Chip) (d n : Nat) : Evicted c (removeNode c d n) := by
  unfold removeNode
  refine (((evicted_unlinkNode c d n).trans (evicted_setNode ..)).trans (evicted_foldl (fun c x => ?_) _ _)).trans
      (evicted_countEvicted _)
  obtain ⟨p, g⟩ := x
  dsimp only
  split
  · exact Evicted.refl c
  · exact evicted_dropRef ..

section
variable (find : Chip → Option Nat) (d : Nat) (keep : Option Nat)

theorem evicted_orEvict : ∀ (fuel : Nat) (c : Chip), Evicted c (orEvict find d keep fuel c).1
  | 0, c => Evicted.refl c
  | fuel + 1, c => by
    rw [orEvict]
    split
    · exact Evicted.refl c
    · split
      · exact (evicted_removeNode ..).trans (evicted_orEvict fuel _)
      · exact Evicted.refl c

theorem find_orEvict : ∀ (fuel : Nat) (c : Chip), (orEvict find d keep fuel c).2 = some n →
    find (orEvict find d keep fuel c).1 = some n
  | 0, _ => id
  | fuel + 1, c => by
    rw [orEvict]
    split
    · next h => exact fun heq => h.trans heq
    · split
      · exact find_orEvict fuel _
      · exact fun heq => absurd heq (by simp)

theorem evicted_findOrEvict (c : Chip) : Evicted c (findOrEvict find d keep c).1 := evicted_orEvict ..

theorem find_findOrEvict (c : Chip) (h : (findOrEvict find d keep c).2 = some n) : find (findOrEvict find d keep c).1 = some n :=
  find_orEvict _ _ _ _ _ h

end

/-! ## Pages only grow -/

/-- A session keeps every page it has, and the pools of a plan stay as they are. -/
structure Grows (d s : Nat) (c e : Chip) : Prop where
  pool : ∀ p < 8, poolRegion e p = poolRegion c p
  keeps : ∀ q i, kvPage c d q s i ≠ none → kvPage e d q s i ≠ none

theorem Grows.refl (d s : Nat) (c : Chip) : Grows d s c c := ⟨fun _ _ => rfl, fun _ _ h => h⟩

theorem Grows.trans (h : Grows d s c e) (h' : Grows d s e f) : Grows d s c f :=
  ⟨fun p hp => (h'.pool p hp).trans (h.pool p hp), fun q i hq => h'.keeps q i (h.keeps q i hq)⟩

theorem diePools_of_pool (h : ∀ p < 8, poolRegion e p = poolRegion c p) : diePools e = diePools c := by
  funext d
  refine List.filter_congr fun p hp => ?_
  rw [h p (List.mem_range.mp hp)]

theorem Grows.diePools (h : Grows d s c e) : Machine.diePools e = Machine.diePools c := diePools_of_pool h.pool

theorem Grows.poolPages (h : Grows d s c e) (hp : p < 8) : Machine.poolPages e p = Machine.poolPages c p := by
  unfold Machine.poolPages
  rw [h.pool p hp]

theorem poolRegion_of_regs (hplan : e.plan = c.plan) (hreg : reg e (key 0x6002 (p + 1)) = reg c (key 0x6002 (p + 1))) :
    poolRegion e p = poolRegion c p := by
  unfold poolRegion regionOf
  rw [hplan, hreg]

theorem Evicted.pool (h : Evicted c e) (hp : p < 8) : poolRegion e p = poolRegion c p :=
  poolRegion_of_regs h.plan (h.regs _ (by simp only [key]; omega))

theorem poolRank_of_diePools (h : diePools e = diePools c) : poolRank e = poolRank c := by
  unfold poolRank
  rw [h]

/-- Pages are had where a slot's block has an entry. -/
theorem kvPage_ne_none {i : Nat} : kvPage c d q s i ≠ none ↔
    ∃ b, dirSlot c s (poolRank c d q) (i / 64) = some b ∧ blockEntry c d b (i % 64) ≠ ones32 := by
  cases hb : dirSlot c s (poolRank c d q) (i / 64) with
  | none => simp [kvPage_none_of_slot hb]
  | some b => simp [kvPage_of_slot hb, pageOf_ne_none]

/-- Slots that stay, and entries that stay or are given, keep a session's pages. -/
theorem grows_of (hpool : ∀ p < 8, poolRegion e p = poolRegion c p)
    (hslot : ∀ rank j b, dirSlot c s rank j = some b → dirSlot e s rank j = some b)
    (hentry : ∀ b i, blockEntry c d b i ≠ ones32 → blockEntry e d b i ≠ ones32) : Grows d s c e := by
  refine ⟨hpool, fun q i hpage => ?_⟩
  obtain ⟨b, hb, hi⟩ := kvPage_ne_none.mp hpage
  exact kvPage_ne_none.mpr ⟨b, poolRank_of_diePools (diePools_of_pool hpool) ▸ hslot _ _ _ hb, hentry _ _ hi⟩

theorem Evicted.grows (h : Evicted c e) (d s : Nat) : Grows d s c e := by
  refine grows_of (fun _ => h.pool) (fun rank j b hb => ?_) (fun b i hi => ?_)
  · unfold dirSlot at hb ⊢
    rwa [h.dir]
  · unfold blockEntry blockAt at hi ⊢
    rwa [h.blocks]

theorem grows_setDir {rank slot : Nat} (h : dirSlot c s rank slot = none) (d b : Nat) : Grows d s c (setDir c s rank slot b) := by
  refine grows_of (fun _ _ => rfl) (fun rank' j b' hb => ?_) (fun b i hi => hi)
  rw [dirSlot_setDir_ne _ _ fun hkey => ?_]
  · exact hb
  · unfold dirSlot at h hb
    rw [hkey, h] at hb
    exact absurd hb (by simp)

theorem grows_setKvPage (hg : g ≠ ones32) : Grows d s c (setKvPage c d p s pi g) := by
  cases hb : dirSlot c s (poolRank c d p) (pi / 64) with
  | none =>
    rw [setKvPage, hb]
    exact Grows.refl d s c
  | some b =>
    rw [setKvPage_of_slot hb]
    refine grows_of (fun _ _ => rfl) (fun rank j b' h => h) (fun b' i hi => ?_)
    by_cases hsame : b' = b ∧ i = pi % 64
    · rw [hsame.1, hsame.2, blockEntry_setEntry_same]
      exact hg
    · rwa [blockEntry_setEntry_ne _ _ (not_and_or.mp hsame)]

theorem grows_takePage (c : Chip) (p page d s : Nat) : Grows d s c (takePage c p page) := by
  refine grows_of (fun _ _ => poolRegion_of_regs (paged_takePage c p page).plan ((paged_takePage c p page).reg _)) ?_ ?_
  · intro rank j b hb
    unfold dirSlot at hb ⊢
    rwa [takePage_srv]
  · intro b i hi
    unfold blockEntry blockAt at hi ⊢
    rwa [takePage_srv]

theorem kvPage_setKvPage_same (hslot : dirSlot c s (poolRank c d p) (pi / 64) ≠ none) :
    kvPage (setKvPage c d p s pi g) d p s pi = pageOf g := by
  obtain ⟨b, hb⟩ := Option.ne_none_iff_exists'.mp hslot
  have hslot' : dirSlot (setEntry c d b (pi % 64) g) s (poolRank (setEntry c d b (pi % 64) g) d p) (pi / 64) = some b := hb
  rw [setKvPage_of_slot hb, kvPage_of_slot hslot', blockEntry_setEntry_same]

/-- A slot that lacks a block gets one, or the allocation ends. -/
theorem needBlock_grows (c : Chip) (d s rank slot : Nat) (keep : Option Nat) :
    Grows d s c (needBlock c d s rank slot keep).1 ∧
      ((needBlock c d s rank slot keep).2.1 = true → dirSlot (needBlock c d s rank slot keep).1 s rank slot ≠ none) := by
  cases hb : dirSlot c s rank slot with
  | some b =>
    rw [needBlock_held hb]
    exact ⟨Grows.refl d s c, fun _ => by simp [hb]⟩
  | none =>
    have hevicted := evicted_findOrEvict (fun c => freeBlock c d) d keep c
    have hfind := fun n => find_findOrEvict (n := n) (fun c => freeBlock c d) d keep c
    unfold needBlock
    rw [hb]
    dsimp only
    generalize findOrEvict (fun c => freeBlock c d) d keep c = r at hevicted hfind ⊢
    obtain ⟨e, _ | b⟩ := r
    · exact ⟨hevicted.grows d s, fun h => absurd h Bool.false_ne_true⟩
    · have hnone : dirSlot e s rank slot = none := by
        unfold dirSlot at hb ⊢
        rwa [hevicted.dir]
      refine ⟨(hevicted.grows d s).trans (grows_setDir hnone d b), fun _ => ?_⟩
      rw [dirSlot_setDir_same _ _ _ _ (by have := freeBlock_lt (hfind b rfl); omega)]
      simp

/-- A page index gets a page, or the allocation ends. -/
theorem needPage_grows (hsize : ∀ q < 8, poolPages c q ≤ 2 ^ 20) (hp : p < 8) :
    Grows d s c (needPage c d s p pi t).1 ∧ ((needPage c d s p pi t).2.ok = true →
      t.ok = true ∧ kvPage (needPage c d s p pi t).1 d p s pi ≠ none) := by
  by_cases hok : t.ok = true
  · by_cases hlacks : kvPage c d p s pi = none
    · obtain ⟨hgrows, hslot⟩ := needBlock_grows c d s (poolRank c d p) (pi / 64) none
      generalize hblock : needBlock c d s (poolRank c d p) (pi / 64) none = r at hgrows hslot
      obtain ⟨f, _ | _, taken⟩ := r
      · rw [needPage_noBlock hok hlacks hblock]
        exact ⟨hgrows, fun h => absurd h Bool.false_ne_true⟩
      · have hevicted := evicted_findOrEvict (fun c => freePage c p) d none f
        have hfind := fun n => find_findOrEvict (n := n) (fun c => freePage c p) d none f
        generalize hpage : findOrEvict (fun c => freePage c p) d none f = r at hevicted hfind
        obtain ⟨r, _ | g⟩ := r
        · rw [needPage_noPage hok hlacks hblock hpage]
          exact ⟨hgrows.trans (hevicted.grows d s), fun h => absurd h Bool.false_ne_true⟩
        · have hgrows' := hgrows.trans (hevicted.grows d s)
          have hg : g ≠ ones32 := by
            have hlt := freePage_lt (hfind g rfl)
            have hle := hsize p hp
            rw [← hgrows'.poolPages hp] at hle
            simp only [ones32]
            omega
          have htaken := hgrows'.trans (grows_takePage r p g d s)
          rw [needPage_takes hok hlacks hblock hpage]
          refine ⟨htaken.trans (grows_setKvPage hg), fun _ => ⟨hok, ?_⟩⟩
          rw [kvPage_setKvPage_same, pageOf_ne_none]
          · exact hg
          · have hrank : poolRank (takePage r p g) = poolRank c := poolRank_of_diePools htaken.diePools
            have hdir : (takePage r p g).srv.dir = f.srv.dir := by rw [takePage_srv]; exact hevicted.dir
            rw [hrank]
            have hheld := hslot rfl
            unfold dirSlot at hheld ⊢
            rwa [hdir]
    · rw [needPage_has hlacks]
      exact ⟨Grows.refl d s c, fun h => ⟨h, hlacks⟩⟩
  · rw [needPage_over (Bool.not_eq_true _ ▸ hok)]
    exact ⟨Grows.refl d s c, fun h => absurd h hok⟩

/-! ## All pages of a session -/

/-- One page index, in each pool. -/
def needPool (d s pi : Nat) (x : Chip × Took) (p : Nat) : Chip × Took := needPage x.1 d s p pi x.2

/-- What a part of an allocation gives: pages only grow, and those it asks for are had unless it ended. -/
structure Given (d s : Nat) (asked : Nat → Nat → Prop) (x y : Chip × Took) : Prop where
  grows : Grows d s x.1 y.1
  ok : y.2.ok = true → x.2.ok = true
  had : y.2.ok = true → ∀ q i, asked q i → kvPage y.1 d q s i ≠ none

theorem Given.sizes {asked : Nat → Nat → Prop} {x y : Chip × Took} (h : Given d s asked x y)
    (hsize : ∀ q < 8, poolPages x.1 q ≤ 2 ^ 20) :
    ∀ q < 8, poolPages y.1 q ≤ 2 ^ 20 := fun q hq => (h.grows.poolPages hq).symm ▸ hsize q hq

theorem Given.trans {asked asked' : Nat → Nat → Prop} {x y z : Chip × Took} (h : Given d s asked x y) (h' : Given d s asked' y z) :
    Given d s (fun q i => asked q i ∨ asked' q i) x z :=
  ⟨h.grows.trans h'.grows, fun hok => h.ok (h'.ok hok), fun hok q i hasked =>
    hasked.elim (fun hfirst => h'.grows.keeps q i (h.had (h'.ok hok) q i hfirst)) (h'.had hok q i)⟩

theorem Given.mono {asked asked' : Nat → Nat → Prop} {x y : Chip × Took} (h : Given d s asked x y)
    (himp : ∀ q i, asked' q i → asked q i) :
    Given d s asked' x y := ⟨h.grows, h.ok, fun hok q i hasked => h.had hok q i (himp q i hasked)⟩

theorem given_needPool {x : Chip × Took} (hsize : ∀ q < 8, poolPages x.1 q ≤ 2 ^ 20) (hp : p < 8) :
    Given d s (fun q i => q = p ∧ i = pi) x (needPool d s pi x p) := by
  obtain ⟨hgrows, hhad⟩ := needPage_grows (d := d) (s := s) (pi := pi) (t := x.2) hsize hp
  refine ⟨hgrows, fun hok => (hhad hok).1, fun hok q i hq => ?_⟩
  rw [hq.1, hq.2]
  exact (hhad hok).2

theorem given_pools (ps : List Nat) : ∀ x : Chip × Took, (∀ q < 8, poolPages x.1 q ≤ 2 ^ 20) → (∀ p ∈ ps, p < 8) →
    Given d s (fun q i => q ∈ ps ∧ i = pi) x (ps.foldl (needPool d s pi) x) := by
  induction ps with
  | nil => exact fun x _ _ => ⟨Grows.refl d s x.1, id, fun _ _ _ h => absurd h.1 List.not_mem_nil⟩
  | cons p ps ih =>
    intro x hsize hps
    have hone := given_needPool (d := d) (s := s) (pi := pi) hsize (hps p List.mem_cons_self)
    refine (hone.trans (ih _ (hone.sizes hsize) fun q hq => hps q (List.mem_cons_of_mem _ hq))).mono ?_
    rintro q i ⟨hq, hi⟩
    exact (List.mem_cons.mp hq).imp (fun hq => ⟨hq, hi⟩) (fun hq => ⟨hq, hi⟩)

theorem given_indices {ps : List Nat} (hps : ∀ p ∈ ps, p < 8) (is : List Nat) : ∀ x : Chip × Took,
    (∀ q < 8, poolPages x.1 q ≤ 2 ^ 20) →
    Given d s (fun q i => q ∈ ps ∧ i ∈ is) x (is.foldl (fun x pi => ps.foldl (needPool d s pi) x) x) := by
  induction is with
  | nil => exact fun x _ => ⟨Grows.refl d s x.1, id, fun _ _ _ h => absurd h.2 List.not_mem_nil⟩
  | cons pi is ih =>
    intro x hsize
    have hone := given_pools (d := d) (s := s) (pi := pi) ps x hsize hps
    refine (hone.trans (ih _ (hone.sizes hsize))).mono ?_
    rintro q i ⟨hq, hi⟩
    exact (List.mem_cons.mp hi).imp (fun hi => ⟨hq, hi⟩) (fun hi => ⟨hq, hi⟩)

/-- The pages that an allocation asks for. -/
def askedPages (c : Chip) (s n : Nat) (t : Took) : Chip × Took :=
  (List.range (cdiv n (tau c))).foldl (fun x pi => (diePools c (s / 1024)).foldl (needPool (s / 1024) s pi) x) (c, t)

theorem ensurePages_eq (c : Chip) (s n : Nat) (t : Took) : ensurePages c s n t =
    if (askedPages c s n t).2.ok then ((askedPages c s n t).1, some (askedPages c s n t).2)
    else (giveBack (askedPages c s n t).1 (s / 1024) s (askedPages c s n t).2, none) := rfl

theorem ensurePages_had (hsize : ∀ q < 8, poolPages c q ≤ 2 ^ 20) (h : (ensurePages c s n t).2 = some u) :
    ∀ i < (n + tau c - 1) / tau c, ∀ q ∈ diePools c (s / 1024), kvPage (ensurePages c s n t).1 (s / 1024) q s i ≠ none := by
  have hgiven : Given (s / 1024) s (fun q i => q ∈ diePools c (s / 1024) ∧ i ∈ List.range (cdiv n (tau c))) (c, t)
      (askedPages c s n t) :=
    given_indices (fun _ => diePools_lt) _ _ hsize
  rw [ensurePages_eq] at h ⊢
  by_cases hok : (askedPages c s n t).2.ok = true
  · rw [if_pos hok]
    exact fun i hi q hq => hgiven.had hok q i ⟨hq, List.mem_range.mpr hi⟩
  · rw [if_neg hok] at h
    exact absurd h (by simp)

/-! ## A session is paused where pages are wanting -/

theorem testBit_setBit_same (x n : Nat) : (setBit x n).testBit n = true := by
  simp [setBit, Nat.testBit_two_pow_self]

theorem testBit_clearBit_same (x n : Nat) : (clearBit x n).testBit n = false := by
  unfold clearBit
  split
  · next h =>
    obtain ⟨y, rfl⟩ := Nat.exists_eq_add_of_le (Nat.ge_two_pow_of_testBit h)
    rw [Nat.testBit_two_pow_add_eq, Bool.not_eq_true'] at h
    rwa [Nat.add_sub_cancel_left]
  · next h => exact Bool.not_eq_true _ ▸ h

theorem flags_setPaused (c : Chip) (s : Nat) (p : Bool) : (sessAt (setPaused c s p) s).flags.testBit 3 = p := by
  rw [setPaused, sessAt_setSess_same]
  cases p with
  | false => exact testBit_clearBit_same ..
  | true => exact testBit_setBit_same ..

/-- What a session took before at a boundary. -/
def tookBefore (x : Alloc) (s : Nat) : Took :=
  match x.got.find? (fun y => y.1 == s) with
  | some y => y.2.2
  | none => Took.none

/-- What is left of an allocation's answer. -/
def allocEnd (x : Alloc) (s n : Nat) (r : Chip × Option Took) : Alloc :=
  match r.2 with
  | some t => { x with chip := setPaused r.1 s false, got := (s, n, t) :: x.got }
  | none => { x with chip := setPaused r.1 s true, failed := x.failed ++ [s] }

theorem allocFor_eq (x : Alloc) (s n k : Nat) :
    allocFor x s n k = allocEnd x s n (ensurePages x.chip s ((sessAt x.chip s).len + n + k) (tookBefore x s)) := rfl

theorem allocEnd_none (x : Alloc) {r : Chip × Option Took} (h : r.2 = none) :
    (allocEnd x s n r).failed = x.failed ++ [s] ∧ (sessAt (allocEnd x s n r).chip s).flags.testBit 3 = true := by
  rw [allocEnd, h]
  exact ⟨rfl, flags_setPaused ..⟩

theorem allocEnd_some (x : Alloc) {r : Chip × Option Took} (h : r.2 ≠ none) :
    (allocEnd x s n r).failed = x.failed ∧ (sessAt (allocEnd x s n r).chip s).flags.testBit 3 = false := by
  obtain ⟨u, hu⟩ := Option.ne_none_iff_exists'.mp h
  rw [allocEnd, hu]
  exact ⟨rfl, flags_setPaused ..⟩

/-! ## The lowest free page, with the lowest free frame -/

theorem ne_ones32_of_page (h : g < 2 ^ 20) : g ≠ ones32 := by
  simp only [ones32]
  omega

/-- What a session that lacks a page gets, its slot's block taken now or held. -/
theorem needPage_free (hok : t.ok = true) (hlacks : kvPage c d p s pi = none) (hpage : freePage c p = some g)
    (hblock : dirSlot c s (poolRank c d p) (pi / 64) = some b ∨
      dirSlot c s (poolRank c d p) (pi / 64) = none ∧ freeBlock c d = some b) :
    ∃ f taken, (f = c ∨ f = setDir c s (poolRank c d p) (pi / 64) b) ∧ dirSlot f s (poolRank c d p) (pi / 64) = some b ∧
      needPage c d s p pi t = (setEntry (takePage f p g) d b (pi % 64) g,
        { blockTook c d p pi taken t with pages := (p, pi) :: (blockTook c d p pi taken t).pages }) := by
  obtain ⟨f, taken, hf, hheld, hneed⟩ : ∃ f taken, (f = c ∨ f = setDir c s (poolRank c d p) (pi / 64) b) ∧
      dirSlot f s (poolRank c d p) (pi / 64) = some b ∧ needBlock c d s (poolRank c d p) (pi / 64) none = (f, true, taken) := by
    rcases hblock with hheld | ⟨hnone, hfree⟩
    · exact ⟨c, false, .inl rfl, hheld, needBlock_held hheld⟩
    · exact ⟨_, true, .inr rfl, dirSlot_setDir_same _ _ _ _ (by have := freeBlock_lt hfree; omega), needBlock_free hnone hfree⟩
  have hfree : freePage f p = some g := by
    rcases hf with rfl | rfl
    · exact hpage
    · exact hpage
  have hrank : poolRank (takePage f p g) d p = poolRank c d p := by
    rw [(paged_takePage f p g).poolRank]
    rcases hf with rfl | rfl
    · rfl
    · rfl
  have htaken : dirSlot (takePage f p g) s (poolRank (takePage f p g) d p) (pi / 64) = some b := by
    rw [hrank]
    unfold dirSlot at hheld ⊢
    rwa [takePage_srv]
  refine ⟨f, taken, hf, hheld, ?_⟩
  rw [needPage_takes hok hlacks hneed (findOrEvict_found hfree), setKvPage_of_slot htaken]

/-- 08 R237: the lowest free page, its frame, and the slot's block. -/
theorem needPage_free_rule (hok : t.ok = true) (hlacks : kvPage c d p s pi = none) (hpage : freePage c p = some g)
    (hg : g < 2 ^ 20)
    (hblock : dirSlot c s (poolRank c d p) (pi / 64) = some b ∨
      dirSlot c s (poolRank c d p) (pi / 64) = none ∧ freeBlock c d = some b) :
    let e := needPage c d s p pi t
    kvPage e.1 d p s pi = some g ∧ pageRefs e.1 p g = 1 ∧ dirSlot e.1 s (poolRank c d p) (pi / 64) = some b ∧
      (∀ k, k ≠ p * 2 ^ 20 + g → smGet 0 e.1.srv.refs k = smGet 0 c.srv.refs k) ∧
      pageAt (poolAt e.1 (poolNum c p)) g = (match freeFrames c (poolNum c p) with
        | f :: _ => { pageAt (poolAt c (poolNum c p)) g with frame := some f, dirty := false, heat := 0 }
        | [] => pageAt (poolAt c (poolNum c p)) g) ∧
      (∀ k, k ≠ g → pageAt (poolAt e.1 (poolNum c p)) k = pageAt (poolAt c (poolNum c p)) k) ∧ e.2.ok = true ∧
      e.2.pages = (p, pi) :: t.pages ∧ e.1.srv.sess = c.srv.sess ∧ e.1.srv.nodes = c.srv.nodes := by
  obtain ⟨f, taken, hf, hheld, hneed⟩ := needPage_free hok hlacks hpage hblock
  have hsrv : f.srv.refs = c.srv.refs ∧ f.srv.sess = c.srv.sess ∧ f.srv.nodes = c.srv.nodes := by
    rcases hf with rfl | rfl
    · exact ⟨rfl, rfl, rfl⟩
    · exact ⟨rfl, rfl, rfl⟩
  obtain ⟨hrefs, hsess, hnodes⟩ := hsrv
  have hpools : diePools f = diePools c ∧ poolNum f p = poolNum c p ∧ poolAt f = poolAt c ∧ freeFrames f = freeFrames c := by
    rcases hf with rfl | rfl
    · exact ⟨rfl, rfl, rfl, rfl⟩
    · exact ⟨rfl, rfl, rfl, rfl⟩
  obtain ⟨hdie, hnum, hpool, hframes⟩ := hpools
  have hslot : dirSlot (setEntry (takePage f p g) d b (pi % 64) g) s (poolRank c d p) (pi / 64) = some b := by
    unfold dirSlot at hheld ⊢
    rw [show (setEntry (takePage f p g) d b (pi % 64) g).srv.dir = (takePage f p g).srv.dir from rfl, takePage_srv]
    exact hheld
  have hrank : poolRank (setEntry (takePage f p g) d b (pi % 64) g) d p = poolRank c d p := by
    rw [((paged_takePage f p g).trans (paged_setEntry ..)).poolRank, poolRank_of_diePools hdie]
  have hrefs' : (setEntry (takePage f p g) d b (pi % 64) g).srv.refs = (setRefs f p g 1).srv.refs := by
    rw [show (setEntry (takePage f p g) d b (pi % 64) g).srv.refs = (takePage f p g).srv.refs from rfl, takePage_srv]
  dsimp only
  rw [hneed]
  refine ⟨?_, ?_, hslot, fun k hk => ?_, ?_, fun k hk => ?_, ?_, ?_, ?_, ?_⟩
  · rw [kvPage_of_slot (hrank.symm ▸ hslot), blockEntry_setEntry_same, pageOf, if_neg (ne_ones32_of_page hg)]
  · unfold pageRefs
    rw [hrefs']
    exact pageRefs_setRefs_same f p g 1
  · rw [hrefs', refs_setRefs_ne f 1 hk, hrefs]
  · rw [← hnum, ← hpool, ← hframes]
    exact pageAt_takePage_same ..
  · rw [← hnum, ← hpool]
    exact pageAt_takePage_ne _ _ hk
  · exact (blockTook_ok ..).trans hok
  · exact congrArg _ (blockTook_pages ..)
  · rw [show (setEntry (takePage f p g) d b (pi % 64) g).srv.sess = (takePage f p g).srv.sess from rfl, takePage_srv]
    exact hsess
  · rw [show (setEntry (takePage f p g) d b (pi % 64) g).srv.nodes = (takePage f p g).srv.nodes from rfl, takePage_srv]
    exact hnodes

/-- 08 R237: with nothing free and nothing to evict, the allocation ends. -/
theorem needPage_nothing (hok : t.ok = true) (hlacks : kvPage c d p s pi = none)
    (hheld : dirSlot c s (poolRank c d p) (pi / 64) ≠ none) (hpage : freePage c p = none) (hvictim : victim c d none = none) :
    (needPage c d s p pi t).1 = c ∧ (needPage c d s p pi t).2.ok = false := by
  obtain ⟨b, hb⟩ := Option.ne_none_iff_exists'.mp hheld
  rw [needPage_noPage hok hlacks (needBlock_held hb) (findOrEvict_nothing hpage hvictim)]
  exact ⟨rfl, rfl⟩

/-- 08 R234 R237 R238, 07 R213. -/
theorem pagesTaken : PagesTaken := by
  unfold PagesTaken
  intro c d s p pi first t hp
  refine ⟨fun _ hhas => needPage_has hhas, ?_, needPage_nothing, ?_, ?_, ?_, fun g => dropRef_rule c p g⟩
  · intro g b hok hlacks hpage hg hblock
    exact needPage_free_rule hok hlacks hpage hg hblock
  · exact fun n u hsize _ hsome => ensurePages_had hsize hsome
  · exact fun x n k => ⟨allocEnd_none x, allocEnd_some x⟩
  · exact fun hd hown hpi => kvPage_truncateKv hd hown hp hpi

end Sys2Proof.Proofs
end

section
/-! PROOFS. The tree of shared pages: walk, insertion, paths and the next eviction (08 R239 to R244). -/

namespace Sys2Proof.Proofs

open Sys2Proof Sys2Proof.Machine Sys2Proof.Claims Sys2Proof.Laws

variable {c e f : Chip} {d s p q i n m g b step cur : Nat} {k : List Byte}

/-! ## Nodes and references -/

@[simp] theorem nodeAt_setNode_same (c : Chip) (d n : Nat) (x : Node) : nodeAt (setNode c d n x) d n = x := smGet_smSet_same ..

theorem nodeAt_setNode_ne (c : Chip) (d : Nat) (x : Node) (h : m ≠ n) : nodeAt (setNode c d n x) d m = nodeAt c d m :=
  smGet_smSet_ne _ _ _ (by omega)

theorem nodeAt_of_nodes (h : e.srv.nodes = c.srv.nodes) (d m : Nat) : nodeAt e d m = nodeAt c d m := by
  unfold nodeAt
  rw [h]

theorem pageRefs_addRef_same (c : Chip) (p g : Nat) : pageRefs (addRef c p g) p g = (pageRefs c p g + 1) % 65536 :=
  pageRefs_setRefs_same ..

theorem pageRefs_addRef_ne (c : Chip) {g' : Nat} (hpool : q ≠ p) (hg : g < 2 ^ 20) (hg' : g' < 2 ^ 20) :
    pageRefs (addRef c p g) q g' = pageRefs c q g' :=
  smGet_smSet_ne _ _ _ (by omega)

/-! ## Pages of a node that a session shares -/

/-- A session takes a reference on a page of a pool, at a page index. -/
def sharePage (d s i : Nat) (c : Chip) (x : Nat × Nat) : Chip :=
  if x.2 = ones32 then c else setKvPage (addRef c x.1 x.2) d x.1 s i x.2

/-- Pools' slots for a page index hold blocks, none of them twice. -/
def SlotsHeld (c : Chip) (d s i : Nat) : Prop :=
  (∀ p ∈ diePools c d, dirSlot c s (poolRank c d p) (i / 64) ≠ none) ∧
  ∀ p ∈ diePools c d, ∀ q ∈ diePools c d, dirSlot c s (poolRank c d p) (i / 64) = dirSlot c s (poolRank c d q) (i / 64) → p = q

theorem sharePage_eq (hg : g < 2 ^ 20) (hb : dirSlot c s (poolRank c d p) (i / 64) = some b) :
    sharePage d s i c (p, g) = setEntry (addRef c p g) d b (i % 64) g := by
  rw [sharePage, if_neg (ne_ones32_of_page hg)]
  exact setKvPage_of_slot hb

/-- What sharing a page of one pool changes. -/
structure SharesPage (d s i p g : Nat) (c e : Chip) : Prop where
  paged : Paged c e
  dir : e.srv.dir = c.srv.dir
  nodes : e.srv.nodes = c.srv.nodes
  page : kvPage e d p s i = some g
  count : pageRefs e p g = (pageRefs c p g + 1) % 65536
  pages : ∀ q ∈ diePools c d, q ≠ p → kvPage e d q s i = kvPage c d q s i
  counts : ∀ q, q ≠ p → ∀ g' < 2 ^ 20, pageRefs e q g' = pageRefs c q g'

theorem sharesPage (hheld : SlotsHeld c d s i) (hp : p ∈ diePools c d) (hg : g < 2 ^ 20) :
    SharesPage d s i p g c (sharePage d s i c (p, g)) := by
  obtain ⟨hsome, hown⟩ := hheld
  obtain ⟨b, hb⟩ := Option.ne_none_iff_exists'.mp (hsome p hp)
  rw [sharePage_eq hg hb]
  have hslot : dirSlot (setEntry (addRef c p g) d b (i % 64) g) s (poolRank (setEntry (addRef c p g) d b (i % 64) g) d p)
      (i / 64) = some b := hb
  refine ⟨rfl, rfl, rfl, ?_, pageRefs_addRef_same c p g, fun q hq hne => kvPage_congr rfl rfl fun b' hb' => ?_, fun q hne g' hg' =>
    pageRefs_addRef_ne c hne hg hg'⟩
  · rw [kvPage_of_slot hslot, blockEntry_setEntry_same, pageOf, if_neg (ne_ones32_of_page hg)]
  · exact blockEntry_setEntry_ne _ _ (.inl fun heq => hne (hown q hq p hp (by rw [hb', hb, heq])))

theorem SharesPage.held (h : SharesPage d s i p g c e) (hheld : SlotsHeld c d s i) : SlotsHeld e d s i := by
  have hdir : dirSlot e = dirSlot c := by
    unfold dirSlot
    rw [h.dir]
  unfold SlotsHeld
  rwa [h.paged.diePools, h.paged.poolRank, hdir]

/-- What sharing the pages of several pools changes. -/
structure SharesPages (d s i : Nat) (l : List (Nat × Nat)) (c e : Chip) : Prop where
  paged : Paged c e
  nodes : e.srv.nodes = c.srv.nodes
  page : ∀ x ∈ l, kvPage e d x.1 s i = some x.2 ∧ pageRefs e x.1 x.2 = (pageRefs c x.1 x.2 + 1) % 65536
  others : ∀ q ∈ diePools c d, q ∉ l.map (·.1) →
    kvPage e d q s i = kvPage c d q s i ∧ ∀ g' < 2 ^ 20, pageRefs e q g' = pageRefs c q g'

theorem sharesPages (l : List (Nat × Nat)) : ∀ c, SlotsHeld c d s i → (∀ x ∈ l, x.1 ∈ diePools c d ∧ x.2 < 2 ^ 20) →
    (l.map (·.1)).Nodup →
    SharesPages d s i l c (l.foldl (sharePage d s i) c) := by
  induction l with
  | nil => exact fun c _ _ _ => ⟨Paged.refl c, rfl, fun _ h => absurd h List.not_mem_nil, fun _ _ _ => ⟨rfl, fun _ _ => rfl⟩⟩
  | cons x l ih =>
    intro c hheld hl hnodup
    obtain ⟨p, g⟩ := x
    rw [List.map_cons, List.nodup_cons] at hnodup
    obtain ⟨hnew, hnodup⟩ := hnodup
    obtain ⟨hp, hg⟩ := hl _ List.mem_cons_self
    have hone := sharesPage hheld hp hg
    have hrest := ih _ (hone.held hheld) (fun x hx => hone.paged.diePools.symm ▸ hl x (List.mem_cons_of_mem _ hx)) hnodup
    rw [List.foldl_cons]
    generalize sharePage d s i c (p, g) = e at hone hrest
    obtain ⟨hpaged, hnodes, hpage, hothers⟩ := hrest
    rw [hone.paged.diePools] at hothers
    refine ⟨hone.paged.trans hpaged, hnodes.trans hone.nodes, fun x hx => ?_, fun q hq hout => ?_⟩
    · rcases List.mem_cons.mp hx with rfl | hx
      · obtain ⟨hkeep, hcount⟩ := hothers p hp hnew
        exact ⟨hkeep.trans hone.page, (hcount g hg).trans hone.count⟩
      · have hne : x.1 ≠ p := fun heq => hnew (List.mem_map.mpr ⟨x, hx, heq⟩)
        obtain ⟨hgot, hcount⟩ := hpage x hx
        exact ⟨hgot, by rw [hcount, hone.counts x.1 hne x.2 (hl x (List.mem_cons_of_mem _ hx)).2]⟩
    · rw [List.map_cons, List.mem_cons, not_or] at hout
      obtain ⟨hkeep, hcount⟩ := hothers q hq hout.2
      exact ⟨hkeep.trans (hone.pages q hq hout.1), fun g' hg' => (hcount g' hg').trans (hone.counts q hout.1 g' hg')⟩

/-! ## The walk (08 R241) -/

theorem slotsHeld_of_blocks {bs : List Nat}
    (hslots : (diePools c d).map (fun p => dirSlot c s (poolRank c d p) (i / 64)) = bs.map some)
    (hnodup : bs.Nodup) : SlotsHeld c d s i := by
  refine ⟨fun p hp hnone => ?_, fun p hp q hq heq => ?_⟩
  · have hmem : dirSlot c s (poolRank c d p) (i / 64) ∈ bs.map some :=
      hslots ▸ List.mem_map_of_mem (f := fun p => dirSlot c s (poolRank c d p) (i / 64)) hp
    rw [hnone] at hmem
    simp at hmem
  · have hnodup' : ((diePools c d).map (fun p => dirSlot c s (poolRank c d p) (i / 64))).Nodup :=
      hslots ▸ hnodup.map (Option.some_injective _)
    exact List.inj_on_of_nodup_map hnodup' hp hq heq

/-- A slot that holds a block needs none. -/
theorem blocksFor_held {slot keep : Nat} (h : ∀ p ∈ diePools c d, dirSlot c s (poolRank c d p) slot ≠ none) :
    blocksFor c d s slot keep = (c, true) := by
  have hfold : ∀ ps : List Nat, (∀ p ∈ ps, p ∈ diePools c d) → ps.foldl (fun (x : Chip × Took) p =>
      if !x.2.ok then x
      else
        let rank := poolRank c d p
        let b := needBlock x.1 d s rank slot (some keep)
        (b.1, { x.2 with blocks := if b.2.2 then (rank, slot) :: x.2.blocks else x.2.blocks, ok := b.2.1 })) (c, Took.none) =
      (c, Took.none) := by
    intro ps
    induction ps with
    | nil => exact fun _ => rfl
    | cons p ps ih =>
      intro hps
      obtain ⟨b, hb⟩ := Option.ne_none_iff_exists'.mp (h p (hps p List.mem_cons_self))
      rw [List.foldl_cons]
      refine Eq.trans ?_ (ih fun q hq => hps q (List.mem_cons_of_mem _ hq))
      refine congrArg (List.foldl _ · ps) ?_
      dsimp only
      rw [needBlock_held hb]
      rfl
  unfold blocksFor
  rw [hfold _ fun _ hp => hp]
  rfl

theorem prefixWalk_miss (ks : List (List Byte)) (h : findChild c d cur k = none) :
    prefixWalk d s step (k :: ks) cur i c = (c, cur, i) := by
  rw [prefixWalk, h]

theorem prefixWalk_child (ks : List (List Byte)) (h : findChild c d cur k = some n)
    (hblocks : blocksFor c d s (i / 64) n = (c, true)) :
    prefixWalk d s step (k :: ks) cur i c = prefixWalk d s step ks n (i + 1)
      (((diePools c d).zip (nodeAt c d n).pages).foldl (sharePage d s i)
        (setNode c d n { nodeAt c d n with sharing := (nodeAt c d n).sharing + 1, used := step })) := by
  rw [prefixWalk, h]
  dsimp only
  rw [hblocks]
  rfl

/-- 08 R241: the child that holds the next key is shared with its pages, and marked used. -/
theorem prefixWalk_rule (ks : List (List Byte)) {bs : List Nat} (hchild : findChild c d cur k = some n)
    (hslots : (diePools c d).map (fun p => dirSlot c s (poolRank c d p) (i / 64)) = bs.map some) (hnodup : bs.Nodup)
    (hlen : (nodeAt c d n).pages.length = (diePools c d).length) (hpages : ∀ g ∈ (nodeAt c d n).pages, g < 2 ^ 20) :
    ∃ e, prefixWalk d s step (k :: ks) cur i c = prefixWalk d s step ks n (i + 1) e ∧
      nodeAt e d n = { nodeAt c d n with sharing := (nodeAt c d n).sharing + 1, used := step } ∧
      (∀ m, m ≠ n → nodeAt e d m = nodeAt c d m) ∧ e.srv.sess = c.srv.sess ∧ e.regs = c.regs ∧
      ∀ x ∈ (diePools c d).zip (nodeAt c d n).pages, kvPage e d x.1 s i = some x.2 ∧
        pageRefs e x.1 x.2 = (pageRefs c x.1 x.2 + 1) % 65536 := by
  have hheld := slotsHeld_of_blocks hslots hnodup
  have hshares := sharesPages (d := d) (s := s) (i := i) ((diePools c d).zip (nodeAt c d n).pages)
    (setNode c d n { nodeAt c d n with sharing := (nodeAt c d n).sharing + 1, used := step }) hheld
    (fun x hx => ⟨(List.of_mem_zip hx).1, hpages _ (List.of_mem_zip hx).2⟩)
    (by rw [List.map_fst_zip (by omega)]; exact nodup_diePools c d)
  refine ⟨_, prefixWalk_child ks hchild (blocksFor_held hheld.1), ?_, fun m hm => ?_, ?_, hshares.paged.regs, hshares.page⟩
  · rw [nodeAt_of_nodes hshares.nodes, nodeAt_setNode_same]
  · rw [nodeAt_of_nodes hshares.nodes, nodeAt_setNode_ne _ _ _ hm]
  · rw [hshares.paged]
    rfl

/-! ## Insertion (08 R242) -/

/-- References taken on pages of several pools. -/
theorem pageRefs_addRefs (l : List (Nat × Nat)) : ∀ c, (∀ x ∈ l, x.2 < 2 ^ 20) → (l.map (·.1)).Nodup →
    (∀ x ∈ l, pageRefs (l.foldl (fun c x => addRef c x.1 x.2) c) x.1 x.2 = (pageRefs c x.1 x.2 + 1) % 65536) ∧
    ∀ q, q ∉ l.map (·.1) → ∀ g' < 2 ^ 20, pageRefs (l.foldl (fun c x => addRef c x.1 x.2) c) q g' = pageRefs c q g' := by
  induction l with
  | nil => exact fun c _ _ => ⟨fun _ h => absurd h List.not_mem_nil, fun _ _ _ _ => rfl⟩
  | cons x l ih =>
    intro c hl hnodup
    rw [List.map_cons, List.nodup_cons] at hnodup
    obtain ⟨hnew, hnodup⟩ := hnodup
    have hx := hl x List.mem_cons_self
    obtain ⟨hin, hout⟩ := ih (addRef c x.1 x.2) (fun y hy => hl y (List.mem_cons_of_mem _ hy)) hnodup
    refine ⟨fun y hy => ?_, fun q hq g' hg' => ?_⟩
    · rcases List.mem_cons.mp hy with rfl | hy
      · exact (hout _ hnew _ hx).trans (pageRefs_addRef_same ..)
      · rw [List.foldl_cons, hin y hy, pageRefs_addRef_ne c (fun heq => hnew (List.mem_map.mpr ⟨y, hy, heq⟩)) hx
          (hl y (List.mem_cons_of_mem _ hy))]
    · rw [List.map_cons, List.mem_cons, not_or] at hq
      exact (hout q hq.2 g' hg').trans (pageRefs_addRef_ne c hq.1 hx hg')

theorem addRefs_nodes (l : List (Nat × Nat)) : ∀ c : Chip, (l.foldl (fun c x => addRef c x.1 x.2) c).srv.nodes = c.srv.nodes := by
  induction l with
  | nil => exact fun _ => rfl
  | cons x l ih => exact fun c => (ih _).trans rfl

theorem paged_addRefs (l : List (Nat × Nat)) (c : Chip) : Paged c (l.foldl (fun c x => addRef c x.1 x.2) c) :=
  paged_foldl (fun _ _ => paged_setRefs ..) l c

/-- The node of a completed page is the deepest of its session's path. -/
def placedNode (c : Chip) (s step : Nat) (k : List Byte) (n : Nat) (gs : List Nat) : Chip :=
  let x := sessAt c s
  let d := s / 1024
  let b := setNode c d n ⟨k, x.node, ones32, (nodeAt c d x.node).child, 1, step, gs, false⟩
  setNode b d x.node { nodeAt b d x.node with child := n }

theorem insertPage_inserts {pages : List Nat} (hkey : (sessAt c s).keys[i]? = some k)
    (hshares : (sessAt c s).flags.testBit 0 = true)
    (hdone : tau c * (i + 1) ≤ (sessAt c s).len) (hdepth : nodeDepth c (s / 1024) (sessAt c s).node = i)
    (hpages : (diePools c (s / 1024)).map (fun p => kvPage c (s / 1024) p s i) = pages.map some) (hsome : pages ≠ [])
    (hchild : findChild c (s / 1024) (sessAt c s).node k = none) (hfree : freeNode c (s / 1024) = some n) :
    insertPage c s i step =
      (setSess (((diePools c (s / 1024)).zip pages).foldl (fun c x => addRef c x.1 x.2) (placedNode c s step k n pages)) s
        { sessAt (((diePools c (s / 1024)).zip pages).foldl (fun c x => addRef c x.1 x.2) (placedNode c s step k n pages)) s with
          node := n }, true) := by
  have hfound : findOrEvict (fun c => freeNode c (s / 1024)) (s / 1024) none c = (c, some n) := findOrEvict_found hfree
  have hgets : (pages.map some).map (·.getD ones32) = pages := by simp [List.map_map, Function.comp_def]
  unfold insertPage
  dsimp only
  rw [hkey]
  dsimp only
  rw [if_neg (by
    simp only [bit, hshares, Bool.not_true, Bool.false_eq_true, false_or, not_or, not_not, Nat.not_lt]
    exact ⟨hdone, hdepth⟩), hpages, if_neg (by
    rw [hchild]
    simpa using hsome), hfound, hgets]
  rfl

/-- 08 R242: a completed page becomes a node below the deepest of its session's path. -/
theorem insertPage_rule {pages : List Nat} (hd : s / 1024 = d) (hkey : (sessAt c s).keys[i]? = some k)
    (hshares : (sessAt c s).flags.testBit 0 = true) (hdone : tau c * (i + 1) ≤ (sessAt c s).len)
    (hdepth : nodeDepth c d (sessAt c s).node = i) (hused : nodeUsed c d (sessAt c s).node = true)
    (hpages : (diePools c d).map (fun p => kvPage c d p s i) = pages.map some) (hsome : pages ≠ []) (hlt : ∀ g ∈ pages, g < 2 ^ 20)
    (hchild : findChild c d (sessAt c s).node k = none) (hfree : freeNode c d = some n) :
    let x := sessAt c s
    let e := insertPage c s i step
    e.2 = true ∧ sessAt e.1 s = { x with node := n } ∧ (∀ j, j ≠ s → sessAt e.1 j = sessAt c j) ∧
      nodeAt e.1 d n = ⟨k, x.node, 2 ^ 32 - 1, (nodeAt c d x.node).child, 1, step, pages, false⟩ ∧
      nodeAt e.1 d x.node = { nodeAt c d x.node with child := n } ∧
      (∀ m, m ≠ n → m ≠ x.node → nodeAt e.1 d m = nodeAt c d m) ∧
      ∀ y ∈ (diePools c d).zip pages, pageRefs e.1 y.1 y.2 = (pageRefs c y.1 y.2 + 1) % 65536 := by
  subst hd
  have hne : n ≠ (sessAt c s).node := by
    rintro rfl
    unfold freeNode at hfree
    have hunused := List.find?_some hfree
    rw [hused] at hunused
    exact absurd hunused (by simp)
  have hlen : (diePools c (s / 1024)).length = pages.length := by
    have := congrArg List.length hpages
    rwa [List.length_map, List.length_map] at this
  have hrefs := (pageRefs_addRefs ((diePools c (s / 1024)).zip pages) (placedNode c s step k n pages)
    (fun x hx => hlt _ (List.of_mem_zip hx).2) (by rw [List.map_fst_zip (by omega)]; exact nodup_diePools ..)).1
  have hpaged : Paged c (((diePools c (s / 1024)).zip pages).foldl (fun c x => addRef c x.1 x.2)
      (placedNode c s step k n pages)) :=
    (show Paged c (placedNode c s step k n pages) from rfl).trans (paged_addRefs ..)
  have hnodes : ∀ j, nodeAt (setSess (((diePools c (s / 1024)).zip pages).foldl (fun c x => addRef c x.1 x.2)
      (placedNode c s step k n pages)) s { sessAt (((diePools c (s / 1024)).zip pages).foldl (fun c x => addRef c x.1 x.2)
      (placedNode c s step k n pages)) s with node := n }) (s / 1024) j = nodeAt (placedNode c s step k n pages) (s / 1024) j :=
    fun j => nodeAt_of_nodes (addRefs_nodes _ _) _ _
  dsimp only
  rw [insertPage_inserts hkey hshares hdone hdepth hpages hsome hchild hfree]
  dsimp only
  refine ⟨rfl, ?_, fun j hj => ?_, ?_, ?_, fun j hj hj' => ?_, fun y hy => hrefs y hy⟩
  · rw [sessAt_setSess_same, hpaged.sess]
  · rw [sessAt_setSess_ne _ _ hj, hpaged.sess]
  · rw [hnodes, placedNode]
    dsimp only
    rw [nodeAt_setNode_ne _ _ _ hne, nodeAt_setNode_same]
    rfl
  · rw [hnodes, placedNode]
    dsimp only
    rw [nodeAt_setNode_same, nodeAt_setNode_ne _ _ _ hne.symm]
  · rw [hnodes, placedNode]
    dsimp only
    rw [nodeAt_setNode_ne _ _ _ hj', nodeAt_setNode_ne _ _ _ hj]

/-! ## The end of a path (08 R244) -/

/-- A session leaves a node. -/
def leaveNode (d : Nat) (c : Chip) (n : Nat) : Chip :=
  setNode c d n { nodeAt c d n with sharing := (nodeAt c d n).sharing - 1 }

theorem nodeAt_leaveNodes (path : List Nat) : ∀ c, path.Nodup → ∀ m, nodeAt (path.foldl (leaveNode d) c) d m =
    if m ∈ path then { nodeAt c d m with sharing := (nodeAt c d m).sharing - 1 } else nodeAt c d m := by
  induction path with
  | nil => exact fun c _ m => (if_neg List.not_mem_nil).symm
  | cons n path ih =>
    intro c hnodup m
    rw [List.nodup_cons] at hnodup
    rw [List.foldl_cons, ih _ hnodup.2]
    by_cases hm : m = n
    · subst hm
      rw [if_neg hnodup.1, if_pos List.mem_cons_self, leaveNode, nodeAt_setNode_same]
    · simp only [List.mem_cons, hm, false_or, leaveNode, nodeAt_setNode_ne c d _ hm]

/-! ## The next eviction (08 R243) -/

/-- A node may be evicted. -/
def Evictable (c : Chip) (d : Nat) (keep : Option Nat) (n : Nat) : Prop := nodeCached c d n = true ∧ keep ≠ some n

/-- One node is evicted before another. -/
def Before (c : Chip) (d v m : Nat) : Prop :=
  (nodeAt c d v).used < (nodeAt c d m).used ∨ (nodeAt c d v).used = (nodeAt c d m).used ∧ v ≤ m

theorem Before.refl (c : Chip) (d v : Nat) : Before c d v v := .inr ⟨rfl, le_rfl⟩

theorem Before.trans (h : Before c d n m) (h' : Before c d m q) : Before c d n q := by
  unfold Before at h h' ⊢
  omega

/-- One candidate, against the best so far. -/
def victimStep (c : Chip) (d : Nat) (keep best : Option Nat) (n : Nat) : Option Nat :=
  if nodeCached c d n ∧ keep ≠ some n then
    match best with
    | none => some n
    | some m => if (nodeAt c d n).used < (nodeAt c d m).used then some n else best
  else best

theorem victim_eq (c : Chip) (d : Nat) (keep : Option Nat) :
    victim c d keep = (treeNodes c d).foldl (victimStep c d keep) none := rfl

theorem victimStep_first {keep : Option Nat} (h : Evictable c d keep n) : victimStep c d keep none n = some n := if_pos h

theorem victimStep_next {keep : Option Nat} (h : Evictable c d keep n) :
    victimStep c d keep (some b) n = if (nodeAt c d n).used < (nodeAt c d b).used then some n else some b := if_pos h

theorem victimStep_pass {keep : Option Nat} (best : Option Nat) (h : ¬Evictable c d keep n) : victimStep c d keep best n = best :=
  if_neg h

/-- The best of some candidates: one of them, and before every one. -/
def BestOf (c : Chip) (d : Nat) (keep : Option Nat) (seen : List Nat) (best : Option Nat) : Prop :=
  (∀ v, best = some v → v ∈ seen ∧ Evictable c d keep v ∧ ∀ m ∈ seen, Evictable c d keep m → Before c d v m) ∧
  (best = none → ∀ m ∈ seen, ¬Evictable c d keep m)

theorem bestOf_step {keep best : Option Nat} {seen : List Nat} (h : BestOf c d keep seen best) (hafter : ∀ m ∈ seen, m < n) :
    BestOf c d keep (seen ++ [n]) (victimStep c d keep best n) := by
  obtain ⟨hbest, hnone⟩ := h
  by_cases hn : Evictable c d keep n
  · cases best with
    | none =>
      rw [victimStep_first hn]
      refine ⟨?_, fun h => absurd h (by simp)⟩
      rintro _ ⟨⟩
      refine ⟨by simp, hn, fun m hm hm' => ?_⟩
      rcases List.mem_append.mp hm with hm | hm
      · exact absurd hm' (hnone rfl m hm)
      · exact List.mem_singleton.mp hm ▸ Before.refl c d m
    | some b =>
      obtain ⟨hmem, hb, hfirst⟩ := hbest b rfl
      rw [victimStep_next hn]
      by_cases hlt : (nodeAt c d n).used < (nodeAt c d b).used
      · rw [if_pos hlt]
        refine ⟨?_, fun h => absurd h (by simp)⟩
        rintro _ ⟨⟩
        refine ⟨by simp, hn, fun m hm hm' => ?_⟩
        rcases List.mem_append.mp hm with hm | hm
        · exact Before.trans (.inl hlt) (hfirst m hm hm')
        · exact List.mem_singleton.mp hm ▸ Before.refl c d m
      · rw [if_neg hlt]
        refine ⟨?_, fun h => absurd h (by simp)⟩
        rintro _ ⟨⟩
        refine ⟨List.mem_append_left _ hmem, hb, fun m hm hm' => ?_⟩
        rcases List.mem_append.mp hm with hm | hm
        · exact hfirst m hm hm'
        · obtain rfl := List.mem_singleton.mp hm
          have := hafter b hmem
          unfold Before
          omega
  · rw [victimStep_pass best hn]
    refine ⟨fun v hv => ?_, fun hnil m hm => ?_⟩
    · obtain ⟨hmem, hv', hfirst⟩ := hbest v hv
      refine ⟨List.mem_append_left _ hmem, hv', fun m hm hm' => ?_⟩
      rcases List.mem_append.mp hm with hm | hm
      · exact hfirst m hm hm'
      · exact absurd (List.mem_singleton.mp hm ▸ hm') hn
    · rcases List.mem_append.mp hm with hm | hm
      · exact hnone hnil m hm
      · exact List.mem_singleton.mp hm ▸ hn

theorem bestOf_foldl {keep : Option Nat} (l : List Nat) : ∀ (seen : List Nat) (best : Option Nat), (seen ++ l).Pairwise (· < ·) →
    BestOf c d keep seen best → BestOf c d keep (seen ++ l) (l.foldl (victimStep c d keep) best) := by
  induction l with
  | nil => exact fun seen best _ h => (List.append_nil seen).symm ▸ h
  | cons n l ih =>
    intro seen best hrise h
    have hafter : ∀ m ∈ seen, m < n := fun m hm => (List.pairwise_append.mp hrise).2.2 m hm n List.mem_cons_self
    rw [List.append_cons] at hrise ⊢
    exact ih _ _ hrise (bestOf_step h hafter)

theorem bestOf_victim {keep : Option Nat} (hrise : (treeNodes c d).Pairwise (· < ·)) :
    BestOf c d keep (treeNodes c d) (victim c d keep) := by
  rw [victim_eq]
  exact bestOf_foldl (treeNodes c d) [] none hrise ⟨fun _ h => absurd h (by simp), fun _ _ h => absurd h List.not_mem_nil⟩

/-- 08 R239 to R244. -/
theorem prefixTree : PrefixTree := by
  unfold PrefixTree
  intro c d s step i cur k ks hd
  refine ⟨⟨rfl, prefixWalk_miss ks⟩, ?_, ?_, ?_, ?_⟩
  · exact fun n bs hchild hslots hnodup hlen hpages => prefixWalk_rule ks hchild hslots hnodup hlen hpages
  · exact fun n pages hkey hshares hdone hdepth hused hpages hsome hlt hchild hfree =>
      insertPage_rule hd hkey hshares hdone hdepth hused hpages hsome hlt hchild hfree
  · intro path hpath hnodup
    subst hd hpath
    exact nodeAt_leaveNodes _ c hnodup
  · intro keep v hrise hv
    obtain ⟨hmem, ⟨hcached, hkeep⟩, hfirst⟩ := (bestOf_victim hrise).1 v hv
    exact ⟨hmem, hcached, hkeep, fun m hm hcached' hkeep' => hfirst m hm ⟨hcached', hkeep'⟩⟩

end Sys2Proof.Proofs
end

section
/-! PROOFS. The next step's work, and the output records (08 R232 R233 R259 to R263). -/

namespace Sys2Proof.Proofs

open Sys2Proof Sys2Proof.Machine Sys2Proof.Claims Sys2Proof.Laws

variable {c d : Chip} {a b : List Byte} {o n k : Nat}

/-! ## Fields of bytes laid one after another -/

theorem field_leBytes (n x : Nat) (b : List Byte) : field (leBytes n x ++ b) 0 n = x % 256 ^ n := by
  rw [field, List.drop_zero, List.take_left' (length_leBytes n x), leNat_leBytes]

theorem drop_append_past (b : List Byte) (h : a.length ≤ o) : (a ++ b).drop o = b.drop (o - a.length) := by
  rw [List.drop_append, List.drop_eq_nil_of_le h, List.nil_append]

theorem field_append_right (b : List Byte) (h : a.length ≤ o) : field (a ++ b) o n = field b (o - a.length) n := by
  rw [field, field, drop_append_past b h]

theorem field_skip (k x : Nat) (b : List Byte) (h : k ≤ o) : field (leBytes k x ++ b) o n = field b (o - k) n := by
  rw [field_append_right b (by rwa [length_leBytes]), length_leBytes]

theorem field_append_left (b : List Byte) (h : o + n ≤ a.length) : field (a ++ b) o n = field a o n := by
  rw [field, field, List.drop_append_of_le_length (by omega), List.take_append_of_le_length (by rw [List.length_drop]; omega)]

theorem slice_append_right (b : List Byte) (h : a.length ≤ o) : slice (a ++ b) o n = slice b (o - a.length) n := by
  rw [slice, slice, drop_append_past b h]

theorem slice_skip (k x : Nat) (b : List Byte) (h : k ≤ o) : slice (leBytes k x ++ b) o n = slice b (o - k) n := by
  rw [slice_append_right b (by rwa [length_leBytes]), length_leBytes]

/-- A field within the first bytes of a slice. -/
theorem field_slice (b : List Byte) {m : Nat} (hin : o + n ≤ m) (hb : o + n ≤ b.length) :
    field (slice b 0 m) o n = field b o n := by
  have htake : field (b.take m) o n = field b o n := by
    rw [field, field, List.drop_take, List.take_take, Nat.min_eq_left (by omega)]
  unfold slice
  dsimp only
  rw [List.drop_zero, field_append_left _ (by rw [List.length_take]; omega), htake]

/-- A word of words laid one after another. -/
theorem field_flatMap_leBytes (w : Nat) (l : List Nat) :
    ∀ i < l.length, field (l.flatMap (leBytes w)) (w * i) w = l.getD i 0 % 256 ^ w := by
  induction l with
  | nil => exact fun i hi => absurd hi (Nat.not_lt_zero i)
  | cons x l ih =>
    intro i hi
    rw [List.flatMap_cons]
    cases i with
    | zero => exact field_leBytes w x _
    | succ i =>
      rw [field_skip w x _ (Nat.le_mul_of_pos_right w i.succ_pos), Nat.mul_succ, Nat.add_sub_cancel]
      exact ih i (Nat.lt_of_succ_lt_succ hi)

/-! ## The next step's work -/

/-- What a sharing of prefill tokens keeps. -/
structure TokensShared (want : Nat → Nat) (left : Nat) (ss : List Nat) (l : List (Nat × Nat)) : Prop where
  names : l.map (·.1) = ss.take l.length
  total : (l.map (·.2)).sum ≤ left
  each : ∀ x ∈ l, 0 < x.2 ∧ x.2 ≤ want x.1
  full : ∀ i, i + 1 < l.length → (l.getD i (0, 0)).2 = want (l.getD i (0, 0)).1
  stop : l.length < ss.length → (l.map (·.2)).sum = left ∨ want (ss.getD l.length 0) = 0

/-- The tokens that a session in prefill still wants. -/
def wantedTokens (c : Chip) (s : Nat) : Nat := (sessAt c s).plen - (sessAt c s).len

theorem shareTokens_cons (c : Chip) (left s : Nat) (ss : List Nat) : shareTokens c left (s :: ss) =
    if min (wantedTokens c s) left = 0 then []
    else if min (wantedTokens c s) left < wantedTokens c s then [(s, min (wantedTokens c s) left)]
    else (s, min (wantedTokens c s) left) :: shareTokens c (left - min (wantedTokens c s) left) ss := rfl

theorem tokensShared_nil {want : Nat → Nat} {left s : Nat} (ss : List Nat) (h : min (want s) left = 0) :
    TokensShared want left (s :: ss) [] := by
  refine ⟨rfl, Nat.zero_le left, fun x hx => absurd hx List.not_mem_nil, fun i hi => absurd hi (Nat.not_lt_zero _), fun _ => ?_⟩
  show 0 = left ∨ want s = 0
  omega

theorem tokensShared_last {want : Nat → Nat} {left s n : Nat} (ss : List Nat) (hn : n = left) (hpos : 0 < n) (hlt : n < want s) :
    TokensShared want left (s :: ss) [(s, n)] := by
  subst hn
  refine ⟨rfl, le_of_eq List.sum_singleton, fun x hx => ?_, fun i hi => ?_, fun _ => .inl List.sum_singleton⟩
  · rw [List.mem_singleton.mp hx]
    exact ⟨hpos, hlt.le⟩
  · simp only [List.length_singleton] at hi
    omega

theorem tokensShared_cons {want : Nat → Nat} {left s : Nat} {ss : List Nat} {l : List (Nat × Nat)} (hpos : 0 < want s)
    (hle : want s ≤ left) (h : TokensShared want (left - want s) ss l) : TokensShared want left (s :: ss) ((s, want s) :: l) := by
  obtain ⟨hnames, htotal, heach, hfull, hstop⟩ := h
  refine ⟨congrArg (s :: ·) hnames, ?_, fun x hx => ?_, fun i hi => ?_, fun hlen => ?_⟩
  · rw [List.map_cons, List.sum_cons]
    dsimp only
    omega
  · rcases List.mem_cons.mp hx with rfl | hx
    · exact ⟨hpos, le_rfl⟩
    · exact heach x hx
  · cases i with
    | zero => rfl
    | succ i => exact hfull i (Nat.lt_of_succ_lt_succ hi)
  · rw [List.map_cons, List.sum_cons]
    rcases hstop (Nat.lt_of_succ_lt_succ hlen) with hsum | hnone
    · left
      dsimp only
      omega
    · exact .inr hnone

/-- 08 R233: the tokens go to the sessions in order. -/
theorem tokensShared (c : Chip) (ss : List Nat) : ∀ left, TokensShared (wantedTokens c) left ss (shareTokens c left ss) := by
  induction ss with
  | nil => exact fun left => ⟨rfl, Nat.zero_le left, fun x hx => absurd hx List.not_mem_nil,
      fun i hi => absurd hi (Nat.not_lt_zero _),
      fun h => absurd h (Nat.lt_irrefl 0)⟩
  | cons s ss ih =>
    intro left
    rw [shareTokens_cons]
    by_cases hnone : min (wantedTokens c s) left = 0
    · rw [if_pos hnone]
      exact tokensShared_nil ss hnone
    · rw [if_neg hnone]
      by_cases hlt : min (wantedTokens c s) left < wantedTokens c s
      · rw [if_pos hlt]
        exact tokensShared_last ss (by omega) (by omega) hlt
      · rw [if_neg hlt, show min (wantedTokens c s) left = wantedTokens c s by omega]
        exact tokensShared_cons (by omega) (by omega) (ih _)

theorem dieWork_paused {e s : Nat} (failed : List Nat) (h : (sessAt c s).flags.testBit 3 = true) (w : Work) :
    (s, w) ∉ (dieWork c e failed).1 := by
  intro hmem
  obtain ⟨k, -, hk⟩ := List.mem_filterMap.mp hmem
  dsimp only at hk
  split at hk
  · exact absurd hk (by simp)
  · next hrun =>
    have hks : k = s := by
      split at hk
      · exact congrArg Prod.fst (Option.some.inj hk)
      · obtain ⟨y, -, hy⟩ := Option.map_eq_some_iff.mp hk
        exact congrArg Prod.fst hy
    rw [hks] at hrun
    exact hrun h

theorem dieWork_decode {e s : Nat} (failed : List Nat) (hs : s ∈ dieSessions c e) (hrun : (sessAt c s).flags.testBit 3 = false)
    (hst : (sessAt c s).st = 2) : (s, ⟨2, 1, workDepth c s, false, false⟩) ∈ (dieWork c e failed).1 := by
  refine List.mem_filterMap.mpr ⟨s, hs, ?_⟩
  dsimp only
  rw [if_neg (by rw [bit, hrun]; exact Bool.false_ne_true), if_pos hst]

theorem tableEntry_working (x : Sess) {w : Work} (first : Nat) (new : Bool) (h : w.kind = 1 ∨ w.kind = 2) :
    let b := tableEntry x w first new
    field b 0 1 = w.kind ∧
      field b 1 1 = (if w.final then 1 else 0) + (if w.k = 0 then 0 else 2) + (if x.flags.testBit 2 then 4 else 0) +
        (if new then 8 else 0) ∧
      field b 2 1 = x.adapter % 2 ^ 8 ∧ field b 3 1 = x.gens % 2 ^ 8 ∧ field b 4 4 = x.len % 2 ^ 32 ∧ field b 8 4 = w.c % 2 ^ 32 ∧
      field b 12 4 = (if w.kind = 2 then x.cur % 2 ^ 32 else 2 ^ 32 - 1) ∧
      field b 16 4 = (if w.kind = 1 then first % 2 ^ 32 else 2 ^ 32 - 1) ∧ field b 20 1 = w.k % 2 ^ 8 ∧
      allZero (slice b 21 11) = true := by
  have hkind : w.kind ≠ 0 := by omega
  dsimp only
  rw [tableEntry, if_neg hkind]
  simp only [List.append_assoc, field_leBytes, field_skip, slice_skip, Nat.reduceLeDiff, Nat.reduceSub, Nat.reducePow]
  refine ⟨by omega, ?_, trivial, trivial, trivial, trivial, ?_, ?_, trivial, by decide⟩
  · refine Nat.mod_eq_of_lt ?_
    have hfinal := ite_le_sup 1 0 (w.final = true)
    have hk := ite_le_sup 0 2 (w.k = 0)
    have hpoison := ite_le_sup 4 0 (bit x.flags 2 = true)
    have hnew := ite_le_sup 8 0 (new = true)
    omega
  · split <;> rfl
  · split <;> rfl

theorem length_tableEntry (x : Sess) (w : Work) (first : Nat) (new : Bool) : (tableEntry x w first new).length = 32 := by
  unfold tableEntry
  split
  · exact List.length_replicate
  · simp only [List.length_append, length_leBytes, List.length_replicate]

/-- 08 R232 R233. -/
theorem nextWork : NextWork := by
  unfold NextWork
  intro c left ss
  refine ⟨?_, fun e s failed hs => ⟨fun h => dieWork_paused failed h, fun hrun hst => dieWork_decode failed hs hrun hst⟩, ?_, ?_⟩
  · intro l want hl hwant
    obtain rfl : want = wantedTokens c := funext hwant
    subst hl
    obtain ⟨hnames, htotal, heach, hfull, hstop⟩ := tokensShared c ss left
    exact ⟨hnames, htotal, heach, hfull, hstop⟩
  · exact fun x w first new => ⟨length_tableEntry x w first new, fun h => if_pos h, fun h => tableEntry_working x first new h⟩
  · intro s pos tok last
    dsimp only
    unfold listEntry
    simp only [List.append_assoc, field_leBytes, field_skip, Nat.reduceLeDiff, Nat.reduceSub, Nat.reducePow]
    refine ⟨by simp only [List.length_append, length_leBytes], trivial, ?_, trivial, trivial, trivial, ?_⟩
    · split <;> rfl
    · rfl

/-! ## Output records -/

/-- 08 R260: the layout of a record. -/
theorem outBytes_fields (step : Nat) (r : OutRec) (h : r.toks.length ≤ 9) : let b := outBytes step r
    b.length = 64 ∧ field b 0 8 = r.tag % 2 ^ 64 ∧ field b 8 2 = r.s % 2 ^ 16 ∧ field b 10 1 = r.kind % 2 ^ 8 ∧
    field b 11 1 = r.toks.length ∧ field b 12 4 = r.pos % 2 ^ 32 ∧ field b 16 8 = step % 2 ^ 64 ∧
    (∀ i < r.toks.length, field b (24 + 4 * i) 4 = r.toks.getD i 0 % 2 ^ 32) ∧ field b 60 2 = r.status % 2 ^ 16 ∧
    field b 62 1 = (if r.poison then 1 else 0) ∧ field b 63 1 = 0 := by
  have hwords : (r.toks.flatMap (leBytes 4)).length = 4 * r.toks.length := by
    rw [List.length_flatMap]
    simp only [length_leBytes, List.map_const', List.sum_replicate, smul_eq_mul, Nat.mul_comm]
  have hend : ∀ o n (t : List Byte), 36 ≤ o → field (slice (r.toks.flatMap (leBytes 4)) 0 36 ++ t) o n = field t (o - 36) n :=
    fun o n t ho => (field_append_right t (by rwa [length_slice])).trans (by rw [length_slice])
  dsimp only
  unfold outBytes
  simp only [List.append_assoc]
  refine ⟨by simp only [List.length_append, length_leBytes, length_slice], ?_, ?_, ?_, ?_, ?_, ?_, fun i hi => ?_, ?_, ?_, ?_⟩
  case refine_7 =>
    simp (disch := omega) only [field_skip]
    rw [show 24 + 4 * i - 8 - 2 - 1 - 1 - 4 - 8 = 4 * i by omega, field_append_left _ (by rw [length_slice]; omega),
      field_slice _ (by omega) (by omega)]
    exact field_flatMap_leBytes 4 r.toks i hi
  case refine_4 =>
    simp only [field_skip, field_leBytes, Nat.reduceLeDiff, Nat.reduceSub]
    omega
  case refine_9 =>
    simp only [field_skip, hend, field_leBytes, Nat.reduceLeDiff, Nat.reduceSub]
    split <;> rfl
  case refine_10 =>
    simp only [field_skip, hend, Nat.reduceLeDiff, Nat.reduceSub]
    rfl
  all_goals simp only [field_skip, hend, field_leBytes, Nat.reduceLeDiff, Nat.reduceSub, Nat.reducePow]

/-! ## The ring -/

theorem ringRoom_iff (c : Chip) : ringRoom c = true ↔ hostBlocked c = false ∧
    (reg c (key 0x6040 5) + 2 ^ 32 - reg c (key 0x6040 4)) % 2 ^ 32 < reg c (key 0x6040 2) := by
  rw [ringRoom, Bool.and_eq_true, Bool.not_eq_true', decide_eq_true_iff]
  rfl

/-- A record in the ring is written, and the counts of records written and sent go up. -/
def ringWritten (c : Chip) (r : List Byte) : Chip :=
  addReg (setReg (emit c (.hostWrite (reg c (key 0x6040 1) + 64 * (reg c (key 0x6040 5) % reg c (key 0x6040 2))) r)) (key 0x6040 5)
    ((reg c (key 0x6040 5) + 1) % 2 ^ 32)) (key 0x6050 13) 1

theorem ringWrite_silent (r : List Byte) (h : reg c (key 0x6040 3) = 0) : ringWrite true c r = ringWritten c r := by
  have hstays : reg (ringWritten c r) (key 0x6040 3) = 0 := by
    rw [ringWritten, reg_addReg_ne _ _ (by decide), reg_setReg_ne _ _ (by decide)]
    exact h
  unfold ringWrite
  dsimp only
  exact if_neg fun hsignal => hsignal.1 hstays

theorem outPut_ring (r : List Byte) (hback : c.srv.backlog = []) (hroom : ringRoom c = true) :
    outPut c r = ringWrite true c r := by
  rw [outPut, hback, hroom]
  rfl

theorem outPut_back (r : List Byte) (h : c.srv.backlog ≠ [] ∨ ¬ringRoom c = true) (hlen : c.srv.backlog.length < 4096) :
    outPut c r = { c with srv := { c.srv with backlog := c.srv.backlog ++ [r] } } := by
  rw [outPut, if_neg, if_pos hlen]
  rw [Bool.and_eq_true, List.isEmpty_iff, not_and_or]
  exact h

theorem outPut_lost (r : List Byte) (h : 4096 ≤ c.srv.backlog.length) :
    outPut c r = report (addReg c (key 0x6050 14) 1) 0x0703 .modl .boundary [0, 1] := by
  rw [outPut, if_neg, if_neg (Nat.not_lt.mpr h)]
  rw [Bool.and_eq_true, List.isEmpty_iff]
  rintro ⟨hnil, -⟩
  rw [hnil] at h
  exact absurd h (by decide)

/-- 08 R261: a record to the ring, the backlog, or nowhere. -/
theorem outPut_rule (c : Chip) (r : List Byte) :
    let d := outPut c r
    let w := reg c (key 0x6040 5)
    let size := reg c (key 0x6040 2)
    let room := hostBlocked c = false ∧ (w + 2 ^ 32 - reg c (key 0x6040 4)) % 2 ^ 32 < size
    (c.srv.backlog = [] → room → reg c (key 0x6040 3) = 0 →
      d = { c with regs := d.regs, out := .hostWrite (reg c (key 0x6040 1) + 64 * (w % size)) r :: c.out } ∧
      reg d (key 0x6040 5) = (w + 1) % 2 ^ 32 ∧ reg d (key 0x6050 13) = (reg c (key 0x6050 13) + 1) % 2 ^ 64 ∧
      ∀ k, k ≠ key 0x6040 5 → k ≠ key 0x6050 13 → reg d k = reg c k) ∧
    (c.srv.backlog ≠ [] ∨ ¬room →
      (c.srv.backlog.length < 4096 → d = { c with srv := { c.srv with backlog := c.srv.backlog ++ [r] } }) ∧
      (4096 ≤ c.srv.backlog.length → d.srv = c.srv ∧ d.out = c.out ∧ gains c d [(key 0x6050 14, 1)] ∧
        noted c d 0x0703 .modl [0, 1])) := by
  dsimp only
  rw [← ringRoom_iff]
  refine ⟨fun hback hroom hsilent => ?_, fun h => ⟨outPut_back r h, fun hfull => ?_⟩⟩
  · rw [outPut_ring r hback hroom, ringWrite_silent r hsilent]
    refine ⟨rfl, ?_, ?_, fun k hk hk' => ?_⟩
    · rw [ringWritten, reg_addReg_ne _ _ (by decide)]
      exact reg_setReg_same ..
    · rw [ringWritten, reg_addReg_same, reg_setReg_ne _ _ (by decide)]
      rfl
    · rw [ringWritten, reg_addReg_ne _ _ hk', reg_setReg_ne _ _ hk]
      rfl
  · rw [outPut_lost r hfull]
    exact ⟨rfl, rfl, gains_addReg (gains_nil rfl) 1 List.not_mem_nil, ⟨_, rfl, rfl, rfl, rfl⟩⟩

/-! ## The records of a boundary, and the mirror (08 R262 R263) -/

theorem writeMirror_off (h : reg c (key 0x6040 6) = 0) : writeMirror c = c := if_pos h

theorem writeMirror_owed (h : reg c (key 0x6040 6) ≠ 0) (hblocked : hostBlocked c = true) :
    writeMirror c = { c with host := { c.host with mirrorOwed := true } } := by
  unfold writeMirror
  dsimp only
  rw [if_neg h, if_pos hblocked]

theorem writeMirror_written (h : reg c (key 0x6040 6) ≠ 0) (hfree : hostBlocked c = false) :
    writeMirror c = { c with
      host := { c.host with mirrorOwed := false }
      out := .hostWrite (reg c (key 0x6040 6)) (leBytes 4 (reg c (key 0x6040 5))) :: c.out } := by
  unfold writeMirror
  dsimp only
  rw [if_neg h, if_neg (by rw [hfree]; exact Bool.false_ne_true)]
  rfl

theorem flushOutputs_before {step : Nat} (l : List OutRec) (h : step < reg c (key 0xB011 6)) :
    flushOutputs step l c = writeMirror c := by
  rw [flushOutputs, if_pos h]

theorem flushOutputs_own {step : Nat} (l : List OutRec) (h : reg c (key 0xB011 6) ≤ step) :
    flushOutputs step l c = writeMirror
      ((l.filter (fun r => r.origin == ownLogical c)).foldl (fun c r => outPut c (outBytes step r)) c) := by
  rw [flushOutputs, if_neg (Nat.not_lt.mpr h)]

/-- 08 R259 to R263. -/
theorem outputRecords : OutputRecords := by
  unfold OutputRecords
  refine ⟨outBytes_fields, outPut_rule, fun c step l => ⟨flushOutputs_own l, flushOutputs_before l, writeMirror_off,
    writeMirror_owed, writeMirror_written⟩⟩

end Sys2Proof.Proofs
end

section
/-! PROOFS. What an engine's reads and writes of a region leave, and a chunk of a table (08 R229 R231 R251 R252). -/

namespace Sys2Proof.Proofs

open Sys2Proof Sys2Proof.Machine Sys2Proof.Claims Sys2Proof.Laws

variable {c d e : Chip}

/-! ## Reads and writes of an engine -/

/-- No granule is stored with an error, and none can be struck. -/
structure Unstruck (c : Chip) : Prop where
  calm : Calm c
  ecc : c.ecc = []

/-- An engine's access leaves the serving state but for the granules held, the number of the tables' region, and, where nothing is
struck, every entry. -/
structure EngKept (c d : Chip) : Prop where
  srv : d.srv = { c.srv with job := d.srv.job, tablesHeld := d.srv.tablesHeld }
  tables : svRegion d 6 = svRegion c 6
  rest : Unstruck c → Unstruck d ∧ d.regs = c.regs ∧ d.wts = c.wts

theorem EngKept.refl (c : Chip) : EngKept c c := ⟨rfl, rfl, fun h => ⟨h, rfl, rfl⟩⟩

theorem EngKept.trans (h : EngKept c d) (h' : EngKept d e) : EngKept c e := by
  refine ⟨by rw [h'.srv, h.srv], h'.tables.trans h.tables, fun hc => ?_⟩
  obtain ⟨hd, hregs, hwts⟩ := h.rest hc
  obtain ⟨he, hregs', hwts'⟩ := h'.rest hd
  exact ⟨he, hregs'.trans hregs, hwts'.trans hwts⟩

theorem engKept_foldl {α : Type} {step : Chip → α → Chip} (hstep : ∀ c a, EngKept c (step c a)) (l : List α) :
    ∀ c, EngKept c (l.foldl step c) := by
  induction l with
  | nil => exact fun c => EngKept.refl c
  | cons a l ih => exact fun c => (hstep c a).trans (ih _)

theorem onDieCheck_srv (c : Chip) (a : Nat) (w : When) : (onDieCheck c a w).srv = c.srv := by
  unfold onDieCheck
  split
  · split <;> rfl
  · rfl

theorem readGran_srv (c : Chip) (a : Nat) (w : When) (scrub : Bool) : (readGran c a w scrub).1.srv = c.srv := by
  unfold readGran
  dsimp only
  split
  · exact onDieCheck_srv ..
  · split <;> exact onDieCheck_srv c a w

theorem tables_onDieCheck (c : Chip) (a : Nat) (w : When) : svRegion (onDieCheck c a w) 6 = svRegion c 6 := by
  unfold onDieCheck
  split
  · split
    · exact (reg_addReg_ne _ _ (by decide)).trans rfl
    · rfl
  · rfl

/-- The counters of stored errors are not the number of the tables' region. -/
theorem eccSource_key (a mask : Nat) (scrub : Bool) : (eccSource a mask scrub).2.2.1 + 1 < key 0x6001 6 := by
  unfold eccSource
  dsimp only
  split
  · exact (by decide : key 0x4031 3 + 1 < key 0x6001 6)
  · exact (by decide : key 0x4031 5 + 1 < key 0x6001 6)
  · exact (by decide : key 0x4031 1 + 1 < key 0x6001 6)
  · exact (by decide : key 0x4031 7 + 1 < key 0x6001 6)
  · exact (by decide : key 0x4031 3 + 1 < key 0x6001 6)

theorem tables_addReg (c : Chip) (n : Nat) {k : Nat} (h : k < key 0x6001 6) : svRegion (addReg c k n) 6 = svRegion c 6 :=
  reg_addReg_ne c n (Nat.ne_of_gt h)

theorem tables_readGran (c : Chip) (a : Nat) (w : When) (scrub : Bool) : svRegion (readGran c a w scrub).1 6 = svRegion c 6 := by
  have hkey := eccSource_key a (markAt c (a / 64)).mask scrub
  unfold readGran
  dsimp only
  split
  · exact tables_onDieCheck ..
  · split
    · exact (tables_addReg (onDieCheck c a w) 1 hkey).trans (tables_onDieCheck c a w)
    · exact (tables_addReg (onDieCheck c a w) 1 (Nat.lt_of_succ_lt hkey)).trans (tables_onDieCheck c a w)

theorem readGran_unstruck (h : Unstruck c) (a : Nat) (w : When) (scrub : Bool) : (readGran c a w scrub).1 = c := by
  rw [readGran_clean w scrub (by rw [h.ecc]; rfl) h.calm.sound]

/-- A read of an engine. -/
structure EngReads (c d : Chip) : Prop where
  srv : d.srv = c.srv
  mem : d.mem = c.mem
  tables : svRegion d 6 = svRegion c 6
  calm : Unstruck c → d = c

theorem EngReads.refl (c : Chip) : EngReads c c := ⟨rfl, rfl, rfl, fun _ => rfl⟩

theorem EngReads.trans (h : EngReads c d) (h' : EngReads d e) : EngReads c e :=
  ⟨h'.srv.trans h.srv, h'.mem.trans h.mem, h'.tables.trans h.tables, fun hc => (h'.calm (h.calm hc ▸ hc)).trans (h.calm hc)⟩

theorem EngReads.kept (h : EngReads c d) : EngKept c d :=
  ⟨by rw [h.srv], h.tables, fun hc => by rw [h.calm hc]; exact ⟨hc, rfl, rfl⟩⟩

theorem engReads_seenLine (held : HeldLines) (c : Chip) (n l : Nat) : EngReads c (seenLine held c n l).1 := by
  have hgran : ∀ a, EngReads c (seenGran held c a).1 := by
    intro a
    unfold seenGran
    split
    · exact EngReads.refl c
    · exact ⟨readGran_srv .., readGran_mem .., tables_readGran .., fun hc => readGran_unstruck hc _ _ _⟩
  unfold seenLine
  split
  · exact hgran _
  · exact hgran _
  · exact EngReads.refl c
  · exact EngReads.refl c

/-- A list of reads, each from what the ones before left. -/
theorem engReads_foldl {α β : Type} (step : Chip × β → α → Chip × β) (hstep : ∀ y a, EngReads y.1 (step y a).1) (l : List α) :
    ∀ y : Chip × β, EngReads y.1 (l.foldl step y).1 := by
  induction l with
  | nil => exact fun y => EngReads.refl y.1
  | cons a l ih => exact fun y => (hstep y a).trans (ih _)

theorem engReads_seenLines (held : HeldLines) (c : Chip) (n l k : Nat) : EngReads c (seenLines held c n l k).1 := by
  refine engReads_foldl (β := List Byte × Bool) _ (fun y i => ?_) _ (c, [], false)
  exact engReads_seenLine held y.1 n (l + i)

theorem engReads_engRead (c : Chip) (n off len : Nat) : EngReads c (engRead c n off len).1 := by
  unfold engRead seenRead
  split
  · exact EngReads.refl c
  · exact engReads_seenLines [] c n _ _

theorem tables_spendInj (c : Chip) (j : Inject) : svRegion (spendInj c j) 6 = svRegion c 6 := by
  unfold spendInj
  split
  · exact reg_setReg_ne _ _ (show key 0x6001 6 ≠ key 0xF010 7 by decide)
  · exact reg_setReg_ne _ _ (show key 0x6001 6 ≠ key 0xF010 7 by decide)

theorem tables_markInjected (c : Chip) (a : Nat) (j : Inject) : svRegion (markInjected c a j) 6 = svRegion c 6 := by
  rw [markInjected_rest]
  rfl

theorem tables_writeGran (c : Chip) (a : Nat) (b : List Byte) (p : Bool) : svRegion (writeGran c a b p) 6 = svRegion c 6 := by
  unfold writeGran injectWrite
  split
  · exact (tables_markInjected ..).trans (tables_spendInj ..)
  · rfl

theorem engKept_writeGran (c : Chip) (a : Nat) (b : List Byte) (p : Bool) : EngKept c (writeGran c a b p) := by
  refine ⟨?_, tables_writeGran .., fun hc => ?_⟩
  · rw [writeGran, injectWrite_rest]
    rfl
  · rw [writeGran_calm a b p hc.calm.calm]
    refine ⟨⟨⟨?_, hc.calm.calm⟩, ?_⟩, rfl, rfl⟩
    · show List.filter _ c.flaws = []
      rw [hc.calm.sound]
      rfl
    · show smErase c.ecc (a / 64) = []
      rw [hc.ecc]
      rfl

theorem engKept_holdGran (c : Chip) (a : Nat) : EngKept c (holdGran c a) :=
  ⟨rfl, rfl, fun hc => ⟨⟨⟨hc.calm.sound, hc.calm.calm⟩, hc.ecc⟩, rfl, rfl⟩⟩

theorem engKept_soilPage (c : Chip) (rn page : Nat) : EngKept c (soilPage c rn page) := by
  unfold soilPage
  dsimp only
  split
  · exact ⟨rfl, rfl, fun hc => ⟨⟨⟨hc.calm.sound, hc.calm.calm⟩, hc.ecc⟩, rfl, rfl⟩⟩
  · exact EngKept.refl c

theorem engKept_engPut (c : Chip) (n l : Nat) (b : List Byte) (p : Bool) : EngKept c (engPut c n l b p) := by
  unfold engPut
  split
  · next as pg _ =>
    have hwrites := engKept_foldl (step := fun c a => writeGran (holdGran c a) a b p)
      (fun c a => (engKept_holdGran c a).trans (engKept_writeGran ..)) as c
    cases pg with
    | none => exact hwrites
    | some x => exact hwrites.trans (engKept_soilPage ..)
  · exact EngKept.refl c

theorem engKept_engPatch (c : Chip) (n off : Nat) (b : List Byte) : EngKept c (engPatch c n off b) := by
  unfold engPatch
  split
  · exact EngKept.refl c
  · exact engKept_foldl (fun c i => (engReads_seenLine [] c n _).kept.trans (engKept_engPut ..)) _ c

/-! ## A chunk of a table (08 R251 R252) -/

section
variable {st : Stage} {r : List Byte}

/-- Where a chunk's table stands in the region. -/
def chunkBase (c : Chip) (r : List Byte) : Nat :=
  if field r 0x12 1 = 1 then field r 0x13 1 * svRegion c 7 else 256 * svRegion c 7 + field r 0x13 1 * (sv c 2 / 8)

/-- The words of a chunk. -/
def chunkWords (st : Stage) (r : List Byte) : List Byte := slice st.words (4 * field r 4 4) (4 * field r 0x14 4)

/-- A chunk's words in place, its table not installed. -/
def chunkPut (c : Chip) (st : Stage) (r : List Byte) : Chip :=
  let put := engPatch c (svRegion c 6) (chunkBase c r + field r 0x18 4) (chunkWords st r)
  { put with srv := { put.srv with tables := nsErase put.srv.tables (tableNum (field r 0x12 1) (field r 0x13 1)) } }

/-- The image that a final chunk leaves. -/
def chunkImage (c : Chip) (st : Stage) (r : List Byte) : Chip × List Byte × Bool :=
  engRead (chunkPut c st r) (svRegion c 6) (chunkBase c r) (if field r 0x12 1 = 1 then svRegion c 7 else 0)

/-- A session uses the table of a chunk. -/
def TableUsed (c : Chip) (r : List Byte) : Prop :=
  ∃ x ∈ liveSessions c, (if field r 0x12 1 = 1 then x.2.gram else x.2.mask) = field r 0x13 1

/-- A chunk lies in the region. -/
def ChunkFits (c : Chip) (st : Stage) (r : List Byte) : Prop :=
  chunkBase c r + field r 0x18 4 + (chunkWords st r).length ≤ regionSize c (svRegion c 6)

theorem any_tableUsed (c : Chip) (r : List Byte) : (liveSessions c).any (fun x =>
    (if field r 0x12 1 = 1 then x.2.gram else x.2.mask) == field r 0x13 1) = true ↔ TableUsed c r := by
  simp only [List.any_eq_true, beq_iff_eq]
  rfl

theorem applyTable_used (h : TableUsed c r) : applyTable c st r = (c, 0x0205) := if_pos ((any_tableUsed c r).mpr h)

theorem applyTable_out (hfree : ¬TableUsed c r) (h : ¬ChunkFits c st r) : applyTable c st r = (c, 0x0206) := by
  unfold applyTable
  dsimp only
  rw [if_neg (mt (any_tableUsed c r).mp hfree)]
  exact if_pos (Nat.not_le.mp h)

section
variable (hfree : ¬TableUsed c r) (hfits : ChunkFits c st r)
include hfree hfits

/-- A chunk that may be written. -/
theorem applyTable_put : applyTable c st r =
    if !bit (field r 0x2F 1) 0 then (chunkPut c st r, 0)
    else if field r 0x12 1 = 2 ∨ grammarOk (chunkImage c st r).2.1 (svRegion c 7) (sv c 2) then
      ({ (chunkImage c st r).1 with srv := { (chunkImage c st r).1.srv with
        tables := nsInsert (chunkImage c st r).1.srv.tables (tableNum (field r 0x12 1) (field r 0x13 1)) } }, 0)
    else ((chunkImage c st r).1, 0x0207) := by
  unfold applyTable
  dsimp only
  rw [if_neg (mt (any_tableUsed c r).mp hfree)]
  have htables : svRegion (chunkPut c st r) 6 = svRegion c 6 :=
    (engKept_engPatch c (svRegion c 6) (chunkBase c r + field r 0x18 4) (chunkWords st r)).tables
  have himage : chunkImage c st r = engRead (chunkPut c st r) (svRegion (chunkPut c st r) 6) (chunkBase c r)
      (if field r 0x12 1 = 1 then svRegion c 7 else 0) := by
    rw [chunkImage, htables]
  rw [himage]
  exact if_neg (Nat.not_lt.mpr hfits)

theorem applyTable_part (h : ¬(field r 0x2F 1).testBit 0 = true) : applyTable c st r = (chunkPut c st r, 0) := by
  rw [applyTable_put hfree hfits, if_pos]
  rw [bit, eq_false_of_ne_true h]
  rfl

theorem applyTable_valid (h : (field r 0x2F 1).testBit 0 = true)
    (hok : field r 0x12 1 = 2 ∨ grammarOk (chunkImage c st r).2.1 (svRegion c 7) (sv c 2) = true) : applyTable c st r =
      ({ (chunkImage c st r).1 with srv := { (chunkImage c st r).1.srv with
        tables := nsInsert (chunkImage c st r).1.srv.tables (tableNum (field r 0x12 1) (field r 0x13 1)) } }, 0) := by
  rw [applyTable_put hfree hfits, if_neg (by rw [bit, h]; exact Bool.false_ne_true), if_pos hok]

theorem applyTable_bad (h : (field r 0x2F 1).testBit 0 = true)
    (hbad : ¬(field r 0x12 1 = 2 ∨ grammarOk (chunkImage c st r).2.1 (svRegion c 7) (sv c 2) = true)) :
    applyTable c st r = ((chunkImage c st r).1, 0x0207) := by
  rw [applyTable_put hfree hfits, if_neg (by rw [bit, h]; exact Bool.false_ne_true), if_neg hbad]

end

/-- A chunk's words are in memory, and its table is installed or not. -/
def Installed (c d : Chip) (st : Stage) (r : List Byte) (yes : Bool) : Prop :=
  d.srv.sess = c.srv.sess ∧ d.mem = (engPatch c (svRegion c 6) (chunkBase c r + field r 0x18 4) (chunkWords st r)).mem ∧
    ∀ k, nsMem d.srv.tables k = if k = tableNum (field r 0x12 1) (field r 0x13 1) then yes else nsMem c.srv.tables k

theorem installed_chunkPut (c : Chip) (st : Stage) (r : List Byte) : Installed c (chunkPut c st r) st r false := by
  have hsrv := (engKept_engPatch c (svRegion c 6) (chunkBase c r + field r 0x18 4) (chunkWords st r)).srv
  refine ⟨?_, rfl, fun k => ?_⟩
  · show (engPatch c (svRegion c 6) (chunkBase c r + field r 0x18 4) (chunkWords st r)).srv.sess = _
    rw [hsrv]
  · show nsMem (nsErase (engPatch c (svRegion c 6) (chunkBase c r + field r 0x18 4) (chunkWords st r)).srv.tables _) k = _
    rw [nsMem_nsErase, hsrv]
    by_cases hk : k = tableNum (field r 0x12 1) (field r 0x13 1)
    · rw [if_pos hk, hk, bne_self_eq_false, Bool.false_and]
    · rw [if_neg hk, bne_iff_ne.mpr hk, Bool.true_and]

theorem installed_chunkImage (c : Chip) (st : Stage) (r : List Byte) : Installed c (chunkImage c st r).1 st r false := by
  obtain ⟨hsess, hmem, htables⟩ := installed_chunkPut c st r
  have hreads := engReads_engRead (chunkPut c st r) (svRegion c 6) (chunkBase c r) (if field r 0x12 1 = 1 then svRegion c 7 else 0)
  rw [Installed, chunkImage, hreads.srv, hreads.mem]
  exact ⟨hsess, hmem, htables⟩

theorem installed_insert (h : Installed c d st r false) : Installed c { d with srv := { d.srv with
    tables := nsInsert d.srv.tables (tableNum (field r 0x12 1) (field r 0x13 1)) } } st r true := by
  obtain ⟨hsess, hmem, htables⟩ := h
  refine ⟨hsess, hmem, fun k => ?_⟩
  show nsMem (nsInsert d.srv.tables _) k = _
  rw [nsMem_nsInsert, htables]
  by_cases hk : k = tableNum (field r 0x12 1) (field r 0x13 1)
  · rw [if_pos hk, if_pos hk, hk, beq_self_eq_true, Bool.true_or]
  · rw [if_neg hk, if_neg hk, beq_eq_false_iff_ne.mpr hk, Bool.false_or]

end

/-- 08 R231 R251 R252. -/
theorem tableChunks : TableChunks := by
  unfold TableChunks
  intro c st r
  refine ⟨applyTable_used, applyTable_out, fun hfree hfits => ⟨fun hpart => ?_, fun hfinal hmask => ?_, fun hfinal hgram => ?_⟩⟩
  · rw [applyTable_part hfree hfits hpart]
    exact ⟨rfl, installed_chunkPut c st r⟩
  · rw [applyTable_valid hfree hfits hfinal (.inl hmask)]
    exact ⟨rfl, installed_insert (installed_chunkImage c st r)⟩
  · have himage : chunkImage c st r = engRead (chunkPut c st r) (svRegion c 6) (chunkBase c r) (svRegion c 7) := by
      rw [chunkImage, if_pos hgram]
    have hvalid : (chunkImage c st r).2.1 = (engRead (chunkPut c st r) (svRegion c 6) (chunkBase c r) (svRegion c 7)).2.1 := by
      rw [himage]
    refine ⟨fun hok => ?_, fun hbad => ?_⟩
    · rw [applyTable_valid hfree hfits hfinal (.inr (hvalid.symm ▸ hok))]
      exact ⟨rfl, installed_insert (installed_chunkImage c st r)⟩
    · rw [applyTable_bad hfree hfits hfinal (not_or.mpr ⟨by omega, hvalid.symm ▸ hbad⟩)]
      exact ⟨rfl, installed_chunkImage c st r⟩

end Sys2Proof.Proofs
end

section
/-! PROOFS. The admission of a request (08 R221 R230 R231 R260, 09 R268). -/

namespace Sys2Proof.Proofs

open Sys2Proof Sys2Proof.Machine Sys2Proof.Claims Sys2Proof.Laws

variable {c d e : Chip} {st : Stage} {r : List Byte} {step : Nat}

/-! ## Runs of the prompt store (08 R231) -/

/-- A run of lines is free. -/
def runFree (c : Chip) (p o : Nat) : Bool :=
  decide (o + cdiv p 16 ≤ regionSize c (svRegion c 5) / 64) &&
    c.srv.prompts.all (fun x => decide (o + cdiv p 16 ≤ x.1) || decide (x.1 + x.2 ≤ o))

/-- The lines where the lowest free run may begin. -/
def runStarts (c : Chip) : List Nat := sortBy (fun a b => decide (a < b)) (0 :: c.srv.prompts.map (fun x => x.1 + x.2))

theorem promptRun_eq (c : Chip) (p : Nat) : promptRun c p = (runStarts c).find? (runFree c p) := rfl

theorem runFree_iff (c : Chip) (p o : Nat) : runFree c p o = true ↔ freeRun c p o := by
  rw [runFree, Bool.and_eq_true, List.all_eq_true, decide_eq_true_iff]
  refine and_congr Iff.rfl (forall₂_congr fun x _ => ?_)
  rw [Bool.or_eq_true, decide_eq_true_iff, decide_eq_true_iff]
  rfl

theorem runStarts_rise (c : Chip) : (runStarts c).Pairwise (· ≤ ·) := sortBy_pairwise id _

theorem mem_runStarts {c : Chip} {o : Nat} : o ∈ runStarts c ↔ o = 0 ∨ ∃ x ∈ c.srv.prompts, x.1 + x.2 = o := by
  rw [runStarts, (sortBy_perm _ _).mem_iff, List.mem_cons, List.mem_map]

/-- The lowest free run begins at line 0 or at the end of a run in use. -/
theorem lowest_mem_runStarts {p line : Nat} (hfree : freeRun c p line) (hlow : ∀ o < line, ¬freeRun c p o) :
    line ∈ runStarts c := by
  rw [mem_runStarts, or_iff_not_imp_left]
  intro hpos
  obtain ⟨hfits, hclear⟩ := hfree
  have hbefore : ¬∀ x ∈ c.srv.prompts, line - 1 + (p + 15) / 16 ≤ x.1 ∨ x.1 + x.2 ≤ line - 1 := fun hall =>
    hlow (line - 1) (by omega) ⟨by omega, hall⟩
  push Not at hbefore
  obtain ⟨x, hx, hend, hstart⟩ := hbefore
  refine ⟨x, hx, ?_⟩
  have := hclear x hx
  omega

/-- In a rising list the lowest of all that pass is found. -/
theorem find_lowest {l : List Nat} {p : Nat → Bool} {x : Nat} (hrise : l.Pairwise (· ≤ ·)) (hx : x ∈ l) (hp : p x = true)
    (hlow : ∀ y < x, ¬p y = true) : l.find? p = some x := by
  induction l with
  | nil => exact absurd hx List.not_mem_nil
  | cons y l ih =>
    rw [List.pairwise_cons] at hrise
    by_cases hy : p y = true
    · have hle : y ≤ x := by
        rcases List.mem_cons.mp hx with rfl | hx
        · exact le_rfl
        · exact hrise.1 x hx
      rw [List.find?_cons_of_pos hy, Nat.le_antisymm hle (Nat.not_lt.mp fun hlt => hlow y hlt hy)]
    · rw [List.find?_cons_of_neg hy]
      refine ih hrise.2 ((List.mem_cons.mp hx).resolve_left ?_)
      rintro rfl
      exact hy hp

theorem promptRun_lowest {p line : Nat} (hfree : freeRun c p line) (hlow : ∀ o < line, ¬freeRun c p o) :
    promptRun c p = some line := by
  rw [promptRun_eq]
  exact find_lowest (runStarts_rise c) (lowest_mem_runStarts hfree hlow) ((runFree_iff ..).mpr hfree)
    fun y hy hok => hlow y hy ((runFree_iff ..).mp hok)

theorem promptRun_none {p : Nat} : (promptRun c p).isNone = true ↔ ¬∃ o, freeRun c p o := by
  refine ⟨fun hnone ⟨o, ho⟩ => ?_, fun hno => ?_⟩
  · classical
    have hex : ∃ o, freeRun c p o := ⟨o, ho⟩
    rw [promptRun_lowest (Nat.find_spec hex) (fun _ h => Nat.find_min hex h)] at hnone
    exact Bool.false_ne_true hnone
  · rw [promptRun_eq, Option.isNone_iff_eq_none, List.find?_eq_none]
    exact fun o _ hok => hno ⟨o, (runFree_iff ..).mp hok⟩

/-! ## The checks of a request (08 R230) -/

/-- A status is that of a list of checks: 0 where all hold, else what the first that fails gives. -/
structure StatusOf (n : Nat) (l : List (Prop × Nat × Nat)) : Prop where
  passes : (∀ x ∈ l, x.1) → n = 0
  fails : ∀ status, firstFails l status 0 → n = status ∧ status ≠ 0

theorem StatusOf.nil : StatusOf 0 [] := ⟨fun _ => rfl, fun _ h => absurd h (firstFails_nil _ _)⟩

theorem StatusOf.cons {p q : Prop} [Decidable q] {n code : Nat} {l : List (Prop × Nat × Nat)} (h : StatusOf n l) (hcode : code ≠ 0)
    (hq : q ↔ ¬p) : StatusOf (if q then code else n) ((p, code, 0) :: l) := by
  refine ⟨fun hall => ?_, fun status hfail => ?_⟩
  · obtain ⟨hp, hall⟩ := List.forall_mem_cons.mp hall
    rw [if_neg fun hq' => hq.mp hq' hp]
    exact h.passes hall
  · rcases firstFails_cons hfail with ⟨hp, heq⟩ | ⟨hp, hfail⟩
    · obtain ⟨rfl, -⟩ := Prod.mk.inj heq
      rw [if_pos (hq.mpr hp)]
      exact ⟨rfl, hcode⟩
    · rw [if_neg fun hq' => hq.mp hq' hp]
      exact h.fails status hfail

/-- A Live copy of a directory entry. -/
def LiveCopy (c : Chip) (e : Nat) : Prop := (wentry c e).a.st = .live ∨ (wentry c e).b.st = .live

theorem liveCopy_iff (c : Chip) (e : Nat) : (copyIn (wentry c e) .live).isSome = true ↔ LiveCopy c e := copyIn_isSome ..

/-- The checks of a request, in order. -/
def admitChecks (c : Chip) (r : List Byte) : List (Prop × Nat × Nat) :=
  [((sessAt c (field r 0x10 2)).st = 0, 0x0201, 0),
    (svRegion c 6 = 2 ^ 32 - 1 → field r 0x12 1 = 0xFF ∧ field r 0x13 1 = 0xFF, 0x0202, 0),
    ((field r 0x12 1 ≠ 0xFF → nsMem c.srv.tables (field r 0x12 1) = true) ∧
      (field r 0x13 1 ≠ 0xFF → nsMem c.srv.tables (256 + field r 0x13 1) = true), 0x0202, 0),
    (field r 0x2E 1 ≠ 0xFF → field r 0x2E 1 < 64 ∧ LiveCopy c (2 + field r 0x2E 1), 0x0203, 0),
    (∃ o, freeRun c (field r 0x14 4) o, 0x0204, 0)]

theorem statusOf_admitStatus (c : Chip) (r : List Byte) : StatusOf (admitStatus c r) (admitChecks c r) := by
  unfold admitStatus admitChecks
  refine ((((StatusOf.nil.cons (by decide) ?_).cons (by decide) ?_).cons (by decide) ?_).cons (by decide) ?_).cons (by decide) ?_
  · exact promptRun_none
  · rw [Option.isNone_iff_eq_none, ← Option.not_isSome_iff_eq_none, liveCopy_iff]
    have : ¬field r 0x2E 1 < 64 ↔ 64 ≤ field r 0x2E 1 := Nat.not_lt
    tauto
  · simp only [Bool.not_eq_true']
    rw [← Bool.not_eq_true, ← Bool.not_eq_true]
    tauto
  · show svRegion c 6 = 2 ^ 32 - 1 ∧ _ ↔ _
    tauto
  · rfl

/-- A refused request is counted and answered. -/
theorem admitRecord_refused (h : admitStatus c r ≠ 0) : admitRecord step c st r =
    (addReg c (key 0x6050 4) 1, [⟨st.origin, field r 8 8, field r 0x10 2, 3, [], 0, admitStatus c r, false⟩]) := by
  unfold admitRecord
  dsimp only
  generalize admitStatus c r = n at h ⊢
  cases n with
  | zero => exact absurd rfl h
  | succ n => rfl

/-! ## The copies that a request binds (09 R268) -/

/-- A directory entry with one use more. -/
def usedOnceMore (x : WEntry) : WEntry := { x with uses := min ones32 (x.uses + 1) }

theorem countUse_live {n : Nat} (h : LiveCopy c n) : countUse c n = setWentry c n (usedOnceMore (wentry c n)) :=
  if_pos ((liveCopy_iff c n).mpr h)

theorem countUse_other {n : Nat} (h : ¬LiveCopy c n) : countUse c n = c := if_neg (mt (liveCopy_iff c n).mp h)

theorem wentry_countUse_ne (c : Chip) {n k : Nat} (h : k ≠ n) : wentry (countUse c n) k = wentry c k := by
  by_cases hlive : LiveCopy c n
  · rw [countUse_live hlive, wentry_setWentry_ne _ _ h]
  · rw [countUse_other hlive]

theorem liveCopy_countUse_ne (c : Chip) {n k : Nat} (h : k ≠ n) : LiveCopy (countUse c n) k ↔ LiveCopy c k := by
  rw [LiveCopy, wentry_countUse_ne c h]
  rfl

theorem countUse_rest (c : Chip) (n : Nat) : countUse c n = { c with wts := (countUse c n).wts } := by
  unfold countUse
  split <;> rfl

theorem countUses_rest (l : List Nat) : ∀ c, l.foldl countUse c = { c with wts := (l.foldl countUse c).wts } := by
  induction l with
  | nil => exact fun _ => rfl
  | cons n l ih =>
    intro c
    rw [List.foldl_cons, ih]
    rw [countUse_rest c n]

theorem wentry_countUses_out {k : Nat} (l : List Nat) : ∀ c, k ∉ l → wentry (l.foldl countUse c) k = wentry c k := by
  induction l with
  | nil => exact fun _ _ => rfl
  | cons n l ih =>
    intro c hk
    rw [List.mem_cons, not_or] at hk
    exact (ih _ hk.2).trans (wentry_countUse_ne c hk.1)

theorem wentry_countUses_live {k : Nat} (l : List Nat) : ∀ c, l.Nodup → k ∈ l → LiveCopy c k →
    wentry (l.foldl countUse c) k = usedOnceMore (wentry c k) := by
  induction l with
  | nil => exact fun _ _ hk => absurd hk List.not_mem_nil
  | cons n l ih =>
    intro c hnodup hk hlive
    rw [List.nodup_cons] at hnodup
    rcases List.mem_cons.mp hk with rfl | hk
    · rw [List.foldl_cons, wentry_countUses_out l _ hnodup.1, countUse_live hlive, wentry_setWentry_same]
    · have hne : k ≠ n := fun heq => hnodup.1 (heq ▸ hk)
      rw [List.foldl_cons, ih _ hnodup.2 hk ((liveCopy_countUse_ne c hne).mpr hlive), wentry_countUse_ne c hne]

theorem wentry_countUses_dead {k : Nat} (l : List Nat) : ∀ c, ¬LiveCopy c k → wentry (l.foldl countUse c) k = wentry c k := by
  induction l with
  | nil => exact fun _ _ => rfl
  | cons n l ih =>
    intro c hdead
    by_cases hkn : k = n
    · subst hkn
      rw [List.foldl_cons, countUse_other hdead]
      exact ih c hdead
    · rw [List.foldl_cons, ih _ (mt (liveCopy_countUse_ne c hkn).mp hdead), wentry_countUse_ne c hkn]

/-- The entries whose copies a request binds. -/
def boundEntries (ad : Nat) : List Nat := [0, 1] ++ (if ad = 0xFF then [] else [2 + ad])

theorem nodup_boundEntries (ad : Nat) : (boundEntries ad).Nodup := by
  unfold boundEntries
  split
  · decide
  · have h0 : 0 ≠ 2 + ad := by omega
    have h1 : 1 ≠ 2 + ad := by omega
    simp [h0, h1]

theorem countUses_eq (c : Chip) (ad : Nat) : (boundEntries ad).foldl countUse c =
    if ad = 0xFF then countUse (countUse c 0) 1 else countUse (countUse (countUse c 0) 1) (2 + ad) := by
  unfold boundEntries
  split <;> rfl

/-- Copies bound: the generation and whether it is Live. -/
theorem bindGen_live (c : Chip) (n : Nat) : (bindGen c n).2 = true ↔ LiveCopy c n := by
  rw [← liveCopy_iff, bindGen]
  cases copyIn (wentry c n) .live <;> simp

/-! ## An accepted request -/

/-- Where the grammar's start state stands. -/
def startRead (c : Chip) (r : List Byte) : Chip × List Byte × Bool :=
  if field r 0x12 1 = 0xFF then (c, [], false) else engRead c (svRegion c 6) (field r 0x12 1 * svRegion c 7 + 0xC) 2

theorem startRead_unstruck (h : Unstruck c) (r : List Byte) : (startRead c r).1 = c := by
  unfold startRead
  split
  · rfl
  · exact (engReads_engRead ..).calm h

/-- The generations of the copies that a request binds. -/
def admitGens (c : Chip) (ad : Nat) : Nat :=
  (bindGen c 0).1 + 4 * (bindGen c 1).1 + 16 * (if ad = 0xFF then (0, false) else bindGen c (2 + ad)).1

/-- Which copies a request binds. -/
def admitBinds (c : Chip) (ad : Nat) : Nat :=
  (if (bindGen c 0).2 then 1 else 0) + (if (bindGen c 1).2 then 2 else 0) +
    (if (if ad = 0xFF then (0, false) else bindGen c (2 + ad)).2 then 4 else 0)

/-- The entry of an accepted request, before the walk of the tree. -/
def admitSess (step : Nat) (c : Chip) (st : Stage) (r : List Byte) (line seq : Nat) (start : List Byte)
    (keys : List (List Byte)) : Sess :=
  { Sess.free with
    st := 1, flags := field r 0x2F 1 % 4, gram := field r 0x12 1, mask := field r 0x13 1, origin := st.origin, tag := field r 8 8,
    seed := field r 0x18 8, admSeq := seq, plen := field r 0x14 4, pline := line, maxNew := field r 0x20 4,
    temp := field r 0x24 4, topp := field r 0x28 4, topk := field r 0x2C 2, gstate := field start 0 2, adapter := field r 0x2E 1,
    gens := admitGens c (field r 0x2E 1), stops := (List.range 4).map (fun i => field r (0x30 + 4 * i) 4), node := 0,
    admStep := step,
    binds := admitBinds c (field r 0x2E 1), keys := keys }

/-- The uses counted, the sequence number and the prompt's lines taken. -/
def admitTaken (c : Chip) (r : List Byte) (line : Nat) : Chip :=
  let b := if field r 0x2E 1 = 0xFF then countUse (countUse c 0) 1 else countUse (countUse (countUse c 0) 1) (2 + field r 0x2E 1)
  { b with srv := { b.srv with admSeq := m64 (b.srv.admSeq + 1), prompts := b.srv.prompts ++ [(line, cdiv (field r 0x14 4) 16)] } }

/-- The prompt's tokens. -/
def promptToks (st : Stage) (r : List Byte) : List Byte := slice st.words (4 * field r 4 4) (4 * field r 0x14 4)

/-- The prompt's tokens in their lines. -/
def admitPut (c : Chip) (st : Stage) (r : List Byte) (line : Nat) : Chip :=
  engPatch (admitTaken c r line) (svRegion (admitTaken c r line) 5) (64 * line) (promptToks st r)

/-- The walk of the tree for a request, and what it leaves of the request. -/
def admitWalk (step : Nat) (st : Stage) (r : List Byte) (x : Sess) (e : Chip) : Chip × List OutRec :=
  let s := field r 0x10 2
  let w := prefixWalk (s / 1024) s step x.keys 0 0 (setSess e s x)
  let reused := tau e * w.2.2
  let bad := pathBad w.1 (s / 1024) w.2.1
  let c := setSess w.1 s { x with
    node := w.2.1, reused := reused, len := reused, flags := if bad then setBit x.flags 2 else x.flags }
  (addReg (addReg c (key 0x6050 3) 1) (key 0x6050 7) reused, [⟨st.origin, field r 8 8, s, 4, [], reused, 0, bad⟩])

theorem admitRecord_accepted (h : admitStatus c r = 0) : admitRecord step c st r =
    let b := (startRead c r).1
    let line := (promptRun c (field r 0x14 4)).getD 0
    let keys := prefixKeys (tau b) (admitGens c (field r 0x2E 1)) (field r 0x2E 1) (promptToks st r) ((field r 0x14 4 - 1) / tau b)
    admitWalk step st r (admitSess step c st r line b.srv.admSeq (startRead c r).2.1 keys) (admitPut b st r line) := by
  unfold admitRecord
  dsimp only
  rw [h]
  rfl

/-- A prompt without a whole page to look for walks nowhere. -/
theorem admitWalk_short {x : Sess} (hkeys : x.keys = []) (hnode : x.node = 0) (hlen : x.len = 0) (hreused : x.reused = 0)
    (e : Chip) :
    admitWalk step st r x e =
      (addReg (addReg (setSess (setSess e (field r 0x10 2) x) (field r 0x10 2) x) (key 0x6050 3) 1) (key 0x6050 7) 0,
        [⟨st.origin, field r 8 8, field r 0x10 2, 4, [], 0, 0, false⟩]) := by
  have hwalk : ∀ d s c, prefixWalk d s step x.keys 0 0 c = (c, 0, 0) := fun d s c => by rw [hkeys]; rfl
  have hroot : ∀ c d, pathBad c d 0 = false := fun c d => rfl
  have hsess : ({ x with node := 0, reused := 0, len := 0, flags := x.flags } : Sess) = x := by
    cases x
    dsimp only at hnode hlen hreused
    rw [hnode, hlen, hreused]
  unfold admitWalk
  dsimp only
  rw [hwalk]
  dsimp only
  rw [hroot, Nat.mul_zero, if_neg Bool.false_ne_true, hsess]

/-! ## What an accepted request leaves -/

theorem admitTaken_rest (c : Chip) (r : List Byte) (line : Nat) : admitTaken c r line = { c with
    wts := (admitTaken c r line).wts
    srv := { c.srv with
      admSeq := (c.srv.admSeq + 1) % 2 ^ 64, prompts := c.srv.prompts ++ [(line, (field r 0x14 4 + 15) / 16)] } } := by
  have hcount := countUses_rest (boundEntries (field r 0x2E 1)) c
  rw [countUses_eq] at hcount
  unfold admitTaken
  dsimp only
  rw [hcount]
  rfl

theorem wentry_admitTaken (c : Chip) (r : List Byte) (line k : Nat) :
    wentry (admitTaken c r line) k = wentry ((boundEntries (field r 0x2E 1)).foldl countUse c) k := by
  rw [countUses_eq]
  rfl

/-- What an accepted request leaves of the chip. -/
structure Admitted (c e : Chip) (r : List Byte) (line : Nat) : Prop where
  regs : e.regs = c.regs
  seq : e.srv.admSeq = (c.srv.admSeq + 1) % 2 ^ 64
  prompts : e.srv.prompts = c.srv.prompts ++ [(line, (field r 0x14 4 + 15) / 16)]
  sess : e.srv.sess = c.srv.sess
  entries : ∀ k, wentry e k = wentry ((boundEntries (field r 0x2E 1)).foldl countUse c) k

theorem admitted_admitPut (h : Unstruck c) (st : Stage) (r : List Byte) (line : Nat) :
    Admitted c (admitPut c st r line) r line := by
  have htaken := admitTaken_rest c r line
  have hentries := wentry_admitTaken c r line
  unfold admitPut
  generalize admitTaken c r line = b at htaken hentries
  obtain ⟨hsrv, -, hrest⟩ := engKept_engPatch b (svRegion b 5) (64 * line) (promptToks st r)
  have hb : Unstruck b := by
    rw [htaken]
    exact ⟨⟨h.calm.sound, h.calm.calm⟩, h.ecc⟩
  obtain ⟨-, hregs, hwts⟩ := hrest hb
  refine ⟨hregs.trans ?_, ?_, ?_, ?_, fun k => ?_⟩
  · rw [htaken]
  · rw [hsrv, htaken]
  · rw [hsrv, htaken]
  · rw [hsrv, htaken]
  · rw [← hentries]
    unfold wentry
    rw [hwts]

/-- The entry of an accepted request in place, and the counters. -/
def admitDone (e : Chip) (s : Nat) (x : Sess) : Chip :=
  addReg (addReg (setSess (setSess e s x) s x) (key 0x6050 3) 1) (key 0x6050 7) 0

theorem admitDone_wentry (e : Chip) (s : Nat) (x : Sess) (k : Nat) : wentry (admitDone e s x) k = wentry e k := rfl

theorem admitDone_sess_same (e : Chip) (s : Nat) (x : Sess) : sessAt (admitDone e s x) s = x :=
    sessAt_setSess_same (setSess e s x) s x

theorem admitDone_sess_ne (e : Chip) (x : Sess) {s k : Nat} (h : k ≠ s) : sessAt (admitDone e s x) k = sessAt e k :=
  (sessAt_setSess_ne (setSess e s x) x h).trans (sessAt_setSess_ne e x h)

theorem gains_admitDone (h : e.regs = c.regs) (s : Nat) (x : Sess) :
    gains c (admitDone e s x) [(key 0x6050 3, 1), (key 0x6050 7, 0)] := by
  have hregs : (setSess (setSess e s x) s x).regs = c.regs := h
  have hfirst : gains c (addReg (setSess (setSess e s x) s x) (key 0x6050 3) 1) ([] ++ [(key 0x6050 3, 1)]) :=
    gains_addReg (gains_nil hregs) 1 List.not_mem_nil
  exact gains_addReg hfirst 0 (by decide)

/-- An accepted request whose prompt has no whole page to look for. -/
theorem admitRecord_short {line : Nat} (hc : Unstruck c) (hstatus : admitStatus c r = 0) (hshort : field r 0x14 4 ≤ tau c)
    (hrun : promptRun c (field r 0x14 4) = some line) : admitRecord step c st r =
      (admitDone (admitPut c st r line) (field r 0x10 2) (admitSess step c st r line c.srv.admSeq (startRead c r).2.1 []),
        [⟨st.origin, field r 8 8, field r 0x10 2, 4, [], 0, 0, false⟩]) := by
  have hkeys : (field r 0x14 4 - 1) / tau c = 0 := by
    rw [Nat.div_eq_zero_iff]
    omega
  rw [admitRecord_accepted hstatus]
  dsimp only
  rw [startRead_unstruck hc, hkeys, hrun]
  exact admitWalk_short rfl rfl rfl rfl _

theorem admitStart_eq (c : Chip) (r : List Byte) : field (startRead c r).2.1 0 2 =
    if field r 0x12 1 = 0xFF then 0 else field (engRead c (svRegion c 6) (field r 0x12 1 * svRegion c 7 + 0xC) 2).2.1 0 2 := by
  unfold startRead
  split <;> rfl

/-- The generation that a request takes of an entry: that of the Live copy, or the one last assigned. -/
theorem bindGen_eq (c : Chip) (n : Nat) : (bindGen c n).1 = match copyIn (wentry c n) .live with
    | some k => k.gen
    | none => (wentry c n).last := by
  unfold bindGen
  cases copyIn (wentry c n) .live <;> rfl

theorem admitGens_eq (c : Chip) (ad : Nat) : admitGens c ad = (bindGen c 0).1 + 4 * (bindGen c 1).1 +
    (if ad = 0xFF then 0 else 16 * (bindGen c (2 + ad)).1) := by
  unfold admitGens
  split <;> rfl

theorem admitBinds_eq (c : Chip) (ad : Nat) (live : Nat → Prop) [∀ n, Decidable (live n)] (h : ∀ n, live n ↔ LiveCopy c n) :
    admitBinds c ad = (if live 0 then 1 else 0) + 2 * (if live 1 then 1 else 0) +
      (if ad = 0xFF then 0 else 4 * (if live (2 + ad) then 1 else 0)) := by
  have hlive : ∀ n, (bindGen c n).2 = true ↔ live n := fun n => (bindGen_live c n).trans (h n).symm
  unfold admitBinds
  by_cases had : ad = 0xFF
  · rw [if_pos had, if_pos had]
    simp only [hlive, Bool.false_eq_true, if_false, mul_ite, Nat.mul_one, Nat.mul_zero]
  · rw [if_neg had, if_neg had]
    simp only [hlive, mul_ite, Nat.mul_one, Nat.mul_zero]

/-- 08 R221 R230 R231 R260, 09 R268. -/
theorem admissions : Admissions := by
  unfold Admissions
  intro c st r step hcalm hecc
  have hstatus := statusOf_admitStatus c r
  refine ⟨fun status hfail => ?_, fun hpass hshort line hfree hlow => ?_⟩
  · obtain ⟨heq, hne⟩ := hstatus.fails status hfail
    rw [admitRecord_refused (heq.symm ▸ hne), heq]
    exact ⟨gains_addReg (gains_nil rfl) 1 List.not_mem_nil, rfl, rfl, rfl⟩
  · rw [admitRecord_short ⟨hcalm, hecc⟩ (hstatus.passes hpass) hshort (promptRun_lowest hfree hlow)]
    have hadmitted := admitted_admitPut ⟨hcalm, hecc⟩ st r line
    generalize admitPut c st r line = e at hadmitted
    obtain ⟨hregs, hseq, hprompts, hsess, hentries⟩ := hadmitted
    intro gen one es
    refine ⟨rfl, gains_admitDone hregs _ _, hseq, hprompts, fun k hk => ?_, fun k _ => ?_, ?_⟩
    · refine (admitDone_sess_ne _ _ hk).trans ?_
      unfold sessAt
      rw [hsess]
    · refine (admitDone_wentry _ _ _ k).trans ((hentries k).trans ?_)
      by_cases hbound : k ∈ boundEntries (field r 0x2E 1) ∧ LiveCopy c k
      · exact (wentry_countUses_live _ c (nodup_boundEntries _) hbound.1 hbound.2).trans (if_pos hbound).symm
      · refine Eq.trans ?_ (if_neg hbound).symm
        rcases not_and_or.mp hbound with hout | hdead
        · exact wentry_countUses_out _ c hout
        · exact wentry_countUses_dead _ c hdead
    · have hgen : ∀ n, (bindGen c n).1 = gen n := bindGen_eq c
      have hgens : admitGens c (field r 0x2E 1) = gen 0 + 4 * gen 1 +
          (if field r 0x2E 1 = 0xFF then 0 else 16 * gen (2 + field r 0x2E 1)) := by
        rw [admitGens_eq, hgen, hgen, hgen]
      have hbinds : admitBinds c (field r 0x2E 1) = one 0 + 2 * one 1 +
          (if field r 0x2E 1 = 0xFF then 0 else 4 * one (2 + field r 0x2E 1)) :=
        admitBinds_eq c _ (fun n => (wentry c n).a.st = .live ∨ (wentry c n).b.st = .live) fun n => Iff.rfl
      refine (admitDone_sess_same ..).trans ?_
      rw [admitSess, hgens, hbinds, admitStart_eq]

/-! ## The serving actions of a boundary -/

/-- Settles O60: each part from the rules above, over every state and list. -/
theorem boundaryActions : Obligations.BoundaryActions :=
  ⟨resultsApplied, cancellations, switchesApplied, tableChunks, admissions, pagesTaken, prefixTree, nextWork, outputRecords⟩

end Sys2Proof.Proofs
end
